-- ==== Sys2Proof/Word.lean ====
section
/-! DEFINITION. Word types of the WN-L32 (spec 00 R1, R3; 03 R66) and keyed tables of plain data. -/
namespace Sys2Proof

/-- A byte of memory (R3). -/
abbrev Byte := BitVec 8
/-- A scalar register, a porter cell, a header, a trailer, an attention micro-operation (R3, R111). -/
abbrev Word64 := BitVec 64
/-- An instruction word or a trailing literal (R106, R114). -/
abbrev Word96 := BitVec 96
/-- A vector register: lane L is bits 32L+31:32L (R15, R91). -/
abbrev VReg := BitVec 4096
/-- A lane mask: bit L stands for lane L (R374). -/
abbrev LaneMask := BitVec 128

/-- A capability with its hidden tag bit (R66, R67). -/
structure Cap where
  tag  : Bool
  bits : BitVec 128
  deriving DecidableEq, Repr

/-- A table of plain data: a list of keys with their values. A key that is not listed has the table's default. -/
abbrev Tbl (α : Type) := List (Nat × α)

/-- The value a table gives a key; `d` where the key is not listed. -/
def Tbl.get {α : Type} (d : α) : Tbl α → Nat → α
  | [], _ => d
  | (k', v) :: t, k => if k = k' then v else Tbl.get d t k

/-- The table with one key's value replaced, in rising order of keys. -/
def Tbl.set {α : Type} : Tbl α → Nat → α → Tbl α
  | [], k, v => [(k, v)]
  | (k', v') :: t, k, v =>
    if k < k' then (k, v) :: (k', v') :: t
    else if k = k' then (k, v) :: t
    else (k', v') :: Tbl.set t k v

end Sys2Proof
end

