-- ==== Sys2Proof/Syntax.lean ====
section
/-! DEFINITION. The instructions, attention micro-operations and events of the WN-L32, one constructor for every row of
spec/opcode_table.json. An instruction word's constructor carries its guard (R106) and its body fields as they stand in
the word (R109, R110); a micro-operation's constructor carries its fields (R250); an event's constructor carries what
the unit or the outside party supplies. -/
namespace Sys2Proof

/-- A sequencer of a core: access or execute (R17). -/
inductive SeqId where
  | as | xs
  deriving DecidableEq, Repr

/-- Core class (R14, R26). -/
inductive CoreClass where
  | array | attention
  deriving DecidableEq, Repr

/-- The common fields of an instruction word but its opcode (R106): predicate, negate and gap. -/
structure Guard where
  p   : BitVec 4
  neg : BitVec 1
  gap : BitVec 7
  deriving DecidableEq, Repr

/-- What a Turntable message carries (R294, R296): a handle, the bytes of a tile with their poisoned granules (R87) and its
shape, or a value. -/
inductive Payload where
  | handle (c : Cap)
  | data (bytes : List Byte) (poison : List Nat) (fmt rows cols : Nat)
  | value (v : Word64)
  deriving DecidableEq, Repr

/-- A numbered message of the Turntable (R292, R294, R296). -/
structure Message where
  src      : Nat          -- source package
  dst      : Nat          -- destination package
  core     : Nat          -- source core
  part     : BitVec 5
  seq      : Nat          -- sequence number of the pair
  route    : Word64
  payload  : Payload
  flits    : Nat
  relay    : Option Nat   -- relay package of a relayed path
  deriving DecidableEq, Repr

/-- Operations a remote form asks of a peer (R294, R299). -/
inductive RemoteKind where
  | rld | rst | radd | rcas
  deriving DecidableEq, Repr

/-- A remote operation as it arrives at the package that performs it (R299, R300). -/
structure RemoteReq where
  src  : Nat              -- requesting package
  core : Nat
  syll : BitVec 25        -- syllable of the requesting word
  id   : Nat              -- the requester's number of the operation
  seq  : Nat
  part : BitVec 5
  kind : RemoteKind
  addr : BitVec 64        -- the capability's cursor (R299)
  v    : Word64
  w    : Word64
  deriving DecidableEq, Repr

/-- A freeze notice (R300): the core whose remote operation failed, its word, the address, and whether it was the partition's grant
that did not hold it. -/
structure Notice where
  core  : Nat
  syll  : BitVec 25
  addr  : Word64
  grant : Bool
  deriving DecidableEq, Repr

/-- A 64-byte service item (R286, R293, R295, R299-R303). -/
inductive ServiceItem where
  | ackOnly                                    -- a service flit that brings its counts alone
  | reply (id : Nat) (value : Word64)          -- a remote operation's reply
  | extended (id : Nat) (xg : Nat)             -- an extension made at a remote home
  | refused (id : Nat)                         -- an extension refused: XG is 254 (R74)
  | unique (id : Nat) (total : Nat)            -- a uniqueness query's answer
  | weight (part : BitVec 5) (base : Nat) (w : Nat) -- a weight return for the receiver's home
  | extend (part : BitVec 5) (base : Nat) (id : Nat)
  | query (part : BitVec 5) (base : Nat) (id : Nat)
  | toBlank (part : BitVec 5) (base : Nat)     -- DROP.B's conversion at a remote home
  | hopAck (src dst seq : Nat)                 -- a relayed message has reached its relay, or its destination from there (R293)
  | marker                                     -- a peer's drain marker
  | markerBack                                 -- the receiver's own drain marker, returned
  | returned (m : Message)                     -- a message the destination's core refused (R296, R297)
  | notice (n : Notice)
  deriving DecidableEq, Repr

/-- The grants the management cores write for one partition (R322). -/
structure GrantSet where
  hbm    : List (Nat × Nat)          -- physical base, length
  kv     : Option (Nat × Nat)        -- virtual base, length
  cells  : List (Nat × Nat)          -- porter index, count of cells
  system : Bool
  root   : Nat                       -- the page table's root physical address (R161)
  context : Nat × Nat                -- the context area: physical address, length; length 0: none (R216)
  deriving DecidableEq, Repr

/-- Registers of the host and management sides that have no event row of their own (R2, R316, R272, R275, R285). -/
inductive RegName where
  | pagingBase (vf : BitVec 5)                          -- BAR0 0x028
  | headIndex (vf : BitVec 5)                           -- BAR0 0x010, read-only
  | ingressSlot (pipe : BitVec 1) (slot : BitVec 6)     -- owner of an ingress slot (R272): bit 8 owned, bits 7:0 core
  | stageKind (pipe : BitVec 1) (stage : BitVec 4)      -- table kind of a stage (R275): bits 1:0
  | stageWindow (part : BitVec 5) (pipe : BitVec 1) (stage : BitVec 4) -- window of a partition: 31:16 base, 15:0 count
  | groupPackage                                        -- group package number (R285)
  | calendarEntry (port : BitVec 3) (slot : BitVec 4)   -- active calendar at boot (R287): bit 15 valid, 5:0 peer
  | slotCount                                           -- slots of the active calendar − 1 (R286)
  | hostMemory (vf : BitVec 5) (addr : BitVec 64)       -- the host's own write of 8 bytes of its memory
  | hbmWord (pa : BitVec 43)                            -- system software's write of 8 bytes of HBM (R165, R168)
  | cellWord (cell : BitVec 32)                         -- system software's write of a porter cell
  | freeBlock (part : BitVec 5) (stack : BitVec 6) (cls : BitVec 4) -- a free block of a list in an HBM stack (R62): its address
  | coreOwner (core : BitVec 8)                         -- a free core given to a partition at set-up: bit 5 owned, 4:0 partition
  | other (n : Nat)                                     -- any register the device does not have: the write is ignored
  deriving DecidableEq, Repr

/-- A relocation (R143). -/
structure Rela where
  target : Nat            -- section patched: 0 .stream.a, 1 .stream.x, 2 .cells
  offset : Nat            -- byte offset of the word, header or datum
  typ    : Nat
  sym    : Nat
  addend : Int
  deriving DecidableEq, Repr

/-- A symbol (R137). -/
structure Sym where
  typ   : Nat             -- 2 STT_FUNC (section), 1 STT_OBJECT, 13 cell, 14 token
  shndx : Nat             -- 0 undefined, 1 .stream.a, 2 .stream.x, 3 .geom, 4 .tiles, 5 .cells, 6 .sbox, 7 .amicro, 8 absolute
  value : Nat
  deriving DecidableEq, Repr

/-- A `.tiles` record: its four doublewords and its contents (R139). -/
structure TileRec where
  dw0 : Word64
  dw1 : Word64
  dw2 : Word64
  dw3 : Word64
  content : List Byte
  deriving DecidableEq, Repr

/-- A record that opens with two doublewords and goes on with doublewords: `.sbox`, `.amicro` (R137). -/
structure BlockRec where
  dw0 : Word64
  dw1 : Word64
  body : List Word64
  deriving DecidableEq, Repr

/-- An overlay image as the loader reads it: the ELF header fields of R136 and the sections of R137. -/
structure OverlayImage where
  eiClass  : Nat
  eiData   : Nat
  eMachine : Nat
  eType    : Nat
  eFlags   : BitVec 32
  eEntry   : Word64
  streamA  : List (BitVec 32)
  streamX  : List (BitVec 32)
  looptab  : List (List Word64)
  geom     : List (List Word64)        -- 12 doublewords each (R138)
  tiles    : List TileRec
  cells    : List (Word64 × Word64)
  sbox     : List BlockRec
  amicro   : List BlockRec
  needs    : List (Word64 × Word64)
  trailer  : Word64
  symbols  : List Sym
  relas    : List Rela
  deriving DecidableEq, Repr

/-- A boot image as fetched (R319): its bytes. -/
structure BootImage where
  bytes : List Byte
  deriving DecidableEq, Repr

/-- One row of spec/opcode_table.json each. -/
inductive Instr where
  /-- NOP: R376. -/
  | nop (g : Guard)
  /-- HALT: R357. -/
  | halt (g : Guard)
  /-- TRAP_SW: R309. -/
  | trapSw (g : Guard) (imm : BitVec 48)
  /-- RFT: R212. -/
  | rft (g : Guard)
  /-- SYSR: R397. -/
  | sysr (g : Guard) (d : BitVec 6) (reg : BitVec 8)
  /-- SYSW: R397. -/
  | sysw (g : Guard) (a : BitVec 6) (reg : BitVec 8)
  /-- OVLY_N: R377. -/
  | ovlyN (g : Guard) (imm : BitVec 48)
  /-- OVLY_S: R377. -/
  | ovlyS (g : Guard) (a : BitVec 6)
  /-- CARDONE: R345. -/
  | cardone (g : Guard)
  /-- DLAUNCH_P: R348. -/
  | dlaunchP (g : Guard) (d : BitVec 6) (a : BitVec 6)
  /-- TRACE_TS: R406. -/
  | traceTs (g : Guard)
  /-- TRACE_BR: R406. -/
  | traceBr (g : Guard)
  /-- SALU_ADD: R124. -/
  | saluAdd (g : Guard) (d : BitVec 6) (a : BitVec 6) (b : BitVec 6)
  /-- SALU_SUB: R124. -/
  | saluSub (g : Guard) (d : BitVec 6) (a : BitVec 6) (b : BitVec 6)
  /-- SALU_AND: R124. -/
  | saluAnd (g : Guard) (d : BitVec 6) (a : BitVec 6) (b : BitVec 6)
  /-- SALU_OR: R124. -/
  | saluOr (g : Guard) (d : BitVec 6) (a : BitVec 6) (b : BitVec 6)
  /-- SALU_XOR: R124. -/
  | saluXor (g : Guard) (d : BitVec 6) (a : BitVec 6) (b : BitVec 6)
  /-- SALU_ANDN: R124. -/
  | saluAndn (g : Guard) (d : BitVec 6) (a : BitVec 6) (b : BitVec 6)
  /-- SALU_SHL: R124. -/
  | saluShl (g : Guard) (d : BitVec 6) (a : BitVec 6) (b : BitVec 6)
  /-- SALU_SHR: R124. -/
  | saluShr (g : Guard) (d : BitVec 6) (a : BitVec 6) (b : BitVec 6)
  /-- SALU_SAR: R124. -/
  | saluSar (g : Guard) (d : BitVec 6) (a : BitVec 6) (b : BitVec 6)
  /-- SALU_ROL: R124. -/
  | saluRol (g : Guard) (d : BitVec 6) (a : BitVec 6) (b : BitVec 6)
  /-- SALU_MIN: R124. -/
  | saluMin (g : Guard) (d : BitVec 6) (a : BitVec 6) (b : BitVec 6)
  /-- SALU_MAX: R124. -/
  | saluMax (g : Guard) (d : BitVec 6) (a : BitVec 6) (b : BitVec 6)
  /-- SALU_MINU: R124. -/
  | saluMinu (g : Guard) (d : BitVec 6) (a : BitVec 6) (b : BitVec 6)
  /-- SALU_MAXU: R124. -/
  | saluMaxu (g : Guard) (d : BitVec 6) (a : BitVec 6) (b : BitVec 6)
  /-- SALU_MUL: R124. -/
  | saluMul (g : Guard) (d : BitVec 6) (a : BitVec 6) (b : BitVec 6)
  /-- SALU_MULH: R124. -/
  | saluMulh (g : Guard) (d : BitVec 6) (a : BitVec 6) (b : BitVec 6)
  /-- SALU_MULHU: R124. -/
  | saluMulhu (g : Guard) (d : BitVec 6) (a : BitVec 6) (b : BitVec 6)
  /-- SALU_SEQ: R124. -/
  | saluSeq (g : Guard) (d : BitVec 6) (a : BitVec 6) (b : BitVec 6)
  /-- SALU_SNE: R124. -/
  | saluSne (g : Guard) (d : BitVec 6) (a : BitVec 6) (b : BitVec 6)
  /-- SALU_SLT: R124. -/
  | saluSlt (g : Guard) (d : BitVec 6) (a : BitVec 6) (b : BitVec 6)
  /-- SALU_SLTU: R124. -/
  | saluSltu (g : Guard) (d : BitVec 6) (a : BitVec 6) (b : BitVec 6)
  /-- SALU_SEL: R124. -/
  | saluSel (g : Guard) (d : BitVec 6) (a : BitVec 6) (b : BitVec 6) (c : BitVec 6)
  /-- SALU_CLZ: R124. -/
  | saluClz (g : Guard) (d : BitVec 6) (a : BitVec 6)
  /-- SALU_CTZ: R124. -/
  | saluCtz (g : Guard) (d : BitVec 6) (a : BitVec 6)
  /-- SALU_POP: R124. -/
  | saluPop (g : Guard) (d : BitVec 6) (a : BitVec 6)
  /-- SALUI_ADD: R388. -/
  | saluiAdd (g : Guard) (d : BitVec 6) (a : BitVec 6) (imm : BitVec 48)
  /-- SALUI_SUB: R388. -/
  | saluiSub (g : Guard) (d : BitVec 6) (a : BitVec 6) (imm : BitVec 48)
  /-- SALUI_AND: R388. -/
  | saluiAnd (g : Guard) (d : BitVec 6) (a : BitVec 6) (imm : BitVec 48)
  /-- SALUI_OR: R388. -/
  | saluiOr (g : Guard) (d : BitVec 6) (a : BitVec 6) (imm : BitVec 48)
  /-- SALUI_XOR: R388. -/
  | saluiXor (g : Guard) (d : BitVec 6) (a : BitVec 6) (imm : BitVec 48)
  /-- SALUI_ANDN: R388. -/
  | saluiAndn (g : Guard) (d : BitVec 6) (a : BitVec 6) (imm : BitVec 48)
  /-- SALUI_SHL: R388. -/
  | saluiShl (g : Guard) (d : BitVec 6) (a : BitVec 6) (imm : BitVec 48)
  /-- SALUI_SHR: R388. -/
  | saluiShr (g : Guard) (d : BitVec 6) (a : BitVec 6) (imm : BitVec 48)
  /-- SALUI_SAR: R388. -/
  | saluiSar (g : Guard) (d : BitVec 6) (a : BitVec 6) (imm : BitVec 48)
  /-- SALUI_ROL: R388. -/
  | saluiRol (g : Guard) (d : BitVec 6) (a : BitVec 6) (imm : BitVec 48)
  /-- SALUI_MIN: R388. -/
  | saluiMin (g : Guard) (d : BitVec 6) (a : BitVec 6) (imm : BitVec 48)
  /-- SALUI_MAX: R388. -/
  | saluiMax (g : Guard) (d : BitVec 6) (a : BitVec 6) (imm : BitVec 48)
  /-- SALUI_MINU: R388. -/
  | saluiMinu (g : Guard) (d : BitVec 6) (a : BitVec 6) (imm : BitVec 48)
  /-- SALUI_MAXU: R388. -/
  | saluiMaxu (g : Guard) (d : BitVec 6) (a : BitVec 6) (imm : BitVec 48)
  /-- SALUI_MUL: R388. -/
  | saluiMul (g : Guard) (d : BitVec 6) (a : BitVec 6) (imm : BitVec 48)
  /-- SALUI_MULH: R388. -/
  | saluiMulh (g : Guard) (d : BitVec 6) (a : BitVec 6) (imm : BitVec 48)
  /-- SALUI_MULHU: R388. -/
  | saluiMulhu (g : Guard) (d : BitVec 6) (a : BitVec 6) (imm : BitVec 48)
  /-- SALUI_SEQ: R388. -/
  | saluiSeq (g : Guard) (d : BitVec 6) (a : BitVec 6) (imm : BitVec 48)
  /-- SALUI_SNE: R388. -/
  | saluiSne (g : Guard) (d : BitVec 6) (a : BitVec 6) (imm : BitVec 48)
  /-- SALUI_SLT: R388. -/
  | saluiSlt (g : Guard) (d : BitVec 6) (a : BitVec 6) (imm : BitVec 48)
  /-- SALUI_SLTU: R388. -/
  | saluiSltu (g : Guard) (d : BitVec 6) (a : BitVec 6) (imm : BitVec 48)
  /-- SDIV_DIV: R390. -/
  | sdivDiv (g : Guard) (d : BitVec 6) (a : BitVec 6) (b : BitVec 6)
  /-- SDIV_DIVU: R390. -/
  | sdivDivu (g : Guard) (d : BitVec 6) (a : BitVec 6) (b : BitVec 6)
  /-- SDIV_REM: R390. -/
  | sdivRem (g : Guard) (d : BitVec 6) (a : BitVec 6) (b : BitVec 6)
  /-- SDIV_REMU: R390. -/
  | sdivRemu (g : Guard) (d : BitVec 6) (a : BitVec 6) (b : BitVec 6)
  /-- SFP_ADD: R392. -/
  | sfpAdd (g : Guard) (d : BitVec 6) (a : BitVec 6) (b : BitVec 6)
  /-- SFP_SUB: R392. -/
  | sfpSub (g : Guard) (d : BitVec 6) (a : BitVec 6) (b : BitVec 6)
  /-- SFP_MUL: R392. -/
  | sfpMul (g : Guard) (d : BitVec 6) (a : BitVec 6) (b : BitVec 6)
  /-- SFP_FMA: R392. -/
  | sfpFma (g : Guard) (d : BitVec 6) (a : BitVec 6) (b : BitVec 6) (c : BitVec 6)
  /-- SFP_DIV: R392. -/
  | sfpDiv (g : Guard) (d : BitVec 6) (a : BitVec 6) (b : BitVec 6)
  /-- SFP_SQRT: R392. -/
  | sfpSqrt (g : Guard) (d : BitVec 6) (a : BitVec 6)
  /-- SFP_MIN: R392. -/
  | sfpMin (g : Guard) (d : BitVec 6) (a : BitVec 6) (b : BitVec 6)
  /-- SFP_MAX: R392. -/
  | sfpMax (g : Guard) (d : BitVec 6) (a : BitVec 6) (b : BitVec 6)
  /-- SFP_CVTI: R392. -/
  | sfpCvti (g : Guard) (d : BitVec 6) (a : BitVec 6)
  /-- SFP_CVTF: R392. -/
  | sfpCvtf (g : Guard) (d : BitVec 6) (a : BitVec 6)
  /-- SFP_EQ: R392. -/
  | sfpEq (g : Guard) (d : BitVec 6) (a : BitVec 6) (b : BitVec 6)
  /-- SFP_LT: R392. -/
  | sfpLt (g : Guard) (d : BitVec 6) (a : BitVec 6) (b : BitVec 6)
  /-- SFP_LE: R392. -/
  | sfpLe (g : Guard) (d : BitVec 6) (a : BitVec 6) (b : BitVec 6)
  /-- PSET_AND: R382. -/
  | psetAnd (g : Guard) (d : BitVec 6) (a : BitVec 6) (b : BitVec 6) (c : BitVec 6)
  /-- PSET_OR: R382. -/
  | psetOr (g : Guard) (d : BitVec 6) (a : BitVec 6) (b : BitVec 6) (c : BitVec 6)
  /-- PSET_XOR: R382. -/
  | psetXor (g : Guard) (d : BitVec 6) (a : BitVec 6) (b : BitVec 6) (c : BitVec 6)
  /-- PSET_ANDN: R382. -/
  | psetAndn (g : Guard) (d : BitVec 6) (a : BitVec 6) (b : BitVec 6) (c : BitVec 6)
  /-- PSET_EQ: R382. -/
  | psetEq (g : Guard) (d : BitVec 6) (a : BitVec 6) (b : BitVec 6) (c : BitVec 6)
  /-- PSET_NE: R382. -/
  | psetNe (g : Guard) (d : BitVec 6) (a : BitVec 6) (b : BitVec 6) (c : BitVec 6)
  /-- PSET_LT: R382. -/
  | psetLt (g : Guard) (d : BitVec 6) (a : BitVec 6) (b : BitVec 6) (c : BitVec 6)
  /-- PSET_LTU: R382. -/
  | psetLtu (g : Guard) (d : BitVec 6) (a : BitVec 6) (b : BitVec 6) (c : BitVec 6)
  /-- PSET_GE: R382. -/
  | psetGe (g : Guard) (d : BitVec 6) (a : BitVec 6) (b : BitVec 6) (c : BitVec 6)
  /-- PSET_GEU: R382. -/
  | psetGeu (g : Guard) (d : BitVec 6) (a : BitVec 6) (b : BitVec 6) (c : BitVec 6)
  /-- LIT: R114. -/
  | lit (g : Guard) (d : BitVec 6) (lit : Word96)
  /-- LD_P: R361. -/
  | ldP (g : Guard) (d : BitVec 6) (a : BitVec 6) (imm : BitVec 48)
  /-- LD_H: R361. -/
  | ldH (g : Guard) (d : BitVec 6) (a : BitVec 6) (imm : BitVec 48)
  /-- LD_CAP: R362. -/
  | ldCap (g : Guard) (d : BitVec 6) (a : BitVec 6) (imm : BitVec 48)
  /-- ST_P: R361. -/
  | stP (g : Guard) (d : BitVec 6) (a : BitVec 6) (imm : BitVec 48)
  /-- ST_H: R361. -/
  | stH (g : Guard) (d : BitVec 6) (a : BitVec 6) (imm : BitVec 48)
  /-- ST_CAP: R362. -/
  | stCap (g : Guard) (d : BitVec 6) (a : BitVec 6) (imm : BitVec 48)
  /-- ENTER_F: R352. -/
  | enterF (g : Guard) (imm : BitVec 48)
  /-- LEAVE_F: R364. -/
  | leaveF (g : Guard)
  /-- PBR_O: R381. -/
  | pbrO (g : Guard) (t : BitVec 3) (imm : BitVec 48)
  /-- PBR_R: R381. -/
  | pbrR (g : Guard) (t : BitVec 3) (a : BitVec 6)
  /-- BR_GO: R337. -/
  | brGo (g : Guard) (t : BitVec 3)
  /-- BRQ_T: R338. -/
  | brqT (g : Guard) (t : BitVec 3)
  /-- BRQ_F: R338. -/
  | brqF (g : Guard) (t : BitVec 3)
  /-- BRMZ_SKIP: R339. -/
  | brmzSkip (g : Guard) (imm : BitVec 48)
  /-- CALL_GO: R341. -/
  | callGo (g : Guard) (t : BitVec 3)
  /-- RET_GO: R385. -/
  | retGo (g : Guard)
  /-- LOOP_L: R367. -/
  | loopL (g : Guard) (a : BitVec 6) (imm : BitVec 48)
  /-- LOOP_S: R367. -/
  | loopS (g : Guard) (t : BitVec 3) (a : BitVec 6) (imm : BitVec 48)
  /-- REPEAT_N: R369. -/
  | repeatN (g : Guard) (imm : BitVec 48)
  /-- REPEAT_S: R369. -/
  | repeatS (g : Guard) (a : BitVec 6)
  /-- SIGNAL_T: R395. -/
  | signalT (g : Guard) (a : BitVec 6) (imm : BitVec 48)
  /-- SIGNAL_S: R395. -/
  | signalS (g : Guard) (d : BitVec 6) (a : BitVec 6)
  /-- WAIT_T: R427. -/
  | waitT (g : Guard) (a : BitVec 6)
  /-- WAIT_N: R427. -/
  | waitN (g : Guard) (a : BitVec 6) (imm : BitVec 48)
  /-- TOKSET_I: R405. -/
  | toksetI (g : Guard) (a : BitVec 6) (imm : BitVec 48)
  /-- TOKSET_X: R405. -/
  | toksetX (g : Guard) (d : BitVec 6) (a : BitVec 6) (imm : BitVec 48)
  /-- FENCE_S: R353. -/
  | fenceS (g : Guard) (d : BitVec 6) (imm : BitVec 48)
  /-- RETIME_AT: R240. -/
  | retimeAt (g : Guard) (a : BitVec 6) (imm : BitVec 48)
  /-- WAITV_EQ: R176. -/
  | waitvEq (g : Guard) (h : BitVec 5) (a : BitVec 6) (b : BitVec 6) (scope : BitVec 3) (order : BitVec 2) (cell : BitVec 32)
  /-- WAITV_NE: R176. -/
  | waitvNe (g : Guard) (h : BitVec 5) (a : BitVec 6) (b : BitVec 6) (scope : BitVec 3) (order : BitVec 2) (cell : BitVec 32)
  /-- WAITV_GE: R176. -/
  | waitvGe (g : Guard) (h : BitVec 5) (a : BitVec 6) (b : BitVec 6) (scope : BitVec 3) (order : BitVec 2) (cell : BitVec 32)
  /-- WAITV_LT: R176. -/
  | waitvLt (g : Guard) (h : BitVec 5) (a : BitVec 6) (b : BitVec 6) (scope : BitVec 3) (order : BitVec 2) (cell : BitVec 32)
  /-- WAITV_ANY: R176. -/
  | waitvAny (g : Guard) (h : BitVec 5) (a : BitVec 6) (b : BitVec 6) (scope : BitVec 3) (order : BitVec 2) (cell : BitVec 32)
  /-- WAITV_NONE: R176. -/
  | waitvNone (g : Guard) (h : BitVec 5) (a : BitVec 6) (b : BitVec 6) (scope : BitVec 3) (order : BitVec 2) (cell : BitVec 32)
  /-- MARK_Q: R372. -/
  | markQ (g : Guard) (a : BitVec 6) (imm : BitVec 48)
  /-- SSTEP_S: R396. -/
  | sstepS (g : Guard) (a : BitVec 6) (imm : BitVec 48)
  /-- CAPSET_B: R343. -/
  | capsetB (g : Guard) (hd : BitVec 5) (ha : BitVec 5) (sr : BitVec 6)
  /-- CAPSET_E: R343. -/
  | capsetE (g : Guard) (hd : BitVec 5) (ha : BitVec 5) (sr : BitVec 6)
  /-- CAPPERM_AND: R342. -/
  | cappermAnd (g : Guard) (hd : BitVec 5) (ha : BitVec 5) (imm : BitVec 32)
  /-- CAPOFF_ADD: R201. -/
  | capoffAdd (g : Guard) (hd : BitVec 5) (ha : BitVec 5) (sr : BitVec 6)
  /-- CAPOFF_SET: R342. -/
  | capoffSet (g : Guard) (hd : BitVec 5) (ha : BitVec 5) (sr : BitVec 6)
  /-- CAPGET_A: R268. -/
  | capgetA (g : Guard) (ha : BitVec 5) (sr : BitVec 6)
  /-- CAPGET_CELLS: R201. -/
  | capgetCells (g : Guard) (hd : BitVec 5)
  /-- CAPGET_KV: R268. -/
  | capgetKv (g : Guard) (hd : BitVec 5)
  /-- CAPGET_PEER: R314. -/
  | capgetPeer (g : Guard) (hd : BitVec 5) (sr : BitVec 6)
  /-- CAPGET_SYS: R314. -/
  | capgetSys (g : Guard) (hd : BitVec 5)
  /-- CAPGET_BASE: R342. -/
  | capgetBase (g : Guard) (ha : BitVec 5) (sr : BitVec 6)
  /-- CAPGET_LEN: R342. -/
  | capgetLen (g : Guard) (ha : BitVec 5) (sr : BitVec 6)
  /-- CAPGET_HI: R342. -/
  | capgetHi (g : Guard) (ha : BitVec 5) (sr : BitVec 6)
  /-- CAPTEST_TAG: R342. -/
  | captestTag (g : Guard) (ha : BitVec 5) (sr : BitVec 6)
  /-- CAPTEST_IN: R344. -/
  | captestIn (g : Guard) (ha : BitVec 5) (sr : BitVec 6) (imm : BitVec 32)
  /-- DUP_N: R73. -/
  | dupN (g : Guard) (hd : BitVec 5) (ha : BitVec 5) (imm : BitVec 32)
  /-- DROP_W: R76. -/
  | dropW (g : Guard) (ha : BitVec 5)
  /-- DROP_B: R80. -/
  | dropB (g : Guard) (hd : BitVec 5) (ha : BitVec 5) (sr : BitVec 6)
  /-- MOVH_M: R76. -/
  | movhM (g : Guard) (hd : BitVec 5) (ha : BitVec 5)
  /-- MERGE_W: R75. -/
  | mergeW (g : Guard) (hd : BitVec 5) (ha : BitVec 5) (hb : BitVec 5)
  /-- ALLOC_T: R79. -/
  | allocT (g : Guard) (hd : BitVec 5) (imm : BitVec 32)
  /-- ALLOC_M: R79. -/
  | allocM (g : Guard) (hd : BitVec 5) (imm : BitVec 32)
  /-- ISUNQ_L: R78. -/
  | isunqL (g : Guard) (ha : BitVec 5) (sr : BitVec 6)
  /-- ISUNQ_X: R78. -/
  | isunqX (g : Guard) (ha : BitVec 5) (sr : BitVec 6)
  /-- UPD_T: R81. -/
  | updT (g : Guard) (hd : BitVec 5) (ha : BitVec 5)
  /-- UPD_M: R81. -/
  | updM (g : Guard) (hd : BitVec 5) (ha : BitVec 5)
  /-- SEAL_T: R82. -/
  | sealT (g : Guard) (hd : BitVec 5) (ha : BitVec 5) (imm : BitVec 32)
  /-- GSET_L: R354. -/
  | gsetL (g : Guard) (gr : BitVec 5) (lit : Word96)
  /-- GSET_R: R354. -/
  | gsetR (g : Guard) (ha : BitVec 5) (gr : BitVec 5) (lit : Word96)
  /-- CSET_I: R340. -/
  | csetI (g : Guard) (d : BitVec 6) (imm : BitVec 48)
  /-- CSET_S: R340. -/
  | csetS (g : Guard) (d : BitVec 6) (a : BitVec 6)
  /-- CADD_I: R340. -/
  | caddI (g : Guard) (d : BitVec 6) (a : BitVec 6) (imm : BitVec 48)
  /-- CADD_S: R340. -/
  | caddS (g : Guard) (d : BitVec 6) (a : BitVec 6)
  /-- TLD_R: R404. -/
  | tldR (g : Guard) (hd : BitVec 5) (ha : BitVec 5) (gr : BitVec 5) (f : BitVec 4) (cnt : BitVec 3) (post : BitVec 1) (clip : BitVec 1) (perm : BitVec 1) (stamp : BitVec 20) (imm : BitVec 20)
  /-- TLD_W: R269. -/
  | tldW (g : Guard) (hd : BitVec 5) (ha : BitVec 5) (stamp : BitVec 20)
  /-- TCOPY_R: R402. -/
  | tcopyR (g : Guard) (hd : BitVec 5) (ha : BitVec 5) (gr : BitVec 5) (f : BitVec 4) (cnt : BitVec 3) (sr : BitVec 6) (post : BitVec 1) (clip : BitVec 1) (perm : BitVec 1) (stamp : BitVec 20) (imm : BitVec 20)
  /-- TCOPY_W: R201. -/
  | tcopyW (g : Guard) (hd : BitVec 5) (ha : BitVec 5) (sr : BitVec 6) (stamp : BitVec 20)
  /-- TCOPY_S: R402. -/
  | tcopyS (g : Guard) (hd : BitVec 5) (ha : BitVec 5) (gr : BitVec 5) (f : BitVec 4) (cnt : BitVec 3) (sr : BitVec 6) (post : BitVec 1) (clip : BitVec 1) (perm : BitVec 1) (stamp : BitVec 20)
  /-- TCOPY_HI: R402. -/
  | tcopyHi (g : Guard) (hd : BitVec 5) (ha : BitVec 5) (sr : BitVec 6) (stamp : BitVec 20) (imm : BitVec 20)
  /-- TCOPY_HO: R402. -/
  | tcopyHo (g : Guard) (hd : BitVec 5) (ha : BitVec 5) (sr : BitVec 6) (stamp : BitVec 20) (imm : BitVec 20)
  /-- GATHER_K: R257. -/
  | gatherK (g : Guard) (hd : BitVec 5) (ha : BitVec 5) (sr : BitVec 6) (stamp : BitVec 20)
  /-- GATHER_V: R257. -/
  | gatherV (g : Guard) (hd : BitVec 5) (ha : BitVec 5) (sr : BitVec 6) (stamp : BitVec 20)
  /-- APPEND_KV: R258. -/
  | appendKv (g : Guard) (hd : BitVec 5) (ha : BitVec 5) (sr : BitVec 6)
  /-- CLAIM_S: R152. -/
  | claimS (g : Guard) (hd : BitVec 5)
  /-- RELEASE_S: R152. -/
  | releaseS (g : Guard) (hd : BitVec 5)
  /-- MMA_T: R310. -/
  | mmaT (g : Guard) (stamp : BitVec 20) (sa : BitVec 4) (sb : BitVec 4) (col : BitVec 10) (k : BitVec 8) (acc : BitVec 1) (ta : BitVec 1) (pre : BitVec 1)
  /-- MDRAIN_T: R311. -/
  | mdrainT (g : Guard) (stamp : BitVec 20) (rm : BitVec 3) (hb : BitVec 5) (col : BitVec 10) (k : BitVec 8) (sr : BitVec 6)
  /-- MZERO_T: R370. -/
  | mzeroT (g : Guard) (stamp : BitVec 20) (col : BitVec 10) (k : BitVec 8)
  /-- MACC_R: R370. -/
  | maccR (g : Guard) (stamp : BitVec 20) (row : BitVec 8) (col : BitVec 10) (k : BitVec 8) (acc : BitVec 1) (int : BitVec 1) (sr : BitVec 6)
  /-- TSTAT_R: R407. -/
  | tstatR (g : Guard) (d : BitVec 6) (a : BitVec 6)
  /-- VALU_ADD: R410. -/
  | valuAdd (g : Guard) (vd : BitVec 6) (va : BitVec 6) (vb : BitVec 6) (ty : BitVec 4) (rm : BitVec 3) (sat : BitVec 1) (masked : BitVec 1)
  /-- VALU_SUB: R410. -/
  | valuSub (g : Guard) (vd : BitVec 6) (va : BitVec 6) (vb : BitVec 6) (ty : BitVec 4) (rm : BitVec 3) (sat : BitVec 1) (masked : BitVec 1)
  /-- VALU_AND: R410. -/
  | valuAnd (g : Guard) (vd : BitVec 6) (va : BitVec 6) (vb : BitVec 6) (ty : BitVec 4) (rm : BitVec 3) (sat : BitVec 1) (masked : BitVec 1)
  /-- VALU_OR: R410. -/
  | valuOr (g : Guard) (vd : BitVec 6) (va : BitVec 6) (vb : BitVec 6) (ty : BitVec 4) (rm : BitVec 3) (sat : BitVec 1) (masked : BitVec 1)
  /-- VALU_XOR: R410. -/
  | valuXor (g : Guard) (vd : BitVec 6) (va : BitVec 6) (vb : BitVec 6) (ty : BitVec 4) (rm : BitVec 3) (sat : BitVec 1) (masked : BitVec 1)
  /-- VALU_ANDN: R410. -/
  | valuAndn (g : Guard) (vd : BitVec 6) (va : BitVec 6) (vb : BitVec 6) (ty : BitVec 4) (rm : BitVec 3) (sat : BitVec 1) (masked : BitVec 1)
  /-- VALU_SHL: R410. -/
  | valuShl (g : Guard) (vd : BitVec 6) (va : BitVec 6) (vb : BitVec 6) (ty : BitVec 4) (rm : BitVec 3) (sat : BitVec 1) (masked : BitVec 1)
  /-- VALU_SHR: R410. -/
  | valuShr (g : Guard) (vd : BitVec 6) (va : BitVec 6) (vb : BitVec 6) (ty : BitVec 4) (rm : BitVec 3) (sat : BitVec 1) (masked : BitVec 1)
  /-- VALU_SAR: R410. -/
  | valuSar (g : Guard) (vd : BitVec 6) (va : BitVec 6) (vb : BitVec 6) (ty : BitVec 4) (rm : BitVec 3) (sat : BitVec 1) (masked : BitVec 1)
  /-- VALU_MIN: R410. -/
  | valuMin (g : Guard) (vd : BitVec 6) (va : BitVec 6) (vb : BitVec 6) (ty : BitVec 4) (rm : BitVec 3) (sat : BitVec 1) (masked : BitVec 1)
  /-- VALU_MAX: R410. -/
  | valuMax (g : Guard) (vd : BitVec 6) (va : BitVec 6) (vb : BitVec 6) (ty : BitVec 4) (rm : BitVec 3) (sat : BitVec 1) (masked : BitVec 1)
  /-- VALU_ABS: R410. -/
  | valuAbs (g : Guard) (vd : BitVec 6) (va : BitVec 6) (ty : BitVec 4) (rm : BitVec 3) (sat : BitVec 1) (masked : BitVec 1)
  /-- VALU_MUL: R410. -/
  | valuMul (g : Guard) (vd : BitVec 6) (va : BitVec 6) (vb : BitVec 6) (ty : BitVec 4) (rm : BitVec 3) (sat : BitVec 1) (masked : BitVec 1)
  /-- VALU_MULH: R410. -/
  | valuMulh (g : Guard) (vd : BitVec 6) (va : BitVec 6) (vb : BitVec 6) (ty : BitVec 4) (rm : BitVec 3) (sat : BitVec 1) (masked : BitVec 1)
  /-- VFMA_FMA: R414. -/
  | vfmaFma (g : Guard) (vd : BitVec 6) (va : BitVec 6) (vb : BitVec 6) (vc : BitVec 6) (ty : BitVec 4) (rm : BitVec 3) (sat : BitVec 1) (masked : BitVec 1)
  /-- VFMA_FMS: R414. -/
  | vfmaFms (g : Guard) (vd : BitVec 6) (va : BitVec 6) (vb : BitVec 6) (vc : BitVec 6) (ty : BitVec 4) (rm : BitVec 3) (sat : BitVec 1) (masked : BitVec 1)
  /-- VFMA_FNMA: R414. -/
  | vfmaFnma (g : Guard) (vd : BitVec 6) (va : BitVec 6) (vb : BitVec 6) (vc : BitVec 6) (ty : BitVec 4) (rm : BitVec 3) (sat : BitVec 1) (masked : BitVec 1)
  /-- VCMP_EQ: R412. -/
  | vcmpEq (g : Guard) (vd : BitVec 6) (va : BitVec 6) (vb : BitVec 6) (ty : BitVec 4) (masked : BitVec 1)
  /-- VCMP_NE: R412. -/
  | vcmpNe (g : Guard) (vd : BitVec 6) (va : BitVec 6) (vb : BitVec 6) (ty : BitVec 4) (masked : BitVec 1)
  /-- VCMP_LT: R412. -/
  | vcmpLt (g : Guard) (vd : BitVec 6) (va : BitVec 6) (vb : BitVec 6) (ty : BitVec 4) (masked : BitVec 1)
  /-- VCMP_GE: R412. -/
  | vcmpGe (g : Guard) (vd : BitVec 6) (va : BitVec 6) (vb : BitVec 6) (ty : BitVec 4) (masked : BitVec 1)
  /-- VCVT_CVT: R413. -/
  | vcvtCvt (g : Guard) (vd : BitVec 6) (va : BitVec 6) (ty : BitVec 4) (rm : BitVec 3) (sat : BitVec 1) (masked : BitVec 1) (imm : BitVec 8)
  /-- VLT3_LUT: R200. -/
  | vlt3Lut (g : Guard) (vd : BitVec 6) (va : BitVec 6) (vb : BitVec 6) (vc : BitVec 6) (ty : BitVec 4) (masked : BitVec 1) (imm : BitVec 8)
  /-- VFSH_L: R415. -/
  | vfshL (g : Guard) (vd : BitVec 6) (va : BitVec 6) (vb : BitVec 6) (ty : BitVec 4) (masked : BitVec 1) (imm : BitVec 8)
  /-- VFSH_R: R415. -/
  | vfshR (g : Guard) (vd : BitVec 6) (va : BitVec 6) (vb : BitVec 6) (ty : BitVec 4) (masked : BitVec 1) (imm : BitVec 8)
  /-- VLROT_ROT: R419. -/
  | vlrotRot (g : Guard) (vd : BitVec 6) (va : BitVec 6) (ty : BitVec 4) (masked : BitVec 1) (imm : BitVec 8)
  /-- VLROT_ROTS: R419. -/
  | vlrotRots (g : Guard) (vd : BitVec 6) (va : BitVec 6) (ty : BitVec 4) (masked : BitVec 1) (sr : BitVec 6)
  /-- VPERM_IDX: R423. -/
  | vpermIdx (g : Guard) (vd : BitVec 6) (va : BitVec 6) (vb : BitVec 6) (ty : BitVec 4) (masked : BitVec 1)
  /-- VPERM_IDX2: R423. -/
  | vpermIdx2 (g : Guard) (vd : BitVec 6) (va : BitVec 6) (vb : BitVec 6) (vc : BitVec 6) (ty : BitVec 4) (masked : BitVec 1)
  /-- VBCAST_S: R411. -/
  | vbcastS (g : Guard) (vd : BitVec 6) (ty : BitVec 4) (masked : BitVec 1) (sr : BitVec 6)
  /-- VBCAST_LANE: R411. -/
  | vbcastLane (g : Guard) (vd : BitVec 6) (va : BitVec 6) (ty : BitVec 4) (masked : BitVec 1) (imm : BitVec 8)
  /-- VBCAST_IMM: R411. -/
  | vbcastImm (g : Guard) (vd : BitVec 6) (ty : BitVec 4) (masked : BitVec 1) (imm : BitVec 8)
  /-- VRED_ADD: R424. -/
  | vredAdd (g : Guard) (vd : BitVec 6) (va : BitVec 6) (ty : BitVec 4) (rm : BitVec 3) (sat : BitVec 1) (masked : BitVec 1)
  /-- VRED_AND: R424. -/
  | vredAnd (g : Guard) (vd : BitVec 6) (va : BitVec 6) (ty : BitVec 4) (rm : BitVec 3) (sat : BitVec 1) (masked : BitVec 1)
  /-- VRED_OR: R424. -/
  | vredOr (g : Guard) (vd : BitVec 6) (va : BitVec 6) (ty : BitVec 4) (rm : BitVec 3) (sat : BitVec 1) (masked : BitVec 1)
  /-- VRED_XOR: R424. -/
  | vredXor (g : Guard) (vd : BitVec 6) (va : BitVec 6) (ty : BitVec 4) (rm : BitVec 3) (sat : BitVec 1) (masked : BitVec 1)
  /-- VRED_MIN: R424. -/
  | vredMin (g : Guard) (vd : BitVec 6) (va : BitVec 6) (ty : BitVec 4) (rm : BitVec 3) (sat : BitVec 1) (masked : BitVec 1)
  /-- VRED_MAX: R424. -/
  | vredMax (g : Guard) (vd : BitVec 6) (va : BitVec 6) (ty : BitVec 4) (rm : BitVec 3) (sat : BitVec 1) (masked : BitVec 1)
  /-- VFUN_EXP: R416. -/
  | vfunExp (g : Guard) (vd : BitVec 6) (va : BitVec 6) (ty : BitVec 4) (rm : BitVec 3) (sat : BitVec 1) (masked : BitVec 1)
  /-- VFUN_EXP2: R416. -/
  | vfunExp2 (g : Guard) (vd : BitVec 6) (va : BitVec 6) (ty : BitVec 4) (rm : BitVec 3) (sat : BitVec 1) (masked : BitVec 1)
  /-- VFUN_LOG: R416. -/
  | vfunLog (g : Guard) (vd : BitVec 6) (va : BitVec 6) (ty : BitVec 4) (rm : BitVec 3) (sat : BitVec 1) (masked : BitVec 1)
  /-- VFUN_LOG2: R416. -/
  | vfunLog2 (g : Guard) (vd : BitVec 6) (va : BitVec 6) (ty : BitVec 4) (rm : BitVec 3) (sat : BitVec 1) (masked : BitVec 1)
  /-- VFUN_RCP: R416. -/
  | vfunRcp (g : Guard) (vd : BitVec 6) (va : BitVec 6) (ty : BitVec 4) (rm : BitVec 3) (sat : BitVec 1) (masked : BitVec 1)
  /-- VFUN_SQRT: R416. -/
  | vfunSqrt (g : Guard) (vd : BitVec 6) (va : BitVec 6) (ty : BitVec 4) (rm : BitVec 3) (sat : BitVec 1) (masked : BitVec 1)
  /-- VFUN_RSQRT: R416. -/
  | vfunRsqrt (g : Guard) (vd : BitVec 6) (va : BitVec 6) (ty : BitVec 4) (rm : BitVec 3) (sat : BitVec 1) (masked : BitVec 1)
  /-- VFUN_TANH: R416. -/
  | vfunTanh (g : Guard) (vd : BitVec 6) (va : BitVec 6) (ty : BitVec 4) (rm : BitVec 3) (sat : BitVec 1) (masked : BitVec 1)
  /-- VFUN_SIGM: R416. -/
  | vfunSigm (g : Guard) (vd : BitVec 6) (va : BitVec 6) (ty : BitVec 4) (rm : BitVec 3) (sat : BitVec 1) (masked : BitVec 1)
  /-- VTOPK_VAL: R426. -/
  | vtopkVal (g : Guard) (vd : BitVec 6) (va : BitVec 6) (vb : BitVec 6) (ty : BitVec 4) (masked : BitVec 1) (imm : BitVec 8)
  /-- VTOPK_IDX: R267. -/
  | vtopkIdx (g : Guard) (vd : BitVec 6) (va : BitVec 6) (vb : BitVec 6) (ty : BitVec 4) (masked : BitVec 1) (sr : BitVec 6) (imm : BitVec 8)
  /-- VLD_MOD: R200. -/
  | vldMod (g : Guard) (vd : BitVec 6) (ty : BitVec 4) (masked : BitVec 1) (sr : BitVec 6) (imm : BitVec 8)
  /-- VLD_ROW: R225. -/
  | vldRow (g : Guard) (vd : BitVec 6) (vb : BitVec 6) (ty : BitVec 4) (masked : BitVec 1) (sr : BitVec 6)
  /-- VLD_STR: R266. -/
  | vldStr (g : Guard) (vd : BitVec 6) (vb : BitVec 6) (vc : BitVec 6) (ty : BitVec 4) (masked : BitVec 1) (sr : BitVec 6) (imm : BitVec 8)
  /-- VST_MOD: R200. -/
  | vstMod (g : Guard) (va : BitVec 6) (ty : BitVec 4) (masked : BitVec 1) (sr : BitVec 6) (imm : BitVec 8)
  /-- VST_ROW: R225. -/
  | vstRow (g : Guard) (va : BitVec 6) (vb : BitVec 6) (ty : BitVec 4) (masked : BitVec 1) (sr : BitVec 6)
  /-- VST_STR: R417. -/
  | vstStr (g : Guard) (va : BitVec 6) (vb : BitVec 6) (vc : BitVec 6) (ty : BitVec 4) (masked : BitVec 1) (sr : BitVec 6) (imm : BitVec 8)
  /-- VMOVS_LANE: R420. -/
  | vmovsLane (g : Guard) (va : BitVec 6) (ty : BitVec 4) (sr : BitVec 6) (imm : BitVec 8)
  /-- VMOVS_PAIR: R420. -/
  | vmovsPair (g : Guard) (va : BitVec 6) (ty : BitVec 4) (sr : BitVec 6) (imm : BitVec 8)
  /-- VSEL_BIT: R425. -/
  | vselBit (g : Guard) (vd : BitVec 6) (va : BitVec 6) (vb : BitVec 6) (vc : BitVec 6) (ty : BitVec 4) (masked : BitVec 1)
  /-- VSEL_MASK: R425. -/
  | vselMask (g : Guard) (vd : BitVec 6) (va : BitVec 6) (vb : BitVec 6) (ty : BitVec 4)
  /-- MPUSH_EQ: R373. -/
  | mpushEq (g : Guard) (va : BitVec 6) (vb : BitVec 6) (ty : BitVec 4)
  /-- MPUSH_NE: R373. -/
  | mpushNe (g : Guard) (va : BitVec 6) (vb : BitVec 6) (ty : BitVec 4)
  /-- MPUSH_LT: R373. -/
  | mpushLt (g : Guard) (va : BitVec 6) (vb : BitVec 6) (ty : BitVec 4)
  /-- MPUSH_GE: R373. -/
  | mpushGe (g : Guard) (va : BitVec 6) (vb : BitVec 6) (ty : BitVec 4)
  /-- MINV: R373. -/
  | minv (g : Guard) (ty : BitVec 4)
  /-- MPOP: R373. -/
  | mpop (g : Guard) (ty : BitVec 4)
  /-- MGET_M: R373. -/
  | mgetM (g : Guard) (vd : BitVec 6) (ty : BitVec 4)
  /-- MGET_V: R373. -/
  | mgetV (g : Guard) (vd : BitVec 6) (ty : BitVec 4)
  /-- MSET_M: R373. -/
  | msetM (g : Guard) (va : BitVec 6) (ty : BitVec 4)
  /-- MSET_V: R373. -/
  | msetV (g : Guard) (va : BitVec 6) (ty : BitVec 4)
  /-- VPARK_P: R421. -/
  | vparkP (g : Guard) (va : BitVec 6) (vc : BitVec 6) (ty : BitVec 4) (imm : BitVec 8)
  /-- VUNPARK_U: R422. -/
  | vunparkU (g : Guard) (vd : BitVec 6) (ty : BitVec 4)
  /-- ASTART_GO: R246. -/
  | astartGo (g : Guard) (d : BitVec 6) (a : BitVec 6) (imm : BitVec 48)
  /-- ALOAD_W: R246. -/
  | aloadW (g : Guard) (h : BitVec 5) (a : BitVec 6) (b : BitVec 6)
  /-- ASTAT_RD: R248. -/
  | astatRd (g : Guard) (d : BitVec 6) (a : BitVec 6)
  /-- ASTAT_WAIT: R248. -/
  | astatWait (g : Guard) (d : BitVec 6) (a : BitVec 6)
  /-- PAMO_ADD: R173. -/
  | pamoAdd (g : Guard) (h : BitVec 5) (a : BitVec 6) (b : BitVec 6) (scope : BitVec 3) (order : BitVec 2) (cell : BitVec 32)
  /-- PAMO_MIN: R173. -/
  | pamoMin (g : Guard) (h : BitVec 5) (a : BitVec 6) (b : BitVec 6) (scope : BitVec 3) (order : BitVec 2) (cell : BitVec 32)
  /-- PAMO_MAX: R173. -/
  | pamoMax (g : Guard) (h : BitVec 5) (a : BitVec 6) (b : BitVec 6) (scope : BitVec 3) (order : BitVec 2) (cell : BitVec 32)
  /-- PAMO_SWAP: R173. -/
  | pamoSwap (g : Guard) (h : BitVec 5) (a : BitVec 6) (b : BitVec 6) (scope : BitVec 3) (order : BitVec 2) (cell : BitVec 32)
  /-- PAMO_CAS: R173. -/
  | pamoCas (g : Guard) (h : BitVec 5) (a : BitVec 6) (b : BitVec 6) (c : BitVec 6) (scope : BitVec 3) (order : BitVec 2) (cell : BitVec 32)
  /-- PAMO_CAS2: R173. -/
  | pamoCas2 (g : Guard) (h : BitVec 5) (a : BitVec 6) (b : BitVec 6) (c : BitVec 6) (scope : BitVec 3) (order : BitVec 2) (cell : BitVec 32)
  /-- PAMO_ENQ: R173. -/
  | pamoEnq (g : Guard) (h : BitVec 5) (a : BitVec 6) (b : BitVec 6) (scope : BitVec 3) (order : BitVec 2) (cell : BitVec 32)
  /-- PAMO_CHASE: R173. -/
  | pamoChase (g : Guard) (h : BitVec 5) (a : BitVec 6) (scope : BitVec 3) (order : BitVec 2) (links : BitVec 3) (cell : BitVec 32)
  /-- PAMO_RED_ADD: R174. -/
  | pamoRedAdd (g : Guard) (h : BitVec 5) (b : BitVec 6) (scope : BitVec 3) (order : BitVec 2) (cell : BitVec 32)
  /-- PAMO_RED_MIN: R174. -/
  | pamoRedMin (g : Guard) (h : BitVec 5) (b : BitVec 6) (scope : BitVec 3) (order : BitVec 2) (cell : BitVec 32)
  /-- PAMO_RED_MAX: R174. -/
  | pamoRedMax (g : Guard) (h : BitVec 5) (b : BitVec 6) (scope : BitVec 3) (order : BitVec 2) (cell : BitVec 32)
  /-- PAMO_HXCH: R175. -/
  | pamoHxch (g : Guard) (h : BitVec 5) (scope : BitVec 3) (order : BitVec 2) (cell : BitVec 32)
  /-- PLD_C: R173. -/
  | pldC (g : Guard) (h : BitVec 5) (a : BitVec 6) (scope : BitVec 3) (order : BitVec 2) (cell : BitVec 32)
  /-- PST_C: R173. -/
  | pstC (g : Guard) (h : BitVec 5) (b : BitVec 6) (scope : BitVec 3) (order : BitVec 2) (cell : BitVec 32)
  /-- BCNT_P: R178. -/
  | bcntP (g : Guard) (h : BitVec 5) (b : BitVec 6) (scope : BitVec 3) (order : BitVec 2) (cell : BitVec 32)
  /-- LSEND_H: R295. -/
  | lsendH (g : Guard) (h : BitVec 5) (c : BitVec 6) (peer : BitVec 6) (relay : BitVec 6) (rot : BitVec 12) (slot : BitVec 4) (berth : BitVec 6)
  /-- LSEND_D: R295. -/
  | lsendD (g : Guard) (h : BitVec 5) (b : BitVec 6) (c : BitVec 6) (peer : BitVec 6) (relay : BitVec 6) (rot : BitVec 12) (slot : BitVec 4) (berth : BitVec 6)
  /-- LSEND_V: R295. -/
  | lsendV (g : Guard) (b : BitVec 6) (c : BitVec 6) (peer : BitVec 6) (relay : BitVec 6) (rot : BitVec 12) (slot : BitVec 4) (berth : BitVec 6)
  /-- LSEND_RLD: R299. -/
  | lsendRld (g : Guard) (h : BitVec 5) (a : BitVec 6) (peer : BitVec 6) (relay : BitVec 6)
  /-- LSEND_RST: R299. -/
  | lsendRst (g : Guard) (h : BitVec 5) (b : BitVec 6) (peer : BitVec 6) (relay : BitVec 6)
  /-- LSEND_RADD: R299. -/
  | lsendRadd (g : Guard) (h : BitVec 5) (a : BitVec 6) (b : BitVec 6) (peer : BitVec 6) (relay : BitVec 6)
  /-- LSEND_RCAS: R299. -/
  | lsendRcas (g : Guard) (h : BitVec 5) (a : BitVec 6) (b : BitVec 6) (c : BitVec 6) (peer : BitVec 6) (relay : BitVec 6)
  /-- LTAKE_M: R296. -/
  | ltakeM (g : Guard) (h : BitVec 5) (a : BitVec 6)
  /-- LTAKE_P: R296. -/
  | ltakeP (g : Guard) (h : BitVec 5) (a : BitVec 6)
  /-- LCAL_W: R303. -/
  | lcalW (g : Guard) (h : BitVec 5) (b : BitVec 6)
  /-- LMARK_D: R303. -/
  | lmarkD (g : Guard) (b : BitVec 6)
  /-- LSTAT_RD: R298. -/
  | lstatRd (g : Guard) (a : BitVec 6) (b : BitVec 6)
  /-- SHSEND_T: R262. -/
  | shsendT (g : Guard) (h : BitVec 5) (imm : BitVec 45)
  /-- SHTAKE_T: R262. -/
  | shtakeT (g : Guard) (h : BitVec 5) (ch : BitVec 4)
  /-- SHRET_OPEN: R261. -/
  | shretOpen (g : Guard) (a : BitVec 6) (ch : BitVec 4) (n : BitVec 3) (k : BitVec 4)
  /-- SHRET_T: R261. -/
  | shretT (g : Guard) (h : BitVec 5) (ch : BitVec 4)
  /-- SHRET_CLOSE: R261. -/
  | shretClose (g : Guard) (ch : BitVec 4)
  /-- SBPUT_R: R283. -/
  | sbputR (g : Guard) (b : BitVec 6) (pipe : BitVec 1) (cls : BitVec 4)
  /-- SBGET_Q: R283. -/
  | sbgetQ (g : Guard) (a : BitVec 6) (b : BitVec 6)
  /-- SBGET_X: R283. -/
  | sbgetX (g : Guard) (a : BitVec 6) (b : BitVec 6)
  /-- SBTBL_W: R283. -/
  | sbtblW (g : Guard) (b : BitVec 6) (lit : Word96)
  /-- SBCOMMIT_G: R280. -/
  | sbcommitG (g : Guard) (b : BitVec 6)
  /-- SBSTAT_RD: R283. -/
  | sbstatRd (g : Guard) (a : BitVec 6) (b : BitVec 6)
  /-- SBSTAT_MARK: R282. -/
  | sbstatMark (g : Guard) (b : BitVec 6)
  /-- MICRO_END: R250. -/
  | microEnd
  /-- MICRO_QK: R251. -/
  | microQk (q : BitVec 4) (k : BitVec 4) (col : BitVec 9) (dim : BitVec 7) (fmt : BitVec 4)
  /-- MICRO_SMAX: R252. -/
  | microSmax (col : BitVec 9)
  /-- MICRO_EXPP: R252. -/
  | microExpp (p : BitVec 4) (col : BitVec 9) (pf : BitVec 2)
  /-- MICRO_DEN: R252. -/
  | microDen
  /-- MICRO_RESC: R251. -/
  | microResc (col : BitVec 9) (dim : BitVec 7)
  /-- MICRO_PV: R251. -/
  | microPv (p : BitVec 4) (v : BitVec 4) (col : BitVec 9) (dim : BitVec 7) (fmt : BitVec 4)
  /-- MICRO_WALK: R254. -/
  | microWalk
  /-- MICRO_GATH: R251. -/
  | microGath (k : BitVec 4) (v : BitVec 4)
  /-- MICRO_NORM: R251. -/
  | microNorm (col : BitVec 9) (dim : BitVec 7) (of : BitVec 2) (row : BitVec 7)
  /-- MICRO_LOOP: R251. -/
  | microLoop (k : BitVec 2) (fromAp : BitVec 1) (ap : BitVec 4) (n : BitVec 24)
  /-- MICRO_BNZ: R251. -/
  | microBnz (k : BitVec 2) (mode : BitVec 2) (target : BitVec 12)
  /-- MICRO_JMP: R251. -/
  | microJmp (target : BitVec 12)
  /-- MICRO_SIG: R251. -/
  | microSig (t : BitVec 5)
  /-- MICRO_WAITT: R251. -/
  | microWaitt (t : BitVec 5)
  /-- MICRO_SETP: R251. -/
  | microSetp (ap : BitVec 4) (mode : BitVec 2) (imm : BitVec 48)
  /-- ATTENTION_ENTRY_START: R246. An attention-sequencer entry starts once the previous entry and earlier matrix work are done. -/
  | attentionEntryStart (core : Nat)
  /-- SHADOW_BANK_WRITE: R281. A waiting SBTBL writes its shadow bank once no stamped record uses it. -/
  | shadowBankWrite (core : Nat)
  /-- RECORD_INGRESS: R272. A record enters stage 0 at its core's next ingress slot. -/
  | recordIngress (core : Nat) (pipe : BitVec 1)
  /-- RECORD_PASS: R273. A record passes the 16 stages, applying table actions, and leaves by its egress. -/
  | recordPass (id : Nat)
  /-- LAUNCH_PACKET: R28. The dispatcher checks a launch packet and accepts or rejects it with a status code. -/
  | launchPacket
  /-- DOORBELL: R317. A host doorbell write makes the dispatcher read launch-queue entries. -/
  | doorbell (vf : BitVec 5) (value : BitVec 64)
  /-- QUEUE_BASE_WRITE: R316. A write of the launch-queue base, ignored and logged while head differs from tail. -/
  | queueBaseWrite (vf : BitVec 5) (value : BitVec 64)
  /-- HOST_NOTIFICATION: R318. A host notification write raises interrupt source 3 on one core. -/
  | hostNotification (vf : BitVec 5) (value : BitVec 64)
  /-- RESUME: R218. A resume-register write re-walks a major-faulted car's page and makes it restorable or issues a new notice. -/
  | resume (vf : BitVec 5) (value : BitVec 64)
  /-- CORES_OFFERED: R53. When cores fall free the dispatcher offers them to the next ready train and forms a consist. -/
  | coresOffered (part : BitVec 5)
  /-- CAR_COMPLETE: R35. A car completes when all cores issued CARDONE and named queues drained. -/
  | carComplete (consist : Nat)
  /-- PARTITION_DESCRIPTOR_WRITE: R55. A management write of a partition descriptor, refused and logged when invalid. -/
  | partitionDescriptorWrite (part : BitVec 5) (value : BitVec 64)
  /-- SERVICE_WINDOW_END: R56. At the end of each 100 µs window the service controller plans core moves. -/
  | serviceWindowEnd
  /-- SCRUB_COMPLETE: R57. A moved core's 48 µs scrub ends and it joins its new partition. -/
  | scrubComplete (core : Nat)
  /-- HOLD_RELEASE: R48. When every awaited item is present the consist resumes 4 lead-die cycles later. -/
  | holdRelease (consist : Nat)
  /-- HOLD_LIMIT: R51. A hold reaching 2^30 station cycles raises schedule fault 0x0B. -/
  | holdLimit (consist : Nat)
  /-- REFRESH_WINDOW_OPEN: R20. A refresh window opens on each multiple of 5,072 package-time cycles. -/
  | refreshWindowOpen
  /-- REFRESH_WINDOW_CLOSE: R20. A refresh window closes after 416 cycles and held accesses proceed. -/
  | refreshWindowClose
  /-- ENGINE_ENTRY_COMPLETE: R40. A variable-completion engine entry finishes and retires, ending its borrows. -/
  | engineEntryComplete (core : Nat) (queue : BitVec 3)
  /-- PORTER_OPERATION: R170. A porter performs one arriving cell operation in cell order and replies. -/
  | porterOperation (porter : BitVec 10)
  /-- WAITV_POLL: R176. Without a free watch slot the porter interface re-reads the cell after a doubling delay. -/
  | waitvPoll (core : Nat)
  /-- BARRIER_ARRIVAL: R178. A copy, link or shuttle command's byte count arrives at a barrier cell. -/
  | barrierArrival (porter : BitVec 10)
  /-- WEIGHT_RETURN: R76. A returned weight is subtracted at the home porter, freeing at total 0. -/
  | weightReturn (id : Nat)
  /-- EXTENSION: R74. The home porter extends a tile's total and generation for DUP. -/
  | extension (id : Nat)
  /-- UNIQUENESS_QUERY: R78. The home porter answers whether a handle's weight equals the total. -/
  | uniquenessQuery (id : Nat)
  /-- SEAL_RECORD: R65. The home porter makes a blank entry live, or discards the record. -/
  | sealRecord (id : Nat)
  /-- CONVERSION_TO_BLANK: R65. The home porter converts a live entry to blank for DROP.B or UPD. -/
  | conversionToBlank (id : Nat)
  /-- ALLOC_REQUEST: R62. A porter hands out a block from its free list, splitting larger blocks. -/
  | allocRequest (id : Nat)
  /-- STORAGE_FREED: R65. Eight porter cycles after reaching being-freed the storage returns to the free list. -/
  | storageFreed (key : Nat)
  /-- CHECK_FAILURE: R325. A failed data check retries once and on a second failure poisons the granule. -/
  | checkFailure (addr : Nat) (secondPasses : Bool) (die : Nat) (unit : BitVec 8)
  /-- SHADOW_WALK_COMPLETE: R214. The shadow context finishes a walk or extension: fills the TLB, or yields a major fault or violation. -/
  | shadowWalkComplete (core : Nat)
  /-- MAJOR_FAULT_SAVE: R216. The dispatcher saves a car's context for a major translation fault or pre-emption. -/
  | majorFaultSave (consist : Nat)
  /-- CONTEXT_RESTORE: R217. A saved car is restored onto its cores once they are free and it is restorable. -/
  | contextRestore (part : BitVec 5) (train : BitVec 15) (car : BitVec 32)
  /-- TIMER_COMPARE: R213. The timer becomes pending when package time reaches the armed compare value. -/
  | timerCompare (core : Nat)
  /-- INTERRUPT_TAKEN: R213. A pending interrupt is taken at the first eligible TTC cycle. -/
  | interruptTaken (consist : Nat)
  /-- ABORT_TIMER: R219. A frozen car not revived within 1 ms causes its train to be aborted. -/
  | abortTimer (consist : Nat)
  /-- REVIVE: R219. A management core revives a frozen car, turning it into a context save. -/
  | revive (consist : Nat)
  /-- HALT_RESUME: R357. A management core resumes a halted car at the HALT's next word. -/
  | haltResume (consist : Nat)
  /-- INVALIDATION_REQUEST: R323. A write of the invalidation register starts a translation invalidation. -/
  | invalidationRequest (part : BitVec 5) (va : BitVec 64) (log2 : Nat)
  /-- INVALIDATION_ACK: R164. A die acknowledges an invalidation once accesses using old translations have performed. -/
  | invalidationAck (die : Nat)
  /-- PAGE_MIGRATION: R165. A management core starts migrating a page line by line to a new frame. -/
  | pageMigration (old : Nat) (new : Nat) (log2 : Nat)
  /-- MIGRATION_LINE_COPY: R166. The base die copies one 256-byte line as a porter operation. -/
  | migrationLineCopy
  /-- DIE_RESET_REQUEST: R241. A management core puts a die into reset, stopping injection. -/
  | dieResetRequest (die : Nat)
  /-- RESET_ASSERT: R241. Once outbound lanes are empty the die's reset asserts. -/
  | resetAssert (die : Nat)
  /-- DIE_RESET_RELEASE: R241. A die leaves reset with its PTC replica reloaded and station time at 0. -/
  | dieResetRelease (die : Nat)
  /-- FREQUENCY_REQUEST: R239. A management core requests a new lockstep operating point. -/
  | frequencyRequest (point : BitVec 2)
  /-- FREQUENCY_STALL_START: R239. At PTC S every station clock stops. -/
  | frequencyStallStart
  /-- FREQUENCY_STALL_END: R239. After 2,600 PTC cycles all dies restart at the new point. -/
  | frequencyStallEnd
  /-- RETIME_RELEASE: R240. At PTC Q the consist resumes and the next word issues. -/
  | retimeRelease (consist : Nat)
  /-- RETIME_SLIP_FAULT: R240. A late notice beyond the slack raises schedule fault 0x06 at PTC T'+s+1. -/
  | retimeSlipFault (consist : Nat)
  /-- SSTEP_DRAIN_POINT: R396. At the superstep drain point the consist holds for its still outstanding covered writes. -/
  | sstepDrainPoint (core : Nat)
  /-- MARK_COMPLETE: R184. When all markers retire and acknowledgements are zero the token is signalled. -/
  | markComplete (core : Nat) (id : Nat)
  /-- KV_QUEUE_DRAIN: R258. An append-queue entry drains to DRAM in order, freeing room for waiting appends. -/
  | kvQueueDrain (stack : Nat)
  /-- TABLET_ARRIVAL: R261. A lent tablet arrives at the sender's channel. -/
  | tabletArrival (core : Nat) (ch : BitVec 4)
  /-- SHUTTLE_DELIVERY: R262. The shuttle copy completes, seals the tablet and appends it to the receiver's FIFO. -/
  | shuttleDelivery (core : Nat)
  /-- SLOT_OCCURRENCE: R286. A Turntable slot starts with package-number checks, then departures, resends and relay forwarding. -/
  | slotOccurrence (checks : BitVec 8)
  /-- LATE_RETURN: R295. A message not wholly staged 512 PTC cycles before its berth is returned late. -/
  | lateReturn (id : Nat)
  /-- MESSAGE_ARRIVAL: R292. A numbered message arrives and is delivered in sequence order to the route's arrival queue. -/
  | messageArrival (m : Message)
  /-- SERVICE_ITEM_ARRIVAL: R293. A service flit delivers replies, acknowledgements, credits and weight returns. -/
  | serviceItemArrival (peer : BitVec 6) (seq : Nat) (item : ServiceItem) (cumAck : Nat) (arrCredits : Nat) (relayCredits : Nat)
  /-- REMOTE_OPERATION: R299. A remote load, store, add or CAS performs at the peer's porter in sequence order. -/
  | remoteOperation (op : RemoteReq)
  /-- FREEZE_NOTICE: R300. A remote violation notice freezes the issuing master on arrival. -/
  | freezeNotice (peer : BitVec 6) (seq : Nat) (n : Notice)
  /-- PEER_UNREACHABLE: R301. After 4 rotations of down slots or no acknowledgement a peer becomes unreachable and sequence numbers are exchanged. -/
  | peerUnreachable (peer : BitVec 6) (accepted : Option Nat)
  /-- SEQUENCE_EXCHANGE_TIMEOUT: R301. With no peer answer within 1 ms every unacknowledged message is returned. -/
  | sequenceExchangeTimeout (peer : BitVec 6)
  /-- DRAIN_MARKER: R303. A drain marker is returned by a peer; with all back, drain-complete is set. -/
  | drainMarker (peer : BitVec 6) (seq : Nat)
  /-- CALENDAR_DARK: R304. At the end of rotation N-1 the ports go dark. -/
  | calendarDark
  /-- CALENDAR_TAKEOVER: R304. After 20,480 ns the shadow calendar becomes active and rotation N starts. -/
  | calendarTakeover (relocked : BitVec 8)
  /-- BERTH_TABLE_WRITE: R288. A management write of a berth-table entry, refused for a reserved use. -/
  | berthTableWrite (index : BitVec 13) (value : BitVec 16)
  /-- GRANT_CHANGE: R322. A management grant change, refused when overlapping or while trains are accepted. -/
  | grantChange (part : BitVec 5) (grant : GrantSet)
  /-- REGISTER_WRITE: R316. A write to a register that has no row of its own. -/
  | registerWrite (reg : RegName) (value : BitVec 64)
  /-- LOAD_OVERLAY: R144. The loader checks, places, patches and publishes an overlay image. -/
  | loadOverlay (part : BitVec 5) (number : BitVec 16) (image : OverlayImage)
  /-- UNLOAD_OVERLAY: R146. The loader unloads an overlay, dropping its handles and freeing its banks. -/
  | unloadOverlay (part : BitVec 5) (number : BitVec 16)
  /-- POWER_ON: R319. Management core 0 runs the boot ROM and fetches the image. -/
  | powerOn (image : BootImage)
  /-- IMAGE_ACCEPT: R320. A fetched image is verified, measured and started, or discarded. -/
  | imageAccept
  /-- BOOT_RETRY: R320. After a failed image, the ROM fetches again 1 s later. -/
  | bootRetry (image : BootImage)
  /-- MEASUREMENT_EXTEND: R321. A measurement register is extended with a digest. -/
  | measurementExtend (mr : BitVec 3) (digest : BitVec 512)
  /-- QUOTE: R321. The security engine signs a nonce and the measurement registers. -/
  | quote (nonce : BitVec 512)
  /-- POWER_STATE: R327. A management core sets a die's power state. -/
  | powerState (die : Nat) (state : BitVec 2)
  /-- TEMPERATURE_SAMPLE: R327. Every 1 ms die temperatures are read and thermal actions taken. -/
  | temperatureSample (temps : List (Nat × Int))
  /-- SLIP_STALL: R238. In slack mode the C-die sequencers stop issuing for every consist with a die whose lag reaches 16, and resume when the lag falls below 16. -/
  | slipStall (die : Nat) (lag : Nat)
  /-- MANAGEMENT_INTERRUPT: R213. A management core raises interrupt source 4 on a core, which becomes pending until taken. -/
  | managementInterrupt (core : Nat)
  /-- POISONED_STORAGE_RELEASE: R325. A management core tests poisoned storage kept off the free list and releases it back to the free list. -/
  | poisonedStorageRelease (key : Nat)
  /-- HALT_ABORT: R357. A management core aborts the train of a halted car instead of resuming it. -/
  | haltAbort (consist : Nat)
  /-- ILLEGAL_WORD: R121. The sequencer reaches a word with a reserved opcode, a 0xFE or 0xFF marker in word position, or a malformed header on fall-through, and raises the illegal-instruction fault. -/
  | illegalWord (sub : BitVec 8)
  /-- HOST_PAGING_COPY_RESUME: R218. A fault notice held at the dispatcher while the host paging-queue entry is still valid is written once the host has cleared that entry's valid bit. -/
  | hostPagingCopyResume (part : BitVec 5)
  deriving DecidableEq, Repr

end Sys2Proof
end

