-- ==== Sys2Proof/Machine/Checks.lean ====
section
/-! DEFINITION. The decode checks of R122 on an instruction's fields, one function per subcode, and which register fields
an instruction names as sources and as destinations (R125). Tables generated from the forms of the spec's entries. -/
namespace Sys2Proof.Machine
open Sys2Proof

/-- A register an instruction names, in the order in which it reads and writes them (R125). -/
inductive Role where
  | sSrc (r : BitVec 6)
  | sDst (r : BitVec 6)
  | hSrc (r : BitVec 5)
  | hDst (r : BitVec 5)
  | fqPop                       -- MMA's pop of the format queue (R97)
  | bqPop                       -- BRQ's pop of its branch-outcome queue (R338)
  | bqPush                      -- PSET's push of its branch-outcome queue (R382)
  deriving DecidableEq, Repr

/-- Where a word stands, as far as decoding it depends on that (R114, R120, R122, R339, R366): the sequencer and core
class, the words of the section that follow it (its own literal counted), and those words. -/
structure Ctx where
  seq  : SeqId
  cls  : CoreClass
  left : Nat
  word : Nat → Word96

/-- The scalar and handle registers, and the queues, that an instruction word names (R125, R127, R435). -/
def roles : Instr → List Role
  | .sysr _ d _ => [.sDst d]
  | .sysw _ a _ => [.sSrc a]
  | .ovlyS _ a => [.sSrc a]
  | .dlaunchP _ d a => [.sDst d, .sSrc a]
  | .saluAdd _ d a b => [.sDst d, .sSrc a, .sSrc b]
  | .saluSub _ d a b => [.sDst d, .sSrc a, .sSrc b]
  | .saluAnd _ d a b => [.sDst d, .sSrc a, .sSrc b]
  | .saluOr _ d a b => [.sDst d, .sSrc a, .sSrc b]
  | .saluXor _ d a b => [.sDst d, .sSrc a, .sSrc b]
  | .saluAndn _ d a b => [.sDst d, .sSrc a, .sSrc b]
  | .saluShl _ d a b => [.sDst d, .sSrc a, .sSrc b]
  | .saluShr _ d a b => [.sDst d, .sSrc a, .sSrc b]
  | .saluSar _ d a b => [.sDst d, .sSrc a, .sSrc b]
  | .saluRol _ d a b => [.sDst d, .sSrc a, .sSrc b]
  | .saluMin _ d a b => [.sDst d, .sSrc a, .sSrc b]
  | .saluMax _ d a b => [.sDst d, .sSrc a, .sSrc b]
  | .saluMinu _ d a b => [.sDst d, .sSrc a, .sSrc b]
  | .saluMaxu _ d a b => [.sDst d, .sSrc a, .sSrc b]
  | .saluMul _ d a b => [.sDst d, .sSrc a, .sSrc b]
  | .saluMulh _ d a b => [.sDst d, .sSrc a, .sSrc b]
  | .saluMulhu _ d a b => [.sDst d, .sSrc a, .sSrc b]
  | .saluSeq _ d a b => [.sDst d, .sSrc a, .sSrc b]
  | .saluSne _ d a b => [.sDst d, .sSrc a, .sSrc b]
  | .saluSlt _ d a b => [.sDst d, .sSrc a, .sSrc b]
  | .saluSltu _ d a b => [.sDst d, .sSrc a, .sSrc b]
  | .saluSel _ d a b c => [.sDst d, .sSrc a, .sSrc b, .sSrc c]
  | .saluClz _ d a => [.sDst d, .sSrc a]
  | .saluCtz _ d a => [.sDst d, .sSrc a]
  | .saluPop _ d a => [.sDst d, .sSrc a]
  | .saluiAdd _ d a _ => [.sDst d, .sSrc a]
  | .saluiSub _ d a _ => [.sDst d, .sSrc a]
  | .saluiAnd _ d a _ => [.sDst d, .sSrc a]
  | .saluiOr _ d a _ => [.sDst d, .sSrc a]
  | .saluiXor _ d a _ => [.sDst d, .sSrc a]
  | .saluiAndn _ d a _ => [.sDst d, .sSrc a]
  | .saluiShl _ d a _ => [.sDst d, .sSrc a]
  | .saluiShr _ d a _ => [.sDst d, .sSrc a]
  | .saluiSar _ d a _ => [.sDst d, .sSrc a]
  | .saluiRol _ d a _ => [.sDst d, .sSrc a]
  | .saluiMin _ d a _ => [.sDst d, .sSrc a]
  | .saluiMax _ d a _ => [.sDst d, .sSrc a]
  | .saluiMinu _ d a _ => [.sDst d, .sSrc a]
  | .saluiMaxu _ d a _ => [.sDst d, .sSrc a]
  | .saluiMul _ d a _ => [.sDst d, .sSrc a]
  | .saluiMulh _ d a _ => [.sDst d, .sSrc a]
  | .saluiMulhu _ d a _ => [.sDst d, .sSrc a]
  | .saluiSeq _ d a _ => [.sDst d, .sSrc a]
  | .saluiSne _ d a _ => [.sDst d, .sSrc a]
  | .saluiSlt _ d a _ => [.sDst d, .sSrc a]
  | .saluiSltu _ d a _ => [.sDst d, .sSrc a]
  | .sdivDiv _ d a b => [.sDst d, .sSrc a, .sSrc b]
  | .sdivDivu _ d a b => [.sDst d, .sSrc a, .sSrc b]
  | .sdivRem _ d a b => [.sDst d, .sSrc a, .sSrc b]
  | .sdivRemu _ d a b => [.sDst d, .sSrc a, .sSrc b]
  | .sfpAdd _ d a b => [.sDst d, .sSrc a, .sSrc b]
  | .sfpSub _ d a b => [.sDst d, .sSrc a, .sSrc b]
  | .sfpMul _ d a b => [.sDst d, .sSrc a, .sSrc b]
  | .sfpFma _ d a b c => [.sDst d, .sSrc a, .sSrc b, .sSrc c]
  | .sfpDiv _ d a b => [.sDst d, .sSrc a, .sSrc b]
  | .sfpSqrt _ d a => [.sDst d, .sSrc a]
  | .sfpMin _ d a b => [.sDst d, .sSrc a, .sSrc b]
  | .sfpMax _ d a b => [.sDst d, .sSrc a, .sSrc b]
  | .sfpCvti _ d a => [.sDst d, .sSrc a]
  | .sfpCvtf _ d a => [.sDst d, .sSrc a]
  | .sfpEq _ d a b => [.sDst d, .sSrc a, .sSrc b]
  | .sfpLt _ d a b => [.sDst d, .sSrc a, .sSrc b]
  | .sfpLe _ d a b => [.sDst d, .sSrc a, .sSrc b]
  | .psetAnd _ _ _ _ c => if c.getLsbD 0 then [.bqPush] else []
  | .psetOr _ _ _ _ c => if c.getLsbD 0 then [.bqPush] else []
  | .psetXor _ _ _ _ c => if c.getLsbD 0 then [.bqPush] else []
  | .psetAndn _ _ _ _ c => if c.getLsbD 0 then [.bqPush] else []
  | .psetEq _ _ a b c => [.sSrc a, .sSrc b] ++ (if c.getLsbD 0 then [.bqPush] else [])
  | .psetNe _ _ a b c => [.sSrc a, .sSrc b] ++ (if c.getLsbD 0 then [.bqPush] else [])
  | .psetLt _ _ a b c => [.sSrc a, .sSrc b] ++ (if c.getLsbD 0 then [.bqPush] else [])
  | .psetLtu _ _ a b c => [.sSrc a, .sSrc b] ++ (if c.getLsbD 0 then [.bqPush] else [])
  | .psetGe _ _ a b c => [.sSrc a, .sSrc b] ++ (if c.getLsbD 0 then [.bqPush] else [])
  | .psetGeu _ _ a b c => [.sSrc a, .sSrc b] ++ (if c.getLsbD 0 then [.bqPush] else [])
  | .lit _ d _ => [.sDst d]
  | .ldP _ d a _ => [.sDst d, .sSrc a]
  | .ldH _ d a _ => [.sDst d, .hSrc (a.setWidth 5)]
  | .ldCap _ d a _ => [.hDst (d.setWidth 5), .sSrc a]
  | .stP _ d a _ => [.sSrc d, .sSrc a]
  | .stH _ d a _ => [.sSrc d, .hSrc (a.setWidth 5)]
  | .stCap _ d a _ => [.hSrc (d.setWidth 5), .sSrc a]
  | .pbrR _ _ a => [.sSrc a]
  | .brqT _ _ => [.bqPop]
  | .brqF _ _ => [.bqPop]
  | .loopS _ _ a _ => [.sSrc a]
  | .repeatS _ a => [.sSrc a]
  | .signalS _ d _ => [.sSrc d]
  | .toksetX _ d _ _ => [.sDst d]
  | .fenceS _ d _ => [.sDst d]
  | .retimeAt _ a _ => [.sSrc a]
  | .waitvEq _ h a b _ _ _ => [.hSrc h, .sDst a, .sSrc b]
  | .waitvNe _ h a b _ _ _ => [.hSrc h, .sDst a, .sSrc b]
  | .waitvGe _ h a b _ _ _ => [.hSrc h, .sDst a, .sSrc b]
  | .waitvLt _ h a b _ _ _ => [.hSrc h, .sDst a, .sSrc b]
  | .waitvAny _ h a b _ _ _ => [.hSrc h, .sDst a, .sSrc b]
  | .waitvNone _ h a b _ _ _ => [.hSrc h, .sDst a, .sSrc b]
  | .sstepS _ a _ => [.sSrc a]
  | .capsetB _ hd ha sr => [.hSrc ha, .sSrc sr, .hDst hd]
  | .capsetE _ hd ha sr => [.hSrc ha, .sSrc sr, .hDst hd]
  | .cappermAnd _ hd ha _ => [.hSrc ha, .hDst hd]
  | .capoffAdd _ hd ha sr => [.hSrc ha, .sSrc sr, .hDst hd]
  | .capoffSet _ hd ha sr => [.hSrc ha, .sSrc sr, .hDst hd]
  | .capgetA _ ha sr => [.hSrc ha, .sDst sr]
  | .capgetCells _ hd => [.hDst hd]
  | .capgetKv _ hd => [.hDst hd]
  | .capgetPeer _ hd sr => [.sSrc sr, .hDst hd]
  | .capgetSys _ hd => [.hDst hd]
  | .capgetBase _ ha sr => [.hSrc ha, .sDst sr]
  | .capgetLen _ ha sr => [.hSrc ha, .sDst sr]
  | .capgetHi _ ha sr => [.hSrc ha, .sDst sr]
  | .captestTag _ ha sr => [.hSrc ha, .sDst sr]
  | .captestIn _ ha sr _ => [.hSrc ha, .sDst sr]
  | .dupN _ hd ha _ => [.hSrc ha, .hDst hd]
  | .dropW _ ha => [.hSrc ha]
  | .dropB _ hd ha _ => [.hSrc ha, .hDst hd]
  | .movhM _ hd ha => [.hSrc ha, .hDst hd]
  | .mergeW _ hd ha hb => [.hSrc ha, .hSrc hb, .hDst hd]
  | .allocT _ hd _ => [.hDst hd]
  | .allocM _ hd _ => [.hDst hd]
  | .isunqL _ ha sr => [.hSrc ha, .sDst sr]
  | .isunqX _ ha sr => [.hSrc ha, .sDst sr]
  | .updT _ hd ha => [.hSrc ha, .hDst hd]
  | .updM _ hd ha => [.hSrc ha, .hDst hd]
  | .sealT _ hd ha _ => [.hSrc ha, .hDst hd]
  | .gsetR _ ha _ _ => [.hSrc ha]
  | .csetS _ _ a => [.sSrc a]
  | .caddS _ _ a => [.sSrc a]
  | .tldR _ _ ha _ _ _ _ _ _ _ _ => [.hSrc ha]
  | .tldW _ _ ha _ => [.hSrc ha]
  | .tcopyR _ hd ha _ _ _ sr _ _ _ _ _ => [.hSrc hd, .hSrc ha, .sSrc sr]
  | .tcopyW _ hd ha sr _ => [.hSrc hd, .hSrc ha, .sSrc sr]
  | .tcopyS _ hd ha _ _ _ sr _ _ _ _ => [.hSrc hd, .hSrc ha, .sSrc sr]
  | .tcopyHi _ hd ha sr _ _ => [.hSrc hd, .hSrc ha, .sSrc sr]
  | .tcopyHo _ hd ha sr _ _ => [.hSrc hd, .hSrc ha, .sSrc sr]
  | .gatherK _ _ ha sr _ => [.hSrc ha, .sSrc sr]
  | .gatherV _ _ ha sr _ => [.hSrc ha, .sSrc sr]
  | .appendKv _ hd ha sr => [.hSrc hd, .hSrc ha, .sSrc sr]
  | .mmaT _ _ _ _ _ _ _ _ _ => [.fqPop]
  | .mdrainT _ _ _ hb _ _ sr => [.hSrc hb, .sSrc sr]
  | .tstatR _ d _ => [.sDst d]
  | .vlrotRots _ _ _ _ _ sr => [.sSrc sr]
  | .vbcastS _ _ _ _ sr => [.sSrc sr]
  | .vtopkVal _ _ _ vb _ _ _ => [.sSrc vb]
  | .vtopkIdx _ _ _ vb _ _ sr _ => [.sSrc vb, .sSrc sr]
  | .vldMod _ _ _ _ sr _ => [.hSrc (sr.setWidth 5)]
  | .vldRow _ _ vb _ _ sr => [.hSrc (sr.setWidth 5), .sSrc vb]
  | .vldStr _ _ vb vc _ _ sr _ => [.hSrc (sr.setWidth 5), .sSrc vb, .sSrc vc]
  | .vstMod _ _ _ _ sr _ => [.hSrc (sr.setWidth 5)]
  | .vstRow _ _ vb _ _ sr => [.hSrc (sr.setWidth 5), .sSrc vb]
  | .vstStr _ _ vb vc _ _ sr _ => [.hSrc (sr.setWidth 5), .sSrc vb, .sSrc vc]
  | .vmovsLane _ _ _ sr _ => [.sDst sr]
  | .vmovsPair _ _ _ sr _ => [.sDst sr]
  | .astartGo _ d a _ => [.hSrc (d.setWidth 5), .sSrc a]
  | .aloadW _ h a b => [.hSrc h, .sSrc a, .sSrc b]
  | .astatRd _ d a => [.sDst d, .sSrc a]
  | .astatWait _ d a => [.sDst d, .sSrc a]
  | .pamoAdd _ h a b _ _ _ => [.hSrc h, .sDst a, .sSrc b]
  | .pamoMin _ h a b _ _ _ => [.hSrc h, .sDst a, .sSrc b]
  | .pamoMax _ h a b _ _ _ => [.hSrc h, .sDst a, .sSrc b]
  | .pamoSwap _ h a b _ _ _ => [.hSrc h, .sDst a, .sSrc b]
  | .pamoCas _ h a b c _ _ _ => [.hSrc h, .sDst a, .sSrc b, .sSrc c]
  | .pamoCas2 _ h a b c _ _ _ => [.hSrc h, .sDst a, .sSrc b, .sSrc c]
  | .pamoEnq _ h a b _ _ _ => [.hSrc h, .sDst a, .sSrc b]
  | .pamoChase _ h a _ _ _ _ => [.hSrc h, .sDst a]
  | .pamoRedAdd _ h b _ _ _ => [.hSrc h, .sSrc b]
  | .pamoRedMin _ h b _ _ _ => [.hSrc h, .sSrc b]
  | .pamoRedMax _ h b _ _ _ => [.hSrc h, .sSrc b]
  | .pamoHxch _ h _ _ _ => [.hSrc h, .hSrc 31, .hDst 31]
  | .pldC _ h a _ _ _ => [.hSrc h, .sDst a]
  | .pstC _ h b _ _ _ => [.hSrc h, .sSrc b]
  | .bcntP _ h b _ _ _ => [.hSrc h, .sSrc b]
  | .lsendH _ h c _ _ _ _ _ => [.hSrc h, .sSrc c]
  | .lsendD _ h b c _ _ _ _ _ => [.hSrc h, .sSrc b, .sSrc c]
  | .lsendV _ b c _ _ _ _ _ => [.sSrc b, .sSrc c]
  | .lsendRld _ h a _ _ => [.hSrc h, .sDst a]
  | .lsendRst _ h b _ _ => [.hSrc h, .sSrc b]
  | .lsendRadd _ h a b _ _ => [.hSrc h, .sDst a, .sSrc b]
  | .lsendRcas _ h a b c _ _ => [.hSrc h, .sDst a, .sSrc b, .sSrc c]
  | .ltakeM _ h a => [.hDst h, .sDst a]
  | .ltakeP _ h a => [.hDst h, .sDst a]
  | .lcalW _ h b => [.hSrc h, .sSrc b]
  | .lmarkD _ b => [.sSrc b]
  | .lstatRd _ a b => [.sDst a, .sSrc b]
  | .shsendT _ h _ => [.hSrc h]
  | .shtakeT _ h _ => [.hDst h]
  | .shretOpen _ a _ _ _ => [.sSrc a]
  | .shretT _ h _ => [.hSrc h]
  | .sbputR _ b _ _ => [.sSrc b]
  | .sbgetQ _ a b => [.sDst a, .sSrc b]
  | .sbgetX _ a b => [.sDst a, .sSrc b]
  | .sbtblW _ b _ => [.sSrc b]
  | .sbcommitG _ b => [.sSrc b]
  | .sbstatRd _ a b => [.sDst a, .sSrc b]
  | .sbstatMark _ b => [.sSrc b]
  | _ => []

/-- The lane-type field of a V word (R110, R123). -/
def typeField : Instr → Option (BitVec 4)
  | .valuAdd _ _ _ _ ty _ _ _ => some ty
  | .valuSub _ _ _ _ ty _ _ _ => some ty
  | .valuAnd _ _ _ _ ty _ _ _ => some ty
  | .valuOr _ _ _ _ ty _ _ _ => some ty
  | .valuXor _ _ _ _ ty _ _ _ => some ty
  | .valuAndn _ _ _ _ ty _ _ _ => some ty
  | .valuShl _ _ _ _ ty _ _ _ => some ty
  | .valuShr _ _ _ _ ty _ _ _ => some ty
  | .valuSar _ _ _ _ ty _ _ _ => some ty
  | .valuMin _ _ _ _ ty _ _ _ => some ty
  | .valuMax _ _ _ _ ty _ _ _ => some ty
  | .valuAbs _ _ _ ty _ _ _ => some ty
  | .valuMul _ _ _ _ ty _ _ _ => some ty
  | .valuMulh _ _ _ _ ty _ _ _ => some ty
  | .vfmaFma _ _ _ _ _ ty _ _ _ => some ty
  | .vfmaFms _ _ _ _ _ ty _ _ _ => some ty
  | .vfmaFnma _ _ _ _ _ ty _ _ _ => some ty
  | .vcmpEq _ _ _ _ ty _ => some ty
  | .vcmpNe _ _ _ _ ty _ => some ty
  | .vcmpLt _ _ _ _ ty _ => some ty
  | .vcmpGe _ _ _ _ ty _ => some ty
  | .vcvtCvt _ _ _ ty _ _ _ _ => some ty
  | .vlt3Lut _ _ _ _ _ ty _ _ => some ty
  | .vfshL _ _ _ _ ty _ _ => some ty
  | .vfshR _ _ _ _ ty _ _ => some ty
  | .vlrotRot _ _ _ ty _ _ => some ty
  | .vlrotRots _ _ _ ty _ _ => some ty
  | .vpermIdx _ _ _ _ ty _ => some ty
  | .vpermIdx2 _ _ _ _ _ ty _ => some ty
  | .vbcastS _ _ ty _ _ => some ty
  | .vbcastLane _ _ _ ty _ _ => some ty
  | .vbcastImm _ _ ty _ _ => some ty
  | .vredAdd _ _ _ ty _ _ _ => some ty
  | .vredAnd _ _ _ ty _ _ _ => some ty
  | .vredOr _ _ _ ty _ _ _ => some ty
  | .vredXor _ _ _ ty _ _ _ => some ty
  | .vredMin _ _ _ ty _ _ _ => some ty
  | .vredMax _ _ _ ty _ _ _ => some ty
  | .vfunExp _ _ _ ty _ _ _ => some ty
  | .vfunExp2 _ _ _ ty _ _ _ => some ty
  | .vfunLog _ _ _ ty _ _ _ => some ty
  | .vfunLog2 _ _ _ ty _ _ _ => some ty
  | .vfunRcp _ _ _ ty _ _ _ => some ty
  | .vfunSqrt _ _ _ ty _ _ _ => some ty
  | .vfunRsqrt _ _ _ ty _ _ _ => some ty
  | .vfunTanh _ _ _ ty _ _ _ => some ty
  | .vfunSigm _ _ _ ty _ _ _ => some ty
  | .vtopkVal _ _ _ _ ty _ _ => some ty
  | .vtopkIdx _ _ _ _ ty _ _ _ => some ty
  | .vldMod _ _ ty _ _ _ => some ty
  | .vldRow _ _ _ ty _ _ => some ty
  | .vldStr _ _ _ _ ty _ _ _ => some ty
  | .vstMod _ _ ty _ _ _ => some ty
  | .vstRow _ _ _ ty _ _ => some ty
  | .vstStr _ _ _ _ ty _ _ _ => some ty
  | .vmovsLane _ _ ty _ _ => some ty
  | .vmovsPair _ _ ty _ _ => some ty
  | .vselBit _ _ _ _ _ ty _ => some ty
  | .vselMask _ _ _ _ ty => some ty
  | .mpushEq _ _ _ ty => some ty
  | .mpushNe _ _ _ ty => some ty
  | .mpushLt _ _ _ ty => some ty
  | .mpushGe _ _ _ ty => some ty
  | .minv _ ty => some ty
  | .mpop _ ty => some ty
  | .mgetM _ _ ty => some ty
  | .mgetV _ _ ty => some ty
  | .msetM _ _ ty => some ty
  | .msetV _ _ ty => some ty
  | .vparkP _ _ _ ty _ => some ty
  | .vunparkU _ _ ty => some ty
  | _ => none

/-- The lane types a V word's form accepts (R373, R399, R410-R426). -/
def typesOf : Instr → List Nat
  | .valuAdd _ _ _ _ _ _ _ _ => [0, 1, 2, 3, 4, 5, 6]
  | .valuSub _ _ _ _ _ _ _ _ => [0, 1, 2, 3, 4, 5, 6]
  | .valuAnd _ _ _ _ _ _ _ _ => [9]
  | .valuOr _ _ _ _ _ _ _ _ => [9]
  | .valuXor _ _ _ _ _ _ _ _ => [9]
  | .valuAndn _ _ _ _ _ _ _ _ => [9]
  | .valuShl _ _ _ _ _ _ _ _ => [0, 1, 5, 6, 9]
  | .valuShr _ _ _ _ _ _ _ _ => [0, 1, 5, 6, 9]
  | .valuSar _ _ _ _ _ _ _ _ => [0, 5, 6]
  | .valuMin _ _ _ _ _ _ _ _ => [0, 1, 2, 3, 4, 5, 6]
  | .valuMax _ _ _ _ _ _ _ _ => [0, 1, 2, 3, 4, 5, 6]
  | .valuAbs _ _ _ _ _ _ _ => [0, 2, 3, 4, 5, 6]
  | .valuMul _ _ _ _ _ _ _ _ => [0, 1, 2, 3, 4, 5, 6]
  | .valuMulh _ _ _ _ _ _ _ _ => [0, 1]
  | .vfmaFma _ _ _ _ _ _ _ _ _ => [2, 3, 4]
  | .vfmaFms _ _ _ _ _ _ _ _ _ => [2, 3, 4]
  | .vfmaFnma _ _ _ _ _ _ _ _ _ => [2, 3, 4]
  | .vcmpEq _ _ _ _ _ _ => [0, 1, 2, 3, 4, 5, 6, 9]
  | .vcmpNe _ _ _ _ _ _ => [0, 1, 2, 3, 4, 5, 6, 9]
  | .vcmpLt _ _ _ _ _ _ => [0, 1, 2, 3, 4, 5, 6]
  | .vcmpGe _ _ _ _ _ _ => [0, 1, 2, 3, 4, 5, 6]
  | .vcvtCvt _ _ _ _ _ _ _ _ => [0, 1, 2, 3, 4, 5, 6, 7, 8]
  | .vlt3Lut _ _ _ _ _ _ _ _ => [9]
  | .vfshL _ _ _ _ _ _ _ => [9]
  | .vfshR _ _ _ _ _ _ _ => [9]
  | .vlrotRot _ _ _ _ _ _ => [9]
  | .vlrotRots _ _ _ _ _ _ => [9]
  | .vpermIdx _ _ _ _ _ _ => [9]
  | .vpermIdx2 _ _ _ _ _ _ _ => [9]
  | .vbcastS _ _ _ _ _ => [9]
  | .vbcastLane _ _ _ _ _ _ => [9]
  | .vbcastImm _ _ _ _ _ => [9]
  | .vredAdd _ _ _ _ _ _ _ => [0, 1, 2]
  | .vredAnd _ _ _ _ _ _ _ => [9]
  | .vredOr _ _ _ _ _ _ _ => [9]
  | .vredXor _ _ _ _ _ _ _ => [9]
  | .vredMin _ _ _ _ _ _ _ => [0, 1, 2]
  | .vredMax _ _ _ _ _ _ _ => [0, 1, 2]
  | .vfunExp _ _ _ _ _ _ _ => [2]
  | .vfunExp2 _ _ _ _ _ _ _ => [2]
  | .vfunLog _ _ _ _ _ _ _ => [2]
  | .vfunLog2 _ _ _ _ _ _ _ => [2]
  | .vfunRcp _ _ _ _ _ _ _ => [2]
  | .vfunSqrt _ _ _ _ _ _ _ => [2]
  | .vfunRsqrt _ _ _ _ _ _ _ => [2]
  | .vfunTanh _ _ _ _ _ _ _ => [2]
  | .vfunSigm _ _ _ _ _ _ _ => [2]
  | .vtopkVal _ _ _ _ _ _ _ => [2]
  | .vtopkIdx _ _ _ _ _ _ _ _ => [2]
  | .vldMod _ _ _ _ _ _ => [3, 9]
  | .vldRow _ _ _ _ _ _ => [9]
  | .vldStr _ _ _ _ _ _ _ _ => [9]
  | .vstMod _ _ _ _ _ _ => [3, 9]
  | .vstRow _ _ _ _ _ _ => [9]
  | .vstStr _ _ _ _ _ _ _ _ => [9]
  | .vmovsLane _ _ _ _ _ => [9]
  | .vmovsPair _ _ _ _ _ => [9]
  | .vselBit _ _ _ _ _ _ _ => [9]
  | .vselMask _ _ _ _ _ => [9]
  | .mpushEq _ _ _ _ => [0, 1, 2, 9]
  | .mpushNe _ _ _ _ => [0, 1, 2, 9]
  | .mpushLt _ _ _ _ => [0, 1, 2]
  | .mpushGe _ _ _ _ => [0, 1, 2]
  | .minv _ _ => [0]
  | .mpop _ _ => [0]
  | .mgetM _ _ _ => [0]
  | .mgetV _ _ _ => [0]
  | .msetM _ _ _ => [0]
  | .msetV _ _ _ => [0]
  | .vparkP _ _ _ _ _ => [9]
  | .vunparkU _ _ _ => [9]
  | _ => []

/-- The rounding and saturate fields of a V word that has them, with the lane type (R92, R93, R399). -/
def roundSat : Instr → Option (BitVec 4 × BitVec 3 × BitVec 1)
  | .valuAdd _ _ _ _ ty rm sat _ => some (ty, rm, sat)
  | .valuSub _ _ _ _ ty rm sat _ => some (ty, rm, sat)
  | .valuAnd _ _ _ _ ty rm sat _ => some (ty, rm, sat)
  | .valuOr _ _ _ _ ty rm sat _ => some (ty, rm, sat)
  | .valuXor _ _ _ _ ty rm sat _ => some (ty, rm, sat)
  | .valuAndn _ _ _ _ ty rm sat _ => some (ty, rm, sat)
  | .valuShl _ _ _ _ ty rm sat _ => some (ty, rm, sat)
  | .valuShr _ _ _ _ ty rm sat _ => some (ty, rm, sat)
  | .valuSar _ _ _ _ ty rm sat _ => some (ty, rm, sat)
  | .valuMin _ _ _ _ ty rm sat _ => some (ty, rm, sat)
  | .valuMax _ _ _ _ ty rm sat _ => some (ty, rm, sat)
  | .valuAbs _ _ _ ty rm sat _ => some (ty, rm, sat)
  | .valuMul _ _ _ _ ty rm sat _ => some (ty, rm, sat)
  | .valuMulh _ _ _ _ ty rm sat _ => some (ty, rm, sat)
  | .vfmaFma _ _ _ _ _ ty rm sat _ => some (ty, rm, sat)
  | .vfmaFms _ _ _ _ _ ty rm sat _ => some (ty, rm, sat)
  | .vfmaFnma _ _ _ _ _ ty rm sat _ => some (ty, rm, sat)
  | .vcvtCvt _ _ _ ty rm sat _ _ => some (ty, rm, sat)
  | .vredAdd _ _ _ ty rm sat _ => some (ty, rm, sat)
  | .vredAnd _ _ _ ty rm sat _ => some (ty, rm, sat)
  | .vredOr _ _ _ ty rm sat _ => some (ty, rm, sat)
  | .vredXor _ _ _ ty rm sat _ => some (ty, rm, sat)
  | .vredMin _ _ _ ty rm sat _ => some (ty, rm, sat)
  | .vredMax _ _ _ ty rm sat _ => some (ty, rm, sat)
  | .vfunExp _ _ _ ty rm sat _ => some (ty, rm, sat)
  | .vfunExp2 _ _ _ ty rm sat _ => some (ty, rm, sat)
  | .vfunLog _ _ _ ty rm sat _ => some (ty, rm, sat)
  | .vfunLog2 _ _ _ ty rm sat _ => some (ty, rm, sat)
  | .vfunRcp _ _ _ ty rm sat _ => some (ty, rm, sat)
  | .vfunSqrt _ _ _ ty rm sat _ => some (ty, rm, sat)
  | .vfunRsqrt _ _ _ ty rm sat _ => some (ty, rm, sat)
  | .vfunTanh _ _ _ ty rm sat _ => some (ty, rm, sat)
  | .vfunSigm _ _ _ ty rm sat _ => some (ty, rm, sat)
  | _ => none

/-- Whether the form rounds a floating result of this lane type, so that it may carry a rounding code (R123, R399,
R410, R413, R424). A VCVT may carry one whatever its types: R413 has conv round by the field (log 87). -/
def mayRound : Instr → BitVec 4 → Bool
  | .valuAdd _ _ _ _ _ _ _ _, ty => ty == 2 || ty == 3 || ty == 4
  | .valuSub _ _ _ _ _ _ _ _, ty => ty == 2 || ty == 3 || ty == 4
  | .valuAbs _ _ _ _ _ _ _, ty => ty == 2 || ty == 3 || ty == 4
  | .valuMul _ _ _ _ _ _ _ _, ty => ty == 2 || ty == 3 || ty == 4
  | .vfmaFma _ _ _ _ _ _ _ _ _, _ => true
  | .vfmaFms _ _ _ _ _ _ _ _ _, _ => true
  | .vfmaFnma _ _ _ _ _ _ _ _ _, _ => true
  | .vcvtCvt _ _ _ _ _ _ _ _, _ => true
  | .vredAdd _ _ _ _ _ _ _, ty => ty == 2
  | .vfunExp _ _ _ _ _ _ _, _ => true
  | .vfunExp2 _ _ _ _ _ _ _, _ => true
  | .vfunLog _ _ _ _ _ _ _, _ => true
  | .vfunLog2 _ _ _ _ _ _ _, _ => true
  | .vfunRcp _ _ _ _ _ _ _, _ => true
  | .vfunSqrt _ _ _ _ _ _ _, _ => true
  | .vfunRsqrt _ _ _ _ _ _ _, _ => true
  | .vfunTanh _ _ _ _ _ _ _, _ => true
  | .vfunSigm _ _ _ _ _ _ _, _ => true
  | _, _ => false

/-- Whether the form is marked as converting, so that it may carry the saturate bit (R399, R410, R424). -/
def mayClamp : Instr → BitVec 4 → Bool
  | .valuAdd _ _ _ _ _ _ _ _, _ => true
  | .valuSub _ _ _ _ _ _ _ _, _ => true
  | .valuAbs _ _ _ _ _ _ _, _ => true
  | .valuMul _ _ _ _ _ _ _ _, _ => true
  | .vfmaFma _ _ _ _ _ _ _ _ _, _ => true
  | .vfmaFms _ _ _ _ _ _ _ _ _, _ => true
  | .vfmaFnma _ _ _ _ _ _ _ _ _, _ => true
  | .vcvtCvt _ _ _ _ _ _ _ _, _ => true
  | .vredAdd _ _ _ _ _ _ _, ty => ty == 2
  | .vfunExp _ _ _ _ _ _ _, _ => true
  | .vfunExp2 _ _ _ _ _ _ _, _ => true
  | .vfunLog _ _ _ _ _ _ _, _ => true
  | .vfunLog2 _ _ _ _ _ _ _, _ => true
  | .vfunRcp _ _ _ _ _ _ _, _ => true
  | .vfunSqrt _ _ _ _ _ _ _, _ => true
  | .vfunRsqrt _ _ _ _ _ _ _, _ => true
  | .vfunTanh _ _ _ _ _ _ _, _ => true
  | .vfunSigm _ _ _ _ _ _ _, _ => true
  | _, _ => false

/-- Whether an opcode is followed by a trailing literal (R114). -/
def opHasLit (op : BitVec 8) : Bool := op == 0x15 || op == 0x50 || op == 0xBA

def opcodeOf (w : Word96) : BitVec 8 := w.extractLsb' 88 8

/-- Walking the words that follow from word `i` on, whether word `n` is a trailing literal. -/
def isLitFrom (word : Nat → Word96) (n : Nat) : Nat → Nat → Bool
  | _, 0 => false
  | i, fuel + 1 =>
    if i = n then false
    else if opHasLit (opcodeOf (word i)) then
      if i + 1 = n then true else isLitFrom word n (i + 2) fuel
    else isLitFrom word n (i + 1) fuel

/-- Whether a region of the next `n` words is whole: it ends within the section, and not between an instruction and its
literal (R339, R366). -/
def regionOk (cx : Ctx) (n : Nat) : Bool :=
  decide (n ≤ cx.left) && !isLitFrom cx.word n 0 (n + 1)

/-- Opcodes a REPEAT may not stand before (R366). -/
def noRepeat (op : BitVec 8) : Bool :=
  op == 0x20 || op == 0x21 || op == 0x22 || op == 0x23 || op == 0x24 || op == 0x25 || op == 0x26 || op == 0x27 ||
  op == 0x01 || op == 0x02 || op == 0x03 || op == 0x06 || op == 0x07 || op == 0x34

def repeatOk (cx : Ctx) : Bool := decide (0 < cx.left) && !noRepeat (opcodeOf (cx.word 0))

/-- imm48 as a signed number (R110). -/
def sxImm (i : BitVec 48) : Int := i.toInt

/-- imm48 within the range of a 32-bit signed number (R340). -/
def fits32 (i : BitVec 48) : Bool := decide (-(2 ^ 31 : Int) ≤ i.toInt) && decide (i.toInt < 2 ^ 31)

/-- System registers that SYSR reads (R226). -/
def sysRegs : List Nat :=
  [0, 1, 2, 3, 4, 5, 6, 8, 9, 10, 11, 0x10, 0x11, 0x12, 0x13, 0x14, 0x15, 0x18, 0x19, 0x1A]

/-- System registers that SYSW writes (R207, R226). -/
def sysWritable : List Nat := [8, 10, 0x10, 0x11, 0x12, 0x13, 0x14, 0x15, 0x18, 0x1A]

/-- The cell-operation orders a form allows (R172). -/
def anyOrder (_ : BitVec 2) : Bool := true
def relAcq (o : BitVec 2) : Bool := o == 0 || o == 1
def relRel (o : BitVec 2) : Bool := o == 0 || o == 2

def scopeOk (s : BitVec 3) : Bool := decide (s.toNat ≤ 5)

/-- CAS2's pairs: even and at most 54 (R172). -/
def pairReg (r : BitVec 6) : Bool := decide (r.toNat % 2 = 0) && decide (r.toNat ≤ 54)

/-- VCVT's destination type and part (R413). -/
def elemsPerLane : Nat → Nat
  | 0 => 1 | 1 => 1 | 2 => 1 | 3 => 2 | 4 => 2 | 5 => 2 | 6 => 4 | 7 => 4 | 8 => 4 | _ => 1

def vcvtOk (ty : BitVec 4) (imm : BitVec 8) : Bool :=
  let d := imm.toNat % 16
  let q := imm.toNat / 16 % 4
  let ns := elemsPerLane ty.toNat
  let nd := elemsPerLane d
  decide (d ≤ 8) && decide (d ≠ ty.toNat) &&
    decide (q < (if nd = ns then 1 else if ns < nd then nd / ns else ns / nd))

/-- Subcode 0x05 where it depends on other fields: a rounding code or a saturate bit the form may not carry, and the bits
of fields that an entry calls zero and gives no other subcode (R71, R123, R199, R245, R294, R340, R353, R372, R373, R394, R395, R399,
R413); a remote LSEND's relay that is not its peer (R294). -/
def condZero (cx : Ctx) (i : Instr) : Bool :=
  (match roundSat i with
   | some (ty, rm, sat) => (rm == 0 || mayRound i ty) && (sat == 0 || mayClamp i ty)
   | none => true) &&
  (match i with
   | .vldMod _ _ _ _ s _ | .vldRow _ _ _ _ _ s | .vldStr _ _ _ _ _ _ s _ => !s.getLsbD 5
   | .vstMod _ _ _ _ s _ | .vstRow _ _ _ _ _ s | .vstStr _ _ _ _ _ _ s _ => !s.getLsbD 5
   | .astartGo _ d _ _ => !d.getLsbD 5
   | .tcopyR _ _ _ _ _ _ _ _ _ _ _ i20 => i20.toNat % 16 == 0
   | .tldR _ _ _ _ _ _ _ _ _ _ i20 => i20.toNat % 16 == 0
   | .tcopyHi _ _ _ _ _ i20 | .tcopyHo _ _ _ _ _ i20 => i20.toNat % 1024 == 0
   | .fenceS _ _ i => decide (i.toNat < 8)
   | .shsendT _ _ i => decide (i.toNat < 2 ^ 4) || (i.getLsbD 44 && decide (i.toNat < 2 ^ 44 + 2 ^ 36))
   | .signalT _ _ i => decide (i.toNat < 256)
   | .markQ _ a m => decide (a.toNat < 32) && decide (m.toNat < 256)
   | .dupN _ _ _ n => decide (n.toNat < 2 ^ 20)
   | .dropB _ _ _ s => decide (s.toNat < 16)
   | .allocT _ _ k => decide (k.toNat < 16)
   | .allocM _ _ k => decide (k.toNat % 256 < 16) && decide (k.toNat < 512) && (cx.cls == .attention || !k.getLsbD 8)
   | .sealT _ _ _ m => decide (m.toNat % 2 ^ 12 = 0)
   | .caddI _ _ a _ => decide (a.toNat < 16)
   | .vcvtCvt _ _ _ _ _ _ _ im => decide (im.toNat < 64)
   | .minv _ ty | .mpop _ ty | .mgetM _ _ ty | .mgetV _ _ ty | .msetM _ _ ty | .msetV _ _ ty => ty == 0
   | .lsendRld _ _ _ peer relay | .lsendRst _ _ _ peer relay => relay == peer
   | .lsendRadd _ _ _ _ peer relay | .lsendRcas _ _ _ _ _ peer relay => relay == peer
   | _ => true)

/-- Subcode 0x06 (R123). -/
def typeOk (i : Instr) : Bool :=
  match typeField i with | some t => decide (t.toNat < 10) | none => true

/-- Subcode 0x07 (R92). -/
def roundOk (i : Instr) : Bool :=
  (match roundSat i with | some (_, rm, _) => decide (rm.toNat < 4) | none => true) &&
  (match i with | .mdrainT _ _ rm _ _ _ _ => decide (rm.toNat < 4) | _ => true)

/-- Subcode 0x08: the limits that the entries state (R71, R111, R152, R157, R172, R207, R226, R240, R245, R257, R260,
R282, R294, R306, R334, R340, R342, R352, R353, R354, R366, R370, R372, R373, R377, R382, R390-R427). The limits of a literal
are those of one that is there (R114); its zero bits count among them, as those of bits 95:64 do (log 86). -/
def limits (cx : Ctx) (i : Instr) : Bool :=
  (match typeField i with | some t => (typesOf i).contains t.toNat | none => true) &&
  (match i with
   | .sysr _ _ r => sysRegs.contains r.toNat
   | .sysw _ _ r => sysRegs.contains r.toNat && sysWritable.contains r.toNat
   | .ovlyN _ n => decide (n.toNat < 65536)
   | .psetAnd _ d a b c | .psetOr _ d a b c | .psetXor _ d a b c | .psetAndn _ d a b c =>
     decide (d.toNat < 16) && decide (a.toNat < 16) && decide (b.toNat < 16) && decide (c.toNat < 2)
   | .psetEq _ d _ _ c | .psetNe _ d _ _ c | .psetLt _ d _ _ c | .psetLtu _ d _ _ c | .psetGe _ d _ _ c
   | .psetGeu _ d _ _ c => decide (d.toNat < 16) && decide (c.toNat < 2)
   | .ldH _ _ a _ | .stH _ _ a _ => decide (a.toNat < 32)
   | .ldCap _ d _ _ | .stCap _ d _ _ => decide (d.toNat < 32)
   | .enterF _ n => decide (n.toNat % 16 = 0) && decide (n.toNat ≤ 0xFFFF0)
   | .brmzSkip _ n => decide (1 ≤ n.toNat) && decide (n.toNat ≤ 4094) && regionOk cx n.toNat
   | .loopL _ a n =>
     decide (a.toNat < 4) && decide (1 ≤ n.toNat) && decide (n.toNat ≤ 4094) && regionOk cx n.toNat
   | .loopS _ t _ n =>
     decide (t.toNat < 4) && decide (1 ≤ n.toNat) && decide (n.toNat ≤ 4094) && regionOk cx n.toNat
   | .repeatN _ m => decide (m.toNat ≤ 65536) && repeatOk cx
   | .repeatS _ _ => repeatOk cx
   | .signalT _ a c => decide (a.toNat < 32) && decide (c.toNat < 160)
   | .signalS _ _ a => decide (a.toNat < 32)
   | .waitT _ a => decide (a.toNat < 32)
   | .waitN _ a n => decide (a.toNat < 32) && decide (1 ≤ n.toNat) && decide (n.toNat ≤ 0xFFFF)
   | .toksetI _ a v => decide (a.toNat < 32) && decide (v.toNat ≤ 0xFFFF)
   | .toksetX _ _ a v => decide (a.toNat < 32) && decide (v.toNat ≤ 0xFFFF)
   | .fenceS _ _ s => decide (s.toNat ≤ 5)
   | .retimeAt _ _ s => decide (s.toNat ≤ 65535)
   | .waitvEq _ _ _ _ s o _ | .waitvNe _ _ _ _ s o _ | .waitvGe _ _ _ _ s o _ | .waitvLt _ _ _ _ s o _
   | .waitvAny _ _ _ _ s o _ | .waitvNone _ _ _ _ s o _ => scopeOk s && relAcq o
   | .markQ _ _ m => cx.cls == .attention || !m.getLsbD 6
   | .sstepS _ _ l => decide (1 ≤ l.toNat) && decide (l.toNat < 2 ^ 32)
   | .cappermAnd _ _ _ m => decide (m.toNat < 256)
   | .dupN _ d a _ => decide (d ≠ a) && decide (a ≠ 31)
   | .dropB _ d a _ => decide (d ≠ a)
   | .mergeW _ _ a b => decide (a ≠ b) && decide (a ≠ 31) && decide (b ≠ 31)
   | .allocT _ _ k => decide (k.toNat ≤ 10)
   | .allocM _ _ k => decide (k.toNat % 256 ≤ 10)
   | .updT _ d a | .updM _ d a => decide (d ≠ a)
   | .sealT _ _ _ m => decide (m.toNat / 2 ^ 12 % 16 ≤ 7)
   | .gsetL _ _ l | .gsetR _ _ _ l => decide (cx.left = 0) || decide (l.toNat < 2 ^ 48)
   | .csetI _ d m => decide (d.toNat < 16) && fits32 m
   | .csetS _ d _ => decide (d.toNat < 16)
   | .caddI _ d _ m => decide (d.toNat < 16) && fits32 m
   | .caddS _ d _ => decide (d.toNat < 16)
   | .tldR _ n _ _ f k _ _ _ _ _ => decide (n.toNat < 16) && decide (k.toNat < 7) && decide (f.toNat + k.toNat ≤ 15)
   | .tldW _ n _ _ => decide (n.toNat < 16)
   | .tcopyR _ _ _ _ f k s _ _ _ _ _ => decide (s.toNat < 56) && decide (k.toNat < 7) && decide (f.toNat + k.toNat ≤ 15)
   | .tcopyS _ _ _ _ f k s _ _ _ _ => decide (s.toNat < 56) && decide (k.toNat < 7) && decide (f.toNat + k.toNat ≤ 15)
   | .tcopyW _ _ _ s _ => decide (s.toNat < 56)
   | .tcopyHi _ _ _ s _ _ | .tcopyHo _ _ _ s _ _ => decide (s.toNat < 56)
   | .gatherK _ n _ _ _ | .gatherV _ n _ _ _ => decide (n.toNat < 16)
   | .claimS _ n | .releaseS _ n => decide (n.toNat < 16)
   | .mmaT _ st _ _ _ _ _ _ _ => decide (st ≠ 0)
   | .mdrainT _ st _ _ _ _ _ => decide (st = 6)
   | .mzeroT _ st _ _ => decide (st ≠ 0)
   | .maccR _ st row _ n _ _ _ =>
     decide (st ≠ 0) && decide (n.toNat < 128) && (cx.cls == .array || decide (row.toNat < 128))
   | .tstatR _ _ e => decide (e.toNat ≤ 16)
   | .vcvtCvt _ _ _ ty _ _ _ im => vcvtOk ty im
   | .vfshL _ _ _ _ _ _ im | .vfshR _ _ _ _ _ _ im => decide (im.toNat < 32)
   | .vlrotRot _ _ _ _ _ im => decide (im.toNat < 128)
   | .vbcastLane _ _ _ _ _ im => decide (im.toNat < 128)
   | .vfunTanh _ _ _ _ rm _ _ | .vfunSigm _ _ _ _ rm _ _ => decide (rm = 0)
   | .vtopkVal _ _ _ _ _ _ k => decide (1 ≤ k.toNat) && decide (k.toNat ≤ 64)
   | .vtopkIdx _ _ _ _ _ _ _ k => decide (1 ≤ k.toNat) && decide (k.toNat ≤ 64)
   | .vldStr _ _ _ _ _ _ _ n | .vstStr _ _ _ _ _ _ _ n => decide (n.toNat < 128)
   | .vmovsLane _ _ _ _ n => decide (n.toNat < 128)
   | .vmovsPair _ _ _ _ n => decide (n.toNat < 128) && decide (n.toNat % 2 = 0)
   | .mgetM _ d _ => decide (d.toNat < 8)
   | .msetM _ a _ => decide (a.toNat < 8)
   | .vparkP _ _ vc _ im =>
     decide (vc.toNat < 4) && (cx.cls == .array || decide (vc.toNat * 256 + im.toNat < 512))
   | .astartGo _ _ _ u => decide (u.toNat < 4096)
   | .pamoAdd _ _ _ _ s _ _ | .pamoMin _ _ _ _ s _ _ | .pamoMax _ _ _ _ s _ _ | .pamoSwap _ _ _ _ s _ _
   | .pamoEnq _ _ _ _ s _ _ => scopeOk s
   | .pamoCas _ _ _ _ _ s _ _ => scopeOk s
   | .pamoCas2 _ _ a b c s _ _ => scopeOk s && pairReg a && pairReg b && pairReg c
   | .pamoChase _ _ _ s o _ _ => scopeOk s && relAcq o
   | .pamoRedAdd _ _ _ s o _ | .pamoRedMin _ _ _ s o _ | .pamoRedMax _ _ _ s o _ => scopeOk s && relRel o
   | .pamoHxch _ _ s _ _ => scopeOk s
   | .pldC _ _ _ s o _ => scopeOk s && relAcq o
   | .pstC _ _ _ s o _ | .bcntP _ _ _ s o _ => scopeOk s && relRel o
   | .ltakeM _ _ a | .ltakeP _ _ a => pairReg a
   | .shretOpen _ _ _ n k => decide (n.toNat ≤ 4) && decide (k.toNat ≤ 10)
   | .sbtblW _ _ l => decide (cx.left = 0) || (
     decide (l.toNat < 2 ^ 64) && decide (l.toNat / 2 ^ 62 % 4 ≠ 3) &&
       (decide (l.toNat / 2 ^ 62 % 4 = 1) || decide (l.toNat / 2 ^ 53 % 16 = 0)) &&
       (decide (l.toNat / 2 ^ 62 % 4 = 0) || decide (l.toNat / 2 ^ 40 % 2 ^ 13 = 0)) && decide (l.toNat % 2 ^ 40 = 0))
   | _ => true)

/-- Subcode 0x09: a queue register at an end the sequencer does not own, s60 of the XS as a source, s61 as a destination
(R37, R97, R125). -/
def roleOk (q : SeqId) : Role → Bool
  | .sSrc r =>
    match q with
    | .as => !(r == 56 || r == 57)
    | .xs => !(r == 58 || r == 59 || r == 60)
  | .sDst r =>
    match q with
    | .as => !(r == 58 || r == 59 || r == 61)
    | .xs => !(r == 56 || r == 57 || r == 61)
  | _ => true

def queueEnds (cx : Ctx) (i : Instr) : Bool := (roles i).all (roleOk cx.seq)

/-- Subcode 0x0A: a literal that is missing, or LIT's with a nonzero bit above 63 (R114). -/
def literalOk (cx : Ctx) (i : Instr) : Bool :=
  match i with
  | .lit _ _ l => decide (0 < cx.left) && decide (l.toNat < 2 ^ 64)
  | .gsetL _ _ _ | .gsetR _ _ _ _ | .sbtblW _ _ _ => decide (0 < cx.left)
  | _ => true

/-- The first of the checks 0x05 to 0x0A of R122 that an instruction's fields fail; `none` where they pass. The zero
fields of R109 are the decoder's: a field that holds bits has no place in an `Instr`. -/
def subcode (cx : Ctx) (i : Instr) : Option (BitVec 8) :=
  if !condZero cx i then some 0x05
  else if !typeOk i then some 0x06
  else if !roundOk i then some 0x07
  else if !limits cx i then some 0x08
  else if !queueEnds cx i then some 0x09
  else if !literalOk cx i then some 0x0A
  else none

end Sys2Proof.Machine
end

