-- ==== Sys2Proof/WellFormed.lean ====
section
/-! DEFINITION. Which instructions are well formed at a place in a stream: those whose fields pass the checks 0x05 to 0x0A
of R122. -/
namespace Sys2Proof
open Sys2Proof.Machine

/-- An instruction's fields pass every check of R122 that looks at them. -/
abbrev WellFormed (cx : Ctx) (i : Instr) : Prop := subcode cx i = none

end Sys2Proof
end

