-- ==== Sys2Proof/Decode.lean ====
section
/-! DEFINITION. From bits to instructions and back: the words of R106-R110 and the micro-operations of R250. Decoding is
total on any bits and answers the subcode of R122 where it refuses. The tables follow the opcode map (R120) and the
entries' fn values and fields. -/
namespace Sys2Proof
open Sys2Proof.Machine

/-- Sets the bits of a word from `lo` on to a field's value. -/
def put {n : Nat} (w : Word96) (lo : Nat) (v : BitVec n) : Word96 :=
  (w &&& ~~~((BitVec.allOnes n).setWidth 96 <<< lo)) ||| (v.setWidth 96 <<< lo)

/-- Sets the bits of a micro-operation from `lo` on to a field's value. -/
def put64 {n : Nat} (w : Word64) (lo : Nat) (v : BitVec n) : Word64 :=
  (w &&& ~~~((BitVec.allOnes n).setWidth 64 <<< lo)) ||| (v.setWidth 64 <<< lo)

/-- A word of this opcode and these common fields, with a body of zeros (R106). -/
def word (op : BitVec 8) (g : Guard) : Word96 :=
  put (put (put (put 0 88 op) 84 g.p) 83 g.neg) 76 g.gap

def microWord (code : BitVec 6) : Word64 := put64 0 58 code

/-- The common fields of a word (R106). -/
def guardOf (w : Word96) : Guard := ⟨w.extractLsb' 84 4, w.extractLsb' 83 1, w.extractLsb' 76 7⟩

/-- Opcode 0x00 (R120). -/
noncomputable def build00 (w _lit : Word96) : Option Instr :=
  some (.nop (guardOf w))

/-- Opcode 0x01 (R120). -/
noncomputable def build01 (w _lit : Word96) : Option Instr :=
  some (.halt (guardOf w))

/-- Opcode 0x02 (R120). -/
noncomputable def build02 (w _lit : Word96) : Option Instr :=
  match (w.extractLsb' 56 8).toNat with
  | 0x00 => some (.trapSw (guardOf w) (w.extractLsb' 8 48))
  | _ => none

/-- Opcode 0x03 (R120). -/
noncomputable def build03 (w _lit : Word96) : Option Instr :=
  some (.rft (guardOf w))

/-- Opcode 0x04 (R120). -/
noncomputable def build04 (w _lit : Word96) : Option Instr :=
  if sysRegs.contains (w.extractLsb' 56 8).toNat then some (.sysr (guardOf w) (w.extractLsb' 70 6) (w.extractLsb' 56 8)) else none

/-- Opcode 0x05 (R120). -/
noncomputable def build05 (w _lit : Word96) : Option Instr :=
  if sysRegs.contains (w.extractLsb' 56 8).toNat then some (.sysw (guardOf w) (w.extractLsb' 64 6) (w.extractLsb' 56 8)) else none

/-- Opcode 0x06 (R120). -/
noncomputable def build06 (w _lit : Word96) : Option Instr :=
  match (w.extractLsb' 56 8).toNat with
  | 0x00 => some (.ovlyN (guardOf w) (w.extractLsb' 8 48))
  | 0x01 => some (.ovlyS (guardOf w) (w.extractLsb' 64 6))
  | _ => none

/-- Opcode 0x07 (R120). -/
noncomputable def build07 (w _lit : Word96) : Option Instr :=
  some (.cardone (guardOf w))

/-- Opcode 0x08 (R120). -/
noncomputable def build08 (w _lit : Word96) : Option Instr :=
  match (w.extractLsb' 44 8).toNat with
  | 0x00 => some (.dlaunchP (guardOf w) (w.extractLsb' 70 6) (w.extractLsb' 64 6))
  | _ => none

/-- Opcode 0x09 (R120). -/
noncomputable def build09 (w _lit : Word96) : Option Instr :=
  match (w.extractLsb' 56 8).toNat with
  | 0x00 => some (.traceTs (guardOf w))
  | 0x01 => some (.traceBr (guardOf w))
  | _ => none

/-- Opcode 0x10 (R120). -/
noncomputable def build10 (w _lit : Word96) : Option Instr :=
  match (w.extractLsb' 44 8).toNat with
  | 0x00 => some (.saluAdd (guardOf w) (w.extractLsb' 70 6) (w.extractLsb' 64 6) (w.extractLsb' 58 6))
  | 0x01 => some (.saluSub (guardOf w) (w.extractLsb' 70 6) (w.extractLsb' 64 6) (w.extractLsb' 58 6))
  | 0x02 => some (.saluAnd (guardOf w) (w.extractLsb' 70 6) (w.extractLsb' 64 6) (w.extractLsb' 58 6))
  | 0x03 => some (.saluOr (guardOf w) (w.extractLsb' 70 6) (w.extractLsb' 64 6) (w.extractLsb' 58 6))
  | 0x04 => some (.saluXor (guardOf w) (w.extractLsb' 70 6) (w.extractLsb' 64 6) (w.extractLsb' 58 6))
  | 0x05 => some (.saluAndn (guardOf w) (w.extractLsb' 70 6) (w.extractLsb' 64 6) (w.extractLsb' 58 6))
  | 0x06 => some (.saluShl (guardOf w) (w.extractLsb' 70 6) (w.extractLsb' 64 6) (w.extractLsb' 58 6))
  | 0x07 => some (.saluShr (guardOf w) (w.extractLsb' 70 6) (w.extractLsb' 64 6) (w.extractLsb' 58 6))
  | 0x08 => some (.saluSar (guardOf w) (w.extractLsb' 70 6) (w.extractLsb' 64 6) (w.extractLsb' 58 6))
  | 0x09 => some (.saluRol (guardOf w) (w.extractLsb' 70 6) (w.extractLsb' 64 6) (w.extractLsb' 58 6))
  | 0x0A => some (.saluMin (guardOf w) (w.extractLsb' 70 6) (w.extractLsb' 64 6) (w.extractLsb' 58 6))
  | 0x0B => some (.saluMax (guardOf w) (w.extractLsb' 70 6) (w.extractLsb' 64 6) (w.extractLsb' 58 6))
  | 0x0C => some (.saluMinu (guardOf w) (w.extractLsb' 70 6) (w.extractLsb' 64 6) (w.extractLsb' 58 6))
  | 0x0D => some (.saluMaxu (guardOf w) (w.extractLsb' 70 6) (w.extractLsb' 64 6) (w.extractLsb' 58 6))
  | 0x10 => some (.saluMul (guardOf w) (w.extractLsb' 70 6) (w.extractLsb' 64 6) (w.extractLsb' 58 6))
  | 0x11 => some (.saluMulh (guardOf w) (w.extractLsb' 70 6) (w.extractLsb' 64 6) (w.extractLsb' 58 6))
  | 0x12 => some (.saluMulhu (guardOf w) (w.extractLsb' 70 6) (w.extractLsb' 64 6) (w.extractLsb' 58 6))
  | 0x18 => some (.saluSeq (guardOf w) (w.extractLsb' 70 6) (w.extractLsb' 64 6) (w.extractLsb' 58 6))
  | 0x19 => some (.saluSne (guardOf w) (w.extractLsb' 70 6) (w.extractLsb' 64 6) (w.extractLsb' 58 6))
  | 0x1A => some (.saluSlt (guardOf w) (w.extractLsb' 70 6) (w.extractLsb' 64 6) (w.extractLsb' 58 6))
  | 0x1B => some (.saluSltu (guardOf w) (w.extractLsb' 70 6) (w.extractLsb' 64 6) (w.extractLsb' 58 6))
  | 0x1C => some (.saluSel (guardOf w) (w.extractLsb' 70 6) (w.extractLsb' 64 6) (w.extractLsb' 58 6) (w.extractLsb' 52 6))
  | 0x20 => some (.saluClz (guardOf w) (w.extractLsb' 70 6) (w.extractLsb' 64 6))
  | 0x21 => some (.saluCtz (guardOf w) (w.extractLsb' 70 6) (w.extractLsb' 64 6))
  | 0x22 => some (.saluPop (guardOf w) (w.extractLsb' 70 6) (w.extractLsb' 64 6))
  | _ => none

/-- Opcode 0x11 (R120). -/
noncomputable def build11 (w _lit : Word96) : Option Instr :=
  match (w.extractLsb' 56 8).toNat with
  | 0x00 => some (.saluiAdd (guardOf w) (w.extractLsb' 70 6) (w.extractLsb' 64 6) (w.extractLsb' 8 48))
  | 0x01 => some (.saluiSub (guardOf w) (w.extractLsb' 70 6) (w.extractLsb' 64 6) (w.extractLsb' 8 48))
  | 0x02 => some (.saluiAnd (guardOf w) (w.extractLsb' 70 6) (w.extractLsb' 64 6) (w.extractLsb' 8 48))
  | 0x03 => some (.saluiOr (guardOf w) (w.extractLsb' 70 6) (w.extractLsb' 64 6) (w.extractLsb' 8 48))
  | 0x04 => some (.saluiXor (guardOf w) (w.extractLsb' 70 6) (w.extractLsb' 64 6) (w.extractLsb' 8 48))
  | 0x05 => some (.saluiAndn (guardOf w) (w.extractLsb' 70 6) (w.extractLsb' 64 6) (w.extractLsb' 8 48))
  | 0x06 => some (.saluiShl (guardOf w) (w.extractLsb' 70 6) (w.extractLsb' 64 6) (w.extractLsb' 8 48))
  | 0x07 => some (.saluiShr (guardOf w) (w.extractLsb' 70 6) (w.extractLsb' 64 6) (w.extractLsb' 8 48))
  | 0x08 => some (.saluiSar (guardOf w) (w.extractLsb' 70 6) (w.extractLsb' 64 6) (w.extractLsb' 8 48))
  | 0x09 => some (.saluiRol (guardOf w) (w.extractLsb' 70 6) (w.extractLsb' 64 6) (w.extractLsb' 8 48))
  | 0x0A => some (.saluiMin (guardOf w) (w.extractLsb' 70 6) (w.extractLsb' 64 6) (w.extractLsb' 8 48))
  | 0x0B => some (.saluiMax (guardOf w) (w.extractLsb' 70 6) (w.extractLsb' 64 6) (w.extractLsb' 8 48))
  | 0x0C => some (.saluiMinu (guardOf w) (w.extractLsb' 70 6) (w.extractLsb' 64 6) (w.extractLsb' 8 48))
  | 0x0D => some (.saluiMaxu (guardOf w) (w.extractLsb' 70 6) (w.extractLsb' 64 6) (w.extractLsb' 8 48))
  | 0x10 => some (.saluiMul (guardOf w) (w.extractLsb' 70 6) (w.extractLsb' 64 6) (w.extractLsb' 8 48))
  | 0x11 => some (.saluiMulh (guardOf w) (w.extractLsb' 70 6) (w.extractLsb' 64 6) (w.extractLsb' 8 48))
  | 0x12 => some (.saluiMulhu (guardOf w) (w.extractLsb' 70 6) (w.extractLsb' 64 6) (w.extractLsb' 8 48))
  | 0x18 => some (.saluiSeq (guardOf w) (w.extractLsb' 70 6) (w.extractLsb' 64 6) (w.extractLsb' 8 48))
  | 0x19 => some (.saluiSne (guardOf w) (w.extractLsb' 70 6) (w.extractLsb' 64 6) (w.extractLsb' 8 48))
  | 0x1A => some (.saluiSlt (guardOf w) (w.extractLsb' 70 6) (w.extractLsb' 64 6) (w.extractLsb' 8 48))
  | 0x1B => some (.saluiSltu (guardOf w) (w.extractLsb' 70 6) (w.extractLsb' 64 6) (w.extractLsb' 8 48))
  | _ => none

/-- Opcode 0x12 (R120). -/
noncomputable def build12 (w _lit : Word96) : Option Instr :=
  match (w.extractLsb' 44 8).toNat with
  | 0x00 => some (.sdivDiv (guardOf w) (w.extractLsb' 70 6) (w.extractLsb' 64 6) (w.extractLsb' 58 6))
  | 0x01 => some (.sdivDivu (guardOf w) (w.extractLsb' 70 6) (w.extractLsb' 64 6) (w.extractLsb' 58 6))
  | 0x02 => some (.sdivRem (guardOf w) (w.extractLsb' 70 6) (w.extractLsb' 64 6) (w.extractLsb' 58 6))
  | 0x03 => some (.sdivRemu (guardOf w) (w.extractLsb' 70 6) (w.extractLsb' 64 6) (w.extractLsb' 58 6))
  | _ => none

/-- Opcode 0x13 (R120). -/
noncomputable def build13 (w _lit : Word96) : Option Instr :=
  match (w.extractLsb' 44 8).toNat with
  | 0x00 => some (.sfpAdd (guardOf w) (w.extractLsb' 70 6) (w.extractLsb' 64 6) (w.extractLsb' 58 6))
  | 0x01 => some (.sfpSub (guardOf w) (w.extractLsb' 70 6) (w.extractLsb' 64 6) (w.extractLsb' 58 6))
  | 0x02 => some (.sfpMul (guardOf w) (w.extractLsb' 70 6) (w.extractLsb' 64 6) (w.extractLsb' 58 6))
  | 0x03 => some (.sfpFma (guardOf w) (w.extractLsb' 70 6) (w.extractLsb' 64 6) (w.extractLsb' 58 6) (w.extractLsb' 52 6))
  | 0x04 => some (.sfpDiv (guardOf w) (w.extractLsb' 70 6) (w.extractLsb' 64 6) (w.extractLsb' 58 6))
  | 0x05 => some (.sfpSqrt (guardOf w) (w.extractLsb' 70 6) (w.extractLsb' 64 6))
  | 0x06 => some (.sfpMin (guardOf w) (w.extractLsb' 70 6) (w.extractLsb' 64 6) (w.extractLsb' 58 6))
  | 0x07 => some (.sfpMax (guardOf w) (w.extractLsb' 70 6) (w.extractLsb' 64 6) (w.extractLsb' 58 6))
  | 0x08 => some (.sfpCvti (guardOf w) (w.extractLsb' 70 6) (w.extractLsb' 64 6))
  | 0x09 => some (.sfpCvtf (guardOf w) (w.extractLsb' 70 6) (w.extractLsb' 64 6))
  | 0x0A => some (.sfpEq (guardOf w) (w.extractLsb' 70 6) (w.extractLsb' 64 6) (w.extractLsb' 58 6))
  | 0x0B => some (.sfpLt (guardOf w) (w.extractLsb' 70 6) (w.extractLsb' 64 6) (w.extractLsb' 58 6))
  | 0x0C => some (.sfpLe (guardOf w) (w.extractLsb' 70 6) (w.extractLsb' 64 6) (w.extractLsb' 58 6))
  | _ => none

/-- Opcode 0x14 (R120). -/
noncomputable def build14 (w _lit : Word96) : Option Instr :=
  match (w.extractLsb' 44 8).toNat with
  | 0x02 => some (.psetAnd (guardOf w) (w.extractLsb' 70 6) (w.extractLsb' 64 6) (w.extractLsb' 58 6) (w.extractLsb' 52 6))
  | 0x03 => some (.psetOr (guardOf w) (w.extractLsb' 70 6) (w.extractLsb' 64 6) (w.extractLsb' 58 6) (w.extractLsb' 52 6))
  | 0x04 => some (.psetXor (guardOf w) (w.extractLsb' 70 6) (w.extractLsb' 64 6) (w.extractLsb' 58 6) (w.extractLsb' 52 6))
  | 0x05 => some (.psetAndn (guardOf w) (w.extractLsb' 70 6) (w.extractLsb' 64 6) (w.extractLsb' 58 6) (w.extractLsb' 52 6))
  | 0x18 => some (.psetEq (guardOf w) (w.extractLsb' 70 6) (w.extractLsb' 64 6) (w.extractLsb' 58 6) (w.extractLsb' 52 6))
  | 0x19 => some (.psetNe (guardOf w) (w.extractLsb' 70 6) (w.extractLsb' 64 6) (w.extractLsb' 58 6) (w.extractLsb' 52 6))
  | 0x1A => some (.psetLt (guardOf w) (w.extractLsb' 70 6) (w.extractLsb' 64 6) (w.extractLsb' 58 6) (w.extractLsb' 52 6))
  | 0x1B => some (.psetLtu (guardOf w) (w.extractLsb' 70 6) (w.extractLsb' 64 6) (w.extractLsb' 58 6) (w.extractLsb' 52 6))
  | 0x1D => some (.psetGe (guardOf w) (w.extractLsb' 70 6) (w.extractLsb' 64 6) (w.extractLsb' 58 6) (w.extractLsb' 52 6))
  | 0x1E => some (.psetGeu (guardOf w) (w.extractLsb' 70 6) (w.extractLsb' 64 6) (w.extractLsb' 58 6) (w.extractLsb' 52 6))
  | _ => none

/-- Opcode 0x15 (R120). -/
noncomputable def build15 (w lit : Word96) : Option Instr :=
  match (w.extractLsb' 56 8).toNat with
  | 0x00 => some (.lit (guardOf w) (w.extractLsb' 70 6) lit)
  | _ => none

/-- Opcode 0x16 (R120). -/
noncomputable def build16 (w _lit : Word96) : Option Instr :=
  match (w.extractLsb' 56 8).toNat with
  | 0x00 => some (.ldP (guardOf w) (w.extractLsb' 70 6) (w.extractLsb' 64 6) (w.extractLsb' 8 48))
  | 0x01 => some (.ldH (guardOf w) (w.extractLsb' 70 6) (w.extractLsb' 64 6) (w.extractLsb' 8 48))
  | 0x02 => some (.ldCap (guardOf w) (w.extractLsb' 70 6) (w.extractLsb' 64 6) (w.extractLsb' 8 48))
  | _ => none

/-- Opcode 0x17 (R120). -/
noncomputable def build17 (w _lit : Word96) : Option Instr :=
  match (w.extractLsb' 56 8).toNat with
  | 0x00 => some (.stP (guardOf w) (w.extractLsb' 70 6) (w.extractLsb' 64 6) (w.extractLsb' 8 48))
  | 0x01 => some (.stH (guardOf w) (w.extractLsb' 70 6) (w.extractLsb' 64 6) (w.extractLsb' 8 48))
  | 0x02 => some (.stCap (guardOf w) (w.extractLsb' 70 6) (w.extractLsb' 64 6) (w.extractLsb' 8 48))
  | _ => none

/-- Opcode 0x18 (R120). -/
noncomputable def build18 (w _lit : Word96) : Option Instr :=
  match (w.extractLsb' 56 8).toNat with
  | 0x00 => some (.enterF (guardOf w) (w.extractLsb' 8 48))
  | _ => none

/-- Opcode 0x19 (R120). -/
noncomputable def build19 (w _lit : Word96) : Option Instr :=
  match (w.extractLsb' 56 8).toNat with
  | 0x00 => some (.leaveF (guardOf w))
  | _ => none

/-- Opcode 0x20 (R120). -/
noncomputable def build20 (w _lit : Word96) : Option Instr :=
  match (w.extractLsb' 56 8).toNat with
  | 0x00 => some (.pbrO (guardOf w) (w.extractLsb' 73 3) (w.extractLsb' 8 48))
  | 0x01 => some (.pbrR (guardOf w) (w.extractLsb' 73 3) (w.extractLsb' 64 6))
  | _ => none

/-- Opcode 0x21 (R120). -/
noncomputable def build21 (w _lit : Word96) : Option Instr :=
  match (w.extractLsb' 56 8).toNat with
  | 0x00 => some (.brGo (guardOf w) (w.extractLsb' 73 3))
  | _ => none

/-- Opcode 0x22 (R120). -/
noncomputable def build22 (w _lit : Word96) : Option Instr :=
  match (w.extractLsb' 56 8).toNat with
  | 0x00 => some (.brqT (guardOf w) (w.extractLsb' 73 3))
  | 0x01 => some (.brqF (guardOf w) (w.extractLsb' 73 3))
  | _ => none

/-- Opcode 0x23 (R120). -/
noncomputable def build23 (w _lit : Word96) : Option Instr :=
  match (w.extractLsb' 56 8).toNat with
  | 0x00 => some (.brmzSkip (guardOf w) (w.extractLsb' 8 48))
  | _ => none

/-- Opcode 0x24 (R120). -/
noncomputable def build24 (w _lit : Word96) : Option Instr :=
  match (w.extractLsb' 56 8).toNat with
  | 0x00 => some (.callGo (guardOf w) (w.extractLsb' 73 3))
  | _ => none

/-- Opcode 0x25 (R120). -/
noncomputable def build25 (w _lit : Word96) : Option Instr :=
  match (w.extractLsb' 56 8).toNat with
  | 0x00 => some (.retGo (guardOf w))
  | _ => none

/-- Opcode 0x26 (R120). -/
noncomputable def build26 (w _lit : Word96) : Option Instr :=
  match (w.extractLsb' 56 8).toNat with
  | 0x00 => some (.loopL (guardOf w) (w.extractLsb' 64 6) (w.extractLsb' 8 48))
  | 0x01 => some (.loopS (guardOf w) (w.extractLsb' 73 3) (w.extractLsb' 64 6) (w.extractLsb' 8 48))
  | _ => none

/-- Opcode 0x27 (R120). -/
noncomputable def build27 (w _lit : Word96) : Option Instr :=
  match (w.extractLsb' 56 8).toNat with
  | 0x00 => some (.repeatN (guardOf w) (w.extractLsb' 8 48))
  | 0x01 => some (.repeatS (guardOf w) (w.extractLsb' 64 6))
  | _ => none

/-- Opcode 0x30 (R120). -/
noncomputable def build30 (w _lit : Word96) : Option Instr :=
  match (w.extractLsb' 56 8).toNat with
  | 0x00 => some (.signalT (guardOf w) (w.extractLsb' 64 6) (w.extractLsb' 8 48))
  | 0x01 => some (.signalS (guardOf w) (w.extractLsb' 70 6) (w.extractLsb' 64 6))
  | _ => none

/-- Opcode 0x31 (R120). -/
noncomputable def build31 (w _lit : Word96) : Option Instr :=
  match (w.extractLsb' 56 8).toNat with
  | 0x00 => some (.waitT (guardOf w) (w.extractLsb' 64 6))
  | 0x01 => some (.waitN (guardOf w) (w.extractLsb' 64 6) (w.extractLsb' 8 48))
  | _ => none

/-- Opcode 0x32 (R120). -/
noncomputable def build32 (w _lit : Word96) : Option Instr :=
  match (w.extractLsb' 56 8).toNat with
  | 0x00 => some (.toksetI (guardOf w) (w.extractLsb' 64 6) (w.extractLsb' 8 48))
  | 0x01 => some (.toksetX (guardOf w) (w.extractLsb' 70 6) (w.extractLsb' 64 6) (w.extractLsb' 8 48))
  | _ => none

/-- Opcode 0x33 (R120). -/
noncomputable def build33 (w _lit : Word96) : Option Instr :=
  match (w.extractLsb' 56 8).toNat with
  | 0x00 => some (.fenceS (guardOf w) (w.extractLsb' 70 6) (w.extractLsb' 8 48))
  | _ => none

/-- Opcode 0x34 (R120). -/
noncomputable def build34 (w _lit : Word96) : Option Instr :=
  match (w.extractLsb' 56 8).toNat with
  | 0x00 => some (.retimeAt (guardOf w) (w.extractLsb' 64 6) (w.extractLsb' 8 48))
  | _ => none

/-- Opcode 0x35 (R120). -/
noncomputable def build35 (w _lit : Word96) : Option Instr :=
  match (w.extractLsb' 45 8).toNat with
  | 0x00 => some (.waitvEq (guardOf w) (w.extractLsb' 71 5) (w.extractLsb' 65 6) (w.extractLsb' 59 6) (w.extractLsb' 42 3) (w.extractLsb' 40 2) (w.extractLsb' 0 32))
  | 0x01 => some (.waitvNe (guardOf w) (w.extractLsb' 71 5) (w.extractLsb' 65 6) (w.extractLsb' 59 6) (w.extractLsb' 42 3) (w.extractLsb' 40 2) (w.extractLsb' 0 32))
  | 0x02 => some (.waitvGe (guardOf w) (w.extractLsb' 71 5) (w.extractLsb' 65 6) (w.extractLsb' 59 6) (w.extractLsb' 42 3) (w.extractLsb' 40 2) (w.extractLsb' 0 32))
  | 0x03 => some (.waitvLt (guardOf w) (w.extractLsb' 71 5) (w.extractLsb' 65 6) (w.extractLsb' 59 6) (w.extractLsb' 42 3) (w.extractLsb' 40 2) (w.extractLsb' 0 32))
  | 0x04 => some (.waitvAny (guardOf w) (w.extractLsb' 71 5) (w.extractLsb' 65 6) (w.extractLsb' 59 6) (w.extractLsb' 42 3) (w.extractLsb' 40 2) (w.extractLsb' 0 32))
  | 0x05 => some (.waitvNone (guardOf w) (w.extractLsb' 71 5) (w.extractLsb' 65 6) (w.extractLsb' 59 6) (w.extractLsb' 42 3) (w.extractLsb' 40 2) (w.extractLsb' 0 32))
  | _ => none

/-- Opcode 0x36 (R120). -/
noncomputable def build36 (w _lit : Word96) : Option Instr :=
  match (w.extractLsb' 56 8).toNat with
  | 0x00 => some (.markQ (guardOf w) (w.extractLsb' 64 6) (w.extractLsb' 8 48))
  | _ => none

/-- Opcode 0x37 (R120). -/
noncomputable def build37 (w _lit : Word96) : Option Instr :=
  match (w.extractLsb' 56 8).toNat with
  | 0x00 => some (.sstepS (guardOf w) (w.extractLsb' 64 6) (w.extractLsb' 8 48))
  | _ => none

/-- Opcode 0x40 (R120). -/
noncomputable def build40 (w _lit : Word96) : Option Instr :=
  match (w.extractLsb' 47 8).toNat with
  | 0x00 => some (.capsetB (guardOf w) (w.extractLsb' 71 5) (w.extractLsb' 66 5) (w.extractLsb' 55 6))
  | 0x01 => some (.capsetE (guardOf w) (w.extractLsb' 71 5) (w.extractLsb' 66 5) (w.extractLsb' 55 6))
  | _ => none

/-- Opcode 0x41 (R120). -/
noncomputable def build41 (w _lit : Word96) : Option Instr :=
  match (w.extractLsb' 47 8).toNat with
  | 0x00 => some (.cappermAnd (guardOf w) (w.extractLsb' 71 5) (w.extractLsb' 66 5) (w.extractLsb' 15 32))
  | _ => none

/-- Opcode 0x42 (R120). -/
noncomputable def build42 (w _lit : Word96) : Option Instr :=
  match (w.extractLsb' 47 8).toNat with
  | 0x00 => some (.capoffAdd (guardOf w) (w.extractLsb' 71 5) (w.extractLsb' 66 5) (w.extractLsb' 55 6))
  | 0x01 => some (.capoffSet (guardOf w) (w.extractLsb' 71 5) (w.extractLsb' 66 5) (w.extractLsb' 55 6))
  | _ => none

/-- Opcode 0x43 (R120). -/
noncomputable def build43 (w _lit : Word96) : Option Instr :=
  match (w.extractLsb' 47 8).toNat with
  | 0x00 => some (.capgetA (guardOf w) (w.extractLsb' 66 5) (w.extractLsb' 55 6))
  | 0x01 => some (.capgetCells (guardOf w) (w.extractLsb' 71 5))
  | 0x02 => some (.capgetKv (guardOf w) (w.extractLsb' 71 5))
  | 0x03 => some (.capgetPeer (guardOf w) (w.extractLsb' 71 5) (w.extractLsb' 55 6))
  | 0x04 => some (.capgetSys (guardOf w) (w.extractLsb' 71 5))
  | 0x05 => some (.capgetBase (guardOf w) (w.extractLsb' 66 5) (w.extractLsb' 55 6))
  | 0x06 => some (.capgetLen (guardOf w) (w.extractLsb' 66 5) (w.extractLsb' 55 6))
  | 0x07 => some (.capgetHi (guardOf w) (w.extractLsb' 66 5) (w.extractLsb' 55 6))
  | _ => none

/-- Opcode 0x44 (R120). -/
noncomputable def build44 (w _lit : Word96) : Option Instr :=
  match (w.extractLsb' 47 8).toNat with
  | 0x00 => some (.captestTag (guardOf w) (w.extractLsb' 66 5) (w.extractLsb' 55 6))
  | 0x01 => some (.captestIn (guardOf w) (w.extractLsb' 66 5) (w.extractLsb' 55 6) (w.extractLsb' 15 32))
  | _ => none

/-- Opcode 0x45 (R120). -/
noncomputable def build45 (w _lit : Word96) : Option Instr :=
  match (w.extractLsb' 47 8).toNat with
  | 0x00 => some (.dupN (guardOf w) (w.extractLsb' 71 5) (w.extractLsb' 66 5) (w.extractLsb' 15 32))
  | _ => none

/-- Opcode 0x46 (R120). -/
noncomputable def build46 (w _lit : Word96) : Option Instr :=
  match (w.extractLsb' 47 8).toNat with
  | 0x00 => some (.dropW (guardOf w) (w.extractLsb' 66 5))
  | 0x01 => some (.dropB (guardOf w) (w.extractLsb' 71 5) (w.extractLsb' 66 5) (w.extractLsb' 55 6))
  | _ => none

/-- Opcode 0x47 (R120). -/
noncomputable def build47 (w _lit : Word96) : Option Instr :=
  match (w.extractLsb' 47 8).toNat with
  | 0x00 => some (.movhM (guardOf w) (w.extractLsb' 71 5) (w.extractLsb' 66 5))
  | _ => none

/-- Opcode 0x48 (R120). -/
noncomputable def build48 (w _lit : Word96) : Option Instr :=
  match (w.extractLsb' 47 8).toNat with
  | 0x00 => some (.mergeW (guardOf w) (w.extractLsb' 71 5) (w.extractLsb' 66 5) (w.extractLsb' 61 5))
  | _ => none

/-- Opcode 0x49 (R120). -/
noncomputable def build49 (w _lit : Word96) : Option Instr :=
  match (w.extractLsb' 47 8).toNat with
  | 0x00 => some (.allocT (guardOf w) (w.extractLsb' 71 5) (w.extractLsb' 15 32))
  | 0x01 => some (.allocM (guardOf w) (w.extractLsb' 71 5) (w.extractLsb' 15 32))
  | _ => none

/-- Opcode 0x4A (R120). -/
noncomputable def build4A (w _lit : Word96) : Option Instr :=
  match (w.extractLsb' 47 8).toNat with
  | 0x00 => some (.isunqL (guardOf w) (w.extractLsb' 66 5) (w.extractLsb' 55 6))
  | 0x01 => some (.isunqX (guardOf w) (w.extractLsb' 66 5) (w.extractLsb' 55 6))
  | _ => none

/-- Opcode 0x4B (R120). -/
noncomputable def build4B (w _lit : Word96) : Option Instr :=
  match (w.extractLsb' 47 8).toNat with
  | 0x00 => some (.updT (guardOf w) (w.extractLsb' 71 5) (w.extractLsb' 66 5))
  | 0x01 => some (.updM (guardOf w) (w.extractLsb' 71 5) (w.extractLsb' 66 5))
  | _ => none

/-- Opcode 0x4C (R120). -/
noncomputable def build4C (w _lit : Word96) : Option Instr :=
  match (w.extractLsb' 47 8).toNat with
  | 0x00 => some (.sealT (guardOf w) (w.extractLsb' 71 5) (w.extractLsb' 66 5) (w.extractLsb' 15 32))
  | _ => none

/-- Opcode 0x50 (R120). -/
noncomputable def build50 (w lit : Word96) : Option Instr :=
  match (w.extractLsb' 44 4).toNat with
  | 0x00 => some (.gsetL (guardOf w) (w.extractLsb' 61 5) lit)
  | 0x01 => some (.gsetR (guardOf w) (w.extractLsb' 66 5) (w.extractLsb' 61 5) lit)
  | _ => none

/-- Opcode 0x51 (R120). -/
noncomputable def build51 (w _lit : Word96) : Option Instr :=
  match (w.extractLsb' 56 8).toNat with
  | 0x00 => some (.csetI (guardOf w) (w.extractLsb' 70 6) (w.extractLsb' 8 48))
  | 0x01 => some (.csetS (guardOf w) (w.extractLsb' 70 6) (w.extractLsb' 64 6))
  | _ => none

/-- Opcode 0x52 (R120). -/
noncomputable def build52 (w _lit : Word96) : Option Instr :=
  match (w.extractLsb' 56 8).toNat with
  | 0x00 => some (.caddI (guardOf w) (w.extractLsb' 70 6) (w.extractLsb' 64 6) (w.extractLsb' 8 48))
  | 0x01 => some (.caddS (guardOf w) (w.extractLsb' 70 6) (w.extractLsb' 64 6))
  | _ => none

/-- Opcode 0x53 (R120). -/
noncomputable def build53 (w _lit : Word96) : Option Instr :=
  match (w.extractLsb' 44 4).toNat with
  | 0x00 => some (.tldR (guardOf w) (w.extractLsb' 71 5) (w.extractLsb' 66 5) (w.extractLsb' 61 5) (w.extractLsb' 57 4) (w.extractLsb' 54 3) (w.extractLsb' 43 1) (w.extractLsb' 42 1) (w.extractLsb' 41 1) (w.extractLsb' 20 20) (w.extractLsb' 0 20))
  | 0x01 => some (.tldW (guardOf w) (w.extractLsb' 71 5) (w.extractLsb' 66 5) (w.extractLsb' 20 20))
  | _ => none

/-- Opcode 0x54 (R120). -/
noncomputable def build54 (w _lit : Word96) : Option Instr :=
  match (w.extractLsb' 44 4).toNat with
  | 0x00 => some (.tcopyR (guardOf w) (w.extractLsb' 71 5) (w.extractLsb' 66 5) (w.extractLsb' 61 5) (w.extractLsb' 57 4) (w.extractLsb' 54 3) (w.extractLsb' 48 6) (w.extractLsb' 43 1) (w.extractLsb' 42 1) (w.extractLsb' 41 1) (w.extractLsb' 20 20) (w.extractLsb' 0 20))
  | 0x01 => some (.tcopyW (guardOf w) (w.extractLsb' 71 5) (w.extractLsb' 66 5) (w.extractLsb' 48 6) (w.extractLsb' 20 20))
  | 0x02 => some (.tcopyS (guardOf w) (w.extractLsb' 71 5) (w.extractLsb' 66 5) (w.extractLsb' 61 5) (w.extractLsb' 57 4) (w.extractLsb' 54 3) (w.extractLsb' 48 6) (w.extractLsb' 43 1) (w.extractLsb' 42 1) (w.extractLsb' 41 1) (w.extractLsb' 20 20))
  | 0x03 => some (.tcopyHi (guardOf w) (w.extractLsb' 71 5) (w.extractLsb' 66 5) (w.extractLsb' 48 6) (w.extractLsb' 20 20) (w.extractLsb' 0 20))
  | 0x04 => some (.tcopyHo (guardOf w) (w.extractLsb' 71 5) (w.extractLsb' 66 5) (w.extractLsb' 48 6) (w.extractLsb' 20 20) (w.extractLsb' 0 20))
  | _ => none

/-- Opcode 0x55 (R120). -/
noncomputable def build55 (w _lit : Word96) : Option Instr :=
  match (w.extractLsb' 44 4).toNat with
  | 0x00 => some (.gatherK (guardOf w) (w.extractLsb' 71 5) (w.extractLsb' 66 5) (w.extractLsb' 48 6) (w.extractLsb' 20 20))
  | 0x01 => some (.gatherV (guardOf w) (w.extractLsb' 71 5) (w.extractLsb' 66 5) (w.extractLsb' 48 6) (w.extractLsb' 20 20))
  | _ => none

/-- Opcode 0x56 (R120). -/
noncomputable def build56 (w _lit : Word96) : Option Instr :=
  match (w.extractLsb' 44 4).toNat with
  | 0x00 => some (.appendKv (guardOf w) (w.extractLsb' 71 5) (w.extractLsb' 66 5) (w.extractLsb' 48 6))
  | _ => none

/-- Opcode 0x57 (R120). -/
noncomputable def build57 (w _lit : Word96) : Option Instr :=
  match (w.extractLsb' 44 4).toNat with
  | 0x00 => some (.claimS (guardOf w) (w.extractLsb' 71 5))
  | _ => none

/-- Opcode 0x58 (R120). -/
noncomputable def build58 (w _lit : Word96) : Option Instr :=
  match (w.extractLsb' 44 4).toNat with
  | 0x00 => some (.releaseS (guardOf w) (w.extractLsb' 71 5))
  | _ => none

/-- Opcode 0x60 (R120). -/
noncomputable def build60 (w _lit : Word96) : Option Instr :=
  match (w.extractLsb' 26 4).toNat with
  | 0x00 => some (.mmaT (guardOf w) (w.extractLsb' 56 20) (w.extractLsb' 52 4) (w.extractLsb' 48 4) (w.extractLsb' 38 10) (w.extractLsb' 30 8) (w.extractLsb' 25 1) (w.extractLsb' 24 1) (w.extractLsb' 23 1))
  | _ => none

/-- Opcode 0x61 (R120). -/
noncomputable def build61 (w _lit : Word96) : Option Instr :=
  match (w.extractLsb' 26 4).toNat with
  | 0x00 => some (.mdrainT (guardOf w) (w.extractLsb' 56 20) (w.extractLsb' 53 3) (w.extractLsb' 48 5) (w.extractLsb' 38 10) (w.extractLsb' 30 8) (w.extractLsb' 16 6))
  | _ => none

/-- Opcode 0x62 (R120). -/
noncomputable def build62 (w _lit : Word96) : Option Instr :=
  match (w.extractLsb' 26 4).toNat with
  | 0x00 => some (.mzeroT (guardOf w) (w.extractLsb' 56 20) (w.extractLsb' 38 10) (w.extractLsb' 30 8))
  | _ => none

/-- Opcode 0x63 (R120). -/
noncomputable def build63 (w _lit : Word96) : Option Instr :=
  match (w.extractLsb' 26 4).toNat with
  | 0x00 => some (.maccR (guardOf w) (w.extractLsb' 56 20) (w.extractLsb' 48 8) (w.extractLsb' 38 10) (w.extractLsb' 30 8) (w.extractLsb' 25 1) (w.extractLsb' 24 1) (w.extractLsb' 16 6))
  | _ => none

/-- Opcode 0x64 (R120). -/
noncomputable def build64 (w _lit : Word96) : Option Instr :=
  match (w.extractLsb' 44 8).toNat with
  | 0x00 => some (.tstatR (guardOf w) (w.extractLsb' 70 6) (w.extractLsb' 64 6))
  | _ => none

/-- Opcode 0x70 (R120). -/
noncomputable def build70 (w _lit : Word96) : Option Instr :=
  match (w.extractLsb' 44 8).toNat with
  | 0x00 => some (.valuAdd (guardOf w) (w.extractLsb' 70 6) (w.extractLsb' 64 6) (w.extractLsb' 58 6) (w.extractLsb' 40 4) (w.extractLsb' 37 3) (w.extractLsb' 36 1) (w.extractLsb' 35 1))
  | 0x01 => some (.valuSub (guardOf w) (w.extractLsb' 70 6) (w.extractLsb' 64 6) (w.extractLsb' 58 6) (w.extractLsb' 40 4) (w.extractLsb' 37 3) (w.extractLsb' 36 1) (w.extractLsb' 35 1))
  | 0x02 => some (.valuAnd (guardOf w) (w.extractLsb' 70 6) (w.extractLsb' 64 6) (w.extractLsb' 58 6) (w.extractLsb' 40 4) (w.extractLsb' 37 3) (w.extractLsb' 36 1) (w.extractLsb' 35 1))
  | 0x03 => some (.valuOr (guardOf w) (w.extractLsb' 70 6) (w.extractLsb' 64 6) (w.extractLsb' 58 6) (w.extractLsb' 40 4) (w.extractLsb' 37 3) (w.extractLsb' 36 1) (w.extractLsb' 35 1))
  | 0x04 => some (.valuXor (guardOf w) (w.extractLsb' 70 6) (w.extractLsb' 64 6) (w.extractLsb' 58 6) (w.extractLsb' 40 4) (w.extractLsb' 37 3) (w.extractLsb' 36 1) (w.extractLsb' 35 1))
  | 0x05 => some (.valuAndn (guardOf w) (w.extractLsb' 70 6) (w.extractLsb' 64 6) (w.extractLsb' 58 6) (w.extractLsb' 40 4) (w.extractLsb' 37 3) (w.extractLsb' 36 1) (w.extractLsb' 35 1))
  | 0x06 => some (.valuShl (guardOf w) (w.extractLsb' 70 6) (w.extractLsb' 64 6) (w.extractLsb' 58 6) (w.extractLsb' 40 4) (w.extractLsb' 37 3) (w.extractLsb' 36 1) (w.extractLsb' 35 1))
  | 0x07 => some (.valuShr (guardOf w) (w.extractLsb' 70 6) (w.extractLsb' 64 6) (w.extractLsb' 58 6) (w.extractLsb' 40 4) (w.extractLsb' 37 3) (w.extractLsb' 36 1) (w.extractLsb' 35 1))
  | 0x08 => some (.valuSar (guardOf w) (w.extractLsb' 70 6) (w.extractLsb' 64 6) (w.extractLsb' 58 6) (w.extractLsb' 40 4) (w.extractLsb' 37 3) (w.extractLsb' 36 1) (w.extractLsb' 35 1))
  | 0x0A => some (.valuMin (guardOf w) (w.extractLsb' 70 6) (w.extractLsb' 64 6) (w.extractLsb' 58 6) (w.extractLsb' 40 4) (w.extractLsb' 37 3) (w.extractLsb' 36 1) (w.extractLsb' 35 1))
  | 0x0B => some (.valuMax (guardOf w) (w.extractLsb' 70 6) (w.extractLsb' 64 6) (w.extractLsb' 58 6) (w.extractLsb' 40 4) (w.extractLsb' 37 3) (w.extractLsb' 36 1) (w.extractLsb' 35 1))
  | 0x0C => some (.valuAbs (guardOf w) (w.extractLsb' 70 6) (w.extractLsb' 64 6) (w.extractLsb' 40 4) (w.extractLsb' 37 3) (w.extractLsb' 36 1) (w.extractLsb' 35 1))
  | 0x10 => some (.valuMul (guardOf w) (w.extractLsb' 70 6) (w.extractLsb' 64 6) (w.extractLsb' 58 6) (w.extractLsb' 40 4) (w.extractLsb' 37 3) (w.extractLsb' 36 1) (w.extractLsb' 35 1))
  | 0x11 => some (.valuMulh (guardOf w) (w.extractLsb' 70 6) (w.extractLsb' 64 6) (w.extractLsb' 58 6) (w.extractLsb' 40 4) (w.extractLsb' 37 3) (w.extractLsb' 36 1) (w.extractLsb' 35 1))
  | _ => none

/-- Opcode 0x71 (R120). -/
noncomputable def build71 (w _lit : Word96) : Option Instr :=
  match (w.extractLsb' 44 8).toNat with
  | 0x00 => some (.vfmaFma (guardOf w) (w.extractLsb' 70 6) (w.extractLsb' 64 6) (w.extractLsb' 58 6) (w.extractLsb' 52 6) (w.extractLsb' 40 4) (w.extractLsb' 37 3) (w.extractLsb' 36 1) (w.extractLsb' 35 1))
  | 0x01 => some (.vfmaFms (guardOf w) (w.extractLsb' 70 6) (w.extractLsb' 64 6) (w.extractLsb' 58 6) (w.extractLsb' 52 6) (w.extractLsb' 40 4) (w.extractLsb' 37 3) (w.extractLsb' 36 1) (w.extractLsb' 35 1))
  | 0x02 => some (.vfmaFnma (guardOf w) (w.extractLsb' 70 6) (w.extractLsb' 64 6) (w.extractLsb' 58 6) (w.extractLsb' 52 6) (w.extractLsb' 40 4) (w.extractLsb' 37 3) (w.extractLsb' 36 1) (w.extractLsb' 35 1))
  | _ => none

/-- Opcode 0x72 (R120). -/
noncomputable def build72 (w _lit : Word96) : Option Instr :=
  match (w.extractLsb' 44 8).toNat with
  | 0x18 => some (.vcmpEq (guardOf w) (w.extractLsb' 70 6) (w.extractLsb' 64 6) (w.extractLsb' 58 6) (w.extractLsb' 40 4) (w.extractLsb' 35 1))
  | 0x19 => some (.vcmpNe (guardOf w) (w.extractLsb' 70 6) (w.extractLsb' 64 6) (w.extractLsb' 58 6) (w.extractLsb' 40 4) (w.extractLsb' 35 1))
  | 0x1A => some (.vcmpLt (guardOf w) (w.extractLsb' 70 6) (w.extractLsb' 64 6) (w.extractLsb' 58 6) (w.extractLsb' 40 4) (w.extractLsb' 35 1))
  | 0x1D => some (.vcmpGe (guardOf w) (w.extractLsb' 70 6) (w.extractLsb' 64 6) (w.extractLsb' 58 6) (w.extractLsb' 40 4) (w.extractLsb' 35 1))
  | _ => none

/-- Opcode 0x73 (R120). -/
noncomputable def build73 (w _lit : Word96) : Option Instr :=
  match (w.extractLsb' 44 8).toNat with
  | 0x00 => some (.vcvtCvt (guardOf w) (w.extractLsb' 70 6) (w.extractLsb' 64 6) (w.extractLsb' 40 4) (w.extractLsb' 37 3) (w.extractLsb' 36 1) (w.extractLsb' 35 1) (w.extractLsb' 21 8))
  | _ => none

/-- Opcode 0x74 (R120). -/
noncomputable def build74 (w _lit : Word96) : Option Instr :=
  match (w.extractLsb' 44 8).toNat with
  | 0x00 => some (.vlt3Lut (guardOf w) (w.extractLsb' 70 6) (w.extractLsb' 64 6) (w.extractLsb' 58 6) (w.extractLsb' 52 6) (w.extractLsb' 40 4) (w.extractLsb' 35 1) (w.extractLsb' 21 8))
  | _ => none

/-- Opcode 0x75 (R120). -/
noncomputable def build75 (w _lit : Word96) : Option Instr :=
  match (w.extractLsb' 44 8).toNat with
  | 0x00 => some (.vfshL (guardOf w) (w.extractLsb' 70 6) (w.extractLsb' 64 6) (w.extractLsb' 58 6) (w.extractLsb' 40 4) (w.extractLsb' 35 1) (w.extractLsb' 21 8))
  | 0x01 => some (.vfshR (guardOf w) (w.extractLsb' 70 6) (w.extractLsb' 64 6) (w.extractLsb' 58 6) (w.extractLsb' 40 4) (w.extractLsb' 35 1) (w.extractLsb' 21 8))
  | _ => none

/-- Opcode 0x76 (R120). -/
noncomputable def build76 (w _lit : Word96) : Option Instr :=
  match (w.extractLsb' 44 8).toNat with
  | 0x00 => some (.vlrotRot (guardOf w) (w.extractLsb' 70 6) (w.extractLsb' 64 6) (w.extractLsb' 40 4) (w.extractLsb' 35 1) (w.extractLsb' 21 8))
  | 0x01 => some (.vlrotRots (guardOf w) (w.extractLsb' 70 6) (w.extractLsb' 64 6) (w.extractLsb' 40 4) (w.extractLsb' 35 1) (w.extractLsb' 29 6))
  | _ => none

/-- Opcode 0x77 (R120). -/
noncomputable def build77 (w _lit : Word96) : Option Instr :=
  match (w.extractLsb' 44 8).toNat with
  | 0x00 => some (.vpermIdx (guardOf w) (w.extractLsb' 70 6) (w.extractLsb' 64 6) (w.extractLsb' 58 6) (w.extractLsb' 40 4) (w.extractLsb' 35 1))
  | 0x01 => some (.vpermIdx2 (guardOf w) (w.extractLsb' 70 6) (w.extractLsb' 64 6) (w.extractLsb' 58 6) (w.extractLsb' 52 6) (w.extractLsb' 40 4) (w.extractLsb' 35 1))
  | _ => none

/-- Opcode 0x78 (R120). -/
noncomputable def build78 (w _lit : Word96) : Option Instr :=
  match (w.extractLsb' 44 8).toNat with
  | 0x00 => some (.vbcastS (guardOf w) (w.extractLsb' 70 6) (w.extractLsb' 40 4) (w.extractLsb' 35 1) (w.extractLsb' 29 6))
  | 0x01 => some (.vbcastLane (guardOf w) (w.extractLsb' 70 6) (w.extractLsb' 64 6) (w.extractLsb' 40 4) (w.extractLsb' 35 1) (w.extractLsb' 21 8))
  | 0x02 => some (.vbcastImm (guardOf w) (w.extractLsb' 70 6) (w.extractLsb' 40 4) (w.extractLsb' 35 1) (w.extractLsb' 21 8))
  | _ => none

/-- Opcode 0x79 (R120). -/
noncomputable def build79 (w _lit : Word96) : Option Instr :=
  match (w.extractLsb' 44 8).toNat with
  | 0x00 => some (.vredAdd (guardOf w) (w.extractLsb' 70 6) (w.extractLsb' 64 6) (w.extractLsb' 40 4) (w.extractLsb' 37 3) (w.extractLsb' 36 1) (w.extractLsb' 35 1))
  | 0x02 => some (.vredAnd (guardOf w) (w.extractLsb' 70 6) (w.extractLsb' 64 6) (w.extractLsb' 40 4) (w.extractLsb' 37 3) (w.extractLsb' 36 1) (w.extractLsb' 35 1))
  | 0x03 => some (.vredOr (guardOf w) (w.extractLsb' 70 6) (w.extractLsb' 64 6) (w.extractLsb' 40 4) (w.extractLsb' 37 3) (w.extractLsb' 36 1) (w.extractLsb' 35 1))
  | 0x04 => some (.vredXor (guardOf w) (w.extractLsb' 70 6) (w.extractLsb' 64 6) (w.extractLsb' 40 4) (w.extractLsb' 37 3) (w.extractLsb' 36 1) (w.extractLsb' 35 1))
  | 0x0A => some (.vredMin (guardOf w) (w.extractLsb' 70 6) (w.extractLsb' 64 6) (w.extractLsb' 40 4) (w.extractLsb' 37 3) (w.extractLsb' 36 1) (w.extractLsb' 35 1))
  | 0x0B => some (.vredMax (guardOf w) (w.extractLsb' 70 6) (w.extractLsb' 64 6) (w.extractLsb' 40 4) (w.extractLsb' 37 3) (w.extractLsb' 36 1) (w.extractLsb' 35 1))
  | _ => none

/-- Opcode 0x7A (R120). -/
noncomputable def build7A (w _lit : Word96) : Option Instr :=
  match (w.extractLsb' 44 8).toNat with
  | 0x00 => some (.vfunExp (guardOf w) (w.extractLsb' 70 6) (w.extractLsb' 64 6) (w.extractLsb' 40 4) (w.extractLsb' 37 3) (w.extractLsb' 36 1) (w.extractLsb' 35 1))
  | 0x01 => some (.vfunExp2 (guardOf w) (w.extractLsb' 70 6) (w.extractLsb' 64 6) (w.extractLsb' 40 4) (w.extractLsb' 37 3) (w.extractLsb' 36 1) (w.extractLsb' 35 1))
  | 0x02 => some (.vfunLog (guardOf w) (w.extractLsb' 70 6) (w.extractLsb' 64 6) (w.extractLsb' 40 4) (w.extractLsb' 37 3) (w.extractLsb' 36 1) (w.extractLsb' 35 1))
  | 0x03 => some (.vfunLog2 (guardOf w) (w.extractLsb' 70 6) (w.extractLsb' 64 6) (w.extractLsb' 40 4) (w.extractLsb' 37 3) (w.extractLsb' 36 1) (w.extractLsb' 35 1))
  | 0x04 => some (.vfunRcp (guardOf w) (w.extractLsb' 70 6) (w.extractLsb' 64 6) (w.extractLsb' 40 4) (w.extractLsb' 37 3) (w.extractLsb' 36 1) (w.extractLsb' 35 1))
  | 0x05 => some (.vfunSqrt (guardOf w) (w.extractLsb' 70 6) (w.extractLsb' 64 6) (w.extractLsb' 40 4) (w.extractLsb' 37 3) (w.extractLsb' 36 1) (w.extractLsb' 35 1))
  | 0x06 => some (.vfunRsqrt (guardOf w) (w.extractLsb' 70 6) (w.extractLsb' 64 6) (w.extractLsb' 40 4) (w.extractLsb' 37 3) (w.extractLsb' 36 1) (w.extractLsb' 35 1))
  | 0x07 => some (.vfunTanh (guardOf w) (w.extractLsb' 70 6) (w.extractLsb' 64 6) (w.extractLsb' 40 4) (w.extractLsb' 37 3) (w.extractLsb' 36 1) (w.extractLsb' 35 1))
  | 0x08 => some (.vfunSigm (guardOf w) (w.extractLsb' 70 6) (w.extractLsb' 64 6) (w.extractLsb' 40 4) (w.extractLsb' 37 3) (w.extractLsb' 36 1) (w.extractLsb' 35 1))
  | _ => none

/-- Opcode 0x7B (R120). -/
noncomputable def build7B (w _lit : Word96) : Option Instr :=
  match (w.extractLsb' 44 8).toNat with
  | 0x00 => some (.vtopkVal (guardOf w) (w.extractLsb' 70 6) (w.extractLsb' 64 6) (w.extractLsb' 58 6) (w.extractLsb' 40 4) (w.extractLsb' 35 1) (w.extractLsb' 21 8))
  | 0x01 => some (.vtopkIdx (guardOf w) (w.extractLsb' 70 6) (w.extractLsb' 64 6) (w.extractLsb' 58 6) (w.extractLsb' 40 4) (w.extractLsb' 35 1) (w.extractLsb' 29 6) (w.extractLsb' 21 8))
  | _ => none

/-- Opcode 0x7C (R120). -/
noncomputable def build7C (w _lit : Word96) : Option Instr :=
  match (w.extractLsb' 44 8).toNat with
  | 0x01 => some (.vldMod (guardOf w) (w.extractLsb' 70 6) (w.extractLsb' 40 4) (w.extractLsb' 35 1) (w.extractLsb' 29 6) (w.extractLsb' 21 8))
  | 0x02 => some (.vldRow (guardOf w) (w.extractLsb' 70 6) (w.extractLsb' 58 6) (w.extractLsb' 40 4) (w.extractLsb' 35 1) (w.extractLsb' 29 6))
  | 0x03 => some (.vldStr (guardOf w) (w.extractLsb' 70 6) (w.extractLsb' 58 6) (w.extractLsb' 52 6) (w.extractLsb' 40 4) (w.extractLsb' 35 1) (w.extractLsb' 29 6) (w.extractLsb' 21 8))
  | _ => none

/-- Opcode 0x7D (R120). -/
noncomputable def build7D (w _lit : Word96) : Option Instr :=
  match (w.extractLsb' 44 8).toNat with
  | 0x01 => some (.vstMod (guardOf w) (w.extractLsb' 64 6) (w.extractLsb' 40 4) (w.extractLsb' 35 1) (w.extractLsb' 29 6) (w.extractLsb' 21 8))
  | 0x02 => some (.vstRow (guardOf w) (w.extractLsb' 64 6) (w.extractLsb' 58 6) (w.extractLsb' 40 4) (w.extractLsb' 35 1) (w.extractLsb' 29 6))
  | 0x03 => some (.vstStr (guardOf w) (w.extractLsb' 64 6) (w.extractLsb' 58 6) (w.extractLsb' 52 6) (w.extractLsb' 40 4) (w.extractLsb' 35 1) (w.extractLsb' 29 6) (w.extractLsb' 21 8))
  | _ => none

/-- Opcode 0x7E (R120). -/
noncomputable def build7E (w _lit : Word96) : Option Instr :=
  match (w.extractLsb' 44 8).toNat with
  | 0x00 => some (.vmovsLane (guardOf w) (w.extractLsb' 64 6) (w.extractLsb' 40 4) (w.extractLsb' 29 6) (w.extractLsb' 21 8))
  | 0x01 => some (.vmovsPair (guardOf w) (w.extractLsb' 64 6) (w.extractLsb' 40 4) (w.extractLsb' 29 6) (w.extractLsb' 21 8))
  | _ => none

/-- Opcode 0x7F (R120). -/
noncomputable def build7F (w _lit : Word96) : Option Instr :=
  match (w.extractLsb' 44 8).toNat with
  | 0x00 => some (.vselBit (guardOf w) (w.extractLsb' 70 6) (w.extractLsb' 64 6) (w.extractLsb' 58 6) (w.extractLsb' 52 6) (w.extractLsb' 40 4) (w.extractLsb' 35 1))
  | 0x01 => some (.vselMask (guardOf w) (w.extractLsb' 70 6) (w.extractLsb' 64 6) (w.extractLsb' 58 6) (w.extractLsb' 40 4))
  | _ => none

/-- Opcode 0x80 (R120). -/
noncomputable def build80 (w _lit : Word96) : Option Instr :=
  match (w.extractLsb' 44 8).toNat with
  | 0x18 => some (.mpushEq (guardOf w) (w.extractLsb' 64 6) (w.extractLsb' 58 6) (w.extractLsb' 40 4))
  | 0x19 => some (.mpushNe (guardOf w) (w.extractLsb' 64 6) (w.extractLsb' 58 6) (w.extractLsb' 40 4))
  | 0x1A => some (.mpushLt (guardOf w) (w.extractLsb' 64 6) (w.extractLsb' 58 6) (w.extractLsb' 40 4))
  | 0x1D => some (.mpushGe (guardOf w) (w.extractLsb' 64 6) (w.extractLsb' 58 6) (w.extractLsb' 40 4))
  | _ => none

/-- Opcode 0x81 (R120). -/
noncomputable def build81 (w _lit : Word96) : Option Instr :=
  match (w.extractLsb' 44 8).toNat with
  | 0x00 => some (.minv (guardOf w) (w.extractLsb' 40 4))
  | _ => none

/-- Opcode 0x82 (R120). -/
noncomputable def build82 (w _lit : Word96) : Option Instr :=
  match (w.extractLsb' 44 8).toNat with
  | 0x00 => some (.mpop (guardOf w) (w.extractLsb' 40 4))
  | _ => none

/-- Opcode 0x83 (R120). -/
noncomputable def build83 (w _lit : Word96) : Option Instr :=
  match (w.extractLsb' 44 8).toNat with
  | 0x00 => some (.mgetM (guardOf w) (w.extractLsb' 70 6) (w.extractLsb' 40 4))
  | 0x01 => some (.mgetV (guardOf w) (w.extractLsb' 70 6) (w.extractLsb' 40 4))
  | _ => none

/-- Opcode 0x84 (R120). -/
noncomputable def build84 (w _lit : Word96) : Option Instr :=
  match (w.extractLsb' 44 8).toNat with
  | 0x00 => some (.msetM (guardOf w) (w.extractLsb' 64 6) (w.extractLsb' 40 4))
  | 0x01 => some (.msetV (guardOf w) (w.extractLsb' 64 6) (w.extractLsb' 40 4))
  | _ => none

/-- Opcode 0x85 (R120). -/
noncomputable def build85 (w _lit : Word96) : Option Instr :=
  match (w.extractLsb' 44 8).toNat with
  | 0x00 => some (.vparkP (guardOf w) (w.extractLsb' 64 6) (w.extractLsb' 52 6) (w.extractLsb' 40 4) (w.extractLsb' 21 8))
  | _ => none

/-- Opcode 0x86 (R120). -/
noncomputable def build86 (w _lit : Word96) : Option Instr :=
  match (w.extractLsb' 44 8).toNat with
  | 0x00 => some (.vunparkU (guardOf w) (w.extractLsb' 70 6) (w.extractLsb' 40 4))
  | _ => none

/-- Opcode 0x90 (R120). -/
noncomputable def build90 (w _lit : Word96) : Option Instr :=
  match (w.extractLsb' 56 8).toNat with
  | 0x00 => some (.astartGo (guardOf w) (w.extractLsb' 70 6) (w.extractLsb' 64 6) (w.extractLsb' 8 48))
  | _ => none

/-- Opcode 0x91 (R120). -/
noncomputable def build91 (w _lit : Word96) : Option Instr :=
  match (w.extractLsb' 45 8).toNat with
  | 0x00 => some (.aloadW (guardOf w) (w.extractLsb' 71 5) (w.extractLsb' 65 6) (w.extractLsb' 59 6))
  | _ => none

/-- Opcode 0x92 (R120). -/
noncomputable def build92 (w _lit : Word96) : Option Instr :=
  match (w.extractLsb' 44 8).toNat with
  | 0x00 => some (.astatRd (guardOf w) (w.extractLsb' 70 6) (w.extractLsb' 64 6))
  | 0x01 => some (.astatWait (guardOf w) (w.extractLsb' 70 6) (w.extractLsb' 64 6))
  | _ => none

/-- Opcode 0xA0 (R120). -/
noncomputable def buildA0 (w _lit : Word96) : Option Instr :=
  match (w.extractLsb' 45 8).toNat with
  | 0x00 => some (.pamoAdd (guardOf w) (w.extractLsb' 71 5) (w.extractLsb' 65 6) (w.extractLsb' 59 6) (w.extractLsb' 42 3) (w.extractLsb' 40 2) (w.extractLsb' 0 32))
  | 0x01 => some (.pamoMin (guardOf w) (w.extractLsb' 71 5) (w.extractLsb' 65 6) (w.extractLsb' 59 6) (w.extractLsb' 42 3) (w.extractLsb' 40 2) (w.extractLsb' 0 32))
  | 0x02 => some (.pamoMax (guardOf w) (w.extractLsb' 71 5) (w.extractLsb' 65 6) (w.extractLsb' 59 6) (w.extractLsb' 42 3) (w.extractLsb' 40 2) (w.extractLsb' 0 32))
  | 0x03 => some (.pamoSwap (guardOf w) (w.extractLsb' 71 5) (w.extractLsb' 65 6) (w.extractLsb' 59 6) (w.extractLsb' 42 3) (w.extractLsb' 40 2) (w.extractLsb' 0 32))
  | 0x04 => some (.pamoCas (guardOf w) (w.extractLsb' 71 5) (w.extractLsb' 65 6) (w.extractLsb' 59 6) (w.extractLsb' 53 6) (w.extractLsb' 42 3) (w.extractLsb' 40 2) (w.extractLsb' 0 32))
  | 0x05 => some (.pamoCas2 (guardOf w) (w.extractLsb' 71 5) (w.extractLsb' 65 6) (w.extractLsb' 59 6) (w.extractLsb' 53 6) (w.extractLsb' 42 3) (w.extractLsb' 40 2) (w.extractLsb' 0 32))
  | 0x06 => some (.pamoEnq (guardOf w) (w.extractLsb' 71 5) (w.extractLsb' 65 6) (w.extractLsb' 59 6) (w.extractLsb' 42 3) (w.extractLsb' 40 2) (w.extractLsb' 0 32))
  | 0x07 => some (.pamoChase (guardOf w) (w.extractLsb' 71 5) (w.extractLsb' 65 6) (w.extractLsb' 42 3) (w.extractLsb' 40 2) (w.extractLsb' 32 3) (w.extractLsb' 0 32))
  | 0x08 => some (.pamoRedAdd (guardOf w) (w.extractLsb' 71 5) (w.extractLsb' 59 6) (w.extractLsb' 42 3) (w.extractLsb' 40 2) (w.extractLsb' 0 32))
  | 0x09 => some (.pamoRedMin (guardOf w) (w.extractLsb' 71 5) (w.extractLsb' 59 6) (w.extractLsb' 42 3) (w.extractLsb' 40 2) (w.extractLsb' 0 32))
  | 0x0A => some (.pamoRedMax (guardOf w) (w.extractLsb' 71 5) (w.extractLsb' 59 6) (w.extractLsb' 42 3) (w.extractLsb' 40 2) (w.extractLsb' 0 32))
  | 0x0B => some (.pamoHxch (guardOf w) (w.extractLsb' 71 5) (w.extractLsb' 42 3) (w.extractLsb' 40 2) (w.extractLsb' 0 32))
  | _ => none

/-- Opcode 0xA1 (R120). -/
noncomputable def buildA1 (w _lit : Word96) : Option Instr :=
  match (w.extractLsb' 45 8).toNat with
  | 0x00 => some (.pldC (guardOf w) (w.extractLsb' 71 5) (w.extractLsb' 65 6) (w.extractLsb' 42 3) (w.extractLsb' 40 2) (w.extractLsb' 0 32))
  | _ => none

/-- Opcode 0xA2 (R120). -/
noncomputable def buildA2 (w _lit : Word96) : Option Instr :=
  match (w.extractLsb' 45 8).toNat with
  | 0x00 => some (.pstC (guardOf w) (w.extractLsb' 71 5) (w.extractLsb' 59 6) (w.extractLsb' 42 3) (w.extractLsb' 40 2) (w.extractLsb' 0 32))
  | _ => none

/-- Opcode 0xA3 (R120). -/
noncomputable def buildA3 (w _lit : Word96) : Option Instr :=
  match (w.extractLsb' 45 8).toNat with
  | 0x00 => some (.bcntP (guardOf w) (w.extractLsb' 71 5) (w.extractLsb' 59 6) (w.extractLsb' 42 3) (w.extractLsb' 40 2) (w.extractLsb' 0 32))
  | _ => none

/-- Opcode 0xB0 (R120). -/
noncomputable def buildB0 (w _lit : Word96) : Option Instr :=
  match (w.extractLsb' 45 8).toNat with
  | 0x00 => some (.lsendH (guardOf w) (w.extractLsb' 71 5) (w.extractLsb' 53 6) (w.extractLsb' 39 6) (w.extractLsb' 33 6) (w.extractLsb' 21 12) (w.extractLsb' 17 4) (w.extractLsb' 11 6))
  | 0x01 => some (.lsendD (guardOf w) (w.extractLsb' 71 5) (w.extractLsb' 59 6) (w.extractLsb' 53 6) (w.extractLsb' 39 6) (w.extractLsb' 33 6) (w.extractLsb' 21 12) (w.extractLsb' 17 4) (w.extractLsb' 11 6))
  | 0x02 => some (.lsendV (guardOf w) (w.extractLsb' 59 6) (w.extractLsb' 53 6) (w.extractLsb' 39 6) (w.extractLsb' 33 6) (w.extractLsb' 21 12) (w.extractLsb' 17 4) (w.extractLsb' 11 6))
  | 0x03 => some (.lsendRld (guardOf w) (w.extractLsb' 71 5) (w.extractLsb' 65 6) (w.extractLsb' 39 6) (w.extractLsb' 33 6))
  | 0x04 => some (.lsendRst (guardOf w) (w.extractLsb' 71 5) (w.extractLsb' 59 6) (w.extractLsb' 39 6) (w.extractLsb' 33 6))
  | 0x05 => some (.lsendRadd (guardOf w) (w.extractLsb' 71 5) (w.extractLsb' 65 6) (w.extractLsb' 59 6) (w.extractLsb' 39 6) (w.extractLsb' 33 6))
  | 0x06 => some (.lsendRcas (guardOf w) (w.extractLsb' 71 5) (w.extractLsb' 65 6) (w.extractLsb' 59 6) (w.extractLsb' 53 6) (w.extractLsb' 39 6) (w.extractLsb' 33 6))
  | _ => none

/-- Opcode 0xB1 (R120). -/
noncomputable def buildB1 (w _lit : Word96) : Option Instr :=
  match (w.extractLsb' 45 8).toNat with
  | 0x00 => some (.ltakeM (guardOf w) (w.extractLsb' 71 5) (w.extractLsb' 65 6))
  | 0x01 => some (.ltakeP (guardOf w) (w.extractLsb' 71 5) (w.extractLsb' 65 6))
  | _ => none

/-- Opcode 0xB2 (R120). -/
noncomputable def buildB2 (w _lit : Word96) : Option Instr :=
  match (w.extractLsb' 45 8).toNat with
  | 0x00 => some (.lcalW (guardOf w) (w.extractLsb' 71 5) (w.extractLsb' 59 6))
  | _ => none

/-- Opcode 0xB3 (R120). -/
noncomputable def buildB3 (w _lit : Word96) : Option Instr :=
  match (w.extractLsb' 45 8).toNat with
  | 0x00 => some (.lmarkD (guardOf w) (w.extractLsb' 59 6))
  | _ => none

/-- Opcode 0xB4 (R120). -/
noncomputable def buildB4 (w _lit : Word96) : Option Instr :=
  match (w.extractLsb' 45 8).toNat with
  | 0x00 => some (.lstatRd (guardOf w) (w.extractLsb' 65 6) (w.extractLsb' 59 6))
  | _ => none

/-- Opcode 0xB5 (R120). -/
noncomputable def buildB5 (w _lit : Word96) : Option Instr :=
  match (w.extractLsb' 45 8).toNat with
  | 0x00 => some (.shsendT (guardOf w) (w.extractLsb' 71 5) (w.extractLsb' 0 45))
  | _ => none

/-- Opcode 0xB6 (R120). -/
noncomputable def buildB6 (w _lit : Word96) : Option Instr :=
  match (w.extractLsb' 45 8).toNat with
  | 0x00 => some (.shtakeT (guardOf w) (w.extractLsb' 71 5) (w.extractLsb' 0 4))
  | _ => none

/-- Opcode 0xB7 (R120). -/
noncomputable def buildB7 (w _lit : Word96) : Option Instr :=
  match (w.extractLsb' 45 8).toNat with
  | 0x00 => some (.shretOpen (guardOf w) (w.extractLsb' 65 6) (w.extractLsb' 0 4) (w.extractLsb' 4 3) (w.extractLsb' 7 4))
  | 0x01 => some (.shretT (guardOf w) (w.extractLsb' 71 5) (w.extractLsb' 0 4))
  | 0x02 => some (.shretClose (guardOf w) (w.extractLsb' 0 4))
  | _ => none

/-- Opcode 0xB8 (R120). -/
noncomputable def buildB8 (w _lit : Word96) : Option Instr :=
  match (w.extractLsb' 45 8).toNat with
  | 0x00 => some (.sbputR (guardOf w) (w.extractLsb' 59 6) (w.extractLsb' 4 1) (w.extractLsb' 0 4))
  | _ => none

/-- Opcode 0xB9 (R120). -/
noncomputable def buildB9 (w _lit : Word96) : Option Instr :=
  match (w.extractLsb' 45 8).toNat with
  | 0x00 => some (.sbgetQ (guardOf w) (w.extractLsb' 65 6) (w.extractLsb' 59 6))
  | 0x01 => some (.sbgetX (guardOf w) (w.extractLsb' 65 6) (w.extractLsb' 59 6))
  | _ => none

/-- Opcode 0xBA (R120). -/
noncomputable def buildBA (w lit : Word96) : Option Instr :=
  match (w.extractLsb' 45 8).toNat with
  | 0x00 => some (.sbtblW (guardOf w) (w.extractLsb' 59 6) lit)
  | _ => none

/-- Opcode 0xBB (R120). -/
noncomputable def buildBB (w _lit : Word96) : Option Instr :=
  match (w.extractLsb' 45 8).toNat with
  | 0x00 => some (.sbcommitG (guardOf w) (w.extractLsb' 59 6))
  | _ => none

/-- Opcode 0xBC (R120). -/
noncomputable def buildBC (w _lit : Word96) : Option Instr :=
  match (w.extractLsb' 45 8).toNat with
  | 0x00 => some (.sbstatRd (guardOf w) (w.extractLsb' 65 6) (w.extractLsb' 59 6))
  | 0x01 => some (.sbstatMark (guardOf w) (w.extractLsb' 59 6))
  | _ => none

/-- The instruction a word's opcode and fn select, its fields as they stand; `none` for a reserved fn (subcode 0x04). -/
noncomputable def build (w lit : Word96) : Option Instr :=
  match (opcodeOf w).toNat with
  | 0x00 => build00 w lit
  | 0x01 => build01 w lit
  | 0x02 => build02 w lit
  | 0x03 => build03 w lit
  | 0x04 => build04 w lit
  | 0x05 => build05 w lit
  | 0x06 => build06 w lit
  | 0x07 => build07 w lit
  | 0x08 => build08 w lit
  | 0x09 => build09 w lit
  | 0x10 => build10 w lit
  | 0x11 => build11 w lit
  | 0x12 => build12 w lit
  | 0x13 => build13 w lit
  | 0x14 => build14 w lit
  | 0x15 => build15 w lit
  | 0x16 => build16 w lit
  | 0x17 => build17 w lit
  | 0x18 => build18 w lit
  | 0x19 => build19 w lit
  | 0x20 => build20 w lit
  | 0x21 => build21 w lit
  | 0x22 => build22 w lit
  | 0x23 => build23 w lit
  | 0x24 => build24 w lit
  | 0x25 => build25 w lit
  | 0x26 => build26 w lit
  | 0x27 => build27 w lit
  | 0x30 => build30 w lit
  | 0x31 => build31 w lit
  | 0x32 => build32 w lit
  | 0x33 => build33 w lit
  | 0x34 => build34 w lit
  | 0x35 => build35 w lit
  | 0x36 => build36 w lit
  | 0x37 => build37 w lit
  | 0x40 => build40 w lit
  | 0x41 => build41 w lit
  | 0x42 => build42 w lit
  | 0x43 => build43 w lit
  | 0x44 => build44 w lit
  | 0x45 => build45 w lit
  | 0x46 => build46 w lit
  | 0x47 => build47 w lit
  | 0x48 => build48 w lit
  | 0x49 => build49 w lit
  | 0x4A => build4A w lit
  | 0x4B => build4B w lit
  | 0x4C => build4C w lit
  | 0x50 => build50 w lit
  | 0x51 => build51 w lit
  | 0x52 => build52 w lit
  | 0x53 => build53 w lit
  | 0x54 => build54 w lit
  | 0x55 => build55 w lit
  | 0x56 => build56 w lit
  | 0x57 => build57 w lit
  | 0x58 => build58 w lit
  | 0x60 => build60 w lit
  | 0x61 => build61 w lit
  | 0x62 => build62 w lit
  | 0x63 => build63 w lit
  | 0x64 => build64 w lit
  | 0x70 => build70 w lit
  | 0x71 => build71 w lit
  | 0x72 => build72 w lit
  | 0x73 => build73 w lit
  | 0x74 => build74 w lit
  | 0x75 => build75 w lit
  | 0x76 => build76 w lit
  | 0x77 => build77 w lit
  | 0x78 => build78 w lit
  | 0x79 => build79 w lit
  | 0x7A => build7A w lit
  | 0x7B => build7B w lit
  | 0x7C => build7C w lit
  | 0x7D => build7D w lit
  | 0x7E => build7E w lit
  | 0x7F => build7F w lit
  | 0x80 => build80 w lit
  | 0x81 => build81 w lit
  | 0x82 => build82 w lit
  | 0x83 => build83 w lit
  | 0x84 => build84 w lit
  | 0x85 => build85 w lit
  | 0x86 => build86 w lit
  | 0x90 => build90 w lit
  | 0x91 => build91 w lit
  | 0x92 => build92 w lit
  | 0xA0 => buildA0 w lit
  | 0xA1 => buildA1 w lit
  | 0xA2 => buildA2 w lit
  | 0xA3 => buildA3 w lit
  | 0xB0 => buildB0 w lit
  | 0xB1 => buildB1 w lit
  | 0xB2 => buildB2 w lit
  | 0xB3 => buildB3 w lit
  | 0xB4 => buildB4 w lit
  | 0xB5 => buildB5 w lit
  | 0xB6 => buildB6 w lit
  | 0xB7 => buildB7 w lit
  | 0xB8 => buildB8 w lit
  | 0xB9 => buildB9 w lit
  | 0xBA => buildBA w lit
  | 0xBB => buildBB w lit
  | 0xBC => buildBC w lit
  | _ => none

/-- The word of an instruction, its bits written from the encodings of R106, R109 and R110; 0 for what is no word. -/
def encodeWord : Instr → Word96
  | .nop g => word 0x00 g
  | .halt g => word 0x01 g
  | .trapSw g imm => put (word 0x02 g) 8 imm
  | .rft g => word 0x03 g
  | .sysr g d reg => put (put (word 0x04 g) 70 d) 56 reg
  | .sysw g a reg => put (put (word 0x05 g) 64 a) 56 reg
  | .ovlyN g imm => put (word 0x06 g) 8 imm
  | .ovlyS g a => put (put (word 0x06 g) 56 (0x01 : BitVec 8)) 64 a
  | .cardone g => word 0x07 g
  | .dlaunchP g d a => put (put (word 0x08 g) 70 d) 64 a
  | .traceTs g => word 0x09 g
  | .traceBr g => put (word 0x09 g) 56 (0x01 : BitVec 8)
  | .saluAdd g d a b => put (put (put (word 0x10 g) 70 d) 64 a) 58 b
  | .saluSub g d a b => put (put (put (put (word 0x10 g) 44 (0x01 : BitVec 8)) 70 d) 64 a) 58 b
  | .saluAnd g d a b => put (put (put (put (word 0x10 g) 44 (0x02 : BitVec 8)) 70 d) 64 a) 58 b
  | .saluOr g d a b => put (put (put (put (word 0x10 g) 44 (0x03 : BitVec 8)) 70 d) 64 a) 58 b
  | .saluXor g d a b => put (put (put (put (word 0x10 g) 44 (0x04 : BitVec 8)) 70 d) 64 a) 58 b
  | .saluAndn g d a b => put (put (put (put (word 0x10 g) 44 (0x05 : BitVec 8)) 70 d) 64 a) 58 b
  | .saluShl g d a b => put (put (put (put (word 0x10 g) 44 (0x06 : BitVec 8)) 70 d) 64 a) 58 b
  | .saluShr g d a b => put (put (put (put (word 0x10 g) 44 (0x07 : BitVec 8)) 70 d) 64 a) 58 b
  | .saluSar g d a b => put (put (put (put (word 0x10 g) 44 (0x08 : BitVec 8)) 70 d) 64 a) 58 b
  | .saluRol g d a b => put (put (put (put (word 0x10 g) 44 (0x09 : BitVec 8)) 70 d) 64 a) 58 b
  | .saluMin g d a b => put (put (put (put (word 0x10 g) 44 (0x0A : BitVec 8)) 70 d) 64 a) 58 b
  | .saluMax g d a b => put (put (put (put (word 0x10 g) 44 (0x0B : BitVec 8)) 70 d) 64 a) 58 b
  | .saluMinu g d a b => put (put (put (put (word 0x10 g) 44 (0x0C : BitVec 8)) 70 d) 64 a) 58 b
  | .saluMaxu g d a b => put (put (put (put (word 0x10 g) 44 (0x0D : BitVec 8)) 70 d) 64 a) 58 b
  | .saluMul g d a b => put (put (put (put (word 0x10 g) 44 (0x10 : BitVec 8)) 70 d) 64 a) 58 b
  | .saluMulh g d a b => put (put (put (put (word 0x10 g) 44 (0x11 : BitVec 8)) 70 d) 64 a) 58 b
  | .saluMulhu g d a b => put (put (put (put (word 0x10 g) 44 (0x12 : BitVec 8)) 70 d) 64 a) 58 b
  | .saluSeq g d a b => put (put (put (put (word 0x10 g) 44 (0x18 : BitVec 8)) 70 d) 64 a) 58 b
  | .saluSne g d a b => put (put (put (put (word 0x10 g) 44 (0x19 : BitVec 8)) 70 d) 64 a) 58 b
  | .saluSlt g d a b => put (put (put (put (word 0x10 g) 44 (0x1A : BitVec 8)) 70 d) 64 a) 58 b
  | .saluSltu g d a b => put (put (put (put (word 0x10 g) 44 (0x1B : BitVec 8)) 70 d) 64 a) 58 b
  | .saluSel g d a b c => put (put (put (put (put (word 0x10 g) 44 (0x1C : BitVec 8)) 70 d) 64 a) 58 b) 52 c
  | .saluClz g d a => put (put (put (word 0x10 g) 44 (0x20 : BitVec 8)) 70 d) 64 a
  | .saluCtz g d a => put (put (put (word 0x10 g) 44 (0x21 : BitVec 8)) 70 d) 64 a
  | .saluPop g d a => put (put (put (word 0x10 g) 44 (0x22 : BitVec 8)) 70 d) 64 a
  | .saluiAdd g d a imm => put (put (put (word 0x11 g) 70 d) 64 a) 8 imm
  | .saluiSub g d a imm => put (put (put (put (word 0x11 g) 56 (0x01 : BitVec 8)) 70 d) 64 a) 8 imm
  | .saluiAnd g d a imm => put (put (put (put (word 0x11 g) 56 (0x02 : BitVec 8)) 70 d) 64 a) 8 imm
  | .saluiOr g d a imm => put (put (put (put (word 0x11 g) 56 (0x03 : BitVec 8)) 70 d) 64 a) 8 imm
  | .saluiXor g d a imm => put (put (put (put (word 0x11 g) 56 (0x04 : BitVec 8)) 70 d) 64 a) 8 imm
  | .saluiAndn g d a imm => put (put (put (put (word 0x11 g) 56 (0x05 : BitVec 8)) 70 d) 64 a) 8 imm
  | .saluiShl g d a imm => put (put (put (put (word 0x11 g) 56 (0x06 : BitVec 8)) 70 d) 64 a) 8 imm
  | .saluiShr g d a imm => put (put (put (put (word 0x11 g) 56 (0x07 : BitVec 8)) 70 d) 64 a) 8 imm
  | .saluiSar g d a imm => put (put (put (put (word 0x11 g) 56 (0x08 : BitVec 8)) 70 d) 64 a) 8 imm
  | .saluiRol g d a imm => put (put (put (put (word 0x11 g) 56 (0x09 : BitVec 8)) 70 d) 64 a) 8 imm
  | .saluiMin g d a imm => put (put (put (put (word 0x11 g) 56 (0x0A : BitVec 8)) 70 d) 64 a) 8 imm
  | .saluiMax g d a imm => put (put (put (put (word 0x11 g) 56 (0x0B : BitVec 8)) 70 d) 64 a) 8 imm
  | .saluiMinu g d a imm => put (put (put (put (word 0x11 g) 56 (0x0C : BitVec 8)) 70 d) 64 a) 8 imm
  | .saluiMaxu g d a imm => put (put (put (put (word 0x11 g) 56 (0x0D : BitVec 8)) 70 d) 64 a) 8 imm
  | .saluiMul g d a imm => put (put (put (put (word 0x11 g) 56 (0x10 : BitVec 8)) 70 d) 64 a) 8 imm
  | .saluiMulh g d a imm => put (put (put (put (word 0x11 g) 56 (0x11 : BitVec 8)) 70 d) 64 a) 8 imm
  | .saluiMulhu g d a imm => put (put (put (put (word 0x11 g) 56 (0x12 : BitVec 8)) 70 d) 64 a) 8 imm
  | .saluiSeq g d a imm => put (put (put (put (word 0x11 g) 56 (0x18 : BitVec 8)) 70 d) 64 a) 8 imm
  | .saluiSne g d a imm => put (put (put (put (word 0x11 g) 56 (0x19 : BitVec 8)) 70 d) 64 a) 8 imm
  | .saluiSlt g d a imm => put (put (put (put (word 0x11 g) 56 (0x1A : BitVec 8)) 70 d) 64 a) 8 imm
  | .saluiSltu g d a imm => put (put (put (put (word 0x11 g) 56 (0x1B : BitVec 8)) 70 d) 64 a) 8 imm
  | .sdivDiv g d a b => put (put (put (word 0x12 g) 70 d) 64 a) 58 b
  | .sdivDivu g d a b => put (put (put (put (word 0x12 g) 44 (0x01 : BitVec 8)) 70 d) 64 a) 58 b
  | .sdivRem g d a b => put (put (put (put (word 0x12 g) 44 (0x02 : BitVec 8)) 70 d) 64 a) 58 b
  | .sdivRemu g d a b => put (put (put (put (word 0x12 g) 44 (0x03 : BitVec 8)) 70 d) 64 a) 58 b
  | .sfpAdd g d a b => put (put (put (word 0x13 g) 70 d) 64 a) 58 b
  | .sfpSub g d a b => put (put (put (put (word 0x13 g) 44 (0x01 : BitVec 8)) 70 d) 64 a) 58 b
  | .sfpMul g d a b => put (put (put (put (word 0x13 g) 44 (0x02 : BitVec 8)) 70 d) 64 a) 58 b
  | .sfpFma g d a b c => put (put (put (put (put (word 0x13 g) 44 (0x03 : BitVec 8)) 70 d) 64 a) 58 b) 52 c
  | .sfpDiv g d a b => put (put (put (put (word 0x13 g) 44 (0x04 : BitVec 8)) 70 d) 64 a) 58 b
  | .sfpSqrt g d a => put (put (put (word 0x13 g) 44 (0x05 : BitVec 8)) 70 d) 64 a
  | .sfpMin g d a b => put (put (put (put (word 0x13 g) 44 (0x06 : BitVec 8)) 70 d) 64 a) 58 b
  | .sfpMax g d a b => put (put (put (put (word 0x13 g) 44 (0x07 : BitVec 8)) 70 d) 64 a) 58 b
  | .sfpCvti g d a => put (put (put (word 0x13 g) 44 (0x08 : BitVec 8)) 70 d) 64 a
  | .sfpCvtf g d a => put (put (put (word 0x13 g) 44 (0x09 : BitVec 8)) 70 d) 64 a
  | .sfpEq g d a b => put (put (put (put (word 0x13 g) 44 (0x0A : BitVec 8)) 70 d) 64 a) 58 b
  | .sfpLt g d a b => put (put (put (put (word 0x13 g) 44 (0x0B : BitVec 8)) 70 d) 64 a) 58 b
  | .sfpLe g d a b => put (put (put (put (word 0x13 g) 44 (0x0C : BitVec 8)) 70 d) 64 a) 58 b
  | .psetAnd g d a b c => put (put (put (put (put (word 0x14 g) 44 (0x02 : BitVec 8)) 70 d) 64 a) 58 b) 52 c
  | .psetOr g d a b c => put (put (put (put (put (word 0x14 g) 44 (0x03 : BitVec 8)) 70 d) 64 a) 58 b) 52 c
  | .psetXor g d a b c => put (put (put (put (put (word 0x14 g) 44 (0x04 : BitVec 8)) 70 d) 64 a) 58 b) 52 c
  | .psetAndn g d a b c => put (put (put (put (put (word 0x14 g) 44 (0x05 : BitVec 8)) 70 d) 64 a) 58 b) 52 c
  | .psetEq g d a b c => put (put (put (put (put (word 0x14 g) 44 (0x18 : BitVec 8)) 70 d) 64 a) 58 b) 52 c
  | .psetNe g d a b c => put (put (put (put (put (word 0x14 g) 44 (0x19 : BitVec 8)) 70 d) 64 a) 58 b) 52 c
  | .psetLt g d a b c => put (put (put (put (put (word 0x14 g) 44 (0x1A : BitVec 8)) 70 d) 64 a) 58 b) 52 c
  | .psetLtu g d a b c => put (put (put (put (put (word 0x14 g) 44 (0x1B : BitVec 8)) 70 d) 64 a) 58 b) 52 c
  | .psetGe g d a b c => put (put (put (put (put (word 0x14 g) 44 (0x1D : BitVec 8)) 70 d) 64 a) 58 b) 52 c
  | .psetGeu g d a b c => put (put (put (put (put (word 0x14 g) 44 (0x1E : BitVec 8)) 70 d) 64 a) 58 b) 52 c
  | .lit g d _ => put (word 0x15 g) 70 d
  | .ldP g d a imm => put (put (put (word 0x16 g) 70 d) 64 a) 8 imm
  | .ldH g d a imm => put (put (put (put (word 0x16 g) 56 (0x01 : BitVec 8)) 70 d) 64 a) 8 imm
  | .ldCap g d a imm => put (put (put (put (word 0x16 g) 56 (0x02 : BitVec 8)) 70 d) 64 a) 8 imm
  | .stP g d a imm => put (put (put (word 0x17 g) 70 d) 64 a) 8 imm
  | .stH g d a imm => put (put (put (put (word 0x17 g) 56 (0x01 : BitVec 8)) 70 d) 64 a) 8 imm
  | .stCap g d a imm => put (put (put (put (word 0x17 g) 56 (0x02 : BitVec 8)) 70 d) 64 a) 8 imm
  | .enterF g imm => put (word 0x18 g) 8 imm
  | .leaveF g => word 0x19 g
  | .pbrO g t imm => put (put (word 0x20 g) 73 t) 8 imm
  | .pbrR g t a => put (put (put (word 0x20 g) 56 (0x01 : BitVec 8)) 73 t) 64 a
  | .brGo g t => put (word 0x21 g) 73 t
  | .brqT g t => put (word 0x22 g) 73 t
  | .brqF g t => put (put (word 0x22 g) 56 (0x01 : BitVec 8)) 73 t
  | .brmzSkip g imm => put (word 0x23 g) 8 imm
  | .callGo g t => put (word 0x24 g) 73 t
  | .retGo g => word 0x25 g
  | .loopL g a imm => put (put (word 0x26 g) 64 a) 8 imm
  | .loopS g t a imm => put (put (put (put (word 0x26 g) 56 (0x01 : BitVec 8)) 73 t) 64 a) 8 imm
  | .repeatN g imm => put (word 0x27 g) 8 imm
  | .repeatS g a => put (put (word 0x27 g) 56 (0x01 : BitVec 8)) 64 a
  | .signalT g a imm => put (put (word 0x30 g) 64 a) 8 imm
  | .signalS g d a => put (put (put (word 0x30 g) 56 (0x01 : BitVec 8)) 70 d) 64 a
  | .waitT g a => put (word 0x31 g) 64 a
  | .waitN g a imm => put (put (put (word 0x31 g) 56 (0x01 : BitVec 8)) 64 a) 8 imm
  | .toksetI g a imm => put (put (word 0x32 g) 64 a) 8 imm
  | .toksetX g d a imm => put (put (put (put (word 0x32 g) 56 (0x01 : BitVec 8)) 70 d) 64 a) 8 imm
  | .fenceS g d imm => put (put (word 0x33 g) 70 d) 8 imm
  | .retimeAt g a imm => put (put (word 0x34 g) 64 a) 8 imm
  | .waitvEq g h a b scope order cell => put (put (put (put (put (put (word 0x35 g) 71 h) 65 a) 59 b) 42 scope) 40 order) 0 cell
  | .waitvNe g h a b scope order cell => put (put (put (put (put (put (put (word 0x35 g) 45 (0x01 : BitVec 8)) 71 h) 65 a) 59 b) 42 scope) 40 order) 0 cell
  | .waitvGe g h a b scope order cell => put (put (put (put (put (put (put (word 0x35 g) 45 (0x02 : BitVec 8)) 71 h) 65 a) 59 b) 42 scope) 40 order) 0 cell
  | .waitvLt g h a b scope order cell => put (put (put (put (put (put (put (word 0x35 g) 45 (0x03 : BitVec 8)) 71 h) 65 a) 59 b) 42 scope) 40 order) 0 cell
  | .waitvAny g h a b scope order cell => put (put (put (put (put (put (put (word 0x35 g) 45 (0x04 : BitVec 8)) 71 h) 65 a) 59 b) 42 scope) 40 order) 0 cell
  | .waitvNone g h a b scope order cell => put (put (put (put (put (put (put (word 0x35 g) 45 (0x05 : BitVec 8)) 71 h) 65 a) 59 b) 42 scope) 40 order) 0 cell
  | .markQ g a imm => put (put (word 0x36 g) 64 a) 8 imm
  | .sstepS g a imm => put (put (word 0x37 g) 64 a) 8 imm
  | .capsetB g hd ha sr => put (put (put (word 0x40 g) 71 hd) 66 ha) 55 sr
  | .capsetE g hd ha sr => put (put (put (put (word 0x40 g) 47 (0x01 : BitVec 8)) 71 hd) 66 ha) 55 sr
  | .cappermAnd g hd ha imm => put (put (put (word 0x41 g) 71 hd) 66 ha) 15 imm
  | .capoffAdd g hd ha sr => put (put (put (word 0x42 g) 71 hd) 66 ha) 55 sr
  | .capoffSet g hd ha sr => put (put (put (put (word 0x42 g) 47 (0x01 : BitVec 8)) 71 hd) 66 ha) 55 sr
  | .capgetA g ha sr => put (put (word 0x43 g) 66 ha) 55 sr
  | .capgetCells g hd => put (put (word 0x43 g) 47 (0x01 : BitVec 8)) 71 hd
  | .capgetKv g hd => put (put (word 0x43 g) 47 (0x02 : BitVec 8)) 71 hd
  | .capgetPeer g hd sr => put (put (put (word 0x43 g) 47 (0x03 : BitVec 8)) 71 hd) 55 sr
  | .capgetSys g hd => put (put (word 0x43 g) 47 (0x04 : BitVec 8)) 71 hd
  | .capgetBase g ha sr => put (put (put (word 0x43 g) 47 (0x05 : BitVec 8)) 66 ha) 55 sr
  | .capgetLen g ha sr => put (put (put (word 0x43 g) 47 (0x06 : BitVec 8)) 66 ha) 55 sr
  | .capgetHi g ha sr => put (put (put (word 0x43 g) 47 (0x07 : BitVec 8)) 66 ha) 55 sr
  | .captestTag g ha sr => put (put (word 0x44 g) 66 ha) 55 sr
  | .captestIn g ha sr imm => put (put (put (put (word 0x44 g) 47 (0x01 : BitVec 8)) 66 ha) 55 sr) 15 imm
  | .dupN g hd ha imm => put (put (put (word 0x45 g) 71 hd) 66 ha) 15 imm
  | .dropW g ha => put (word 0x46 g) 66 ha
  | .dropB g hd ha sr => put (put (put (put (word 0x46 g) 47 (0x01 : BitVec 8)) 71 hd) 66 ha) 55 sr
  | .movhM g hd ha => put (put (word 0x47 g) 71 hd) 66 ha
  | .mergeW g hd ha hb => put (put (put (word 0x48 g) 71 hd) 66 ha) 61 hb
  | .allocT g hd imm => put (put (word 0x49 g) 71 hd) 15 imm
  | .allocM g hd imm => put (put (put (word 0x49 g) 47 (0x01 : BitVec 8)) 71 hd) 15 imm
  | .isunqL g ha sr => put (put (word 0x4A g) 66 ha) 55 sr
  | .isunqX g ha sr => put (put (put (word 0x4A g) 47 (0x01 : BitVec 8)) 66 ha) 55 sr
  | .updT g hd ha => put (put (word 0x4B g) 71 hd) 66 ha
  | .updM g hd ha => put (put (put (word 0x4B g) 47 (0x01 : BitVec 8)) 71 hd) 66 ha
  | .sealT g hd ha imm => put (put (put (word 0x4C g) 71 hd) 66 ha) 15 imm
  | .gsetL g gr _ => put (word 0x50 g) 61 gr
  | .gsetR g ha gr _ => put (put (put (word 0x50 g) 44 (0x01 : BitVec 4)) 66 ha) 61 gr
  | .csetI g d imm => put (put (word 0x51 g) 70 d) 8 imm
  | .csetS g d a => put (put (put (word 0x51 g) 56 (0x01 : BitVec 8)) 70 d) 64 a
  | .caddI g d a imm => put (put (put (word 0x52 g) 70 d) 64 a) 8 imm
  | .caddS g d a => put (put (put (word 0x52 g) 56 (0x01 : BitVec 8)) 70 d) 64 a
  | .tldR g hd ha gr f cnt post clip perm stamp imm => put (put (put (put (put (put (put (put (put (put (word 0x53 g) 71 hd) 66 ha) 61 gr) 57 f) 54 cnt) 43 post) 42 clip) 41 perm) 20 stamp) 0 imm
  | .tldW g hd ha stamp => put (put (put (put (word 0x53 g) 44 (0x01 : BitVec 4)) 71 hd) 66 ha) 20 stamp
  | .tcopyR g hd ha gr f cnt sr post clip perm stamp imm => put (put (put (put (put (put (put (put (put (put (put (word 0x54 g) 71 hd) 66 ha) 61 gr) 57 f) 54 cnt) 48 sr) 43 post) 42 clip) 41 perm) 20 stamp) 0 imm
  | .tcopyW g hd ha sr stamp => put (put (put (put (put (word 0x54 g) 44 (0x01 : BitVec 4)) 71 hd) 66 ha) 48 sr) 20 stamp
  | .tcopyS g hd ha gr f cnt sr post clip perm stamp => put (put (put (put (put (put (put (put (put (put (put (word 0x54 g) 44 (0x02 : BitVec 4)) 71 hd) 66 ha) 61 gr) 57 f) 54 cnt) 48 sr) 43 post) 42 clip) 41 perm) 20 stamp
  | .tcopyHi g hd ha sr stamp imm => put (put (put (put (put (put (word 0x54 g) 44 (0x03 : BitVec 4)) 71 hd) 66 ha) 48 sr) 20 stamp) 0 imm
  | .tcopyHo g hd ha sr stamp imm => put (put (put (put (put (put (word 0x54 g) 44 (0x04 : BitVec 4)) 71 hd) 66 ha) 48 sr) 20 stamp) 0 imm
  | .gatherK g hd ha sr stamp => put (put (put (put (word 0x55 g) 71 hd) 66 ha) 48 sr) 20 stamp
  | .gatherV g hd ha sr stamp => put (put (put (put (put (word 0x55 g) 44 (0x01 : BitVec 4)) 71 hd) 66 ha) 48 sr) 20 stamp
  | .appendKv g hd ha sr => put (put (put (word 0x56 g) 71 hd) 66 ha) 48 sr
  | .claimS g hd => put (word 0x57 g) 71 hd
  | .releaseS g hd => put (word 0x58 g) 71 hd
  | .mmaT g stamp sa sb col k acc ta pre => put (put (put (put (put (put (put (put (word 0x60 g) 56 stamp) 52 sa) 48 sb) 38 col) 30 k) 25 acc) 24 ta) 23 pre
  | .mdrainT g stamp rm hb col k sr => put (put (put (put (put (put (word 0x61 g) 56 stamp) 53 rm) 48 hb) 38 col) 30 k) 16 sr
  | .mzeroT g stamp col k => put (put (put (word 0x62 g) 56 stamp) 38 col) 30 k
  | .maccR g stamp row col k acc int sr => put (put (put (put (put (put (put (word 0x63 g) 56 stamp) 48 row) 38 col) 30 k) 25 acc) 24 int) 16 sr
  | .tstatR g d a => put (put (word 0x64 g) 70 d) 64 a
  | .valuAdd g vd va vb ty rm sat masked => put (put (put (put (put (put (put (word 0x70 g) 70 vd) 64 va) 58 vb) 40 ty) 37 rm) 36 sat) 35 masked
  | .valuSub g vd va vb ty rm sat masked => put (put (put (put (put (put (put (put (word 0x70 g) 44 (0x01 : BitVec 8)) 70 vd) 64 va) 58 vb) 40 ty) 37 rm) 36 sat) 35 masked
  | .valuAnd g vd va vb ty rm sat masked => put (put (put (put (put (put (put (put (word 0x70 g) 44 (0x02 : BitVec 8)) 70 vd) 64 va) 58 vb) 40 ty) 37 rm) 36 sat) 35 masked
  | .valuOr g vd va vb ty rm sat masked => put (put (put (put (put (put (put (put (word 0x70 g) 44 (0x03 : BitVec 8)) 70 vd) 64 va) 58 vb) 40 ty) 37 rm) 36 sat) 35 masked
  | .valuXor g vd va vb ty rm sat masked => put (put (put (put (put (put (put (put (word 0x70 g) 44 (0x04 : BitVec 8)) 70 vd) 64 va) 58 vb) 40 ty) 37 rm) 36 sat) 35 masked
  | .valuAndn g vd va vb ty rm sat masked => put (put (put (put (put (put (put (put (word 0x70 g) 44 (0x05 : BitVec 8)) 70 vd) 64 va) 58 vb) 40 ty) 37 rm) 36 sat) 35 masked
  | .valuShl g vd va vb ty rm sat masked => put (put (put (put (put (put (put (put (word 0x70 g) 44 (0x06 : BitVec 8)) 70 vd) 64 va) 58 vb) 40 ty) 37 rm) 36 sat) 35 masked
  | .valuShr g vd va vb ty rm sat masked => put (put (put (put (put (put (put (put (word 0x70 g) 44 (0x07 : BitVec 8)) 70 vd) 64 va) 58 vb) 40 ty) 37 rm) 36 sat) 35 masked
  | .valuSar g vd va vb ty rm sat masked => put (put (put (put (put (put (put (put (word 0x70 g) 44 (0x08 : BitVec 8)) 70 vd) 64 va) 58 vb) 40 ty) 37 rm) 36 sat) 35 masked
  | .valuMin g vd va vb ty rm sat masked => put (put (put (put (put (put (put (put (word 0x70 g) 44 (0x0A : BitVec 8)) 70 vd) 64 va) 58 vb) 40 ty) 37 rm) 36 sat) 35 masked
  | .valuMax g vd va vb ty rm sat masked => put (put (put (put (put (put (put (put (word 0x70 g) 44 (0x0B : BitVec 8)) 70 vd) 64 va) 58 vb) 40 ty) 37 rm) 36 sat) 35 masked
  | .valuAbs g vd va ty rm sat masked => put (put (put (put (put (put (put (word 0x70 g) 44 (0x0C : BitVec 8)) 70 vd) 64 va) 40 ty) 37 rm) 36 sat) 35 masked
  | .valuMul g vd va vb ty rm sat masked => put (put (put (put (put (put (put (put (word 0x70 g) 44 (0x10 : BitVec 8)) 70 vd) 64 va) 58 vb) 40 ty) 37 rm) 36 sat) 35 masked
  | .valuMulh g vd va vb ty rm sat masked => put (put (put (put (put (put (put (put (word 0x70 g) 44 (0x11 : BitVec 8)) 70 vd) 64 va) 58 vb) 40 ty) 37 rm) 36 sat) 35 masked
  | .vfmaFma g vd va vb vc ty rm sat masked => put (put (put (put (put (put (put (put (word 0x71 g) 70 vd) 64 va) 58 vb) 52 vc) 40 ty) 37 rm) 36 sat) 35 masked
  | .vfmaFms g vd va vb vc ty rm sat masked => put (put (put (put (put (put (put (put (put (word 0x71 g) 44 (0x01 : BitVec 8)) 70 vd) 64 va) 58 vb) 52 vc) 40 ty) 37 rm) 36 sat) 35 masked
  | .vfmaFnma g vd va vb vc ty rm sat masked => put (put (put (put (put (put (put (put (put (word 0x71 g) 44 (0x02 : BitVec 8)) 70 vd) 64 va) 58 vb) 52 vc) 40 ty) 37 rm) 36 sat) 35 masked
  | .vcmpEq g vd va vb ty masked => put (put (put (put (put (put (word 0x72 g) 44 (0x18 : BitVec 8)) 70 vd) 64 va) 58 vb) 40 ty) 35 masked
  | .vcmpNe g vd va vb ty masked => put (put (put (put (put (put (word 0x72 g) 44 (0x19 : BitVec 8)) 70 vd) 64 va) 58 vb) 40 ty) 35 masked
  | .vcmpLt g vd va vb ty masked => put (put (put (put (put (put (word 0x72 g) 44 (0x1A : BitVec 8)) 70 vd) 64 va) 58 vb) 40 ty) 35 masked
  | .vcmpGe g vd va vb ty masked => put (put (put (put (put (put (word 0x72 g) 44 (0x1D : BitVec 8)) 70 vd) 64 va) 58 vb) 40 ty) 35 masked
  | .vcvtCvt g vd va ty rm sat masked imm => put (put (put (put (put (put (put (word 0x73 g) 70 vd) 64 va) 40 ty) 37 rm) 36 sat) 35 masked) 21 imm
  | .vlt3Lut g vd va vb vc ty masked imm => put (put (put (put (put (put (put (word 0x74 g) 70 vd) 64 va) 58 vb) 52 vc) 40 ty) 35 masked) 21 imm
  | .vfshL g vd va vb ty masked imm => put (put (put (put (put (put (word 0x75 g) 70 vd) 64 va) 58 vb) 40 ty) 35 masked) 21 imm
  | .vfshR g vd va vb ty masked imm => put (put (put (put (put (put (put (word 0x75 g) 44 (0x01 : BitVec 8)) 70 vd) 64 va) 58 vb) 40 ty) 35 masked) 21 imm
  | .vlrotRot g vd va ty masked imm => put (put (put (put (put (word 0x76 g) 70 vd) 64 va) 40 ty) 35 masked) 21 imm
  | .vlrotRots g vd va ty masked sr => put (put (put (put (put (put (word 0x76 g) 44 (0x01 : BitVec 8)) 70 vd) 64 va) 40 ty) 35 masked) 29 sr
  | .vpermIdx g vd va vb ty masked => put (put (put (put (put (word 0x77 g) 70 vd) 64 va) 58 vb) 40 ty) 35 masked
  | .vpermIdx2 g vd va vb vc ty masked => put (put (put (put (put (put (put (word 0x77 g) 44 (0x01 : BitVec 8)) 70 vd) 64 va) 58 vb) 52 vc) 40 ty) 35 masked
  | .vbcastS g vd ty masked sr => put (put (put (put (word 0x78 g) 70 vd) 40 ty) 35 masked) 29 sr
  | .vbcastLane g vd va ty masked imm => put (put (put (put (put (put (word 0x78 g) 44 (0x01 : BitVec 8)) 70 vd) 64 va) 40 ty) 35 masked) 21 imm
  | .vbcastImm g vd ty masked imm => put (put (put (put (put (word 0x78 g) 44 (0x02 : BitVec 8)) 70 vd) 40 ty) 35 masked) 21 imm
  | .vredAdd g vd va ty rm sat masked => put (put (put (put (put (put (word 0x79 g) 70 vd) 64 va) 40 ty) 37 rm) 36 sat) 35 masked
  | .vredAnd g vd va ty rm sat masked => put (put (put (put (put (put (put (word 0x79 g) 44 (0x02 : BitVec 8)) 70 vd) 64 va) 40 ty) 37 rm) 36 sat) 35 masked
  | .vredOr g vd va ty rm sat masked => put (put (put (put (put (put (put (word 0x79 g) 44 (0x03 : BitVec 8)) 70 vd) 64 va) 40 ty) 37 rm) 36 sat) 35 masked
  | .vredXor g vd va ty rm sat masked => put (put (put (put (put (put (put (word 0x79 g) 44 (0x04 : BitVec 8)) 70 vd) 64 va) 40 ty) 37 rm) 36 sat) 35 masked
  | .vredMin g vd va ty rm sat masked => put (put (put (put (put (put (put (word 0x79 g) 44 (0x0A : BitVec 8)) 70 vd) 64 va) 40 ty) 37 rm) 36 sat) 35 masked
  | .vredMax g vd va ty rm sat masked => put (put (put (put (put (put (put (word 0x79 g) 44 (0x0B : BitVec 8)) 70 vd) 64 va) 40 ty) 37 rm) 36 sat) 35 masked
  | .vfunExp g vd va ty rm sat masked => put (put (put (put (put (put (word 0x7A g) 70 vd) 64 va) 40 ty) 37 rm) 36 sat) 35 masked
  | .vfunExp2 g vd va ty rm sat masked => put (put (put (put (put (put (put (word 0x7A g) 44 (0x01 : BitVec 8)) 70 vd) 64 va) 40 ty) 37 rm) 36 sat) 35 masked
  | .vfunLog g vd va ty rm sat masked => put (put (put (put (put (put (put (word 0x7A g) 44 (0x02 : BitVec 8)) 70 vd) 64 va) 40 ty) 37 rm) 36 sat) 35 masked
  | .vfunLog2 g vd va ty rm sat masked => put (put (put (put (put (put (put (word 0x7A g) 44 (0x03 : BitVec 8)) 70 vd) 64 va) 40 ty) 37 rm) 36 sat) 35 masked
  | .vfunRcp g vd va ty rm sat masked => put (put (put (put (put (put (put (word 0x7A g) 44 (0x04 : BitVec 8)) 70 vd) 64 va) 40 ty) 37 rm) 36 sat) 35 masked
  | .vfunSqrt g vd va ty rm sat masked => put (put (put (put (put (put (put (word 0x7A g) 44 (0x05 : BitVec 8)) 70 vd) 64 va) 40 ty) 37 rm) 36 sat) 35 masked
  | .vfunRsqrt g vd va ty rm sat masked => put (put (put (put (put (put (put (word 0x7A g) 44 (0x06 : BitVec 8)) 70 vd) 64 va) 40 ty) 37 rm) 36 sat) 35 masked
  | .vfunTanh g vd va ty rm sat masked => put (put (put (put (put (put (put (word 0x7A g) 44 (0x07 : BitVec 8)) 70 vd) 64 va) 40 ty) 37 rm) 36 sat) 35 masked
  | .vfunSigm g vd va ty rm sat masked => put (put (put (put (put (put (put (word 0x7A g) 44 (0x08 : BitVec 8)) 70 vd) 64 va) 40 ty) 37 rm) 36 sat) 35 masked
  | .vtopkVal g vd va vb ty masked imm => put (put (put (put (put (put (word 0x7B g) 70 vd) 64 va) 58 vb) 40 ty) 35 masked) 21 imm
  | .vtopkIdx g vd va vb ty masked sr imm => put (put (put (put (put (put (put (put (word 0x7B g) 44 (0x01 : BitVec 8)) 70 vd) 64 va) 58 vb) 40 ty) 35 masked) 29 sr) 21 imm
  | .vldMod g vd ty masked sr imm => put (put (put (put (put (put (word 0x7C g) 44 (0x01 : BitVec 8)) 70 vd) 40 ty) 35 masked) 29 sr) 21 imm
  | .vldRow g vd vb ty masked sr => put (put (put (put (put (put (word 0x7C g) 44 (0x02 : BitVec 8)) 70 vd) 58 vb) 40 ty) 35 masked) 29 sr
  | .vldStr g vd vb vc ty masked sr imm => put (put (put (put (put (put (put (put (word 0x7C g) 44 (0x03 : BitVec 8)) 70 vd) 58 vb) 52 vc) 40 ty) 35 masked) 29 sr) 21 imm
  | .vstMod g va ty masked sr imm => put (put (put (put (put (put (word 0x7D g) 44 (0x01 : BitVec 8)) 64 va) 40 ty) 35 masked) 29 sr) 21 imm
  | .vstRow g va vb ty masked sr => put (put (put (put (put (put (word 0x7D g) 44 (0x02 : BitVec 8)) 64 va) 58 vb) 40 ty) 35 masked) 29 sr
  | .vstStr g va vb vc ty masked sr imm => put (put (put (put (put (put (put (put (word 0x7D g) 44 (0x03 : BitVec 8)) 64 va) 58 vb) 52 vc) 40 ty) 35 masked) 29 sr) 21 imm
  | .vmovsLane g va ty sr imm => put (put (put (put (word 0x7E g) 64 va) 40 ty) 29 sr) 21 imm
  | .vmovsPair g va ty sr imm => put (put (put (put (put (word 0x7E g) 44 (0x01 : BitVec 8)) 64 va) 40 ty) 29 sr) 21 imm
  | .vselBit g vd va vb vc ty masked => put (put (put (put (put (put (word 0x7F g) 70 vd) 64 va) 58 vb) 52 vc) 40 ty) 35 masked
  | .vselMask g vd va vb ty => put (put (put (put (put (word 0x7F g) 44 (0x01 : BitVec 8)) 70 vd) 64 va) 58 vb) 40 ty
  | .mpushEq g va vb ty => put (put (put (put (word 0x80 g) 44 (0x18 : BitVec 8)) 64 va) 58 vb) 40 ty
  | .mpushNe g va vb ty => put (put (put (put (word 0x80 g) 44 (0x19 : BitVec 8)) 64 va) 58 vb) 40 ty
  | .mpushLt g va vb ty => put (put (put (put (word 0x80 g) 44 (0x1A : BitVec 8)) 64 va) 58 vb) 40 ty
  | .mpushGe g va vb ty => put (put (put (put (word 0x80 g) 44 (0x1D : BitVec 8)) 64 va) 58 vb) 40 ty
  | .minv g ty => put (word 0x81 g) 40 ty
  | .mpop g ty => put (word 0x82 g) 40 ty
  | .mgetM g vd ty => put (put (word 0x83 g) 70 vd) 40 ty
  | .mgetV g vd ty => put (put (put (word 0x83 g) 44 (0x01 : BitVec 8)) 70 vd) 40 ty
  | .msetM g va ty => put (put (word 0x84 g) 64 va) 40 ty
  | .msetV g va ty => put (put (put (word 0x84 g) 44 (0x01 : BitVec 8)) 64 va) 40 ty
  | .vparkP g va vc ty imm => put (put (put (put (word 0x85 g) 64 va) 52 vc) 40 ty) 21 imm
  | .vunparkU g vd ty => put (put (word 0x86 g) 70 vd) 40 ty
  | .astartGo g d a imm => put (put (put (word 0x90 g) 70 d) 64 a) 8 imm
  | .aloadW g h a b => put (put (put (word 0x91 g) 71 h) 65 a) 59 b
  | .astatRd g d a => put (put (word 0x92 g) 70 d) 64 a
  | .astatWait g d a => put (put (put (word 0x92 g) 44 (0x01 : BitVec 8)) 70 d) 64 a
  | .pamoAdd g h a b scope order cell => put (put (put (put (put (put (word 0xA0 g) 71 h) 65 a) 59 b) 42 scope) 40 order) 0 cell
  | .pamoMin g h a b scope order cell => put (put (put (put (put (put (put (word 0xA0 g) 45 (0x01 : BitVec 8)) 71 h) 65 a) 59 b) 42 scope) 40 order) 0 cell
  | .pamoMax g h a b scope order cell => put (put (put (put (put (put (put (word 0xA0 g) 45 (0x02 : BitVec 8)) 71 h) 65 a) 59 b) 42 scope) 40 order) 0 cell
  | .pamoSwap g h a b scope order cell => put (put (put (put (put (put (put (word 0xA0 g) 45 (0x03 : BitVec 8)) 71 h) 65 a) 59 b) 42 scope) 40 order) 0 cell
  | .pamoCas g h a b c scope order cell => put (put (put (put (put (put (put (put (word 0xA0 g) 45 (0x04 : BitVec 8)) 71 h) 65 a) 59 b) 53 c) 42 scope) 40 order) 0 cell
  | .pamoCas2 g h a b c scope order cell => put (put (put (put (put (put (put (put (word 0xA0 g) 45 (0x05 : BitVec 8)) 71 h) 65 a) 59 b) 53 c) 42 scope) 40 order) 0 cell
  | .pamoEnq g h a b scope order cell => put (put (put (put (put (put (put (word 0xA0 g) 45 (0x06 : BitVec 8)) 71 h) 65 a) 59 b) 42 scope) 40 order) 0 cell
  | .pamoChase g h a scope order links cell => put (put (put (put (put (put (put (word 0xA0 g) 45 (0x07 : BitVec 8)) 71 h) 65 a) 42 scope) 40 order) 32 links) 0 cell
  | .pamoRedAdd g h b scope order cell => put (put (put (put (put (put (word 0xA0 g) 45 (0x08 : BitVec 8)) 71 h) 59 b) 42 scope) 40 order) 0 cell
  | .pamoRedMin g h b scope order cell => put (put (put (put (put (put (word 0xA0 g) 45 (0x09 : BitVec 8)) 71 h) 59 b) 42 scope) 40 order) 0 cell
  | .pamoRedMax g h b scope order cell => put (put (put (put (put (put (word 0xA0 g) 45 (0x0A : BitVec 8)) 71 h) 59 b) 42 scope) 40 order) 0 cell
  | .pamoHxch g h scope order cell => put (put (put (put (put (word 0xA0 g) 45 (0x0B : BitVec 8)) 71 h) 42 scope) 40 order) 0 cell
  | .pldC g h a scope order cell => put (put (put (put (put (word 0xA1 g) 71 h) 65 a) 42 scope) 40 order) 0 cell
  | .pstC g h b scope order cell => put (put (put (put (put (word 0xA2 g) 71 h) 59 b) 42 scope) 40 order) 0 cell
  | .bcntP g h b scope order cell => put (put (put (put (put (word 0xA3 g) 71 h) 59 b) 42 scope) 40 order) 0 cell
  | .lsendH g h c peer relay rot slot berth => put (put (put (put (put (put (put (word 0xB0 g) 71 h) 53 c) 39 peer) 33 relay) 21 rot) 17 slot) 11 berth
  | .lsendD g h b c peer relay rot slot berth => put (put (put (put (put (put (put (put (put (word 0xB0 g) 45 (0x01 : BitVec 8)) 71 h) 59 b) 53 c) 39 peer) 33 relay) 21 rot) 17 slot) 11 berth
  | .lsendV g b c peer relay rot slot berth => put (put (put (put (put (put (put (put (word 0xB0 g) 45 (0x02 : BitVec 8)) 59 b) 53 c) 39 peer) 33 relay) 21 rot) 17 slot) 11 berth
  | .lsendRld g h a peer relay => put (put (put (put (put (word 0xB0 g) 45 (0x03 : BitVec 8)) 71 h) 65 a) 39 peer) 33 relay
  | .lsendRst g h b peer relay => put (put (put (put (put (word 0xB0 g) 45 (0x04 : BitVec 8)) 71 h) 59 b) 39 peer) 33 relay
  | .lsendRadd g h a b peer relay => put (put (put (put (put (put (word 0xB0 g) 45 (0x05 : BitVec 8)) 71 h) 65 a) 59 b) 39 peer) 33 relay
  | .lsendRcas g h a b c peer relay => put (put (put (put (put (put (put (word 0xB0 g) 45 (0x06 : BitVec 8)) 71 h) 65 a) 59 b) 53 c) 39 peer) 33 relay
  | .ltakeM g h a => put (put (word 0xB1 g) 71 h) 65 a
  | .ltakeP g h a => put (put (put (word 0xB1 g) 45 (0x01 : BitVec 8)) 71 h) 65 a
  | .lcalW g h b => put (put (word 0xB2 g) 71 h) 59 b
  | .lmarkD g b => put (word 0xB3 g) 59 b
  | .lstatRd g a b => put (put (word 0xB4 g) 65 a) 59 b
  | .shsendT g h imm => put (put (word 0xB5 g) 71 h) 0 imm
  | .shtakeT g h ch => put (put (word 0xB6 g) 71 h) 0 ch
  | .shretOpen g a ch n k => put (put (put (put (word 0xB7 g) 65 a) 0 ch) 4 n) 7 k
  | .shretT g h ch => put (put (put (word 0xB7 g) 45 (0x01 : BitVec 8)) 71 h) 0 ch
  | .shretClose g ch => put (put (word 0xB7 g) 45 (0x02 : BitVec 8)) 0 ch
  | .sbputR g b pipe cls => put (put (put (word 0xB8 g) 59 b) 4 pipe) 0 cls
  | .sbgetQ g a b => put (put (word 0xB9 g) 65 a) 59 b
  | .sbgetX g a b => put (put (put (word 0xB9 g) 45 (0x01 : BitVec 8)) 65 a) 59 b
  | .sbtblW g b _ => put (word 0xBA g) 59 b
  | .sbcommitG g b => put (word 0xBB g) 59 b
  | .sbstatRd g a b => put (put (word 0xBC g) 65 a) 59 b
  | .sbstatMark g b => put (put (word 0xBC g) 45 (0x01 : BitVec 8)) 59 b
  | _ => 0

/-- The trailing literal of an instruction that has one (R114). -/
def literalOf : Instr → Option Word96
  | .lit _ _ lit => some lit
  | .gsetL _ _ lit => some lit
  | .gsetR _ _ _ lit => some lit
  | .sbtblW _ _ lit => some lit
  | _ => none

/-- The guard of an instruction word (R106). -/
def guardField : Instr → Option Guard
  | .nop g => some g
  | .halt g => some g
  | .trapSw g _ => some g
  | .rft g => some g
  | .sysr g _ _ => some g
  | .sysw g _ _ => some g
  | .ovlyN g _ => some g
  | .ovlyS g _ => some g
  | .cardone g => some g
  | .dlaunchP g _ _ => some g
  | .traceTs g => some g
  | .traceBr g => some g
  | .saluAdd g _ _ _ => some g
  | .saluSub g _ _ _ => some g
  | .saluAnd g _ _ _ => some g
  | .saluOr g _ _ _ => some g
  | .saluXor g _ _ _ => some g
  | .saluAndn g _ _ _ => some g
  | .saluShl g _ _ _ => some g
  | .saluShr g _ _ _ => some g
  | .saluSar g _ _ _ => some g
  | .saluRol g _ _ _ => some g
  | .saluMin g _ _ _ => some g
  | .saluMax g _ _ _ => some g
  | .saluMinu g _ _ _ => some g
  | .saluMaxu g _ _ _ => some g
  | .saluMul g _ _ _ => some g
  | .saluMulh g _ _ _ => some g
  | .saluMulhu g _ _ _ => some g
  | .saluSeq g _ _ _ => some g
  | .saluSne g _ _ _ => some g
  | .saluSlt g _ _ _ => some g
  | .saluSltu g _ _ _ => some g
  | .saluSel g _ _ _ _ => some g
  | .saluClz g _ _ => some g
  | .saluCtz g _ _ => some g
  | .saluPop g _ _ => some g
  | .saluiAdd g _ _ _ => some g
  | .saluiSub g _ _ _ => some g
  | .saluiAnd g _ _ _ => some g
  | .saluiOr g _ _ _ => some g
  | .saluiXor g _ _ _ => some g
  | .saluiAndn g _ _ _ => some g
  | .saluiShl g _ _ _ => some g
  | .saluiShr g _ _ _ => some g
  | .saluiSar g _ _ _ => some g
  | .saluiRol g _ _ _ => some g
  | .saluiMin g _ _ _ => some g
  | .saluiMax g _ _ _ => some g
  | .saluiMinu g _ _ _ => some g
  | .saluiMaxu g _ _ _ => some g
  | .saluiMul g _ _ _ => some g
  | .saluiMulh g _ _ _ => some g
  | .saluiMulhu g _ _ _ => some g
  | .saluiSeq g _ _ _ => some g
  | .saluiSne g _ _ _ => some g
  | .saluiSlt g _ _ _ => some g
  | .saluiSltu g _ _ _ => some g
  | .sdivDiv g _ _ _ => some g
  | .sdivDivu g _ _ _ => some g
  | .sdivRem g _ _ _ => some g
  | .sdivRemu g _ _ _ => some g
  | .sfpAdd g _ _ _ => some g
  | .sfpSub g _ _ _ => some g
  | .sfpMul g _ _ _ => some g
  | .sfpFma g _ _ _ _ => some g
  | .sfpDiv g _ _ _ => some g
  | .sfpSqrt g _ _ => some g
  | .sfpMin g _ _ _ => some g
  | .sfpMax g _ _ _ => some g
  | .sfpCvti g _ _ => some g
  | .sfpCvtf g _ _ => some g
  | .sfpEq g _ _ _ => some g
  | .sfpLt g _ _ _ => some g
  | .sfpLe g _ _ _ => some g
  | .psetAnd g _ _ _ _ => some g
  | .psetOr g _ _ _ _ => some g
  | .psetXor g _ _ _ _ => some g
  | .psetAndn g _ _ _ _ => some g
  | .psetEq g _ _ _ _ => some g
  | .psetNe g _ _ _ _ => some g
  | .psetLt g _ _ _ _ => some g
  | .psetLtu g _ _ _ _ => some g
  | .psetGe g _ _ _ _ => some g
  | .psetGeu g _ _ _ _ => some g
  | .lit g _ _ => some g
  | .ldP g _ _ _ => some g
  | .ldH g _ _ _ => some g
  | .ldCap g _ _ _ => some g
  | .stP g _ _ _ => some g
  | .stH g _ _ _ => some g
  | .stCap g _ _ _ => some g
  | .enterF g _ => some g
  | .leaveF g => some g
  | .pbrO g _ _ => some g
  | .pbrR g _ _ => some g
  | .brGo g _ => some g
  | .brqT g _ => some g
  | .brqF g _ => some g
  | .brmzSkip g _ => some g
  | .callGo g _ => some g
  | .retGo g => some g
  | .loopL g _ _ => some g
  | .loopS g _ _ _ => some g
  | .repeatN g _ => some g
  | .repeatS g _ => some g
  | .signalT g _ _ => some g
  | .signalS g _ _ => some g
  | .waitT g _ => some g
  | .waitN g _ _ => some g
  | .toksetI g _ _ => some g
  | .toksetX g _ _ _ => some g
  | .fenceS g _ _ => some g
  | .retimeAt g _ _ => some g
  | .waitvEq g _ _ _ _ _ _ => some g
  | .waitvNe g _ _ _ _ _ _ => some g
  | .waitvGe g _ _ _ _ _ _ => some g
  | .waitvLt g _ _ _ _ _ _ => some g
  | .waitvAny g _ _ _ _ _ _ => some g
  | .waitvNone g _ _ _ _ _ _ => some g
  | .markQ g _ _ => some g
  | .sstepS g _ _ => some g
  | .capsetB g _ _ _ => some g
  | .capsetE g _ _ _ => some g
  | .cappermAnd g _ _ _ => some g
  | .capoffAdd g _ _ _ => some g
  | .capoffSet g _ _ _ => some g
  | .capgetA g _ _ => some g
  | .capgetCells g _ => some g
  | .capgetKv g _ => some g
  | .capgetPeer g _ _ => some g
  | .capgetSys g _ => some g
  | .capgetBase g _ _ => some g
  | .capgetLen g _ _ => some g
  | .capgetHi g _ _ => some g
  | .captestTag g _ _ => some g
  | .captestIn g _ _ _ => some g
  | .dupN g _ _ _ => some g
  | .dropW g _ => some g
  | .dropB g _ _ _ => some g
  | .movhM g _ _ => some g
  | .mergeW g _ _ _ => some g
  | .allocT g _ _ => some g
  | .allocM g _ _ => some g
  | .isunqL g _ _ => some g
  | .isunqX g _ _ => some g
  | .updT g _ _ => some g
  | .updM g _ _ => some g
  | .sealT g _ _ _ => some g
  | .gsetL g _ _ => some g
  | .gsetR g _ _ _ => some g
  | .csetI g _ _ => some g
  | .csetS g _ _ => some g
  | .caddI g _ _ _ => some g
  | .caddS g _ _ => some g
  | .tldR g _ _ _ _ _ _ _ _ _ _ => some g
  | .tldW g _ _ _ => some g
  | .tcopyR g _ _ _ _ _ _ _ _ _ _ _ => some g
  | .tcopyW g _ _ _ _ => some g
  | .tcopyS g _ _ _ _ _ _ _ _ _ _ => some g
  | .tcopyHi g _ _ _ _ _ => some g
  | .tcopyHo g _ _ _ _ _ => some g
  | .gatherK g _ _ _ _ => some g
  | .gatherV g _ _ _ _ => some g
  | .appendKv g _ _ _ => some g
  | .claimS g _ => some g
  | .releaseS g _ => some g
  | .mmaT g _ _ _ _ _ _ _ _ => some g
  | .mdrainT g _ _ _ _ _ _ => some g
  | .mzeroT g _ _ _ => some g
  | .maccR g _ _ _ _ _ _ _ => some g
  | .tstatR g _ _ => some g
  | .valuAdd g _ _ _ _ _ _ _ => some g
  | .valuSub g _ _ _ _ _ _ _ => some g
  | .valuAnd g _ _ _ _ _ _ _ => some g
  | .valuOr g _ _ _ _ _ _ _ => some g
  | .valuXor g _ _ _ _ _ _ _ => some g
  | .valuAndn g _ _ _ _ _ _ _ => some g
  | .valuShl g _ _ _ _ _ _ _ => some g
  | .valuShr g _ _ _ _ _ _ _ => some g
  | .valuSar g _ _ _ _ _ _ _ => some g
  | .valuMin g _ _ _ _ _ _ _ => some g
  | .valuMax g _ _ _ _ _ _ _ => some g
  | .valuAbs g _ _ _ _ _ _ => some g
  | .valuMul g _ _ _ _ _ _ _ => some g
  | .valuMulh g _ _ _ _ _ _ _ => some g
  | .vfmaFma g _ _ _ _ _ _ _ _ => some g
  | .vfmaFms g _ _ _ _ _ _ _ _ => some g
  | .vfmaFnma g _ _ _ _ _ _ _ _ => some g
  | .vcmpEq g _ _ _ _ _ => some g
  | .vcmpNe g _ _ _ _ _ => some g
  | .vcmpLt g _ _ _ _ _ => some g
  | .vcmpGe g _ _ _ _ _ => some g
  | .vcvtCvt g _ _ _ _ _ _ _ => some g
  | .vlt3Lut g _ _ _ _ _ _ _ => some g
  | .vfshL g _ _ _ _ _ _ => some g
  | .vfshR g _ _ _ _ _ _ => some g
  | .vlrotRot g _ _ _ _ _ => some g
  | .vlrotRots g _ _ _ _ _ => some g
  | .vpermIdx g _ _ _ _ _ => some g
  | .vpermIdx2 g _ _ _ _ _ _ => some g
  | .vbcastS g _ _ _ _ => some g
  | .vbcastLane g _ _ _ _ _ => some g
  | .vbcastImm g _ _ _ _ => some g
  | .vredAdd g _ _ _ _ _ _ => some g
  | .vredAnd g _ _ _ _ _ _ => some g
  | .vredOr g _ _ _ _ _ _ => some g
  | .vredXor g _ _ _ _ _ _ => some g
  | .vredMin g _ _ _ _ _ _ => some g
  | .vredMax g _ _ _ _ _ _ => some g
  | .vfunExp g _ _ _ _ _ _ => some g
  | .vfunExp2 g _ _ _ _ _ _ => some g
  | .vfunLog g _ _ _ _ _ _ => some g
  | .vfunLog2 g _ _ _ _ _ _ => some g
  | .vfunRcp g _ _ _ _ _ _ => some g
  | .vfunSqrt g _ _ _ _ _ _ => some g
  | .vfunRsqrt g _ _ _ _ _ _ => some g
  | .vfunTanh g _ _ _ _ _ _ => some g
  | .vfunSigm g _ _ _ _ _ _ => some g
  | .vtopkVal g _ _ _ _ _ _ => some g
  | .vtopkIdx g _ _ _ _ _ _ _ => some g
  | .vldMod g _ _ _ _ _ => some g
  | .vldRow g _ _ _ _ _ => some g
  | .vldStr g _ _ _ _ _ _ _ => some g
  | .vstMod g _ _ _ _ _ => some g
  | .vstRow g _ _ _ _ _ => some g
  | .vstStr g _ _ _ _ _ _ _ => some g
  | .vmovsLane g _ _ _ _ => some g
  | .vmovsPair g _ _ _ _ => some g
  | .vselBit g _ _ _ _ _ _ => some g
  | .vselMask g _ _ _ _ => some g
  | .mpushEq g _ _ _ => some g
  | .mpushNe g _ _ _ => some g
  | .mpushLt g _ _ _ => some g
  | .mpushGe g _ _ _ => some g
  | .minv g _ => some g
  | .mpop g _ => some g
  | .mgetM g _ _ => some g
  | .mgetV g _ _ => some g
  | .msetM g _ _ => some g
  | .msetV g _ _ => some g
  | .vparkP g _ _ _ _ => some g
  | .vunparkU g _ _ => some g
  | .astartGo g _ _ _ => some g
  | .aloadW g _ _ _ => some g
  | .astatRd g _ _ => some g
  | .astatWait g _ _ => some g
  | .pamoAdd g _ _ _ _ _ _ => some g
  | .pamoMin g _ _ _ _ _ _ => some g
  | .pamoMax g _ _ _ _ _ _ => some g
  | .pamoSwap g _ _ _ _ _ _ => some g
  | .pamoCas g _ _ _ _ _ _ _ => some g
  | .pamoCas2 g _ _ _ _ _ _ _ => some g
  | .pamoEnq g _ _ _ _ _ _ => some g
  | .pamoChase g _ _ _ _ _ _ => some g
  | .pamoRedAdd g _ _ _ _ _ => some g
  | .pamoRedMin g _ _ _ _ _ => some g
  | .pamoRedMax g _ _ _ _ _ => some g
  | .pamoHxch g _ _ _ _ => some g
  | .pldC g _ _ _ _ _ => some g
  | .pstC g _ _ _ _ _ => some g
  | .bcntP g _ _ _ _ _ => some g
  | .lsendH g _ _ _ _ _ _ _ => some g
  | .lsendD g _ _ _ _ _ _ _ _ => some g
  | .lsendV g _ _ _ _ _ _ _ => some g
  | .lsendRld g _ _ _ _ => some g
  | .lsendRst g _ _ _ _ => some g
  | .lsendRadd g _ _ _ _ _ => some g
  | .lsendRcas g _ _ _ _ _ _ => some g
  | .ltakeM g _ _ => some g
  | .ltakeP g _ _ => some g
  | .lcalW g _ _ => some g
  | .lmarkD g _ => some g
  | .lstatRd g _ _ => some g
  | .shsendT g _ _ => some g
  | .shtakeT g _ _ => some g
  | .shretOpen g _ _ _ _ => some g
  | .shretT g _ _ => some g
  | .shretClose g _ => some g
  | .sbputR g _ _ _ => some g
  | .sbgetQ g _ _ => some g
  | .sbgetX g _ _ => some g
  | .sbtblW g _ _ => some g
  | .sbcommitG g _ => some g
  | .sbstatRd g _ _ => some g
  | .sbstatMark g _ => some g
  | _ => none

/-- An attention micro-operation from its control-store word; `none` is stop kind 1 (R250). -/
noncomputable def buildMicro (w : Word64) : Option Instr :=
  match (w.extractLsb' 58 6).toNat with
  | 0x00 => some (.microEnd)
  | 0x01 => some (.microQk (w.extractLsb' 54 4) (w.extractLsb' 50 4) (w.extractLsb' 41 9) (w.extractLsb' 34 7) (w.extractLsb' 30 4))
  | 0x02 => some (.microSmax (w.extractLsb' 49 9))
  | 0x03 => some (.microExpp (w.extractLsb' 54 4) (w.extractLsb' 45 9) (w.extractLsb' 43 2))
  | 0x04 => some (.microDen)
  | 0x05 => some (.microResc (w.extractLsb' 49 9) (w.extractLsb' 42 7))
  | 0x06 => some (.microPv (w.extractLsb' 54 4) (w.extractLsb' 50 4) (w.extractLsb' 41 9) (w.extractLsb' 34 7) (w.extractLsb' 30 4))
  | 0x07 => some (.microWalk)
  | 0x08 => some (.microGath (w.extractLsb' 54 4) (w.extractLsb' 50 4))
  | 0x09 => some (.microNorm (w.extractLsb' 49 9) (w.extractLsb' 42 7) (w.extractLsb' 40 2) (w.extractLsb' 33 7))
  | 0x0A => some (.microLoop (w.extractLsb' 56 2) (w.extractLsb' 55 1) (w.extractLsb' 51 4) (w.extractLsb' 0 24))
  | 0x0B => some (.microBnz (w.extractLsb' 56 2) (w.extractLsb' 54 2) (w.extractLsb' 42 12))
  | 0x0C => some (.microJmp (w.extractLsb' 46 12))
  | 0x0D => some (.microSig (w.extractLsb' 53 5))
  | 0x0E => some (.microWaitt (w.extractLsb' 53 5))
  | 0x0F => some (.microSetp (w.extractLsb' 54 4) (w.extractLsb' 52 2) (w.extractLsb' 0 48))
  | _ => none

/-- The control-store word of a micro-operation (R250); 0 for what is none. -/
def encodeMicro : Instr → Word64
  | .microEnd => microWord 0x00
  | .microQk q k col dim fmt => put64 (put64 (put64 (put64 (put64 (microWord 0x01) 54 q) 50 k) 41 col) 34 dim) 30 fmt
  | .microSmax col => put64 (microWord 0x02) 49 col
  | .microExpp p col pf => put64 (put64 (put64 (microWord 0x03) 54 p) 45 col) 43 pf
  | .microDen => microWord 0x04
  | .microResc col dim => put64 (put64 (microWord 0x05) 49 col) 42 dim
  | .microPv p v col dim fmt => put64 (put64 (put64 (put64 (put64 (microWord 0x06) 54 p) 50 v) 41 col) 34 dim) 30 fmt
  | .microWalk => microWord 0x07
  | .microGath k v => put64 (put64 (microWord 0x08) 54 k) 50 v
  | .microNorm col dim of row => put64 (put64 (put64 (put64 (microWord 0x09) 49 col) 42 dim) 40 of) 33 row
  | .microLoop k fromAp ap n => put64 (put64 (put64 (put64 (microWord 0x0A) 56 k) 55 fromAp) 51 ap) 0 n
  | .microBnz k mode target => put64 (put64 (put64 (microWord 0x0B) 56 k) 54 mode) 42 target
  | .microJmp target => put64 (microWord 0x0C) 46 target
  | .microSig t => put64 (microWord 0x0D) 53 t
  | .microWaitt t => put64 (microWord 0x0E) 53 t
  | .microSetp ap mode imm => put64 (put64 (put64 (microWord 0x0F) 54 ap) 52 mode) 0 imm
  | _ => 0

/-- What is a micro-operation (R250). -/
def isMicro : Instr → Bool
  | .microEnd => true
  | .microQk _ _ _ _ _ => true
  | .microSmax _ => true
  | .microExpp _ _ _ => true
  | .microDen => true
  | .microResc _ _ => true
  | .microPv _ _ _ _ _ => true
  | .microWalk => true
  | .microGath _ _ => true
  | .microNorm _ _ _ _ => true
  | .microLoop _ _ _ _ => true
  | .microBnz _ _ _ => true
  | .microJmp _ => true
  | .microSig _ => true
  | .microWaitt _ => true
  | .microSetp _ _ _ => true
  | _ => false

/-- Which sequencers and cores issue an opcode (R120). -/
inductive Issuer where
  | both | as | xs | attention | reserved | marker
  deriving DecidableEq, Repr

def issuerOf (op : Nat) : Issuer :=
  if op = 0xFE ∨ op = 0xFF then .marker
  else if op ≤ 0x09 then .both
  else if 0x10 ≤ op ∧ op ≤ 0x19 then .both
  else if op = 0x23 then .xs
  else if 0x20 ≤ op ∧ op ≤ 0x27 then .both
  else if op = 0x35 then .as
  else if 0x30 ≤ op ∧ op ≤ 0x37 then .both
  else if 0x40 ≤ op ∧ op ≤ 0x4C then .both
  else if 0x50 ≤ op ∧ op ≤ 0x58 then .as
  else if 0x60 ≤ op ∧ op ≤ 0x64 then .xs
  else if 0x70 ≤ op ∧ op ≤ 0x86 then .xs
  else if 0x90 ≤ op ∧ op ≤ 0x92 then .attention
  else if 0xA0 ≤ op ∧ op ≤ 0xA3 then .as
  else if 0xB0 ≤ op ∧ op ≤ 0xBC then .as
  else .reserved

/-- Whether a sequencer of a core issues the opcode (R120, R122). -/
def mayIssue (cx : Ctx) (op : Nat) : Bool :=
  match issuerOf op with
  | .both => true
  | .as => cx.seq == .as
  | .xs => cx.seq == .xs
  | .attention => cx.seq == .xs && cx.cls == .attention
  | .reserved | .marker => false

/-- Decoding a word in its place, with the word that follows it as its literal: the instruction, or the subcode of the
first check of R122 that fails. -/
noncomputable def decode (cx : Ctx) (w lit : Word96) : Except (BitVec 8) Instr :=
  let op := (opcodeOf w).toNat
  match issuerOf op with
  | .reserved => .error 0x01
  | .marker => .error 0x02
  | _ =>
    if !mayIssue cx op then .error 0x03
    else match build w lit with
      | none => .error 0x04
      | some i =>
        if encodeWord i ≠ w then .error 0x05
        else match subcode cx i with
          | some c => .error c
          | none => .ok i

/-- Decoding a micro-operation: `none` where a reserved code or a nonzero unlisted bit stops the entry (R250). -/
noncomputable def decodeMicro (w : Word64) : Option Instr :=
  match buildMicro w with
  | some i => if encodeMicro i = w then some i else none
  | none => none

/-- The 32-bit syllables of an instruction, the one at the lowest address first: its word and its literal (R3, R114). -/
def syllables (w : Word96) : List (BitVec 32) :=
  [w.extractLsb' 0 32, w.extractLsb' 32 32, w.extractLsb' 64 32]

def encode (i : Instr) : List (BitVec 32) :=
  syllables (encodeWord i) ++ (match literalOf i with | some l => syllables l | none => [])

/-- A word from its three syllables. -/
def wordOf (a b c : BitVec 32) : Word96 := c ++ b ++ a

/-- A place in a section with 4,095 words of zeros after it, for a word taken by itself. -/
def Ctx.alone (q : SeqId) (k : CoreClass) : Ctx := ⟨q, k, 4095, fun _ => 0⟩

/-- The instruction the decoder reads from bits numbered as the opcode table numbers them: 64 bits are a
micro-operation; more are a word, and above it its literal. The place is the first, of a core that may issue it, where it
decodes. -/
noncomputable def decodeTableWord (nbits w : Nat) : Option Instr :=
  if nbits ≤ 64 then decodeMicro (BitVec.ofNat 64 w)
  else
    let iw := BitVec.ofNat 96 w
    let lit := BitVec.ofNat 96 (w / 2 ^ 96)
    match decode (Ctx.alone .xs .attention) iw lit with
    | .ok i => some i
    | .error _ =>
      match decode (Ctx.alone .as .array) iw lit with
      | .ok i => some i
      | .error _ =>
        match decode (Ctx.alone .as .attention) iw lit with
        | .ok i => some i
        | .error _ =>
          match decode (Ctx.alone .xs .array) iw lit with
          | .ok i => some i
          | .error _ => none

end Sys2Proof
end

