-- ==== Sys2Proof/Config.lean ====
section
/-! DEFINITION. What an implementation fixes and the spec leaves open, as constants without a body: nothing can be proved
about their values (log 5, 6, 11). `State.freeCtr` supplies a fresh argument each time. -/
namespace Sys2Proof.Config
open Sys2Proof

/-- Station cycles a variable-completion unit takes beyond its least time (R49, R430). -/
opaque extraDelay : Nat → Nat
/-- The channel pair, 0-15, of an HBM physical address's stack (R63, R148). -/
opaque hbmChannel : Nat → Nat
/-- Whether an HBM access meets a bank collision (R20, R47). -/
opaque bankCollision : Nat → Bool
/-- The HBM physical address at which a porter cell lies (R169, R176). -/
opaque cellPlace : Nat → Nat
/-- Whether the IOMMU refuses a host address of a virtual function (R402). -/
opaque iommuRefuses : Nat → Word64 → Bool
/-- ML-DSA-87 verification: key, digest, signature (R319, R320). -/
opaque mlDsaVerify : List Byte → BitVec 512 → List Byte → Bool
/-- ML-DSA-87 signature with the device identity key over a message (R321). -/
opaque mlDsaSign : List Byte → List Byte
/-- The ports whose package-number checks pass at a slot occurrence, by 16 times the rotation plus the slot (R286). -/
opaque slotChecks : Nat → BitVec 8
/-- The ports that relock at a takeover, by rotation (R304). -/
opaque relocked : Nat → BitVec 8
/-- A die's temperature in degrees, by sample and die (R327). -/
opaque temperature : Nat → Nat → Int
/-- A byte of a part of a context frame whose layout the spec does not give, by save and offset (R216). -/
opaque frameByte : Nat → Nat → Byte
/-- A value of 64 bits the spec does not state. -/
opaque freeWord : Nat → Word64

end Sys2Proof.Config
end

