-- ==== Sys2Proof/Machine/State.lean ====
section
/-! DEFINITION. Everything the spec gives one WN-L32 module, as plain data, and its state right after reset.
Counters of cycles (TTC, station time, PTC) are natural numbers (log 8). -/
namespace Sys2Proof.Machine
open Sys2Proof

/-! ## Names -/

/-- Fault classes with their codes in R204. -/
inductive FaultClass where
  | capability | partition | illegal | poison | stack | resource | schedule | format | queueVoid | refCapacity
  | majorTrans | software | interrupt | minorTrans | peer | doubleFault | aborted
  deriving DecidableEq, Repr

/-- One raised fault: class, subcode, tinfo, who raised it and for which word (R204, R207). -/
structure FaultRec where
  cls    : FaultClass
  sub    : BitVec 8
  tinfo  : Word64
  core   : Nat
  seq    : SeqId
  syll   : BitVec 25
  source : BitVec 3        -- interrupt source (R213)
  write  : Bool            -- a translation fault of a write (R218)
  kv     : Bool            -- of an address in the KV region (R218)
  latch  : Option Nat      -- the word's latch, for a fault detected after issue (R211)
  deriving DecidableEq, Repr

/-! ## Queues -/

/-- A queue entry's contents: reserved and not yet filled, a value, or a void (R126, R127). -/
inductive QVal (α : Type) where
  | due
  | val (v : α)
  | void
  deriving DecidableEq, Repr

/-- A queue entry with the number its filling result names it by. -/
structure QEnt (α : Type) where
  id : Nat
  v  : QVal α
  deriving DecidableEq, Repr

/-! ## Sequencers -/

/-- A branch target register (R335, R381): `since` is the TTC at which its PBR issued. -/
structure BReg where
  valid : Bool
  bad   : Bool
  syll  : BitVec 25
  since : Nat
  deriving DecidableEq, Repr

/-- An active hardware loop (R367): counter, level for LOOP.L, and the body's syllables. -/
structure Loop where
  counter : Nat
  level   : Option Nat
  first   : Nat               -- syllable of the body's first word
  last    : Nat               -- first syllable after the body
  deriving DecidableEq, Repr

/-- Why a sequencer issues no word. -/
inductive SeqStop where
  | none          -- it issues
  | idle          -- holds no car
  | cardone       -- CARDONE issued (R345)
  | rft           -- RFT issued; waits for the others (R212)
  | ovly (n : BitVec 16) -- OVLY issued, with the number it named (R378)
  deriving DecidableEq, Repr

/-- A sequencer's place in its stream (R41, R107, R115, R367, R369). -/
structure Place where
  pc      : Nat                 -- syllable of the next word, or of the header of the section about to start (R117)
  start   : Bool                -- pc names a header: a section starts there (R41)
  base    : Nat                 -- TTC from which the next word's gap counts (R107)
  first   : Bool                -- the next word is its section's first (R42, R43)
  pend    : Option (BitVec 8 × Bool) -- the illegal-instruction subcode of R116 or R119 to raise there; true: at base itself
  hdr     : Nat                 -- the running section's header
  secNum  : BitVec 14           -- its number (R115)
  secEnd  : Nat                 -- syllable after its last word
  secFrom : Nat                 -- TTC at which it started (R41)
  retired : List (BitVec 14 × Nat) -- sections retired, newest first, with the TTC; two are kept (R42)
  loops   : List Loop           -- innermost first (R368)
  rep     : Option Nat          -- issues a REPEAT still asks of the word at pc (R369)
  stop    : SeqStop
  req     : Option Nat          -- what the waiting word has asked for: a request's number (R74, R81), or the time of an answer (R386)
  deriving DecidableEq, Repr

/-- One sequencer: its registers and its place in its stream (R17, R66, R107, R125, R209). -/
structure Seq where
  s       : Tbl Word64          -- s1..s63 that are ordinary storage (R125)
  p       : BitVec 16           -- p0..p15; p0 reads true (R108)
  h       : Tbl Cap             -- h0..h30 (R66, R209; log 13)
  b       : Tbl BReg            -- b0..b7
  lc      : Tbl (BitVec 16)     -- lc0..lc3
  tvec    : Word64
  tframe  : Word64
  tcause  : Word64
  tinfo   : Word64
  stbase  : Word64
  stlimit : Word64
  at_     : Place
  saved   : Option Place        -- the program's place while a handler runs (R208, R212)
  streamLo : Nat                -- the stream's first header in the active overlay (R117, R144)
  streamHi : Nat                -- syllable after its trailer
  retRecs : List Nat            -- addresses of the return records the last 16 CALLs wrote, newest first (R386)
  deriving DecidableEq, Repr

/-! ## Data a core holds -/

/-- A geometry record (R138, R354): rank, format, permutation, extents and strides. -/
structure Geom where
  rank    : Nat
  fmt     : Nat
  perm    : BitVec 8
  extents : List Nat
  strides : List Int
  deriving DecidableEq, Repr

inductive SlotState where
  | free | claimedEmpty | claimedFilled
  deriving DecidableEq, Repr

/-- An operand slot's state and the shape its last TLD recorded (R152, R310). -/
structure Slot where
  state : SlotState
  rows  : Nat
  cols  : Nat
  fmt   : Nat
  since : Nat                   -- TTC of its last change of state (R130)
  deriving DecidableEq, Repr

/-- One contiguous run of bytes of a memory write: offset from the capability's address field (R210), memory address. -/
structure Seg where
  off   : Nat
  at_   : Nat
  bytes : List Byte
  deriving DecidableEq, Repr

/-- An MDRAIN's shape (R104, R311). -/
structure Drain where
  cmd  : Nat                   -- number of its matrix command
  cap  : Cap
  base : Nat                   -- memory address of the blank
  col  : Nat
  n    : Nat
  r    : Nat                   -- accumulator row of row 0
  q    : Nat                   -- rows drained
  fmt  : Nat
  rm   : BitVec 3
  sat  : Bool
  deriving DecidableEq, Repr

/-- What a TLD or GATHER puts into an operand slot: the shape it records and runs of bytes by their offsets (R153, R257, R310). -/
structure SlotLoad where
  rows : Nat
  cols : Nat
  fmt  : Nat
  segs : List (Nat × List Byte)
  deriving DecidableEq, Repr

/-- A result in flight: what happens when it performs (R128, R206, R210). -/
inductive Effect where
  | setS (r : BitVec 6) (v : Word64)
  | setP (r : BitVec 4) (v : Bool)
  | setH (r : BitVec 5) (c : Cap)
  | setV (r : BitVec 6) (mask : LaneMask) (v : VReg)
  | setVPart (r : BitVec 6) (mask : LaneMask) (bits : BitVec 32) (v : VReg) -- only these bits of each selected lane (R413)
  | store (cap : Cap) (segs : List Seg)
  | storeCap (cap : Cap) (off : Nat) (at_ : Nat) (c : Cap)
  | fill (q : Nat) (id : Nat) (v : QVal Word64)     -- dq0-dq3 0-3, bq0 4, bq1 5, fq 7 (R210)
  | fillH (id : Nat) (v : QVal Cap)
  | setB (r : BitVec 3) (t : BReg)
  | setX (r : BitVec 4) (v : BitVec 32)
  | addX (r : BitVec 4) (v : BitVec 32)
  | setG (r : BitVec 5) (g : Geom)
  | setSys (n : BitVec 8) (v : Word64)
  | setLc (k : Nat) (v : BitVec 16)
  | setLvl (k : Nat) (v : BitVec 32)
  | tokSet (t : BitVec 5) (v : BitVec 16)
  | tokDec (t : BitVec 5) (n : Nat)
  | signal (core : Nat) (t : BitVec 5)
  | slot (n : BitVec 4) (st : SlotState)
  | load (n : BitVec 4) (l : SlotLoad)              -- a stamped TLD's or GATHER's bytes, at its stamp (R112)
  | masks (st : List LaneMask)
  | setM (r : BitVec 3) (m : LaneMask)
  | park (v : BitVec 6) (col : Nat)
  | unpark (v : BitVec 6) (col : Nat) (latch : Nat) -- read the column for the latch, clear the map entry (R422)
  | accCol (col : Nat) (lanes : VReg)               -- VPARK's 128 rows (R421)
  | satFlag                                         -- status entry 16 bit 2 (R105)
  | releasePlace                                    -- UPD's place in hq (R408)
  | returnHq (c : Cap)                              -- UPD's handle goes back to the head of hq, into that place (R408)
  | drop (c : Cap)                                  -- a popped handle, at its command's retirement (R435)
  | borrow (c : Cap)                                -- the end of a command's borrow of a register's handle (R83)
  | drainRow (d : Drain) (i : Nat)                  -- row i of an MDRAIN (R130)
  | status (n : Nat) (v : Word64)                   -- a status-file entry (R104)
  | launch (addr : Nat) (latch : Nat)               -- DLAUNCH's read of its packet in private memory (R348)
  | mark                                            -- nothing but the arrival itself
  deriving DecidableEq, Repr

/-- What an access to translated storage still has to do (R20, R225, R355, R360, R432); addresses are virtual. -/
inductive DeferOp where
  | read8 (va : Nat)
  | lanes (l : List (Nat × Nat))                    -- lane, address
  | write                                           -- the latch's own segments, by `at_`
  | geom (va : Nat)
  deriving DecidableEq, Repr

/-- `look`: the TTC at which its unit translates it (R225); `bankAt`: the PTC at which it reaches its bank at the
earliest (R20). -/
structure Deferred where
  op     : DeferOp
  got    : Bool                -- the bytes were read at issue
  look   : Nat
  bankAt : Nat
  deriving DecidableEq, Repr

/-- A latch: a result in flight with its due TTC (R206, R210). -/
structure Latch where
  id     : Nat                 -- order of issue
  core   : Nat
  seq    : SeqId
  syll   : BitVec 25
  ptc    : Nat                 -- PTC of its word's issue (R396)
  due    : Nat
  eff    : Effect
  cause  : Option (BitVec 16)  -- none: present; some: awaited, with the hold causes while it is late (R430)
  defer  : Option Deferred
  arrive : Option Nat          -- awaited: the PTC at which what it waits for is there
  back   : Option Nat          -- awaited: the station time at which it is there
  err    : Option FaultRec     -- reported at the due cycle in place of the effect
  missAt : Option (Nat × Word64) -- TTC at which its unit finds a minor fault, and the address (R211)
  pend   : Bool                -- held for replay (R211)
  replay : Bool                -- replayed at an RFT: the consist waits for it at once (R212)
  place  : Option Nat          -- offset of its record in the frame (R210)
  deriving DecidableEq, Repr

/-! ## Engines -/

/-- A region of a tensor: base capability, geometry, coordinates and shape (R157-R159). -/
structure Region where
  cap    : Cap
  geom   : Geom
  coords : List (BitVec 32)
  rows   : Nat
  cols   : Nat
  clip   : Bool
  perm   : Bool
  deriving DecidableEq, Repr

/-- Cell operations a porter performs (R172, R173, R176, R178). -/
inductive CellOp where
  | add | min | max | swap | cas | cas2 | enq | chase | redAdd | redMin | redMax | hxch | ld | st | bcnt
  | waitv (cond : Nat) (poll : Bool)
  deriving DecidableEq, Repr

/-- One operation on its way to a porter. `entry` is the engine entry it retires. -/
structure PorterReq where
  id     : Nat
  core   : Nat                 -- issuing core
  seq    : SeqId
  syll   : BitVec 25
  part   : BitVec 5
  op     : CellOp
  cell   : Nat
  v      : Word64              -- operand, expected value
  v2     : Word64              -- second expected value (CAS2)
  w      : Word64              -- new value
  w2     : Word64
  cap    : Cap                 -- HXCH: the handle to place; CHASE: the capability whose bounds apply
  links  : Nat
  arrival : Option Nat         -- a barrier arrival of this many bytes in place of op (R178)
  latches : List Nat          -- the latches its reply fills, in order
  entry  : Option Nat
  at_    : Nat                 -- station time at which it reaches the porter at the earliest
  deriving DecidableEq, Repr

/-- What a word has the H-die do (R283, R296, R298): LTAKE, LSTAT and its selector, SBGET of the core's egress queue or of the
partition's exception queue with the private address, SBSTAT and its selector, SBSTAT.MARK. -/
inductive HOp where
  | ltake (wait : Bool)
  | lstat (sel : Nat)
  | sbget (exc : Bool) (addr : Nat)
  | sbstat (sel : Nat)
  | sbmark (b : Bool)
  deriving DecidableEq, Repr

/-- What an engine queue's entry does (R40). -/
inductive EngOp where
  | copyTile (src dst : Cap) (len : Nat)                       -- TCOPY.W, UPD's copy
  | copyRegion (r : Region) (dst : Cap)                        -- TCOPY.R
  | copyInto (src : Cap) (r : Region)                          -- TCOPY.S
  | hostIn (src dst : Cap) (len : Nat)
  | hostOut (src dst : Cap) (len : Nat)
  | tldTile (slot : BitVec 4) (src : Cap) (len rows cols fmt : Nat)
  | tldRegion (slot : BitVec 4) (r : Region)
  | gather (slot : BitVec 4) (hs : Cap) (len page : Nat) (values : Bool)
  | append (tile hs : Cap) (pos : Word64)
  | porter (req : PorterReq) (release : Bool)
  | lsend (m : Message) (port : Nat) (rotation slot berth off : Nat) (src : Option (Cap × Nat))
  | remote (kind : RemoteKind) (peer : Nat) (cap : Cap) (v w : Word64)
  | lcal (addr : Nat)
  | lmark (token : BitVec 6)
  | shsend (src tablet : Cap) (len : Nat) (rx : Nat) (ch : BitVec 4)
  | sbput (addr : Nat) (pipe : BitVec 1) (cls : BitVec 4)
  | sbtbl (addr : Nat) (lit : BitVec 64)
  | sbcommit (mask : BitVec 32)
  | sbask (op : HOp) (at_ : Nat)                               -- SBGET, SBSTAT, with the station time from which it is at the H-die
  | sbrec (fields : List (BitVec 32)) (pipe : BitVec 1) (cls : BitVec 4) (fail : Bool) -- a record that has been read; a failure record (R259)
  | sbimage (image : List Word64) (lit : BitVec 64)                        -- SBTBL's image, read
  | astart (block : Cap) (params : Nat) (upc : BitVec 12)
  | aload (src : Cap) (first count : Nat)
  | staged                                                     -- a message in the transfer siding: the borrow lasts (R295)
  | mark (id : Nat)
  deriving DecidableEq, Repr

/-- An entry of an engine queue (R40): the borrowed handles (R83), the handle popped for it (R435), the barrier its
arrival goes to (R178), its stamp's due TTC and the latch it fills. -/
structure EngEntry where
  id      : Nat
  seq     : SeqId
  syll    : BitVec 25
  issued  : Nat               -- TTC of issue
  ptc     : Nat               -- PTC of issue (R396)
  op      : EngOp
  borrows : List Cap
  writes  : List Cap          -- storage it writes (R82)
  popped  : List Cap
  barrier : Option Nat
  bytes   : Nat               -- byte count of its arrival
  due     : Option Nat        -- TTC by which a nonzero stamp wants it done (R112)
  latches : List Nat
  ready   : Nat               -- station time before which it does not start
  started : Bool
  done    : Nat               -- station time at which it completes, once started
  moved   : Nat := 0          -- bytes whose lines have performed (R432)
  stuck   : Bool := false     -- stopped by a major translation fault that has been reported (R215)
  deriving DecidableEq, Repr

/-- Kinds of matrix command (R310, R311, R370). -/
inductive MatOp where
  | mma (sa sb : BitVec 4) (col k : Nat) (acc ta pre : Bool) (fw : Word64)
  | mzero (col n : Nat)
  | macc (row col n : Nat) (acc int : Bool) (vs : BitVec 6)
  | mdrain (d : Drain)
  deriving DecidableEq, Repr

/-- A matrix command in flight: its stamp, the shape and operands found at its stamp, and how many of its rows have
performed. -/
structure MatCmd where
  id    : Nat
  seq   : SeqId
  syll  : BitVec 25
  issued : Nat
  ptc   : Nat
  stamp : Nat
  op    : MatOp
  m     : Nat                 -- rows, known at the stamp
  n     : Nat                 -- columns, known at the stamp
  checked : Bool              -- its stamp has passed
  passed : Bool               -- a later-issued MMA has stamped before it (R130)
  acols : Nat                 -- columns of A
  brows : Nat                 -- rows of B
  a     : List Byte           -- slot A's and slot B's bytes as they were fed
  b     : List Byte
  done  : Nat                 -- rows performed
  popped : List Cap
  flags : Tbl (BitVec 3)      -- MDRAIN: status bits gathered per column group (R104)
  deriving DecidableEq, Repr

/-- A home message kept at its core until earlier borrows of the storage have retired (R83). -/
inductive HomeMsg where
  | weight (w : Nat)
  | extend
  | query (w : Nat)                                -- the weight of the handle that asks
  | seal (rows cols fmt : Nat)
  | toBlank
  | alloc (cls : Nat) (place : Nat) (lead : Nat)   -- class, free list (R62), station cycles each way
  | later                                          -- a UPD's weight or conversion, not known yet (R81)
  deriving DecidableEq, Repr

structure Kept where
  id   : Nat
  key  : Nat                  -- directory key of the storage
  msg  : HomeMsg
  waitFor : List Nat          -- engine entries and matrix commands whose borrows it waits for
  deriving DecidableEq, Repr

/-- A UPD that waits for its tile's home, or for a free block (R81, R408): its latch, the tile, the register it came from, whether
the copy goes to HBM, the numbers of its requests, and that of the kept message that stands for what it tells the home. -/
structure Upd where
  latch : Nat
  cap   : Cap
  src   : BitVec 5
  hbm   : Bool
  query : Nat
  alloc : Option Nat
  kept  : Nat
  deriving DecidableEq, Repr

/-- A message on its way to a home porter (R65). The porter is named by its stack and channel pair, or by 40 more than the core of its
tile store and its bank (R63). -/
structure HomeReq where
  id   : Nat
  core : Nat
  key  : Nat
  msg  : HomeMsg
  at_  : Nat
  porter : Nat × Nat
  deriving DecidableEq, Repr

/-- A home's answer, kept until the word that asked for it takes it. -/
inductive HomeAns where
  | extended (xg : Nat)
  | xgFull
  | total (w : Nat) (poisoned : Bool)
  | block (base : Nat)
  | none
  deriving DecidableEq, Repr

/-! ## Translation -/

/-- A TLB entry (R162): page base and size, physical base, permissions and dirty bit. -/
structure TlbEntry where
  va    : Nat
  log2  : Nat
  pa    : Nat
  r     : Bool
  w     : Bool
  dirty : Bool
  deriving DecidableEq, Repr

/-- What a job of the shadow context serves (R214): a walk for an access, an entry, a next-page register or a micro-operation; an
extension, with its request's number and its home, which is a directory key or a handle's peer. -/
inductive WalkFor where
  | latch (id : Nat)
  | entry (queue id : Nat)
  | nextPage (queue : Nat)
  | micro
  | extension (id : Nat) (home : Nat ⊕ Cap)
  deriving DecidableEq, Repr

/-- A job of the shadow scalar context (R214). -/
structure Walk where
  va    : Nat
  write : Bool
  kv    : Bool
  for_  : WalkFor
  len   : Nat                 -- station cycles it takes
  ends  : Option Nat          -- station time at which it ends, once it has begun; an extension ends with its answer
  cas   : Option (Nat × Word64 × TlbEntry) -- the dirty bit is to be set: the entry's place, what was read there, the TLB entry (R167)
  deriving DecidableEq, Repr

/-- The current-page and next-page registers of one access queue (R163): bases, and logarithms of sizes. -/
structure PageRegs where
  cur   : Option (Nat × Nat)
  next  : Option (Nat × Nat)
  ready : Bool
  fault : Option FaultRec     -- a fault recorded by the background walk
  last  : Nat                 -- last address of the queue
  deriving DecidableEq, Repr

/-! ## The attention sequencer (R244-R259) -/

/-- Numbers of one query row (R244, R252). -/
structure AttRow where
  m      : BitVec 32
  hi     : BitVec 32
  lo     : BitVec 32
  lam    : BitVec 32
  alpha  : BitVec 32
  deriving DecidableEq, Repr

structure Attn where
  store    : Tbl Word64           -- control store
  upc      : Nat                  -- 12 bits; 4,096 when it has run past the end
  ap       : Tbl Word64
  lk       : Tbl (BitVec 24)
  block    : Option Nat           -- the walker's current block, as a page number
  pos      : Nat                  -- pages visited, in the walker's order
  finished : Bool
  rows     : Tbl AttRow
  probs    : Tbl (BitVec 32)      -- probabilities p of the block, key 64 * row + column (R252)
  status   : Word64               -- R249
  entry    : Option Nat           -- the running ASTART entry
  blank    : Cap                  -- its borrowed blank
  waiting  : Option (List (BitVec 32)) -- a failure record waiting for the interface queue (R259)
  busyTill : Nat                  -- station time at which the next micro-operation may run
  mask     : BitVec 64            -- the K slot's live mask recorded by QK
  deriving DecidableEq, Repr

/-- An ASTAT on its way (R248, R330): its latch, the selector, whether it waits for the queue, and the station time at which it
reaches the core. -/
structure Astat where
  latch : Nat
  sel   : Nat
  wait  : Bool
  at_   : Nat
  deriving DecidableEq, Repr

/-! ## Shuttle and link -/

/-- A sender's shuttle channel (R261, R262). -/
structure ShTx where
  rx      : Nat                   -- receiving core
  ch      : BitVec 4
  cls     : Nat
  tablets : List Cap
  flight  : Nat                   -- sends not yet delivered
  deriving DecidableEq, Repr

/-- A receiver's shuttle channel. -/
structure ShRx where
  tx   : Nat
  ch   : BitVec 4
  cls  : Nat
  n    : Nat
  owner : BitVec 5 × BitVec 15    -- the train that opened it
  fifo : List Cap
  coming : List (Cap × Nat)       -- tablets on their way to the sender, with the station time they arrive at
  deriving DecidableEq, Repr

/-- An entry of a core's arrival queue (R296, R297). -/
structure Arrival where
  msg      : Message
  returned : Bool
  late     : Bool
  deriving DecidableEq, Repr

/-- A request on its way to the H-die, its latches, and the station time at which it is there. -/
structure HReq where
  op      : HOp
  latches : List Nat
  at_     : Nat
  deriving DecidableEq, Repr

/-- A Signal Box record with its sideband (R271). -/
structure Record where
  f      : List (BitVec 32)
  cls    : BitVec 4
  pipe   : BitVec 1
  src    : Nat
  part   : BitVec 5
  recirc : Nat
  egress : BitVec 3
  target : BitVec 32
  data   : Word64                 -- action data of the action that chose the egress (R278)
  banks  : BitVec 32              -- active bank of every table at ingress (R281)
  reason : BitVec 4
  deriving DecidableEq, Repr

/-- A core's trace (R59, R60). -/
structure Trace where
  pos      : Nat                  -- records written since the trace was turned on
  last     : Nat                  -- TTC of the last record
  outcomes : List Bool            -- pending branch outcomes, oldest first
  lastBr   : Nat                  -- TTC of the last outcome
  lost     : Nat
  deriving DecidableEq, Repr

/-- A MARK in progress (R184). -/
structure Mark where
  id    : Nat
  token : BitVec 5
  left  : List Nat                -- marker entries
  at_   : Option Nat              -- station time at which its signal performs, once nothing is left to wait for
  deriving DecidableEq, Repr

/-- A FENCE, with its scope, or a porter operation with acquire order, until the latch of its result performs (R181). -/
structure Gate where
  latch : Nat
  scope : Option (BitVec 3)
  deriving DecidableEq, Repr

/-- A superstep (R396): start, end and drain point on PTC. -/
structure SStep where
  from_ : Nat
  to_   : Nat
  drain : Nat
  deriving DecidableEq, Repr

/-- A freeze record (R219, R220). -/
structure Freeze where
  cls   : FaultClass
  sub   : BitVec 8
  tinfo : Word64
  syll  : BitVec 25
  deriving DecidableEq, Repr

/-- One core: registers, queues, engines (R15, R37, R40, R209, R226). -/
structure Core where
  as      : Seq
  xs      : Seq
  -- vectors, masks (R15, R374)
  v       : Tbl VReg
  masks   : List LaneMask         -- top first
  m       : Tbl LaneMask
  spill   : List (Nat × Nat)      -- parked register, column (R155)
  spilled : List (Nat × Nat × VReg) -- what of it travels in the trap frame: register, column, rows (R155, R422)
  status  : Tbl Word64
  satAt   : Option (Nat × Bool)   -- TTC of the last vector saturation, and whether entry 16's bit was set before it (R105)
  acc     : Tbl (BitVec 32)       -- key 1024 * row + column
  slots   : Tbl Slot
  x       : Tbl (BitVec 32)
  g       : Tbl Geom
  tok     : Tbl (BitVec 16)
  -- inter-sequencer queues (R37)
  dq      : Tbl (List (QEnt Word64)) -- dq0-dq3 0-3, bq0 4, bq1 5, fq 7
  hq      : List (QEnt Cap)
  hqHeld  : Nat                   -- places UPD keeps reserved (R408)
  -- system registers of the core (R226)
  part    : Option (BitVec 5)     -- partition the core belongs to; partid
  carid   : BitVec 32
  lvl     : Tbl (BitVec 32)
  heapbase   : Word64
  heaplimit  : Word64
  heapoffset : Word64
  npd     : Word64
  trcctl  : Word64
  timer   : Word64
  armed   : Bool
  irq     : List (BitVec 3 × Nat) -- pending sources with the station time they reached the C-die (R213)
  -- translation
  tlb     : List TlbEntry
  pages   : Tbl PageRegs
  walks   : List Walk
  -- engines
  eng     : Tbl (List EngEntry)   -- queue numbers of R40
  mat     : List MatCmd           -- matrix queue, in issue order
  kept    : List Kept
  upds    : List Upd
  marks   : List Mark
  sstep   : Option SStep
  gates   : List Gate
  attn    : Attn
  astats  : List Astat
  polls   : List (PorterReq × Nat × Nat) -- polling WAITVs: request, next poll, delay (R176)
  -- Signal Box, link and shuttle
  egress  : List Record
  egressMark : Bool
  arrivals : List Arrival
  hReqs    : List HReq
  shTx    : Tbl ShTx
  shRx    : Tbl ShRx
  dieBits : BitVec 34             -- R302
  pkgBits : BitVec 64
  remoteOut : List (Nat × Nat) -- remote operations not yet answered: id (its latch), peer
  trace   : Trace
  frozen  : Option Freeze
  consist : Option Nat
  scrub   : Option Nat            -- PTC at which a scrub ends (R57)
  joins   : Option (BitVec 5)     -- the partition it joins then
  deaf    : List Nat              -- tokens whose signals are discarded (R51)
  lastTrain : Option Nat          -- acceptance number of the train whose car it ran last (R33, R34)
  deriving DecidableEq, Repr

/-! ## Consists -/

/-- A hold in progress (R47-R51). -/
structure Hold where
  causes : BitVec 16
  from_  : Nat                    -- station time of the lead die at the first held cycle
  words  : List (Nat × SeqId)     -- words that wait to issue
  late   : List Nat               -- cores whose item was late (cause bit 15 of R47)
  ready  : Option Nat             -- station time at which the consist resumes, once every item is present
  deriving DecidableEq, Repr

/-- A RETIME wait (R240). -/
structure Retime where
  target : Nat                    -- T'
  slack  : Nat
  notice : Nat                    -- N
  die    : Nat                    -- die of the largest n
  core   : Nat                    -- the word that stands
  seq    : SeqId
  syll   : BitVec 25
  deriving DecidableEq, Repr

/-- What a consist does. -/
inductive Mode where
  | run
  | hold (h : Hold)
  | retime (r : Retime)
  | boundary (overlay : Option (BitVec 16)) (from_ : Nat)  -- the wait of R44: OVLY's new overlay, or the end of a car
  | reentry (h : Option Hold)     -- RFT's cycle z while shadow faults are replayed, with the hold of a replay (R212)
  | halted                        -- R357
  | frozen (since : Nat)          -- R219: PTC of the freeze
  | saving                        -- stopped for a context save (R215)
  deriving DecidableEq, Repr

/-- A transfer between two dies of one consist on its lane (R236): the dies, and the TTC at which it departed. -/
structure Transfer where
  src     : Nat
  dst     : Nat
  departs : Nat
  deriving DecidableEq, Repr

structure Consist where
  cores   : List Nat              -- in position order (R32)
  cls     : CoreClass
  c       : Nat
  e       : Nat
  part    : BitVec 5
  train   : BitVec 15
  car     : BitVec 32
  overlay : BitVec 16
  lane    : Option Nat            -- lane index of the permanent way (R235)
  transfers : List Transfer       -- on the way on it (R236)
  ttc     : Nat
  latches : List Latch            -- in issue order
  mode    : Mode
  faults  : List FaultRec         -- reported by units and not yet taken
  trapT   : Option Nat            -- boundary of the trap whose handler runs
  parked  : List Latch            -- latches of the trapped program that no frame holds (log 9), due counted from the boundary
  trapMat : Bool                  -- the matrix array and exponent engine stand (R206)
  next    : Option Mode           -- the mode at the next TTC (R240, R357)
  relist  : List (Nat × SeqId × FaultRec) -- entries that head the next trap's list (R212)
  listed  : List FaultRec         -- the entries that the shadow-fault lists got, with what a notice tells of them (R211, R218)
  preempt : Bool                  -- a pre-emption request is pending (R54, source 1)
  preemptFor : Option (BitVec 15) -- the train it was raised for
  firstTtc : Nat                  -- TTC at which the running car started
  saveFor : Option FaultRec       -- the major fault for which it is being saved (R216)
  deriving DecidableEq, Repr

/-! ## Storage: homes, porters, memory -/

inductive DirState where
  | free | blank | live | poisoned | beingFreed
  deriving DecidableEq, Repr

/-- A directory entry (R64). -/
structure DirEntry where
  state : DirState
  fmt   : Nat
  rows  : Nat
  cols  : Nat
  cls   : Nat
  part  : BitVec 5
  xg    : Nat
  total : Nat
  base  : Nat
  space : BitVec 4
  pa    : Nat                     -- physical address of an HBM storage's base: where its home is (R63)
  freeAt : Nat                    -- station time at which being-freed storage goes back (R65)
  kept  : Bool                    -- poisoned storage kept off the free list (R325)
  deriving DecidableEq, Repr

/-- A free block (R62): partition, place (core number, or 256 + stack), class, address. -/
structure FreeBlock where
  part  : BitVec 5
  place : Nat
  cls   : Nat
  base  : Nat
  deriving DecidableEq, Repr

/-- A watch of a porter (R176). -/
structure Watch where
  req : PorterReq
  deriving DecidableEq, Repr

/-- A page being migrated (R165, R166): frames, size, bytes copied, and whether it still forwards. -/
structure Migration where
  old    : Nat
  new    : Nat
  log2   : Nat
  copied : Nat
  at_    : Nat                   -- station time of the next line's copy
  deriving DecidableEq, Repr

/-- An entry of a stack's write-combining queue (R258): bytes by physical address, and the station time from which it may drain. -/
structure KvEntry where
  bytes : List (Nat × List Byte)
  at_   : Nat
  deriving DecidableEq, Repr

/-- Memory of every space, its tags and its poison. One address space of natural numbers holds them side by side (Ops). -/
structure Memory where
  cells  : List Host.Cell         -- rising addresses, no byte equal to what an unlisted address reads as
  tags   : List Nat               -- 16-byte granules whose tag is set (R67), rising
  poison : List Nat               -- poisoned granules (R87), rising
  deriving DecidableEq, Repr

structure Stores where
  dir      : Tbl DirEntry         -- by directory key
  free     : List FreeBlock
  inbox    : List HomeReq         -- on the way to homes, in issue order
  answers  : Tbl (Nat × HomeAns)  -- by request number, with the station time at which the answer is back
  cellInbox : List PorterReq      -- on the way to porters, in issue order
  watches  : Tbl (List Watch)     -- by porter
  migrations : List Migration
  kvq      : Tbl (List KvEntry)   -- by stack
  replies  : List (Nat × Nat)     -- replies that left porters of a die, with the station time at which they have arrived (R241)
  deriving DecidableEq, Repr

/-! ## Dispatcher -/

/-- A train (R25-R36). -/
structure Train where
  num      : BitVec 15
  part     : BitVec 5
  prio     : Nat
  cls      : CoreClass
  c        : Nat
  e        : Nat
  tag      : BitVec 32
  overlay  : BitVec 16
  loops    : List Word64          -- the loop table
  first    : Nat
  count    : Nat
  preds    : List (BitVec 15)
  arg      : Word64
  cell     : Word64
  notifyTrain : Bool
  notifyCar   : Bool
  vec      : List Nat
  taken    : Nat                  -- cars handed out
  done     : Nat                  -- cars completed
  seqNo    : Nat                  -- order of acceptance
  aborted  : Bool
  deriving DecidableEq, Repr

/-- Who submitted a launch packet (R25). -/
inductive Submitter where
  | host (vf : BitVec 5) (index : Nat) (stillValid : Bool)
  | core (core latch : Nat)
  | record (r : Record)
  deriving DecidableEq, Repr

structure LaunchReq where
  by_    : Submitter
  packet : List Word64            -- 16 doublewords
  at_    : Nat
  deriving DecidableEq, Repr

/-- A saved car (R216-R218). -/
structure Saved where
  consist : Consist
  image   : List Core             -- the cores' saved state, in position order
  major   : Option FaultRec       -- the fault it was saved for
  resumed : Bool
  yields  : Option (BitVec 15)    -- the train for which the car was saved, until that train has got its cores (R54, log 24)
  ptc     : Nat                   -- PTC at the save (R218)
  frames  : List Nat              -- places of the cores' frames in the context area (R216, log 71)
  mems    : List Memory           -- each core's private memory and operand memory
  deriving DecidableEq, Repr

/-- One overlay loaded in a partition (R144, R145). -/
structure Overlay where
  part    : BitVec 5
  num     : BitVec 16
  banks   : List Nat
  lenA    : Nat                   -- syllables of .stream.a
  lenX    : Nat
  startX  : Nat                   -- syllable of .stream.x within the banks
  shape   : Option (CoreClass × Nat × Nat)
  cls     : CoreClass
  needs   : List Word64
  loops   : List (List Word64)
  cells   : List (Nat × Nat)      -- first cell and count of what it holds of the partition's cells
  handleCells : List Nat
  tokens  : List Nat
  geomLo  : Nat                   -- geometry image in HBM
  geomHi  : Nat
  storage : List Nat              -- directory keys of the blocks that hold its images
  mask    : BitVec 8
  deriving DecidableEq, Repr

structure Partition where
  desc    : Word64                -- R55
  grant   : GrantSet              -- R322
  nextNum : Nat                   -- next train number
  lastSeq : Tbl Nat               -- by priority: acceptance number of the train served last (R53)
  counted : Nat                   -- cars completed in this 100 µs window (R56)
  exc     : List Record           -- exception queue (R279)
  dropped : Nat
  refused : Nat                   -- refused SBTBL writes (R283)
  sticky  : Bool
  -- host port registers of the virtual function (R316)
  tail    : Nat
  head    : Nat
  qbase   : Word64
  paging  : Word64
  ring    : Nat                   -- next entry of the host paging ring (R218)
  held    : List (List Word64)    -- fault notices waiting for the host (R218)
  msix    : List Nat              -- MSI-X vectors raised, oldest first (R318)
  mismatch : Bool                 -- shape mismatch logged (R58)
  deriving DecidableEq, Repr

structure Dispatcher where
  started  : Bool                 -- R320
  table    : List (BitVec 8)      -- its read-only table memory: distances (R233)
  paths    : List (List (Nat × Nat)) -- and the path of every pair
  parts    : Tbl Partition
  trains   : List Train
  accepted : Nat                  -- trains accepted so far
  launches : List LaunchReq       -- in order of arrival (R349)
  grants   : List (BitVec 5 × GrantSet) -- grant changes that are pending (R322, R327)
  saved    : List Saved
  overlays : List Overlay
  window   : Nat                  -- PTC at which the 100 µs window ends (R56)
  invalid  : Option (BitVec 5 × Nat × Nat)  -- invalidation in progress (R323)
  acked    : List Nat             -- dies that have acknowledged
  notices  : List (List Word64)   -- the management cores' paging log (R218)
  alarms   : Nat                  -- interrupts raised at the management cores so far (R218)
  errors   : List (List Word64)   -- the error log (R326)
  offer    : List (BitVec 5)      -- partitions whose free cores are to be offered (R53)
  closed   : List Nat             -- dies closed for heat (R327)
  aborts   : List (BitVec 5 × BitVec 15 × Nat × BitVec 8) -- aborted trains with the class and subcode they report (R220)
  loadStatus : BitVec 8           -- status code of the loader's last action (R144, R146)
  deriving DecidableEq, Repr

/-! ## Signal Box -/

structure SBox where
  kinds    : Tbl (BitVec 2)       -- key 16 * pipe + stage (R275)
  windows  : Tbl (Nat × Nat)      -- key (part * 32 + 16 * pipe + stage): base, count
  entries  : Tbl (List Word64)    -- key (table * 2 + bank) * 8192 + entry of the stage: image (R275)
  miss     : Tbl (List Word64)    -- key (part * 32 + table) * 2 + bank: action word, action data
  classes  : Tbl Word64           -- key ((part * 32 + table) * 2 + bank) * 16 + class
  active   : Tbl (BitVec 32)      -- by partition: active bank of every table (R280)
  slots    : Tbl Nat              -- key 64 * pipe + slot: 1 + owning core; 0 free (R272)
  inside   : List (Nat × Nat × Record) -- id, station time at which the pass ends, record (R273)
  out      : List (Nat × Record)  -- records on their way to their egress, with the station time at which they are there
  discarded : Nat
  handed   : List Record          -- descriptors handed to the H-die link engine (R278, log 64)
  deriving DecidableEq, Repr

/-! ## Turntable -/

/-- A message in staging, sent and unacknowledged, or held for relay (R290-R295). -/
structure Staged where
  id     : Nat
  msg    : Message
  syll   : BitVec 25
  port   : Nat
  rot    : Nat
  slot   : Nat
  berth  : Nat
  off    : Nat                    -- its first flit of the berth; of a relayed message, flits that have left
  hop    : Nat                    -- first hop
  whole  : Nat                    -- PTC at which it was wholly staged
  sent   : Option Nat             -- rotation of its first departure; its number is in msg.seq
  late   : Bool                   -- it was not wholly there 512 PTC cycles before its berth (R295)
  entry  : Option Nat             -- link-queue entry that retires at its acknowledgement
  deriving DecidableEq, Repr

/-- A service item waiting for a service flit, or sent and not acknowledged (R286, R293). -/
structure OutItem where
  id   : Nat
  peer : Nat
  seq  : Option Nat
  item : Sum RemoteReq ServiceItem
  cap  : Cap                      -- the handle a weight return gives up (R86)
  core : Nat
  rot  : Nat                      -- rotation at which it was queued
  ptc  : Nat := 0                 -- PTC of the issue of a remote operation (R396)
  deriving DecidableEq, Repr

/-- What a porter logs of a remote access that it refuses (R300). -/
structure RemoteLog where
  src  : Nat                      -- source package
  core : Nat
  addr : Word64
  perm : Nat                      -- the permission the form asks for
  deriving DecidableEq, Repr

/-- What arrives under a number (R292). -/
inductive Inbound where
  | message (m : Message)
  | item (i : ServiceItem)
  | remote (r : RemoteReq)
  deriving DecidableEq, Repr

/-- What this package keeps for one peer. -/
structure Peer where
  arrival : Nat                   -- arrival allowance at the peer, flits (R290)
  relay   : Nat                   -- relay allowance
  outSeq  : Nat                   -- next number to send (R292)
  inSeq   : Nat                   -- next number to accept
  waiting : List (Nat × Inbound)  -- arrived ahead of a missing number
  acked   : Nat                   -- every number below is acknowledged
  arrCredit : Nat                 -- cumulative credits received, by kind (R293)
  relCredit : Nat
  arrGiven : Nat                  -- cumulative credits given
  relGiven : Nat
  downFor : Nat                   -- consecutive rotations whose every slot was down (R301)
  sawUp   : Bool                  -- a slot of this rotation carried traffic
  dead    : Bool                  -- unreachable
  exchange : Option Nat           -- PTC at which the sequence exchange started (R301)
  markerOut : Bool                -- a drain marker is out (R303)
  markerOwed : Bool               -- the peer's marker waits for its relayed messages to leave
  deriving DecidableEq, Repr

inductive TtState where
  | run | armed | draining | dark
  deriving DecidableEq, Repr

structure Turntable where
  pkg      : Nat                  -- group package number (R285)
  rot      : Nat                  -- rotation count
  slot     : Nat                  -- current slot
  slotAt   : Nat                  -- when it began, in 1/40 of a PTC cycle (52 to the nanosecond, R286)
  up       : BitVec 8             -- ports whose current slot occurrence carries traffic (R286)
  berth    : Nat                  -- berths of the slot that have started
  count    : Nat                  -- slots of the active calendar
  cal      : Tbl (BitVec 16)      -- key 16 * port + slot: bit 15 valid, 5:0 peer
  shadow   : Tbl (BitVec 16)
  shCount  : Nat
  takeover : Nat
  state    : TtState
  darkAt   : Nat                  -- when DARK began, as slotAt
  drained  : Bool
  drainTok : Option (Nat × BitVec 5) -- core and token to signal at drain-complete
  berths   : Tbl (BitVec 16)      -- R288
  peers    : Tbl Peer
  staged   : List Staged
  relays   : List Staged          -- held for forwarding, and copies of those forwarded, in order of arrival (R291, R293)
  relayed  : List (Nat × Nat × Nat) -- source, destination, number of relayed messages that their destination has acknowledged
  queries  : List (Nat × Nat)     -- uniqueness queries that a peer has not answered: latch, peer
  refused  : List RemoteLog       -- remote accesses refused here (R300)
  items    : List OutItem
  reserve  : Nat                  -- flits free in the return reserve (R290, R297)
  returns  : List (Message × Bool) -- returned messages waiting for the reserve, with the late flag
  filled   : Tbl Nat              -- flits taken of a berth by its core's LSENDs: 8192 * rotation + 1024 * port + 64 * slot + berth
  late     : Nat
  downs    : Nat
  lit      : BitVec 8
  relock   : BitVec 8
  downCnt  : Tbl Nat              -- by port
  deriving DecidableEq, Repr

/-! ## Clocks, dies, boot, security -/

inductive DieState where
  | run | stopping | reset
  deriving DecidableEq, Repr

structure Die where
  state   : DieState
  station : Nat                   -- clk when it last left reset (R230)
  missed  : Nat                   -- cycles since then that its own clock, stretched or gated, did not have (R230)
  lag     : Nat                   -- L_X (R238)
  power   : BitVec 2              -- R327
  temp    : Int
  coolFrom : Nat                  -- PTC since which it has stayed below 95 °C
  deriving DecidableEq, Repr

inductive BootState where
  | off | fetched | failed (at_ : Nat) | done
  deriving DecidableEq, Repr

structure System where
  boot    : BootState
  image   : List Byte             -- the fetched image (R319)
  failures : Nat                  -- management boot register (R320)
  keyHash : BitVec 512            -- fuses
  fused   : List (BitVec 8)       -- fused distance table, 1,156 bytes (R233)
  detours : Tbl (List (Nat × Nat)) -- fused paths round failed edges, by 34 times the source plus the destination (R234)
  serial  : Word64
  mr      : Tbl (BitVec 512)      -- MR0-MR7 (R321)
  quotes  : List (List Byte)
  slack   : Bool                  -- clock mode (R237)
  point   : BitVec 2              -- operating point
  wanted  : Option (BitVec 2 × Nat × Bool) -- frequency change: point, S, stall begun (R239)
  stalls  : List (Nat × Nat)      -- stall intervals so far, PTC (R240)
  dies    : Tbl Die
  window  : Bool                  -- refresh window open (R20)
  tempAt  : Nat                   -- PTC of the next temperature sample
  lowered : Nat                   -- steps the operating point is lowered for heat (R327)
  ptc     : Nat                   -- package time (R231)
  clk     : Nat                   -- station cycles of the arithmetic clock since power-on (log 5)
  phase   : Nat                   -- operating-point phase (R237, log 10)
  deriving DecidableEq, Repr

/-- What the last attempt to issue a word came to: the model's own note to its scheduler (log 4). -/
inductive Note where
  | none
  | issued
  | held
  | faulted (f : FaultRec)
  deriving DecidableEq, Repr

/-- The whole machine. `cur` names the sequencer whose word issues; `inputs` holds events from outside, oldest first;
`nextId` numbers entries and results; `freeCtr` is the model's counter for free values (log 5). -/
structure State where
  cur      : Nat × SeqId
  inputs   : List Instr
  nextId   : Nat
  freeCtr  : Nat
  note     : Note
  mem      : Memory
  cores    : Tbl Core
  consists : Tbl Consist
  stores   : Stores
  disp     : Dispatcher
  sbox     : SBox
  tt       : Turntable
  sys      : System
  deriving DecidableEq, Repr

/-- Why a run stops. No fault of the spec stops the machine: each one traps, saves, holds or freezes, a next state. -/
inductive Fault where
  /-- `exec` is asked for an instruction word, or for a micro-operation, of a core that has no car, or no running
  attention entry, to issue it for. `step` never does this. Safe: the machine has no such step. -/
  | noIssuer
  deriving DecidableEq, Repr

/-- Why the model gives no meaning. -/
inductive Refusal where
  /-- An arm of `exec` whose instruction has no meaning yet. Safe: the model stops. -/
  | notModelled (mnemonic : String)
  deriving DecidableEq, Repr

/-! ## Reset

Every register holds a value. Where the spec states none, log 1 names the value. -/

/-- The null handle: kind 3, every other bit zero, tagged (R66). -/
def nullCap : Cap := ⟨true, 3#128 <<< 120⟩

def FaultRec.zero : FaultRec :=
  { cls := .illegal, sub := 0, tinfo := 0, core := 0, seq := .as, syll := 0, source := 0, write := false, kv := false,
    latch := none }

/-- A place that issues nothing. -/
def Place.idle : Place :=
  { pc := 0, start := false, base := 0, first := false, pend := none, hdr := 0, secNum := 0, secEnd := 0, secFrom := 0,
    retired := [], loops := [], rep := none, stop := .idle, req := none }

/-- A sequencer at reset: the stack registers and system registers of R33 and R34. -/
def Seq.reset (q : SeqId) : Seq :=
  let base : Word64 := match q with | .as => 0x100000 | .xs => 0xF8000
  let limit : Word64 := match q with | .as => 0xF8000 | .xs => 0xF0000
  { s := [(62, base), (63, base)], p := 0, h := [], b := [], lc := [], tvec := 0, tframe := 0, tcause := 0, tinfo := 0,
    stbase := base, stlimit := limit, at_ := Place.idle, saved := none, streamLo := 0, streamHi := 0, retRecs := [] }

def BReg.reset : BReg := ⟨false, false, 0, 0⟩

def Geom.reset : Geom := ⟨0, 0, 0, [], []⟩

def Slot.reset : Slot := ⟨.free, 0, 0, 0, 0⟩

/-- A row of the attention sequencer at an entry's start (R244): m = −∞, hi = lo = λ = +0. -/
def AttRow.reset : AttRow := ⟨0xFF800000, 0, 0, 0, 0⟩

def Attn.reset : Attn :=
  { store := [], upc := 0, ap := [], lk := [], block := none, pos := 0, finished := false, rows := [],
    probs := [], status := 0, entry := none, blank := nullCap, waiting := none, busyTill := 0, mask := 0 }

def Trace.reset : Trace := ⟨0, 0, [], 0, 0⟩

def PageRegs.reset : PageRegs := ⟨none, none, false, none, 0⟩

/-- A core at reset: registers as R33 and R34 give them at a train's first car, memories and queues empty. -/
def Core.reset : Core :=
  { as := Seq.reset .as, xs := Seq.reset .xs, v := [], masks := [BitVec.allOnes 128], m := [], spill := [], spilled := [],
    status := [], satAt := none, acc := [], slots := [], x := [], g := [], tok := [], dq := [], hq := [], hqHeld := 0, part := none,
    carid := 0, lvl := [], heapbase := 0, heaplimit := 0, heapoffset := 0, npd := 0, trcctl := 0, timer := 0,
    armed := false, irq := [], tlb := [], pages := [], walks := [], eng := [], mat := [], kept := [], upds := [], marks := [],
    sstep := none, gates := [], attn := Attn.reset, astats := [], polls := [], egress := [], egressMark := false, arrivals := [], hReqs := [],
    shTx := [], shRx := [], dieBits := 0, pkgBits := 0, remoteOut := [], trace := Trace.reset, frozen := none,
    consist := none, scrub := none, joins := none, deaf := [], lastTrain := none }

/-- What a consist number names before the dispatcher has formed the consist. -/
def Consist.reset : Consist :=
  { cores := [], cls := .array, c := 1, e := 1, part := 0, train := 0, car := 0, overlay := 0, lane := none, transfers := [], ttc := 0,
    latches := [], mode := .run, faults := [], trapT := none, parked := [], trapMat := false, next := none,
    relist := [], listed := [], preempt := false, preemptFor := none, firstTtc := 0, saveFor := none }

def DirEntry.reset : DirEntry :=
  { state := .free, fmt := 0, rows := 0, cols := 0, cls := 0, part := 0, xg := 0, total := 0, base := 0, space := 0, pa := 0,
    freeAt := 0, kept := false }

def GrantSet.none : GrantSet := ⟨[], .none, [], false, 0, (0, 0)⟩

/-- A partition before the management cores write it: disabled (R55). -/
def Partition.reset : Partition :=
  { desc := 0, grant := GrantSet.none, nextNum := 0, lastSeq := [], counted := 0, exc := [], dropped := 0, refused := 0,
    sticky := false, tail := 0, head := 0, qbase := 0, paging := 0, ring := 0, held := [], msix := [],
    mismatch := false }

/-- A peer with the allowances of R290. -/
def Peer.reset : Peer :=
  { arrival := 1984, relay := 1024, outSeq := 0, inSeq := 0, waiting := [], acked := 0, arrCredit := 0, relCredit := 0,
    arrGiven := 0, relGiven := 0, downFor := 0, sawUp := false, dead := false, exchange := none, markerOut := false,
    markerOwed := false }

def Die.reset : Die :=
  { state := .run, station := 0, missed := 0, lag := 0, power := 0, temp := 0, coolFrom := 0 }

/-- Row and column of each die on the carrier, by die index (R12, R13). -/
def dieSites : List (Nat × Nat) :=
  [(0,1),(0,2),(0,3),(0,4),(1,0),(1,1),(1,4),(1,5),(2,0),(2,5),(3,0),(3,2),(3,3),(3,5),(4,0),(4,1),(4,4),(4,5),
   (5,0),(5,1),(5,2),(5,3),(5,4),(5,5),(1,2),(1,3),(2,1),(2,4),(3,1),(3,4),(4,2),(4,3),(2,2),(2,3)]

/-- The nominal distance of R234: 6 cycles a hop, hops being the Manhattan distance of the sites. -/
def nominalDist (i j : Nat) : BitVec 8 :=
  let a := dieSites.getD i (0, 0)
  let b := dieSites.getD j (0, 0)
  let diff := fun x y : Nat => (x - y) + (y - x)
  BitVec.ofNat 8 (6 * (diff a.1 b.1 + diff a.2 b.2))

/-- Fuses of a module none of whose edges failed test (R233, R234; log 7). -/
def nominalFuses : List (BitVec 8) :=
  (List.range 1156).map fun k => nominalDist (k / 34) (k % 34)

def System.reset : System :=
  { boot := .off, image := [], failures := 0, keyHash := 0, fused := nominalFuses, detours := [], serial := 0, mr := [], quotes := [],
    slack := false, point := 0, wanted := none, stalls := [], dies := [], window := false, tempAt := 1300000, lowered := 0, ptc := 0,
    clk := 0, phase := 0 }

def Turntable.reset : Turntable :=
  { pkg := 0, rot := 0, slot := 0, slotAt := 0, up := 0, berth := 0, count := 8, cal := [], shadow := [], shCount := 8, takeover := 0,
    state := .run, darkAt := 0, drained := false, drainTok := none, berths := [], peers := [], staged := [],
    relays := [], relayed := [], queries := [], refused := [], items := [], reserve := 4096, returns := [], filled := [], late := 0, downs := 0, lit := 0,
    relock := 0, downCnt := [] }

def SBox.reset : SBox :=
  { kinds := (List.range 32).map fun k => (k, 3#2), windows := [], entries := [], miss := [], classes := [],
    active := [], slots := [], inside := [], out := [], discarded := 0, handed := [] }

def Dispatcher.reset : Dispatcher :=
  { started := false, table := [], paths := [], parts := [], trains := [], accepted := 0, launches := [], grants := [], saved := [], overlays := [],
    window := 130000, invalid := none, acked := [], notices := [], alarms := 0, errors := [], offer := [], closed := [], aborts := []
    loadStatus := 0 }

def Stores.reset : Stores :=
  { dir := [], free := [], inbox := [], answers := [], cellInbox := [], watches := [], migrations := [], kvq := [], replies := [] }

/-- The module at power-on, before the boot ROM has fetched an image (R319). -/
def State.reset : State :=
  { cur := (0, .as), inputs := [], nextId := 0, freeCtr := 0, note := .none, mem := ⟨[], [], []⟩, cores := [], consists := [],
    stores := Stores.reset, disp := Dispatcher.reset, sbox := SBox.reset, tt := Turntable.reset, sys := System.reset }

end Sys2Proof.Machine
end

