-- ==== Sys2Proof/Machine/Mem.lean ====
section
/-! DEFINITION. Memory of every space (R3, R147, R148): one address space of natural numbers that holds the spaces side by
side, read and written by bytes, with capability tags (R67) and poison (R87) by 16-byte granule. -/
namespace Sys2Proof.Machine
open Sys2Proof

/-! ## Addresses -/

/-- An HBM physical address (R148). -/
def hbmAt (pa : Nat) : Nat := pa
/-- A byte of a core's tile store (R434). -/
def tileAt (core off : Nat) : Nat := 2 ^ 44 + 2 ^ 25 * core + off
/-- A byte of a core's private memory (R156). -/
def privAt (core off : Nat) : Nat := 2 ^ 45 + 2 ^ 20 * core + off
/-- The first byte of a porter cell (R148, R169). -/
def cellAt (n : Nat) : Nat := 2 ^ 46 + 8 * n
/-- The first byte of a syllable of instruction memory (R117). -/
def syllAt (n : Nat) : Nat := 2 ^ 47 + 4 * n
/-- A byte of an operand slot (R15, R152). -/
def slotAt (core slot off : Nat) : Nat := 2 ^ 48 + 2 ^ 21 * core + 2 ^ 17 * slot + off
/-- A byte of the host memory a virtual function reaches (R147). -/
def hostAt (vf addr : Nat) : Nat := 2 ^ 70 + 2 ^ 64 * vf + addr

/-! ## Bytes -/

/-- What a byte that nothing has written reads as (log 2). -/
def emptyByte : Byte := 0

/-- The byte at an address of a list of cells. -/
def cellsGet : List Host.Cell → Nat → Byte
  | [], _ => emptyByte
  | (a', b) :: t, a => if a = a' then b else cellsGet t a

/-- Listing a byte, in its place among rising addresses. -/
def cellsPut : List Host.Cell → Nat → Byte → List Host.Cell
  | [], a, b => [(a, b)]
  | (a', b') :: t, a, b =>
    if a < a' then (a, b) :: (a', b') :: t
    else if a = a' then (a, b) :: t
    else (a', b') :: cellsPut t a b

/-- Writing a byte: one equal to what an unlisted address reads as is not listed. -/
def cellsSet (t : List Host.Cell) (a : Nat) (b : Byte) : List Host.Cell :=
  if b = emptyByte then t.filter (fun c => c.1 != a) else cellsPut t a b

/-- Rising addresses above `lo`, and no empty byte. -/
def cellsWf : Option Nat → List Host.Cell → Bool
  | _, [] => true
  | lo, (a, b) :: t => (match lo with | none => true | some l => decide (l < a)) && decide (b ≠ emptyByte) && cellsWf (some a) t

/-- Whether a set of granules, a list of rising numbers, has one. -/
def granGet (t : List Nat) (g : Nat) : Bool := t.contains g

def granPut : List Nat → Nat → List Nat
  | [], g => [g]
  | g' :: t, g => if g < g' then g :: g' :: t else if g = g' then g' :: t else g' :: granPut t g

def granSet (t : List Nat) (g : Nat) (v : Bool) : List Nat := if v then granPut t g else t.filter (· != g)

def granWf : Option Nat → List Nat → Bool
  | _, [] => true
  | lo, g :: t => (match lo with | none => true | some l => decide (l < g)) && granWf (some g) t

/-- The canonical form of a memory: rising addresses, nothing listed that an unlisted address reads as. -/
def Memory.wf (m : Memory) : Bool := cellsWf none m.cells && granWf none m.tags && granWf none m.poison

def Memory.byte (m : Memory) (a : Nat) : Byte := cellsGet m.cells a
def Memory.tagAt (m : Memory) (a : Nat) : Bool := granGet m.tags (a / 16)
def Memory.poisoned (m : Memory) (a : Nat) : Bool := granGet m.poison (a / 16)

def Memory.setByte (m : Memory) (a : Nat) (b : Byte) : Memory := { m with cells := cellsSet m.cells a b }
def Memory.setTag (m : Memory) (g : Nat) (v : Bool) : Memory := { m with tags := granSet m.tags g v }
def Memory.setPoison (m : Memory) (g : Nat) (v : Bool) : Memory := { m with poison := granSet m.poison g v }

/-- Bytes from an address on, in rising order. -/
def Memory.setBytes (m : Memory) : Nat → List Byte → Memory
  | _, [] => m
  | a, b :: bs => (m.setByte a b).setBytes (a + 1) bs

/-- The granules from the one of `a` to the one of `a + n − 1`. -/
def granules (a n : Nat) : List Nat :=
  if n = 0 then [] else (List.range ((a + n - 1) / 16 - a / 16 + 1)).map (a / 16 + ·)

/-- The granules that lie wholly within `[a, a + n)` (R87). -/
def wholeGranules (a n : Nat) : List Nat :=
  (granules a n).filter fun g => decide (a ≤ 16 * g ∧ 16 * g + 16 ≤ a + n)

def Memory.clearTags (m : Memory) : List Nat → Memory
  | [] => m
  | g :: gs => (m.setTag g false).clearTags gs

def Memory.clearPoison (m : Memory) : List Nat → Memory
  | [] => m
  | g :: gs => (m.setPoison g false).clearPoison gs

/-- A write that is no capability write: it clears the tag of every granule it touches (R67) and the poison of every
granule it covers whole (R87). -/
def Memory.write (m : Memory) (a : Nat) (bs : List Byte) : Memory :=
  ((m.setBytes a bs).clearTags (granules a bs.length)).clearPoison (wholeGranules a bs.length)

/-- `n` bytes from an address on. -/
def Memory.read (m : Memory) (a : Nat) : Nat → List Byte
  | 0 => []
  | n + 1 => m.byte a :: m.read (a + 1) n

/-- The number that bytes hold, the byte at the lowest address lowest (R3). -/
def leNat : List Byte → Nat
  | [] => 0
  | b :: bs => b.toNat + 256 * leNat bs

/-- `n` bytes of a number, the lowest first (R3). -/
def toBytes : Nat → Nat → List Byte
  | 0, _ => []
  | n + 1, v => BitVec.ofNat 8 v :: toBytes n (v / 256)

def Memory.read32 (m : Memory) (a : Nat) : BitVec 32 := BitVec.ofNat 32 (leNat (m.read a 4))
def Memory.read64 (m : Memory) (a : Nat) : Word64 := BitVec.ofNat 64 (leNat (m.read a 8))
def Memory.write32 (m : Memory) (a : Nat) (v : BitVec 32) : Memory := m.write a (toBytes 4 v.toNat)
def Memory.write64 (m : Memory) (a : Nat) (v : Word64) : Memory := m.write a (toBytes 8 v.toNat)

/-- A capability as 16 bytes and their tag (R67). -/
def Memory.readCap (m : Memory) (a : Nat) : Cap := ⟨m.tagAt a, BitVec.ofNat 128 (leNat (m.read a 16))⟩

/-- A capability write: 16 bytes with their tag (R67, R362). -/
def Memory.writeCap (m : Memory) (a : Nat) (c : Cap) : Memory :=
  (m.write a (toBytes 16 c.bits.toNat)).setTag (a / 16) c.tag

/-- The first poisoned granule of `[a, a + n)`, as the address of its first byte. -/
def Memory.firstPoison (m : Memory) (a n : Nat) : Option Nat :=
  ((granules a n).find? (granGet m.poison ·)).map (16 * ·)

/-- A range of bytes set to zero. -/
def Memory.zero (m : Memory) (a n : Nat) : Memory :=
  { cells := m.cells.filter fun c => !decide (a ≤ c.1 ∧ c.1 < a + n)
    tags := m.tags.filter fun g => !decide (a ≤ 16 * g + 15 ∧ 16 * g < a + n)
    poison := m.poison.filter fun g => !decide (a ≤ 16 * g ∧ 16 * g + 16 ≤ a + n) }

/-! ## Instruction memory -/

/-- A syllable of instruction memory (R117); past its end it reads 0. -/
def Memory.syll (m : Memory) (n : Nat) : BitVec 32 :=
  if n < 2 ^ 25 then m.read32 (syllAt n) else 0

/-- The word at a syllable address (R3, R117). -/
def Memory.iword (m : Memory) (n : Nat) : Word96 := m.syll (n + 2) ++ m.syll (n + 1) ++ m.syll n

/-- The header or trailer at a syllable address. -/
def Memory.header (m : Memory) (n : Nat) : Word64 := m.syll (n + 1) ++ m.syll n

/-- One bit of the CRC-12 register of R118. -/
def crcBit (r : BitVec 12) (b : Bool) : BitVec 12 :=
  let out := r.getLsbD 11 != b
  if out then (r <<< 1) ^^^ 0x80F else r <<< 1

/-- A byte, most significant bit first (R118). -/
def crcByte (r : BitVec 12) (b : Byte) : BitVec 12 :=
  crcBit (crcBit (crcBit (crcBit (crcBit (crcBit (crcBit (crcBit r (b.getLsbD 7)) (b.getLsbD 6)) (b.getLsbD 5))
    (b.getLsbD 4)) (b.getLsbD 3)) (b.getLsbD 2)) (b.getLsbD 1)) (b.getLsbD 0)

/-- The CRC-12 of bytes (R118). -/
def crc12 (bs : List Byte) : BitVec 12 := bs.foldl crcByte 0xFFF

end Sys2Proof.Machine
end

