-- ==== Sys2Proof/Machine/Access.lean ====
section
/-! DEFINITION. The parts of the state by name, distances between dies (R233, R234), and what one issuing word may do: read
registers and queues (R125), reserve queue entries (R126) and put results in flight (R128). -/
namespace Sys2Proof.Machine
open Sys2Proof

/-! ## Parts of the state -/

def State.core (s : State) (c : Nat) : Core := Tbl.get Core.reset s.cores c
def State.setCore (s : State) (c : Nat) (k : Core) : State := { s with cores := Tbl.set s.cores c k }
def State.cons (s : State) (k : Nat) : Consist := Tbl.get Consist.reset s.consists k
def State.setCons (s : State) (k : Nat) (c : Consist) : State := { s with consists := Tbl.set s.consists k c }
def Core.seq (c : Core) : SeqId → Seq
  | .as => c.as
  | .xs => c.xs
def Core.setSeq (c : Core) : SeqId → Seq → Core
  | .as, q => { c with as := q }
  | .xs, q => { c with xs := q }
def State.seq (s : State) (c : Nat) (q : SeqId) : Seq := (s.core c).seq q
def State.setSeq (s : State) (c : Nat) (q : SeqId) (v : Seq) : State := s.setCore c ((s.core c).setSeq q v)
/-- The consist a core runs a car with. -/
def State.consistOf (s : State) (c : Nat) : Option Nat := (s.core c).consist
def State.dirEntry (s : State) (key : Nat) : DirEntry := Tbl.get DirEntry.reset s.stores.dir key
def State.setDir (s : State) (key : Nat) (e : DirEntry) : State :=
  { s with stores := { s.stores with dir := Tbl.set s.stores.dir key e } }
def State.part (s : State) (p : BitVec 5) : Partition := Tbl.get Partition.reset s.disp.parts p.toNat
def State.setPart (s : State) (p : BitVec 5) (v : Partition) : State :=
  { s with disp := { s.disp with parts := Tbl.set s.disp.parts p.toNat v } }
def State.peer (s : State) (p : Nat) : Peer := Tbl.get Peer.reset s.tt.peers p
def State.setPeer (s : State) (p : Nat) (v : Peer) : State := { s with tt := { s.tt with peers := Tbl.set s.tt.peers p v } }
def State.die (s : State) (d : Nat) : Die := Tbl.get Die.reset s.sys.dies d
def State.setDie (s : State) (d : Nat) (v : Die) : State := { s with sys := { s.sys with dies := Tbl.set s.sys.dies d v } }
def State.clk (s : State) : Nat := s.sys.clk
def State.ptc (s : State) : Nat := s.sys.ptc

/-- A fresh number. -/
def State.fresh (s : State) : Nat × State := (s.nextId, { s with nextId := s.nextId + 1 })
/-- A fresh argument for a free value (log 5). -/
def State.free (s : State) : Nat × State := (s.freeCtr, { s with freeCtr := s.freeCtr + 1 })

/-- The queue of an engine (R40): matrix 0, copy 1, porter 2, link 3, shuttle 4, Signal Box 5, attention 6, vector 7. -/
def Core.queue (c : Core) (n : Nat) : List EngEntry := Tbl.get [] c.eng n
def Core.setQueue (c : Core) (n : Nat) (l : List EngEntry) : Core := { c with eng := Tbl.set c.eng n l }
def Core.slot (c : Core) (n : BitVec 4) : Slot := Tbl.get Slot.reset c.slots n.toNat
def Core.vreg (c : Core) (r : BitVec 6) : VReg := Tbl.get 0 c.v r.toNat
def Core.setV (c : Core) (r : BitVec 6) (v : VReg) : Core := { c with v := Tbl.set c.v r.toNat v }
def Core.xreg (c : Core) (r : Nat) : BitVec 32 := Tbl.get 0 c.x r
def Core.geom (c : Core) (r : BitVec 5) : Geom := Tbl.get Geom.reset c.g r.toNat
def Core.token (c : Core) (t : BitVec 5) : BitVec 16 := Tbl.get 0 c.tok t.toNat
def Core.top (c : Core) : LaneMask := c.masks.headD (BitVec.allOnes 128)
def Core.mreg (c : Core) (r : BitVec 3) : LaneMask := Tbl.get (BitVec.allOnes 128) c.m r.toNat
/-- An accumulator element (R154). -/
def Core.accAt (c : Core) (row col : Nat) : BitVec 32 := Tbl.get 0 c.acc (1024 * row + col)
def Core.setAcc (c : Core) (row col : Nat) (v : BitVec 32) : Core := { c with acc := Tbl.set c.acc (1024 * row + col) v }

/-! ## Cores and dies (R13-R15, R148) -/

def isAttention (core : Nat) : Bool := decide (96 ≤ core)
def classOf (core : Nat) : CoreClass := if isAttention core then .attention else .array
/-- The die of a core (R13, R14). -/
def dieOf (core : Nat) : Nat := if core < 96 then core / 4 else 24 + (core - 96) / 8
/-- The die of an HBM stack (R148). -/
def dieOfStack (st : Nat) : Nat := if st < 24 then st else 24 + (st - 24) / 2
def dieOfPorter (p : Nat) : Nat := dieOfStack (p / 16)
def cDie : Nat := 32
def hDie : Nat := 33
/-- Size of a core's tile store (R15). -/
def tileStoreSize (core : Nat) : Nat := if isAttention core then 2 ^ 24 else 3 * 2 ^ 23
/-- Side of a core's array (R15). -/
def arraySide (core : Nat) : Nat := if isAttention core then 128 else 256
/-- Accumulator columns (R154). -/
def columnCount (core : Nat) : Nat := if isAttention core then 512 else 1024
/-- Bytes of an operand slot (R15). -/
def slotSize (core : Nat) : Nat := if isAttention core then 2 ^ 15 else 2 ^ 17

/-- The table in force (R234): the fused distance, 16 more off the diagonal in slack mode. -/
def State.dist (s : State) (i j : Nat) : Nat :=
  (s.sys.fused.getD (34 * i + j) 0).toNat + (if s.sys.slack && i != j then 16 else 0)
/-- d of R17 and R129. -/
def State.dC (s : State) (core : Nat) : Nat := s.dist cDie (dieOf core)
/-- The largest off-diagonal entry of the table in force (R185). -/
def State.dMax (s : State) : Nat :=
  (List.range 1156).foldl (fun m k => if k / 34 = k % 34 then m else max m (s.dist (k / 34) (k % 34))) 0

/-! ## What a word does -/

/-- What a word that has to wait asks for (R74, R386), or that a WAIT has waited (R427). An extension names its home: a directory key, or
a handle whose home is on another package. -/
inductive HoldReq where
  | extend (home : Nat ⊕ Cap)
  | record (addr : Nat)
  | token
  deriving DecidableEq, Repr

/-- Why a word does not issue: an issue fault (R206), or a wait (R48). -/
inductive Stop where
  | fault (f : FaultRec)
  | hold (causes : BitVec 16) (req : Option HoldReq)
  deriving DecidableEq, Repr

/-- A part of a word's work: it changes the state, or the word does not issue and nothing of it takes effect (R206). -/
abbrev Act := StateT State (Except Stop)

/-- Where control goes after a word (R41, R107, R339, R341, R366). -/
inductive Ctl where
  | fall
  | skip (n : Nat)             -- the next n words do not issue
  | goto (hdr : Nat)           -- a section starts there
  | back (hdr word : Nat)      -- RET to a word of a section
  | times (m : Nat)            -- REPEAT: the next word issues m times
  | stop (why : SeqStop)
  | trap (f : FaultRec)        -- the word counts as issued and the fault is taken at its cycle (R309)
  deriving DecidableEq, Repr

def causeBit (n : Nat) : BitVec 16 := 1#16 <<< n

def hold (bit : Nat) (req : Option HoldReq := none) : Act Unit := throw (.hold (causeBit bit) req)

def getCore : Act Core := do
  let s ← get
  pure (s.core s.cur.1)

def modCore (f : Core → Core) : Act Unit :=
  modify fun s => s.setCore s.cur.1 (f (s.core s.cur.1))

def getSeq : Act Seq := do
  let s ← get
  pure (s.seq s.cur.1 s.cur.2)

def modSeq (f : Seq → Seq) : Act Unit :=
  modify fun s => s.setSeq s.cur.1 s.cur.2 (f (s.seq s.cur.1 s.cur.2))

/-- The number of the issuing core's consist. -/
def State.curCons (s : State) : Nat := (s.consistOf s.cur.1).getD 0

/-- The TTC of the issuing core's consist. -/
def State.ttc (s : State) : Nat := (s.cons s.curCons).ttc

/-- The TTC as the machine has it, 72 bits wide (R46); the model counts on (log 8). -/
def Consist.ttcReg (c : Consist) : BitVec 72 := BitVec.ofNat 72 c.ttc

def getTtc : Act Nat := do
  let s ← get
  pure s.ttc

/-- d of the issuing core. -/
def getD : Act Nat := do
  let s ← get
  pure (s.dC s.cur.1)

def State.mkFault (s : State) (cls : FaultClass) (sub : BitVec 8) (tinfo : Word64) : FaultRec :=
  { cls := cls, sub := sub, tinfo := tinfo, core := s.cur.1, seq := s.cur.2,
    syll := BitVec.ofNat 25 (s.seq s.cur.1 s.cur.2).at_.pc, source := 0, write := false, kv := false, latch := none }

/-- `fault(name)` of R10, raised by the issuing word. -/
def fault {α : Type} (cls : FaultClass) (sub : BitVec 8 := 0) (tinfo : Word64 := 0) : Act α := do
  let s ← get
  throw (.fault (s.mkFault cls sub tinfo))

/-- The fault is raised where the check fails. -/
def need (ok : Bool) (cls : FaultClass) (sub : BitVec 8 := 0) (tinfo : Word64 := 0) : Act Unit :=
  if ok then pure () else fault cls sub tinfo

/-! ## Results in flight -/

/-- Adds a latch of the issuing word and answers its number. -/
def addLatch (lat : Nat) (eff : Effect) (cause : Option (BitVec 16)) (defer : Option Deferred) : Act Nat := do
  let s ← get
  let k := s.curCons
  let c := s.cons k
  let l : Latch :=
    { id := s.nextId, core := s.cur.1, seq := s.cur.2, syll := BitVec.ofNat 25 (s.seq s.cur.1 s.cur.2).at_.pc,
      ptc := s.ptc, due := c.ttc + lat, eff := eff, cause := cause, defer := defer, arrive := none, back := none, err := none, missAt := none,
      pend := false, replay := false, place := none }
  set ({ s with nextId := s.nextId + 1 }.setCons k { c with latches := c.latches ++ [l] })
  pure s.nextId

/-- A result that performs `lat` cycles after issue (R128). -/
def result (lat : Nat) (eff : Effect) : Act Unit := do
  let _ ← addLatch lat eff none none

/-- A latch that has just been added, changed by number. -/
def Consist.modNew (c : Consist) (id : Nat) (f : Latch → Latch) : Consist :=
  { c with latches := c.latches.map fun l => if l.id = id then f l else l }

/-- A result, or the fault its latch reports in its place at the same cycle (R87). -/
def resultOr (lat : Nat) (eff : Effect) (f : Option FaultRec) : Act Unit := do
  let id ← addLatch lat eff none none
  modify fun s => s.setCons s.curCons ((s.cons s.curCons).modNew id fun l => { l with err := f.map fun f => { f with latch := some id } })

/-- A result that a unit brings, due `lat` cycles after issue; late, it holds with the cause bit (R430). -/
def await (lat : Nat) (bit : Nat) (eff : Effect) : Act Nat := addLatch lat eff (some (causeBit bit)) none

/-- A latch of a consist changed by number. -/
def Consist.modLatch (c : Consist) (id : Nat) (f : Latch → Latch) : Consist :=
  { c with latches := c.latches.map fun l => if l.id = id then f l else l
           parked := c.parked.map fun l => if l.id = id then f l else l }

/-! ## Queues (R37-R39, R125, R126) -/

/-- Depth of a register-mapped queue: dq0-dq3 0-3, bq0 4, bq1 5, fq 7 (R37, R97). -/
def queueDepth (q : Nat) : Nat := if q < 4 then 32 else if q < 6 then 64 else 16
def hqDepth : Nat := 8

def Core.dqs (c : Core) (q : Nat) : List (QEnt Word64) := Tbl.get [] c.dq q

/-- Reserves an entry and answers its number (R126); a full queue is schedule fault 0x07 (R39). -/
def pushQ (q : Nat) : Act Nat := do
  let s ← get
  let c ← getCore
  need (decide ((c.dqs q).length < queueDepth q)) .schedule 0x07
  let id := s.nextId
  modify fun s => { s with nextId := s.nextId + 1 }
  modCore fun c => { c with dq := Tbl.set c.dq q (c.dqs q ++ [⟨id, .due⟩]) }
  pure id

/-- Pops the head entry; `none` is a void (R126, R127). `sub` is the schedule subcode of an empty queue (R52). -/
def popQ (q : Nat) (sub : BitVec 8 := 0x07) : Act (Option Word64) := do
  let c ← getCore
  match c.dqs q with
  | [] => fault .schedule sub
  | e :: rest =>
    match e.v with
    | .due => fault .schedule sub
    | .val v => do
      modCore fun c => { c with dq := Tbl.set c.dq q rest }
      pure (some v)
    | .void => do
      modCore fun c => { c with dq := Tbl.set c.dq q rest }
      pure none

def pushHq : Act Nat := do
  let s ← get
  let c ← getCore
  need (decide (c.hq.length + c.hqHeld < hqDepth)) .schedule 0x07
  let id := s.nextId
  modify fun s => { s with nextId := s.nextId + 1 }
  modCore fun c => { c with hq := c.hq ++ [⟨id, .due⟩] }
  pure id

def popHq : Act (Option Cap) := do
  let c ← getCore
  match c.hq with
  | [] => fault .schedule 0x07
  | e :: rest =>
    match e.v with
    | .due => fault .schedule 0x07
    | .val v => do
      modCore fun c => { c with hq := rest }
      pure (some v)
    | .void => do
      modCore fun c => { c with hq := rest }
      pure none

/-- What a guarded-on word pops: a void raises the queue-void fault (R127). -/
def popOn (q : Nat) : Act Word64 := do
  match ← popQ q with
  | some v => pure v
  | none => fault .queueVoid

/-- The queue a scalar register stands for as a source (R125). -/
def srcQueue (r : BitVec 6) : Option Nat :=
  if r = 56 then some 0 else if r = 57 then some 1 else if r = 58 then some 2 else if r = 59 then some 3
  else if r = 60 then some 4 else none

/-- The queue a scalar register stands for as a destination of a sequencer (R125). -/
def dstQueue (q : SeqId) (r : BitVec 6) : Option Nat :=
  if r = 56 then some 0 else if r = 57 then some 1 else if r = 58 then some 2 else if r = 59 then some 3
  else if r = 60 then some (match q with | .as => 5 | .xs => 7) else none

/-- A scalar source (R125): s0 is 0, s61 the TTC, s56-s60 pop. -/
def readS (r : BitVec 6) : Act Word64 := do
  match srcQueue r with
  | some q => popOn q
  | none =>
    if r = 0 then pure 0
    else if r = 61 then do
      let s ← get
      pure ((s.cons s.curCons).ttcReg.setWidth 64)
    else do
      let q ← getSeq
      pure (Tbl.get 0 q.s r.toNat)

/-- A handle source (R125): h31 pops hq. -/
def readH (r : BitVec 5) : Act Cap := do
  if r = 31 then
    match ← popHq with
    | some c => pure c
    | none => fault .queueVoid
  else
    let q ← getSeq
    pure (Tbl.get nullCap q.h r.toNat)

/-- A predicate as it stands (R108): p0 is true. -/
def Seq.pred (q : Seq) (r : BitVec 4) : Bool := r == 0 || q.p.getLsbD r.toNat

def readP (r : BitVec 4) : Act Bool := do
  let q ← getSeq
  pure (q.pred r)

/-- A value entered in a queue keeps only bit 0 in bq0 and bq1 (R383). -/
def queueVal (q : Nat) (v : Word64) : Word64 := if q = 4 ∨ q = 5 then v &&& 1 else v

/-- The effect of writing a scalar destination, a queue's entry reserved (R125, R126); s0 discards. -/
def dstS (r : BitVec 6) (v : Word64) : Act Effect := do
  let s ← get
  match dstQueue s.cur.2 r with
  | some q => do
    let id ← pushQ q
    pure (.fill q id (.val (queueVal q v)))
  | none => pure (if r = 0 then .mark else .setS r v)

/-- A scalar result (R128). -/
def writeS (r : BitVec 6) (lat : Nat) (v : Word64) : Act Unit := do
  let e ← dstS r v
  result lat e

/-- A scalar result that a unit brings (R430). -/
def awaitS (r : BitVec 6) (lat bit : Nat) : Act Nat := do
  let e ← dstS r 0
  await lat bit e

def dstH (r : BitVec 5) (c : Cap) : Act Effect := do
  if r = 31 then
    let id ← pushHq
    pure (.fillH id (.val c))
  else pure (.setH r c)

def writeH (r : BitVec 5) (lat : Nat) (c : Cap) : Act Unit := do
  let e ← dstH r c
  result lat e

/-- A predicate result; p0 discards (R108, R382). -/
def writeP (r : BitVec 4) (lat : Nat) (v : Bool) : Act Unit := result lat (if r = 0 then .mark else .setP r v)

/-- The source of a move becomes null, but for hq, whose entry is gone (R68). -/
def nullH (r : BitVec 5) (lat : Nat) : Act Unit := if r = 31 then pure () else result lat (.setH r nullCap)

end Sys2Proof.Machine
end

