-- ==== Sys2Proof/Machine/Float.lean ====
section
/-! DEFINITION. The number formats (R89-R91), rounding and conversion (R92, R93), signed zeros (R94) and the functions of
R392 and R416, over exact numbers: a sign, a natural significand and a power of two. -/
namespace Sys2Proof.Machine
open Sys2Proof

/-- An exact value, an infinity or a NaN (R89, R90). `fin neg m e` is ± m · 2^e; a zero keeps its sign. -/
inductive XNum where
  | nan
  | inf (neg : Bool)
  | fin (neg : Bool) (m : Nat) (e : Int)
  deriving DecidableEq, Repr

/-- A floating format: exponent and fraction bits, bias (R89). `f8a` has no infinities. -/
structure Fmt where
  ebits : Nat
  fbits : Nat
  bias  : Nat
  f8a   : Bool
  deriving DecidableEq, Repr

def fp32 : Fmt := ⟨8, 23, 127, false⟩
def bf16 : Fmt := ⟨8, 7, 127, false⟩
def fp16 : Fmt := ⟨5, 10, 15, false⟩
def f8aFmt : Fmt := ⟨4, 3, 8, true⟩
def f8bFmt : Fmt := ⟨5, 2, 16, false⟩

/-- The floating format of a format code (R89). -/
def fmtOf : Nat → Option Fmt
  | 0 => some fp32
  | 1 => some bf16
  | 2 => some fp16
  | 3 => some f8aFmt
  | 4 => some f8bFmt
  | _ => none

/-- Bytes of an element of a format; CB4 has none (R89, R433). -/
def fmtBytes : Nat → Option Nat
  | 0 => some 4
  | 1 => some 2
  | 2 => some 2
  | 3 => some 1
  | 4 => some 1
  | 5 => some 1
  | 7 => some 4
  | _ => none

/-- The exponent of a format's smallest subnormal. -/
def Fmt.qmin (f : Fmt) : Int := 1 - f.bias - f.fbits

/-- The sign bit's place. -/
def Fmt.signBit (f : Fmt) : Nat := f.ebits + f.fbits

/-- The magnitude bits of a format's largest finite value. -/
def Fmt.maxBits (f : Fmt) : Nat :=
  if f.f8a then 0x7E else (2 ^ f.ebits - 1) * 2 ^ f.fbits - 1

/-- The canonical NaN (R89). -/
def Fmt.nanBits (f : Fmt) : Nat :=
  if f.f8a then 0x7F else (2 ^ f.ebits - 1) * 2 ^ f.fbits + 2 ^ (f.fbits - 1)

def Fmt.infBits (f : Fmt) : Nat := (2 ^ f.ebits - 1) * 2 ^ f.fbits

/-- The value of a bit pattern (R89). -/
def Fmt.decode (f : Fmt) (bits : Nat) : XNum :=
  let s := decide (bits / 2 ^ f.signBit % 2 = 1)
  let e := bits / 2 ^ f.fbits % 2 ^ f.ebits
  let m := bits % 2 ^ f.fbits
  if f.f8a && e == 15 && m == 7 then .nan
  else if !f.f8a && e == 2 ^ f.ebits - 1 then (if m = 0 then .inf s else .nan)
  else if e = 0 then .fin s m f.qmin
  else .fin s (2 ^ f.fbits + m) (f.qmin + (e - 1))

/-- Bits of a natural number. -/
def bitLen (n : Nat) : Nat := if n = 0 then 0 else Nat.log2 n + 1

/-- `m / 2^s` rounded by a mode (R92), for a value of the given sign. -/
def roundShift (neg : Bool) (m s : Nat) (rm : Nat) : Nat :=
  let q := m / 2 ^ s
  let r := m % 2 ^ s
  if r = 0 then q
  else match rm with
    | 0 => if 2 * r > 2 ^ s ∨ (2 * r = 2 ^ s ∧ q % 2 = 1) then q + 1 else q
    | 1 => q
    | 2 => if neg then q else q + 1
    | _ => if neg then q + 1 else q

/-- A sign and magnitude bits as a pattern of the format. -/
def Fmt.signed (f : Fmt) (neg : Bool) (mag : Nat) : Nat := if neg then 2 ^ f.signBit + mag else mag

/-- What overflow gives (R93): the magnitude, and whether the saturation flag is set. -/
def Fmt.overflow (f : Fmt) (neg : Bool) (rm : Nat) (sat : Bool) : Nat × Bool :=
  if f.f8a || sat then (f.maxBits, true)
  else match rm with
    | 0 => (f.infBits, false)
    | 1 => (f.maxBits, false)
    | 2 => (if neg then f.maxBits else f.infBits, false)
    | _ => (if neg then f.infBits else f.maxBits, false)

/-- Rounding an exact value once to a format (R10, R92, R93): the pattern and the saturation flag. -/
def Fmt.round (f : Fmt) (rm : Nat) (sat : Bool) : XNum → Nat × Bool
  | .nan => (f.nanBits, false)
  | .inf neg => if f.f8a || sat then (f.signed neg f.maxBits, true) else (f.signed neg f.infBits, false)
  | .fin neg m e =>
    if m = 0 then (f.signed neg 0, false)
    else
      let q := max (e + bitLen m - (f.fbits + 1)) f.qmin
      let r := if q ≤ e then m * 2 ^ (e - q).toNat else roundShift neg m (q - e).toNat rm
      let mag := (q - f.qmin).toNat * 2 ^ f.fbits + r
      if mag > f.maxBits then
        let o := f.overflow neg rm sat
        (f.signed neg o.1, o.2)
      else (f.signed neg mag, false)

def XNum.neg : XNum → XNum
  | .nan => .nan
  | .inf s => .inf !s
  | .fin s m e => .fin (!s) m e

def XNum.isNan : XNum → Bool
  | .nan => true
  | _ => false

/-- The exact product (R94, R103). -/
def XNum.mul : XNum → XNum → XNum
  | .nan, _ => .nan
  | _, .nan => .nan
  | .inf s, .inf t => .inf (s != t)
  | .inf s, .fin t m _ => if m = 0 then .nan else .inf (s != t)
  | .fin s m _, .inf t => if m = 0 then .nan else .inf (s != t)
  | .fin s m e, .fin t n g => .fin (s != t) (m * n) (e + g)

def sgn (neg : Bool) (m : Nat) : Int := if neg then -(m : Int) else m

/-- The exact sum; an exact zero takes its sign by R94 under the mode. -/
def XNum.add (rm : Nat) : XNum → XNum → XNum
  | .nan, _ => .nan
  | _, .nan => .nan
  | .inf s, .inf t => if s = t then .inf s else .nan
  | .inf s, .fin _ _ _ => .inf s
  | .fin _ _ _, .inf t => .inf t
  | .fin s m e, .fin t n g =>
    let q := min e g
    let v := sgn s (m * 2 ^ (e - q).toNat) + sgn t (n * 2 ^ (g - q).toNat)
    if v = 0 then .fin (if s = t then s else rm == 3) 0 q
    else .fin (decide (v < 0)) v.natAbs q

/-- The exact sum of a list, in order; the sum of no terms is +0. -/
def XNum.sum (rm : Nat) : List XNum → XNum
  | [] => .fin false 0 0
  | x :: xs => xs.foldl (XNum.add rm) x

/-- The sign of `a - b` for finite values: below, equal, above as −1, 0, 1. -/
def cmpFin (s : Bool) (m : Nat) (e : Int) (t : Bool) (n : Nat) (g : Int) : Int :=
  let q := min e g
  let d := sgn s (m * 2 ^ (e - q).toNat) - sgn t (n * 2 ^ (g - q).toNat)
  if d < 0 then -1 else if d = 0 then 0 else 1

/-- Comparison of numbers, −0 equal to +0; `none` where either is a NaN (R373, R392). -/
def XNum.cmp : XNum → XNum → Option Int
  | .nan, _ => none
  | _, .nan => none
  | .inf s, .inf t => some (if s = t then 0 else if s then -1 else 1)
  | .inf s, .fin _ _ _ => some (if s then -1 else 1)
  | .fin _ _ _, .inf t => some (if t then 1 else -1)
  | .fin s m e, .fin t n g => some (cmpFin s m e t n g)

def XNum.isNeg : XNum → Bool
  | .nan => false
  | .inf s => s
  | .fin s _ _ => s

/-- The smaller; −0 below +0; NaN where either is (R392, R410). -/
def XNum.min (a b : XNum) : XNum :=
  match XNum.cmp a b with
  | none => .nan
  | some c => if c < 0 then a else if c > 0 then b else if a.isNeg then a else b

def XNum.max (a b : XNum) : XNum :=
  match XNum.cmp a b with
  | none => .nan
  | some c => if c > 0 then a else if c < 0 then b else if a.isNeg then b else a

/-- A quotient of naturals with enough bits, and a last bit that is set where it is inexact. -/
def divSticky (m n : Nat) (e : Int) : Nat × Int :=
  let k := 80 + bitLen n
  let q := m * 2 ^ k / n
  let r := m * 2 ^ k % n
  (2 * q + (if r = 0 then 0 else 1), e - k - 1)

/-- The quotient, rounded by any format alike (R392, R393). -/
def XNum.div : XNum → XNum → XNum
  | .nan, _ => .nan
  | _, .nan => .nan
  | .inf _, .inf _ => .nan
  | .inf s, .fin t _ _ => .inf (s != t)
  | .fin s _ _, .inf t => .fin (s != t) 0 0
  | .fin s m e, .fin t n g =>
    if n = 0 then (if m = 0 then .nan else .inf (s != t))
    else
      let d := divSticky m n (e - g)
      .fin (s != t) d.1 d.2

/-- The integer square root by binary digits. -/
def sqrtAux (n : Nat) : Nat → Nat → Nat
  | 0, r => r
  | k + 1, r =>
    let c := r + 2 ^ k
    if c * c ≤ n then sqrtAux n k c else sqrtAux n k r

def natSqrt (n : Nat) : Nat := sqrtAux n (bitLen n / 2 + 1) 0

/-- The square root (R393, R416). -/
def XNum.sqrt : XNum → XNum
  | .nan => .nan
  | .inf s => if s then .nan else .inf false
  | .fin s m e =>
    if m = 0 then .fin s 0 0
    else if s then .nan
    else
      let k : Nat := if (e % 2 : Int) = 0 then 160 else 161
      let n := m * 2 ^ k
      let r := natSqrt n
      .fin false (2 * r + (if r * r = n then 0 else 1)) ((e - k) / 2 - 1)

/-- An integer as a number. -/
def XNum.ofInt (i : Int) : XNum := .fin (decide (i < 0)) i.natAbs 0

/-- A value rounded to an integer by a mode. -/
def roundInt (rm : Nat) (neg : Bool) (m : Nat) (e : Int) : Int :=
  sgn neg (if 0 ≤ e then m * 2 ^ e.toNat else roundShift neg m (-e).toNat rm)

/-- Conversion to a range of integers (R93, R392): rounded, clamped; a NaN gives 0. With the saturation flag. -/
def XNum.toRange (rm : Nat) (lo hi : Int) : XNum → Int × Bool
  | .nan => (0, true)
  | .inf s => (if s then lo else hi, true)
  | .fin s m e =>
    let i := roundInt rm s m e
    if i < lo then (lo, true) else if i > hi then (hi, true) else (i, false)

/-! ## Functions (R416) -/

/-- Bits after the point of the fixed-point numbers below. -/
def fxBits : Nat := 256

/-- ln 2 · 2^256. -/
def fxLn2 : Int := 0xb17217f7d1cf79abc9e3b39803f2f6af40f343267298b62d8a0d175b8baafa2b

/-- `v · 2^256` of an exact value, cut to an integer. -/
def toFx (neg : Bool) (m : Nat) (e : Int) : Int :=
  let k := e + fxBits
  if 0 ≤ k then sgn neg (m * 2 ^ k.toNat) else sgn neg (m / 2 ^ (-k).toNat)

def fxMul (a b : Int) : Int := a * b / 2 ^ fxBits

/-- Σ r^i / i! from term `i` on. -/
def expSeries (r : Int) : Nat → Nat → Int → Int
  | 0, _, _ => 0
  | k + 1, i, t => t + expSeries r k (i + 1) (fxMul t r / (i + 1))

/-- 2^k · e^r as a number with a sticky last bit. -/
def expFx (k r : Int) : XNum :=
  let v := expSeries r 64 0 (2 ^ fxBits)
  .fin false (2 * v.toNat + 1) (k - fxBits - 1)

/-- e^x (R252, R416): exact at 0; elsewhere not a binary fraction. -/
def XNum.exp : XNum → XNum
  | .nan => .nan
  | .inf s => if s then .fin false 0 0 else .inf false
  | .fin s m e =>
    if m = 0 then .fin false 1 0
    else if e + bitLen m > 8 then (if s then .fin false 1 (-400) else .fin false 1 400)
    else
      let x := toFx s m e
      let k := (2 * x + fxLn2) / (2 * fxLn2)
      if x = 0 then .fin s (2 ^ 300 + (if s then 0 else 1)) (-300)
      else expFx k (x - k * fxLn2)

/-- 2^x. -/
def XNum.exp2 : XNum → XNum
  | .nan => .nan
  | .inf s => if s then .fin false 0 0 else .inf false
  | .fin s m e =>
    if m = 0 then .fin false 1 0
    else if e + bitLen m > 9 then (if s then .fin false 1 (-400) else .fin false 1 400)
    else
      let x := toFx s m e
      let k := (2 * x + 2 ^ fxBits) / 2 ^ (fxBits + 1)
      let r := x - k * 2 ^ fxBits
      if r = 0 then .fin false 1 k else expFx k (fxMul r fxLn2)

/-- Σ z^(2i+1) / (2i+1) from term `i` on. -/
def atanhSeries (z2 : Int) : Nat → Nat → Int → Int
  | 0, _, _ => 0
  | k + 1, i, t => t / (2 * i + 1) + atanhSeries z2 k (i + 1) (fxMul t z2)

/-- ln (m · 2^e) · 2^256 for a positive value. -/
def lnFx (m : Nat) (e : Int) : Int :=
  let l := bitLen m
  -- m · 2^e = y · 2^k with y in [2/3, 4/3)
  let k : Int := if 3 * m < 2 ^ (l + 1) then e + l - 1 else e + l
  let y : Int := toFx false m (e - k)
  let z := (y - 2 ^ fxBits) * 2 ^ fxBits / (y + 2 ^ fxBits)
  2 * atanhSeries (fxMul z z) 64 0 z + k * fxLn2

/-- A fixed-point number with a sticky last bit. -/
def ofFx (v : Int) : XNum := .fin (decide (v < 0)) (2 * v.natAbs + 1) (-(fxBits : Int) - 1)

/-- ln x (R416). -/
def XNum.log : XNum → XNum
  | .nan => .nan
  | .inf s => if s then .nan else .inf false
  | .fin s m e =>
    if m = 0 then .inf true
    else if s then .nan
    else if cmpFin false m e false 1 0 = 0 then .fin false 0 0
    else ofFx (lnFx m e)

/-- log2 x. -/
def XNum.log2 : XNum → XNum
  | .nan => .nan
  | .inf s => if s then .nan else .inf false
  | .fin s m e =>
    if m = 0 then .inf true
    else if s then .nan
    else
      let l := bitLen m - 1
      if m = 2 ^ l then XNum.ofInt (e + l)
      else ofFx (lnFx m e * 2 ^ fxBits / fxLn2)

def one : XNum := .fin false 1 0

/-- 1/x (R416). -/
def XNum.rcp (x : XNum) : XNum := XNum.div one x

/-- 1/√x (R416): ±0 gives ±∞. -/
def XNum.rsqrt : XNum → XNum
  | .fin s m e => if m = 0 then .inf s else XNum.div one (XNum.sqrt (.fin s m e))
  | .inf s => if s then .nan else .fin false 0 0
  | .nan => .nan

/-- One FP32 step of a stated sequence, mode 0. -/
def step32 (x : XNum) : XNum := fp32.decode (fp32.round 0 false x).1

def XNum.abs : XNum → XNum
  | .nan => .nan
  | .inf _ => .inf false
  | .fin _ m e => .fin false m e

/-- TANH (R416): sign(x) · round(round(1 − t) / round(1 + t)), t = EXP(−2|x|). -/
def XNum.tanh (x : XNum) : XNum :=
  match x with
  | .nan => .nan
  | .inf s => .fin s 1 0
  | .fin s m e =>
    if m = 0 then .fin s 0 0
    else
      let t := step32 (XNum.exp (.fin true m (e + 1)))
      let v := step32 (XNum.div (step32 (XNum.add 0 one t.neg)) (step32 (XNum.add 0 one t)))
      if s then v.neg else v

/-- SIGM (R416): RCP(round(1 + EXP(−x))). -/
def XNum.sigm (x : XNum) : XNum :=
  step32 (XNum.rcp (step32 (XNum.add 0 one (step32 (XNum.exp x.neg)))))

end Sys2Proof.Machine
end

