-- ==== Sys2Proof/Machine/Operands.lean ====
section
/-! DEFINITION. Operand forms: the fields of capabilities (R66, R149), pointer bounds (R150, R151), checks of handles (R67,
R72), addresses of tile store (R434), sizes of tiles and classes (R62, R91, R95), and the T-format's regions (R157, R158). -/
namespace Sys2Proof
open Sys2Proof.Machine

/-! ## Capability fields -/

def Cap.space (c : Cap) : BitVec 4 := c.bits.extractLsb' 124 4
def Cap.kind (c : Cap) : BitVec 4 := c.bits.extractLsb' 120 4
def Cap.perms (c : Cap) : BitVec 8 := c.bits.extractLsb' 112 8
def Cap.weight (c : Cap) : Nat := (c.bits.extractLsb' 84 28).toNat
def Cap.xg (c : Cap) : Nat := (c.bits.extractLsb' 76 8).toNat
def Cap.part (c : Cap) : BitVec 5 := c.bits.extractLsb' 64 5
/-- The address field: a base, or a pointer's cursor A. -/
def Cap.addr (c : Cap) : Word64 := c.bits.extractLsb' 0 64
def Cap.hi (c : Cap) : Word64 := c.bits.extractLsb' 64 64
def Cap.exp (c : Cap) : Nat := (c.bits.extractLsb' 106 6).toNat
def Cap.bm (c : Cap) : Nat := (c.bits.extractLsb' 88 18).toNat
def Cap.lm (c : Cap) : Nat := (c.bits.extractLsb' 70 18).toNat

def kPointer : BitVec 4 := 0
def kTile : BitVec 4 := 1
def kBlank : BitVec 4 := 2
def kNull : BitVec 4 := 3

def pR : Nat := 0
def pW : Nat := 1
def pC : Nat := 2
def pD : Nat := 3
def pS : Nat := 4
def pG : Nat := 5
def pL : Nat := 6
def pP : Nat := 7

def Cap.has (c : Cap) (perm : Nat) : Bool := c.perms.getLsbD perm

/-- Tile and blank handles are counted (R68). -/
def Cap.counted (c : Cap) : Bool := c.tag && (c.kind == kTile || c.kind == kBlank)
def Cap.isNull (c : Cap) : Bool := c.tag && c.kind == kNull

/-- A tile or blank handle; reserved bits are zero (R66). -/
def handleCap (space kind : BitVec 4) (perms : BitVec 8) (weight xg : Nat) (part : BitVec 5) (base : Word64) : Cap :=
  ⟨true, space ++ kind ++ perms ++ BitVec.ofNat 28 weight ++ BitVec.ofNat 8 xg ++ 0#7 ++ part ++ base⟩

/-- A pointer capability (R149). -/
def pointerCap (tag : Bool) (space : BitVec 4) (perms : BitVec 8) (e bm lm : Nat) (part : BitVec 5) (cursor : Word64) : Cap :=
  ⟨tag, space ++ 0#4 ++ perms ++ BitVec.ofNat 6 e ++ BitVec.ofNat 18 bm ++ BitVec.ofNat 18 lm ++ 0#1 ++ part ++ cursor⟩

def Cap.withWeight (c : Cap) (w xg : Nat) : Cap :=
  handleCap c.space c.kind c.perms w xg c.part c.addr

def Cap.withKind (c : Cap) (k : BitVec 4) (perms : BitVec 8) (w xg : Nat) : Cap :=
  handleCap c.space k perms w xg c.part c.addr

def Cap.withAddr (c : Cap) (a : Word64) (tag : Bool) : Cap := ⟨tag, c.hi ++ a⟩

/-- W0 of R69. -/
def fullWeight : Nat := 2 ^ 20

/-- A capability with fewer permissions (R342). -/
def Cap.restrict (c : Cap) (mask : BitVec 8) : Cap := ⟨c.tag, c.bits &&& (~~~(0xFF#128 <<< 112) ||| (mask.setWidth 128 <<< 112))⟩

/-- The blank a unique tile's storage becomes (R80, R81). -/
def Cap.asBlank (c : Cap) : Cap := c.withKind kBlank (c.perms ||| 0x12) fullWeight 0

/-- The local test of R77. -/
def Cap.localUnique (c : Cap) : Bool := decide (c.weight = fullWeight) && decide (c.xg = 0)

/-! ## Pointer bounds -/

/-- Decoding base and top (R150). -/
def Cap.bounds (c : Cap) : Nat × Nat :=
  let w := c.exp + 18
  let a := c.addr.toNat
  let hi : Nat := a / 2 ^ w
  let hi' : Int := if a / 2 ^ c.exp % 2 ^ 18 < c.bm then (hi : Int) - 1 else hi
  let base : Nat := ((hi' * 2 ^ w + c.bm * 2 ^ c.exp) % 2 ^ 64).toNat
  (base, base + c.lm * 2 ^ c.exp)

/-- Whether a cursor lies where the decoded bounds stay right (R150). -/
def representable (base w : Nat) (cursor : Nat) : Bool := decide (base ≤ cursor) && decide (cursor < base + 2 ^ w)

/-- A pointer with its cursor replaced; unrepresentable, its tag is clear (R150). -/
def Cap.setCursor (c : Cap) (a : Word64) : Cap :=
  let b := c.bounds.1
  c.withAddr a (c.tag && representable b (c.exp + 18) a.toNat && decide ((c.withAddr a true).bounds = c.bounds))

/-- Encoding bounds (R343): E, Bm, Lm and the bounds rounded outward, by trying exponents from `e` on. -/
def encodeBounds (b t : Nat) : Nat → Nat → Option (Nat × Nat × Nat × Nat × Nat)
  | 0, _ => none
  | fuel + 1, e =>
    let lo := b / 2 ^ e
    let hi := (t + 2 ^ e - 1) / 2 ^ e
    if hi - lo ≤ 0x3FFFF then some (e, lo % 2 ^ 18, hi - lo, lo * 2 ^ e, hi * 2 ^ e)
    else encodeBounds b t fuel (e + 1)

/-- A pointer with exactly these bounds where they can be encoded, else the least that holds them. -/
def boundedCap (space : BitVec 4) (perms : BitVec 8) (part : BitVec 5) (base len cursor : Nat) : Cap :=
  match encodeBounds base (base + len) 47 0 with
  | some (e, bm, lm, _, _) => pointerCap true space perms e bm lm part (BitVec.ofNat 64 cursor)
  | none => nullCap

/-- A pointer whose fields may be used (R66, R149). -/
def Cap.pointerOk (c : Cap) : Bool :=
  c.tag && c.kind == kPointer && decide (c.exp ≤ 46) && !c.bits.getLsbD 69 && decide (c.space.toNat < 8)

/-- The directory key of a handle's storage (R64). -/
def dirKey (space : BitVec 4) (part : BitVec 5) (base : Word64) : Nat :=
  2 ^ 64 * (32 * space.toNat + part.toNat) + base.toNat

def Cap.key (c : Cap) : Nat := dirKey c.space c.part c.addr

end Sys2Proof

namespace Sys2Proof.Machine
open Sys2Proof

/-! ## Checks of a handle -/

/-- Tag and partition (R67); the null handle belongs to no partition. -/
def checkCap (c : Cap) : Act Unit := do
  let k ← getCore
  need c.tag .capability 0 c.addr
  need (decide (c.space.toNat < 8) && decide (c.kind.toNat < 4)) .capability 0 c.addr
  need (c.isNull || some c.part == k.part) .partition 0 c.addr

/-- As `checkCap`, for a form that raises a capability violation for another partition's value too (R266, R268, R303, R402, R417). -/
def checkOwn (c : Cap) : Act Unit := do
  let k ← getCore
  need (c.tag && decide (c.space.toNat < 8) && decide (c.kind.toNat < 4) && (c.isNull || some c.part == k.part)) .capability 0 c.addr

/-- Tag, partition and kind (R72). -/
def checkKind (c : Cap) (kinds : List (BitVec 4)) : Act Unit := do
  checkCap c
  need (kinds.contains c.kind) .capability 0 c.addr
  need (c.kind != kPointer || c.pointerOk) .capability 0 c.addr

def checkPerm (c : Cap) (perm : Nat) : Act Unit := need (c.has perm) .capability 0 c.addr

def checkSpace (c : Cap) (spaces : List Nat) : Act Unit := need (spaces.contains c.space.toNat) .capability 0 c.addr

/-- An access of n bytes at an address through a pointer (R151). -/
def checkBounds (c : Cap) (a n : Nat) : Act Unit :=
  need (decide (c.bounds.1 ≤ a) && decide (a + n ≤ c.bounds.2)) .capability 0 (BitVec.ofNat 64 a)

/-! ## Storage -/

def classSize (k : Nat) : Nat := 256 * 2 ^ k

/-- Byte size of a CB4 tile's groups (R95). -/
def cb4Bytes (rows cols : Nat) : Nat :=
  let blocks := cols * (rows / 64)
  let full := blocks / 256
  let nb := blocks % 256
  full * 8452 + (if nb = 0 then 0 else 4 + nb + 32 * nb)

def roundUp (n m : Nat) : Nat := (n + m - 1) / m * m

/-- The byte size of a tile (R91). -/
def tileBytes (rows cols fmt : Nat) : Nat :=
  roundUp (match fmtBytes fmt with | some w => w * rows * cols | none => cb4Bytes rows cols) 256

/-- The shape in a SEAL record about a storage. -/
def HomeMsg.shape? : HomeMsg → Option (Nat × Nat × Nat)
  | .seal rows cols fmt => some (rows, cols, fmt)
  | _ => none

/-- The shape in the latest SEAL record about a storage that has not reached its home: the tile has it from the SEAL's issue on (R82). -/
def State.sealing (s : State) (key : Nat) : Option (Nat × Nat × Nat) :=
  ((s.stores.inbox.filterMap fun r => if r.key = key then r.msg.shape? else none) ++
    (s.cores.flatMap fun e => e.2.kept.filterMap fun m => if m.key = key then m.msg.shape? else none)).getLast?

/-- A tile's entry, with the shape the tile has. -/
def State.tileEntry (s : State) (key : Nat) : DirEntry :=
  let e := s.dirEntry key
  match s.sealing key with
  | some (rows, cols, fmt) => { e with rows := rows, cols := cols, fmt := fmt }
  | none => e

/-- The bytes of a handle's storage: a tile's byte size, a blank's class size (R91, R151). -/
def State.handleBytes (s : State) (c : Cap) : Nat :=
  let e := s.tileEntry c.key
  if c.kind == kTile then tileBytes e.rows e.cols e.fmt else classSize e.cls

/-- Splitting a space-1 address into core and offset (R434); `none` where no byte has the address. -/
def tileAddr (a : Nat) : Option (Nat × Nat) :=
  let core := a / 2 ^ 32
  let off := a % 2 ^ 32
  if core < 160 ∧ off < tileStoreSize core then some (core, off) else none

/-- A byte range of tile store: its core and the memory address of its first byte. -/
def tileRange (a n : Nat) : Option (Nat × Nat) :=
  match tileAddr a with
  | some (core, off) => if off + n ≤ tileStoreSize core then some (core, tileAt core off) else none
  | none => none

/-- A fixed-cycle access to tile store (R434): the issuing core's own. -/
def fixedTile (a n : Nat) : Act Nat := do
  let s ← get
  match tileRange a n with
  | some (core, at_) => do
    need (decide (core = s.cur.1)) .capability 0 (BitVec.ofNat 64 a)
    pure at_
  | none => fault .capability 0 (BitVec.ofNat 64 a)

/-- A private-memory access (R156, R227, R361): alignment and bounds. -/
def checkPrivate (a : Word64) (n : Nat) : Act Unit :=
  need (decide (a.toNat % n = 0) && decide (a.toNat + n ≤ 0x100000)) .capability 0 a

/-- A 16-byte stack access's checks (R156): the stack pointer aligned, the stack in order. -/
def stackOk (q : Seq) (sp : Word64) : Bool := decide (sp.toNat % 16 = 0) && decide (q.stlimit.toNat ≤ q.stbase.toNat)

/-! ## T-format regions (R157, R158) -/

/-- Coordinate k of an access: x(f + k) for k < n, 0 beyond. -/
def coordsOf (k : Core) (f : BitVec 4) (cnt : BitVec 3) : List (BitVec 32) :=
  (List.range (cnt.toNat + 1)).map fun i => k.xreg (f.toNat + i)

/-- The index vector of element (i, j) (R157). -/
def indexAt (r : Region) (i j : Nat) : List Int :=
  (List.range r.geom.rank).map fun k =>
    let c : Int := (r.coords.getD k 0).toInt
    if k = 0 then c + j else if k = 1 then c + i else c

/-- Whether an element lies outside its tensor (R158). -/
def outside (r : Region) (i j : Nat) : Bool :=
  ((indexAt r i j).zip r.geom.extents).any fun p => decide (p.1 < 0) || decide ((p.2 : Int) ≤ p.1)

/-- The first byte of element (i, j), modulo 2^64 (R157). -/
def elementAddr (r : Region) (i j : Nat) : Nat :=
  let sum := ((indexAt r i j).zip r.geom.strides).foldl (fun a p => a + p.1 * p.2) (0 : Int)
  (((r.cap.addr.toNat : Int) + sum) % 2 ^ 64).toNat

def Region.width (r : Region) : Nat := (fmtBytes r.geom.fmt).getD 0

/-- Where the perm flag puts a tile-store offset (R159). -/
def permute (perm : BitVec 8) (o : Nat) : Nat :=
  let bank := (o / 256 + (perm.toNat % 16) * (o / 4096 % 16) + perm.toNat / 16) % 16
  o / 4096 * 4096 + bank * 256 + o % 256

/-- The elements of a region in row-major order. -/
def cellsOf (rows cols : Nat) : List (Nat × Nat) :=
  (List.range rows).flatMap fun i => (List.range cols).map fun j => (i, j)

/-- The bounds of a region's base (R402). -/
def State.baseBounds (s : State) (c : Cap) : Nat × Nat :=
  if c.kind == kPointer then c.bounds else (c.addr.toNat, c.addr.toNat + s.handleBytes c)

/-- The checks of a region's elements at issue (R157, R158): every inside element within the base's bounds, and with clip
no outside one. -/
def checkRegion (r : Region) : Act Unit := do
  let s ← get
  let b := s.baseBounds r.cap
  let w := r.width
  let bad := (cellsOf r.rows r.cols).find? fun p =>
    if outside r p.1 p.2 then r.clip
    else
      let a := elementAddr r p.1 p.2
      !(decide (b.1 ≤ a) && decide (a + w ≤ b.2))
  match bad with
  | some p => fault .capability 0 (BitVec.ofNat 64 (elementAddr r p.1 p.2))
  | none => pure ()

end Sys2Proof.Machine
end

