-- ==== Sys2Proof/Machine/Flags.lean ====
section
/-! DEFINITION. Conditions and flags: the guard of a word (R108), scalar comparisons (R124, R382), lane comparisons (R373,
R412), waits on cells (R176), and the status bits of conversions and drains (R93, R104, R105). -/
namespace Sys2Proof.Machine
open Sys2Proof

/-- Whether a word is guarded on (R108). -/
def guardOn (q : Seq) (g : Guard) : Bool := q.pred g.p != (g.neg == 1)

def boolWord (b : Bool) : Word64 := if b then 1 else 0

/-! ## Scalar conditions (R124, R382) -/

def condEq (a b : Word64) : Bool := a == b
def condNe (a b : Word64) : Bool := a != b
def condLt (a b : Word64) : Bool := a.slt b
def condLtu (a b : Word64) : Bool := a.ult b
def condGe (a b : Word64) : Bool := !(a.slt b)
def condGeu (a b : Word64) : Bool := !(a.ult b)

/-! ## Lane conditions (R373, R412) -/

inductive Cond where
  | eq | ne | lt | ge
  deriving DecidableEq, Repr

def Cond.ofSign : Cond → Option Int → Bool
  | .eq, some c => decide (c = 0)
  | .ne, some c => decide (c ≠ 0)
  | .lt, some c => decide (c < 0)
  | .ge, some c => decide (0 ≤ c)
  | .ne, none => true
  | _, none => false

def intSign (a b : Int) : Option Int := some (if a < b then -1 else if a = b then 0 else 1)

/-- The order of two elements of a lane type (R123): its width's bits `a` and `b`; `none` where a NaN takes part. -/
def elemCmp (ty : Nat) (a b : Nat) : Option Int :=
  match ty with
  | 0 => intSign (BitVec.ofNat 32 a).toInt (BitVec.ofNat 32 b).toInt
  | 1 => intSign a b
  | 2 => XNum.cmp (fp32.decode a) (fp32.decode b)
  | 3 => XNum.cmp (bf16.decode a) (bf16.decode b)
  | 4 => XNum.cmp (fp16.decode a) (fp16.decode b)
  | 5 => intSign (BitVec.ofNat 16 a).toInt (BitVec.ofNat 16 b).toInt
  | 6 => intSign (BitVec.ofNat 8 a).toInt (BitVec.ofNat 8 b).toInt
  | _ => intSign a b

/-! ## Waits on cells (R176) -/

/-- The condition of a WAITV's fn. -/
def cellCond (fn : Nat) (cell sb : Word64) : Bool :=
  match fn with
  | 0 => cell == sb
  | 1 => cell != sb
  | 2 => !(cell.slt sb)
  | 3 => cell.slt sb
  | 4 => (cell &&& sb) != 0
  | _ => (cell &&& sb) == 0

/-! ## Status bits -/

/-- Bits of a drained element (R104): saturation, infinity, NaN. -/
def drainFlags (fmt : Nat) (bits : Nat) (sat : Bool) : BitVec 3 :=
  let n : XNum := match fmtOf fmt with | some f => f.decode bits | none => .fin false 0 0
  let inf : Bool := match n with | .inf _ => true | _ => false
  (if sat then 4#3 else 0) ||| (if inf then 2#3 else 0) ||| (if n.isNan then 1#3 else 0)

/-- A status entry after a drain (R104). -/
def drainStatus (rows : Nat) (flags : BitVec 3) : Word64 :=
  (BitVec.ofNat 64 (rows - 1) <<< 8) ||| flags.setWidth 64

/-- Entry 16 once a vector result has saturated or been clamped (R105). -/
def satStatus (v : Word64) : Word64 := v ||| 4

/-- Converting an accumulator word to a format (R93, R311): its bits, and whether it saturated. Columns are FP32 for floating
formats and INT32 for the integer ones. -/
def convertAcc (fmt rm : Nat) (sat : Bool) (v : BitVec 32) : Nat × Bool :=
  match fmtOf fmt with
  | some f => f.round rm sat (fp32.decode v.toNat)
  | none =>
    let r := XNum.toRange rm (if fmt = 5 then -128 else -(2 ^ 31 : Int)) (if fmt = 5 then 127 else 2 ^ 31 - 1) (XNum.ofInt v.toInt)
    ((r.1 % 2 ^ (if fmt = 5 then 8 else 32)).toNat, r.2)

end Sys2Proof.Machine
end

