-- ==== Sys2Proof/Machine/Sums.lean ====
section
/-! DEFINITION. What the matrix engine computes: operands from slot bytes (R91, R95), the order of sums (R99-R103). -/
namespace Sys2Proof.Machine
open Sys2Proof

/-- Fields of a format word (R97). -/
def fwA (f : Word64) : Nat := (f.extractLsb' 60 4).toNat
def fwB (f : Word64) : Nat := (f.extractLsb' 56 4).toNat
def fwAcc (f : Word64) : Nat := (f.extractLsb' 52 4).toNat
def fwMode (f : Word64) : Nat := (f.extractLsb' 50 2).toNat

/-- The accepted format words (R98). -/
def formatWordOk (attention : Bool) (f : Word64) : Bool :=
  f.extractLsb' 0 50 == 0 &&
  ((fwA f == 1 && fwB f == 1 && fwAcc f == 0 && fwMode f == 0) ||
   ((fwA f == 3 || fwA f == 4) && (fwB f == 3 || fwB f == 4) && fwAcc f == 0 && (fwMode f == 0 || fwMode f == 2)) ||
   (fwA f == 3 && fwB f == 6 && fwAcc f == 0 && fwMode f == 1 && !attention) ||
   (fwA f == 5 && fwB f == 5 && fwAcc f == 7 && fwMode f == 0))

/-- `n` bytes of a list from an offset on, as a number. -/
def bytesAt (bs : List Byte) (off n : Nat) : Nat := leNat ((bs.drop off).take n)

/-- Element k of a list of w-byte elements. -/
def elemAt (bs : List Byte) (w k : Nat) : Nat := bytesAt bs (w * k) w

/-- Levels of CB4, in units of 1/64 (R95). -/
def cb4Level (code : Nat) : Int :=
  [-64, -45, -35, -27, -20, -14, -8, -3, 3, 8, 14, 20, 27, 35, 45, 64].getD code 0

/-- Group scale, block scale byte and codes of block j of a CB4 tile with `total` blocks (R95). -/
structure Cb4Block where
  g     : Nat
  b     : Nat
  codes : List Nat
  deriving DecidableEq, Repr

def cb4Block (bs : List Byte) (total j : Nat) : Cb4Block :=
  let go := 8452 * (j / 256)
  let r := j % 256
  let nb := min 256 (total - 256 * (j / 256))
  let co := go + 4 + nb + 32 * r
  { g := bytesAt bs go 4, b := bytesAt bs (go + 4 + r) 1
    codes := (List.range 64).map fun i =>
      let byte := bytesAt bs (co + i / 2) 1
      if i % 2 = 0 then byte % 16 else byte / 16 }

/-- acc ← round(acc + x, mode 0) (R99). -/
def accAdd (acc : BitVec 32) (x : XNum) : BitVec 32 :=
  BitVec.ofNat 32 (fp32.round 0 false (XNum.add 0 (fp32.decode acc.toNat) x)).1

/-- One FP32 rounding in mode 0. -/
def round32 (x : XNum) : XNum := fp32.decode (fp32.round 0 false x).1

/-- A block's contribution t (R100). -/
def cb4Term (blk : Cb4Block) (a : List XNum) : XNum :=
  if blk.b = 0 then .fin false 0 0
  else
    let s := XNum.sum 0 ((blk.codes.zip a).map fun p =>
      XNum.mul (.fin (decide (cb4Level p.1 < 0)) (cb4Level p.1).natAbs (-6)) p.2)
    round32 (XNum.mul (XNum.mul s (fp32.decode blk.g)) (.fin false blk.b (-8)))

/-- Runs of 8 (R99). -/
def runsOf (l : List XNum) : Nat → List (List XNum)
  | 0 => []
  | n + 1 => if l.isEmpty then [] else l.take 8 :: runsOf (l.drop 8) n

/-- The operand row m of A as numbers, read transposed with ta (R310). -/
def rowOf (fmt : Nat) (bs : List Byte) (cols m k : Nat) (ta : Bool) : List Nat :=
  (List.range k).map fun i => elemAt bs ((fmtBytes fmt).getD 1) (if ta then i * cols + m else m * cols + i)

/-- Column n of B (R310). -/
def colOf (fmt : Nat) (bs : List Byte) (cols n k : Nat) : List Nat :=
  (List.range k).map fun i => elemAt bs ((fmtBytes fmt).getD 1) (i * cols + n)

def num (fmt bits : Nat) : XNum := match fmtOf fmt with | some f => f.decode bits | none => .nan

def int8 (bits : Nat) : Int := (BitVec.ofNat 8 bits).toInt

/-- One output element of an MMA (R99-R103): K steps, start value acc. -/
def mmaElement (fw : Word64) (arow bcol : List Nat) (blocks : List Cb4Block) (scale : Option XNum) (acc : BitVec 32) : BitVec 32 :=
  if fwA fw = 5 then
    acc + BitVec.ofInt 32 ((arow.zip bcol).foldl (fun t p => t + int8 p.1 * int8 p.2) 0)
  else
    let av := arow.map (num (fwA fw))
    if fwMode fw = 1 then
      (blocks.zip (List.range blocks.length)).foldl (fun acc p => accAdd acc (cb4Term p.1 ((av.drop (64 * p.2)).take 64))) acc
    else
      let prods := (av.zip bcol).map fun p => XNum.mul p.1 (num (fwB fw) p.2)
      (runsOf prods prods.length).foldl (fun acc run =>
        let s := XNum.sum 0 run
        accAdd acc (match scale with | some g => round32 (XNum.mul s g) | none => s)) acc

/-- Result row m of an MMA, from the accumulator's row (R310). -/
def mmaRow (core : Nat) (fw : Word64) (c : MatCmd) (k : Nat) (ta : Bool) (m : Nat) (start : List (BitVec 32)) : List (BitVec 32) :=
  let arow := rowOf (fwA fw) c.a c.acols m k ta
  let scale := if fwMode fw = 2 then
      some (fp32.decode (bytesAt c.a ((if isAttention core then slotSize core - 512 else slotSize core - 1024) + 4 * m) 4))
    else none
  let per := c.brows / 64
  (start.zip (List.range c.n)).map fun p =>
    let blocks := if fwMode fw = 1 then (List.range (k / 64)).map fun kb => cb4Block c.b (c.n * per) (p.2 * per + kb) else []
    let bcol := if fwMode fw = 1 then [] else colOf (fwB fw) c.b c.n p.2 k
    mmaElement fw arow bcol blocks scale p.1

end Sys2Proof.Machine
end

