-- ==== Sys2Proof/Machine/Xlate.lean ====
section
/-! DEFINITION. HBM addresses: the heap range and the page table (R160, R161), the TLB and the walk (R162), an access divided
into parts (R432), the grant (R160, R322), and reads that see the KV write-combining queues (R258). -/
namespace Sys2Proof.Machine
open Sys2Proof

/-- Whether a physical range lies in a stack: every one of the 40 holds 96 GiB (R19, R148). -/
def inStack (pa n : Nat) : Bool := decide (pa / 2 ^ 37 < 40) && decide (pa % 2 ^ 37 + n ≤ 3 * 2 ^ 35)

/-- Whether a physical range lies in a partition's HBM grant (R148, R160). -/
def State.granted (s : State) (part : BitVec 5) (pa n : Nat) : Bool :=
  inStack pa n && (s.part part).grant.hbm.any fun r => decide (r.1 ≤ pa) && decide (pa + n ≤ r.1 + r.2)

/-- Where a physical address's line lies while its page migrates: a line that has been copied is at the new frame (R166). -/
def State.forward (s : State) (pa : Nat) : Nat :=
  match s.stores.migrations.find? fun m => decide (m.old ≤ pa) && decide (pa < m.old + m.copied) with
  | some m => m.new + (pa - m.old)
  | none => pa

/-- The die that holds an address of HBM or of tile store (R148, R434). -/
def dieOfAddr (a : Nat) : Option Nat :=
  if a < 40 * 2 ^ 37 then some (dieOfStack (a / 2 ^ 37))
  else if 2 ^ 44 ≤ a ∧ a < 2 ^ 45 then some (dieOf ((a - 2 ^ 44) / 2 ^ 25))
  else none

/-- The die in reset that an access to an address would reach: the access is discarded (R241). -/
def State.downAt (s : State) (a : Nat) : Option Nat :=
  match dieOfAddr a with
  | some d => if (s.die d).state = .reset then some d else none
  | none => none

/-- The issuing core's sticky bits of dies in reset that discarded an access (R302). -/
def State.markDies (s : State) (core : Nat) (ds : List Nat) : State :=
  if 160 ≤ core then s
  else s.setCore core { s.core core with dieBits := ds.foldl (fun b d => b ||| (1#34 <<< d)) (s.core core).dieBits }

/-- How a walk of the page table ends (R162). -/
inductive WalkEnd where
  | leaf (log2 pa : Nat) (r w dirty : Bool) (entry : Nat) -- page size, frame, permissions, physical address of the entry
  | absent (swapped : Bool)
  | malformed
  deriving DecidableEq, Repr

/-- Page size at a level, and the count of index bits (R161). -/
def levelShift (l : Nat) : Nat := if l = 0 then 36 else if l = 1 then 30 else if l = 2 then 21 else 16
def levelBits (l : Nat) : Nat := if l = 0 then 16 else if l = 1 then 6 else if l = 2 then 9 else 5

def entryReservedOk (e : Word64) : Bool :=
  e.extractLsb' 43 20 == 0 && e.extractLsb' 7 4 == 0 && e.extractLsb' 3 2 == 0

/-- A page-table entry where it now lies (R166). -/
def State.pte (s : State) (entry : Nat) : Word64 := s.mem.read64 (hbmAt (s.forward entry))

/-- The walk from a table of level `l` on; `fuel` levels are left. An entry that is neither valid nor swapped ends it whatever its other
bits are (log 97). -/
def walkFrom (s : State) (part : BitVec 5) (va : Nat) : Nat → Nat → Nat → WalkEnd
  | 0, _, _ => .malformed
  | fuel + 1, l, table =>
    let at_ := table + 8 * (va / 2 ^ levelShift l % 2 ^ levelBits l)
    let e := s.pte at_
    let v := e.getLsbD 0
    let pa := (e.extractLsb' 16 27).toNat * 2 ^ 16
    if !v && !e.getLsbD 63 then .absent false
    else if !entryReservedOk e || (e.extractLsb' 11 5 != part) || (v && l == 3 && !e.getLsbD 6) ||
        (v && e.getLsbD 6 && decide (pa % 2 ^ levelShift l ≠ 0)) then .malformed
    else if !v then .absent true
    else if e.getLsbD 6 then .leaf (levelShift l) pa (e.getLsbD 1) (e.getLsbD 2) (e.getLsbD 5) at_
    else walkFrom s part va fuel (l + 1) pa

/-- The walk of a partition's page table (R161). -/
def State.walk (s : State) (part : BitVec 5) (va : Nat) : WalkEnd :=
  walkFrom s part va 4 0 (s.part part).grant.root

/-- One part of an access: its virtual address, physical address and length. -/
structure Part where
  va  : Nat
  pa  : Nat
  len : Nat
  deriving DecidableEq, Repr

/-- How an access's translation stands (R162, R432). -/
inductive Xl where
  | ok (parts : List Part)
  | miss (va : Nat)
  | bad (cls : FaultClass) (va : Nat)
  deriving DecidableEq, Repr

def tlbHit (k : Core) (va : Nat) (write : Bool) : Option Nat :=
  match k.tlb.find? fun e => decide (e.va ≤ va) && decide (va < e.va + 2 ^ e.log2) &&
      (if write then e.w && e.dirty else e.r) with
  | some e => some (e.pa + (va - e.va))
  | none => none

/-- Whether an address lies in the core's heap range (R160). -/
def Core.inHeap (k : Core) (va : Nat) : Bool := decide (k.heapbase.toNat ≤ va) && decide (va < k.heaplimit.toNat)

/-- The translation of one part. `table` says to use the page table in place of the TLB. -/
def xlatePart (s : State) (core va len : Nat) (write table : Bool) : Xl :=
  let k := s.core core
  let part := k.part.getD 0
  let check := fun pa => if s.granted part pa len then Xl.ok [⟨va, s.forward pa, len⟩] else Xl.bad .partition va
  if k.inHeap va then check ((va + k.heapoffset.toNat) % 2 ^ 64)
  else if va ≥ 2 ^ 52 then .bad .capability va
  else if table then
    match s.walk part va with
    | .leaf log2 pa r w _ _ => if (if write then w else r) then check (pa + va % 2 ^ log2) else .bad .capability va
    | .absent false => .bad .capability va
    | .absent true => .bad .majorTrans va
    | .malformed => .bad .partition va
  else match tlbHit k va write with
    | some pa => check pa
    | none => .miss va

/-- Where an access that begins at `va` is divided next: page and heap-range boundaries (R432), and lines while a page migrates
(R166). -/
def partLen (k : Core) (lines : Bool) (va n : Nat) : Nat :=
  let page := if lines then 2 ^ 8 - va % 2 ^ 8 else 2 ^ 16 - va % 2 ^ 16
  let cut := fun b l => if va < b ∧ b < va + l then b - va else l
  cut k.heapbase.toNat (cut k.heaplimit.toNat (min n page))

def Xl.append : Xl → Xl → Xl
  | .ok a, .ok b => .ok (a ++ b)
  | .ok _, x => x
  | .miss v, .bad c w => if c = .majorTrans then .miss v else .bad c w
  | x, _ => x

def xlateFrom (s : State) (core : Nat) (write table : Bool) : Nat → Nat → Nat → Xl
  | 0, _, _ => .ok []
  | fuel + 1, va, n =>
    if n = 0 then .ok []
    else
      let va := va % 2 ^ 64
      let l := partLen (s.core core) (!s.stores.migrations.isEmpty) va n
      (xlatePart s core va l write table).append (xlateFrom s core write table fuel (va + l) (n - l))

/-- The translation of an access by the TLB and the heap range (R160, R162, R432). -/
def State.xlate (s : State) (core va n : Nat) (write : Bool) : Xl :=
  xlateFrom s core write false (n / 2 ^ 8 + 4) va n

/-- The translation the page table gives, whatever the TLB holds. -/
def State.xlateTable (s : State) (core va n : Nat) (write : Bool) : Xl :=
  xlateFrom s core write true (n / 2 ^ 8 + 4) va n

/-! ## Reading HBM -/

def inSeg (pa : Nat) (p : Nat × List Byte) : Option Byte :=
  if p.1 ≤ pa ∧ pa < p.1 + p.2.length then p.2[pa - p.1]? else none

/-- A byte of HBM as a reader sees it: from the stack's write-combining queue, the newest entry first, or from the bank
(R258). -/
def State.hbmByte (s : State) (pa : Nat) : Byte :=
  let q := Tbl.get [] s.stores.kvq (pa / 2 ^ 37)
  match q.reverse.findSome? fun e => e.bytes.findSome? (inSeg pa) with
  | some b => b
  | none => s.mem.byte (hbmAt pa)

def State.hbmRead (s : State) (pa : Nat) : Nat → List Byte
  | 0 => []
  | n + 1 => s.hbmByte pa :: s.hbmRead (pa + 1) n

def State.readParts (s : State) (ps : List Part) : List Byte := ps.flatMap fun p => s.hbmRead p.pa p.len

/-- The first poisoned granule of an access's parts, as a virtual address (R87). -/
def State.partsPoison (s : State) (ps : List Part) : Option Nat :=
  ps.findSome? fun p =>
    match s.mem.firstPoison (hbmAt p.pa) p.len with
    | some a => some ((p.va + (max a p.pa - p.pa)) / 16 * 16)
    | none => none

/-- Writes bytes over an access's parts in order. -/
def writeParts (m : Memory) : List Part → List Byte → Memory
  | [], _ => m
  | p :: ps, bs => writeParts (m.write (hbmAt p.pa) (bs.take p.len)) ps (bs.drop p.len)

/-- Whether PTC lies in a refresh window (R20), and when that window closes. -/
def refreshOpen (ptc : Nat) : Bool := decide (ptc % 5072 < 416)
def refreshClose (ptc : Nat) : Nat := ptc / 5072 * 5072 + 416

/-! ## TLB -/

/-- The TLB entry of a leaf; a write leaves its page dirty (R162, R167). -/
def leafEntry (va log2 pa : Nat) (r w dirty : Bool) : TlbEntry :=
  { va := va / 2 ^ log2 * 2 ^ log2, log2 := log2, pa := pa, r := r, w := w, dirty := dirty }

/-- A core's TLB is filled with an entry, in place of one for the same page. -/
def State.putTlb (s : State) (core : Nat) (t : TlbEntry) : State :=
  let k := s.core core
  s.setCore core { k with tlb := t :: (k.tlb.filter fun e => !decide (e.va = t.va ∧ e.log2 = t.log2)) }

/-- PAMO.CAS on a page-table entry, which sets its dirty bit (R167); `none`: the entry is not what was read. -/
def State.casDirty (s : State) (entry : Nat) (was : Word64) : Option State :=
  if s.pte entry = was then some { s with mem := s.mem.write64 (hbmAt (s.forward entry)) (was ||| 0x20) } else none

end Sys2Proof.Machine
end

