-- ==== Sys2Proof/Machine/Storage.lean ====
section
/-! DEFINITION. Counted storage as the cores see it: home porters (R63), borrows (R83), messages to homes in issue order (R65),
weight going home (R76, R86), outstanding writes (R82), free lists (R62), and entries of engine queues (R40). -/
namespace Sys2Proof.Machine
open Sys2Proof

/-- Space, partition and base of a directory key. -/
def keySpace (key : Nat) : BitVec 4 := BitVec.ofNat 4 (key / 2 ^ 64 / 32)
def keyPart (key : Nat) : BitVec 5 := BitVec.ofNat 5 (key / 2 ^ 64)
def keyBase (key : Nat) : Nat := key % 2 ^ 64

/-- Where a partition's page table puts an HBM virtual address. -/
def State.physical (s : State) (part : BitVec 5) (va : Nat) : Option Nat :=
  match s.walk part va with
  | .leaf log2 pa _ _ _ _ => some (pa + va % 2 ^ log2)
  | _ => none

/-- The physical address of an HBM storage's base: as its entry has it for the storage's life (R63), else as the page table gives it. -/
def State.homePa (s : State) (key : Nat) : Option Nat :=
  let e := s.dirEntry key
  if e.state = .free then s.physical (keyPart key) (keyBase key) else some e.pa

/-- The lowest stack of a core's die (R148). -/
def ownStack (core : Nat) : Nat := if isAttention core then 24 + 2 * (dieOf core - 24) else dieOf core

/-- The home porter of a storage (R63, R434): the bank that bits 11:8 of its base's offset name, as R159 numbers banks, or the channel
pair of its base (log 6). A base that the page table does not map counts as on the core's own die. -/
def State.homePorter (s : State) (core key : Nat) : Nat × Nat :=
  if keySpace key = 1 then (40 + keyBase key / 2 ^ 32 % 256, keyBase key / 2 ^ 8 % 16)
  else match s.homePa key with
    | some pa => (pa / 2 ^ 37, Config.hbmChannel pa % 16)
    | none => (ownStack core, 0)

def porterDie (p : Nat × Nat) : Nat := if p.1 < 40 then dieOfStack p.1 else dieOf (p.1 - 40)

/-- The die of a storage's home. -/
def State.homeDie (s : State) (core key : Nat) : Nat := porterDie (s.homePorter core key)

/-- dh of R78. -/
def State.dH (s : State) (core : Nat) (c : Cap) : Nat := s.dist (dieOf core) (s.homeDie core c.key)

/-- Whether a handle's home is on another package (R295): space 6, and not this package's number. -/
def State.remoteHome (s : State) (c : Cap) : Bool := c.space == 6 && c.addr.toNat / 2 ^ 58 != s.tt.pkg

/-- A counted handle away from its home may be duplicated, merged, moved, dropped, tested and sent: this is any other use (R295). -/
def checkNear (c : Cap) : Act Unit := do
  let s ← get
  need (!(c.counted && s.remoteHome c)) .capability 0 c.addr

/-- Engine-queue entries of a core that borrow a storage (R83). -/
def Core.borrowIds (k : Core) (key : Nat) : List Nat :=
  (k.eng.flatMap fun q => q.2.filter fun e => e.borrows.any fun c => c.counted && c.key == key).map EngEntry.id

/-- Engine-queue entries of a core that hold a storage, be it only to write it (R83, R403). -/
def Core.holderIds (k : Core) (key : Nat) : List Nat :=
  (k.eng.flatMap fun q => q.2.filter fun e =>
    e.borrows.any (fun c => c.counted && c.key == key) || e.writes.any (fun c => c.counted && c.key == key)).map EngEntry.id

/-- Whether the core has a borrow of the storage outstanding (R83). -/
def Core.borrowed (k : Core) (key : Nat) : Bool := !(k.borrowIds key).isEmpty

/-- Whether a result in flight marks the borrow of a storage by a command with a fixed perform cycle (R83, R435). -/
def Latch.borrows (l : Latch) (key : Nat) : Bool :=
  match l.eff with
  | .drop c => c.counted && c.key == key
  | .borrow c => c.counted && c.key == key
  | _ => false

/-- Commands of a core with a fixed perform cycle that borrow a storage, be its handle in a register or popped from hq (R83, R435). -/
def State.fixedIds (s : State) (core key : Nat) : List Nat :=
  match s.consistOf core with
  | none => []
  | some k => (((s.cons k).latches ++ (s.cons k).parked).filter fun l => decide (l.core = core) && l.borrows key).map Latch.id

/-- The porter a message goes to: the storage's home, or the one that keeps a free list (R62, R63). -/
def State.porterOfMsg (s : State) (core key : Nat) : HomeMsg → Nat × Nat
  | .alloc _ place _ => if place < 256 then (40 + place, 0) else (place - 256, 0)
  | _ => s.homePorter core key

/-- A message leaves a core for a home porter (R65, R78, R79). -/
def State.sendHome (s : State) (core key : Nat) (msg : HomeMsg) (id : Nat) : State :=
  let p := s.porterOfMsg core key msg
  let n := match msg with | .alloc _ _ lead => lead | _ => s.dist (dieOf core) (porterDie p) + 4
  { s with stores := { s.stores with inbox := s.stores.inbox ++ [⟨id, core, key, msg, s.clk + n, p⟩] } }

/-- A reply has left a porter of a die, and arrives at a station time (R241). -/
def State.outbound (s : State) (die at_ : Nat) : State :=
  { s with stores := { s.stores with replies := s.stores.replies ++ [(die, at_)] } }

/-- Whether a core's die lets a message for a porter out: its injection stops before a reset (R241). -/
def State.injects (s : State) (core : Nat) (p : Nat × Nat) : Bool := (s.die (dieOf core)).state == .run || porterDie p == dieOf core

/-- Whether a core keeps a message that one about a storage may not overtake: one to the same home porter (R65, R351). -/
def State.keptBefore (s : State) (core key : Nat) (kept : List Kept) : Bool :=
  kept.any fun m => m.key == key || s.homePorter core m.key == s.homePorter core key

/-- A message about a storage, kept while an earlier one to the same home is kept, and a weight while the core borrows the storage
(R83, R351). -/
def State.homeMsg (s : State) (core key : Nat) (msg : HomeMsg) (id : Nat) : State :=
  let k := s.core core
  let ids := match msg with | .weight _ => k.holderIds key ++ s.fixedIds core key | _ => []
  if ids.isEmpty && !s.keptBefore core key k.kept && s.injects core (s.porterOfMsg core key msg) then s.sendHome core key msg id
  else s.setCore core { k with kept := k.kept ++ [⟨id, key, msg, ids⟩] }

/-- Weight travels home: a counted handle given up (R76, R86). A handle whose home is on another package sends it over the
Turntable (R86, R295). -/
def State.dropWeight (s : State) (core : Nat) (c : Cap) : State :=
  if !c.counted then s
  else if s.remoteHome c then
    let item : OutItem :=
      { id := s.nextId, peer := c.addr.toNat / 2 ^ 58, seq := none
        item := .inr (.weight c.part (c.addr.toNat % 2 ^ 52) c.weight), cap := c, core := core, rot := s.tt.rot }
    { s with nextId := s.nextId + 1, tt := { s.tt with items := s.tt.items ++ [item] } }
  else { s with nextId := s.nextId + 1 }.homeMsg core c.key (.weight c.weight) s.nextId

/-- Whether what a kept message waits for is still there: an engine entry, a command with a fixed cycle, or the UPD that it is of. -/
def State.outstanding (s : State) (core id : Nat) : Bool :=
  let k := s.core core
  (k.eng.any fun q => q.2.any fun e => e.id == id) || (k.upds.any fun u => u.latch == id) ||
  (match s.consistOf core with | some n => ((s.cons n).latches ++ (s.cons n).parked).any fun l => l.id == id | none => false)

/-- Kept messages in order: those that may leave, and those that stay. -/
def State.partKept (s : State) (core : Nat) (kept : List Kept) : List Kept × List Kept :=
  kept.foldl (fun acc m =>
    if m.waitFor.any (s.outstanding core) || s.keptBefore core m.key acc.2 || !s.injects core (s.porterOfMsg core m.key m.msg) then (acc.1, acc.2 ++ [m]) else (acc.1 ++ [m], acc.2)) ([], [])

/-- A kept message leaves; nothing is left of a UPD's that came to nothing. -/
def State.sendKept (core : Nat) (s : State) (m : Kept) : State :=
  match m.msg with
  | .later => s
  | msg => s.sendHome core m.key msg m.id

/-- Kept messages whose borrows have retired leave, in order (R83). -/
def State.flushKept (s : State) (core : Nat) : State :=
  let go := s.partKept core (s.core core).kept
  go.1.foldl (State.sendKept core) (s.setCore core { s.core core with kept := go.2 })

/-- Everything that an aborted car's core keeps leaves: the dispatcher has it dropped (R221). -/
def State.sendAllKept (s : State) (core : Nat) : State :=
  (s.core core).kept.foldl (State.sendKept core) (s.setCore core { s.core core with kept := [] })

/-! ## Outstanding writes (R82) -/

def Latch.writesKey (l : Latch) (key : Nat) : Bool :=
  match l.eff with
  | .store c _ => c.counted && c.key == key
  | .storeCap c _ _ _ => c.counted && c.key == key
  | .drainRow d _ => d.cap.counted && d.cap.key == key
  | _ => false

/-- Whether a write into the storage issued by the core has not performed (R82). -/
def State.writesOut (s : State) (core key : Nat) : Bool :=
  let k := s.core core
  (match s.consistOf core with
   | some n => ((s.cons n).latches ++ (s.cons n).parked).any fun l => decide (l.core = core) && l.writesKey key
   | none => false) ||
  (k.eng.any fun q => q.2.any fun e => e.writes.any fun c => c.counted && c.key == key) ||
  (k.attn.entry.isSome && k.attn.blank.counted && k.attn.blank.key == key)

/-! ## Free lists (R62) -/

/-- Where a partition's blocks of a place are listed: a core's tile-store share by its number, an HBM stack by 256 more. -/
def placeOf (space : BitVec 4) (base : Nat) (stack : Nat) : Nat := if space = 1 then base / 2 ^ 32 else 256 + stack

/-- The block of lowest address of a class. -/
def lowest (l : List FreeBlock) : Option FreeBlock :=
  l.foldl (fun best b => match best with | none => some b | some c => if b.base < c.base then some b else best) none

/-- Splitting the smallest larger block in halves until one of the class is there (R62). -/
def splitTo (k : Nat) (b : FreeBlock) : Nat → List FreeBlock
  | 0 => [b]
  | fuel + 1 =>
    if b.cls ≤ k then [b]
    else splitTo k { b with cls := b.cls - 1 } fuel ++ [{ b with cls := b.cls - 1, base := b.base + classSize (b.cls - 1) }]

/-- Taking a block of class k (R62, R79): the block and the list without it. -/
def takeBlock (free : List FreeBlock) (part : BitVec 5) (place k : Nat) : Option (Nat × List FreeBlock) :=
  let here := free.filter fun b => b.part == part && b.place == place
  let pick := (List.range 11).findSome? fun j => if j < k then none else lowest (here.filter fun b => b.cls == j)
  match pick with
  | none => none
  | some b =>
    match splitTo k b 11 with
    | [] => none
    | first :: rest => some (first.base, rest ++ free.filter fun x => !decide (x = b))

/-- Joining a block with its free other half (R62). -/
def joinBlock (free : List FreeBlock) (b : FreeBlock) : Nat → List FreeBlock
  | 0 => b :: free
  | fuel + 1 =>
    let sz := classSize b.cls
    let buddy := if b.base / sz % 2 = 0 then b.base + sz else b.base - sz
    let other : FreeBlock := { b with base := buddy }
    if b.cls < 10 && free.contains other then
      joinBlock (free.filter fun x => !decide (x = other)) { b with cls := b.cls + 1, base := min b.base buddy } fuel
    else b :: free

/-! ## Engine queues (R40) -/

def qMatrix : Nat := 0
def qCopy : Nat := 1
def qPorter : Nat := 2
def qLink : Nat := 3
def qShuttle : Nat := 4
def qSbox : Nat := 5
def qAttention : Nat := 6

def engDepth (q : Nat) : Nat :=
  if q = 0 then 32 else if q = 1 then 512 else if q = 2 then 64 else if q = 3 then 64 else if q = 4 then 16
  else if q = 5 then 32 else if q = 6 then 8 else 16

/-- A word whose entry of a queue would retire as it enters needs a place there all the same (R40, R260, log 103). -/
def roomIn (q : Nat) : Act Unit := do
  let k ← getCore
  if (k.queue q).length ≥ engDepth q then hold 6 else pure ()

/-- An entry of an engine queue; a full queue holds the consist with cause bit 6 (R40). The core's die applies the tick of its issue d + L
cycles on (R238). -/
def enter (q : Nat) (op : EngOp) (borrows writes popped : List Cap) (barrier : Option Nat) (bytes : Nat) (due : Option Nat)
    (latches : List Nat) : Act Nat := do
  let s ← get
  let k ← getCore
  if (k.queue q).length ≥ engDepth q then
    hold 6
    pure 0
  else
    let sq ← getSeq
    let e : EngEntry :=
      { id := s.nextId, seq := s.cur.2, syll := BitVec.ofNat 25 sq.at_.pc, issued := s.ttc, ptc := s.ptc, op := op,
        borrows := borrows, writes := writes, popped := popped, barrier := barrier, bytes := bytes,
        due := due.map (s.ttc + ·), latches := latches, ready := s.clk + s.dC s.cur.1 + (s.die (dieOf s.cur.1)).lag + 2, started := false, done := 0 }
    modify fun s => { s with nextId := s.nextId + 1 }
    modCore fun k => k.setQueue q (k.queue q ++ [e])
    pure s.nextId

end Sys2Proof.Machine
end

