-- ==== Sys2Proof/Machine/Matrix.lean ====
section
/-! DEFINITION. The matrix engine on the TTC: what it checks and reads at a command's stamp (R130, R153-R155, R310, R370), and
the rows that perform (R130, R311, R371). -/
namespace Sys2Proof.Machine
open Sys2Proof

/-- Whether a column of `[col, col + n)` is parked (R155). -/
def Core.parkedIn (k : Core) (col n : Nat) : Bool := k.spill.any fun p => decide (col ≤ p.2) && decide (p.2 < col + n)

/-- Columns in a status group (R104). -/
def groupWidth (core : Nat) : Nat := if isAttention core then 32 else 64

/-- A row of accumulator elements (R154). -/
def Core.accRow (k : Core) (row col n : Nat) : List (BitVec 32) := (List.range n).map fun j => k.accAt row (col + j)

/-- Writes a row of accumulator elements. -/
def setAccRow (k : Core) (row : Nat) : Nat → List (BitVec 32) → Core
  | _, [] => k
  | col, v :: vs => setAccRow (k.setAcc row col v) row (col + 1) vs

/-- MZERO's columns, +0 in every row (R370). -/
def Core.zeroCols (k : Core) (col n : Nat) : Core :=
  { k with acc := k.acc.filter fun p => !(decide (col ≤ p.1 % 1024) && decide (p.1 % 1024 < col + n)) }

/-- Why a matrix command faults at its stamp: class, subcode and tinfo (R207). -/
abbrev StampFault := FaultClass × BitVec 8 × Nat

/-- The rows and columns of an MMA's A as it is read (R310). -/
def mmaShape (a : Slot) (ta : Bool) : Nat × Nat := if ta then (a.cols, a.rows) else (a.rows, a.cols)

/-- MMA at its stamp (R130, R153, R310, R98), in the order of R310: `before` are the earlier-issued commands in flight. -/
def mmaStamp (core : Nat) (k : Core) (before : List MatCmd) (c : MatCmd) (sa sb : BitVec 4) (col ks : Nat) (ta pre : Bool)
    (fw : Word64) : Option StampFault :=
  let a := k.slot sa
  let b := k.slot sb
  let (ma, ka) := mmaShape a ta
  if a.state = .free then some (.resource, 0, sa.toNat)
  else if b.state = .free then some (.resource, 0, sb.toNat)
  else if a.state = .claimedEmpty ∨ b.state = .claimedEmpty then some (.schedule, 0x02, 0)
  else if pre && decide (c.stamp < b.since + ks) then some (.schedule, 0x02, 0)
  else if c.passed || before.any (fun e => match e.op with
      | .mma .. => e.checked && decide (c.stamp < e.stamp + e.m)
      | _ => false) then some (.schedule, 0x02, 0)
  else if a.fmt ≠ fwA fw ∨ b.fmt ≠ fwB fw ∨ (fwB fw = 6 ∧ ks % 64 ≠ 0) then some (.format, 0, 0)
  else if ka < ks then some (.resource, 0, sa.toNat)
  else if b.rows < ks then some (.resource, 0, sb.toNat)
  else if arraySide core < ma then some (.resource, 0, sa.toNat)
  else if arraySide core < b.cols then some (.resource, 0, sb.toNat)
  else if columnCount core < col + b.cols ∨ k.parkedIn col b.cols then some (.resource, 0, col)
  else none

/-- MZERO and MACC at their stamp (R370). -/
def colStamp (core : Nat) (k : Core) (before : List MatCmd) (c : MatCmd) (col n : Nat) : Option StampFault :=
  if columnCount core < col + n ∨ k.parkedIn col n ∨ before.any (fun e => decide (c.stamp < e.stamp)) then
    some (.resource, 0, col)
  else none

/-- The bytes of an operand slot. -/
def State.slotBytes (s : State) (core : Nat) (n : BitVec 4) : List Byte := s.mem.read (slotAt core n.toNat 0) (slotSize core)

/-- A command at its stamp: what it finds and reads. -/
def matStamp (s : State) (core : Nat) (before : List MatCmd) (c : MatCmd) : Except StampFault MatCmd :=
  let k := s.core core
  match c.op with
  | .mma sa sb col ks _ ta pre fw =>
    match mmaStamp core k before c sa sb col ks ta pre fw with
    | some f => .error f
    | none => .ok { c with
        checked := true, m := (mmaShape (k.slot sa) ta).1, n := (k.slot sb).cols, acols := (k.slot sa).cols
        brows := (k.slot sb).rows, a := s.slotBytes core sa, b := s.slotBytes core sb }
  | .mzero col n =>
    match colStamp core k before c col n with
    | some f => .error f
    | none => .ok { c with checked := true, n := n }
  | .macc _ col n _ _ vs =>
    match colStamp core k before c col n with
    | some f => .error f
    | none => .ok { c with checked := true, n := n, a := toBytes 512 (k.vreg vs).toNat }
  | .mdrain _ => .ok { c with checked := true }

/-- The TTC at which row i of a command performs (R130, R370). -/
def MatCmd.rowAt (c : MatCmd) (i : Nat) : Nat :=
  match c.op with
  | .mma _ _ _ ks _ _ _ _ => c.stamp + ks + c.n + 4 + i
  | .macc .. => c.stamp + 2
  | _ => c.stamp + i

/-- How many rows a command performs; MDRAIN's perform as latches (R210). -/
def MatCmd.rows (c : MatCmd) : Nat :=
  match c.op with
  | .mma .. => c.m
  | .mdrain d => d.r
  | _ => 1

/-- MACC's new element (R370). -/
def maccElement (acc int : Bool) (old x : BitVec 32) : BitVec 32 :=
  if int then old + x
  else if acc then accAdd old (fp32.decode x.toNat)
  else x

/-- Row i of a command performs (R130, R310, R370). -/
def matRow (k : Core) (core : Nat) (c : MatCmd) (i : Nat) : Core :=
  match c.op with
  | .mma _ _ col ks acc ta _ fw =>
    let start := if acc then k.accRow i col c.n else List.replicate c.n 0#32
    setAccRow k i col (mmaRow core fw c ks ta i start)
  | .mzero col n => k.zeroCols col n
  | .macc row col n acc int _ =>
    setAccRow k row col ((List.range n).map fun j => maccElement acc int (k.accAt row (col + j)) (BitVec.ofNat 32 (elemAt c.a 4 j)))
  | .mdrain _ => k

def Core.modMat (k : Core) (id : Nat) (f : MatCmd → MatCmd) : Core :=
  { k with mat := k.mat.map fun c => if c.id = id then f c else c }

def Core.dropMat (k : Core) (id : Nat) : Core := { k with mat := k.mat.filter fun c => !decide (c.id = id) }

/-- Earlier-issued MMAs that a stamp has overtaken (R130). -/
def markPassed (k : Core) (c : MatCmd) : Core :=
  match c.op with
  | .mma .. => { k with mat := k.mat.map fun e =>
      match e.op with
      | .mma .. => if e.id < c.id ∧ c.stamp < e.stamp then { e with passed := true } else e
      | _ => e }
  | _ => k

def Consist.addFault (c : Consist) (f : FaultRec) : Consist :=
  if c.faults.contains f then c else { c with faults := c.faults ++ [f] }

def State.addFault (s : State) (k : Nat) (f : FaultRec) : State := s.setCons k ((s.cons k).addFault f)

/-- One command in one cycle: its stamp, and the row that is due; a command that is done leaves the queue. -/
def matStep (s : State) (cons core t : Nat) (c : MatCmd) : State :=
  let before := (s.core core).mat.takeWhile fun e => !decide (e.id = c.id)
  let go := fun (s : State) (c : MatCmd) =>
    if c.checked && decide (c.rowAt c.done ≤ t) && (match c.op with | .mdrain _ => false | _ => true) then
      let k := matRow (s.core core) core c c.done
      s.setCore core (if c.done + 1 < c.rows then k.modMat c.id fun e => { e with done := c.done + 1 } else k.dropMat c.id)
    else s
  if !c.checked && decide (c.stamp ≤ t) then
    match matStamp s core before c with
    | .error (cls, sub, ti) =>
      (s.setCore core ((s.core core).dropMat c.id)).addFault cons
        { cls := cls, sub := sub, tinfo := BitVec.ofNat 64 ti, core := core, seq := c.seq, syll := c.syll, source := 0
          write := false, kv := false, latch := some c.id }
    | .ok c' => go (s.setCore core (markPassed ((s.core core).modMat c.id fun _ => c') c')) c'
  else go s c

/-- The matrix commands of a core in one TTC cycle, in order of issue (R371). -/
def matCycle (s : State) (cons core t : Nat) : State :=
  ((s.core core).mat.map MatCmd.id).foldl (fun s id =>
    match (s.core core).mat.find? fun c => c.id == id with
    | some c => matStep s cons core t c
    | none => s) s

/-- Row i of an MDRAIN performs (R130, R311); its status follows 12 cycles after the last row (R104). -/
def drainRow (s : State) (cons core : Nat) (l : Latch) (d : Drain) (i : Nat) : State :=
  let k := s.core core
  let w := (fmtBytes d.fmt).getD 1
  let vals := (k.accRow (d.q + i) d.col d.n).map fun v => convertAcc d.fmt d.rm.toNat d.sat v
  let s := { s with mem := s.mem.write (d.base + i * d.n * w) (vals.flatMap fun (v : Nat × Bool) => toBytes w v.1) }
  let g := groupWidth core
  let flags := (vals.zip (List.range d.n)).foldl (fun (t : Tbl (BitVec 3)) p =>
      let key := (d.col + p.2) / g
      Tbl.set t key (Tbl.get 0 t key ||| drainFlags d.fmt p.1.1 p.1.2)) (((k.mat.find? fun c => c.id == d.cmd).map MatCmd.flags).getD [])
  if i + 1 < d.r then s.setCore core (k.modMat d.cmd fun c => { c with done := i + 1, flags := flags })
  else
    let s := s.setCore core (k.dropMat d.cmd)
    let c := s.cons cons
    let new := flags.map fun p : Nat × BitVec 3 =>
      { l with due := l.due + 12, eff := .status p.1 (drainStatus d.r p.2), cause := none, defer := none, place := none }
    s.setCons cons { c with latches := c.latches ++ new }

end Sys2Proof.Machine
end

