-- ==== Sys2Proof/Machine/Trace.lean ====
section
/-! DEFINITION. The trace of a core (R59, R60, R406) and the management error log (R326). -/
namespace Sys2Proof.Machine
open Sys2Proof

/-- A record of the error log (R326). -/
def State.logErr (s : State) (kind die unit : Nat) (addr : Word64) (part : BitVec 5) : State :=
  let dw0 : Word64 := BitVec.ofNat 64 (kind * 2 ^ 56 + die * 2 ^ 48 + unit * 2 ^ 40)
  { s with disp := { s.disp with errors := s.disp.errors ++ [[dw0, addr, BitVec.ofNat 64 s.ptc, part.setWidth 64]] } }

/-- Class codes (R204). -/
def FaultClass.code : FaultClass → Nat
  | .capability => 1 | .partition => 2 | .illegal => 3 | .poison => 4 | .stack => 5 | .resource => 6 | .schedule => 7
  | .format => 8 | .queueVoid => 9 | .refCapacity => 10 | .majorTrans => 11 | .software => 12 | .interrupt => 13
  | .minorTrans => 14 | .peer => 15 | .doubleFault => 16 | .aborted => 17

/-- A class by its code; a reserved code, which only a handler's edit of its frame can leave, counts as a double fault. -/
def FaultClass.ofCode (n : Nat) : FaultClass :=
  [FaultClass.capability, .partition, .illegal, .poison, .stack, .resource, .schedule, .format, .queueVoid, .refCapacity,
   .majorTrans, .software, .interrupt, .minorTrans, .peer, .doubleFault, .aborted].getD (n - 1) .doubleFault

def FaultRec.code (f : FaultRec) : Nat := f.cls.code

/-- Priority of a class (R204); 1 is highest. -/
def FaultClass.prio : FaultClass → Nat
  | .capability => 1 | .partition => 1 | .doubleFault => 1 | .illegal => 2 | .poison => 3 | .stack => 4 | .resource => 5
  | .schedule => 6 | .format => 7 | .queueVoid => 8 | .refCapacity => 9 | .majorTrans => 10 | .software => 11
  | .interrupt => 12 | _ => 13

/-- Fields of trcctl (R59). -/
def trOn (w : Word64) : Bool := w.getLsbD 0
def trBranches (w : Word64) : Bool := w.getLsbD 1
def trWrap (w : Word64) : Bool := w.getLsbD 2
def trBase (w : Word64) : Nat := w.toNat / 2 ^ 12 * 2 ^ 12
def trSlots (w : Word64) : Nat := 2 ^ (13 + w.toNat / 2 ^ 8 % 16)

/-- Writes a record in a place of the buffer, through the page table; `none` where the write is refused (R59). -/
def traceWrite (s : State) (core slot : Nat) (rec : Word64) : Option State :=
  let a := trBase (s.core core).trcctl + 8 * slot
  match s.xlateTable core a 8 true with
  | .ok ps => some { s with mem := writeParts s.mem ps (toBytes 8 rec.toNat) }
  | _ => none

def State.modTrace (s : State) (core : Nat) (f : Trace → Trace) : State :=
  s.setCore core { s.core core with trace := f (s.core core).trace }

/-- The records-lost record (R60); its delta is 0 (log 90). -/
def lostRec (n : Nat) : Word64 := BitVec.ofNat 64 (15 * 2 ^ 60 + n % 2 ^ 40)

/-- A record that the buffer takes, or that is lost. -/
def traceStore (s : State) (core : Nat) (rec : Word64) : State :=
  let k := s.core core
  let pos := k.trace.pos
  match traceWrite s core (pos % trSlots k.trcctl) rec with
  | some s' => s'.modTrace core fun t => { t with pos := pos + 1 }
  | none => (s.modTrace core fun t => { t with lost := t.lost + 1 }).logErr 4 (dieOf core) 4
      (BitVec.ofNat 64 (trBase k.trcctl + 8 * (pos % trSlots k.trcctl))) (k.part.getD 0)

/-- Whether the buffer has a place for a record: in stop mode its last place is for the records-lost record (R59). -/
def traceRoom (k : Core) : Bool := trWrap k.trcctl || decide (k.trace.pos + 1 < trSlots k.trcctl)

/-- The records lost so far are told, where that record can be written (R59). -/
def tellLost (s : State) (core : Nat) : State :=
  let k := s.core core
  if k.trace.lost = 0 || !traceRoom k then s
  else match traceWrite s core (k.trace.pos % trSlots k.trcctl) (lostRec k.trace.lost) with
    | some s' => s'.modTrace core fun t => { t with pos := t.pos + 1, lost := 0 }
    | none => s

/-- One record (R59). What a full buffer refuses is counted in its last place. -/
def tracePut (s : State) (core : Nat) (rec : Word64) : State :=
  let s := tellLost s core
  let k := s.core core
  if traceRoom k then traceStore s core rec
  else
    let s := s.modTrace core fun t => { t with lost := t.lost + 1 }
    match traceWrite s core (trSlots k.trcctl - 1) (lostRec (k.trace.lost + 1)) with
    | some s' => s'
    | none => s

/-- Type, sequencer, delta and payload of a record (R60). -/
def traceRec (typ : Nat) (q : Nat) (delta : Nat) (payload : Nat) : Word64 :=
  BitVec.ofNat 64 (typ * 2 ^ 60 + q * 2 ^ 59 + delta % 2 ^ 19 * 2 ^ 40 + payload % 2 ^ 40)

/-- A record of the event at a TTC, after a timestamp where its delta would be too large (R60). Deltas are counted from the event of the
record before, lost or not (log 90). -/
def traceAt (s : State) (core typ q ttc payload : Nat) : State :=
  let last := (s.core core).trace.last
  let s := if typ ≠ 0 ∧ last + (2 ^ 19 - 1) < ttc then tracePut s core (traceRec 0 0 0 ttc) else s
  let delta := if typ = 0 ∨ last + (2 ^ 19 - 1) < ttc then 0 else ttc - last
  tracePut (s.modTrace core fun t => { t with last := ttc }) core (traceRec typ q delta payload)

/-- The number outcomes make, the oldest in bit 0 (R60). -/
def outcomeBits : List Bool → Nat
  | [] => 0
  | b :: t => (if b then 1 else 0) + 2 * outcomeBits t

/-- Writes the pending branch record (R60). -/
def traceFlush (s : State) (core : Nat) : State :=
  let t := (s.core core).trace
  if t.outcomes.isEmpty then s
  else
    let s := s.modTrace core fun t => { t with outcomes := [] }
    traceAt s core 4 0 t.lastBr ((t.outcomes.length - 1) * 2 ^ 34 + outcomeBits t.outcomes)

/-- A record other than the branch record. -/
def traceEvent (s : State) (core typ q payload : Nat) (ttc : Nat) : State :=
  if trOn (s.core core).trcctl then traceAt (traceFlush s core) core typ q ttc payload else s

/-- A branch outcome (R60, R336). -/
def traceBranch (s : State) (core : Nat) (taken : Bool) (ttc : Nat) : State :=
  let k := s.core core
  if trOn k.trcctl && trBranches k.trcctl then
    let s := s.modTrace core fun t => { t with outcomes := t.outcomes ++ [taken], lastBr := ttc }
    if k.trace.outcomes.length + 1 ≥ 32 then traceFlush s core else s
  else s

/-- The trace's hold records: a length beyond 24 bits goes on in further records (R60). -/
def traceHold (s : State) (core causes ttc : Nat) : Nat → Nat → State
  | 0, _ => s
  | fuel + 1, len =>
    if len < 2 ^ 24 then traceEvent s core 1 0 (causes * 2 ^ 24 + len) ttc
    else traceHold (traceEvent s core 1 0 (causes * 2 ^ 24 + (2 ^ 24 - 1)) ttc) core causes ttc fuel (len - (2 ^ 24 - 1))

/-- The hold's trace records, one per core of the consist, with bit 15 where the core's item was late (R47, R60). -/
def traceHolds (s : State) (k : Nat) (h : Hold) : State :=
  let c := s.cons k
  c.cores.foldl (fun s x =>
    traceHold s x (h.causes ||| (if h.late.contains x then 0x8000 else 0)).toNat c.ttc 65 (s.clk - h.from_)) s

/-- The hold of a consist, a replay's too (R212). -/
def Consist.holding (c : Consist) : Option Hold :=
  match c.mode with
  | .hold h => some h
  | .reentry h => h
  | _ => none

/-- A hold that a fault ends: its records are written (R50), and the consist holds no more. -/
def endHold (s : State) (k : Nat) : State :=
  match (s.cons k).holding with
  | some h => let s := traceHolds s k h
              s.setCons k { s.cons k with mode := .run }
  | none => s

/-- Whether the buffer is full in stop mode (R52, 0x0A). -/
def traceFull (k : Core) : Bool :=
  trOn k.trcctl && !trWrap k.trcctl && !decide (k.trace.pos + 1 < trSlots k.trcctl)

end Sys2Proof.Machine
end

