-- ==== Sys2Proof/Machine/Perform.lean ====
section
/-! DEFINITION. What happens when a result performs (R7, R128), and everything that performs in one TTC cycle, in its order
(R179, R371, R405). -/
namespace Sys2Proof.Machine
open Sys2Proof

/-- The bits of a vector register that a lane mask selects. -/
def laneBits (m : LaneMask) : VReg :=
  (List.range 128).foldl (fun acc i => if m.getLsbD i then acc ||| ((0xFFFFFFFF : VReg) <<< (32 * i)) else acc) 0

/-- A vector register with the selected lanes replaced. -/
def mergeLanes (m : LaneMask) (old new : VReg) : VReg :=
  if m = BitVec.allOnes 128 then new else (old &&& ~~~(laneBits m)) ||| (new &&& laneBits m)

/-- A vector register with the given bits of the selected lanes replaced (R413). -/
def mergePart (m : LaneMask) (bits : BitVec 32) (old new : VReg) : VReg :=
  let sel : VReg := (List.range 128).foldl (fun acc i => acc ||| (bits.setWidth 4096 <<< (32 * i))) 0
  mergeLanes m old ((old &&& ~~~sel) ||| (new &&& sel))

/-- Lane L of a vector register. -/
def lane (v : VReg) (l : Nat) : BitVec 32 := v.extractLsb' (32 * l) 32

/-- A vector register from its lanes, lane 0 first. -/
def ofLanes : List (BitVec 32) → VReg
  | [] => 0
  | x :: t => x.setWidth 4096 ||| (ofLanes t <<< 32)

/-- The 128 rows of an accumulator column, as lanes (R421, R422). -/
def Core.column (k : Core) (col : Nat) : VReg := ofLanes ((List.range 128).map fun i => k.accAt i col)
def Core.setColumn (k : Core) (col : Nat) (v : VReg) : Core := (List.range 128).foldl (fun k i => k.setAcc i col (lane v i)) k

def Seq.setS (q : Seq) (r : BitVec 6) (v : Word64) : Seq := { q with s := Tbl.set q.s r.toNat v }
def Seq.setP (q : Seq) (r : BitVec 4) (v : Bool) : Seq :=
  { q with p := if v then q.p ||| (1#16 <<< r.toNat) else q.p &&& ~~~(1#16 <<< r.toNat) }
def Seq.setH (q : Seq) (r : BitVec 5) (c : Cap) : Seq := { q with h := Tbl.set q.h r.toNat c }
def Seq.breg (q : Seq) (r : BitVec 3) : BReg := Tbl.get BReg.reset q.b r.toNat

def fillEntry {α : Type} (l : List (QEnt α)) (id : Nat) (v : QVal α) : List (QEnt α) :=
  l.map fun e => if e.id = id then { e with v := v } else e

/-- A write to a sequencer's system register, with the bits that are forced (R156, R207). -/
def Seq.setSys (q : Seq) (n : BitVec 8) (v : Word64) : Seq :=
  if n = 0x08 then { q with tvec := v &&& 0xC000000001FFFFFF }
  else if n = 0x0A then { q with tframe := v &&& 0xFFFC0 }
  else if n = 0x10 then { q with stbase := v &&& ~~~15 }
  else if n = 0x11 then { q with stlimit := v &&& ~~~15 }
  else q

/-- A write to a core's system register (R59, R160, R163, R213, R397). A write of trcctl starts the trace afresh (log 14). -/
def Core.setSys (k : Core) (n : BitVec 8) (v : Word64) : Core :=
  if n = 0x12 then { k with heapbase := v &&& ~~~0xFFFF }
  else if n = 0x13 then { k with heaplimit := v &&& ~~~0xFFFF }
  else if n = 0x14 then { k with heapoffset := v &&& ~~~0xFFFF }
  else if n = 0x15 then { k with npd := v &&& 0xFFFFFF00 }
  else if n = 0x18 then { k with timer := v, armed := v != 0 }
  else if n = 0x1A then { k with trcctl := v &&& ~~~0xF8, trace := { k.trace with pos := 0, outcomes := [] } }
  else k

/-- An addition to a token, saturating (R179); it is discarded after a hold that waited for it reached its limit (R51). -/
def State.signalTok (s : State) (core : Nat) (t : BitVec 5) : State :=
  let k := s.core core
  let v := k.token t
  if k.deaf.contains t.toNat then s
  else if v = 0xFFFF then s.logErr 4 (dieOf core) 4 (BitVec.ofNat 64 core) (k.part.getD 0)
  else s.setCore core { k with tok := Tbl.set k.tok t.toNat (v + 1) }

/-- A vector saturation performs at TTC t: status entry 16 bit 2 (R105). -/
def Core.saturate (k : Core) (t : Nat) : Core :=
  let old := Tbl.get 0 k.status 16
  { k with status := Tbl.set k.status 16 (satStatus old)
           satAt := match k.satAt with
             | some (u, b) => if u = t then some (u, b) else some (t, old.getLsbD 2)
             | none => some (t, old.getLsbD 2) }

/-- Bytes go to their places. -/
def writeSegs (m : Memory) : List Seg → Memory
  | [] => m
  | g :: gs => writeSegs (m.write g.at_ g.bytes) gs

/-- A run of bytes, cut at the lines of memory. -/
def Seg.lines : Nat → Seg → List Seg
  | 0, _ => []
  | fuel + 1, g =>
    let n := 2 ^ 8 - g.at_ % 2 ^ 8
    if g.bytes.length ≤ n then [g]
    else { g with bytes := g.bytes.take n } :: Seg.lines fuel ⟨g.off + n, g.at_ + n, g.bytes.drop n⟩

/-- The bytes of a write where they go now: those of a line that has been copied since, to its new frame (R166). -/
def State.segsNow (s : State) (gs : List Seg) : List Seg :=
  if s.stores.migrations.isEmpty then gs
  else (gs.flatMap fun g => g.lines (g.bytes.length + 1)).map fun g => { g with at_ := s.forward g.at_ }

def State.modCoreAt (s : State) (c : Nat) (f : Core → Core) : State := s.setCore c (f (s.core c))
def State.modSeqAt (s : State) (c : Nat) (q : SeqId) (f : Seq → Seq) : State := s.setSeq c q (f (s.seq c q))

/-- Bytes into an operand slot, by their offsets. -/
def fillSlot (m : Memory) (core : Nat) (n : BitVec 4) : List (Nat × List Byte) → Memory
  | [] => m
  | (off, bs) :: t => fillSlot (m.setBytes (slotAt core n.toNat off) bs) core n t

/-- A latch that takes more of what a TLD or GATHER brings to its stamp. -/
def Effect.moreLoad (n : BitVec 4) (l : SlotLoad) : Effect → Effect
  | .load _ o => .load n { l with segs := o.segs ++ l.segs }
  | _ => .load n l

/-- A slot takes what a TLD or GATHER brings, with the shape it records (R153, R310, R332). -/
def State.loadSlot (s : State) (core : Nat) (n : BitVec 4) (l : SlotLoad) : State :=
  { s with mem := fillSlot s.mem core n l.segs }.modCoreAt core fun k =>
    { k with slots := Tbl.set k.slots n.toNat { k.slot n with rows := l.rows, cols := l.cols, fmt := l.fmt } }

/-- A result performs (R128). -/
def perform (s : State) (cons : Nat) (l : Latch) : State :=
  let c := l.core
  match l.eff with
  | .setS r v => s.modSeqAt c l.seq fun q => q.setS r v
  | .setP r v => s.modSeqAt c l.seq fun q => q.setP r v
  | .setH r h => s.modSeqAt c l.seq fun q => q.setH r h
  | .setV r m v => s.modCoreAt c fun k => k.setV r (mergeLanes m (k.vreg r) v)
  | .setVPart r m bits v => s.modCoreAt c fun k => k.setV r (mergePart m bits (k.vreg r) v)
  | .store _ segs => { s with mem := writeSegs s.mem (s.segsNow segs) }
  | .storeCap _ _ a h => { s with mem := s.mem.writeCap (s.forward a) h }
  | .fill q id v => s.modCoreAt c fun k => { k with dq := Tbl.set k.dq q (fillEntry (k.dqs q) id v) }
  | .fillH id v => s.modCoreAt c fun k => { k with hq := fillEntry k.hq id v }
  | .setB r t => s.modSeqAt c l.seq fun q => { q with b := Tbl.set q.b r.toNat t }
  | .setX r v => s.modCoreAt c fun k => { k with x := Tbl.set k.x r.toNat v }
  | .addX r v => s.modCoreAt c fun k => { k with x := Tbl.set k.x r.toNat (k.xreg r.toNat + v) }
  | .setG r g => s.modCoreAt c fun k => { k with g := Tbl.set k.g r.toNat g }
  | .setSys n v => (s.modSeqAt c l.seq fun q => q.setSys n v).modCoreAt c fun k => k.setSys n v
  | .setLc k v => s.modSeqAt c l.seq fun q => { q with lc := Tbl.set q.lc k v }
  | .setLvl k v => s.modCoreAt c fun e => { e with lvl := Tbl.set e.lvl k v }
  | .tokSet t v => s.modCoreAt c fun k => { k with tok := Tbl.set k.tok t.toNat v }
  | .tokDec t n => s.modCoreAt c fun k => { k with tok := Tbl.set k.tok t.toNat (BitVec.ofNat 16 ((k.token t).toNat - n)) }
  | .signal d t => s.signalTok d t
  | .slot n st => s.modCoreAt c fun k =>
      { k with slots := Tbl.set k.slots n.toNat { k.slot n with state := st, since := (s.cons cons).ttc } }
  | .load n l => (s.loadSlot c n l).modCoreAt c fun k =>
      { k with slots := Tbl.set k.slots n.toNat { k.slot n with state := .claimedFilled, since := (s.cons cons).ttc } }
  | .masks st => s.modCoreAt c fun k => { k with masks := st }
  | .setM r m => s.modCoreAt c fun k => { k with m := Tbl.set k.m r.toNat m }
  | .park v col => s.modCoreAt c fun k => { k with spill := k.spill ++ [(v.toNat, col)] }
  | .unpark v col id =>
      let k := s.core c
      (s.setCons cons ((s.cons cons).modLatch id fun l => { l with eff := .setV v (BitVec.allOnes 128) (k.column col) })).modCoreAt c
        fun k => { k with spill := k.spill.filter fun p => !decide (p.1 = v.toNat) }
  | .accCol col v => s.modCoreAt c fun k => k.setColumn col v
  | .satFlag => s.modCoreAt c fun k => k.saturate (s.cons cons).ttc
  | .releasePlace => s.modCoreAt c fun k => { k with hqHeld := k.hqHeld - 1 }
  | .returnHq h => s.modCoreAt c fun k => { k with hqHeld := k.hqHeld - 1, hq := ⟨l.id, .val h⟩ :: k.hq }
  | .drop h => s.dropWeight c h
  | .borrow _ => s
  | .drainRow d i => drainRow s cons c l d i
  | .status n v => s.modCoreAt c fun k => { k with status := Tbl.set k.status n v }
  | .launch a id =>
      let m := s.mem
      match m.firstPoison (privAt c a) 128 with
      | some g => s.setCons cons ((s.cons cons).modLatch id fun l => { l with
          err := some { FaultRec.zero with cls := .poison, tinfo := BitVec.ofNat 64 (g - privAt c 0), core := c, seq := l.seq, syll := l.syll }
          cause := none })
      | none =>
        let packet := (List.range 16).map fun i => m.read64 (privAt c (a + 8 * i))
        { s with disp := { s.disp with
            launches := s.disp.launches ++ [{ by_ := .core c id, packet := packet, at_ := s.clk + s.dist cDie hDie }] } }
  | .mark => s

/-- Where in its cycle a result performs: a TOKSET before the signals, the decrements of WAITs after them (R405); then matrix rows, and
after them the stores in order of issue, rows of drains among them (R130, R418); last what reads private memory (R348). -/
def Latch.phase (l : Latch) : Nat :=
  match l.eff with
  | .signal .. => 1
  | .tokDec .. => 2
  | .store .. => 3
  | .storeCap .. => 3
  | .drainRow .. => 3
  | .launch .. => 4
  | _ => 0

/-- Whether a latch performs at TTC t: due, and its result present. -/
def Latch.ripe (t : Nat) (l : Latch) : Bool := decide (l.due ≤ t) && l.cause.isNone

/-- A due latch: its fault where it reports one (R206), nothing where it is held for replay (R212), else its result. -/
def performLatch (s : State) (cons : Nat) (l : Latch) : State :=
  match l.err with
  | some f => s.addFault cons { f with latch := some l.id }
  | none => if l.pend then s else perform s cons l

/-- Everything of one phase, in order of issue. -/
def performPhase (cons n : Nat) (ls : List Latch) (s : State) : State :=
  ls.foldl (fun s l => if l.phase = n then performLatch s cons l else s) s

/-- What performs in the current TTC cycle of a consist (R7, R128), phase by phase. -/
def performDue (s : State) (cons : Nat) : State :=
  let c := s.cons cons
  let due := c.latches.filter (Latch.ripe c.ttc)
  let s := s.setCons cons { c with latches := c.latches.filter fun l => !l.ripe c.ttc }
  let s := performPhase cons 0 due s
  let s := performPhase cons 1 due s
  let s := performPhase cons 2 due s
  let s := if c.trapMat then s else c.cores.foldl (fun s core => matCycle s cons core c.ttc) s
  performPhase cons 4 due (performPhase cons 3 due s)

/-- What a core's stores of the current TTC cycle that issued before the word of this number write: they perform before what that word
has a unit write in the cycle (R418). -/
def performOlder (s : State) (cons core id : Nat) : State :=
  let c := s.cons cons
  let runs := match c.mode with | .run => true | .boundary .. => true | _ => false
  let is := fun (l : Latch) => runs && decide (l.core = core) && decide (l.phase = 3) && decide (l.id < id) && l.ripe c.ttc
  performPhase cons 3 (c.latches.filter is) (s.setCons cons { c with latches := c.latches.filter fun l => !is l })

/-- Updates of token counters: no latch of R206, they perform at their cycle whatever the consist then runs (log 20). -/
def Latch.isTok (l : Latch) : Bool :=
  match l.eff with
  | .tokSet .. => true
  | .signal .. => true
  | .tokDec .. => true
  | _ => false

/-- Token updates of one phase that perform in the current TTC cycle of a consist; none does in a RETIME wait (R240). -/
def performToks (n : Nat) (s : State) (cons : Nat) : State :=
  let c := s.cons cons
  let waits := match c.mode with | .retime _ => true | _ => false
  let is := fun (l : Latch) => !waits && l.isTok && l.ripe c.ttc && decide (l.phase = n)
  (c.latches.filter is).foldl (fun s l => performLatch s cons l)
    (s.setCons cons { c with latches := c.latches.filter fun l => !is l })

/-- The token updates of all consists that perform in this cycle, in the order of R405: seen by the words of the cycle, whatever
consist they are of (R179, R427). -/
def performTokens (s : State) : State :=
  let ids := s.consists.map Prod.fst
  ids.foldl (performToks 2) (ids.foldl (performToks 1) (ids.foldl (performToks 0) s))

end Sys2Proof.Machine
end

