-- ==== Sys2Proof/Machine/Frame.lean ====
section
/-! DEFINITION. The trap frame (R209) and its latch records (R210): written at a trap, read back at RFT (R212). -/
namespace Sys2Proof.Machine
open Sys2Proof

/-- A piece of a frame: bytes, or a capability stored with its tag. -/
inductive Chunk where
  | raw (bytes : List Byte)
  | cap (c : Cap)
  deriving DecidableEq, Repr

def Chunk.size : Chunk → Nat
  | .raw bs => bs.length
  | .cap _ => 16

def chunksSize (l : List Chunk) : Nat := l.foldl (fun n c => n + c.size) 0

def raw8 (v : Nat) : Chunk := .raw (toBytes 8 v)

/-- Writes pieces one after another. -/
def writeChunks (m : Memory) : Nat → List Chunk → Memory
  | _, [] => m
  | a, .raw bs :: t => writeChunks (m.write a bs) (a + bs.length) t
  | a, .cap c :: t => writeChunks (m.writeCap a c) (a + 16) t

/-- A latch record's kind, register or queue, data and void mark (R210). -/
structure Record0 where
  kind : Nat
  reg  : Nat
  data : List Chunk
  void : Bool
  deriving DecidableEq, Repr

def padTo8 (bs : List Byte) : List Byte := bs ++ List.replicate ((8 - bs.length % 8) % 8) 0

/-- A segment's header and bytes (R210). -/
def segChunks (g : Seg) : List Chunk := [raw8 (g.off * 2 ^ 24 + g.bytes.length), .raw (padTo8 g.bytes)]

/-- The bytes row i of an MDRAIN would write now. -/
def drainBytes (k : Core) (d : Drain) (i : Nat) : List Byte :=
  (k.accRow (d.q + i) d.col d.n).flatMap fun v =>
    toBytes ((fmtBytes d.fmt).getD 1) (convertAcc d.fmt d.rm.toNat d.sat v).1

/-- The record of a latch; `none` for a latch of no kind of R210, which stays in the machine (log 9). -/
def record0 (k : Core) (l : Latch) : Option Record0 :=
  match l.eff with
  | .setS r v => some ⟨0, r.toNat, [raw8 v.toNat], false⟩
  | .setP r v => some ⟨1, r.toNat, [raw8 (if v then 1 else 0)], false⟩
  | .setH r c => some ⟨2, r.toNat, [.cap c], false⟩
  | .setV r m v => some ⟨3, r.toNat, [.raw (toBytes 16 m.toNat), .raw (toBytes 512 v.toNat)], false⟩
  | .setVPart r m bits v =>
    some ⟨3, r.toNat, [.raw (toBytes 16 m.toNat), .raw (toBytes 512 (mergePart m bits (k.vreg r) v).toNat)], false⟩
  | .store c segs => some ⟨4, 0, .cap c :: raw8 segs.length :: segs.flatMap segChunks, false⟩
  | .storeCap c off _ v => some ⟨4, 0, [.cap c, raw8 1, raw8 (off * 2 ^ 24 + 2 ^ 16 + 16), .cap v], false⟩
  | .drainRow d i =>
    let bs := drainBytes k d i
    some ⟨4, 0, [.cap d.cap, raw8 1] ++ segChunks ⟨i * bs.length, 0, bs⟩, false⟩
  | .fill q _ v =>
    some ⟨5, q, [raw8 (match v with | .val x => x.toNat | _ => 0)], (match v with | .void => true | _ => false)⟩
  | .fillH _ v => some ⟨5, 6, [.cap (match v with | .val c => c | _ => nullCap)], (match v with | .void => true | _ => false)⟩
  | _ => none

def bit (b : Bool) (n : Nat) : Nat := if b then 2 ^ n else 0

/-- A record as it stands in the frame, padded to 16 bytes. -/
def recordChunks (l : Latch) (t : Nat) (r : Record0) : List Chunk :=
  let n := chunksSize r.data
  let dw0 := r.kind * 2 ^ 60 + r.reg % 64 * 2 ^ 54 + bit l.pend 53 + bit (l.cause.isSome && !l.pend) 52 +
    (l.due - t) % 2 ^ 16 * 2 ^ 36 + bit r.void 35 + l.syll.toNat
  [raw8 dw0, raw8 n] ++ r.data ++ (if n % 16 = 0 then [] else [.raw (List.replicate (16 - n % 16) 0)])

/-- Inserts by due cycle, after those of the same cycle (R209). -/
def insertDue (l : Latch) : List Latch → List Latch
  | [] => [l]
  | x :: t => if l.due < x.due then l :: x :: t else x :: insertDue l t

def byDue (ls : List Latch) : List Latch := ls.foldl (fun acc l => insertDue l acc) []

/-- Lays a sequencer's latches out in its frame: each with the offset of its record, as long as there is room for the record and
fewer than 64 are there (R209); the rest stay in the machine alone (log 9). -/
def layOut (k : Core) (t : Nat) : List Latch → Nat → Nat → List (Latch × Option (List Chunk))
  | [], _, _ => []
  | l :: ls, off, n =>
    match record0 k l with
    | none => ({ l with place := none }, none) :: layOut k t ls off n
    | some r =>
      let cs := recordChunks l t r
      let size := chunksSize cs
      if n < 64 ∧ off + size ≤ 0xA000 then
        ({ l with place := some off }, some cs) :: layOut k t ls (off + size) (n + 1)
      else ({ l with place := none }, none) :: layOut k t ls off n

/-- The word a place issues next: its syllable. -/
def Place.wordAt (p : Place) : Nat := if p.start then p.pc + 2 else p.pc

/-- The gap of the word at a syllable (R106). -/
def State.gapAt (s : State) (syll : Nat) : Nat := ((s.mem.iword syll).extractLsb' 76 7).toNat

/-- The TTC at which a sequencer's next word issues, or its place's fault is raised (R107, R116, R119). -/
def State.dueAt (s : State) (p : Place) : Option Nat :=
  if p.stop ≠ .none then none
  else match p.pend with
    | some (_, true) => some p.base
    | _ => some (p.base + s.gapAt p.wordAt)

/-- A branch target register in the frame (R335). -/
def bregWord (t : Nat) (b : BReg) : Nat :=
  bit b.valid 63 + (if b.valid then min 4 (t - b.since) else 0) * 2 ^ 32 + b.syll.toNat

/-- The registers of a frame, as pieces with their offsets (R209). -/
def frameParts (s : State) (c : Nat) (q : SeqId) (t : Nat) (nLatch : Nat) (list : List FaultRec) : List (Nat × Chunk) :=
  let sq := s.seq c q
  let p := sq.at_
  let cyc := match s.dueAt p with | some u => u - t | none => 0
  [(0x000, raw8 sq.tcause.toNat), (0x008, raw8 (cyc * 2 ^ 32 + p.wordAt % 2 ^ 25)), (0x010, raw8 (t % 2 ^ 64)),
   (0x018, raw8 sq.tinfo.toNat), (0x020, raw8 (nLatch + list.length * 2 ^ 16))] ++
  ((List.range 64).map fun i =>
    (0x040 + 8 * i, raw8 (if i = 0 ∨ (56 ≤ i ∧ i ≤ 61) then 0 else (Tbl.get 0 sq.s i).toNat))) ++
  [(0x240, raw8 (sq.p ||| 1).toNat)] ++
  ((List.range 8).map fun i => (0x248 + 8 * i, raw8 (bregWord t (sq.breg (BitVec.ofNat 3 i))))) ++
  [(0x288, .raw ((List.range 4).flatMap fun i => toBytes 2 (Tbl.get 0 sq.lc i).toNat))] ++
  ((List.range 31).map fun i => (0x300 + 16 * i, .cap (Tbl.get nullCap sq.h i))) ++
  ((list.zip (List.range 16)).map fun e : FaultRec × Nat =>
    (0x500 + 16 * e.2, .raw (toBytes 8 (e.1.code * 2 ^ 56 + e.1.sub.toNat * 2 ^ 48 + e.1.syll.toNat) ++
      toBytes 8 e.1.tinfo.toNat)))

def writeParts0 (m : Memory) (base : Nat) : List (Nat × Chunk) → Memory
  | [] => m
  | (o, c) :: t => writeParts0 (writeChunks m (base + o) [c]) base t

def writeRecords (m : Memory) (base : Nat) : List (Latch × Option (List Chunk)) → Memory
  | [] => m
  | (l, some cs) :: t => writeRecords (writeChunks m (base + (l.place.getD 0)) cs) base t
  | (_, none) :: t => writeRecords m base t

/-- Writes one sequencer's frame of a boundary t at an address (R209, R216); answers its latches with the places of their records. -/
def writeFrameAt (s : State) (c : Nat) (q : SeqId) (t : Nat) (ls : List Latch) (list : List FaultRec) (base : Nat) : Memory × List Latch :=
  let out := layOut (s.core c) t (byDue ls) 0x600 0
  let n := (out.filter fun e => e.2.isSome).length
  let m := writeParts0 (s.mem.zero base 0xA000) base (frameParts s c q t n list)
  (writeRecords m base out, out.map Prod.fst)

/-- Writes one sequencer's trap frame, at its tframe (R209). -/
def writeFrame (s : State) (c : Nat) (q : SeqId) (t : Nat) (ls : List Latch) (list : List FaultRec) : State × List Latch :=
  let r := writeFrameAt s c q t ls list (privAt c (s.seq c q).tframe.toNat)
  ({ s with mem := r.1 }, r.2)

/-! ## Reading back -/

/-- A latch with its data as the frame holds it at an address of its record (R212); a memory write keeps its shape. -/
def readSegs (m : Memory) : Nat → List Seg → List Seg
  | _, [] => []
  | a, g :: gs => { g with bytes := m.read (a + 8) g.bytes.length } :: readSegs m (a + 8 + (padTo8 g.bytes).length) gs

def readEffect (m : Memory) (a : Nat) (void : Bool) : Effect → Effect
  | .setS r _ => .setS r (m.read64 a)
  | .setP r _ => .setP r ((m.read64 a).getLsbD 0)
  | .setH r _ => .setH r (m.readCap a)
  | .setV r _ _ => .setV r (BitVec.ofNat 128 (leNat (m.read a 16))) (BitVec.ofNat 4096 (leNat (m.read (a + 16) 512)))
  | .setVPart r _ bits _ =>
    .setVPart r (BitVec.ofNat 128 (leNat (m.read a 16))) bits (BitVec.ofNat 4096 (leNat (m.read (a + 16) 512)))
  | .store c segs => .store c (readSegs m (a + 24) segs)
  | .storeCap c off at_ _ => .storeCap c off at_ (m.readCap (a + 32))
  | .fill q id _ => .fill q id (if void then .void else .val (queueVal q (m.read64 a)))
  | .fillH id _ => .fillH id (if void then .void else .val (m.readCap a))
  | e => e

/-- A latch of the trapped program as its frame has it. -/
def readLatch (m : Memory) (base : Nat) (l : Latch) : Latch :=
  match l.place with
  | none => l
  | some o =>
    let dw0 := m.read64 (base + o)
    if l.cause.isSome && !l.pend then l
    else
      let pend := l.pend && dw0.getLsbD 53
      if pend then l
      else { l with pend := false, cause := none, defer := none, missAt := none
                    eff := readEffect m (base + o + 16) (dw0.getLsbD 35) l.eff }

/-- What the list had of an entry beside what the frame shows: whether the access was a write, and of the KV region (R218). -/
def FaultRec.recall (listed : List FaultRec) (f : FaultRec) : FaultRec :=
  match listed.find? fun g => g.core == f.core && g.seq == f.seq && g.syll == f.syll && g.cls == f.cls && g.tinfo == f.tinfo with
  | some g => { f with write := g.write, kv := g.kv }
  | none => f

/-- The shadow-fault list as the handler has left it (R211, R212). -/
def readList (m : Memory) (base : Nat) (core : Nat) (q : SeqId) : List FaultRec :=
  let n := min 16 ((m.read64 (base + 0x20)).extractLsb' 16 16).toNat
  (List.range n).map fun i =>
    let d0 := m.read64 (base + 0x500 + 16 * i)
    { cls := FaultClass.ofCode (d0.extractLsb' 56 8).toNat, sub := d0.extractLsb' 48 8, tinfo := m.read64 (base + 0x508 + 16 * i)
      core := core, seq := q, syll := d0.extractLsb' 0 25, source := 0, write := false, kv := false, latch := none }

end Sys2Proof.Machine
end

