-- ==== Sys2Proof/Machine/Ops.lean ====
section
/-! DEFINITION. The operations every word goes through: where control goes next (R41, R107, R366-R369), taking an exception
(R205-R211) and returning from one (R212), freezing (R219, R220), holding (R47-R51), and issuing a word, guarded on or off (R127,
R206). -/
namespace Sys2Proof.Machine
open Sys2Proof

/-! ## Sequencers of a consist -/

/-- The sequencers of a consist: by position, the AS before the XS (R205). -/
def Consist.seqs (c : Consist) : List (Nat × SeqId) := c.cores.flatMap fun k => [(k, SeqId.as), (k, SeqId.xs)]

/-- Consist position of a core (R32). -/
def Consist.pos (c : Consist) (core : Nat) : Nat := (c.cores.findIdx? (· == core)).getD 0

/-- The rank of a fault (R205): the least is taken. -/
def Consist.rank (c : Consist) (f : FaultRec) : Nat :=
  f.cls.prio * 1000 + c.pos f.core * 2 + (match f.seq with | .as => 0 | .xs => 1)

def Consist.better (c : Consist) (f g : FaultRec) : FaultRec := if c.rank g < c.rank f then g else f

/-- The fault taken of several (R205). -/
def Consist.best (c : Consist) : List FaultRec → Option FaultRec
  | [] => none
  | f :: t => match c.best t with | none => some f | some g => some (c.better f g)

/-- Die of a consist's lead: its lowest (R48). Station cycles of all dies are one count here (log 5). -/
def Consist.lead (c : Consist) : Nat := c.cores.headD 0

/-! ## Streams -/

/-- Fields of a header (R115). -/
def hdrMark (h : Word64) : Nat := (h.extractLsb' 56 8).toNat
def hdrLen (h : Word64) : Nat := (h.extractLsb' 44 12).toNat
def hdrNum (h : Word64) : BitVec 14 := h.extractLsb' 30 14
def hdrDep (h : Word64) : BitVec 14 := h.extractLsb' 16 14
def hdrHasDep (h : Word64) : Bool := h.getLsbD 15
def hdrLast (h : Word64) : Bool := h.getLsbD 14
def hdrCrc (h : Word64) : BitVec 12 := h.extractLsb' 0 12

/-- A header that R119 does not call malformed. -/
def hdrOk (h : Word64) : Bool :=
  hdrLen h != 0 && h.extractLsb' 12 2 == 0 && (hdrHasDep h || hdrDep h == 0)

/-- Whether a section's body passes its checks: the CRC of its header (R118), and no granule of it is poisoned (R43, R325). -/
def State.crcOk (s : State) (hdr : Nat) : Bool :=
  let h := s.mem.header hdr
  (s.mem.firstPoison (syllAt (hdr + 2)) (12 * hdrLen h)).isNone &&
    crc12 (s.mem.read (syllAt (hdr + 2)) (12 * hdrLen h)) == hdrCrc h

/-- Whether a syllable lies in a sequencer's stream (R381). -/
def Seq.inStream (q : Seq) (a : Nat) : Bool := decide (q.streamLo ≤ a) && decide (a < q.streamHi)

/-- A header in the stream whose checks pass (R43, R119, R381). -/
def State.targetOk (s : State) (q : Seq) (a : Nat) : Bool :=
  let h := s.mem.header a
  q.inStream a && hdrMark h == 0xFF && hdrOk h && s.crcOk a

/-- The place of a section's start (R41). -/
def Place.begin (p : Place) (hdr t : Nat) : Place :=
  { p with pc := hdr, start := true, base := t, first := false, pend := none, loops := [], rep := none, stop := .none, req := none }

/-- The running section retires (R7). -/
def Place.retire (p : Place) (t : Nat) : Place := { p with retired := (p.secNum, t) :: p.retired.take 1 }

/-- Control passes to the syllable after the word, or to the next section (R41). -/
def Place.toNext (p : Place) (next t : Nat) : Place :=
  if next < p.secEnd then { p with pc := next, base := t + 1, first := false, rep := none }
  else { p.retire t with pc := next, start := true, base := t + 1, first := false, rep := none }

/-- The loops that end at a word, innermost first, until one goes round (R367, R368): the loops that stay, and that one. -/
def loopTest (q : Seq) (next : Nat) : List Loop → List Loop × Option Loop
  | [] => ([], none)
  | l :: ls =>
    if l.last = next then
      (if Tbl.get 0 q.lc l.counter = 0 then loopTest q next ls else (l :: ls, some l))
    else (l :: ls, none)

/-- The last syllable after an instruction of n words at a place. -/
def Place.after (p : Place) (n : Nat) : Nat := p.pc + 3 * n

/-- Where control goes after a word of n words (its literal counted) that issued at the current cycle. -/
def advance (n : Nat) (ctl : Ctl) : Act Unit := do
  let t ← getTtc
  let q ← getSeq
  let p := { q.at_ with req := none }
  let place := fun p' => modSeq fun q => { q with at_ := p' }
  let next := p.after n
  match ctl with
  | .goto hdr => place ((p.retire t).begin hdr (t + 1))
  | .back hdr word => do
    let s ← get
    let h := s.mem.header hdr
    place { p.retire t with
      pc := word, start := false, base := t + 1, first := false, pend := none, hdr := hdr, secNum := hdrNum h
      secEnd := hdr + 2 + 3 * hdrLen h, secFrom := t + 1, loops := [], rep := none }
  | .stop why => place { if next < p.secEnd then p else p.retire t with pc := next, base := t + 1, first := false, rep := none, stop := why }
  | .fall | .trap _ | .times _ | .skip _ =>
    match p.rep with
    | some (m + 2) => place { p with base := t + 1, first := false, rep := some (m + 1) }
    | _ =>
      match loopTest q next p.loops with
      | (ls, some l) => do
        place { p with pc := l.first, base := t + 1, first := false, rep := none, loops := ls }
        result 1 (.setLc l.counter (Tbl.get 0 q.lc l.counter - 1))
        match l.level with
        | some k => do
          let c ← getCore
          result 1 (.setLvl k (Tbl.get 0 c.lvl k + 1))
        | none => pure ()
      | (ls, none) =>
        let p := { p with loops := ls }
        match ctl with
        | .times m => place { p with pc := next, base := t + 1, first := false, rep := some m }
        | .skip m => place (p.toNext (next + 3 * m) t)
        | _ => place (p.toNext next t)

/-! ## Freezing (R219, R220) -/

/-- The core freezes with the fault's record, its peers with class 0x11; no frame is written. -/
def freeze (s : State) (k : Nat) (f : FaultRec) : State :=
  let c := s.cons k
  let s := c.cores.foldl (fun s core => s.modCoreAt core fun e =>
    { e with frozen := some (if core = f.core then ⟨f.cls, f.sub, f.tinfo, f.syll⟩ else ⟨.aborted, 0, 0, f.syll⟩) }) s
  s.setCons k { s.cons k with mode := .frozen s.ptc, faults := [f], next := none }

def doubleFault (f : FaultRec) (core : Nat) (q : SeqId) : FaultRec :=
  { f with cls := .doubleFault, sub := 0, tinfo := 0, core := core, seq := q, latch := none }

/-! ## Taking an exception (R204-R211) -/

/-- Whether a sequencer can take a trap (R208). -/
def handlerOk (s : State) (core : Nat) (q : SeqId) : Bool :=
  let sq := s.seq core q
  let v := sq.tvec
  let hdr := (v.extractLsb' 0 25).toNat
  v.getLsbD 62 && sq.inStream hdr && hdrMark (s.mem.header hdr) == 0xFF && decide (sq.tframe.toNat + 0xA000 ≤ 0x100000)

/-- The word of tcause for a sequencer (R207). -/
def causeWord (c : Consist) (f : FaultRec) (core : Nat) (q : SeqId) : Word64 :=
  BitVec.ofNat 64 (f.code * 2 ^ 56 + f.sub.toNat * 2 ^ 48 + c.pos f.core % 32 * 2 ^ 43 +
    bit (f.seq == .xs) 42 + bit (f.core == core && f.seq == q) 41 + f.source.toNat * 2 ^ 38)

/-- A result that a fault took away: a queue's entry becomes void (R328). -/
def lostResult (s : State) (l : Latch) : State :=
  match l.eff with
  | .fill q id _ => s.modCoreAt l.core fun k => { k with dq := Tbl.set k.dq q (fillEntry (k.dqs q) id .void) }
  | .fillH id _ => s.modCoreAt l.core fun k => { k with hq := fillEntry k.hq id .void }
  | _ => s

/-- The minor translation faults that units find at the boundary or after it (R211): the latch is held for replay. A latch that is being
replayed has its entry still. -/
def shadowMinor (t : Nat) (l : Latch) : Option FaultRec :=
  match l.missAt with
  | some (u, va) =>
    if t ≤ u && !l.pend && !l.replay then
      some { FaultRec.zero with cls := .minorTrans, tinfo := va, core := l.core, seq := l.seq, syll := l.syll, latch := some l.id }
    else none
  | none => none

/-- One sequencer enters its handler (R207-R210): cause, frame, handler section at t. -/
def enterHandler (k : Nat) (f : FaultRec) (t : Nat) (ls : List Latch) (list : List FaultRec) (cq : Nat × SeqId)
    (acc : State × List Latch) : State × List Latch :=
  let s := acc.1
  let c := s.cons k
  let s := s.modSeqAt cq.1 cq.2 fun q => { q with tcause := causeWord c f cq.1 cq.2, tinfo := f.tinfo }
  let mine := fun (x : Nat) (q : SeqId) => x == cq.1 && q == cq.2
  let w := writeFrame s cq.1 cq.2 t (ls.filter fun l => mine l.core l.seq) (list.filter fun e => mine e.core e.seq)
  let s := w.1.modSeqAt cq.1 cq.2 fun q =>
    { q with saved := some q.at_, at_ := q.at_.begin (q.tvec.extractLsb' 0 25).toNat t }
  (s, acc.2 ++ w.2)

/-- The spill map and the parked columns travel in the frame (R155, R422); R209's layout has no field for them (log 96). -/
def Core.spillOut (k : Core) : Core := { k with spilled := k.spill.map fun p => (p.1, p.2, k.column p.2) }

/-- They come back as they were at the trap. -/
def Core.spillIn (k : Core) : Core :=
  k.spilled.foldl (fun k p => k.setColumn p.2.1 p.2.2) { k with spill := k.spilled.map fun p => (p.1, p.2.1), spilled := [] }

/-- A trap at the boundary t, on a state in which nothing of cycle t has performed: every sequencer saves its frame and starts
its handler (R206-R210). `others` are the lower-ranked faults of the cycle for words issued earlier, which enter the
shadow-fault lists (R205, R211). -/
def trap (s : State) (k : Nat) (f : FaultRec) (others : List FaultRec) : State :=
  let c := s.cons k
  let t := c.ttc
  let gone := c.latches.filter fun l => f.latch == some l.id && !l.replay
  let held := others.filterMap FaultRec.latch
  let minors := c.latches.filterMap (shadowMinor t)
  let ls := (c.latches.filter fun l => (f.latch != some l.id || l.replay) && !l.isTok).map fun l =>
    if l.replay then { l with pend := true, replay := false, err := none, missAt := none }
    else if held.contains l.id || (shadowMinor t l).isSome then { l with pend := true, err := none } else l
  let list := (c.relist.map fun e => e.2.2) ++ others ++ minors
  let s := gone.foldl lostResult s
  let s := c.cores.foldl (fun s core => s.modCoreAt core fun e =>
    { e.spillOut with mat := e.mat.filter fun m => !(f.latch == some m.id || held.contains m.id) }) s
  match c.seqs.find? fun cq => !handlerOk s cq.1 cq.2 with
  | some (core, q) => freeze s k (doubleFault f core q)
  | none =>
    if c.seqs.any fun cq => decide (16 < (list.filter fun e => e.core == cq.1 && e.seq == cq.2).length) then
      freeze s k (doubleFault f f.core f.seq)
    else
      let s := c.cores.foldl (fun s core => traceEvent s core 2 0 (f.code * 2 ^ 32 + f.syll.toNat) t) s
      let r := c.seqs.foldl (fun acc cq => enterHandler k f t ls list cq acc) (s, [])
      let s := r.1
      s.setCons k { s.cons k with
        latches := c.latches.filter Latch.isTok, parked := r.2.map (fun l => { l with due := l.due - t })
        trapT := some t, trapMat := true, listed := list
        faults := [], mode := .run, relist := [], next := none }

/-- Stopping for a context save (R215, R216): the dispatcher's MAJOR_FAULT_SAVE goes on. -/
def beginSave (s : State) (k : Nat) (f : Option FaultRec) : State :=
  s.setCons k { s.cons k with
    mode := .saving, saveFor := f, faults := (s.cons k).faults.filter (fun g => some g != f), next := none }

/-- Takes an exception (R204-R211, R219, R220). `s` is the state in which nothing of the current cycle has performed; the faults
that units report in this cycle for words issued earlier are found by performing it. A hold in progress is over (R50). -/
def raise (s : State) (k : Nat) (f : FaultRec) : State :=
  let s := endHold s k
  let c := s.cons k
  let found := ((performDue s k).cons k).faults.filter fun g => !decide (g = f)
  match c.best (found.filter fun g => g.cls == .capability || g.cls == .partition) with
  | some g => freeze s k (if f.cls.prio = 1 then c.better f g else g)
  | none =>
    if f.cls.prio = 1 then freeze s k f
    else if c.trapT.isSome then freeze s k (doubleFault f f.core f.seq)
    else if f.cls = .majorTrans then beginSave s k (some f)
    else trap s k f found

/-- A unit reports a fault for a word that issued at TTC `issued` (R205, R211, R219): within a handler, a fault of the trapped
program enters its frame's list, a violation freezes, and a seventeenth entry is a double fault. -/
def report (s : State) (k : Nat) (f : FaultRec) (issued : Nat) : State :=
  let c := s.cons k
  match c.trapT with
  | some t =>
    if issued < t && f.cls.prio != 1 then
      let base := privAt f.core (s.seq f.core f.seq).tframe.toNat
      let w := s.mem.read64 (base + 0x20)
      let n := (w.extractLsb' 16 16).toNat
      if 16 ≤ n then freeze s k (doubleFault f f.core f.seq)
      else
        let m := s.mem.write64 (base + 0x20) (w + 0x10000)
        let m := m.write64 (base + 0x500 + 16 * n) (BitVec.ofNat 64 (f.code * 2 ^ 56 + f.sub.toNat * 2 ^ 48 + f.syll.toNat))
        let m := m.write64 (base + 0x508 + 16 * n) f.tinfo
        let m := match c.parked.find? (fun l => f.latch == some l.id) |>.bind Latch.place with
          | some o => m.write64 (base + o) ((m.read64 (base + o) ||| 1#64 <<< 53) &&& ~~~(1#64 <<< 52))
          | none => m
        { s with mem := m }.setCons k (match f.latch with
          | some id => { c.modLatch id fun l => { l with pend := true } with listed := c.listed ++ [f] }
          | none => { c with listed := c.listed ++ [f] })
    else s.addFault k f
  | none => s.addFault k f

/-! ## Replies -/

/-- What a unit brings is put into the latch that waits for it; while a handler runs, into its record too (R206). -/
def deliver (s : State) (k : Nat) (id : Nat) (f : Effect → Effect) : State :=
  let c := (s.cons k).modLatch id fun l => { l with eff := f l.eff, cause := none, arrive := none, back := none, defer := none }
  let s := s.setCons k c
  match c.parked.find? fun l => l.id == id && !l.pend with
  | some l =>
    match l.place, record0 (s.core l.core) l with
    | some o, some r =>
      let base := privAt l.core (s.seq l.core l.seq).tframe.toNat
      let old := s.mem.read64 (base + o)
      let m := writeChunks s.mem (base + o + 16) r.data
      let dw0 := (old &&& ~~~(1#64 <<< 52) &&& ~~~(1#64 <<< 35)) ||| (if r.void then 1#64 <<< 35 else 0)
      { s with mem := m.write64 (base + o) dw0 }
    | _, _ => s
  | none => s

/-- The value a reply brings, in the place of the destination's. -/
def Effect.withWord (v : Word64) : Effect → Effect
  | .setS r _ => .setS r v
  | .setP r _ => .setP r (v.getLsbD 0)
  | .fill q id _ => .fill q id (.val (queueVal q v))
  | e => e

def Effect.withCap (c : Cap) : Effect → Effect
  | .setH r _ => .setH r c
  | .fillH id _ => .fillH id (.val c)
  | e => e

/-- A destination whose result does not come: a queue's entry is void, a register keeps its value. -/
def Effect.lost : Effect → Effect
  | .fill q id _ => .fill q id .void
  | .fillH id _ => .fillH id .void
  | _ => .mark

/-! ## Return from an exception (R212) -/

/-- A place moved by the cycles a handler took, as its frame's doubleword 1 has it. -/
def Place.resume (s : State) (p : Place) (t z : Nat) (dw1 : Word64) : Place :=
  let syll := (dw1.extractLsb' 0 25).toNat
  let cyc := (dw1.extractLsb' 32 32).toNat
  let p := { p with secFrom := p.secFrom + (z - t), retired := p.retired.map fun r => (r.1, r.2 + (z - t)) }
  if p.stop ≠ .none then p
  else if syll = p.wordAt % 2 ^ 25 then
    match s.dueAt p with
    | some u => { p with base := z + cyc - (u - p.base) }
    | none => p
  else { p with pc := syll, start := false, first := false, pend := none, rep := none, base := z + cyc - s.gapAt syll }

/-- One sequencer's registers come back from its frame (R209, R212, R335). -/
def reloadSeq (s : State) (t z : Nat) (cq : Nat × SeqId) : State :=
  let q := s.seq cq.1 cq.2
  let base := privAt cq.1 q.tframe.toNat
  let m := s.mem
  let regs := (List.range 64).foldl (fun (r : Tbl Word64) i =>
    if i = 0 ∨ (56 ≤ i ∧ i ≤ 61) then r else Tbl.set r i (m.read64 (base + 0x40 + 8 * i))) q.s
  let hs := (List.range 31).foldl (fun (h : Tbl Cap) i => Tbl.set h i (m.readCap (base + 0x300 + 16 * i))) q.h
  let lc := (List.range 4).foldl (fun (l : Tbl (BitVec 16)) i =>
    Tbl.set l i (BitVec.ofNat 16 (leNat (m.read (base + 0x288 + 2 * i) 2)))) q.lc
  let bs := (List.range 8).foldl (fun (b : Tbl BReg) i =>
    let w := m.read64 (base + 0x248 + 8 * i)
    let a := w.extractLsb' 0 25
    Tbl.set b i ⟨w.getLsbD 63, w.getLsbD 63 && !s.targetOk q a.toNat, a, z - min 4 (w.extractLsb' 32 3).toNat⟩) q.b
  let place := match q.saved with
    | some p => p.resume s t z (m.read64 (base + 0x8))
    | none => q.at_
  s.modSeqAt cq.1 cq.2 fun q =>
    { q with s := regs, p := (m.read64 (base + 0x240)).setWidth 16, h := hs, lc := lc, b := bs, at_ := place, saved := none }

/-- The handles that the frame held have gone back: none stays there (R86, log 100). -/
def leaveFrame (s : State) (cq : Nat × SeqId) : State :=
  let base := privAt cq.1 (s.seq cq.1 cq.2).tframe.toNat
  { s with mem := { s.mem with tags := s.mem.tags.filter fun g => !(decide (base ≤ 16 * g) && decide (16 * g < base + 0xA000)) } }

/-- A latch of the trapped program comes back, its cycles counted from z; one still awaited holds with cause bit 2 from now on (R212). -/
def unpark (s : State) (t z : Nat) (l : Latch) : Latch :=
  let base := privAt l.core (s.seq l.core l.seq).tframe.toNat
  let l := readLatch s.mem base l
  { l with
    due := l.due + z, place := none, cause := if l.cause.isSome && !l.pend then some (causeBit 2) else l.cause
    missAt := l.missAt.map fun p => (p.1 + (z - t), p.2)
    defer := l.defer.map fun d => { d with look := d.look + (z - t) }
    eff := match l.eff with
      | .setB r b => .setB r { b with since := b.since + (z - t) }
      | e => e }

/-- The mode of a consist that goes on: the wait of a task boundary where its sequencers have come to one (R44, R346). -/
def goOn (s : State) (k : Nat) : Mode :=
  let c := s.cons k
  let stops := c.seqs.map fun cq => (s.seq cq.1 cq.2).at_.stop
  match stops.findSome? fun x => match x with | .ovly n => some n | _ => none with
  | some n => .boundary (some n) c.ttc
  | none => if stops.all (· == .cardone) then .boundary none c.ttc else .run

/-- Return from the trap at z (R212): registers and latches come back from the frames, and the entries that are still listed are
gone through while the TTC stands at z (`Mode.reentry`). -/
def resumeAt (s : State) (k : Nat) : State :=
  let c := s.cons k
  let z := c.ttc
  let t := c.trapT.getD z
  let list := c.seqs.flatMap fun cq =>
    (readList s.mem (privAt cq.1 (s.seq cq.1 cq.2).tframe.toNat) cq.1 cq.2).map fun f => (cq.1, cq.2, f.recall c.listed)
  let back := c.parked.map (unpark s t z)
  let s := c.seqs.foldl (fun s cq => reloadSeq s t z cq) s
  let s := c.seqs.foldl leaveFrame s
  let s := c.cores.foldl (fun s core => s.modCoreAt core fun e =>
    { e.spillIn with
             mat := e.mat.map fun m => if m.issued < t then { m with stamp := m.stamp + (z - t), issued := m.issued + (z - t) } else m
             slots := e.slots.map fun p => if p.2.since ≤ t then (p.1, { p.2 with since := p.2.since + (z - t) }) else p
             eng := e.eng.map fun q => (q.1, q.2.map fun x => { x with stuck := false })
             deaf := [] }) s
  let s := c.seqs.foldl (fun s cq =>
    traceEvent s cq.1 3 (match cq.2 with | .as => 0 | .xs => 1) ((s.seq cq.1 cq.2).at_.wordAt % 2 ^ 25) z) s
  s.setCons k { s.cons k with
    latches := back ++ (s.cons k).latches, parked := [], trapT := none, trapMat := false, relist := list, listed := [], next := none
    mode := if list.isEmpty then goOn s k else .reentry none }

/-! ## The shadow scalar context (R214) -/

/-- A fresh delay beyond a unit's least time (log 5). -/
def State.delay (s : State) : Nat × State := (Config.extraDelay s.freeCtr, { s with freeCtr := s.freeCtr + 1 })

/-- A job that has not begun. -/
def newWalk (va : Nat) (write kv : Bool) (f : WalkFor) : Walk :=
  { va := va, write := write, kv := kv, for_ := f, len := 0, ends := none, cas := none }

/-- An extension leaves for its home (R74), over the Turntable where that is on another package (R295). -/
def sendExtension (s : State) (core id : Nat) : Nat ⊕ Cap → State
  | .inl key => s.homeMsg core key .extend id
  | .inr c =>
    let item : OutItem :=
      { id := id, peer := c.addr.toNat / 2 ^ 58, seq := none
        item := .inr (.extend c.part (c.addr.toNat % 2 ^ 52) id), cap := nullCap, core := core, rot := s.tt.rot }
    { s with tt := { s.tt with items := s.tt.items ++ [item] } }

/-- The context begins the job that is now its first. -/
def beginWalk (s : State) (core : Nat) : State :=
  match (s.core core).walks with
  | w :: ws =>
    if w.ends.isSome then s
    else match w.for_ with
      | .extension id home =>
        sendExtension (s.modCoreAt core fun k => { k with walks := { w with ends := some s.clk } :: ws }) core id home
      | _ => s.modCoreAt core fun k => { k with walks := { w with ends := some (s.clk + w.len) } :: ws }
  | [] => s

/-- A job of the context, after those before it. -/
def addWalk (s : State) (core : Nat) (w : Walk) : State :=
  let (n, s) := s.delay
  beginWalk (s.modCoreAt core fun k => { k with walks := k.walks ++ [{ w with len := 30 + n }] }) core

/-- Jobs that are over; the next begins. -/
def dropWalks (s : State) (core : Nat) (gone : Walk → Bool) : State :=
  beginWalk (s.modCoreAt core fun k => { k with walks := k.walks.filter fun w => !gone w }) core

def Walk.extends (w : Walk) (id : Nat) : Bool := match w.for_ with | .extension n _ => n == id | _ => false

/-- The extension of a request is over: its answer has come, or nothing waits for it any more. -/
def endExtension (s : State) (id : Nat) : State :=
  match s.cores.find? fun e => e.2.walks.any fun w => w.extends id with
  | some e => dropWalks s e.1 fun w => w.extends id
  | none => s

/-! ## Holds (R47-R51) -/

/-- What a waiting word asks for, once (R74, R81, R386). -/
def placeReq (s : State) (req : Option HoldReq) : State :=
  match req with
  | none => s
  | some (.extend home) =>
    let id := s.nextId
    (addWalk { s with nextId := id + 1 } s.cur.1 (newWalk 0 false false (.extension id home))).modSeqAt s.cur.1 s.cur.2 fun q =>
      { q with at_ := { q.at_ with req := some id } }
  | some .token => s.modSeqAt s.cur.1 s.cur.2 fun q => { q with at_ := { q.at_ with req := some 0 } }
  | some (.record _) =>
    s.modSeqAt s.cur.1 s.cur.2 fun q => { q with at_ := { q.at_ with req := some (s.clk + 2 * s.dC s.cur.1 + 4) } }

/-- The consist holds, or the hold in progress goes on for one more item (R48, R50). -/
def holdFor (s : State) (k : Nat) (causes : BitVec 16) (words : List (Nat × SeqId)) (late : List Nat) : State :=
  let c := s.cons k
  let h := match c.mode with
    | .hold h => { h with causes := h.causes ||| causes
                          words := h.words ++ words.filter (fun w => !h.words.contains w)
                          late := h.late ++ late.filter (fun x => !h.late.contains x), ready := none }
    | _ => { causes := causes, from_ := s.clk, words := words, late := late, ready := none }
  s.setCons k { c with mode := .hold h }

/-- The word that cannot issue makes the consist hold (R48). -/
def beginHold (s : State) (k : Nat) (causes : BitVec 16) (req : Option HoldReq) : State :=
  { holdFor (placeReq s req) k causes [s.cur] [s.cur.1] with note := .held }

/-! ## Issue -/

/-- What a guarded-off word still does (R127): it pops the queues it names as sources and discards what it pops, and pushes a void
into each it names as a destination, present `lat` cycles on. -/
def skip (lat : Nat) : List Role → Act Unit
  | [] => pure ()
  | r :: rs => do
    let s ← get
    match r with
    | .sSrc x =>
      match srcQueue x with
      | some q => do let _ ← popQ q
      | none => pure ()
    | .hSrc x =>
      if x = 31 then
        match ← popHq with
        | some c => modify fun s => s.dropWeight s.cur.1 c
        | none => pure ()
      else pure ()
    | .fqPop => do let _ ← popQ 7 0x03
    | .bqPop => do let _ ← popQ (match s.cur.2 with | .as => 4 | .xs => 5)
    | .sDst x =>
      match dstQueue s.cur.2 x with
      | some q => do
        let id ← pushQ q
        result lat (.fill q id .void)
      | none => pure ()
    | .hDst x =>
      if x = 31 then do
        let id ← pushHq
        result lat (.fillH id .void)
      else pure ()
    | .bqPush => do
      let q := match s.cur.2 with | .as => 5 | .xs => 4
      let id ← pushQ q
      result lat (.fill q id .void)
    skip lat rs

/-- Whether the partner meets a section's dependence in the cycle before its first word would issue (R42). -/
def depMet (s : State) (core : Nat) (q : SeqId) (t : Nat) (n : BitVec 14) : Bool :=
  let other := (s.seq core (match q with | .as => .xs | .xs => .as)).at_
  let before := other.retired.filter fun r => decide (r.2 + 1 ≤ t)
  let retired := match before with | r :: _ => r.1 == n | [] => false
  let running : Option (BitVec 14) :=
    if !other.start && other.stop != .idle && decide (other.secFrom + 1 ≤ t) then some other.secNum
    else match other.retired.reverse.find? fun r => decide (t ≤ r.2 + 1) with
      | some r => some r.1
      | none => none
  retired || (match running with | some r => decide (n.toNat < r.toNat) | none => false)

/-- tinfo of a section's poison fault (R207): the syllable address of its first poisoned granule; a failed CRC without one has no stated
granule, and tinfo is free (log 15). -/
def sectionInfo (s : State) (hdr : Nat) : Word64 :=
  match s.mem.firstPoison (syllAt (hdr + 2)) (12 * hdrLen (s.mem.header hdr)) with
  | some a => BitVec.ofNat 64 ((a - syllAt 0) / 4)
  | none => Config.freeWord s.freeCtr

/-- The faults of a section that are raised at its first word: its CRC (R43) and its dependence (R42). -/
def firstFaults (s : State) : List FaultRec :=
  let q := s.seq s.cur.1 s.cur.2
  let p := q.at_
  if !p.first then []
  else
    let h := s.mem.header p.hdr
    (if s.crcOk p.hdr then [] else [s.mkFault .poison 0 (sectionInfo s p.hdr)]) ++
    (if hdrHasDep h && !depMet s s.cur.1 s.cur.2 s.ttc (hdrDep h) then [s.mkFault .schedule 0x01 0] else [])

/-- The work of one word: its effect where it is guarded on, what R127 leaves of it where it is not; then control goes on. -/
def wordAct (n : Nat) (g : Guard) (off : Act Unit) (body : Act Ctl) : Act (Option FaultRec) := do
  let q ← getSeq
  let ctl ← if guardOn q g then body else do
    off
    pure .fall
  advance n ctl
  match ctl with
  | .trap f => pure (some f)
  | _ => pure none

/-- The state at the boundary of a word that counts as issued (R309): nothing of the cycle has performed, and control has
passed on. -/
def countIssued (s : State) (k : Nat) (s' : State) : State :=
  let new := (s'.cons k).latches.filter fun l => decide (s.nextId ≤ l.id)
  let s := s.modSeqAt s.cur.1 s.cur.2 fun q => { q with at_ := (s'.seq s.cur.1 s.cur.2).at_ }
  { s with nextId := s'.nextId }.setCons k { s.cons k with latches := (s.cons k).latches ++ new }

/-- A word issues (R107, R206): on the state in which everything of this cycle has performed. Where it raises a fault, nothing of
it has an effect and the exception is taken; where it has to wait, the consist holds. -/
def issueOn (k n : Nat) (g : Guard) (off : Act Unit) (body : Act Ctl) (s : State) : State :=
  let v := performDue s k
  let c := s.cons k
  match c.best (firstFaults v), (wordAct n g off body).run v with
  | some f, .error (.fault e) => { raise s k (c.better f e) with note := .faulted (c.better f e) }
  | some f, _ => { raise s k f with note := .faulted f }
  | none, .error (.fault e) => { raise s k e with note := .faulted e }
  | none, .error (.hold causes req) => beginHold s k causes req
  | none, .ok (some f, s') => { raise (countIssued s k s') k f with note := .faulted f }
  | none, .ok (none, s') => { s' with note := .issued }

/-- An instruction word of n words issues on the sequencer `s.cur` (R107). -/
def issueN (n : Nat) (g : Guard) (off : Act Unit) (body : Act Ctl) (s : State) : Host.Outcome State Fault Refusal :=
  match s.consistOf s.cur.1 with
  | none => .fault .noIssuer
  | some k => .next (issueOn k n g off body s)

/-- A word without a literal. -/
def issue (g : Guard) (off : Act Unit) (body : Act Ctl) (s : State) : Host.Outcome State Fault Refusal := issueN 1 g off body s

/-- A word whose control falls to the next. -/
def issueFall (g : Guard) (off : Act Unit) (body : Act Unit) (s : State) : Host.Outcome State Fault Refusal :=
  issue g off (do
    body
    pure .fall) s

/-- Whether a handler runs on the issuing sequencer's consist (R208). -/
def inHandler : Act Bool := do
  let s ← get
  pure (s.cons s.curCons).trapT.isSome

/-- A word that a handler may not issue (R357, R368, R378, R387): subcode 0x08, which R208 makes a double fault. -/
def notInHandler : Act Unit := do
  let h ← inHandler
  need (!h) .illegal 0x08

/-- A word that enters the matrix or the attention queue is a double fault in a handler, and enters nothing (R208). -/
def notQueuedInHandler : Act Unit := do
  let h ← inHandler
  need (!h) .doubleFault

end Sys2Proof.Machine
end

