-- ==== Sys2Proof/Machine/Units.lean ====
section
/-! DEFINITION. The units that bring results in station or package time: accesses to translated storage (R20, R162, R214, R225,
R432), the shadow scalar context's jobs (R214), and the replay of a listed minor fault (R212). -/
namespace Sys2Proof.Machine
open Sys2Proof

/-- What each cycle of package time adds towards an arithmetic cycle, of 26 (R237, log 10). -/
def State.rate (s : State) : Nat := match s.sys.point.toNat with | 0 => 26 | 1 => 22 | 2 => 18 | _ => 13

/-- The cycles of package time in which the arithmetic clocks make n cycles, at the operating point that stands. -/
def State.ptcIn (s : State) (n : Nat) : Nat := (26 * n + s.rate - 1 - s.sys.phase) / s.rate

/-- The package time at which an access of the issuing core that leaves now reaches its bank: d + 4 arithmetic cycles on (log 89). -/
def State.bankTime (s : State) (core : Nat) : Nat := s.ptc + s.ptcIn (s.dC core + 4)

/-- Whether an address lies in the core's partition's KV region (R218, R268). -/
def State.inKv (s : State) (core va : Nat) : Bool :=
  match (s.part ((s.core core).part.getD 0)).grant.kv with
  | some (b, n) => decide (b ≤ va) && decide (va < b + n)
  | none => false

/-- The byte ranges an access makes, in order: virtual address and length (R432). -/
def spansOf (op : DeferOp) (eff : Effect) : List (Nat × Nat) :=
  match op with
  | .read8 va => [(va, 8)]
  | .lanes l => l.map fun p => (p.2, 4)
  | .geom va => [(va, 96)]
  | .write => match eff with
    | .store _ segs => segs.map fun g => (g.at_, g.bytes.length)
    | _ => []

def DeferOp.isWrite : DeferOp → Bool
  | .write => true
  | _ => false

/-- The translation of several ranges as one access: the parts of each, or the first obstacle (R432). -/
def xlateSpans (s : State) (core : Nat) (write table : Bool) : List (Nat × Nat) → Except Xl (List (List Part))
  | [] => .ok []
  | (va, n) :: t =>
    match (if table then s.xlateTable core va n write else s.xlate core va n write), xlateSpans s core write table t with
    | .ok ps, .ok r => .ok (ps :: r)
    | .ok _, .error e => .error e
    | .miss a, .error (.bad c w) => if c = .majorTrans then .error (.miss a) else .error (.bad c w)
    | x, _ => .error x

/-- The geometry record a descriptor gives (R138, R355). -/
def geomOf (bs : List Byte) : Option Geom :=
  let w := BitVec.ofNat 64 (leNat (bs.take 8))
  let rank := (w.extractLsb' 61 3).toNat
  let fmt := (w.extractLsb' 57 4).toNat
  let ext := (List.range 7).map fun i => bytesAt bs (8 + 4 * i) 4
  let str := (List.range 7).map fun i => (BitVec.ofNat 64 (bytesAt bs (40 + 8 * i) 8)).toInt
  if rank = 0 ∨ 8 ≤ fmt ∨ w.extractLsb' 0 49 ≠ 0 ∨ bytesAt bs 36 4 ≠ 0 then none
  else if (ext.take rank).any (· == 0) || (ext.drop rank).any (· != 0) || (str.drop rank).any (· != 0) then none
  else some ⟨rank, fmt, w.extractLsb' 49 8, ext.take rank, str.take rank⟩

/-- Splits a run of bytes over the parts its range translates to. -/
def splitSeg (off : Nat) : List Part → List Byte → List Seg
  | [], _ => []
  | p :: ps, bs => ⟨off, hbmAt p.pa, bs.take p.len⟩ :: splitSeg (off + p.len) ps (bs.drop p.len)

/-- Lanes of a vector from 4-byte groups. -/
def lanesOf (l : List (Nat × List Byte)) : VReg :=
  l.foldl (fun v p => v ||| (BitVec.ofNat 4096 (leNat p.2) <<< (32 * p.1))) 0

/-- What an access that has translated brings: its effect, or the fault it reports at its due cycle (R87, R355). -/
def accessEffect (s : State) (l : Latch) (d : Deferred) (parts : List (List Part)) : Effect × Option FaultRec :=
  let f := { FaultRec.zero with core := l.core, seq := l.seq, syll := l.syll, latch := some l.id }
  let poison := parts.findSome? s.partsPoison
  match d.op with
  | .write => match l.eff with
    | .store c segs => (.store c ((segs.zip parts).flatMap fun p => splitSeg p.1.off p.2 p.1.bytes), none)
    | e => (e, none)
  | .read8 _ =>
    match poison with
    | some a => (l.eff, some { f with cls := .poison, tinfo := BitVec.ofNat 64 a })
    | none => (l.eff.withWord (BitVec.ofNat 64 (leNat (parts.flatMap s.readParts))), none)
  | .lanes ls =>
    match poison with
    | some a => (l.eff, some { f with cls := .poison, tinfo := BitVec.ofNat 64 a })
    | none => match l.eff with
      | .setV r m _ => (.setV r m (lanesOf ((ls.map Prod.fst).zip (parts.map s.readParts))), none)
      | e => (e, none)
  | .geom va =>
    match poison with
    | some a => (l.eff, some { f with cls := .poison, tinfo := BitVec.ofNat 64 a })
    | none => match geomOf (parts.flatMap s.readParts), l.eff with
      | some g, .setG r _ => (.setG r g, none)
      | _, e => (e, some { f with cls := .resource, tinfo := BitVec.ofNat 64 va })

/-- The PTC by which a refresh window or a bank collision delays an access that reaches its bank at `at_` (R20). -/
def bankDelay (s : State) (at_ : Nat) : Nat × State :=
  let refresh := if refreshOpen at_ then refreshClose at_ - at_ else 0
  let (n, s') := s.delay
  (refresh + (if Config.bankCollision s.freeCtr then n else 0), s')

/-- A write without what a die in reset discards. -/
def Effect.upOnly (s : State) : Effect → Effect
  | .store c segs => .store c (segs.filter fun g => (s.downAt g.at_).isNone)
  | e => e

/-- An access whose every part has translated: its bytes are read, unless they were at issue, and it is present at its due cycle,
or later by `late` cycles of package time (R20, R361). What a die in reset discards does not come (R241, R302). -/
def completeAccess (s : State) (k : Nat) (l : Latch) (d : Deferred) (parts : List (List Part)) (late : Option Nat) : State :=
  let e := if d.got then (l.eff, l.err) else accessEffect s l d parts
  let down := (parts.flatMap id).filterMap fun p => s.downAt (hbmAt p.pa)
  let s := if down.isEmpty then s else s.markDies l.core down
  if !down.isEmpty && !d.op.isWrite then
    s.setCons k ((s.cons k).modLatch l.id fun l => { l with defer := none, missAt := none, pend := false })
  else
    s.setCons k ((s.cons k).modLatch l.id fun l => { l with
      eff := e.1.upOnly s, err := e.2, defer := none, missAt := none, pend := false
      arrive := late, cause := if late.isSome then l.cause else none })

/-- The fault of an access that its translation ends in, raised at its perform cycle (R216, R225). -/
def accessFault (s : State) (l : Latch) (d : Deferred) (cls : FaultClass) (va : Nat) : FaultRec :=
  { FaultRec.zero with
    cls := cls, tinfo := BitVec.ofNat 64 va, core := l.core, seq := l.seq, syll := l.syll, latch := some l.id
    write := d.op.isWrite, kv := s.inKv l.core va }

/-- An access ends in a fault; one of a page that is not resident is made again after the context has come back (R217), and a replay's
stands in its list still (R212). -/
def failAccess (s : State) (k : Nat) (l : Latch) (f : FaultRec) : State :=
  s.setCons k ((s.cons k).modLatch l.id fun l => { l with
    err := some f, cause := none, missAt := none, arrive := none, pend := false
    defer := if f.cls = .majorTrans || l.replay then l.defer.map fun d => { d with got := false } else none })

/-- A walk for an access of a latch. -/
def latchWalk (s : State) (l : Latch) (write : Bool) (va : Nat) : State := addWalk s l.core (newWalk va write (s.inKv l.core va) (.latch l.id))

/-- The unit translates an access at its cycle (R162, R225): it is on its way, or it waits for a walk. -/
def lookUp (s : State) (k : Nat) (l : Latch) (d : Deferred) : State :=
  let c := s.cons k
  match xlateSpans s l.core d.op.isWrite false (spansOf d.op l.eff) with
  | .ok parts =>
    let (late, s) := bankDelay s d.bankAt
    completeAccess s k l d parts (if late = 0 then none else some (s.ptc + s.ptcIn (l.due - c.ttc) + late))
  | .error (.bad cls va) => failAccess s k l (accessFault s l d cls va)
  | .error (.miss va) =>
    let s := s.setCons k (c.modLatch l.id fun l => { l with
      missAt := some (c.ttc, BitVec.ofNat 64 va), cause := some (causeBit 8) })
    latchWalk s l d.op.isWrite va
  | .error (.ok _) => s

/-- An access that met a minor fault goes on after a walk (R162, R214, R432): it is fetched, reaching its bank d + 2 cycles on (log
89), meets the next missing part, or faults. -/
def walkedAccess (s : State) (k : Nat) (l : Latch) (d : Deferred) : State :=
  match xlateSpans s l.core d.op.isWrite false (spansOf d.op l.eff) with
  | .ok parts =>
    let (late, s) := bankDelay s (s.ptc + s.ptcIn (s.dC l.core + 2))
    let s := if late = 0 then s else s.setCons k ((s.cons k).modLatch l.id fun l => { l with cause := l.cause.map (· ||| causeBit 1) })
    completeAccess s k l d parts (some (s.ptc + s.ptcIn 96 + late))
  | .error (.bad cls va) => failAccess s k l (accessFault s l d cls va)
  | .error (.miss va) =>
    match s.walk ((s.core l.core).part.getD 0) va with
    | .leaf .. | .malformed =>
      match xlateSpans s l.core d.op.isWrite true (spansOf d.op l.eff) with
      | .error (.bad cls w) => failAccess s k l (accessFault s l d cls w)
      | _ => latchWalk s l d.op.isWrite va
    | .absent true => failAccess s k l (accessFault s l d .majorTrans va)
    | .absent false => failAccess s k l (accessFault s l d .capability va)
  | .error (.ok _) => s

/-- Accesses of a consist whose unit translates them by now, those of a trapped program included (R211). -/
def lookLatches (s : State) (k : Nat) : State :=
  let c := s.cons k
  let s := c.latches.foldl (fun s l =>
    match l.defer with
    | some d => if d.look ≤ c.ttc && l.missAt.isNone && !l.pend && (l.err.isNone || d.got) then lookUp s k l d else s
    | none => s) s
  c.parked.foldl (fun s l =>
    match l.defer with
    | some d =>
      if d.look ≤ c.ttc && l.missAt.isNone && !l.pend && (l.err.isNone || d.got) then
        match xlateSpans s l.core d.op.isWrite false (spansOf d.op l.eff) with
        | .ok parts =>
          let (late, s) := bankDelay s d.bankAt
          completeAccess s k l d parts (some (s.ptc + s.ptcIn (d.look + l.due - c.ttc) + late))
        | .error (.bad cls va) => failAccess s k l (accessFault s l d cls va)
        | .error (.miss va) => report s k { accessFault s l d .minorTrans va with cls := .minorTrans } 0
        | .error (.ok _) => s
      else s
    | none => s) s

/-- Results that have arrived by now are present (R430). -/
def arriveLatches (s : State) (k : Nat) : State :=
  let c := s.cons k
  ((c.latches ++ c.parked).filter fun l =>
      (match l.arrive with | some p => decide (p ≤ s.ptc) | none => false) ||
      (match l.back with | some t => decide (t ≤ s.clk) | none => false)).foldl
    (fun s l => deliver s k l.id id) s

/-- Replaying a listed minor fault (R212): the access is made again, as a hold does. -/
def replay (s : State) (k : Nat) (l : Latch) : State :=
  let s := s.setCons k ((s.cons k).modLatch l.id fun l => { l with replay := true, missAt := none })
  match l.defer with
  | some d => lookUp s k { l with missAt := none } d
  | none => s

/-! ## Accesses of words -/

/-- A result that is read from HBM: what the page table gives at issue is read then (R361); the unit translates it at issue + 2
(R225), it reaches its bank at `State.bankTime` (log 89), and it performs `lat` cycles after issue. -/
def readHbm (lat : Nat) (op : DeferOp) (eff : Effect) : Act Unit := do
  let id ← addLatch lat eff (some (causeBit 1)) none
  let s ← get
  let k := s.curCons
  let d : Deferred := { op := op, got := false, look := s.ttc + 2, bankAt := s.bankTime s.cur.1 }
  let l0 := (s.cons k).latches.find? fun l => l.id == id
  match l0, xlateSpans s s.cur.1 false true (spansOf op eff) with
  | some l, .ok parts =>
    let e := accessEffect s l d parts
    set (s.setCons k ((s.cons k).modNew id fun l => { l with eff := e.1, err := e.2, defer := some { d with got := true } }))
  | _, _ => set (s.setCons k ((s.cons k).modNew id fun l => { l with defer := some d }))

/-- A write into HBM, its segments' addresses still virtual. -/
def writeHbm (lat : Nat) (c : Cap) (segs : List Seg) : Act Unit := do
  let s ← get
  let id ← addLatch lat (.store c segs) (some (causeBit 1))
    (some { op := .write, got := false, look := s.ttc + 2, bankAt := s.bankTime s.cur.1 })
  let _ := id
  pure ()

end Sys2Proof.Machine
end

