-- ==== Sys2Proof/Machine/Way.lean ====
section
/-! DEFINITION. The permanent way: paths between dies (R233, R234), station times (R230), and the transfers of a consist on its lane
(R235, R236). -/
namespace Sys2Proof.Machine
open Sys2Proof

/-! ## Paths (R233, R234) -/

/-- The numbers from one to another, the last included. -/
def stepsTo (a b : Nat) : List Nat :=
  if a ≤ b then (List.range (b - a)).map (a + 1 + ·) else (List.range (a - b)).map (a - 1 - ·)

/-- The sites a path passes, its ends included: vertically first, or horizontally first where the site at the turn is empty (R234). -/
def nominalPath (i j : Nat) : List (Nat × Nat) :=
  let a := dieSites.getD i (0, 0)
  let b := dieSites.getD j (0, 0)
  a :: if dieSites.contains (b.1, a.2) then (stepsTo a.1 b.1).map (·, a.2) ++ (stepsTo a.2 b.2).map (b.1, ·)
       else (stepsTo a.2 b.2).map (a.1, ·) ++ (stepsTo a.1 b.1).map (·, b.2)

/-- The path of a pair: the fuses name those that go round a failed edge (R234). -/
def State.path (s : State) (i j : Nat) : List (Nat × Nat) := Tbl.get (nominalPath i j) s.sys.detours (34 * i + j)

/-- The dispatcher's table memory, filled at boot from the fuses: the distance and the path of every pair (R233). -/
def State.fillTable (s : State) : State :=
  { s with disp := { s.disp with
      table := s.sys.fused, paths := (List.range 1156).map fun k => s.path (k / 34) (k % 34) } }

/-- A distance as management cores and the loader read it from there, that of the table in force (R233, R234). -/
def State.tableDist (s : State) (i j : Nat) : Nat :=
  (s.disp.table.getD (34 * i + j) 0).toNat + (if s.sys.slack && i != j then 16 else 0)

/-! ## Station time (R230) -/

/-- A die's station time, which management cores read: the arithmetic clock's cycles since the die left reset, without those that its
own clock did not have. -/
def State.stationTime (s : State) (die : Nat) : Nat := s.sys.clk - (s.die die).station - (s.die die).missed

/-- Dies whose clocks are gated do not count a cycle (R230, R327). -/
def countGated (s : State) : State :=
  { s with sys := { s.sys with dies := s.sys.dies.map fun e =>
      (e.1, if e.2.power = 0 then e.2 else { e.2 with missed := e.2.missed + 1 }) } }

/-! ## Transfers of a consist (R235, R236) -/

/-- The TTC at which a transfer between two dies of one consist performs (R236). -/
def State.transferDue (s : State) (x y departure : Nat) : Nat := departure + s.dist x y + s.dist cDie x + 2 - s.dist cDie y

/-- Cycles of one hop (R21). -/
def hopTime : Nat := 6

/-- The edges that a transfer takes on its lane, each with its TTC (R21, R234). -/
def State.spots (s : State) (t : Transfer) : List ((Nat × Nat) × (Nat × Nat) × Nat) :=
  let p := s.path t.src t.dst
  (p.zip (p.drop 1)).zip (List.range p.length) |>.map fun e => (e.1.1, e.1.2, t.departs + hopTime * e.2)

/-- Whether two transfers would have one lane of one edge in one cycle. -/
def State.clash (s : State) (t u : Transfer) : Bool := (s.spots t).any (s.spots u).contains

/-- A transfer of a consist departs on its lane: its latch performs at the receiving die (R236). Where it meets one that departed before,
the router raises a resource fault with tinfo 0, and it does not perform. The spec's instructions have none (log 101). -/
def State.depart (s : State) (k : Nat) (t : Transfer) (l : Latch) : State :=
  let c := s.cons k
  if c.transfers.any (s.clash t) then
    s.addFault k { FaultRec.zero with cls := .resource, core := l.core, seq := l.seq, syll := l.syll }
  else
    s.setCons k { c with
      transfers := (c.transfers.filter fun u => decide (t.departs < s.transferDue u.src u.dst u.departs)) ++ [t]
      latches := c.latches ++ [{ l with due := s.transferDue t.src t.dst t.departs }] }

end Sys2Proof.Machine
end

