-- ==== Sys2Proof/Machine/Stream.lean ====
section
/-! DEFINITION. Starting sections and overlays (R41-R45, R115-R119), and when a task boundary's wait is over (R44, R346, R378). -/
namespace Sys2Proof.Machine
open Sys2Proof

/-- A section starts: its header is read, or the fault of R119 stands in wait for its cycle. -/
def enterSection (s : State) (core : Nat) (q : SeqId) (t : Nat) : State :=
  let sq := s.seq core q
  let p := sq.at_
  let h := s.mem.header p.pc
  if hdrMark h ≠ 0xFF ∨ !sq.inStream p.pc then
    let sub : BitVec 8 := if hdrMark h = 0xFE ∧ sq.inStream p.pc then 0x02 else 0x0C
    s.modSeqAt core q fun sq => { sq with at_ := { p with start := false, pend := some (sub, true) } }
  else
    let pend := match p.pend with
      | some x => some x
      | none => if hdrOk h then none else some (0x0C, false)
    let s := s.modSeqAt core q fun sq => { sq with at_ := { p with
      start := false, pc := p.pc + 2, first := true, hdr := p.pc, secNum := hdrNum h, secEnd := p.pc + 2 + 3 * hdrLen h
      secFrom := t, pend := pend } }
    traceEvent s core 5 (match q with | .as => 0 | .xs => 1) ((hdrNum h).toNat * 2 ^ 26 + p.pc % 2 ^ 25) t

/-- Every section of a consist that starts at its TTC (R41). -/
def enterSections (s : State) (k : Nat) : State :=
  let c := s.cons k
  c.seqs.foldl (fun s cq =>
    let p := (s.seq cq.1 cq.2).at_
    if p.start && p.stop == .none && p.pend.all (fun x => !x.2) && decide (p.base ≤ c.ttc) then enterSection s cq.1 cq.2 c.ttc else s) s

/-- A consist whose TTC stood goes on (R212, R240, R357). -/
def resumeRun (s : State) (k : Nat) : State :=
  let m := goOn s k
  let s := s.setCons k { s.cons k with mode := m }
  match m with
  | .run => enterSections s k
  | _ => s

/-- The mask of a trailer (R116). -/
def State.trailerMask (s : State) (q : Seq) : BitVec 8 := (s.mem.header (q.streamHi - 2)).extractLsb' 48 8

def trailerOk (s : State) (core : Nat) : Bool :=
  let a := s.mem.header ((s.seq core .as).streamHi - 2)
  let x := s.mem.header ((s.seq core .xs).streamHi - 2)
  let ok := fun (w : Word64) => hdrMark w == 0xFE && w.extractLsb' 0 48 == 0 && (isAttention core || !w.getLsbD 54)
  ok a && ok x && a.extractLsb' 48 8 == x.extractLsb' 48 8

/-- An overlay becomes active on a core: both sequencers start at the first sections of their streams at TTC t (R33, R116,
R378). -/
def startOverlay (s : State) (core : Nat) (o : Overlay) (t : Nat) : State :=
  let base := (o.banks.headD 0) * 2 ^ 17
  let set := fun (s : State) (q : SeqId) (lo len : Nat) => s.modSeqAt core q fun sq =>
    { sq with streamLo := lo, streamHi := lo + len, at_ := { sq.at_.begin lo t with retired := [] } }
  let s := set (set s .as base o.lenA) .xs (base + o.startX) o.lenX
  if trailerOk s core then s
  else
    let bad := fun (s : State) (q : SeqId) => s.modSeqAt core q fun sq => { sq with at_ := { sq.at_ with pend := some (0x0B, false) } }
    bad (bad s .as) .xs

/-- The queue mask of the overlay a consist runs (R116). -/
def State.consMask (s : State) (k : Nat) : BitVec 8 := s.trailerMask (s.seq (s.cons k).lead .as)

/-- Whether a latch is a result of a vector word (R44). -/
def isVector (s : State) (l : Latch) : Bool :=
  let op := (opcodeOf (s.mem.iword l.syll.toNat)).toNat
  decide (0x70 ≤ op) && decide (op ≤ 0x86)

def isStatus (l : Latch) : Bool := match l.eff with | .status .. => true | _ => false

/-- Whether the last results of the matrix and vector queues that a mask names have performed (R44). -/
def ttcDrained (s : State) (k : Nat) (mask : BitVec 8) : Bool :=
  let c := s.cons k
  (!mask.getLsbD 0 || (c.cores.all (fun x => (s.core x).mat.isEmpty) && !c.latches.any isStatus)) &&
  (!mask.getLsbD 7 || !c.latches.any (isVector s))

/-- Whether every result in flight has performed (R346). -/
def allPerformed (s : State) (k : Nat) : Bool :=
  let c := s.cons k
  c.latches.isEmpty && c.cores.all fun x => (s.core x).mat.isEmpty

/-- Whether the other queues a mask names are empty on a core (R44). -/
def coreDrained (mask : BitVec 8) (k : Core) : Bool :=
  (List.range 7).all fun q => q = 0 || !mask.getLsbD q || (k.queue q).isEmpty

/-- Whether they are on every core of a consist. -/
def queuesDrained (s : State) (k : Nat) (mask : BitVec 8) : Bool := (s.cons k).cores.all fun x => coreDrained mask (s.core x)

/-- Whether the part of a boundary's wait that lets the TTC run is over. -/
def boundaryRun (s : State) (k : Nat) (ov : Option (BitVec 16)) : Bool :=
  match ov with
  | some _ => ttcDrained s k (s.consMask k)
  | none => allPerformed s k

def State.overlay? (s : State) (part : BitVec 5) (num : BitVec 16) : Option Overlay :=
  s.disp.overlays.find? fun o => o.part == part && o.num == num

/-- The distance that a bound is about, of dies in the order of their positions; `none` for a position that there is no die for. -/
def State.needDist (s : State) (dies : List Nat) (w : Word64) : Option Nat := do
  let p ← dies[(w.extractLsb' 51 5).toNat]?
  if w.extractLsb' 60 4 = 0 then pure (s.tableDist cDie p)
  else do
    let q ← dies[(w.extractLsb' 46 5).toNat]?
    pure (s.tableDist p q)

/-- Whether dies meet a `.needs` entry (R141); a shape entry bounds no distance. -/
def State.needOk (s : State) (dies : List Nat) (w : Word64) : Bool :=
  let bound := (w.extractLsb' 0 32).toNat
  if w.extractLsb' 60 4 = 2 then true
  else match s.needDist dies w, (w.extractLsb' 56 4).toNat with
    | none, _ => false
    | some d, 0 => d == bound
    | some d, 1 => decide (d ≤ bound)
    | some d, _ => decide (bound ≤ d)

/-- The dies of a consist, in the order of their positions (R32). -/
def Consist.dies (c : Consist) : List Nat := (c.cores.map dieOf).dedup

/-- OVLY's new overlay starts on every core at the current TTC, with a trace record of type 0x8 (R378). -/
def switchOverlay (s : State) (k : Nat) (num : BitVec 16) : State :=
  let c := s.cons k
  match s.overlay? c.part num with
  | none => s
  | some o =>
    let s := c.cores.foldl (fun s x =>
      startOverlay (traceEvent s x 8 0 (o.banks.headD 0 % 256 * 2 ^ 32) c.ttc) x o c.ttc) s
    enterSections (s.setCons k { s.cons k with overlay := num, mode := .run, next := none }) k

end Sys2Proof.Machine
end

