-- ==== Sys2Proof/Machine/LoadStore.lean ====
section
/-! DEFINITION. The scalar loads and stores, opcodes 0x16 to 0x18: LD and ST (R227, R360-R363), ENTER and LEAVE (R352, R364). -/
namespace Sys2Proof.Machine
open Sys2Proof

/-- The address of a scalar access (R361). -/
def offsetAddr (base : Word64) (imm : BitVec 48) : Word64 := base + imm.signExtend 64

/-- The private capability (R156): bounds [0, 0x10_0000), permissions R, W and L. -/
def privateCap (part : BitVec 5) : Cap := boundedCap 2 0x43 part 0 0x100000 0

/-- The private capability of the issuing core. -/
def myPrivate : Act Cap := do
  let k ← getCore
  pure (privateCap (k.part.getD 0))

/-- The poison fault of a read of private memory or tile store (R87): `a` is the first byte's address in its space, `at_` its place
in memory. -/
def poisonOf (s : State) (at_ n : Nat) (a : Nat) : Option FaultRec :=
  (s.mem.firstPoison at_ n).map fun g => s.mkFault .poison 0 (BitVec.ofNat 64 (g + a - at_))

/-- A write of the issuing core's private memory, performing `lat` cycles on. -/
def storePrivate (lat : Nat) (a : Word64) (bs : List Byte) : Act Unit := do
  let c ← myPrivate
  let s ← get
  result lat (.store c [⟨a.toNat, privAt s.cur.1 a.toNat, bs⟩])

/-- A handle popped from hq by a command with a fixed perform cycle is dropped when it retires (R435). -/
def dropPopped (r : BitVec 5) (c : Cap) (lat : Nat) : Act Unit :=
  if r = 31 then result lat (.drop c) else if c.counted then result lat (.borrow c) else pure ()

/-! ## Private memory -/

/-- LD.P (R227, R361). -/
def ldPAct (d a : BitVec 6) (imm : BitVec 48) : Act Unit := do
  let b ← readS a
  let at_ := offsetAddr b imm
  checkPrivate at_ 8
  let s ← get
  let e ← dstS d (s.mem.read64 (privAt s.cur.1 at_.toNat))
  resultOr (2 * s.dC s.cur.1 + 4) e (poisonOf s (privAt s.cur.1 at_.toNat) 8 at_.toNat)

/-- The latency of a load from private memory or tile store (R128), for what a guarded-off word pushes. -/
def skipLoad (roles : List Role) : Act Unit := do
  let d ← getD
  skip (2 * d + 4) roles

/-- The handle a register or the head of hq holds, unread. -/
def peekH (s : State) (r : BitVec 5) : Option Cap :=
  if r = 31 then match (s.core s.cur.1).hq with
    | e :: _ => match e.v with | .val c => some c | _ => none
    | [] => none
  else some (Tbl.get nullCap (s.seq s.cur.1 s.cur.2).h r.toNat)

/-- What R127 leaves of a word whose result's latency depends on its handle: a void is present when the result would have performed. -/
def skipBy (h : BitVec 5) (lat : State → Cap → Nat) (roles : List Role) : Act Unit := do
  let s ← get
  skip (match peekH s h with | some c => lat s c | none => 1) roles

def execLdP (g : Guard) (d a : BitVec 6) (imm : BitVec 48) (s : State) : Host.Outcome State Fault Refusal :=
  issueFall g (skipLoad [.sSrc a, .sDst d]) (ldPAct d a imm) s

/-- ST.P (R227, R361). -/
def stPAct (d a : BitVec 6) (imm : BitVec 48) : Act Unit := do
  let b ← readS a
  let v ← readS d
  let at_ := offsetAddr b imm
  checkPrivate at_ 8
  let dd ← getD
  storePrivate (dd + 4) at_ (toBytes 8 v.toNat)

def execStP (g : Guard) (d a : BitVec 6) (imm : BitVec 48) (s : State) : Host.Outcome State Fault Refusal :=
  issueFall g (skip 1 [.sSrc a, .sSrc d]) (stPAct d a imm) s

/-- LD.CAP (R362): a counted handle leaves a null handle in its granule, unless the granule is poisoned (R361). -/
def ldCapAct (d : BitVec 5) (a : BitVec 6) (imm : BitVec 48) : Act Unit := do
  let b ← readS a
  let at_ := offsetAddr b imm
  checkPrivate at_ 16
  let s ← get
  let m := privAt s.cur.1 at_.toNat
  let c := s.mem.readCap m
  let bad := poisonOf s m 16 at_.toNat
  let e ← dstH d c
  resultOr (2 * s.dC s.cur.1 + 4) e bad
  if c.counted && bad.isNone then modify fun s => { s with mem := s.mem.writeCap m nullCap } else pure ()

def execLdCap (g : Guard) (d a : BitVec 6) (imm : BitVec 48) (s : State) : Host.Outcome State Fault Refusal :=
  issueFall g (skipLoad [.sSrc a, .hDst (d.setWidth 5)]) (ldCapAct (d.setWidth 5) a imm) s

/-- A blank leaves its core only after the core's writes into it have performed (R85). -/
def waitWrites (c : Cap) : Act Unit := do
  let s ← get
  if c.counted && c.kind == kBlank && s.writesOut s.cur.1 c.key then hold 7 else pure ()

/-- ST.CAP (R85, R362). -/
def stCapAct (d : BitVec 5) (a : BitVec 6) (imm : BitVec 48) : Act Unit := do
  let b ← readS a
  let c ← readH d
  let at_ := offsetAddr b imm
  checkPrivate at_ 16
  if c.tag then do
    checkCap c
    checkNear c
    need (c.isNull || c.has pL) .capability 0 at_
  else pure ()
  waitWrites c
  if c.counted then nullH d 1 else pure ()
  let p ← myPrivate
  let s ← get
  result (s.dC s.cur.1 + 4) (.storeCap p at_.toNat (privAt s.cur.1 at_.toNat) c)

def execStCap (g : Guard) (d a : BitVec 6) (imm : BitVec 48) (s : State) : Host.Outcome State Fault Refusal :=
  issueFall g (skip 1 [.sSrc a, .hSrc (d.setWidth 5)]) (stCapAct (d.setWidth 5) a imm) s

/-! ## Handles -/

/-- The checks of an access of 8 bytes through a handle (R361): kind, permission, space, alignment, extent; then the format of a
tile (R433). -/
def checkAccess8 (c : Cap) (kinds : List (BitVec 4)) (perm : Nat) (a : Word64) : Act Unit := do
  checkKind c kinds
  checkPerm c perm
  checkSpace c (if perm = pW then (if c.kind == kPointer then [2] else [0, 1]) else [0, 1, 2])
  let s ← get
  let b := s.baseBounds c
  need (decide (a.toNat % 8 = 0) && decide (b.1 ≤ a.toNat) && decide (a.toNat + 8 ≤ b.2)) .capability 0 a
  need (c.space != 2 || decide (a.toNat + 8 ≤ 0x100000)) .capability 0 a
  need (c.kind != kTile || fmtBytes (s.tileEntry c.key).fmt == some 4) .format

/-- The latency of an LD.H of the issuing core (R360). -/
def ldHLatency (s : State) (c : Cap) : Nat := 2 * s.dC s.cur.1 + (if c.space = 0 then 96 else 4)

/-- LD.H (R361). -/
def ldHAct (d : BitVec 6) (h : BitVec 5) (imm : BitVec 48) : Act Unit := do
  let c ← readH h
  let a := offsetAddr c.addr imm
  checkAccess8 c [kTile, kBlank, kPointer] pR a
  let dd ← getD
  if c.space = 0 then do
    let e ← dstS d 0
    readHbm (2 * dd + 96) (.read8 a.toNat) e
    dropPopped h c (2 * dd + 96)
  else do
    let s ← get
    let at_ ← if c.space = 1 then fixedTile a.toNat 8 else pure (privAt s.cur.1 a.toNat)
    let e ← dstS d (s.mem.read64 at_)
    resultOr (2 * dd + 4) e (poisonOf s at_ 8 a.toNat)
    dropPopped h c (2 * dd + 4)

def execLdH (g : Guard) (d a : BitVec 6) (imm : BitVec 48) (s : State) : Host.Outcome State Fault Refusal :=
  issueFall g (skipBy (a.setWidth 5) ldHLatency [.hSrc (a.setWidth 5), .sDst d]) (ldHAct d (a.setWidth 5) imm) s

/-- A write with a fixed perform cycle faults while the core has a borrow of the storage (R83). -/
def noBorrow (c : Cap) : Act Unit := do
  let k ← getCore
  need (!(c.counted && k.borrowed c.key)) .resource

/-- ST.H (R361, R83). -/
def stHAct (d : BitVec 6) (h : BitVec 5) (imm : BitVec 48) : Act Unit := do
  let c ← readH h
  let v ← readS d
  let a := offsetAddr c.addr imm
  checkAccess8 c [kBlank, kPointer] pW a
  noBorrow c
  let dd ← getD
  let off := (a - c.addr).toNat
  if c.space = 0 then do
    writeHbm 96 c [⟨off, a.toNat, toBytes 8 v.toNat⟩]
    dropPopped h c 96
  else do
    let s ← get
    let at_ ← if c.space = 1 then fixedTile a.toNat 8 else pure (privAt s.cur.1 a.toNat)
    result (dd + 4) (.store c [⟨off, at_, toBytes 8 v.toNat⟩])
    dropPopped h c (dd + 4)

def execStH (g : Guard) (d a : BitVec 6) (imm : BitVec 48) (s : State) : Host.Outcome State Fault Refusal :=
  issueFall g (skip 1 [.hSrc (a.setWidth 5), .sSrc d]) (stHAct d (a.setWidth 5) imm) s

/-! ## Stack frames -/

/-- ENTER.F (R352, R156). -/
def enterAct (n : BitVec 48) : Act Unit := do
  let q ← getSeq
  let sp := Tbl.get 0 q.s 63
  let f := sp - 16
  need (stackOk q sp && decide ((q.stlimit.toNat : Int) ≤ (sp.toNat : Int) - 16 - n.toNat)) .stack
  checkPrivate f 16
  let fp := Tbl.get 0 q.s 62
  result 1 (.setS 62 f)
  result 1 (.setS 63 (f - n.setWidth 64))
  let d ← getD
  storePrivate (d + 4) f (toBytes 8 fp.toNat ++ toBytes 8 0)

def execEnterF (g : Guard) (imm : BitVec 48) (s : State) : Host.Outcome State Fault Refusal :=
  issueFall g (pure ()) (enterAct imm) s

/-- LEAVE.F (R364, R156). -/
def leaveAct : Act Unit := do
  let q ← getSeq
  let f := Tbl.get 0 q.s 62
  need (stackOk q f && decide (f.toNat + 16 ≤ q.stbase.toNat)) .stack
  checkPrivate f 16
  result 1 (.setS 63 (f + 16))
  let s ← get
  let at_ := privAt s.cur.1 f.toNat
  resultOr (2 * s.dC s.cur.1 + 4) (.setS 62 (s.mem.read64 at_)) (poisonOf s at_ 8 f.toNat)

def execLeaveF (g : Guard) (s : State) : Host.Outcome State Fault Refusal := issueFall g (pure ()) leaveAct s

end Sys2Proof.Machine
end

