-- ==== Sys2Proof/Machine/Branch.lean ====
section
/-! DEFINITION. The control words, opcodes 0x20 to 0x27: PBR (R380, R381), BR, BRQ, BRMZ, CALL (R334-R341), RET (R385, R386), LOOP
and REPEAT (R366-R369). -/
namespace Sys2Proof.Machine
open Sys2Proof

/-! ## Targets -/

/-- PBR's target: `fits` says that it is a syllable address (R381). -/
def pbrAct (b : BitVec 3) (target : Nat) (fits : Bool) : Act Unit := do
  let s ← get
  let q ← getSeq
  result 1 (.setB b ⟨true, !(fits && s.targetOk q target), BitVec.ofNat 25 target, s.ttc⟩)

def pbrOAct (b : BitVec 3) (imm : BitVec 48) : Act Unit := do
  let q ← getSeq
  let goal : Int := (q.at_.pc : Int) + imm.toInt
  pbrAct b (goal % 2 ^ 25).toNat (decide (0 ≤ goal) && decide (goal < 2 ^ 25))

def execPbrO (g : Guard) (b : BitVec 3) (imm : BitVec 48) (s : State) : Host.Outcome State Fault Refusal :=
  issueFall g (pure ()) (pbrOAct b imm) s

def pbrRAct (b : BitVec 3) (a : BitVec 6) : Act Unit := do
  let v ← readS a
  pbrAct b (v.setWidth 25).toNat (v.extractLsb' 25 39 == 0)

def execPbrR (g : Guard) (b : BitVec 3) (a : BitVec 6) (s : State) : Host.Outcome State Fault Refusal :=
  issueFall g (skip 1 [.sSrc a]) (pbrRAct b a) s

/-- Whether a target register may be branched through (R336, R52): valid, and its PBR four program cycles old. -/
def BReg.ready (r : BReg) (t : Nat) : Bool := r.valid && decide (r.since + 4 ≤ t)

/-- Whether it names a section header whose checks pass (R336, R381). -/
def State.branchOk (s : State) (q : Seq) (r : BReg) : Bool := !r.bad && s.targetOk q r.syll.toNat

/-- A branch outcome for the trace (R336). -/
def outcome (taken : Bool) : Act Unit := modify fun s => traceBranch s s.cur.1 taken s.ttc

/-- A taken branch through a register: its section starts at the next cycle (R336). -/
def takeBranch (r : BReg) : Act Ctl := do
  let s ← get
  let q ← getSeq
  need (s.branchOk q r) .illegal 0x0C
  outcome true
  pure (.goto r.syll.toNat)

/-- The branch target, with the check of R336. -/
def branchReg (b : BitVec 3) : Act BReg := do
  let q ← getSeq
  let t ← getTtc
  need ((q.breg b).ready t) .schedule 0x05
  pure (q.breg b)

/-- BR.GO (R337). -/
def brAct (b : BitVec 3) : Act Ctl := do
  let r ← branchReg b
  takeBranch r

def execBrGo (g : Guard) (b : BitVec 3) (s : State) : Host.Outcome State Fault Refusal :=
  issue g (outcome false) (brAct b) s

/-- BRQ (R338): `want` is the bit that takes the branch. -/
def brqAct (b : BitVec 3) (want : Bool) : Act Ctl := do
  let s ← get
  let v ← popOn (match s.cur.2 with | .as => 4 | .xs => 5)
  let r ← branchReg b
  if v.getLsbD 0 = want then takeBranch r
  else do
    outcome false
    pure .fall

def brqOff : Act Unit := do
  skip 1 [.bqPop]
  outcome false

def execBrqT (g : Guard) (b : BitVec 3) (s : State) : Host.Outcome State Fault Refusal := issue g brqOff (brqAct b true) s

def execBrqF (g : Guard) (b : BitVec 3) (s : State) : Host.Outcome State Fault Refusal := issue g brqOff (brqAct b false) s

/-- BRMZ.SKIP (R339, R368). -/
def brmzAct (n : Nat) : Act Ctl := do
  let k ← getCore
  if k.top = 0 then do
    let q ← getSeq
    let next := q.at_.after 1
    need (!q.at_.loops.any fun l => decide (next < l.last) && decide (l.last ≤ next + 3 * n)) .resource
    outcome true
    pure (.skip n)
  else do
    outcome false
    pure .fall

def execBrmzSkip (g : Guard) (imm : BitVec 48) (s : State) : Host.Outcome State Fault Refusal :=
  issue g (outcome false) (brmzAct imm.toNat) s

/-! ## Calls -/

/-- The first doubleword of a return record (R341). -/
def returnWord (section_ : BitVec 14) (syll : Nat) : Word64 := 0#18 ++ section_ ++ 0#7 ++ BitVec.ofNat 25 syll

/-- CALL.GO (R341, R336, R156). -/
def callAct (b : BitVec 3) : Act Ctl := do
  let q ← getSeq
  let s ← get
  let r := q.breg b
  need (!(r.ready s.ttc && !s.branchOk q r)) .illegal 0x0C
  let sp := Tbl.get 0 q.s 63
  need (stackOk q sp && decide (q.stlimit.toNat + 16 ≤ sp.toNat)) .stack
  checkPrivate (sp - 16) 16
  let r ← branchReg b
  result 1 (.setS 63 (sp - 16))
  storePrivate (s.dC s.cur.1 + 4) (sp - 16) (toBytes 8 (returnWord q.at_.secNum (q.at_.after 1)).toNat ++ toBytes 8 0)
  let a := (sp - 16).toNat
  modSeq fun q => { q with retRecs := (a :: q.retRecs.filter (· != a)).take 16 }
  takeBranch r

def execCallGo (g : Guard) (b : BitVec 3) (s : State) : Host.Outcome State Fault Refusal :=
  issue g (outcome false) (callAct b) s

/-- The section of a stream that a syllable belongs to: its header, and whether the syllable is that header (R385). A literal is no
word. -/
def findSection (s : State) (q : Seq) (a : Nat) : Nat → Nat → Option (Nat × Bool)
  | 0, _ => none
  | fuel + 1, hdr =>
    let h := s.mem.header hdr
    if hdrMark h ≠ 0xFF ∨ hdrLen h = 0 ∨ !q.inStream hdr then none
    else if a = hdr then some (hdr, true)
    else if hdr + 2 ≤ a ∧ a < hdr + 2 + 3 * hdrLen h then
      (if (a - hdr - 2) % 3 = 0 && !isLitFrom (fun i => s.mem.iword (hdr + 2 + 3 * i)) ((a - hdr - 2) / 3) 0 ((a - hdr - 2) / 3 + 1) then some (hdr, false)
       else none)
    else findSection s q a fuel (hdr + 2 + 3 * hdrLen h)

/-- A return record as RET reads it (R386): the memory's 16 bytes, or those of the CALL whose write has not performed. -/
def returnRecord (s : State) (core : Nat) (q : SeqId) (a : Nat) : List Byte :=
  let mine := (s.cons s.curCons).latches.filter fun l => decide (l.core = core) && l.seq == q &&
    opcodeOf (s.mem.iword l.syll.toNat) == 0x24
  match mine.reverse.findSome? fun l => match l.eff with
      | .store _ [g] => if g.at_ = privAt core a then some g.bytes else none
      | _ => none with
  | some bs => bs
  | none => s.mem.read (privAt core a) 16

/-- RET.GO (R385, R386). -/
def retAct : Act Ctl := do
  let q ← getSeq
  let sp := Tbl.get 0 q.s 63
  need (stackOk q sp && decide (sp.toNat + 16 ≤ q.stbase.toNat)) .stack
  checkPrivate sp 16
  let s ← get
  if q.retRecs.contains sp.toNat || (match q.at_.req with | some t => decide (t ≤ s.clk) | none => false) then pure ()
  else hold 2 (if q.at_.req.isSome then none else some (.record sp.toNat))
  let bs := returnRecord s s.cur.1 s.cur.2 sp.toNat
  let w := BitVec.ofNat 64 (leNat (bs.take 8))
  let a := (w.extractLsb' 0 25).toNat
  let ok := w.extractLsb' 46 18 == 0 && w.extractLsb' 25 7 == 0 && leNat (bs.drop 8) == 0
  match (if ok then findSection s q a (q.streamHi - q.streamLo) q.streamLo else none) with
  | none => fault .stack
  | some (hdr, isHdr) => do
    need (isHdr || hdrNum (s.mem.header hdr) == w.extractLsb' 32 14) .stack
    result 1 (.setS 63 (sp + 16))
    pure (if isHdr then .goto hdr else .back hdr a)

def execRetGo (g : Guard) (s : State) : Host.Outcome State Fault Refusal := issue g (pure ()) retAct s

/-! ## Loops -/

/-- Level k of a loop table (R29). -/
def levelOf (table : List Word64) (k : Nat) : Option Word64 :=
  match table with
  | [] => none
  | h :: ls => if k < (h.extractLsb' 60 4).toNat then ls[k]? else none

def State.trainOf (s : State) (k : Nat) : Option Train :=
  let c := s.cons k
  s.disp.trains.find? fun t => t.part == c.part && t.num == c.train

/-- Iterations and start index of a level on a core (R30): `none` where LOOP.L may not name it (R367). -/
def loopLevel (s : State) (core k : Nat) : Option (Nat × Nat) :=
  let c := s.cons ((s.consistOf core).getD 0)
  match s.trainOf ((s.consistOf core).getD 0) with
  | none => none
  | some t => match levelOf t.loops k with
    | none => none
    | some w =>
      if w.extractLsb' 62 2 = 0 then some ((w.extractLsb' 0 32).toNat, 0)
      else if w.extractLsb' 62 2 = 2 then
        let p := c.pos core / c.c
        some (t.vec.getD p 0, (t.vec.take p).foldl (· + ·) 0)
      else none

/-- A LOOP (R367): `count` iterations of the next n words, by a counter; `info` is a fault's tinfo. -/
def loopAct (counter n count : Nat) (level : Option (Nat × Nat)) (info : Word64) : Act Ctl := do
  let q ← getSeq
  let p := q.at_
  let first := p.after 1
  let last := first + 3 * n
  need (decide (count ≤ 65536) && !(p.loops.any fun l => l.counter == counter) &&
    !(p.loops.any fun l => decide (l.first ≤ p.pc) && decide (p.pc < l.last) && decide (l.last < last))) .resource 0 info
  if count = 0 then pure (.skip n)
  else do
    result 1 (.setLc counter (BitVec.ofNat 16 (count - 1)))
    match level with
    | some (k, start) => result 1 (.setLvl k (BitVec.ofNat 32 start))
    | none => pure ()
    modSeq fun q => { q with at_ := { q.at_ with loops := ⟨counter, level.map Prod.fst, first, last⟩ :: q.at_.loops } }
    pure .fall

/-- LOOP.L (R367). -/
def loopLAct (k n : Nat) : Act Ctl := do
  notInHandler
  let s ← get
  match loopLevel s s.cur.1 k with
  | none => fault .resource 0 (BitVec.ofNat 64 k)
  | some (count, start) => loopAct k n count (some (k, start)) (BitVec.ofNat 64 k)

def execLoopL (g : Guard) (a : BitVec 6) (imm : BitVec 48) (s : State) : Host.Outcome State Fault Refusal :=
  issue g (pure ()) (loopLAct (a.setWidth 2).toNat imm.toNat) s

/-- LOOP.S (R367). -/
def loopSAct (counter : Nat) (a : BitVec 6) (n : Nat) : Act Ctl := do
  notInHandler
  let v ← readS a
  loopAct counter n v.toNat none v

def execLoopS (g : Guard) (b : BitVec 3) (a : BitVec 6) (imm : BitVec 48) (s : State) : Host.Outcome State Fault Refusal :=
  issue g (skip 1 [.sSrc a]) (loopSAct (b.setWidth 2).toNat a imm.toNat) s

/-- REPEAT (R369): the next word, with its literal, issues m times. -/
def repeatAct (m : Nat) : Act Ctl := do
  notInHandler
  need (decide (m ≤ 65536)) .resource
  let s ← get
  let q ← getSeq
  if m = 0 then pure (.skip (if opHasLit (opcodeOf (s.mem.iword (q.at_.after 1))) then 2 else 1))
  else pure (.times m)

def execRepeatN (g : Guard) (imm : BitVec 48) (s : State) : Host.Outcome State Fault Refusal :=
  issue g (pure ()) (repeatAct imm.toNat) s

def repeatSAct (a : BitVec 6) : Act Ctl := do
  let v ← readS a
  repeatAct v.toNat

def execRepeatS (g : Guard) (a : BitVec 6) (s : State) : Host.Outcome State Fault Refusal :=
  issue g (skip 1 [.sSrc a]) (repeatSAct a) s

end Sys2Proof.Machine
end

