-- ==== Sys2Proof/Machine/Tokens.lean ====
section
/-! DEFINITION. Synchronisation on the TTC, opcodes 0x30 to 0x37 but for WAITV: SIGNAL, WAIT, TOKSET (R179, R395, R405, R427), FENCE
(R181, R302, R315, R353), RETIME (R240), MARK (R184, R372), SSTEP (R185, R396); and the events MARK_COMPLETE and
SSTEP_DRAIN_POINT. -/
namespace Sys2Proof.Machine
open Sys2Proof

/-! ## Tokens -/

/-- SIGNAL (R179): the addition performs at issue + 4. -/
def signalAct (t : BitVec 5) (core : Nat) : Act Unit := do
  let s ← get
  need ((s.core core).part == (s.core s.cur.1).part) .partition 0 (BitVec.ofNat 64 core)
  result 4 (.signal core t)

def execSignalT (g : Guard) (a : BitVec 6) (imm : BitVec 48) (s : State) : Host.Outcome State Fault Refusal :=
  issueFall g (pure ()) (signalAct (a.setWidth 5) imm.toNat) s

def signalSAct (d : BitVec 6) (t : BitVec 5) : Act Unit := do
  let v ← readS d
  need (decide (v.toNat < 160)) .resource 0 v
  signalAct t v.toNat

def execSignalS (g : Guard) (d a : BitVec 6) (s : State) : Host.Outcome State Fault Refusal :=
  issueFall g (skip 1 [.sSrc d]) (signalSAct d (a.setWidth 5)) s

/-- The count a WAIT may take from: what the WAITs of this cycle leave (R427). -/
def tokenLeft (s : State) (core : Nat) (t : BitVec 5) : Nat :=
  ((s.cons s.curCons).latches.foldl (fun n l =>
    match l.eff with
    | .tokDec u k => if l.core = core ∧ u = t then n - k else n
    | _ => n) ((s.core core).token t).toNat)

/-- WAIT (R179, R427): after a wait the count falls at the held cycle, else at issue + 1. -/
def waitAct (t : BitVec 5) (n : Nat) : Act Unit := do
  let s ← get
  let q ← getSeq
  if tokenLeft s s.cur.1 t < n then hold 0 (if q.at_.req.isSome then none else some .token)
  else if q.at_.req.isSome then
    modCore fun k => { k with tok := Tbl.set k.tok t.toNat (BitVec.ofNat 16 ((k.token t).toNat - n)) }
  else result 1 (.tokDec t n)

def execWaitT (g : Guard) (a : BitVec 6) (s : State) : Host.Outcome State Fault Refusal :=
  issueFall g (pure ()) (waitAct (a.setWidth 5) 1) s

def execWaitN (g : Guard) (a : BitVec 6) (imm : BitVec 48) (s : State) : Host.Outcome State Fault Refusal :=
  issueFall g (pure ()) (waitAct (a.setWidth 5) imm.toNat) s

/-- TOKSET.I (R405). -/
def toksetAct (t : BitVec 5) (v : BitVec 16) : Act Unit := result 1 (.tokSet t v)

def execToksetI (g : Guard) (a : BitVec 6) (imm : BitVec 48) (s : State) : Host.Outcome State Fault Refusal :=
  issueFall g (pure ()) (toksetAct (a.setWidth 5) (imm.setWidth 16)) s

/-- TOKSET.X (R405): the count as it stands at issue goes to sd. -/
def toksetXAct (d : BitVec 6) (t : BitVec 5) (v : BitVec 16) : Act Unit := do
  let k ← getCore
  writeS d 1 ((k.token t).setWidth 64)
  toksetAct t v

def execToksetX (g : Guard) (d a : BitVec 6) (imm : BitVec 48) (s : State) : Host.Outcome State Fault Refusal :=
  issueFall g (skip 1 [.sDst d]) (toksetXAct d (a.setWidth 5) (imm.setWidth 16)) s

/-! ## FENCE -/

/-- FENCE.S (R315, R353). -/
def fenceAct (d : BitVec 6) (scope : BitVec 3) : Act Unit := do
  let dd ← getD
  let id ← awaitS d (2 * dd + 4) 2
  modCore fun k => { k with gates := k.gates ++ [⟨id, some scope⟩] }

def execFenceS (g : Guard) (d : BitVec 6) (imm : BitVec 48) (s : State) : Host.Outcome State Fault Refusal :=
  issueFall g (skipLoad [.sDst d]) (fenceAct d (imm.setWidth 3)) s

def Effect.isWrite : Effect → Bool
  | .store .. => true
  | .storeCap .. => true
  | .drainRow .. => true
  | _ => false

/-- Whether engine-queue entries of a core, entered before the number `id`, have not retired: copy, porter interface, link, shuttle,
attention sequencer (R353); a message that has been staged is waited for apart (R302). -/
def Core.entriesBefore (k : Core) (id : Nat) : Bool :=
  [qCopy, qPorter, qLink, qShuttle, qAttention].any fun q => (k.queue q).any fun e => decide (e.id < id) && e.op != .staged

/-- Whether a core's messages and remote operations issued before `id` are neither acknowledged nor failed (R302). -/
def State.remoteBefore (s : State) (core id : Nat) : Bool :=
  (s.core core).remoteOut.any (fun r => decide (r.1 < id)) ||
  s.tt.staged.any (fun m => decide (m.msg.core = core ∧ m.id < id)) ||
  s.tt.items.any (fun o => decide (o.core = core ∧ o.id < id))

/-- Whether the link queue still holds such a message or operation (R302, R315). -/
def Core.linkBefore (k : Core) (id : Nat) : Bool :=
  (k.queue qLink).any fun e => decide (e.id < id) && (match e.op with | .lsend .. => true | .remote .. => true | _ => false)

/-- What a FENCE still waits for at its due cycle, as hold causes (R315). -/
def fenceWaits (s : State) (k core id : Nat) (scope : BitVec 3) : BitVec 16 :=
  let late := (s.cons k).latches.any fun l =>
    decide (l.core = core ∧ l.id < id ∧ l.due ≤ (s.cons k).ttc) && l.cause.isSome && l.eff.isWrite
  let remote := decide (4 ≤ scope.toNat) && (s.remoteBefore core id || (s.core core).linkBefore id)
  if (s.core core).entriesBefore id || late || remote then causeBit 2 ||| (if remote then causeBit 3 else 0) else 0

/-- A FENCE whose wait is over returns the bitmap of its scope, and clears what it returns (R302). -/
def fenceStep (k core : Nat) (s : State) (g : Gate) : State :=
  match g.scope, (s.cons k).latches.find? fun l => l.id == g.latch with
  | some scope, some l =>
    if l.cause.isNone || decide ((s.cons k).ttc < l.due) then s
    else
      let w := fenceWaits s k core g.latch scope
      if w = 0 then
        let e := s.core core
        let v : Word64 := if scope.toNat < 4 then e.dieBits.setWidth 64 else e.pkgBits
        deliver (s.setCore core (if scope.toNat < 4 then { e with dieBits := 0 } else { e with pkgBits := 0 })) k g.latch
          (Effect.withWord v)
      else s.setCons k ((s.cons k).modLatch g.latch fun l => { l with cause := some w })
  | _, _ => s

/-- Whether what a FENCE's latch shows is not what stands now: what performs in the due cycle itself is not waited for (R315, R353). -/
def fenceStale (s : State) (k core : Nat) (g : Gate) : Bool :=
  match g.scope, (s.cons k).latches.find? fun l => l.id == g.latch with
  | some scope, some l => l.cause.isSome && decide (l.due ≤ (s.cons k).ttc) && l.cause != some (fenceWaits s k core g.latch scope)
  | _, _ => false

/-- The FENCEs of a consist, and the gates whose results have performed (R181). -/
def fences (s : State) (k : Nat) : State :=
  (s.cons k).cores.foldl (fun s core =>
    let s := (s.core core).gates.foldl (fenceStep k core) s
    let c := s.cons k
    let alive := fun (g : Gate) => (c.latches ++ c.parked).any (fun l => l.id == g.latch)
    s.modCoreAt core (fun e => { e with gates := e.gates.filter alive })) s

/-- Whether one of a consist's FENCEs is to be looked at again. -/
def fencesStale (s : State) (k : Nat) : Bool := (s.cons k).cores.any fun core => (s.core core).gates.any (fenceStale s k core)

/-- Whether an engine entry may not read memory yet: an acquire entered before it has not performed (R181). -/
def Core.gated (k : Core) (id : Nat) : Bool := k.gates.any fun g => decide (g.latch < id)

/-! ## RETIME -/

/-- The die of the largest n, the first in position order where several have it, and that n (R240; log 99). -/
def lastNotice (s : State) (i : Nat) : List Nat → Nat × Nat
  | [] => (0, i)
  | x :: xs =>
    let n := i + 2 * s.dist cDie x + (s.die x).lag
    match xs with
    | [] => (x, n)
    | _ => let r := lastNotice s i xs
           if n < r.2 then r else (x, n)

/-- RETIME.AT (R240, R387): the lowest consist position's stands. -/
def retimeAct (a : BitVec 6) (slack : Nat) : Act Unit := do
  notInHandler
  let v ← readS a
  let s ← get
  let c := s.cons s.curCons
  let n := lastNotice s s.ptc c.dies
  set (match c.next with
    | some _ => s
    | none => s.setCons s.curCons { c with next := some (.retime
        ⟨v.toNat, slack, n.2, n.1, s.cur.1, s.cur.2, BitVec.ofNat 25 (s.seq s.cur.1 s.cur.2).at_.pc⟩) })

def execRetimeAt (g : Guard) (a : BitVec 6) (imm : BitVec 48) (s : State) : Host.Outcome State Fault Refusal :=
  issueFall g (skip 1 [.sSrc a]) (retimeAct a imm.toNat) s

/-! ## MARK -/

/-- Room in an engine queue; the matrix queue holds its commands too (R40). -/
def Core.room (k : Core) (q : Nat) : Bool :=
  decide ((k.queue q).length + (if q = qMatrix then k.mat.length else 0) < engDepth q)

/-- A marker in each of some queues (R372). -/
def enterMarks (id : Nat) : List Nat → Act (List Nat)
  | [] => pure []
  | q :: qs => do
    let e ← enter q (.mark id) [] [] [] none 0 none []
    let es ← enterMarks id qs
    pure (e :: es)

/-- MARK.Q (R184, R372). An XS word may not enter the matrix queue while the attention sequencer has it (R247). -/
def markAct (mask : BitVec 8) (t : BitVec 5) : Act Unit := do
  if mask.getLsbD qMatrix || mask.getLsbD qAttention then notQueuedInHandler else pure ()
  let k ← getCore
  let s ← get
  need (!(mask.getLsbD 0 && s.cur.2 == .xs && k.attn.entry.isSome)) .schedule 0x08
  let qs := (List.range 8).filter fun q => mask.getLsbD q
  if qs.all k.room then do
    let s ← get
    let id := s.nextId
    modify fun s => { s with nextId := s.nextId + 1 }
    let left ← enterMarks id qs
    modCore fun k => { k with marks := k.marks ++ [⟨id, t, left, none⟩] }
  else hold 6

def execMarkQ (g : Guard) (a : BitVec 6) (imm : BitVec 48) (s : State) : Host.Outcome State Fault Refusal :=
  issueFall g (pure ()) (markAct (imm.setWidth 8) (a.setWidth 5)) s

/-- Whether an engine entry writes, or is a porter operation (R184, R185). -/
def EngEntry.puts (e : EngEntry) : Bool :=
  match e.op with
  | .porter .. | .astart .. | .lsend .. | .shsend .. | .remote .. | .append .. | .hostOut .. => true
  | .mark _ => false
  | _ => !e.writes.isEmpty

/-- The entries of a core that write or are porter operations and have not performed. -/
def Core.putting (k : Core) : List EngEntry := [qCopy, qPorter, qLink, qShuttle, qAttention].flatMap fun q => (k.queue q).filter EngEntry.puts

/-- The write-acknowledge count is zero (R184): no write and no porter operation of the core is outstanding. -/
def State.acknowledged (s : State) (core : Nat) : Bool :=
  let k := s.core core
  k.putting.isEmpty &&
  !(match s.consistOf core with
    | some n => ((s.cons n).latches ++ (s.cons n).parked).any fun (l : Latch) => decide (l.core = core) && l.eff.isWrite
    | none => false) &&
  k.remoteOut.isEmpty && !(s.tt.items.any fun o => decide (o.core = core) && o.item.isLeft)

/-- Retiring a marker that has reached the head of its queue (R372). The vector queue's words have performed when no result of a vector
word issued before the marker is in flight. -/
def retireMarkers (s : State) (core : Nat) : State :=
  let k := s.core core
  let vec : List Latch := match s.consistOf core with
    | some n => (s.cons n).latches.filter fun l => decide (l.core = core) && isVector s l
    | none => []
  k.eng.foldl (fun s p =>
    match p.2 with
    | [] => s
    | e :: rest =>
      match e.op with
      | .mark _ =>
        let busy := (p.1 = qMatrix ∧ k.mat.any (fun m => decide (m.id < e.id))) ∨ (p.1 = 7 ∧ vec.any (fun l => decide (l.id < e.id)))
        if busy then s else s.modCoreAt core fun k => k.setQueue p.1 rest
      | _ => s) s

/-- Marks whose markers have retired, with nothing outstanding: the signal performs 4 station cycles on, as a SIGNAL's does
(R184, R372). -/
def markStep (s : State) (core : Nat) : State :=
  let s := retireMarkers s core
  if (s.core core).marks.isEmpty then s
  else
    let k := s.core core
    let alive := fun (id : Nat) => k.eng.any fun p => p.2.any fun e => e.id == id
    let ack := s.acknowledged core
    s.setCore core { k with marks := k.marks.map fun m =>
      if m.at_.isNone && ack && !m.left.any alive then { m with at_ := some (s.clk + 4) } else m }

/-- MARK_COMPLETE (R184): the token is signalled. -/
def markComplete (s : State) (core id : Nat) : State :=
  match (s.core core).marks.find? fun m => m.id == id with
  | some m => (s.modCoreAt core fun k => { k with marks := k.marks.filter fun m => m.id != id }).signalTok core m.token
  | none => s

def execMarkComplete (core id : Nat) (s : State) : Host.Outcome State Fault Refusal := .next (markComplete s core id)

/-! ## SSTEP -/

/-- SSTEP.S (R185, R396). -/
def sstepAct (a : BitVec 6) (len : Nat) : Act Unit := do
  let v ← readS a
  let s ← get
  let k ← getCore
  let open_ := match k.sstep with | some q => decide (s.ptc < q.drain) | none => false
  need (decide (s.ptc < v.toNat + len) && !open_) .resource 0 v
  modCore fun k => { k with sstep := some ⟨max v.toNat s.ptc, v.toNat + len, v.toNat + len + 2 * s.dMax + 8⟩ }

def execSstepS (g : Guard) (a : BitVec 6) (imm : BitVec 48) (s : State) : Host.Outcome State Fault Refusal :=
  issueFall g (skip 1 [.sSrc a]) (sstepAct a imm.toNat) s

def SStep.covers (q : SStep) (ptc : Nat) : Bool := decide (q.from_ ≤ ptc) && decide (ptc ≤ q.to_)

/-- Whether writes and porter operations that a core issued in its superstep are outstanding at the drain point (R396): engine entries,
writes in flight, remote writes. -/
def sstepOut (s : State) (core : Nat) : Bool :=
  let k := s.core core
  match k.sstep with
  | some q => decide (q.drain ≤ s.ptc) &&
    ((k.putting.any fun e => q.covers e.ptc) ||
     (match s.consistOf core with
      | some n => ((s.cons n).latches ++ (s.cons n).parked).any fun l => decide (l.core = core) && l.eff.isWrite && q.covers l.ptc
      | none => false) ||
     (s.tt.items.any fun o => decide (o.core = core) && q.covers o.ptc && (match o.item with | .inl r => r.kind != .rld | .inr _ => false)))
  | none => false

/-- SSTEP_DRAIN_POINT (R396): the consist holds for what is outstanding; with nothing outstanding the superstep is over. -/
def sstepDrain (s : State) (core : Nat) : State :=
  if sstepOut s core then
    match s.consistOf core with
    | some k => holdFor s k (causeBit 2) [] [core]
    | none => s
  else s.modCoreAt core fun k => { k with sstep := none }

def execSstepDrainPoint (core : Nat) (s : State) : Host.Outcome State Fault Refusal := .next (sstepDrain s core)

/-! ## What is due -/

def coreIds (s : State) : List Nat := s.cores.map Prod.fst

/-- Whether a core's drain point has anything to do now. -/
def sstepDue (s : State) (core : Nat) : Bool :=
  match (s.core core).sstep with
  | none => false
  | some q => decide (q.drain ≤ s.ptc) &&
    (!sstepOut s core ||
      (match s.consistOf core with
       | some k => (match (s.cons k).mode with
         | .run => true
         | .hold h => !h.late.contains core || !h.causes.getLsbD 2
         | _ => false)
       | none => false))

/-- A synchronisation event that is due. -/
def dueSync (s : State) : Option (Nat × Option Nat) :=
  (coreIds s).findSome? fun core =>
    match (s.core core).marks.find? fun m => (match m.at_ with | some t => decide (t ≤ s.clk) | none => false) with
    | some m => some (core, some m.id)
    | none => if sstepDue s core then some (core, none) else none

/-- What synchronisation does in each cycle of package time. -/
def tickSync (s : State) : State :=
  let s := (coreIds s).foldl markStep s
  (s.consists.map Prod.fst).foldl fences s

end Sys2Proof.Machine
end

