-- ==== Sys2Proof/Machine/Handles.lean ====
section
/-! DEFINITION. The capability and handle words, opcodes 0x40 to 0x4C (R70-R86, R201, R268, R314, R342-R351, R358, R375, R391,
R408). -/
namespace Sys2Proof.Machine
open Sys2Proof

/-! ## Capabilities (R342) -/

/-- A counted handle popped from hq by a word that hands it nowhere goes home (R69, R358). -/
def dropNow (r : BitVec 5) (c : Cap) : Act Unit := if r = 31 then modify fun s => s.dropWeight s.cur.1 c else pure ()

/-- A pointer source (R342, R149). -/
def readPointer (r : BitVec 5) : Act Cap := do
  let c ← readH r
  checkKind c [kPointer]
  pure c

/-- CAPSET's result (R343): `none` where it faults. -/
def capset (c : Cap) (len : Word64) (exact : Bool) : Option Cap :=
  let b := c.addr.toNat
  let t := b + len.toNat
  if 2 ^ 64 < t then none
  else match encodeBounds b t 47 0 with
    | none => none
    | some (e, bm, lm, b2, t2) =>
      if exact && (b2 != b || t2 != t) then none
      else if b2 < c.bounds.1 ∨ c.bounds.2 < t2 then none
      else some (pointerCap true c.space c.perms e bm lm c.part c.addr)

def capsetAct (hd ha : BitVec 5) (sr : BitVec 6) (exact : Bool) : Act Unit := do
  let c ← readPointer ha
  let n ← readS sr
  match capset c n exact with
  | some r => writeH hd 1 r
  | none => fault .capability 0 c.addr

def execCapsetB (g : Guard) (hd ha : BitVec 5) (sr : BitVec 6) (s : State) : Host.Outcome State Fault Refusal :=
  issueFall g (skip 1 [.hSrc ha, .sSrc sr, .hDst hd]) (capsetAct hd ha sr false) s

def execCapsetE (g : Guard) (hd ha : BitVec 5) (sr : BitVec 6) (s : State) : Host.Outcome State Fault Refusal :=
  issueFall g (skip 1 [.hSrc ha, .sSrc sr, .hDst hd]) (capsetAct hd ha sr true) s

/-- CAPPERM.AND (R342): a counted handle moves. -/
def cappermAct (hd ha : BitVec 5) (mask : BitVec 8) : Act Unit := do
  let c ← readH ha
  checkKind c [kPointer, kTile, kBlank, kNull]
  checkNear c
  if c.counted && ha != hd then nullH ha 1 else pure ()
  writeH hd 1 (c.restrict mask)

def execCappermAnd (g : Guard) (hd ha : BitVec 5) (imm : BitVec 32) (s : State) : Host.Outcome State Fault Refusal :=
  issueFall g (skip 1 [.hSrc ha, .hDst hd]) (cappermAct hd ha (imm.setWidth 8)) s

/-- CAPOFF (R201, R342). -/
def capoffAct (f : Cap → Word64 → Word64) (hd ha : BitVec 5) (sr : BitVec 6) : Act Unit := do
  let c ← readPointer ha
  let v ← readS sr
  writeH hd 1 (c.setCursor (f c v))

def execCapoffAdd (g : Guard) (hd ha : BitVec 5) (sr : BitVec 6) (s : State) : Host.Outcome State Fault Refusal :=
  issueFall g (skip 1 [.hSrc ha, .sSrc sr, .hDst hd]) (capoffAct (fun c v => c.addr + v) hd ha sr) s

def execCapoffSet (g : Guard) (hd ha : BitVec 5) (sr : BitVec 6) (s : State) : Host.Outcome State Fault Refusal :=
  issueFall g (skip 1 [.hSrc ha, .sSrc sr, .hDst hd]) (capoffAct (fun _ v => v) hd ha sr) s

/-- A CAPGET that reads a field of a capability (R268, R342). -/
def capgetAct (check : Cap → Act Unit) (kinds : List (BitVec 4)) (f : Cap → Word64) (ha : BitVec 5) (sr : BitVec 6) : Act Unit := do
  let c ← readH ha
  check c
  checkKind c kinds
  checkNear c
  writeS sr 1 (f c)
  dropNow ha c

def allKinds : List (BitVec 4) := [kPointer, kTile, kBlank, kNull]

def execCapgetA (g : Guard) (ha : BitVec 5) (sr : BitVec 6) (s : State) : Host.Outcome State Fault Refusal :=
  issueFall g (skip 1 [.hSrc ha, .sDst sr]) (capgetAct checkOwn allKinds Cap.addr ha sr) s

def execCapgetBase (g : Guard) (ha : BitVec 5) (sr : BitVec 6) (s : State) : Host.Outcome State Fault Refusal :=
  issueFall g (skip 1 [.hSrc ha, .sDst sr]) (capgetAct checkCap [kPointer] (fun c => BitVec.ofNat 64 c.bounds.1) ha sr) s

/-- The length of a pointer's bounds; 2^64 − 1 when it is 2^64. -/
def capLength (c : Cap) : Word64 := BitVec.ofNat 64 (min (c.bounds.2 - c.bounds.1) (2 ^ 64 - 1))

def execCapgetLen (g : Guard) (ha : BitVec 5) (sr : BitVec 6) (s : State) : Host.Outcome State Fault Refusal :=
  issueFall g (skip 1 [.hSrc ha, .sDst sr]) (capgetAct checkCap [kPointer] capLength ha sr) s

def execCapgetHi (g : Guard) (ha : BitVec 5) (sr : BitVec 6) (s : State) : Host.Outcome State Fault Refusal :=
  issueFall g (skip 1 [.hSrc ha, .sDst sr]) (capgetAct checkCap allKinds Cap.hi ha sr) s

/-- The partition of the issuing core. -/
def myPart : Act (BitVec 5) := do
  let k ← getCore
  pure (k.part.getD 0)

/-- CAPGET.CELLS (R201). -/
def capgetCellsAct (hd : BitVec 5) : Act Unit := do
  let p ← myPart
  writeH hd 1 (pointerCap true 3 0x4D 18 0 0x20000 p 0)

def execCapgetCells (g : Guard) (hd : BitVec 5) (s : State) : Host.Outcome State Fault Refusal :=
  issueFall g (skip 1 [.hDst hd]) (capgetCellsAct hd) s

/-- CAPGET.KV (R268). -/
def capgetKvAct (hd : BitVec 5) : Act Unit := do
  let p ← myPart
  let s ← get
  writeH hd 1 (match (s.part p).grant.kv with
    | some (b, n) => boundedCap 5 0x4B p b n b
    | none => nullCap)

def execCapgetKv (g : Guard) (hd : BitVec 5) (s : State) : Host.Outcome State Fault Refusal :=
  issueFall g (skip 1 [.hDst hd]) (capgetKvAct hd) s

/-- CAPGET.PEER (R314). -/
def capgetPeerAct (hd : BitVec 5) (sr : BitVec 6) : Act Unit := do
  let v ← readS sr
  need (v.extractLsb' 52 5 == 0) .capability 0 v
  let p ← myPart
  writeH hd 1 (pointerCap true 6 0x47 35 0 0x20000 p v)

def execCapgetPeer (g : Guard) (hd : BitVec 5) (sr : BitVec 6) (s : State) : Host.Outcome State Fault Refusal :=
  issueFall g (skip 1 [.sSrc sr, .hDst hd]) (capgetPeerAct hd sr) s

/-- CAPGET.SYS (R314). -/
def capgetSysAct (hd : BitVec 5) : Act Unit := do
  let p ← myPart
  let s ← get
  writeH hd 1 (if (s.part p).grant.system then pointerCap true 2 0x81 0 0 0 p 0 else nullCap)

def execCapgetSys (g : Guard) (hd : BitVec 5) (s : State) : Host.Outcome State Fault Refusal :=
  issueFall g (skip 1 [.hDst hd]) (capgetSysAct hd) s

/-- CAPTEST (R342, R344): no check of the value. -/
def captestAct (f : Option (BitVec 5) → Cap → Bool) (ha : BitVec 5) (sr : BitVec 6) : Act Unit := do
  let c ← readH ha
  let k ← getCore
  writeS sr 1 (boolWord (f k.part c))
  dropNow ha c

def execCaptestTag (g : Guard) (ha : BitVec 5) (sr : BitVec 6) (s : State) : Host.Outcome State Fault Refusal :=
  issueFall g (skip 1 [.hSrc ha, .sDst sr]) (captestAct (fun _ c => c.tag) ha sr) s

/-- CAPTEST.IN (R344). -/
def capHolds (part : Option (BitVec 5)) (c : Cap) (n : Nat) : Bool :=
  c.tag && c.kind == kPointer && part == some c.part && decide (c.bounds.1 ≤ c.addr.toNat) &&
    decide (c.addr.toNat + n ≤ c.bounds.2)

def execCaptestIn (g : Guard) (ha : BitVec 5) (sr : BitVec 6) (imm : BitVec 32) (s : State) : Host.Outcome State Fault Refusal :=
  issueFall g (skip 1 [.hSrc ha, .sDst sr]) (captestAct (fun p c => capHolds p c imm.toNat) ha sr) s

/-! ## Weights (R73-R76) -/

/-- The answer to what a waiting word has asked for; it is taken. -/
def takeAnswer : Act (Option HomeAns) := do
  let q ← getSeq
  let s ← get
  match q.at_.req with
  | none => pure none
  | some id =>
    match s.stores.answers.find? fun a => a.1 == id with
    | some (_, t, a) =>
      if t ≤ s.clk then do
        set { s with stores := { s.stores with answers := s.stores.answers.filter fun a => a.1 != id } }
        pure (some a)
      else pure none
    | none => pure none

/-- Extension (R74): the word waits for the home's answer. -/
def extend (c : Cap) : Act Cap := do
  let a ← takeAnswer
  let q ← getSeq
  let s ← get
  match a with
  | some (.extended xg) => pure (c.withWeight (c.weight + fullWeight) xg)
  | some .xgFull => fault .refCapacity
  | _ => do
    let far := s.remoteHome c
    hold (if far then 3 else 2) (if q.at_.req.isSome then none
      else some (.extend (if far then .inr c else .inl c.key)))
    pure c

/-- DUP.N (R73, R350). -/
def dupAct (hd ha : BitVec 5) (n : Nat) : Act Unit := do
  let c ← readH ha
  checkKind c [kTile]
  checkPerm c pD
  let c ← if c.weight = 1 ∨ (n ≠ 0 ∧ c.weight ≤ n) then extend c else pure c
  let k := if n = 0 then c.weight / 2 else n
  result 1 (.setH ha (c.withWeight (c.weight - k) c.xg))
  writeH hd 1 (c.withWeight k c.xg)

def execDupN (g : Guard) (hd ha : BitVec 5) (imm : BitVec 32) (s : State) : Host.Outcome State Fault Refusal :=
  issueFall g (skip 1 [.hSrc ha, .hDst hd]) (dupAct hd ha (imm.setWidth 20).toNat) s

/-- DROP.W (R76, R351). -/
def dropWAct (ha : BitVec 5) : Act Unit := do
  let c ← readH ha
  checkKind c allKinds
  nullH ha 1
  modify fun s => s.dropWeight s.cur.1 c

def execDropW (g : Guard) (ha : BitVec 5) (s : State) : Host.Outcome State Fault Refusal :=
  issueFall g (skip 1 [.hSrc ha]) (dropWAct ha) s

/-- The conversion to blank of a unique tile's entry (R80, R81): a message to its home. -/
def State.sendBlank (s : State) (core : Nat) (c : Cap) : State :=
  if s.remoteHome c then
    let item : OutItem :=
      { id := s.nextId, peer := c.addr.toNat / 2 ^ 58, seq := none
        item := .inr (.toBlank c.part (c.addr.toNat % 2 ^ 52)), cap := nullCap, core := core, rot := s.tt.rot }
    { s with nextId := s.nextId + 1, tt := { s.tt with items := s.tt.items ++ [item] } }
  else { s with nextId := s.nextId + 1 }.homeMsg core c.key .toBlank s.nextId

/-- DROP.B (R80). -/
def dropBAct (hd ha : BitVec 5) (pd : BitVec 4) : Act Unit := do
  let c ← readH ha
  checkKind c allKinds
  nullH ha 1
  if c.kind = kBlank then do
    writeH hd 1 c
    writeP pd 1 true
  else if c.kind = kTile ∧ c.localUnique then do
    writeH hd 1 c.asBlank
    writeP pd 1 true
    modify fun s => s.sendBlank s.cur.1 c
  else do
    modify fun s => s.dropWeight s.cur.1 c
    writeH hd 1 nullCap
    writeP pd 1 false

def execDropB (g : Guard) (hd ha : BitVec 5) (sr : BitVec 6) (s : State) : Host.Outcome State Fault Refusal :=
  issueFall g (skip 1 [.hSrc ha, .hDst hd]) (dropBAct hd ha (sr.setWidth 4)) s

/-- MOVH.M (R76, R375). -/
def movhAct (hd ha : BitVec 5) : Act Unit := do
  let c ← readH ha
  checkKind c allKinds
  if c.counted && ha != hd then nullH ha 1 else pure ()
  writeH hd 1 c

def execMovhM (g : Guard) (hd ha : BitVec 5) (s : State) : Host.Outcome State Fault Refusal :=
  issueFall g (skip 1 [.hSrc ha, .hDst hd]) (movhAct hd ha) s

/-- MERGE.W (R72, R75). -/
def mergeAct (hd ha hb : BitVec 5) : Act Unit := do
  let a ← readH ha
  let b ← readH hb
  checkKind a [kTile]
  checkKind b [kTile]
  need (a.space == b.space && a.addr == b.addr && a.part == b.part) .capability 0 b.addr
  nullH ha 1
  nullH hb 1
  writeH hd 1 (a.withWeight (a.weight + b.weight) (max a.xg b.xg))

def execMergeW (g : Guard) (hd ha hb : BitVec 5) (s : State) : Host.Outcome State Fault Refusal :=
  issueFall g (skip 1 [.hSrc ha, .hSrc hb, .hDst hd]) (mergeAct hd ha hb) s

/-! ## Uniqueness (R77, R78, R358) -/

def isunqLAct (ha : BitVec 5) (sr : BitVec 6) : Act Unit := do
  let c ← readH ha
  checkKind c [kTile]
  writeS sr 1 (boolWord c.localUnique)
  dropNow ha c

def execIsunqL (g : Guard) (ha : BitVec 5) (sr : BitVec 6) (s : State) : Host.Outcome State Fault Refusal :=
  issueFall g (skip 1 [.hSrc ha, .sDst sr]) (isunqLAct ha sr) s

/-- A query goes to a tile's home; its answer fills a latch (R78, R358). -/
def sendQuery (c : Cap) (id : Nat) : Act Unit := modify fun s =>
  if s.remoteHome c then
    let item : OutItem :=
      { id := id, peer := c.addr.toNat / 2 ^ 58, seq := none
        item := .inr (.query c.part (c.addr.toNat % 2 ^ 52) id), cap := nullCap, core := s.cur.1, rot := s.tt.rot }
    { s with tt := { s.tt with items := s.tt.items ++ [item], queries := s.tt.queries ++ [(id, item.peer)] } }
  else s.homeMsg s.cur.1 c.key (.query c.weight) id

/-- ISUNQ.X (R78, R358); a query over the Turntable remembers the weight in its latch's value. -/
def isunqXAct (ha : BitVec 5) (sr : BitVec 6) : Act Unit := do
  let c ← readH ha
  checkKind c [kTile]
  if c.localUnique then writeS sr 1 1
  else do
    let s ← get
    let far := s.remoteHome c
    let e ← dstS sr (BitVec.ofNat 64 c.weight)
    let id ← await (if far then 572 else 2 * s.dH s.cur.1 c + 8) (if far then 3 else 2) e
    sendQuery c id
  dropNow ha c

/-- The cycles after which an ISUNQ.X's result performs (R78, R358). -/
def isunqLatency (s : State) (c : Cap) : Nat :=
  if c.localUnique then 1 else if s.remoteHome c then 572 else 2 * s.dH s.cur.1 c + 8

def execIsunqX (g : Guard) (ha : BitVec 5) (sr : BitVec 6) (s : State) : Host.Outcome State Fault Refusal :=
  issueFall g (skipBy ha isunqLatency [.hSrc ha, .sDst sr]) (isunqXAct ha sr) s

/-! ## Storage (R79, R81, R82) -/

/-- The directory key that stands for a free list's porter: the core's own tile store, or a stack. -/
def listKey (core place : Nat) (part : BitVec 5) : Nat := dirKey (if place < 256 then 1 else 0) part (BitVec.ofNat 64 (core * 2 ^ 32))

/-- The place of ALLOC.M's stack s on a core's die (R79, R148). -/
def stackPlace (core s : Nat) : Nat := 256 + ownStack core + (if isAttention core then s else 0)

/-- ALLOC (R79, R328): `lead` is the time each way. -/
def allocAct (hd : BitVec 5) (cls : Nat) (place : Nat → Nat) (lead : Nat) : Act Unit := do
  let e ← dstH hd nullCap
  let id ← await (2 * lead) 2 e
  let p ← myPart
  modify fun s => s.sendHome s.cur.1 (listKey s.cur.1 (place s.cur.1) p) (.alloc cls (place s.cur.1) lead) id

def execAllocT (g : Guard) (hd : BitVec 5) (imm : BitVec 32) (s : State) : Host.Outcome State Fault Refusal :=
  issueFall g (skip 4 [.hDst hd]) (allocAct hd imm.toNat (fun core => core) 2) s

def execAllocM (g : Guard) (hd : BitVec 5) (imm : BitVec 32) (s : State) : Host.Outcome State Fault Refusal :=
  issueFall g (skip 12 [.hDst hd])
    (allocAct hd (imm.setWidth 4).toNat (fun core => stackPlace core (imm.toNat / 256)) 6) s

/-- UPD (R81, R408). -/
def updAct (hd ha : BitVec 5) (hbm : Bool) : Act Unit := do
  let c ← readH ha
  checkKind c [kTile]
  checkSpace c [0, 1]
  nullH ha 1
  let s ← get
  if ha = 31 then modCore fun k => { k with hqHeld := k.hqHeld + 1 } else pure ()
  if c.localUnique then do
    writeH hd 1 c.asBlank
    if ha = 31 then result 1 .releasePlace else pure ()
    modify fun s => s.sendBlank s.cur.1 c
  else do
    let e ← dstH hd nullCap
    let id ← await (2 * s.dH s.cur.1 c + 8) 2 e
    sendQuery c id
    let s ← get
    let n := s.nextId
    set { s with nextId := n + 1 }
    modCore fun k => { k with upds := k.upds ++ [⟨id, c, ha, hbm, id, none, n⟩], kept := k.kept ++ [⟨n, c.key, .later, [id]⟩] }

/-- The cycles after which a UPD's hd performs (R408), as the home has the tile's total now. -/
def updLatency (s : State) (c : Cap) : Nat :=
  if c.localUnique then 1
  else 2 * s.dH s.cur.1 c + (if (s.dirEntry c.key).total = c.weight then 8 else 16)

def execUpdT (g : Guard) (hd ha : BitVec 5) (s : State) : Host.Outcome State Fault Refusal :=
  issueFall g (skipBy ha updLatency [.hSrc ha, .hDst hd]) (updAct hd ha false) s

def execUpdM (g : Guard) (hd ha : BitVec 5) (s : State) : Host.Outcome State Fault Refusal :=
  issueFall g (skipBy ha updLatency [.hSrc ha, .hDst hd]) (updAct hd ha true) s

/-- SEAL.T (R82, R96, R391). -/
def sealAct (hd ha : BitVec 5) (rows cols fmt : Nat) : Act Unit := do
  let c ← readH ha
  checkKind c [kBlank]
  checkPerm c pS
  checkSpace c [0, 1]
  let s ← get
  let cls := (s.dirEntry c.key).cls
  need (fmt != 6 || decide (rows % 64 = 0)) .format
  need (decide (tileBytes rows cols fmt ≤ classSize cls)) .resource 0 (BitVec.ofNat 64 cls)
  waitWrites c
  if ha = hd then pure () else nullH ha 1
  writeH hd 1 (c.withKind kTile (c.perms &&& 0xED) fullWeight 0)
  modify fun s => { s with nextId := s.nextId + 1 }.homeMsg s.cur.1 c.key (.seal rows cols fmt) s.nextId

def execSealT (g : Guard) (hd ha : BitVec 5) (imm : BitVec 32) (s : State) : Host.Outcome State Fault Refusal :=
  issueFall g (skip 1 [.hSrc ha, .hDst hd])
    (sealAct hd ha ((imm.extractLsb' 24 8).toNat + 1) ((imm.extractLsb' 16 8).toNat + 1) (imm.extractLsb' 12 4).toNat) s

end Sys2Proof.Machine
end

