-- ==== Sys2Proof/Machine/Tensor.lean ====
section
/-! DEFINITION. The words of the access side's tensor work, opcodes 0x50 to 0x58: geometry records (R354-R356), coordinate registers
(R340), TLD (R269, R404), TCOPY (R201, R401, R402), GATHER and APPEND (R257, R332), and operand slots (R152, R347, R384). What the
copy engine does with the entries stands in CopyEngine. -/
namespace Sys2Proof.Machine
open Sys2Proof

/-! ## Geometry and coordinates -/

/-- The active overlay of the issuing core's consist. -/
def State.activeOverlay (s : State) : Option Overlay :=
  s.overlay? (s.cons s.curCons).part (s.cons s.curCons).overlay

/-- GSET.L (R354, R355): the address lies in the geometry image of the active overlay. -/
def gsetLAct (gr : BitVec 5) (lit : Word96) : Act Unit := do
  let s ← get
  let a := lit.toNat % 2 ^ 48
  let ok := match s.activeOverlay with | some o => decide (o.geomLo ≤ a) && decide (a < o.geomHi) | none => false
  need ok .capability 0 (BitVec.ofNat 64 a)
  readHbm 96 (.geom a) (.setG gr Geom.reset)

def execGsetL (g : Guard) (gr : BitVec 5) (lit : Word96) (s : State) : Host.Outcome State Fault Refusal :=
  issueN 2 g (pure ()) (do
    gsetLAct gr lit
    pure .fall) s

/-- GSET.R (R354): the literal is a signed offset from the pointer's cursor. -/
def gsetRAct (ha gr : BitVec 5) (lit : Word96) : Act Unit := do
  let c ← readH ha
  checkKind c [kPointer]
  checkPerm c pR
  checkSpace c [0, 5]
  let a := offsetAddr c.addr (lit.setWidth 48)
  checkBounds c a.toNat 96
  readHbm 96 (.geom a.toNat) (.setG gr Geom.reset)

def execGsetR (g : Guard) (ha gr : BitVec 5) (lit : Word96) (s : State) : Host.Outcome State Fault Refusal :=
  issueN 2 g (skip 1 [.hSrc ha]) (do
    gsetRAct ha gr lit
    pure .fall) s

/-- CSET.I (R340). -/
def csetIAct (d : BitVec 4) (v : BitVec 32) : Act Unit := result 1 (.setX d v)

def execCsetI (g : Guard) (d : BitVec 6) (imm : BitVec 48) (s : State) : Host.Outcome State Fault Refusal :=
  issueFall g (pure ()) (csetIAct (d.setWidth 4) (imm.setWidth 32)) s

/-- CSET.S (R340). -/
def csetSAct (d : BitVec 4) (a : BitVec 6) : Act Unit := do
  let v ← readS a
  result 1 (.setX d (v.setWidth 32))

def execCsetS (g : Guard) (d a : BitVec 6) (s : State) : Host.Outcome State Fault Refusal :=
  issueFall g (skip 1 [.sSrc a]) (csetSAct (d.setWidth 4) a) s

/-- CADD.I (R340). -/
def caddIAct (d a : BitVec 4) (v : BitVec 32) : Act Unit := do
  let k ← getCore
  result 1 (.setX d (k.xreg a.toNat + v))

def execCaddI (g : Guard) (d a : BitVec 6) (imm : BitVec 48) (s : State) : Host.Outcome State Fault Refusal :=
  issueFall g (pure ()) (caddIAct (d.setWidth 4) (a.setWidth 4) (imm.setWidth 32)) s

/-- CADD.S (R340). -/
def caddSAct (d : BitVec 4) (a : BitVec 6) : Act Unit := do
  let v ← readS a
  let k ← getCore
  result 1 (.setX d (k.xreg d.toNat + v.setWidth 32))

def execCaddS (g : Guard) (d a : BitVec 6) (s : State) : Host.Outcome State Fault Refusal :=
  issueFall g (skip 1 [.sSrc a]) (caddSAct (d.setWidth 4) a) s

/-! ## Operand slots -/

/-- The last cycle on which an MMA feeds from a slot (R384); before its stamp its rows of A are those the slot records. -/
def MatCmd.feedEnd (k : Core) (c : MatCmd) (n : BitVec 4) : Option Nat :=
  match c.op with
  | .mma sa sb _ ks _ ta pre _ =>
    let rows := if c.checked then c.m else (mmaShape (k.slot sa) ta).1
    let a := if sa = n then some (c.stamp + rows - 1) else none
    let b := if sb = n then some (if pre then c.stamp else c.stamp + ks - 1) else none
    match a, b with
    | some x, some y => some (max x y)
    | some x, none => some x
    | none, y => y
  | _ => none

/-- Whether an MMA's feed of a slot ends after a cycle (R152, R404). -/
def Core.fedAfter (k : Core) (n : BitVec 4) (t : Nat) : Bool :=
  k.mat.any fun c => match c.feedEnd k n with | some e => decide (t < e) | none => false

def EngOp.fills (n : BitVec 4) : EngOp → Bool
  | .tldTile m .. => m == n
  | .tldRegion m _ => m == n
  | .gather m .. => m == n
  | _ => false

/-- Whether a slot has a TLD or GATHER that has not performed (R152). -/
def State.slotBusy (s : State) (core : Nat) (n : BitVec 4) : Bool :=
  ((s.core core).queue qCopy).any (fun e => e.op.fills n) ||
  (match s.consistOf core with
   | some k => (s.cons k).latches.any fun l => decide (l.core = core) &&
      (match l.eff with | .slot m .claimedFilled => m == n | .load m _ => m == n | _ => false)
   | none => false)

/-- CLAIM.S (R152, R347). -/
def claimAct (n : BitVec 4) : Act Unit := do
  let k ← getCore
  need (decide ((k.slot n).state = .free)) .resource 0 (n.setWidth 64)
  result 1 (.slot n .claimedEmpty)

def execClaimS (g : Guard) (hd : BitVec 5) (s : State) : Host.Outcome State Fault Refusal :=
  issueFall g (pure ()) (claimAct (hd.setWidth 4)) s

/-- RELEASE.S (R152, R384). -/
def releaseAct (n : BitVec 4) : Act Unit := do
  let s ← get
  let k ← getCore
  need (decide ((k.slot n).state ≠ .free) && !s.slotBusy s.cur.1 n && !k.fedAfter n s.ttc) .resource 0 (n.setWidth 64)
  result 1 (.slot n .free)

def execReleaseS (g : Guard) (hd : BitVec 5) (s : State) : Host.Outcome State Fault Refusal :=
  issueFall g (pure ()) (releaseAct (hd.setWidth 4)) s

/-! ## Regions -/

/-- The region a T-format access names (R157). -/
def Core.region (k : Core) (c : Cap) (gr : BitVec 5) (f : BitVec 4) (cnt : BitVec 3) (rows cols : Nat) (clip perm : BitVec 1) : Region :=
  { cap := c, geom := k.geom gr, coords := coordsOf k f cnt, rows := rows, cols := cols, clip := clip == 1, perm := perm == 1 }

/-- The checks of a region at issue: the record's rank (R356) and format (R402, R404), the alignment that a bank permutation needs
(R159), and its elements. -/
def checkTensor (r : Region) : Act Unit := do
  need (decide (r.geom.rank ≠ 0)) .resource
  need (decide (r.geom.fmt ≠ 6)) .format
  let s ← get
  let b := s.baseBounds r.cap
  need (!r.perm || r.cap.space != 1 || (decide (b.1 % 4096 = 0) && decide (b.2 % 4096 = 0))) .resource
  checkRegion r

/-- The checks of a base of a region that is read (R401, R404): a pointer with R in space 0 or 1, or a tile with R. -/
def checkSource (c : Cap) : Act Unit := do
  checkKind c [kPointer, kTile]
  checkPerm c pR
  checkSpace c [0, 1]

def checkTile (c : Cap) : Act Unit := do
  checkKind c [kTile]
  checkPerm c pR
  checkSpace c [0, 1]

def checkBlank (c : Cap) : Act Unit := do
  checkKind c [kBlank]
  checkPerm c pW
  checkSpace c [0, 1]

/-- A nonzero stamp's latch (R112, R269): late, it holds with cause bit 1. -/
def stamped (stamp : BitVec 20) (eff : Effect) : Act (List Nat) := do
  if stamp = 0 then pure []
  else
    let id ← await stamp.toNat 1 eff
    pure [id]

def dueOf (stamp : BitVec 20) : Option Nat := if stamp = 0 then none else some stamp.toNat

def popsOf (l : List (BitVec 5 × Cap)) : List Cap := (l.filter fun p => p.1 == 31).map Prod.snd

/-- A post-increment (R157, R402). -/
def postInc (post : BitVec 1) (f : BitVec 4) (cols : Nat) : Act Unit :=
  if post = 1 then result 1 (.addX f (BitVec.ofNat 32 cols)) else pure ()

/-! ## TLD -/

/-- The slot a TLD names: not free, and fed to no MMA any more where it is filled (R153, R404). -/
def checkSlot (n : BitVec 4) (tld : Bool) : Act Unit := do
  let s ← get
  let k ← getCore
  need (decide ((k.slot n).state ≠ .free)) .resource 0 (n.setWidth 64)
  need (!(tld && decide ((k.slot n).state = .claimedFilled) && k.fedAfter n s.ttc)) .resource 0 (n.setWidth 64)

/-- TLD.W (R269). -/
def tldWAct (n : BitVec 4) (ha : BitVec 5) (stamp : BitVec 20) : Act Unit := do
  let c ← readH ha
  checkTile c
  checkSlot n true
  let s ← get
  let e := s.tileEntry c.key
  let len := tileBytes e.rows e.cols e.fmt
  need (decide (len ≤ slotSize s.cur.1)) .resource 0 (n.setWidth 64)
  let l ← stamped stamp (.slot n .claimedFilled)
  let _ ← enter qCopy (.tldTile n c len e.rows e.cols e.fmt) [c] [] (popsOf [(ha, c)]) none 0 (dueOf stamp) l

def execTldW (g : Guard) (hd ha : BitVec 5) (stamp : BitVec 20) (s : State) : Host.Outcome State Fault Refusal :=
  issueFall g (skip 1 [.hSrc ha]) (tldWAct (hd.setWidth 4) ha stamp) s

/-- TLD.R (R404). -/
def tldRAct (n : BitVec 4) (ha gr : BitVec 5) (f : BitVec 4) (cnt : BitVec 3) (post clip perm : BitVec 1) (stamp : BitVec 20)
    (rows cols : Nat) : Act Unit := do
  let c ← readH ha
  checkSource c
  let k ← getCore
  let r := k.region c gr f cnt rows cols clip perm
  checkTensor r
  checkSlot n true
  let s ← get
  need (decide (rows * cols * r.width ≤ slotSize s.cur.1)) .resource 0 (n.setWidth 64)
  let l ← stamped stamp (.slot n .claimedFilled)
  let _ ← enter qCopy (.tldRegion n r) [c] [] (popsOf [(ha, c)]) none 0 (dueOf stamp) l
  postInc post f cols

def execTldR (g : Guard) (hd ha gr : BitVec 5) (f : BitVec 4) (cnt : BitVec 3) (post clip perm : BitVec 1) (stamp imm : BitVec 20)
    (s : State) : Host.Outcome State Fault Refusal :=
  issueFall g (skip 1 [.hSrc ha]) (tldRAct (hd.setWidth 4) ha gr f cnt post clip perm stamp
    ((imm.extractLsb' 12 8).toNat + 1) ((imm.extractLsb' 4 8).toNat + 1)) s

/-! ## TCOPY -/

/-- The barrier an s field names (R201): s0 means no arrival. -/
def barrierOf (sr : BitVec 6) : Act (Option Nat) := do
  let v ← readS sr
  if sr = 0 then pure none
  else
    need (decide (v.toNat < 640 * 2 ^ 22)) .capability 0 v
    pure (some v.toNat)

/-- A copy enters its queue (R201, R402): it borrows the source, and its write into a blank is outstanding. -/
def enterCopy (hd ha : BitVec 5) (d c : Cap) (op : EngOp) (barrier : Option Nat) (bytes : Nat) (stamp : BitVec 20) : Act Unit := do
  let l ← stamped stamp .mark
  let _ ← enter qCopy op [c] [d] (popsOf [(hd, d), (ha, c)]) barrier bytes (dueOf stamp) l

/-- Tag and partition of the two operands of a copy (R402). -/
def checkCopy (d c : Cap) : Act Unit := do
  checkOwn d
  checkOwn c

/-- TCOPY.W (R201). -/
def tcopyWAct (hd ha : BitVec 5) (sr : BitVec 6) (stamp : BitVec 20) : Act Unit := do
  let d ← readH hd
  let c ← readH ha
  checkCopy d c
  checkTile c
  checkBlank d
  let s ← get
  let e := s.tileEntry c.key
  let len := tileBytes e.rows e.cols e.fmt
  let cls := (s.dirEntry d.key).cls
  need (decide (len ≤ classSize cls)) .resource 0 (BitVec.ofNat 64 cls)
  let b ← barrierOf sr
  enterCopy hd ha d c (.copyTile c d len) b len stamp

def execTcopyW (g : Guard) (hd ha : BitVec 5) (sr : BitVec 6) (stamp : BitVec 20) (s : State) : Host.Outcome State Fault Refusal :=
  issueFall g (skip 1 [.hSrc hd, .hSrc ha, .sSrc sr]) (tcopyWAct hd ha sr stamp) s

/-- TCOPY.R (R401, R402). -/
def tcopyRAct (hd ha gr : BitVec 5) (f : BitVec 4) (cnt : BitVec 3) (sr : BitVec 6) (post clip perm : BitVec 1) (stamp : BitVec 20)
    (rows cols : Nat) : Act Unit := do
  let d ← readH hd
  let c ← readH ha
  checkCopy d c
  checkSource c
  checkBlank d
  let k ← getCore
  let r := k.region c gr f cnt rows cols clip perm
  checkTensor r
  let s ← get
  let cls := (s.dirEntry d.key).cls
  let len := rows * cols * r.width
  need (decide (len ≤ classSize cls)) .resource 0 (BitVec.ofNat 64 cls)
  let b ← barrierOf sr
  enterCopy hd ha d c (.copyRegion r d) b len stamp
  postInc post f cols

def execTcopyR (g : Guard) (hd ha gr : BitVec 5) (f : BitVec 4) (cnt : BitVec 3) (sr : BitVec 6) (post clip perm : BitVec 1)
    (stamp imm : BitVec 20) (s : State) : Host.Outcome State Fault Refusal :=
  issueFall g (skip 1 [.hSrc hd, .hSrc ha, .sSrc sr]) (tcopyRAct hd ha gr f cnt sr post clip perm stamp
    ((imm.extractLsb' 12 8).toNat + 1) ((imm.extractLsb' 4 8).toNat + 1)) s

/-- TCOPY.S (R401, R402): the shape is that of the tile. -/
def tcopySAct (hd ha gr : BitVec 5) (f : BitVec 4) (cnt : BitVec 3) (sr : BitVec 6) (post clip perm : BitVec 1) (stamp : BitVec 20) :
    Act Unit := do
  let d ← readH hd
  let c ← readH ha
  checkCopy d c
  checkTile c
  checkBlank d
  let s ← get
  let k ← getCore
  let e := s.tileEntry c.key
  let r := k.region d gr f cnt e.rows e.cols clip perm
  need (decide (r.geom.rank ≠ 0)) .resource
  need (decide (r.geom.fmt ≠ 6) && decide (e.fmt = r.geom.fmt)) .format
  checkTensor r
  let b ← barrierOf sr
  enterCopy hd ha d c (.copyInto c r) b (e.rows * e.cols * r.width) stamp
  postInc post f e.cols

def execTcopyS (g : Guard) (hd ha gr : BitVec 5) (f : BitVec 4) (cnt : BitVec 3) (sr : BitVec 6) (post clip perm : BitVec 1)
    (stamp : BitVec 20) (s : State) : Host.Outcome State Fault Refusal :=
  issueFall g (skip 1 [.hSrc hd, .hSrc ha, .sSrc sr]) (tcopySAct hd ha gr f cnt sr post clip perm stamp) s

/-- A pointer to host memory and n bytes from its cursor (R402). -/
def checkHost (c : Cap) (perm n : Nat) : Act Unit := do
  checkKind c [kPointer]
  checkPerm c perm
  checkSpace c [7]
  checkBounds c c.addr.toNat n

/-- TCOPY.HI (R401, R402). -/
def tcopyHiAct (hd ha : BitVec 5) (sr : BitVec 6) (stamp : BitVec 20) (n : Nat) : Act Unit := do
  let d ← readH hd
  let c ← readH ha
  checkCopy d c
  checkKind d [kBlank]
  checkPerm d pW
  checkSpace d [0, 1]
  let s ← get
  let cls := (s.dirEntry d.key).cls
  checkHost c pR (256 * n)
  need (decide (256 * n ≤ classSize cls)) .resource 0 (BitVec.ofNat 64 cls)
  let b ← barrierOf sr
  enterCopy hd ha d c (.hostIn c d (256 * n)) b (256 * n) stamp

def execTcopyHi (g : Guard) (hd ha : BitVec 5) (sr : BitVec 6) (stamp imm : BitVec 20) (s : State) :
    Host.Outcome State Fault Refusal :=
  issueFall g (skip 1 [.hSrc hd, .hSrc ha, .sSrc sr]) (tcopyHiAct hd ha sr stamp ((imm.extractLsb' 10 10).toNat + 1)) s

/-- TCOPY.HO (R401, R402). -/
def tcopyHoAct (hd ha : BitVec 5) (sr : BitVec 6) (stamp : BitVec 20) (n : Nat) : Act Unit := do
  let d ← readH hd
  let c ← readH ha
  checkCopy d c
  checkTile c
  checkHost d pW (256 * n)
  let s ← get
  let e := s.tileEntry c.key
  need (decide (256 * n ≤ tileBytes e.rows e.cols e.fmt)) .resource 0 (BitVec.ofNat 64 e.cls)
  let b ← barrierOf sr
  enterCopy hd ha d c (.hostOut c d (256 * n)) b (256 * n) stamp

def execTcopyHo (g : Guard) (hd ha : BitVec 5) (sr : BitVec 6) (stamp imm : BitVec 20) (s : State) :
    Host.Outcome State Fault Refusal :=
  issueFall g (skip 1 [.hSrc hd, .hSrc ha, .sSrc sr]) (tcopyHoAct hd ha sr stamp ((imm.extractLsb' 10 10).toNat + 1)) s

/-! ## GATHER and APPEND -/

/-- A pointer to a sequence-table entry (R257). -/
def checkSeqTable (c : Cap) (perm : Nat) : Act Unit := do
  checkKind c [kPointer]
  checkPerm c perm
  checkSpace c [5]
  checkBounds c c.addr.toNat 64

/-- GATHER (R257, R332): length and page number from S[sq]. -/
def gatherAct (n : BitVec 4) (ha : BitVec 5) (sr : BitVec 6) (stamp : BitVec 20) (values : Bool) : Act Unit := do
  let c ← readH ha
  let v ← readS sr
  checkSeqTable c pR
  checkSlot n false
  let l ← stamped stamp (.slot n .claimedFilled)
  let _ ← enter qCopy (.gather n c (v.extractLsb' 24 40).toNat (v.extractLsb' 0 24).toNat values) [c] [] (popsOf [(ha, c)]) none 0
    (dueOf stamp) l

def execGatherK (g : Guard) (hd ha : BitVec 5) (sr : BitVec 6) (stamp : BitVec 20) (s : State) : Host.Outcome State Fault Refusal :=
  issueFall g (skip 1 [.hSrc ha, .sSrc sr]) (gatherAct (hd.setWidth 4) ha sr stamp false) s

def execGatherV (g : Guard) (hd ha : BitVec 5) (sr : BitVec 6) (stamp : BitVec 20) (s : State) : Host.Outcome State Fault Refusal :=
  issueFall g (skip 1 [.hSrc ha, .sSrc sr]) (gatherAct (hd.setWidth 4) ha sr stamp true) s

/-- APPEND.KV (R257, R332). -/
def appendAct (hd ha : BitVec 5) (sr : BitVec 6) : Act Unit := do
  let t ← readH hd
  let c ← readH ha
  let p ← readS sr
  checkTile t
  checkSeqTable c pW
  let _ ← enter qCopy (.append t c p) [t] [] (popsOf [(hd, t), (ha, c)]) none 0 none []

def execAppendKv (g : Guard) (hd ha : BitVec 5) (sr : BitVec 6) (s : State) : Host.Outcome State Fault Refusal :=
  issueFall g (skip 1 [.hSrc hd, .hSrc ha, .sSrc sr]) (appendAct hd ha sr) s

end Sys2Proof.Machine
end

