-- ==== Sys2Proof/Machine/Engine.lean ====
section
/-! DEFINITION. What the engines share: access to storage at variable cycles with the page registers (R160-R163, R432, R434), moving
bytes with their poison (R87), starting the entry at the head of a queue (R40, R83, R181, R247), retiring it (R83, R435), faults of
entries, and arrivals at barriers (R178). -/
namespace Sys2Proof.Machine
open Sys2Proof

/-! ## An engine's accesses -/

/-- Why an engine's work does not go on: a walk is under way for it, its bank is being refreshed (R20), a read was discarded by a die in
reset (R241), it has met a poisoned granule (R87), or it faults. -/
inductive EngStop where
  | wait
  | refresh
  | lost
  | poison (va : Nat)
  | fault (f : FaultRec)
  deriving DecidableEq, Repr

/-- Work of an engine. What it has asked the translation for stays asked when it stops. -/
abbrev Eng := ExceptT EngStop (StateM State)

/-- Who works: the core, its access queue's page registers (R163: tensor access 0, porter interface 1, link 2, copy 3; log 98), what a
walk serves, and the word that faults are raised for. -/
structure EngCtx where
  core  : Nat
  pages : Option Nat
  walk  : WalkFor
  base  : FaultRec

def EngCtx.raise {α : Type} (x : EngCtx) (cls : FaultClass) (sub : BitVec 8 := 0) (tinfo : Nat := 0) : Eng α :=
  throw (.fault { x.base with cls := cls, sub := sub, tinfo := BitVec.ofNat 64 tinfo })

/-- A fault of a translated address. -/
def EngCtx.badAddress {α : Type} (x : EngCtx) (cls : FaultClass) (va : Nat) (write : Bool) : Eng α := do
  let s ← get
  throw (.fault { x.base with cls := cls, tinfo := BitVec.ofNat 64 va, write := write, kv := s.inKv x.core va })

def Core.modEntry (k : Core) (n id : Nat) (f : EngEntry → EngEntry) : Core :=
  k.setQueue n ((k.queue n).map fun e => if e.id = id then f e else e)

def modCoreEng (core : Nat) (f : Core → Core) : Eng Unit := modify fun s => s.modCoreAt core f

/-- The TLB entry that covers an address. -/
def Core.tlbPage (k : Core) (va : Nat) : Option (Nat × Nat) :=
  (k.tlb.find? fun e => decide (e.va ≤ va) && decide (va < e.va + 2 ^ e.log2)).map fun e => (e.va, e.log2)

def Core.page (k : Core) (q : Nat) : PageRegs := Tbl.get PageRegs.reset k.pages q
def Core.setPage (k : Core) (q : Nat) (p : PageRegs) : Core := { k with pages := Tbl.set k.pages q p }

/-- Whether an address lies in a page. -/
def inPage (va : Nat) (p : Nat × Nat) : Bool := decide (p.1 ≤ va) && decide (va < p.1 + 2 ^ p.2)

/-- The adjacent page in the direction of the last two addresses (R163): at least 64 KiB of it, all of it where the TLB knows it. Heap
addresses have no page (R160). -/
def Core.adjacent (k : Core) (up : Bool) (base log2 : Nat) : Option (Nat × Nat) :=
  let a := if up then some (base + 2 ^ log2) else if base = 0 then none else some (base - 2 ^ 16)
  a.bind fun a => if 2 ^ 52 ≤ a || k.inHeap a then none else some ((k.tlbPage a).getD (a, 16))

/-- An access of a queue in its page (R163): the current page, and the request of the adjacent one within npd of the page's far
end. -/
def touchPage (s : State) (core q va len : Nat) : State :=
  let k := s.core core
  match k.tlbPage va with
  | none => s
  | some (base, log2) =>
    let p := k.page q
    let up := decide (p.last ≤ va)
    let far := if up then base + 2 ^ log2 - (va + len) else va - base
    let p := if p.next.any (inPage va) then { p with next := none, ready := false, fault := none } else p
    let p := { p with cur := some (base, log2), last := va }
    match k.adjacent up base log2 with
    | some a =>
      if k.npd.toNat = 0 ∨ k.npd.toNat < far ∨ p.next.any (inPage a.1) then s.setCore core (k.setPage q p)
      else if (k.tlbPage a.1).isSome then s.setCore core (k.setPage q { p with next := some a, ready := true, fault := none })
      else addWalk (s.setCore core (k.setPage q { p with next := some a, ready := false, fault := none })) core
        (newWalk a.1 false (s.inKv core a.1) (.nextPage q))
    | none => s.setCore core (k.setPage q p)

/-- What a miss of the TLB comes to for a queue: the adjacent page is still being walked for or has a fault recorded (R163), or a walk
is asked for and the consist holds with cause bit 8 (R162, R214). -/
def missPage (x : EngCtx) (va : Nat) (write : Bool) : Eng Unit := do
  let s ← get
  let k := s.core x.core
  match x.pages with
  | some q =>
    let p := k.page q
    match p.next.any (inPage va), p.fault with
    | true, some f => do
      modCoreEng x.core fun k => k.setPage q { p with next := none, fault := none, ready := false }
      x.badAddress f.cls va write
    | true, none => do
      modCoreEng x.core fun k => k.setPage q { p with next := none, ready := false }
      if p.ready then pure ()
      else do
        modCoreEng x.core fun k => { k with walks := k.walks.map fun w => if w.for_ = .nextPage q then { w with for_ := x.walk } else w }
        throw .wait
    | false, _ => pure ()
  | none => pure ()
  modify fun s => addWalk s x.core (newWalk va write (s.inKv x.core va) x.walk)
  throw .wait

/-- One part of an access through translation. -/
def engPart (x : EngCtx) (va len : Nat) (write : Bool) : Eng (List Part) := do
  let s ← get
  match xlatePart s x.core va len write false with
  | .ok ps => do
    match x.pages with
    | some q => if (s.core x.core).inHeap va then pure () else modify fun s => touchPage s x.core q va len
    | none => pure ()
    pure ps
  | .bad cls va => x.badAddress cls va write
  | .miss va => do
    missPage x va write
    pure []

def engSpan (x : EngCtx) (write : Bool) : Nat → Nat → Nat → Eng (List Part)
  | 0, _, _ => pure []
  | fuel + 1, va, n =>
    if n = 0 then pure []
    else do
      let s ← get
      let va := va % 2 ^ 64
      let l := partLen (s.core x.core) (!s.stores.migrations.isEmpty) va n
      let p ← engPart x va l write
      let r ← engSpan x write fuel (va + l) (n - l)
      pure (p ++ r)

/-- A range of bytes of HBM, the KV region or tile store (R434), in parts. -/
def engRange (x : EngCtx) (space : BitVec 4) (a n : Nat) (write : Bool) : Eng (List Part) := do
  let ps ← if space = 1 then
      match tileRange a n with
      | some (_, m) => pure [⟨a, m, n⟩]
      | none => x.raise .capability 0 a
    else if space = 0 ∨ space = 5 then engSpan x write (n / 2 ^ 8 + 4) a n
    else x.raise .capability 0 a
  let s ← get
  let down := ps.filterMap fun p => s.downAt p.pa
  if space ≠ 1 && refreshOpen s.ptc then throw .refresh
  else if down.isEmpty then pure ps
  else do
    modify fun s => s.markDies x.core down
    if write then pure ps else throw .lost

/-- The work of an entry on n bytes, one 256-byte line after another from those that have performed on: each line is one access (R432). -/
def eachLine (x : EngCtx) (n : Nat) (line : Nat → Nat → Eng Unit) : Nat → Nat → Eng Unit
  | 0, _ => pure ()
  | fuel + 1, off =>
    if n ≤ off then pure ()
    else do
      line off (min 256 (n - off))
      match x.walk with
      | .entry q id => modCoreEng x.core fun k => k.modEntry q id fun e => { e with moved := off + 256 }
      | _ => pure ()
      eachLine x n line fuel (off + 256)

/-- The lines of n bytes that are left of an entry's work. -/
def Eng.lines (x : EngCtx) (n : Nat) (line : Nat → Nat → Eng Unit) : Eng Unit := do
  let s ← get
  let moved := match x.walk with
    | .entry q id => (((s.core x.core).queue q).find? fun e => e.id == id).elim 0 EngEntry.moved
    | _ => 0
  eachLine x n line (n / 256 + 1) moved

/-- The places in memory of the bytes of parts. -/
def placesOf (ps : List Part) : List Nat := ps.flatMap fun p => (List.range p.len).map (p.pa + ·)

/-- Reading through translation: the bytes and the first poisoned granule. -/
def engRead (x : EngCtx) (space : BitVec 4) (a n : Nat) : Eng (List Byte × Option Nat) := do
  let ps ← engRange x space a n false
  let s ← get
  pure (s.readParts ps, s.partsPoison ps)

/-- One element's bytes: their addresses and their places (R157, R159). -/
def elemPlaces (x : EngCtx) (r : Region) (a : Nat) (write : Bool) : Eng (List (Nat × Nat)) := do
  let ps ← engRange x r.cap.space a r.width write
  if r.perm && r.cap.space == 1 then
    pure ((List.range r.width).map fun i => (a + i, tileAt ((a + i) / 2 ^ 32) (permute r.geom.perm ((a + i) % 2 ^ 32))))
  else pure (((List.range r.width).map (a + ·)).zip (placesOf ps))

/-- The addresses and places of a region's bytes in row-major order; `none` for the bytes of an outside element (R158). -/
def regionPlaces (x : EngCtx) (r : Region) (write : Bool) : List (Nat × Nat) → Eng (List (Option (Nat × Nat)))
  | [] => pure []
  | (i, j) :: t => do
    let here ← if outside r i j then pure (List.replicate r.width none)
      else do
        let l ← elemPlaces x r (elementAddr r i j) write
        pure (l.map some)
    let rest ← regionPlaces x r write t
    pure (here ++ rest)

/-! ## Moving bytes -/

/-- Runs of bytes at successive places. -/
def groupRuns : List (Nat × Byte) → List (Nat × List Byte)
  | [] => []
  | (a, b) :: t =>
    match groupRuns t with
    | (a', bs) :: r => if a + 1 = a' then (a, b :: bs) :: r else (a, [b]) :: (a', bs) :: r
    | [] => [(a, [b])]

def writeRuns (m : Memory) : List (Nat × List Byte) → Memory
  | [] => m
  | (a, bs) :: t => writeRuns (m.write a bs) t

def poisonAll (m : Memory) : List Nat → Memory
  | [] => m
  | a :: t => poisonAll (m.setPoison (a / 16) true) t

/-- Moves bytes to their places; a source place of `none` gives 0. Poison goes along (R87); the answer says whether any did. A die in
reset discards what comes to it (R241). -/
def moveBytes (s : State) (pairs : List (Option Nat × Nat)) : State × Bool :=
  let pairs := pairs.filter fun p => (s.downAt p.2).isNone
  let val := fun (p : Option Nat × Nat) => (p.2, match p.1 with | some a => s.hbmByte a | none => 0)
  let bad := (pairs.filter fun p => match p.1 with | some a => s.mem.poisoned a | none => false).map Prod.snd
  ({ s with mem := poisonAll (writeRuns s.mem (groupRuns (pairs.map val))) bad }, !bad.isEmpty)

/-- A home entry that poison has been carried into (R65, R87). -/
def State.poisonEntry (s : State) (key : Nat) : State :=
  let e := s.dirEntry key
  match e.state with
  | .blank | .live => s.setDir key { e with state := .poisoned }
  | _ => s

/-- Moves bytes into a blank. -/
def moveInto (s : State) (c : Cap) (pairs : List (Option Nat × Nat)) : State :=
  let r := moveBytes s pairs
  if r.2 && c.counted then r.1.poisonEntry c.key else r.1

/-! ## Entries -/

/-- Whether a core's units stand: its consist is frozen (R219), or is about to take a fault of the core. What runs when a context
save begins goes on (R215). -/
def State.unitsStopped (s : State) (core : Nat) : Bool :=
  (s.core core).frozen.isSome ||
  (match s.consistOf core with
   | some k => (match (s.cons k).mode with
      | .frozen _ => true
      | .saving => false
      | _ => (s.cons k).faults.any fun f => f.core == core)
   | none => false)

/-- Whether no unit of a core begins an entry: its consist is being saved (R215), or its die's injection is stopped (R241). -/
def State.saving (s : State) (core : Nat) : Bool :=
  (s.die (dieOf core)).state != .run ||
  match s.consistOf core with
  | some k => (match (s.cons k).mode with | .saving => true | _ => false)
  | none => false

def EngCtx.ofEntry (core q : Nat) (e : EngEntry) (pages : Option Nat) : EngCtx :=
  { core := core, pages := pages, walk := .entry q e.id
    base := { FaultRec.zero with core := core, seq := e.seq, syll := e.syll } }

/-- Whether a walk is under way that an entry waits for. -/
def Core.walkPending (k : Core) (q id : Nat) : Bool :=
  k.walks.any fun w => w.for_ == .entry q id

/-- A write into storage waits until the core's earlier borrows of it have retired (R83). -/
def State.writeWaits (s : State) (core : Nat) (e : EngEntry) : Bool :=
  e.writes.any fun c => c.counted && ((s.core core).borrowIds c.key ++ s.fixedIds core c.key).any fun id => decide (id < e.id)

def Core.modHead (k : Core) (n : Nat) (f : EngEntry → EngEntry) : Core :=
  match k.queue n with
  | e :: t => k.setQueue n (f e :: t)
  | [] => k

/-- Whether the entry at the head of a queue may start (R40, R181). -/
def State.mayStart (s : State) (core : Nat) (e : EngEntry) : Bool :=
  !e.started && !e.stuck && decide (e.ready ≤ s.clk) && !s.unitsStopped core && !s.saving core && !(s.core core).gated e.id && !s.writeWaits core e

/-- Starts the entry at the head: it is done after a time that the spec leaves open (log 5). -/
def State.startHead (s : State) (core q : Nat) : State :=
  let (n, s) := s.delay
  s.modCoreAt core fun k => k.modHead q fun e => { e with started := true, done := s.clk + 1 + n }

/-- Starts an entry of a queue. -/
def State.startEntry (s : State) (core q id : Nat) : State :=
  let (n, s) := s.delay
  s.modCoreAt core fun k => k.modEntry q id fun e => { e with started := true, done := s.clk + 1 + n }

/-- An entry retires: what was popped from hq for it goes home (R435). -/
def State.retireEntry (s : State) (core q : Nat) (e : EngEntry) : State :=
  let s := s.modCoreAt core fun k => k.setQueue q ((k.queue q).filter fun x => x.id != e.id)
  e.popped.foldl (fun s c => s.dropWeight core c) s

/-- The latches of an entry's stamp are there (R112). -/
def State.arriveStamp (s : State) (core : Nat) (ids : List Nat) : State :=
  match s.consistOf core with
  | some k => ids.foldl (fun s l => deliver s k l id) s
  | none => s

/-- A fault that a unit raises for an entry. Where the entry named a stamp and `atStamp` holds, it comes at the stamp (R87). -/
def State.entryFault (s : State) (core : Nat) (e : EngEntry) (f : FaultRec) (atStamp : Bool) : State :=
  match s.consistOf core with
  | none => s
  | some k =>
    match atStamp, e.latches with
    | true, n :: _ => deliver (s.setCons k ((s.cons k).modLatch n fun l => { l with err := some { f with latch := some n } })) k n id
    | _, ids => report (ids.foldl (fun s n => deliver s k n fun _ => .mark) s) k f e.issued

/-- Whether a fault leaves the entry in its queue: a major fault is met again after the restore, and a violation stops everything. -/
def FaultClass.keepsEntry : FaultClass → Bool
  | .capability | .partition | .majorTrans => true
  | _ => false

/-- An entry stops, to be run again from its start (R215). -/
def State.stickEntry (s : State) (core q id : Nat) : State :=
  s.modCoreAt core fun k => k.modEntry q id fun e => { e with started := false, moved := 0, stuck := true }

/-- How an entry's work ends: it is done, or it tries again in the next cycle. -/
inductive WorkEnd where
  | done
  | again
  deriving DecidableEq, Repr

/-- An entry whose work does not go on: it waits, is met again in the next cycle, stays for good, or faults (R87, R205, R215). -/
def State.stopEntry (s : State) (core q : Nat) (e : EngEntry) : EngStop → State
  | .wait => s
  | .refresh => s.modCoreAt core fun k => k.modEntry q e.id fun e => { e with done := s.clk + 1 }
  | .lost => s.modCoreAt core fun k => k.modEntry q e.id fun e => { e with stuck := true }
  | .poison va =>
    (s.entryFault core e
      { FaultRec.zero with cls := .poison, tinfo := BitVec.ofNat 64 va, core := core, seq := e.seq, syll := e.syll } true).retireEntry core q e
  | .fault f =>
    if f.cls.keepsEntry then
      (match s.consistOf core with
       | some k => report (s.stickEntry core q e.id) k f e.issued
       | none => s.retireEntry core q e)
    else (s.entryFault core e f false).retireEntry core q e

/-- Runs the work of an entry that has reached its time: `finish` is what follows the last byte; the entry retires, or it stops. -/
def State.runEntry (s : State) (core q : Nat) (e : EngEntry) (work : Eng WorkEnd) (finish : State → State) : State :=
  match work.run.run s with
  | (.ok .done, s') => finish (s'.retireEntry core q e)
  | (.ok .again, s') => s'.modCoreAt core fun k => k.modEntry q e.id fun e => { e with done := s'.clk + 1 }
  | (.error x, s') => s'.stopEntry core q e x

/-! ## Arrivals (R178, R201) -/

/-- An arrival of a byte count leaves for its porter. -/
def State.sendArrival (s : State) (core : Nat) (e : EngEntry) (cell bytes : Nat) : State :=
  let r : PorterReq :=
    { id := s.nextId, core := core, seq := e.seq, syll := e.syll, part := (s.core core).part.getD 0, op := .bcnt, cell := cell
      v := 0, v2 := 0, w := 0, w2 := 0, cap := nullCap, links := 0, arrival := some bytes, latches := [], entry := none
      at_ := s.clk + s.dist (dieOf core) (dieOfPorter (cell / 2 ^ 22)) + 4 }
  { s with nextId := s.nextId + 1, stores := { s.stores with cellInbox := s.stores.cellInbox ++ [r] } }

def State.arriveBarrier (s : State) (core : Nat) (e : EngEntry) : State :=
  match e.barrier with
  | some n => s.sendArrival core e n e.bytes
  | none => s

end Sys2Proof.Machine
end

