-- ==== Sys2Proof/Machine/Kv.lean ====
section
/-! DEFINITION. The KV cache: sequence-table entries, pages, positions and generations (R253-R255), gathering a page (R255, R257), an
append with its summary (R256-R258), and the stacks' write-combining queues (R258). -/
namespace Sys2Proof.Machine
open Sys2Proof

/-! ## The sequence table (R253, R254) -/

/-- A sequence-table entry. -/
structure SeqTable where
  sinks   : Nat
  w       : Nat                 -- ring pages W
  fmt     : Nat
  dim     : Nat
  sink    : Nat                 -- address of sink page 0
  ring    : Nat                 -- address of the ring page list
  summary : Nat
  deriving DecidableEq, Repr

/-- The entry its 64 bytes hold; `none` where it is malformed. -/
def seqTable (bs : List Byte) : Option SeqTable :=
  let dw := fun i => BitVec.ofNat 64 (bytesAt bs (8 * i) 8)
  let log2 := ((dw 0).extractLsb' 57 5).toNat
  let fmt := ((dw 0).extractLsb' 53 4).toNat
  let sink := (dw 1).toNat
  if log2 = 0 ∨ 16 < log2 ∨ !([1, 3, 4].contains fmt) ∨ (dw 0).extractLsb' 0 46 ≠ 0 ∨ sink % 256 ≠ 0 ∨
      dw 4 ≠ 0 ∨ dw 5 ≠ 0 ∨ dw 6 ≠ 0 ∨ dw 7 ≠ 0 then none
  else some ⟨((dw 0).extractLsb' 62 2).toNat + 1, 2 ^ log2, fmt, ((dw 0).extractLsb' 46 7).toNat + 1, sink, (dw 2).toNat, (dw 3).toNat⟩

/-- Bytes of an element. -/
def SeqTable.elem (t : SeqTable) : Nat := (fmtBytes t.fmt).getD 1
/-- Bytes of a page. -/
def SeqTable.pageBytes (t : SeqTable) : Nat := roundUp (256 + 128 * t.dim * t.elem) 256
def SeqTable.pages (t : SeqTable) : Nat := t.sinks + t.w

/-- Page number, slot, and for a ring slot the generation, of a position (R254). -/
def SeqTable.place (t : SeqTable) (p : Nat) : Nat × Nat × Option Nat :=
  let s := 64 * t.sinks
  if p < s then (p / 64, p % 64, none)
  else
    let r := (p - s) % (64 * t.w)
    (t.sinks + r / 64, r % 64, some ((p - s) / (64 * t.w) % 2 ^ 16))

/-- Whether a slot of a page is live in a sequence of L tokens, and the generation a ring slot's tag must have (R254). -/
def SeqTable.live (t : SeqTable) (len page slot : Nat) : Option (Option Nat) :=
  if page < t.sinks then (if 64 * page + slot < len then some none else none)
  else
    let n := len - 64 * t.sinks
    let s := 64 * (page - t.sinks) + slot
    if s < n then some (some ((n - 1 - s) / (64 * t.w) % 2 ^ 16)) else none

/-- Whether a page has a live slot. -/
def SeqTable.pageLive (t : SeqTable) (len page : Nat) : Bool := (t.live len page 0).isSome

/-- Reading an entry of the sequence table; its stop where it is malformed is the caller's. -/
def readSeqTable (x : EngCtx) (a : Nat) : Eng (Option SeqTable × Option Nat) := do
  let (bs, bad) ← engRead x 5 a 64
  pure (if a % 64 = 0 then seqTable bs else none, bad)

/-- The address of a page (R253, R254). -/
def pageAddr (x : EngCtx) (t : SeqTable) (page : Nat) : Eng (Nat × Option Nat) := do
  if page < t.sinks then pure (t.sink + page * t.pageBytes, none)
  else
    let (bs, bad) ← engRead x 5 (t.ring + 8 * (page - t.sinks)) 8
    pure (leNat bs, bad)

/-! ## Gathering (R255, R257) -/

/-- A gathered page: its bytes, the live mask, and how many live slots were rejected. -/
structure Gathered where
  bytes    : List Byte
  mask     : BitVec 64
  rejected : Nat
  deriving DecidableEq, Repr

/-- Live mask and rejected count from a page's tags (R255). -/
def liveMask (t : SeqTable) (len page : Nat) (bytes : List Byte) : BitVec 64 × Nat :=
  (List.range 64).foldl (fun acc j =>
    match t.live len page j with
    | none => acc
    | some none => (acc.1 ||| (1#64 <<< j), acc.2)
    | some (some g) => if bytesAt bytes (2 * j) 2 = g then (acc.1 ||| (1#64 <<< j), acc.2) else (acc.1, acc.2 + 1)) (0, 0)

/-- The keys of a page transposed: dim rows of 64 columns (R257). -/
def keysOf (t : SeqTable) (bytes : List Byte) : List Byte :=
  (List.range t.dim).flatMap fun d => (List.range 64).flatMap fun j => (bytes.drop (256 + (j * t.dim + d) * t.elem)).take t.elem

/-- The values of a page: 64 rows of dim columns. -/
def valuesOf (t : SeqTable) (bytes : List Byte) : List Byte := (bytes.drop (256 + 64 * t.dim * t.elem)).take (64 * t.dim * t.elem)

/-- Reads one page with its live mask; the second part is a poisoned granule on the way. -/
def gatherPage (x : EngCtx) (t : SeqTable) (len page : Nat) : Eng (Gathered × Option Nat) := do
  let (a, bad) ← pageAddr x t page
  match bad with
  | some g => pure (⟨[], 0, 0⟩, some g)
  | none => do
    let (bytes, bad) ← engRead x 5 a t.pageBytes
    let (mask, n) := liveMask t len page bytes
    pure (⟨bytes, mask, n⟩, bad)

/-- The reject count of the status word (R249), saturating. -/
def addRejected (w : Word64) (n : Nat) : Word64 :=
  let c := min 0xFFFF ((w.extractLsb' 48 16).toNat + n)
  (w &&& 0x0000FFFFFFFFFFFF) ||| (BitVec.ofNat 64 c <<< 48)

/-- A gathered page's keys, or values, for a slot; with the keys goes the live mask, at the slot's end (R255, R257). -/
def keysLoad (core : Nat) (t : SeqTable) (g : Gathered) : SlotLoad :=
  ⟨t.dim, 64, t.fmt, [(0, keysOf t g.bytes), (slotSize core - 8, toBytes 8 g.mask.toNat)]⟩

def valuesLoad (t : SeqTable) (g : Gathered) : SlotLoad := ⟨64, t.dim, t.fmt, [(0, valuesOf t g.bytes)]⟩

/-- The rejected live slots of a gathered page are counted in the attention status word (R249, R255). -/
def State.countRejected (s : State) (core : Nat) (g : Gathered) : State :=
  s.modCoreAt core fun k => { k with attn := { k.attn with status := addRejected k.attn.status g.rejected } }

def State.slotKeys (s : State) (core : Nat) (n : BitVec 4) (t : SeqTable) (g : Gathered) : State :=
  (s.loadSlot core n (keysLoad core t g)).countRejected core g

def State.slotValues (s : State) (core : Nat) (n : BitVec 4) (t : SeqTable) (g : Gathered) : State := s.loadSlot core n (valuesLoad t g)

/-- The TTC of a core's consist. -/
def State.coreTtc (s : State) (core : Nat) : Nat := match s.consistOf core with | some k => (s.cons k).ttc | none => 0

/-- A slot's state changes now (R152, R153). -/
def State.setSlot (s : State) (core : Nat) (n : BitVec 4) (st : SlotState) : State :=
  s.modCoreAt core fun k => { k with slots := Tbl.set k.slots n.toNat { k.slot n with state := st, since := s.coreTtc core } }

/-! ## Appending (R256, R257, R258) -/

def kvDepth : Nat := 64

def State.kvQueue (s : State) (stack : Nat) : List KvEntry := Tbl.get [] s.stores.kvq stack

/-- Splits bytes over the parts of their range. -/
def splitBytes : List Part → List Byte → List (Nat × List Byte)
  | [], _ => []
  | p :: ps, bs => (p.pa, bs.take p.len) :: splitBytes ps (bs.drop p.len)

/-- A summary's new minimum and maximum of one dimension (R256). -/
def widen (lo hi key : XNum) : XNum × XNum :=
  if key.isNan then (.nan, .nan) else (XNum.min lo key, XNum.max hi key)

/-- The summary halves widened with a key (R256). -/
def widenSummary (t : SeqTable) (old key : List Byte) : List Byte :=
  let el := fun (bs : List Byte) (off : Nat) => fp32.decode (bytesAt bs off 4)
  let out := (List.range 128).map fun d =>
    if d < t.dim then
      let r := widen (el old (4 * d)) (el old (512 + 4 * d)) (num t.fmt (elemAt key t.elem d))
      ((fp32.round 0 false r.1).1, (fp32.round 0 false r.2).1)
    else (bytesAt old (4 * d) 4, bytesAt old (512 + 4 * d) 4)
  (out.flatMap fun p => toBytes 4 p.1) ++ out.flatMap fun p => toBytes 4 p.2

/-- Runs of bytes enter the queue of a stack. -/
def State.queueKv (bytes : List (Nat × List Byte)) (s : State) (stack : Nat) : State :=
  let (n, s) := s.delay
  { s with stores := { s.stores with
      kvq := Tbl.set s.stores.kvq stack (s.kvQueue stack ++ [⟨bytes.filter fun p => p.1 / 2 ^ 37 == stack, s.clk + 1 + n⟩]) } }

/-- One append enters the queues of the stacks it writes to: its ranges, with their bytes and whether each range's source was poisoned. -/
def State.enterKv (s : State) (sites : List Nat) (ws : List (List Part × List Byte × Bool)) : State :=
  let bytes := ws.flatMap fun w => splitBytes w.1 w.2.1
  let mem := ws.foldl (fun (m : Memory) w =>
    let m := w.1.foldl (fun m p => (m.clearTags (granules (hbmAt p.pa) p.len)).clearPoison (wholeGranules (hbmAt p.pa) p.len)) m
    if w.2.2 then poisonAll m (placesOf w.1) else m) s.mem
  sites.foldl (State.queueKv bytes) { s with mem := mem }

/-- Stacks on a core's die (R148). -/
def onDie (core stack : Nat) : Bool := decide (dieOfStack stack = dieOf core)

/-- What APPEND does when its entry runs (R257); `none` while the queue of a stack it writes to is full. -/
def appendWork (x : EngCtx) (tile hs : Cap) (pos : Nat) : Eng (Option Unit) := do
  let s ← get
  match ← readSeqTable x hs.addr.toNat with
  | (none, _) => x.raise .resource
  | (some t, _) => do
    let e := s.tileEntry tile.key
    if e.rows ≠ 2 ∨ e.cols ≠ t.dim ∨ e.fmt ≠ t.fmt then x.raise .format
    else do
      let (page, slot, gen) := t.place pos
      let (a, _) ← pageAddr x t page
      let row := t.dim * t.elem
      let (rows, bad) ← engRead x tile.space tile.addr.toNat (2 * row)
      let key ← engRange x 5 (a + 256 + slot * row) row true
      let val ← engRange x 5 (a + 256 + 64 * row + slot * row) row true
      let tag ← match gen with
        | some g => do
          let p ← engRange x 5 (a + 2 * slot) 2 true
          pure [(p, toBytes 2 g, false)]
        | none => pure []
      let sum ← if t.summary ≠ 0 ∧ t.sinks ≤ page then do
          let at_ := t.summary + 1024 * (page - t.sinks)
          let (old, was) ← engRead x 5 at_ 1024
          let p ← engRange x 5 at_ 1024 true
          pure [(p, widenSummary t old (rows.take row), was.isSome || bad.isSome)]
        else pure []
      let ws := tag ++ [(key, rows.take row, bad.isSome), (val, (rows.drop row).take row, bad.isSome)] ++ sum
      let sites := (ws.flatMap fun w => w.1.map fun p => p.pa / 2 ^ 37).dedup
      if sites.any fun st => !onDie x.core st then x.raise .resource
      else
        let s ← get
        if sites.any fun st => decide (kvDepth ≤ (s.kvQueue st).length) then pure none
        else do
          set (s.enterKv sites ws)
          pure (some ())

/-- KV_QUEUE_DRAIN (R258): the oldest entry of a stack's queue goes to DRAM. -/
def kvDrain (s : State) (stack : Nat) : State :=
  match s.kvQueue stack with
  | [] => s
  | e :: t =>
    let mem := e.bytes.foldl (fun (m : Memory) p => m.setBytes (hbmAt p.1) p.2) s.mem
    { s with mem := mem, stores := { s.stores with kvq := Tbl.set s.stores.kvq stack t } }

def execKvQueueDrain (stack : Nat) (s : State) : Host.Outcome State Fault Refusal := .next (kvDrain s stack)

/-- A stack whose queue has an entry to drain; not in a refresh window (R20). -/
def dueKv (s : State) : Option Nat :=
  if refreshOpen s.ptc then none
  else (s.stores.kvq.find? fun q => match q.2 with | e :: _ => decide (e.at_ ≤ s.clk) | [] => false).map Prod.fst

end Sys2Proof.Machine
end

