-- ==== Sys2Proof/Machine/CopyEngine.lean ====
section
/-! DEFINITION. The copy engine's entries (R83, R87, R153, R201, R257, R269, R402, R404). An entry's lines all perform when it
completes, but for those before one that stops it (R432; log 12). -/
namespace Sys2Proof.Machine
open Sys2Proof

/-- Loads into operand slots are tensor accesses, the rest of the queue copies (log 98). -/
def EngCtx.copy (core : Nat) (e : EngEntry) : EngCtx :=
  EngCtx.ofEntry core qCopy e (some (match e.op with | .tldTile .. => 0 | .tldRegion .. => 0 | .gather .. => 0 | _ => 3))

def Eng.move (c : Cap) (pairs : List (Option Nat × Nat)) : Eng Unit := modify fun s => moveInto s c pairs

/-- A copy between two ranges (R201), a line at a time. -/
def copyRange (x : EngCtx) (src dst : Cap) (len : Nat) : Eng WorkEnd := do
  Eng.lines x len fun off n => do
    let a ← engRange x src.space (src.addr.toNat + off) n false
    let b ← engRange x dst.space (dst.addr.toNat + off) n true
    Eng.move dst (((placesOf a).map some).zip (placesOf b))
  pure .done

/-- The elements that n bytes from byte off on of a region's bytes in row-major order are. -/
def Region.cells (r : Region) (off n : Nat) : List (Nat × Nat) := ((cellsOf r.rows r.cols).drop (off / r.width)).take (n / r.width)

def Region.bytes (r : Region) : Nat := r.rows * r.cols * r.width

/-- TCOPY.R: element (i, j) goes to byte (i × cols + j) × size; an outside one is zero (R402). -/
def copyFromRegion (x : EngCtx) (r : Region) (dst : Cap) : Eng WorkEnd := do
  Eng.lines x r.bytes fun off n => do
    let a ← regionPlaces x r false (r.cells off n)
    let b ← engRange x dst.space (dst.addr.toNat + off) n true
    Eng.move dst ((a.map fun p => p.map Prod.snd).zip (placesOf b))
  pure .done

/-- TCOPY.S: an outside element is dropped (R402). -/
def copyToRegion (x : EngCtx) (src : Cap) (r : Region) : Eng WorkEnd := do
  Eng.lines x r.bytes fun off n => do
    let b ← regionPlaces x r true (r.cells off n)
    let a ← engRange x src.space (src.addr.toNat + off) n false
    Eng.move r.cap (((placesOf a).zip b).filterMap fun p => p.2.map fun d => (some p.1, d.2))
  pure .done

/-- Host addresses of a copy; one that the IOMMU refuses is a capability violation (R402). -/
def hostPlaces (x : EngCtx) (a len : Nat) : Eng (List Nat) := do
  let s ← get
  let vf := ((s.core x.core).part.getD 0).toNat
  match (List.range len).find? fun i => Config.iommuRefuses vf (BitVec.ofNat 64 ((a + i) / 256 * 256)) with
  | some i => x.raise .capability 0 (a + i)
  | none => pure ((List.range len).map fun i => hostAt vf (a + i))

/-- TCOPY.HI. -/
def copyFromHost (x : EngCtx) (src dst : Cap) (len : Nat) : Eng WorkEnd := do
  Eng.lines x len fun off n => do
    let a ← hostPlaces x (src.addr.toNat + off) n
    let b ← engRange x dst.space (dst.addr.toNat + off) n true
    Eng.move dst ((a.map some).zip (placesOf b))
  pure .done

/-- TCOPY.HO: poison cannot be carried to the host, and is a fault at its read (R87). -/
def copyToHost (x : EngCtx) (src dst : Cap) (len : Nat) : Eng WorkEnd := do
  Eng.lines x len fun off n => do
    let a ← engRange x src.space (src.addr.toNat + off) n false
    let b ← hostPlaces x (dst.addr.toNat + off) n
    let s ← get
    match s.partsPoison a with
    | some va => throw (.poison va)
    | none => Eng.move dst (((placesOf a).map some).zip b)
  pure .done

/-- What a TLD or GATHER brings goes into its slot, or waits in the latch of its stamp (R112). -/
def Eng.load (x : EngCtx) (stamp : List Nat) (n : BitVec 4) (l : SlotLoad) : Eng Unit := modify fun s =>
  match s.consistOf x.core, stamp with
  | some k, _ :: _ => s.setCons k (stamp.foldl (fun c id => c.modLatch id fun h => { h with eff := h.eff.moreLoad n l }) (s.cons k))
  | _, _ => s.loadSlot x.core n l

/-- TLD.W's bytes (R269). A poisoned granule is met where its bytes perform into the slot (R87). -/
def loadTile (x : EngCtx) (stamp : List Nat) (n : BitVec 4) (src : Cap) (len rows cols fmt : Nat) : Eng WorkEnd := do
  Eng.lines x len fun off k => do
    let (bs, bad) ← engRead x src.space (src.addr.toNat + off) k
    Eng.load x stamp n ⟨rows, cols, fmt, [(off, bs)]⟩
    match bad with
    | some va => throw (.poison va)
    | none => pure ()
  pure .done

/-- TLD.R's bytes (R404). -/
def loadRegion (x : EngCtx) (stamp : List Nat) (n : BitVec 4) (r : Region) : Eng WorkEnd := do
  Eng.lines x r.bytes fun off k => do
    let a ← regionPlaces x r false (r.cells off k)
    let s ← get
    let bs := a.map fun p => match p with | some q => s.hbmByte q.2 | none => 0
    Eng.load x stamp n ⟨r.rows, r.cols, r.geom.fmt, [(off, bs)]⟩
    match a.find? fun p => match p with | some q => s.mem.poisoned q.2 | none => false with
    | some (some q) => throw (.poison (q.1 / 16 * 16))
    | _ => pure ()
  pure .done

/-- GATHER (R257). -/
def gatherWork (x : EngCtx) (stamp : List Nat) (n : BitVec 4) (hs : Cap) (len page : Nat) (values : Bool) : Eng WorkEnd := do
  match ← readSeqTable x hs.addr.toNat with
  | (_, some va) => throw (.poison va)
  | (none, none) => x.raise .resource
  | (some t, none) =>
    if t.pages ≤ page then x.raise .resource
    else do
      match ← gatherPage x t len page with
      | (_, some va) => throw (.poison va)
      | (g, none) => do
        Eng.load x stamp n (if values then valuesLoad t g else keysLoad x.core t g)
        modify fun s => if values then s else s.countRejected x.core g
        pure .done

/-- The slot an entry fills. -/
def EngOp.slot? : EngOp → Option (BitVec 4)
  | .tldTile n .. => some n
  | .tldRegion n _ => some n
  | .gather n .. => some n
  | _ => none

/-- What a copy-queue entry does (R40); `stamp` is the latch of its stamp. -/
def copyWork (x : EngCtx) (stamp : List Nat) : EngOp → Eng WorkEnd
  | .copyTile src dst len => copyRange x src dst len
  | .copyRegion r dst => copyFromRegion x r dst
  | .copyInto src r => copyToRegion x src r
  | .hostIn src dst len => copyFromHost x src dst len
  | .hostOut src dst len => copyToHost x src dst len
  | .tldTile n src len rows cols fmt => loadTile x stamp n src len rows cols fmt
  | .tldRegion n r => loadRegion x stamp n r
  | .gather n hs len page values => gatherWork x stamp n hs len page values
  | .append tile hs pos => do
    match ← appendWork x tile hs pos.toNat with
    | some () => pure .done
    | none => pure .again
  | _ => pure .done

/-- After its last byte: the slot is filled (R153), the stamp is met (R112), and the arrival leaves (R201). -/
def copyFinish (core : Nat) (e : EngEntry) (s : State) : State :=
  let s := match e.op.slot?, e.latches with
    | some n, [] => s.setSlot core n .claimedFilled
    | _, _ => s
  (s.arriveStamp core e.latches).arriveBarrier core e

/-- The copy engine's entry completes. -/
def copyComplete (s : State) (core : Nat) (e : EngEntry) : State := s.runEntry core qCopy e (copyWork (EngCtx.copy core e) e.latches e.op) (copyFinish core e)

/-- Starts the copy engine's next entry, which waits while the attention sequencer has the engine (R247). -/
def startCopy (s : State) (core : Nat) : State :=
  match (s.core core).queue qCopy with
  | e :: _ => match e.op with
    | .mark _ => s
    | _ => if s.mayStart core e && (s.core core).attn.entry.isNone then s.startHead core qCopy else s
  | [] => s

end Sys2Proof.Machine
end

