-- ==== Sys2Proof/Machine/MatrixWords.lean ====
section
/-! DEFINITION. The matrix words, opcodes 0x60 to 0x64: MMA (R97, R98, R310), MDRAIN (R83, R104, R311), MZERO and MACC (R370), TSTAT
(R105, R407). What the commands do at their stamps and rows stands in Matrix. -/
namespace Sys2Proof.Machine
open Sys2Proof

/-- A command enters the matrix queue (R40, R247, R370). -/
def enterMatrix (stamp : Nat) (op : MatOp) (popped : List Cap) : Act Nat := do
  notQueuedInHandler
  let s ← get
  let k ← getCore
  need (k.attn.entry.isNone) .schedule 0x08
  if k.room qMatrix then do
    let q ← getSeq
    let c : MatCmd :=
      { id := s.nextId, seq := s.cur.2, syll := BitVec.ofNat 25 q.at_.pc, issued := s.ttc, ptc := s.ptc, stamp := s.ttc + stamp
        op := op, m := 0, n := 0, checked := false, passed := false, acols := 0, brows := 0, a := [], b := [], done := 0
        popped := popped, flags := [] }
    modify fun s => { s with nextId := s.nextId + 1 }
    modCore fun k => { k with mat := k.mat ++ [c] }
    pure s.nextId
  else do
    hold 6
    pure 0

/-- MMA.T (R97, R98, R310): an empty fq is schedule fault 0x03. -/
def mmaAct (stamp : Nat) (sa sb : BitVec 4) (col k : Nat) (acc ta pre : Bool) : Act Unit := do
  match ← popQ 7 0x03 with
  | none => fault .queueVoid
  | some f => do
    let s ← get
    need (formatWordOk (isAttention s.cur.1) f) .format
    let _ ← enterMatrix stamp (.mma sa sb col k acc ta pre f) []

def execMmaT (g : Guard) (stamp : BitVec 20) (sa sb : BitVec 4) (col : BitVec 10) (k : BitVec 8) (acc ta pre : BitVec 1) (s : State) :
    Host.Outcome State Fault Refusal :=
  issueFall g (skip 1 [.fqPop]) (mmaAct stamp.toNat sa sb col.toNat (k.toNat + 1) (acc == 1) (ta == 1) (pre == 1)) s

/-- The rows of an MDRAIN, as results that perform at issue + 6 + i. -/
def drainRows (d : Drain) : Nat → Act Unit
  | 0 => pure ()
  | i + 1 => do
    drainRows d i
    result (6 + i) (.drainRow d i)

/-- MDRAIN.T (R311). -/
def mdrainAct (rm : BitVec 3) (hb : BitVec 5) (col n : Nat) (sr : BitVec 6) : Act Unit := do
  let c ← readH hb
  let p ← readS sr
  let r := (p.extractLsb' 0 8).toNat + 1
  let q := (p.extractLsb' 8 8).toNat
  let fmt := (p.extractLsb' 16 4).toNat
  need (p.extractLsb' 21 43 == 0) .resource
  need (decide (fmt ≠ 6 ∧ fmt ≤ 7)) .format
  checkKind c [kBlank]
  checkPerm c pW
  checkSpace c [1]
  let s ← get
  let k ← getCore
  let cls := (s.dirEntry c.key).cls
  need (decide (q + r ≤ arraySide s.cur.1) && decide (col + n ≤ columnCount s.cur.1) && !k.parkedIn col n) .resource 0
    (BitVec.ofNat 64 col)
  need (decide (tileBytes r n fmt ≤ classSize cls)) .resource 0 (BitVec.ofNat 64 cls)
  noBorrow c
  let base ← fixedTile c.addr.toNat (tileBytes r n fmt)
  let d : Drain := { cmd := s.nextId, cap := c, base := base, col := col, n := n, r := r, q := q, fmt := fmt, rm := rm, sat := p.getLsbD 20 }
  let _ ← enterMatrix 6 (.mdrain d) []
  drainRows d r
  dropPopped hb c (5 + r)

def execMdrainT (g : Guard) (stamp : BitVec 20) (rm : BitVec 3) (hb : BitVec 5) (col : BitVec 10) (k : BitVec 8) (sr : BitVec 6)
    (s : State) : Host.Outcome State Fault Refusal :=
  let _ := stamp
  issueFall g (skip 1 [.hSrc hb, .sSrc sr]) (mdrainAct rm hb col.toNat (k.toNat + 1) sr) s

/-- MZERO.T (R370). -/
def mzeroAct (stamp col n : Nat) : Act Unit := do
  let _ ← enterMatrix stamp (.mzero col n) []

def execMzeroT (g : Guard) (stamp : BitVec 20) (col : BitVec 10) (k : BitVec 8) (s : State) : Host.Outcome State Fault Refusal :=
  issueFall g (pure ()) (mzeroAct stamp.toNat col.toNat (k.toNat + 1)) s

/-- MACC.R (R370). -/
def maccAct (stamp row col n : Nat) (acc int : Bool) (vs : BitVec 6) : Act Unit := do
  let _ ← enterMatrix stamp (.macc row col n acc int vs) []

def execMaccR (g : Guard) (stamp : BitVec 20) (row : BitVec 8) (col : BitVec 10) (k : BitVec 8) (acc int : BitVec 1) (sr : BitVec 6)
    (s : State) : Host.Outcome State Fault Refusal :=
  issueFall g (pure ()) (maccAct stamp.toNat row.toNat col.toNat (k.toNat + 1) (acc == 1) (int == 1) sr) s

/-- What a read of status entry 16 at TTC t answers, and the core after it: a saturation of the same cycle is not in the value, and stays
(R105). -/
def Core.readSat (k : Core) (t : Nat) : Word64 × Core :=
  let e := Tbl.get 0 k.status 16
  match k.satAt with
  | some (u, b) =>
    if u = t then (if b then e else e &&& ~~~4, { k with satAt := some (u, false) })
    else (e, { k with status := Tbl.set k.status 16 (e &&& ~~~4) })
  | none => (e, { k with status := Tbl.set k.status 16 (e &&& ~~~4) })

/-- TSTAT.R (R105, R407). -/
def tstatAct (d : BitVec 6) (e : Nat) : Act Unit := do
  let k ← getCore
  let t ← getTtc
  if e = 16 then do
    writeS d 2 (k.readSat t).1
    modCore fun k => (k.readSat t).2
  else writeS d 2 (Tbl.get 0 k.status e)

def execTstatR (g : Guard) (d a : BitVec 6) (s : State) : Host.Outcome State Fault Refusal :=
  issueFall g (skip 2 [.sDst d]) (tstatAct d a.toNat) s

/-- Whether a matrix command in flight writes an accumulator column at or after a TTC (R421). -/
def Core.writesColumn (k : Core) (col t : Nat) : Bool :=
  k.mat.any fun c =>
    let n := if c.checked then c.n else match c.op with
      | .mma _ sb .. => (k.slot sb).cols
      | .mzero _ n => n
      | .macc _ _ n .. => n
      | .mdrain _ => 0
    let m := if c.checked then c.m else match c.op with
      | .mma sa _ _ _ _ ta .. => (mmaShape (k.slot sa) ta).1
      | _ => 1
    let c := { c with n := n, m := m }
    match c.op with
    | .mma _ _ b .. => decide (b ≤ col ∧ col < b + n) && decide (0 < m ∧ t ≤ c.rowAt (m - 1))
    | .mzero b _ => decide (b ≤ col ∧ col < b + n ∧ t ≤ c.rowAt 0)
    | .macc _ b .. => decide (b ≤ col ∧ col < b + n ∧ t ≤ c.rowAt 0)
    | .mdrain _ => false

end Sys2Proof.Machine
end

