-- ==== Sys2Proof/Machine/AttnWords.lean ====
section
/-! DEFINITION. The attention sequencer as the XS sees it, opcodes 0x90 to 0x92: ASTART, ALOAD, ASTAT (R244-R249, R330, R331); the
event ATTENTION_ENTRY_START; the end of an entry (R249) and its failure record (R259). -/
namespace Sys2Proof.Machine
open Sys2Proof

/-! ## Words -/

/-- ASTART.GO (R246): the blank is borrowed until the entry retires, and the entry may write it. -/
def astartAct (hb : BitVec 5) (a : BitVec 6) (upc : BitVec 12) : Act Unit := do
  notQueuedInHandler
  let c ← readH hb
  let p ← readS a
  checkKind c [kNull, kBlank]
  if c.isNull then pure () else checkBlank c
  need (decide (p.toNat % 8 = 0) && decide (p.toNat + 128 ≤ 0x100000)) .capability 0 p
  let _ ← enter qAttention (.astart c p.toNat upc) [c] [c] (popsOf [(hb, c)]) none 0 none []

def execAstartGo (g : Guard) (d a : BitVec 6) (imm : BitVec 48) (s : State) : Host.Outcome State Fault Refusal :=
  issueFall g (skip 1 [.hSrc (d.setWidth 5), .sSrc a]) (astartAct (d.setWidth 5) a (imm.setWidth 12)) s

/-- ALOAD.W (R246). -/
def aloadAct (h : BitVec 5) (a b : BitVec 6) : Act Unit := do
  notQueuedInHandler
  let c ← readH h
  let i ← readS a
  let n ← readS b
  need (decide (i.toNat + n.toNat ≤ 4096)) .resource
  checkKind c [kPointer]
  checkPerm c pR
  checkSpace c [0, 1, 2, 5]
  checkBounds c c.addr.toNat (8 * n.toNat)
  let _ ← enter qAttention (.aload c i.toNat n.toNat) [c] [] (popsOf [(h, c)]) none 0 none []

def execAloadW (g : Guard) (h : BitVec 5) (a b : BitVec 6) (s : State) : Host.Outcome State Fault Refusal :=
  issueFall g (skip 1 [.hSrc h, .sSrc a, .sSrc b]) (aloadAct h a b) s

def Attn.row (a : Attn) (r : Nat) : AttRow := Tbl.get AttRow.reset a.rows r

/-- The status word; bit 1 tells whether some λ is nonzero (R249). -/
def Attn.word (a : Attn) : Word64 :=
  if a.rows.any fun r => r.2.lam &&& 0x7FFFFFFF != 0 then a.status ||| 2 else a.status

/-- The item a selector names (R248). -/
def Attn.item (a : Attn) (sel : Nat) : Option Word64 :=
  let r := a.row (sel % 256)
  if sel = 0 then some a.word
  else if sel = 1 then some (BitVec.ofNat 64 (a.upc % 4096))
  else if 128 ≤ sel % 256 then none
  else if sel / 256 = 1 then some (r.lam.setWidth 64)
  else if sel / 256 = 2 then some (r.hi ++ r.lo)
  else if sel / 256 = 3 then some (r.m.setWidth 64)
  else none

/-- ASTAT (R248, R330). -/
def astatAct (d a : BitVec 6) (wait : Bool) : Act Unit := do
  let v ← readS a
  let k ← getCore
  need ((k.attn.item v.toNat).isSome) .resource 0 v
  let dd ← getD
  let id ← awaitS d (2 * dd + 4) 5
  let s ← get
  modCore fun k => { k with astats := k.astats ++ [⟨id, v.toNat, wait, s.clk + dd + 2⟩] }

def execAstatRd (g : Guard) (d a : BitVec 6) (s : State) : Host.Outcome State Fault Refusal :=
  issueFall g (skipLoad [.sSrc a, .sDst d]) (astatAct d a false) s

def execAstatWait (g : Guard) (d a : BitVec 6) (s : State) : Host.Outcome State Fault Refusal :=
  issueFall g (skipLoad [.sSrc a, .sDst d]) (astatAct d a true) s

/-- Bits of the status word (R249). -/
def stopKind (w : Word64) : Nat := (w.extractLsb' 4 4).toNat

/-- An ASTAT that has reached its core samples its item, the entries before it gone where it waits (R248, R330, R331). -/
def astatStep (core : Nat) (s : State) (x : Astat) : State :=
  let k := s.core core
  if s.clk < x.at_ ∨ (x.wait && (k.queue qAttention).any fun e => decide (e.id < x.latch)) then s
  else
    let s := s.setCore core { k with astats := k.astats.filter fun y => y.latch != x.latch }
    match s.consistOf core with
    | none => s
    | some n =>
      let w := k.attn.word
      let bad := x.wait && stopKind w != 0 && stopKind w != 3
      let f := fun (l : Latch) => { FaultRec.zero with
        cls := .resource, tinfo := w, core := core, seq := l.seq, syll := l.syll, latch := some x.latch }
      let s := if bad then s.setCons n ((s.cons n).modLatch x.latch fun l => { l with err := some (f l) }) else s
      deliver s n x.latch (Effect.withWord ((k.attn.item x.sel).getD 0))

/-! ## The end of an entry (R249, R259) -/

/-- The running entry, at the head of its queue. -/
def Core.attnEntry (k : Core) : Option EngEntry :=
  match k.attn.entry with
  | some id => (k.queue qAttention).find? fun e => e.id == id
  | none => none

/-- The status of an entry that ends (R249): its micro-PC, the stop kind, done. -/
def endStatus (w : Word64) (pc kind : Nat) (busy : Bool) : Word64 :=
  (w &&& ~~~0xFFF000F9) ||| BitVec.ofNat 64 (pc % 4096 * 2 ^ 20 + kind * 2 ^ 4 + (if busy then 8 else 0) + 1)

/-- The entry retires: its borrows end. -/
def attnRetire (s : State) (core : Nat) : State :=
  let k := s.core core
  let s := s.setCore core { k with attn := { k.attn with entry := none, blank := nullCap, waiting := none, status := k.attn.status &&& ~~~8 } }
  match k.attnEntry with
  | some e => s.retireEntry core qAttention e
  | none => s

/-- An entry ends with END (kind 0) or a stop. -/
def attnFinish (s : State) (core pc kind : Nat) : State :=
  attnRetire (s.modCoreAt core fun k => { k with attn := { k.attn with status := endStatus k.attn.status pc kind false } }) core

/-- The failure record (R259). -/
def failureFields (core : Nat) (a : Attn) : List (BitVec 32) :=
  let ap := fun i => (Tbl.get (0 : Word64) a.ap i)
  [1, BitVec.ofNat 32 core, (ap 0).extractLsb' 0 32, (ap 0).extractLsb' 32 32, BitVec.ofNat 32 (a.block.getD 0), (ap 14).extractLsb' 0 32] ++
    List.replicate 10 0

/-- A stop for poison: its record waits for the Signal Box interface queue, and the entry with it. -/
def attnPoison (s : State) (core pc : Nat) : State :=
  s.modCoreAt core fun k => { k with attn := { k.attn with
    status := endStatus k.attn.status pc 3 true, waiting := some (failureFields core k.attn) } }

/-- The failure record enters the queue as soon as there is room, and the entry retires. -/
def attnRecord (s : State) (core : Nat) : State :=
  let k := s.core core
  match k.attn.waiting, k.attnEntry with
  | some f, some e =>
    if k.room qSbox then
      let ap15 := Tbl.get (0 : Word64) k.attn.ap 15
      let r : EngEntry :=
        { id := s.nextId, seq := e.seq, syll := e.syll, issued := e.issued, ptc := s.ptc
          op := .sbrec f (ap15.extractLsb' 4 1) (ap15.extractLsb' 0 4) true, borrows := [], writes := [], popped := []
          barrier := none, bytes := 0, due := none, latches := [], ready := s.clk - 2, started := false, done := 0 }
      attnRetire ({ s with nextId := s.nextId + 1 }.modCoreAt core fun k => k.setQueue qSbox (k.queue qSbox ++ [r])) core
    else s
  | _, _ => s

/-- An ASTART that meets a major fault stops, to be run again from its start (R215). -/
def stopAstart (s : State) (core id : Nat) : State :=
  (s.stickEntry core qAttention id).modCoreAt core fun k => { k with attn := { k.attn with entry := none } }

/-! ## The start of an entry (R244, R246) -/

def EngCtx.attention (core : Nat) (e : EngEntry) : EngCtx := EngCtx.ofEntry core qAttention e none

/-- The words ALOAD reads, and a poisoned granule among them. -/
def aloadRead (x : EngCtx) (c : Cap) (n : Nat) : Eng (List Byte × Option Nat) :=
  if c.space = 2 then do
    let s ← get
    let a := privAt x.core c.addr.toNat
    pure (s.mem.read a (8 * n), (s.mem.firstPoison a (8 * n)).map fun g => g - privAt x.core 0)
  else engRead x c.space c.addr.toNat (8 * n)

/-- ALOAD's entry (R246). -/
def aloadWork (x : EngCtx) (c : Cap) (first n : Nat) : Eng WorkEnd := do
  let (bs, bad) ← aloadRead x c n
  match bad with
  | some va => throw (.poison va)
  | none => do
    modCoreEng x.core fun k => { k with attn := { k.attn with
      store := (List.range n).foldl (fun t i => Tbl.set t (first + i) (BitVec.ofNat 64 (bytesAt bs (8 * i) 8))) k.attn.store } }
    pure .done

/-- The parameter block at an address of memory. -/
def State.params (s : State) (a : Nat) : Tbl Word64 := (List.range 16).map fun i => (i, s.mem.read64 (a + 8 * i))

/-- What R244 sets at an entry's start. -/
def Attn.started (a : Attn) (id : Nat) (c : Cap) (upc : BitVec 12) (ap : Tbl Word64) (till : Nat) : Attn :=
  { a with upc := upc.toNat, ap := ap, lk := [], block := none, pos := 0, finished := false, rows := [], probs := [], status := 8
           entry := some id, blank := c, waiting := none, busyTill := till, mask := 0 }

/-- ASTART's entry starts: parameters are read, and what R244 marks is set. -/
def astartBegin (s : State) (core : Nat) (e : EngEntry) (c : Cap) (p : Nat) (upc : BitVec 12) : State :=
  let t := s.modCoreAt core fun k => { k.modHead qAttention (fun e => { e with started := true }) with
    attn := k.attn.started e.id c upc (s.params (privAt core p)) (s.clk + 1) }
  if (s.mem.firstPoison (privAt core p) 128).isSome then attnFinish t core upc.toNat 3 else t

/-- ATTENTION_ENTRY_START. -/
def attentionStart (s : State) (core : Nat) : State :=
  match (s.core core).queue qAttention with
  | e :: _ => match e.op with
    | .astart c p upc => astartBegin s core e c p upc
    | .aload c first n => s.runEntry core qAttention e (aloadWork (EngCtx.attention core e) c first n) id
    | _ => s
  | [] => s

def execAttentionEntryStart (core : Nat) (s : State) : Host.Outcome State Fault Refusal := .next (attentionStart s core)

/-- Whether an entry may start: its time has come, the entry before it has retired, and the core's earlier MMAs and MDRAINs have
performed (R246). -/
def attentionReady (s : State) (core : Nat) : Bool :=
  let k := s.core core
  match k.queue qAttention with
  | e :: _ =>
    let earlier := k.mat.any fun c => decide (c.id < e.id) && (match c.op with | .mma .. => true | .mdrain _ => true | _ => false)
    let astart := match e.op with | .astart .. => true | _ => false
    (match e.op with | .mark _ => false | _ => true) && !e.started && !e.stuck && decide (e.ready ≤ s.clk) &&
      !s.unitsStopped core && !s.saving core &&
      !k.gated e.id && !(astart && earlier) && !k.walkPending qAttention e.id
  | [] => false

/-- A core whose attention sequencer has an entry to start. -/
def dueAttention (s : State) : Option Nat := (coreIds s).find? fun core => attentionReady s core

/-- What the attention sequencers do in each cycle. -/
def tickAttention (s : State) : State :=
  (coreIds s).foldl (fun s core => attnRecord ((s.core core).astats.foldl (astatStep core) s) core) s

end Sys2Proof.Machine
end

