-- ==== Sys2Proof/Machine/Homes.lean ====
section
/-! DEFINITION. The home porters (R63-R65): the events WEIGHT_RETURN, EXTENSION, UNIQUENESS_QUERY, SEAL_RECORD, CONVERSION_TO_BLANK,
ALLOC_REQUEST and STORAGE_FREED, and a UPD's answers (R81, R408). -/
namespace Sys2Proof.Machine
open Sys2Proof

/-! ## Operations on a directory entry (R65) -/

/-- A weight return (R65, R76): at total 0 the storage is being freed, but for poisoned storage, which is kept and logged (R325). -/
def returnWeight (s : State) (key w : Nat) : State :=
  let e := s.dirEntry key
  let e := { e with total := e.total - w }
  match e.state with
  | .free | .beingFreed => s
  | .poisoned =>
    if e.total = 0 then
      (s.setDir key { e with kept := true }).logErr 3 (s.homeDie 0 key)
        (if keySpace key = 1 then 2 else 0) (BitVec.ofNat 64 (keyBase key)) (keyPart key)
    else s.setDir key e
  | _ => s.setDir key (if e.total = 0 then { e with state := .beingFreed, freeAt := s.clk + 8 } else e)

/-- An extension (R74): the answer. -/
def extendEntry (s : State) (key : Nat) : State × HomeAns :=
  let e := s.dirEntry key
  if e.xg ≥ 254 then (s, .xgFull)
  else (s.setDir key { e with total := e.total + fullWeight, xg := e.xg + 1 }, .extended (e.xg + 1))

/-- A SEAL record (R65, R82): discarded for an entry that is no blank. -/
def sealEntry (s : State) (key rows cols fmt : Nat) : State :=
  let e := s.dirEntry key
  if e.state = .blank then s.setDir key { e with state := .live, rows := rows, cols := cols, fmt := fmt } else s

/-- A conversion to blank (R65, R80, R81). -/
def blankEntry (s : State) (key : Nat) : State :=
  let e := s.dirEntry key
  match e.state with
  | .live => s.setDir key { e with state := .blank, total := fullWeight, xg := 0 }
  | .poisoned => s.setDir key { e with total := fullWeight, xg := 0 }
  | _ => s

/-- Allocation from a free list (R62, R79): the base of the block, now a blank. -/
def allocBlock (s : State) (part : BitVec 5) (place cls : Nat) : State × HomeAns :=
  match takeBlock s.stores.free part place cls with
  | none => (s, .none)
  | some (base, free) =>
    let space : BitVec 4 := if place < 256 then 1 else 0
    let pa := if place < 256 then 0 else (s.physical part base).getD ((place - 256) * 2 ^ 37)
    let e : DirEntry := { DirEntry.reset with
      state := .blank, cls := cls, part := part, total := fullWeight, base := base, space := space, pa := pa }
    ({ s with stores := { s.stores with free := free } }.setDir (dirKey space part (BitVec.ofNat 64 base)) e, .block base)

/-- The blank an allocation gives (R79): permissions R W D S G L. -/
def newBlank (place : Nat) (part : BitVec 5) (base : Nat) (perms : BitVec 8) : Cap :=
  handleCap (if place < 256 then 1 else 0) kBlank perms fullWeight 0 part (BitVec.ofNat 64 base)

/-! ## Answers -/

/-- Changes a latch of a core's consist by number. -/
def State.modLatch (s : State) (core id : Nat) (f : Latch → Latch) : State :=
  match s.consistOf core with
  | some k => s.setCons k ((s.cons k).modLatch id f)
  | none => s

/-- The station time at which a reply from a home is back at its core (R78). -/
def replyAt (s : State) (r : HomeReq) : Nat × State :=
  let (n, s') := s.delay
  (s.clk + s.dist (dieOf r.core) (porterDie r.porter) + 4 + n, s')

/-- Whether a sequencer's waiting word, or the trapped program's, has asked under a number. -/
def Seq.asks (q : Seq) (id : Nat) : Bool := q.at_.req == some id || q.saved.any fun p => p.req == some id

/-- Whether a core still waits for the answer to a request: a word of it, or a UPD. -/
def Core.asks (k : Core) (id : Nat) : Bool :=
  k.as.asks id || k.xs.asks id || k.upds.any fun u => u.query == id || u.alloc == some id

/-- An answer kept for the word or the UPD that asked (R74, R81); where nothing waits for it any more it is discarded (R51). -/
def State.answer (s : State) (id at_ : Nat) (a : HomeAns) : State :=
  let s := endExtension s id
  if (s.cores.any fun e => e.2.asks id) || s.disp.saved.any fun v => v.image.any fun e => e.asks id then
    { s with stores := { s.stores with answers := Tbl.set s.stores.answers id (at_, a) } }
  else s

def isUpd (s : State) (core id : Nat) : Bool := (s.core core).upds.any fun u => u.query == id || u.alloc == some id

/-- What a home does with one message. -/
def homeStep (s : State) (r : HomeReq) : State :=
  match r.msg with
  | .weight w => returnWeight s r.key w
  | .seal rows cols fmt => sealEntry s r.key rows cols fmt
  | .toBlank => blankEntry s r.key
  | .later => s
  | .extend =>
    let (s, a) := extendEntry s r.key
    let (t, s) := replyAt s r
    let s := s.outbound (porterDie r.porter) t
    s.answer r.id t a
  | .query w =>
    let e := s.dirEntry r.key
    let (t, s) := replyAt s r
    let s := s.outbound (porterDie r.porter) t
    if isUpd s r.core r.id then s.answer r.id t (.total e.total (e.state == .poisoned))
    else s.modLatch r.core r.id fun l => { l with eff := l.eff.withWord (boolWord (e.total == w)), back := some t }
  | .alloc cls place lead =>
    let part := keyPart r.key
    let (s, a) := allocBlock s part place cls
    let (n, s) := s.delay
    let s := s.outbound (porterDie r.porter) (s.clk + lead + n)
    if isUpd s r.core r.id then s.answer r.id (s.clk + lead + n) a
    else s.modLatch r.core r.id fun l => match a with
      | .block base => { l with eff := l.eff.withCap (newBlank place part base 0x7B), back := some (s.clk + lead + n) }
      | _ => { l with
          err := some { FaultRec.zero with cls := .resource, tinfo := BitVec.ofNat 64 cls, core := l.core, seq := l.seq, syll := l.syll }
          back := some (s.clk + lead + n) }

/-- A home takes the message of a number. A die in reset discards it (R241, R302). -/
def takeHome (s : State) (id : Nat) : State :=
  match s.stores.inbox.find? fun r => r.id == id with
  | some r =>
    let d := porterDie r.porter
    let s := { s with stores := { s.stores with inbox := s.stores.inbox.filter fun r => r.id != id } }
    if (s.die d).state = .reset then s.markDies r.core [d] else homeStep s r
  | none => s

/-! ## Events -/

def execWeightReturn (id : Nat) (s : State) : Host.Outcome State Fault Refusal := .next (takeHome s id)
def execExtension (id : Nat) (s : State) : Host.Outcome State Fault Refusal := .next (takeHome s id)
def execUniquenessQuery (id : Nat) (s : State) : Host.Outcome State Fault Refusal := .next (takeHome s id)
def execSealRecord (id : Nat) (s : State) : Host.Outcome State Fault Refusal := .next (takeHome s id)
def execConversionToBlank (id : Nat) (s : State) : Host.Outcome State Fault Refusal := .next (takeHome s id)
def execAllocRequest (id : Nat) (s : State) : Host.Outcome State Fault Refusal := .next (takeHome s id)

/-- Where a storage's block is listed (R62). -/
def State.placeOfKey (s : State) (key : Nat) : Nat :=
  if keySpace key = 1 then keyBase key / 2 ^ 32 else 256 + (s.dirEntry key).pa / 2 ^ 37

/-- STORAGE_FREED (R65): the block goes back to its free list, joined with its other half where that is free (R62). -/
def storageFreed (s : State) (key : Nat) : State :=
  let e := s.dirEntry key
  if e.state = .beingFreed then
    { s with stores := { s.stores with
        free := joinBlock s.stores.free ⟨e.part, s.placeOfKey key, e.cls, e.base⟩ 11 } }.setDir key { e with state := .free }
  else s

def execStorageFreed (key : Nat) (s : State) : Host.Outcome State Fault Refusal := .next (storageFreed s key)

/-! ## UPD (R81, R408) -/

/-- What a UPD tells its tile's home is known, and takes the place that was kept for it among the core's messages (R65, R83). -/
def updTells (s : State) (core : Nat) (u : Upd) (msg : HomeMsg) (waitFor : List Nat) : State :=
  s.modCoreAt core fun k => { k with kept := k.kept.map fun m => if m.id = u.kept then { m with msg := msg, waitFor := waitFor } else m }

/-- A UPD is over: its place in hq is given back at hd's cycle. -/
def updDone (s : State) (core : Nat) (u : Upd) (l : Latch) : State :=
  let s := s.modCoreAt core fun k => { k with upds := k.upds.filter fun v => v.latch != u.latch }
  if u.src = 31 then
    match s.consistOf core with
    | some k => { s with nextId := s.nextId + 1 }.setCons k { s.cons k with
        latches := (s.cons k).latches ++ [{ l with id := s.nextId, eff := .releasePlace, cause := none, err := none, back := none }] }
    | none => s
  else s

/-- A UPD faults at hd's cycle and the tile's handle goes back (R408). -/
def updFail (s : State) (core : Nat) (u : Upd) (l : Latch) (cls : FaultClass) (tinfo : Word64) : State :=
  let s := s.modCoreAt core fun k => { k with upds := k.upds.filter fun v => v.latch != u.latch }
  let s := s.modLatch core u.latch fun l => { l with
    cause := none, err := some { FaultRec.zero with cls := cls, tinfo := tinfo, core := core, seq := l.seq, syll := l.syll } }
  match s.consistOf core with
  | some k => { s with nextId := s.nextId + 1 }.setCons k { s.cons k with
      latches := (s.cons k).latches ++ [{ l with
        id := s.nextId, eff := if u.src = 31 then .returnHq u.cap else .setH u.src u.cap, cause := none, err := none, back := none }] }
  | none => s

/-- The address of the first poisoned granule of a storage; its base where none is left. -/
def State.poisonIn (s : State) (c : Cap) : Word64 :=
  let n := s.handleBytes c
  let base := c.addr.toNat
  let at_ := if c.space = 1 then (tileRange base n).map Prod.snd
    else match s.walk c.part base with
      | .leaf log2 pa _ _ _ _ => some (hbmAt (pa + base % 2 ^ log2))
      | _ => none
  match at_ with
  | some a => match s.mem.firstPoison a n with
    | some g => BitVec.ofNat 64 (base + (g - a))
    | none => c.addr
  | none => c.addr

/-- UPD's copy enters the copy queue; the tile's weight goes home once it has read, and the core's earlier borrows have retired (R81,
R83). -/
def updCopy (s : State) (core : Nat) (u : Upd) (l : Latch) (b : Cap) : State :=
  let k := s.core core
  let earlier := (k.holderIds u.cap.key ++ s.fixedIds core u.cap.key).filter fun id => decide (id < u.latch)
  let s := updTells s core u (.weight u.cap.weight) (s.nextId :: earlier)
  let ttc := match s.consistOf core with | some k => (s.cons k).ttc | none => 0
  let n := classSize (s.dirEntry u.cap.key).cls
  let e : EngEntry :=
    { id := s.nextId, seq := l.seq, syll := l.syll, issued := ttc, ptc := s.ptc, op := .copyTile u.cap b n, borrows := [u.cap]
      writes := [b], popped := [], barrier := none, bytes := 0, due := none, latches := [], ready := s.clk + s.dC core + 2
      started := false, done := 0 }
  { s with nextId := s.nextId + 1 }.modCoreAt core fun k => k.setQueue qCopy (k.queue qCopy ++ [e])

/-- The list a UPD's new block comes from (R71, R81). -/
def Upd.place (u : Upd) (core : Nat) : Nat := if u.hbm then stackPlace core 0 else core

/-- One step of a UPD, when the answer it waits for is back. -/
def updStep (core : Nat) (s : State) (u : Upd) : State :=
  let look := fun (id : Nat) => match s.stores.answers.find? fun a => a.1 == id with
    | some (_, t, a) => if t ≤ s.clk then some a else none
    | none => none
  let drop := fun (s : State) (id : Nat) =>
    { s with stores := { s.stores with answers := s.stores.answers.filter fun a => a.1 != id } }
  let latch : Option Latch := match s.consistOf core with
    | some k => (s.cons k).latches.find? fun (l : Latch) => l.id == u.latch
    | none => none
  match latch with
  | none => s
  | some l =>
    match u.alloc with
    | none =>
      match look u.query with
      | some (.total w poisoned) =>
        let s := drop s u.query
        if poisoned then updFail s core u l .poison (s.poisonIn u.cap)
        else if w = u.cap.weight then
          let s := s.modLatch core u.latch fun l => { l with eff := l.eff.withCap u.cap.asBlank, cause := none }
          updDone (updTells s core u .toBlank []) core u l
        else
          let place := u.place core
          let s := s.sendHome core (listKey core place u.cap.part) (.alloc (s.dirEntry u.cap.key).cls place 4) s.nextId
          let s := s.modLatch core u.latch fun l => { l with due := l.due + 8 }
          let upd := fun (v : Upd) => if v.latch = u.latch then { v with alloc := some s.nextId } else v
          { s with nextId := s.nextId + 1 }.modCoreAt core fun k => { k with upds := k.upds.map upd }
      | _ => s
    | some id =>
      match look id with
      | some (.block base) =>
        let b := newBlank (u.place core) u.cap.part base (u.cap.perms ||| 0x12)
        let s := drop s id
        let s := s.modLatch core u.latch fun l => { l with eff := l.eff.withCap b, cause := none }
        updDone (updCopy s core u l b) core u l
      | some .none => updFail (drop s id) core u l .resource (BitVec.ofNat 64 (s.dirEntry u.cap.key).cls)
      | _ => s

/-! ## What is due -/

/-- What homes have due: a message by its kind, of one core to one porter the earliest (R65), or storage that is free again. -/
def dueHome (s : State) : Option (HomeReq ⊕ Nat) :=
  let before := fun (r : HomeReq) => s.stores.inbox.takeWhile fun x => x.id != r.id
  match s.stores.inbox.find? fun r => decide (r.at_ ≤ s.clk) &&
      (before r).all fun x => x.core != r.core || x.porter != r.porter with
  | some r => some (.inl r)
  | none =>
    match s.stores.dir.find? fun e => decide (e.2.state = .beingFreed) && decide (e.2.freeAt ≤ s.clk) with
    | some e => some (.inr e.1)
    | none => none

/-- What the cores do with homes' answers in each cycle: kept messages leave (R83), UPDs go on. -/
def tickHomes (s : State) : State :=
  (coreIds s).foldl (fun s core =>
    let s := if (s.core core).kept.isEmpty then s else s.flushKept core
    (s.core core).upds.foldl (updStep core) s) { s with stores := { s.stores with replies := s.stores.replies.filter fun r => decide (s.clk < r.2) } }

end Sys2Proof.Machine
end

