-- ==== Sys2Proof/Machine/Micro.lean ====
section
/-! DEFINITION. The attention sequencer's micro-operations (R250-R252, R254, R255): each acts for the core that `cur` names, and
performs whole when it runs. -/
namespace Sys2Proof.Machine
open Sys2Proof

/-! ## Running one -/

/-- How a micro-operation ends: the next one, a jump, a stop with its kind (R249), a stop for poison (R259), another try in the next
cycle, or the entry's end. -/
inductive MicroEnd where
  | next
  | jump (target : Nat)
  | stop (kind : Nat)
  | poison
  | again
  | finish
  deriving DecidableEq, Repr

def State.modAttn (s : State) (core : Nat) (f : Attn → Attn) : State := s.modCoreAt core fun k => { k with attn := f k.attn }

def modAttn (core : Nat) (f : Attn → Attn) : Eng Unit := modify fun s => s.modAttn core f
def getAttn (core : Nat) : Eng Attn := do
  let s ← get
  pure (s.core core).attn

/-- A micro-operation that has no access to storage ahead of it: the next one runs after a time that the spec leaves open (log 5). -/
def microGo (s : State) (core pc : Nat) : State :=
  let (n, s) := s.delay
  s.modAttn core fun a => { a with upc := pc, busyTill := s.clk + 1 + n }

/-- What follows a micro-operation. A violation that its accesses meet is the stop `bad`; a major fault is
reported, and the entry runs again from its start after the context has come back (R215, R216). -/
def microDone (core pc bad : Nat) (e : EngEntry) : Except EngStop MicroEnd × State → State
  | (.ok .next, s) => microGo s core (pc + 1)
  | (.ok (.jump n), s) => microGo s core n
  | (.ok (.stop kind), s) => attnFinish s core pc kind
  | (.ok .poison, s) => attnPoison s core pc
  | (.ok .again, s) => s.modAttn core fun a => { a with busyTill := s.clk + 1 }
  | (.ok .finish, s) => attnFinish s core pc 0
  | (.error .wait, s) => s
  | (.error (.poison _), s) => attnPoison s core pc
  | (.error .refresh, s) => s.modAttn core fun a => { a with busyTill := s.clk + 1 }
  | (.error .lost, s) => s.modCoreAt core fun k => k.modEntry qAttention e.id fun e => { e with stuck := true }
  | (.error (.fault f), s) =>
    match f.cls, s.consistOf core with
    | .majorTrans, some k => report (stopAstart s core e.id) k f e.issued
    | _, _ => attnFinish s core pc bad

/-- Runs one micro-operation of the core `cur` names. -/
def micro (bad : Nat) (body : EngCtx → Eng MicroEnd) (s : State) : Host.Outcome State Fault Refusal :=
  let core := s.cur.1
  match (s.core core).attnEntry with
  | none => .fault .noIssuer
  | some e =>
    .next (microDone core (s.core core).attn.upc bad e ((body (EngCtx.attention core e)).run.run s))

/-- An operation that only moves on. -/
def microStep (f : Attn → Attn) (x : EngCtx) : Eng MicroEnd := do
  modAttn x.core f
  pure .next

/-! ## Parameters, rows, columns -/

def Attn.par (a : Attn) (i : Nat) : Word64 := Tbl.get 0 a.ap i
/-- Live query rows (R244). -/
def Attn.live (a : Attn) : Nat := (a.par 4).toNat
/-- The score scale σ. -/
def Attn.scale (a : Attn) : XNum := fp32.decode ((a.par 1).extractLsb' 0 32).toNat

/-- Rows below n changed, the others kept. -/
def Attn.mapRows (a : Attn) (n : Nat) (f : Nat → AttRow → AttRow) : Attn :=
  { a with rows := ((List.range n).map fun r => (r, f r (a.row r))) ++ a.rows.filter fun p => decide (n ≤ p.1) }

/-- Accumulators from column col on in each of the rows below n, and whether one was clamped. -/
def Core.eachRow (k : Core) (n col : Nat) (f : Nat → List (BitVec 32 × Bool)) : Core × Bool :=
  ((List.range n).foldl (fun c r => setAccRow c r col ((f r).map Prod.fst)) k, (List.range n).any fun r => (f r).any Prod.snd)

/-- The stop of an operation over rows whose ap4 is no row count (R251). -/
def rowsBad (a : Attn) : Bool := decide (a.live < 1 ∨ 128 < a.live)

/-- Whether columns pass 511 or are parked (R154, R155, R251). -/
def colsBad (k : Core) (col n : Nat) : Bool := decide (512 < col + n) || k.parkedIn col n

def x32 (b : BitVec 32) : XNum := fp32.decode b.toNat
def b32 (x : XNum) : BitVec 32 := BitVec.ofNat 32 (fp32.round 0 false x).1
/-- One FP32 operation, rounded in mode 0. -/
def mul32 (a b : BitVec 32) : BitVec 32 := b32 (XNum.mul (x32 a) (x32 b))
def add32 (a b : BitVec 32) : BitVec 32 := b32 (XNum.add 0 (x32 a) (x32 b))
def sub32 (a b : BitVec 32) : BitVec 32 := b32 (XNum.add 0 (x32 a) (x32 b).neg)
def max32 (a b : BitVec 32) : BitVec 32 := b32 (XNum.max (x32 a) (x32 b))
/-- exp(round(σ · round(a − b))) (R252). -/
def expOf (sigma : XNum) (a b : BitVec 32) : BitVec 32 :=
  b32 (XNum.exp (round32 (XNum.mul sigma (x32 (sub32 a b)))))

def negInf : BitVec 32 := 0xFF800000

/-- two_sum (R252). -/
def twoSum (a b : BitVec 32) : BitVec 32 × BitVec 32 :=
  let s := add32 a b
  let v := sub32 s a
  (s, add32 (sub32 a (sub32 s v)) (sub32 b v))

def XNum.finite : XNum → Bool
  | .fin _ _ _ => true
  | _ => false

/-- A result that overflows from finite operands is the largest finite value of its sign (R252). -/
def clampInf (finite : Bool) (v : BitVec 32) : BitVec 32 × Bool :=
  if finite && v &&& 0x7FFFFFFF == 0x7F800000 then ((v &&& 0x80000000) ||| 0x7F7FFFFF, true) else (v, false)

def Attn.saturated (a : Attn) (b : Bool) : Attn := if b then { a with status := a.status ||| 4 } else a

/-! ## Products (R98, R99, R101, R251) -/

/-- Whether an operation may read an operand slot: it is claimed, and filled (R152, R153, R247). -/
def slotFull (k : Core) (n : BitVec 4) : Bool := (k.slot n).state == .claimedFilled
def slotHeld (k : Core) (n : BitVec 4) : Bool := (k.slot n).state != .free

/-- A format word of R97. -/
def fmtWord (a b mode : Nat) : Word64 := BitVec.ofNat 64 (a * 2 ^ 60 + b * 2 ^ 56 + mode * 2 ^ 50)

/-- The stop of an operation that reads slots a and b of given inner size and columns, into columns from col on (R247, R251). -/
def productBad (k : Core) (at_ : Attn) (a b : BitVec 4) (col inner n fa fb : Nat) (fmts : Bool) : Option Nat :=
  let sa := k.slot a
  let sb := k.slot b
  if rowsBad at_ then some 4
  else if 8 ≤ fb then some 1
  else if !slotFull k a || !slotFull k b || colsBad k col n then some 4
  else if !fmts || sa.fmt != fa || sb.fmt != fb then some 5
  else if sa.rows < at_.live ∨ sa.cols < inner ∨ sb.rows < inner ∨ sb.cols < n then some 4
  else none

/-- QK (R251): scores, and the K slot's live mask. -/
def microQk (q k : BitVec 4) (col : BitVec 9) (dim : BitVec 7) (fmt : BitVec 4) (x : EngCtx) : Eng MicroEnd := do
  let s ← get
  let c := s.core x.core
  let f := fmt.toNat
  let d := dim.toNat + 1
  match productBad c c.attn q k col.toNat d 64 f f ([1, 3, 4].contains f) with
  | some kind => pure (.stop kind)
  | none =>
    let qb := s.slotBytes x.core q
    let kb := s.slotBytes x.core k
    let cols := (List.range 64).map fun j => colOf f kb (c.slot k).cols j d
    let out := c.eachRow c.attn.live col.toNat fun r =>
      cols.map fun b => (mmaElement (fmtWord f f 0) (rowOf f qb (c.slot q).cols r d false) b [] none 0, false)
    set ((s.setCore x.core out.1).modAttn x.core fun a => { a with mask := BitVec.ofNat 64 (bytesAt kb (slotSize x.core - 8) 8) })
    pure .next

def execMicroQk (q k : BitVec 4) (col : BitVec 9) (dim : BitVec 7) (fmt : BitVec 4) (s : State) : Host.Outcome State Fault Refusal :=
  micro 4 (microQk q k col dim fmt) s

/-- One element of PV, with the clamp of R252. -/
def pvElement (fw : Word64) (row col : List Nat) (scale : Option XNum) (acc : BitVec 32) : BitVec 32 × Bool :=
  let finite := (x32 acc).finite && row.all (fun b => (num (fwA fw) b).finite) && col.all (fun b => (num (fwB fw) b).finite) &&
    (match scale with | some g => g.finite | none => true)
  clampInf finite (mmaElement fw row col [] scale acc)

/-- PV (R251): P in F8A has scale mode 2 (R101). -/
def microPv (p v : BitVec 4) (col : BitVec 9) (dim : BitVec 7) (fmt : BitVec 4) (x : EngCtx) : Eng MicroEnd := do
  let s ← get
  let c := s.core x.core
  let f := fmt.toNat
  let d := dim.toNat + 1
  let pf := (c.slot p).fmt
  let fw := fmtWord pf f (if pf = 3 then 2 else 0)
  match productBad c c.attn p v col.toNat 64 d pf f ((pf = 3 ∧ (f = 3 ∨ f = 4)) || (pf == 1 && f == 1)) with
  | some kind => pure (.stop kind)
  | none =>
    let pb := s.slotBytes x.core p
    let vb := s.slotBytes x.core v
    let cols := (List.range d).map fun j => colOf f vb (c.slot v).cols j 64
    let out := c.eachRow c.attn.live col.toNat fun r =>
      let scale := if pf = 3 then some (fp32.decode (bytesAt pb (slotSize x.core - 512 + 4 * r) 4)) else none
      (cols.zip (c.accRow r col.toNat d)).map fun b => pvElement fw (rowOf pf pb (c.slot p).cols r 64 false) b.1 scale b.2
    set ((s.setCore x.core out.1).modAttn x.core fun a => a.saturated out.2)
    pure .next

def execMicroPv (p v : BitVec 4) (col : BitVec 9) (dim : BitVec 7) (fmt : BitVec 4) (s : State) : Host.Outcome State Fault Refusal :=
  micro 4 (microPv p v col dim fmt) s

/-! ## Softmax (R252) -/

/-- Scores of a row; a masked column's is −∞. -/
def scoresOf (c : Core) (r col : Nat) : List (BitVec 32) :=
  (List.range 64).map fun j => if c.attn.mask.getLsbD j then c.accAt r (col + j) else negInf

/-- SMAX of one row. -/
def smaxRow (sigma : XNum) (scores : List (BitVec 32)) (a : AttRow) : AttRow :=
  let mn := max32 a.m (scores.foldl max32 negInf)
  let alpha := if a.m = negInf then 0
    else if XNum.cmp (x32 a.m) (x32 mn) = some 0 then 0x3F800000
    else expOf sigma a.m mn
  { a with m := mn, alpha := alpha }

def microSmax (col : BitVec 9) (x : EngCtx) : Eng MicroEnd := do
  let s ← get
  let c := s.core x.core
  if rowsBad c.attn || colsBad c col.toNat 64 then pure (.stop 4)
  else do
    modAttn x.core fun a => a.mapRows a.live fun r w => smaxRow a.scale (scoresOf c r col.toNat) w
    pure .next

def execMicroSmax (col : BitVec 9) (s : State) : Host.Outcome State Fault Refusal := micro 4 (microSmax col) s

/-- Probabilities of a row. -/
def probsOf (c : Core) (r col : Nat) : List (BitVec 32) :=
  let m := (c.attn.row r).m
  (List.range 64).map fun j =>
    if c.attn.mask.getLsbD j && m != negInf then expOf c.attn.scale (c.accAt r (col + j)) m else 0

/-- Whether F8A flushes p beside the row's greatest: pm = 0 or p / pm < 2^−9. -/
def flushed (p pm : XNum) : Bool :=
  XNum.cmp pm (.fin false 0 0) == some 0 || XNum.cmp (XNum.mul p (.fin false 1 9)) pm == some (-1)

/-- A row of EXPP: the P elements, the row's λ, and how many probabilities were flushed. -/
structure PRow where
  q   : List Nat
  lam : BitVec 32
  pm  : BitVec 32
  n   : Nat
  deriving DecidableEq, Repr

def exppRow (f8 : Bool) (ps : List (BitVec 32)) (a : AttRow) : PRow :=
  let pm := ps.foldl max32 0
  let lam := mul32 a.lam a.alpha
  if f8 then
    ps.foldl (fun (acc : PRow) p =>
      if flushed (x32 p) (x32 pm) then
        if p &&& 0x7FFFFFFF = 0 then { acc with q := acc.q ++ [0] }
        else { acc with q := acc.q ++ [0], lam := add32 acc.lam p, n := acc.n + 1 }
      else { acc with q := acc.q ++ [(f8aFmt.round 0 false (XNum.div (x32 p) (x32 pm))).1] }) ⟨[], lam, pm, 0⟩
  else ⟨ps.map fun p => (bf16.round 0 false (x32 p)).1, lam, pm, 0⟩

/-- The flushed count of the status word, saturating (R249). -/
def addFlushed (w : Word64) (n : Nat) : Word64 :=
  let c := min 0xFFFF ((w.extractLsb' 32 16).toNat + n)
  (w &&& 0xFFFF0000FFFFFFFF) ||| (BitVec.ofNat 64 c <<< 32)

/-- What EXPP leaves in the sequencer: the probabilities, the lost mass, the flushed count. -/
def Attn.expp (a : Attn) (ps : Nat → List (BitVec 32)) (out : Nat → PRow) : Attn :=
  { a.mapRows a.live fun r w => { w with lam := (out r).lam } with
    probs := (List.range a.live).flatMap (fun r => (List.range 64).map fun j => (64 * r + j, (ps r).getD j 0)) ++
      a.probs.filter fun q => decide (64 * a.live ≤ q.1)
    status := addFlushed a.status ((List.range a.live).foldl (fun n r => n + (out r).n) 0) }

/-- EXPP's writes into the P slot: elements, and F8A's row scales at its end. -/
def State.putP (s : State) (core : Nat) (p : BitVec 4) (n : Nat) (f8 : Bool) (out : Nat → PRow) : State :=
  let values := (0, (List.range n).flatMap fun r => (out r).q.flatMap fun v => toBytes (if f8 then 1 else 2) v)
  let maxima := if f8 then [(slotSize core - 512, (List.range n).flatMap fun r => toBytes 4 (out r).pm.toNat)] else []
  (s.loadSlot core p ⟨n, 64, if f8 then 3 else 1, values :: maxima⟩).setSlot core p .claimedFilled

def microExpp (p : BitVec 4) (col : BitVec 9) (pf : BitVec 2) (x : EngCtx) : Eng MicroEnd := do
  let s ← get
  let c := s.core x.core
  let a := c.attn
  if rowsBad a then pure (.stop 4)
  else if 2 ≤ pf.toNat then pure (.stop 1)
  else if !slotHeld c p || colsBad c col.toNat 64 then pure (.stop 4)
  else do
    let ps := fun r => probsOf c r col.toNat
    let out := fun r => exppRow (pf = 0) (ps r) (a.row r)
    modAttn x.core fun a => a.expp ps out
    modify fun s => s.putP x.core p a.live (pf = 0) out
    pure .next

def execMicroExpp (p : BitVec 4) (col : BitVec 9) (pf : BitVec 2) (s : State) : Host.Outcome State Fault Refusal :=
  micro 4 (microExpp p col pf) s

/-- DEN of one row. -/
def denRow (ps : List (BitVec 32)) (a : AttRow) : AttRow :=
  let r := ps.foldl (fun (acc : BitVec 32 × BitVec 32) p =>
    let t := twoSum acc.1 p
    (t.1, add32 acc.2 t.2)) (mul32 a.hi a.alpha, mul32 a.lo a.alpha)
  let t := twoSum r.1 r.2
  { a with hi := t.1, lo := t.2 }

def microDen (x : EngCtx) : Eng MicroEnd := do
  let a ← getAttn x.core
  if rowsBad a then pure (.stop 4)
  else do
    modAttn x.core fun a => a.mapRows a.live fun r w => denRow ((List.range 64).map fun j => Tbl.get 0 a.probs (64 * r + j)) w
    pure .next

def execMicroDen (s : State) : Host.Outcome State Fault Refusal := micro 4 microDen s

/-- RESC (R251, R252). -/
def rescElement (alpha v : BitVec 32) : BitVec 32 × Bool :=
  if alpha &&& 0x7FFFFFFF = 0 then (0, false)
  else clampInf ((x32 v).finite && (x32 alpha).finite) (mul32 v alpha)

def microResc (col : BitVec 9) (dim : BitVec 7) (x : EngCtx) : Eng MicroEnd := do
  let s ← get
  let c := s.core x.core
  let d := dim.toNat + 1
  if rowsBad c.attn || colsBad c col.toNat d then pure (.stop 4)
  else do
    let out := c.eachRow c.attn.live col.toNat fun r => (c.accRow r col.toNat d).map (rescElement (c.attn.row r).alpha)
    set ((s.setCore x.core out.1).modAttn x.core fun a => a.saturated out.2)
    pure .next

def execMicroResc (col : BitVec 9) (dim : BitVec 7) (s : State) : Host.Outcome State Fault Refusal :=
  micro 4 (microResc col dim) s

/-! ## The output (R251) -/

/-- An element of NORM: the exact quotient, rounded once to the output's format. -/
def normElement (f : Fmt) (hi lo v : BitVec 32) : Nat × Bool :=
  match XNum.add 0 (x32 hi) (x32 lo) with
  | .fin s m e => if m = 0 then (0, false) else f.round 0 (x32 v).finite (XNum.div (x32 v) (.fin s m e))
  | d => f.round 0 false (XNum.div (x32 v) d)

/-- The cycle's stores of a core that issued before the ASTART of the running entry have performed (R418). -/
def storesBefore (s : State) (core : Nat) : State :=
  match (s.core core).consist, (s.core core).attn.entry with
  | some k, some id => performOlder s k core id
  | _, _ => s

/-- NORM; its bytes are ordered among a cycle's stores by its ASTART (R418). -/
def microNorm (col : BitVec 9) (dim : BitVec 7) (of : BitVec 2) (row : BitVec 7) (x : EngCtx) : Eng MicroEnd := do
  let s ← get
  let c := s.core x.core
  let a := c.attn
  let d := dim.toNat + 1
  if rowsBad a then pure (.stop 4)
  else if 2 ≤ of.toNat then pure (.stop 1)
  else
    let w := if of = 0 then 4 else 2
    if a.blank.isNull || colsBad c col.toNat d || decide (classSize (s.dirEntry a.blank.key).cls < (row.toNat + a.live) * d * w) then pure (.stop 4)
    else do
      let out := (List.range a.live).flatMap fun r =>
        (c.accRow r col.toNat d).map (normElement (if of = 0 then fp32 else bf16) (a.row r).hi (a.row r).lo)
      let ps ← engRange x a.blank.space (a.blank.addr.toNat + row.toNat * d * w) (a.live * d * w) true
      modify fun s =>
        let s := storesBefore s x.core
        { s with mem := writeParts s.mem ps (out.flatMap fun v => toBytes w v.1) }
      modAttn x.core fun a => a.saturated (out.any Prod.snd)
      pure .next

def execMicroNorm (col : BitVec 9) (dim : BitVec 7) (of : BitVec 2) (row : BitVec 7) (s : State) :
    Host.Outcome State Fault Refusal := micro 4 (microNorm col dim of row) s

/-! ## The walker (R253-R255) -/

/-- What the walker's tables come to: the pages to visit, with whether each entry is well formed; malformed tables; poison. -/
inductive Pages where
  | list (t : SeqTable) (ps : List (Nat × Bool))
  | bad
  | poison
  deriving DecidableEq, Repr

/-- The selected-page list (R254). -/
def selectedPages (x : EngCtx) (t : SeqTable) (a : Nat) : Eng Pages := do
  let (hb, bad) ← engRead x 5 a 8
  let h := BitVec.ofNat 64 (leNat hb)
  let n := (h.extractLsb' 0 7).toNat
  let w := if h.getLsbD 7 then 4 else 2
  if bad.isSome then pure .poison
  else if h.extractLsb' 8 56 != 0 || n == 0 || decide (64 < n) then pure .bad
  else do
    let (bs, bad) ← engRead x 5 (a + 8) (n * w)
    if bad.isSome then pure .poison
    else pure (.list t ((List.range n).map fun i =>
      let v := elemAt bs w i
      (v % 2 ^ 24, decide (v < 2 ^ 24))))

def walkPages (x : EngCtx) : Eng Pages := do
  let a ← getAttn x.core
  let (t, bad) ← readSeqTable x (a.par 0).toNat
  match t, bad with
  | _, some _ => pure .poison
  | none, none => pure .bad
  | some t, none =>
    if a.par 2 = 0 then
      pure (.list t (((List.range t.pages).filter (t.pageLive (a.par 3).toNat)).map fun p => (p, true)))
    else selectedPages x t (a.par 2).toNat

def microWalk (x : EngCtx) : Eng MicroEnd := do
  let a ← getAttn x.core
  match ← walkPages x with
  | .poison => pure .poison
  | .bad => pure (.stop 2)
  | .list t ps =>
    match ps[a.pos]? with
    | none => do
      modAttn x.core fun a => { a with block := none, finished := true }
      pure .next
    | some (p, ok) =>
      if !ok || decide (t.pages ≤ p) then pure (.stop 2)
      else do
        modAttn x.core fun a => { a with block := some p, pos := a.pos + 1 }
        pure .next

def execMicroWalk (s : State) : Host.Outcome State Fault Refusal := micro 2 microWalk s

/-- GATH (R251, R255): keys into slot k, values into slot v. -/
def microGath (k v : BitVec 4) (x : EngCtx) : Eng MicroEnd := do
  let s ← get
  let c := s.core x.core
  match c.attn.block with
  | none => pure (.stop 2)
  | some page =>
    if !slotHeld c k || !slotHeld c v then pure (.stop 4)
    else do
      let (t, bad) ← readSeqTable x (c.attn.par 0).toNat
      match t, bad with
      | _, some _ => pure .poison
      | none, none => pure (.stop 2)
      | some t, none =>
        if t.pages ≤ page then pure (.stop 2)
        else do
          let (g, bad) ← gatherPage x t (c.attn.par 3).toNat page
          if bad.isSome then pure .poison
          else do
            modify fun s =>
              (((s.slotKeys x.core k t g).setSlot x.core k .claimedFilled).slotValues x.core v t g).setSlot x.core v .claimedFilled
            pure .next

def execMicroGath (k v : BitVec 4) (s : State) : Host.Outcome State Fault Refusal := micro 2 (microGath k v) s

/-! ## Control -/

def execMicroEnd (s : State) : Host.Outcome State Fault Refusal := micro 4 (fun _ => pure .finish) s

def execMicroLoop (k : BitVec 2) (fromAp : BitVec 1) (ap : BitVec 4) (n : BitVec 24) (s : State) : Host.Outcome State Fault Refusal :=
  micro 4 (microStep fun a =>
    { a with lk := Tbl.set a.lk k.toNat (if fromAp = 1 then (a.par ap.toNat).setWidth 24 else n) }) s

/-- BNZ (R251). -/
def microBnz (k mode : BitVec 2) (target : BitVec 12) (x : EngCtx) : Eng MicroEnd := do
  let a ← getAttn x.core
  let v := Tbl.get (0 : BitVec 24) a.lk k.toNat
  let onward := fun (b : Bool) => if b then MicroEnd.jump target.toNat else .next
  match mode.toNat with
  | 0 =>
    if v = 0 then pure .next
    else do
      modAttn x.core fun a => { a with lk := Tbl.set a.lk k.toNat (v - 1) }
      pure (onward (v != 1))
  | 1 => pure (onward a.block.isSome)
  | 2 => pure (onward a.finished)
  | _ => pure (.stop 1)

def execMicroBnz (k mode : BitVec 2) (target : BitVec 12) (s : State) : Host.Outcome State Fault Refusal :=
  micro 4 (microBnz k mode target) s

def execMicroJmp (target : BitVec 12) (s : State) : Host.Outcome State Fault Refusal :=
  micro 4 (fun _ => pure (.jump target.toNat)) s

/-- SIG (R179, R251): the signal performs 4 cycles on. -/
def microSig (t : BitVec 5) (x : EngCtx) : Eng MicroEnd := do
  let s ← get
  modCoreEng x.core fun k => { k with marks := k.marks ++ [⟨s.nextId, t, [], some (s.clk + 4)⟩] }
  modify fun s => { s with nextId := s.nextId + 1 }
  pure .next

def execMicroSig (t : BitVec 5) (s : State) : Host.Outcome State Fault Refusal := micro 4 (microSig t) s

/-- WAITT (R179, R251): inside the engine. -/
def microWaitt (t : BitVec 5) (x : EngCtx) : Eng MicroEnd := do
  let s ← get
  if tokenLeft { s with cur := (x.core, .xs) } x.core t = 0 then pure .again
  else do
    modCoreEng x.core fun k => { k with tok := Tbl.set k.tok t.toNat (k.token t - 1) }
    pure .next

def execMicroWaitt (t : BitVec 5) (s : State) : Host.Outcome State Fault Refusal := micro 4 (microWaitt t) s

/-- SETP (R251). -/
def microSetp (ap : BitVec 4) (mode : BitVec 2) (imm : BitVec 48) (x : EngCtx) : Eng MicroEnd := do
  let a ← getAttn x.core
  let v : Word64 := imm.signExtend 64
  match mode.toNat with
  | 0 => microStep (fun a => { a with ap := Tbl.set a.ap ap.toNat v }) x
  | 1 => microStep (fun a' => { a' with ap := Tbl.set a'.ap ap.toNat (a.par ap.toNat + v) }) x
  | _ => pure (.stop 1)

def execMicroSetp (ap : BitVec 4) (mode : BitVec 2) (imm : BitVec 48) (s : State) : Host.Outcome State Fault Refusal :=
  micro 4 (microSetp ap mode imm) s

/-! ## When one runs -/

/-- Whether a micro-operation needs the matrix array or the exponent engine: QK, SMAX, EXPP, PV (R250-R252). -/
def onArray (w : Word64) : Bool := [0x01, 0x02, 0x03, 0x06].contains (w.extractLsb' 58 6).toNat

/-- Whether a core's matrix array and exponent engine stand, since a handler runs (R206). -/
def State.arrayStands (s : State) (core : Nat) : Bool := (s.consistOf core).any fun k => (s.cons k).trapMat

/-- Whether a core's attention sequencer runs its next micro-operation now. -/
def microReady (s : State) (core : Nat) : Bool :=
  let k := s.core core
  match k.attnEntry with
  | none => false
  | some e => !e.stuck && k.attn.waiting.isNone && decide (k.attn.busyTill ≤ s.clk) && !s.unitsStopped core && !k.walkPending qAttention e.id &&
    !(s.arrayStands core && onArray (Tbl.get 0 k.attn.store k.attn.upc))

/-- A core whose micro-operation is due, with its control-store word; `none` past the end of the store (R250). -/
def dueMicro (s : State) : Option (Nat × Option Word64) :=
  ((coreIds s).find? (microReady s)).map fun core =>
    let a := (s.core core).attn
    (core, if a.upc < 4096 then some (Tbl.get 0 a.store a.upc) else none)

/-- A reserved operation, and running past the end (R250). -/
def microReserved (s : State) (core : Nat) : State := attnFinish s core (min (s.core core).attn.upc 4095) 1

end Sys2Proof.Machine
end

