-- ==== Sys2Proof/Machine/Porter.lean ====
section
/-! DEFINITION. Porters: the words 0xA0 to 0xA3 (PAMO, PLD, PST, BCNT) and WAITV (R169-R178, R333, R379, R428), the porter interface
(R40, R181), the operations at a porter (R170, R173-R176), barriers (R178); and the events PORTER_OPERATION, BARRIER_ARRIVAL and
WAITV_POLL. -/
namespace Sys2Proof.Machine
open Sys2Proof

/-! ## Cells -/

def porterOf (n : Nat) : Nat := n / 2 ^ 22
def State.cell (s : State) (n : Nat) : Word64 := s.mem.read64 (cellAt n)

/-- The count of a partition's cells at a porter (R322). -/
def State.cellGrant (s : State) (part : BitVec 5) (porter : Nat) : Nat :=
  ((s.part part).grant.cells.find? fun g => g.1 == porter).elim 0 Prod.snd

def State.cellGranted (s : State) (part : BitVec 5) (n : Nat) : Bool := decide (n % 2 ^ 22 < s.cellGrant part (porterOf n))

/-- Whether the granule of a cell is poisoned (R87). -/
def State.cellPoisoned (s : State) (n : Nat) : Bool := s.mem.poisoned (cellAt n)

/-- Station cycles from a porter to the C-die (R173). -/
def State.dP (s : State) (n : Nat) : Nat := s.dist cDie (dieOfPorter (porterOf n))

/-! ## Replies -/

/-- A porter's reply is on its way (R241). -/
def State.replying (s : State) (r : PorterReq) : State := s.outbound (dieOfPorter (porterOf r.cell)) (s.clk + s.dP r.cell + 6)

/-- A reply leaves its porter: what the latches take, in order; it is back after dc + 6 (R173). -/
def State.porterReply (s : State) (r : PorterReq) (fs : List (Effect → Effect)) : State :=
  let s := s.replying r
  (r.latches.zip fs).foldl (fun s p => s.modLatch r.core p.1 fun l =>
    { l with eff := p.2 l.eff, back := some (s.clk + s.dP r.cell + 6) }) s

/-- The operation has performed: its entry retires (R184, R435). -/
def State.retirePorter (s : State) (r : PorterReq) : State :=
  match r.entry.bind fun id => ((s.core r.core).queue qPorter).find? fun e => e.id == id with
  | some e => s.retireEntry r.core qPorter e
  | none => s

/-- TTC at which the request's word issued; 0 where its entry is gone. -/
def State.porterIssued (s : State) (r : PorterReq) : Nat :=
  match r.entry.bind fun id => ((s.core r.core).queue qPorter).find? fun e => e.id == id with
  | some e => e.issued
  | none => 0

def porterRec (r : PorterReq) (cls : FaultClass) (tinfo : Word64) : FaultRec :=
  { FaultRec.zero with cls := cls, tinfo := tinfo, core := r.core, seq := r.seq, syll := r.syll }

/-- A violation at the porter: the operation has no effect, and the issuing master freezes (R173, R219). -/
def State.porterFault (s : State) (r : PorterReq) (cls : FaultClass) (tinfo : Word64) : State :=
  match s.consistOf r.core with
  | some k => report s k (porterRec r cls tinfo) (s.porterIssued r)
  | none => s

/-- A poisoned granule that the operation reads: the fault comes at the result, or at once where there is none (R87). -/
def State.porterPoison (s : State) (r : PorterReq) (n : Nat) : State :=
  let f := porterRec r .poison (BitVec.ofNat 64 (8 * n / 16 * 16))
  match r.latches, s.consistOf r.core with
  | [], some k => report s k f (s.porterIssued r)
  | id :: rest, _ =>
    let s := s.replying r
    let s := s.modLatch r.core id fun l =>
      { l with err := some { f with latch := some id }, back := some (s.clk + s.dP r.cell + 6) }
    rest.foldl (fun s id => s.modLatch r.core id fun l => { l with eff := l.eff.lost, back := some (s.clk + s.dP r.cell + 6) }) s
  | [], none => s

/-! ## Writes and watches (R176) -/

/-- The condition of a watch. -/
def PorterReq.holds (r : PorterReq) (v : Word64) : Bool :=
  match r.op with
  | .waitv cond _ => cellCond cond v r.v
  | _ => true

/-- WAITV completes with a value (R176, R428). -/
def State.waitvDone (s : State) (r : PorterReq) (v : Word64) : State :=
  (s.porterReply r [Effect.withWord v]).retirePorter r

def State.watchesAt (s : State) (porter : Nat) : List Watch := Tbl.get [] s.stores.watches porter
def State.setWatches (s : State) (porter : Nat) (l : List Watch) : State :=
  { s with stores := { s.stores with watches := Tbl.set s.stores.watches porter l } }

/-- A watch is tested again; where it is satisfied its slot is free (R176). -/
def retestWatch (s : State) (w : Watch) : State :=
  let v := s.cell w.req.cell
  if w.req.holds v then
    (s.setWatches (porterOf w.req.cell) ((s.watchesAt (porterOf w.req.cell)).filter fun x => x.req.id != w.req.id)).waitvDone w.req v
  else s

/-- Every watch of the cells that an operation has written (R176). -/
def State.retest (s : State) (ns : List Nat) : State :=
  (ns.map porterOf).dedup.foldl (fun s p => ((s.watchesAt p).filter fun w => ns.contains w.req.cell).foldl retestWatch s) s

/-- One operation's writes of whole cells; no capability write, so the granules' tags are cleared (R169). -/
def State.putCells (s : State) (l : List (Nat × Word64)) : State :=
  let mem := l.foldl (fun (m : Memory) p => m.write64 (cellAt p.1) p.2) s.mem
  { s with mem := mem }.retest (l.map Prod.fst)

/-- A write of the cell pair n, n + 1 as one operation: it covers the whole granule (R87). -/
def State.putPair (s : State) (n : Nat) (v w : Word64) : State :=
  { s with mem := s.mem.write (cellAt n) (toBytes 8 v.toNat ++ toBytes 8 w.toNat) }.retest [n, n + 1]

/-- A capability exchanged into a cell pair (R175). -/
def State.putCap (s : State) (n : Nat) (c : Cap) : State :=
  { s with mem := s.mem.writeCap (cellAt n) c }.retest [n, n + 1]

/-! ## Barriers (R178) -/

/-- Counter and status of a barrier. -/
structure Barrier where
  counter  : Word64
  posted   : Bool
  complete : Bool
  overrun  : Bool
  deriving DecidableEq, Repr

def State.barrier (s : State) (n : Nat) : Barrier :=
  let w := s.cell (n + 1)
  ⟨s.cell n, w.getLsbD 0, w.getLsbD 1, w.getLsbD 2⟩

def Barrier.status (b : Barrier) : Word64 :=
  (if b.overrun then 4 else 0) ||| (if b.complete then 2 else 0) ||| (if b.posted then 1 else 0)

def Barrier.check (b : Barrier) : Barrier :=
  if b.posted && b.counter == 0 then { b with complete := true }
  else if b.posted && decide (0 < b.counter.toInt) then { b with overrun := true, complete := true, counter := 0 }
  else b

/-- BCNT posts a count. -/
def Barrier.post (b : Barrier) (w : Word64) : Barrier :=
  let b := if b.complete then { b with counter := 0, complete := false, posted := false } else b
  { b with counter := b.counter - w, posted := true }.check

/-- An arrival of a byte count. -/
def Barrier.arrive (b : Barrier) (n : Nat) : Barrier :=
  if b.complete then { b with overrun := true } else { b with counter := b.counter + BitVec.ofNat 64 n }.check

def State.putBarrier (s : State) (n : Nat) (b : Barrier) : State := s.putPair n b.counter b.status

/-! ## Operations (R173-R175) -/

def minS (a b : Word64) : Word64 := if a.toInt ≤ b.toInt then a else b
def maxS (a b : Word64) : Word64 := if a.toInt ≤ b.toInt then b else a

/-- CHASE: the value after at most so many links. -/
def State.chase (s : State) (r : PorterReq) : Nat → Word64 → Word64
  | 0, v => v
  | k + 1, v =>
    let n := v.toNat
    let b := r.cap.bounds
    if n = 0 ∨ 2 ^ 32 ≤ n ∨ porterOf n ≠ porterOf r.cell ∨ 8 * n < b.1 ∨ b.2 < 8 * n + 8 ∨ !s.cellGranted r.part n then v
    else s.chase r k (s.cell n)

/-- Cells an operation spans. -/
def CellOp.wide : CellOp → Bool
  | .cas2 | .hxch | .bcnt => true
  | _ => false

/-- Whether an operation only stores. -/
def CellOp.storesOnly : CellOp → Bool
  | .st => true
  | _ => false

/-- The cells an operation writes with the value each gets, old being the cell's value. -/
def cellWrites (r : PorterReq) (old : Word64) : List (Nat × Word64) :=
  match r.op with
  | .add | .redAdd => [(r.cell, old + r.v)]
  | .min | .redMin => [(r.cell, minS old r.v)]
  | .max | .redMax => [(r.cell, maxS old r.v)]
  | .swap | .st => [(r.cell, r.v)]
  | .cas => if old = r.v then [(r.cell, r.w)] else []
  | .enq => (r.v.toNat % 2 ^ 32, 0) :: ((if old = 0 then [] else [(old.toNat % 2 ^ 32, r.v)]) ++ [(r.cell, r.v)])
  | _ => []

/-- Why a porter refuses an operation (R173): class and tinfo. A node cell's number is bits 31:0 of sb. -/
def porterRefuses (s : State) (r : PorterReq) : Option (FaultClass × Nat) :=
  if !s.cellGranted r.part r.cell then some (.partition, r.cell)
  else if (r.op.wide || r.arrival.isSome) && !s.cellGranted r.part (r.cell + 1) then some (.partition, r.cell + 1)
  else match r.op with
    | .enq =>
      let n := r.v.toNat % 2 ^ 32
      if r.v = 0 ∨ porterOf n ≠ porterOf r.cell then some (.capability, r.v.toNat)
      else if !s.cellGranted r.part n then some (.partition, r.v.toNat)
      else none
    | _ => none

/-- What an operation that the porter takes does. -/
def cellEffect (s : State) (r : PorterReq) : State :=
  let old := s.cell r.cell
  match r.op with
  | .cas2 =>
    let old2 := s.cell (r.cell + 1)
    let s' := if old = r.v ∧ old2 = r.v2 then s.putPair r.cell r.w r.w2 else s
    s'.porterReply r [Effect.withWord old, Effect.withWord old2]
  | .hxch =>
    let c := s.mem.readCap (cellAt r.cell)
    (s.putCap r.cell r.cap).porterReply r [Effect.withCap c]
  | .bcnt => s.putBarrier r.cell ((s.barrier r.cell).post r.v)
  | .chase => s.porterReply r [Effect.withWord (s.chase r r.links old)]
  | _ => (s.putCells (cellWrites r old)).porterReply r [Effect.withWord old]

/-- WAITV at its porter (R176): it completes, takes one of the 64 watch slots, or polls. -/
def waitvEffect (s : State) (r : PorterReq) : State :=
  let v := s.cell r.cell
  if r.holds v then s.waitvDone r v
  else
    let ws := s.watchesAt (porterOf r.cell)
    if ws.length < 64 then s.setWatches (porterOf r.cell) (ws ++ [⟨r⟩])
    else s.modCoreAt r.core fun k => { k with polls := k.polls ++ [(r, s.clk + 64, 128)] }

/-- A porter performs one operation (R170). A die in reset discards it (R241, R302). -/
def porterPerform (s : State) (r : PorterReq) : State :=
  if (s.die (dieOfPorter (porterOf r.cell))).state = .reset then (s.markDies r.core [dieOfPorter (porterOf r.cell)]).retirePorter r
  else match porterRefuses s r with
  | some (cls, n) => (s.porterFault r cls (BitVec.ofNat 64 n)).retirePorter r
  | none =>
    match r.op with
    | .waitv _ _ => if s.cellPoisoned r.cell then (s.porterPoison r r.cell).retirePorter r else waitvEffect s r
    | op =>
      if s.cellPoisoned r.cell && !op.storesOnly then
        let s := match op with | .hxch => s.putCap r.cell r.cap | _ => s
        (s.porterPoison r r.cell).retirePorter r
      else (cellEffect s r).retirePorter r

/-- An arrival at a barrier (R178). -/
def barrierArrive (s : State) (r : PorterReq) (bytes : Nat) : State :=
  if (s.die (dieOfPorter (porterOf r.cell))).state = .reset then s.markDies r.core [dieOfPorter (porterOf r.cell)]
  else match porterRefuses s r with
  | some (cls, n) => s.porterFault r cls (BitVec.ofNat 64 n)
  | none =>
    if s.cellPoisoned r.cell then s.porterPoison r r.cell
    else s.putBarrier r.cell ((s.barrier r.cell).arrive bytes)

/-! ## Events -/

/-- The requests that are at a porter by now: of one core's only the first (R170). -/
def State.porterHead (s : State) (porter : Nat) (arrival : Bool) : Option PorterReq :=
  let mine := s.stores.cellInbox.filter fun r => porterOf r.cell == porter
  mine.find? fun r => decide (r.at_ ≤ s.clk) && (r.arrival.isSome == arrival) &&
    ((mine.takeWhile fun x => x.id != r.id).all fun x => x.core != r.core)

def takeRequest (s : State) (r : PorterReq) : State :=
  { s with stores := { s.stores with cellInbox := s.stores.cellInbox.filter fun x => x.id != r.id } }

def porterOperation (s : State) (porter : Nat) : State :=
  match s.porterHead porter false with
  | some r => porterPerform (takeRequest s r) r
  | none => s

def execPorterOperation (porter : BitVec 10) (s : State) : Host.Outcome State Fault Refusal := .next (porterOperation s porter.toNat)

def barrierArrival (s : State) (porter : Nat) : State :=
  match s.porterHead porter true with
  | some r => barrierArrive (takeRequest s r) r (r.arrival.getD 0)
  | none => s

def execBarrierArrival (porter : BitVec 10) (s : State) : Host.Outcome State Fault Refusal := .next (barrierArrival s porter.toNat)

/-- WAITV_POLL (R176): the cell is read again, after a delay that doubles up to 65,536 cycles. -/
def waitvPoll (s : State) (core : Nat) : State :=
  let k := s.core core
  match k.polls.find? fun p => decide (p.2.1 ≤ s.clk) with
  | none => s
  | some (r, _, delay) =>
    let v := s.cell r.cell
    let rest := k.polls.filter fun p => p.1.id != r.id
    if r.holds v then (s.setCore core { k with polls := rest }).waitvDone r v
    else s.setCore core { k with polls := rest ++ [(r, s.clk + delay, min (2 * delay) 65536)] }

def execWaitvPoll (core : Nat) (s : State) : Host.Outcome State Fault Refusal := .next (waitvPoll s core)

/-- Watches and polls that are lost: WAITV completes with the cell's current value (R176). -/
def State.loseWatches (s : State) (lost : PorterReq → Bool) : State :=
  let ws := (s.stores.watches.flatMap Prod.snd).filter fun w => lost w.req
  let s := ws.foldl (fun s w =>
    (s.setWatches (porterOf w.req.cell) ((s.watchesAt (porterOf w.req.cell)).filter fun x => x.req.id != w.req.id)).waitvDone w.req
      (s.cell w.req.cell)) s
  (coreIds s).foldl (fun s core =>
    let ps := (s.core core).polls.filter fun p => lost p.1
    ps.foldl (fun s p =>
      (s.modCoreAt core fun k => { k with polls := k.polls.filter fun x => x.1.id != p.1.id }).waitvDone p.1 (s.cell p.1.cell)) s) s

/-! ## The porter interface (R40, R181) -/

/-- Whether a write or porter operation that the core issued before an entry has not performed (R181). -/
def State.releaseWaits (s : State) (core id : Nat) : Bool :=
  (s.core core).entriesBefore id || s.remoteBefore core id ||
  (match s.consistOf core with
   | some k => ((s.cons k).latches ++ (s.cons k).parked).any fun (l : Latch) => decide (l.core = core ∧ l.id < id) && l.eff.isWrite
   | none => false)

/-- Whether an entry may leave for its porter: not before earlier writes where it releases, and a blank not before the core's writes
into it (R85). An acquire entered earlier holds back reads of memory and no porter operation (R173, R181; log 23). -/
def portMayLeave (s : State) (core : Nat) (e : EngEntry) (r : PorterReq) (release : Bool) : Bool :=
  !(release && s.releaseWaits core e.id) &&
    !(r.op == .hxch && r.cap.counted && r.cap.kind == kBlank && s.writesOut core r.cap.key)

/-- Entries leave for their porters in order. One that nothing has delayed is there at issue + dc + 6 (R173). -/
def leavePorter (core : Nat) : List EngEntry → State → State
  | [], s => s
  | e :: es, s =>
    match e.op with
    | .porter r release =>
      if e.started then leavePorter core es s
      else if portMayLeave s core e r release then
        let (n, s) := if s.clk ≤ e.ready then (0, s) else s.delay
        let late := s.clk + s.dist (dieOf core) (dieOfPorter (porterOf r.cell)) + 4 + n
        let r := { r with at_ := if s.clk ≤ e.ready then r.at_ else max r.at_ late }
        let s := { s with stores := { s.stores with cellInbox := s.stores.cellInbox ++ [r] } }
        leavePorter core es (s.modCoreAt core fun k => k.setQueue qPorter ((k.queue qPorter).map fun x =>
          if x.id = e.id then { x with started := true } else x))
      else s
    | _ => leavePorter core es s

/-- Whether porter operations of a core may leave: a save waits for them (R197, R215). -/
def State.portOpen (s : State) (core : Nat) : Bool := !s.unitsStopped core && (s.die (dieOf core)).state == .run

/-- The porter interface of a core in each cycle. -/
def startPorter (s : State) (core : Nat) : State :=
  if s.portOpen core then leavePorter core ((s.core core).queue qPorter) s else s

/-- Whether an entry is about to leave for its porter. -/
def portLeaves (s : State) (core : Nat) : Bool :=
  s.portOpen core && (match ((s.core core).queue qPorter).find? fun e => !e.started && (match e.op with | .porter .. => true | _ => false) with
    | some e => (match e.op with | .porter r release => portMayLeave s core e r release | _ => false)
    | none => false)

/-- Cells lie in their porters' channels, so a refresh window keeps the requests that have reached them: a reply that it makes late holds
as a bank collision does (R20, R169, log 109). -/
def refreshCells (s : State) : State :=
  if !refreshOpen s.ptc then s
  else (s.stores.cellInbox.filter fun r => decide (r.at_ ≤ s.clk)).foldl (fun s r =>
    r.latches.foldl (fun s id => s.modLatch r.core id fun l => { l with cause := l.cause.map (· ||| causeBit 1) }) s) s

/-- What porters have due: a request, as an arrival or not, or a poll; nothing in a refresh window (R20). -/
def duePorter (s : State) : Option (Nat × Bool ⊕ Nat) :=
  let mine := s.stores.cellInbox
  if refreshOpen s.ptc then none
  else match mine.find? fun r => decide (r.at_ ≤ s.clk) &&
      ((mine.takeWhile fun x => x.id != r.id).all fun x => x.core != r.core || porterOf x.cell != porterOf r.cell) with
  | some r => some (.inl (porterOf r.cell, r.arrival.isSome))
  | none => ((coreIds s).find? fun core => (s.core core).polls.any fun p => decide (p.2.1 ≤ s.clk)).map .inr

/-! ## Words -/

/-- The cell a word names, formed and checked at issue (R173). -/
def cellOf (c : Cap) (cell : BitVec 32) (wide : Bool) : Act Nat := do
  let a := c.addr + 8 * cell.setWidth 64
  checkKind c [kPointer]
  checkPerm c pC
  checkSpace c [3]
  checkBounds c a.toNat (if wide then 16 else 8)
  let n := a.toNat / 8
  need (decide (a.toNat % 8 = 0) && decide (n < 640 * 2 ^ 22)) .capability 0 a
  need (!wide || decide (n % 2 = 0)) .capability 0 a
  pure n

/-- What a porter word brings to its request. -/
structure CellArgs where
  v  : Word64
  v2 : Word64
  w  : Word64
  w2 : Word64
  hc : Cap

/-- A porter word at issue (R171-R175, R181): `args` reads the other sources, `dst` sets up the results of a given latency. -/
def porterAct (h : BitVec 5) (cell : BitVec 32) (order : BitVec 2) (op : CellOp) (links : Nat) (args : Act CellArgs)
    (dst : Nat → Act (List Nat)) : Act Unit := do
  let c ← readH h
  let x ← args
  let n ← cellOf c cell op.wide
  match op with
  | .hxch => do
    need (!x.hc.tag || x.hc.isNull || x.hc.has pL) .capability 0 x.hc.addr
    if x.hc.tag then checkNear x.hc else pure ()
  | _ => pure ()
  let s ← get
  let dc := s.dP n
  let ids ← dst (2 * dc + 12)
  let s ← get
  let sq ← getSeq
  let r : PorterReq :=
    { id := s.nextId, core := s.cur.1, seq := s.cur.2, syll := BitVec.ofNat 25 sq.at_.pc, part := (s.core s.cur.1).part.getD 0
      op := op, cell := n, v := x.v, v2 := x.v2, w := x.w, w2 := x.w2, cap := (match op with | .hxch => x.hc | _ => c)
      links := links, arrival := none, latches := ids, entry := some s.nextId, at_ := s.clk + dc + 6 }
  let _ ← enter qPorter (.porter r (order.getLsbD 1)) [c] [] (popsOf [(h, c)]) none 0 none ids
  match order.getLsbD 0, ids with
  | true, id :: _ => modCore fun k => { k with gates := k.gates ++ [⟨id, none⟩] }
  | _, _ => pure ()

/-- Two scalar operands at most. -/
def cellArgs (b : Option (BitVec 6)) (c : Option (BitVec 6)) : Act CellArgs := do
  let v ← match b with | some b => readS b | none => pure 0
  let w ← match c with | some c => readS c | none => pure 0
  pure ⟨v, 0, w, 0, nullCap⟩

/-- One scalar result. -/
def cellDst (a : BitVec 6) (lat : Nat) : Act (List Nat) := do
  let id ← awaitS a lat 2
  pure [id]

def noDst (_ : Nat) : Act (List Nat) := pure []

/-- What a guarded-off porter word still does (R127, R379): a void is present when the result would have performed. -/
def skipCell (h : BitVec 5) (cell : BitVec 32) (roles : List Role) : Act Unit := do
  let s ← get
  let k ← getCore
  let q ← getSeq
  let c := if h = 31 then (match k.hq with | e :: _ => (match e.v with | .val c => c | _ => nullCap) | [] => nullCap)
    else Tbl.get nullCap q.h h.toNat
  skip (2 * s.dP ((c.addr + 8 * cell.setWidth 64).toNat / 8) + 12) (.hSrc h :: roles)

/-- PAMO of one operand and one result. -/
def pamo1 (g : Guard) (op : CellOp) (h : BitVec 5) (a b : BitVec 6) (order : BitVec 2) (cell : BitVec 32) (s : State) :
    Host.Outcome State Fault Refusal :=
  issueFall g (skipCell h cell [.sSrc b, .sDst a]) (porterAct h cell order op 0 (cellArgs (some b) none) (cellDst a)) s

/-- A porter word of one operand and no result. -/
def pamo0 (g : Guard) (op : CellOp) (h : BitVec 5) (b : BitVec 6) (order : BitVec 2) (cell : BitVec 32) (s : State) :
    Host.Outcome State Fault Refusal :=
  issueFall g (skipCell h cell [.sSrc b]) (porterAct h cell order op 0 (cellArgs (some b) none) noDst) s

def execPamoAdd (g : Guard) (h : BitVec 5) (a b : BitVec 6) (_ : BitVec 3) (order : BitVec 2) (cell : BitVec 32) (s : State) :
    Host.Outcome State Fault Refusal := pamo1 g .add h a b order cell s
def execPamoMin (g : Guard) (h : BitVec 5) (a b : BitVec 6) (_ : BitVec 3) (order : BitVec 2) (cell : BitVec 32) (s : State) :
    Host.Outcome State Fault Refusal := pamo1 g .min h a b order cell s
def execPamoMax (g : Guard) (h : BitVec 5) (a b : BitVec 6) (_ : BitVec 3) (order : BitVec 2) (cell : BitVec 32) (s : State) :
    Host.Outcome State Fault Refusal := pamo1 g .max h a b order cell s
def execPamoSwap (g : Guard) (h : BitVec 5) (a b : BitVec 6) (_ : BitVec 3) (order : BitVec 2) (cell : BitVec 32) (s : State) :
    Host.Outcome State Fault Refusal := pamo1 g .swap h a b order cell s
def execPamoEnq (g : Guard) (h : BitVec 5) (a b : BitVec 6) (_ : BitVec 3) (order : BitVec 2) (cell : BitVec 32) (s : State) :
    Host.Outcome State Fault Refusal := pamo1 g .enq h a b order cell s

def execPamoCas (g : Guard) (h : BitVec 5) (a b c : BitVec 6) (_ : BitVec 3) (order : BitVec 2) (cell : BitVec 32) (s : State) :
    Host.Outcome State Fault Refusal :=
  issueFall g (skipCell h cell [.sSrc b, .sSrc c, .sDst a])
    (porterAct h cell order .cas 0 (cellArgs (some b) (some c)) (cellDst a)) s

/-- CAS2: register pairs (R172). -/
def cas2Args (b c : BitVec 6) : Act CellArgs := do
  let v ← readS b
  let v2 ← readS (b + 1)
  let w ← readS c
  let w2 ← readS (c + 1)
  pure ⟨v, v2, w, w2, nullCap⟩

def cas2Dst (a : BitVec 6) (lat : Nat) : Act (List Nat) := do
  let i ← awaitS a lat 2
  let j ← awaitS (a + 1) lat 2
  pure [i, j]

def execPamoCas2 (g : Guard) (h : BitVec 5) (a b c : BitVec 6) (_ : BitVec 3) (order : BitVec 2) (cell : BitVec 32) (s : State) :
    Host.Outcome State Fault Refusal :=
  issueFall g (skipCell h cell []) (porterAct h cell order .cas2 0 (cas2Args b c) (cas2Dst a)) s

def execPamoChase (g : Guard) (h : BitVec 5) (a : BitVec 6) (_ : BitVec 3) (order : BitVec 2) (links : BitVec 3) (cell : BitVec 32)
    (s : State) : Host.Outcome State Fault Refusal :=
  issueFall g (skipCell h cell [.sDst a]) (porterAct h cell order .chase links.toNat (cellArgs none none) (cellDst a)) s

def execPamoRedAdd (g : Guard) (h : BitVec 5) (b : BitVec 6) (_ : BitVec 3) (order : BitVec 2) (cell : BitVec 32) (s : State) :
    Host.Outcome State Fault Refusal := pamo0 g .redAdd h b order cell s
def execPamoRedMin (g : Guard) (h : BitVec 5) (b : BitVec 6) (_ : BitVec 3) (order : BitVec 2) (cell : BitVec 32) (s : State) :
    Host.Outcome State Fault Refusal := pamo0 g .redMin h b order cell s
def execPamoRedMax (g : Guard) (h : BitVec 5) (b : BitVec 6) (_ : BitVec 3) (order : BitVec 2) (cell : BitVec 32) (s : State) :
    Host.Outcome State Fault Refusal := pamo0 g .redMax h b order cell s

/-- PAMO.HXCH pops hq and pushes it (R175). -/
def hxchArgs : Act CellArgs := do
  let c ← readH 31
  pure ⟨0, 0, 0, 0, c⟩

def hxchDst (lat : Nat) : Act (List Nat) := do
  let e ← dstH 31 nullCap
  let id ← await lat 2 e
  pure [id]

def execPamoHxch (g : Guard) (h : BitVec 5) (_ : BitVec 3) (order : BitVec 2) (cell : BitVec 32) (s : State) :
    Host.Outcome State Fault Refusal :=
  issueFall g (skipCell h cell [.hSrc 31, .hDst 31]) (porterAct h cell order .hxch 0 hxchArgs hxchDst) s

def execPldC (g : Guard) (h : BitVec 5) (a : BitVec 6) (_ : BitVec 3) (order : BitVec 2) (cell : BitVec 32) (s : State) :
    Host.Outcome State Fault Refusal :=
  issueFall g (skipCell h cell [.sDst a]) (porterAct h cell order .ld 0 (cellArgs none none) (cellDst a)) s

def execPstC (g : Guard) (h : BitVec 5) (b : BitVec 6) (_ : BitVec 3) (order : BitVec 2) (cell : BitVec 32) (s : State) :
    Host.Outcome State Fault Refusal := pamo0 g .st h b order cell s

def execBcntP (g : Guard) (h : BitVec 5) (b : BitVec 6) (_ : BitVec 3) (order : BitVec 2) (cell : BitVec 32) (s : State) :
    Host.Outcome State Fault Refusal := pamo0 g .bcnt h b order cell s

def execWaitvEq (g : Guard) (h : BitVec 5) (a b : BitVec 6) (_ : BitVec 3) (order : BitVec 2) (cell : BitVec 32) (s : State) :
    Host.Outcome State Fault Refusal := pamo1 g (.waitv 0 false) h a b order cell s
def execWaitvNe (g : Guard) (h : BitVec 5) (a b : BitVec 6) (_ : BitVec 3) (order : BitVec 2) (cell : BitVec 32) (s : State) :
    Host.Outcome State Fault Refusal := pamo1 g (.waitv 1 false) h a b order cell s
def execWaitvGe (g : Guard) (h : BitVec 5) (a b : BitVec 6) (_ : BitVec 3) (order : BitVec 2) (cell : BitVec 32) (s : State) :
    Host.Outcome State Fault Refusal := pamo1 g (.waitv 2 false) h a b order cell s
def execWaitvLt (g : Guard) (h : BitVec 5) (a b : BitVec 6) (_ : BitVec 3) (order : BitVec 2) (cell : BitVec 32) (s : State) :
    Host.Outcome State Fault Refusal := pamo1 g (.waitv 3 false) h a b order cell s
def execWaitvAny (g : Guard) (h : BitVec 5) (a b : BitVec 6) (_ : BitVec 3) (order : BitVec 2) (cell : BitVec 32) (s : State) :
    Host.Outcome State Fault Refusal := pamo1 g (.waitv 4 false) h a b order cell s
def execWaitvNone (g : Guard) (h : BitVec 5) (a b : BitVec 6) (_ : BitVec 3) (order : BitVec 2) (cell : BitVec 32) (s : State) :
    Host.Outcome State Fault Refusal := pamo1 g (.waitv 5 false) h a b order cell s

end Sys2Proof.Machine
end

