-- ==== Sys2Proof/Machine/Link.lean ====
section
/-! DEFINITION. The link engine: the words 0xB0 to 0xB4 (LSEND, LTAKE, LCAL, LMARK, LSTAT; R294-R299, R303, R359), calendars and the
times of berths (R286-R289), allowances (R290), and the link queue's entries. -/
namespace Sys2Proof.Machine
open Sys2Proof

/-! ## Slots and berths (R286-R289). Times are in 1/40 of a PTC cycle: 52 to the nanosecond. -/

/-- A slot: 2,048 ns. -/
def slotUnits : Nat := 106496
/-- DARK: 20,480 ns (R304). -/
def darkUnits : Nat := 1064960
/-- The start of berth b of a slot: 48 + 31.25 b ns. -/
def berthAt (slotAt b : Nat) : Nat := slotAt + 2496 + 1625 * b
/-- The PTC cycle at or after an instant (R285). -/
def ptcOf (u : Nat) : Nat := (u + 39) / 40

def Turntable.pending (t : Turntable) : Bool := t.state != .run

/-- The calendar that holds for a rotation, and its slot count (R289). -/
def Turntable.calFor (t : Turntable) (r : Nat) : Tbl (BitVec 16) × Nat :=
  if t.pending && decide (t.takeover ≤ r) then (t.shadow, t.shCount) else (t.cal, t.count)

def calEntry (cal : Tbl (BitVec 16)) (port slot : Nat) : BitVec 16 := Tbl.get 0 cal (16 * port + slot)
def entryValid (e : BitVec 16) : Bool := e.getLsbD 15
def entryPeer (e : BitVec 16) : Nat := (e.extractLsb' 0 6).toNat

/-- Whether a port's slot joins a package. -/
def joins (cal : Tbl (BitVec 16)) (port slot peer : Nat) : Bool :=
  entryValid (calEntry cal port slot) && entryPeer (calEntry cal port slot) == peer

/-- The lowest port whose calendar names the first hop in a slot (R289). -/
def firstPort (cal : Tbl (BitVec 16)) (slot hop : Nat) : Option Nat := (List.range 8).find? fun p => joins cal p slot hop

/-- The rotation that a 12-bit field names (R286). -/
def expandRot (c r : Nat) : Nat := c + (r + 4096 - c % 4096) % 4096

/-- The start of a slot of a rotation at or after the current one. -/
def Turntable.slotStart (t : Turntable) (r slot : Nat) : Nat :=
  let n := if t.pending then t.takeover else 0
  if t.pending && decide (n ≤ r) then
    let dark := if t.state = .dark then t.darkAt else t.slotAt + ((n - t.rot) * t.count - t.slot) * slotUnits
    dark + darkUnits + ((r - n) * t.shCount + slot) * slotUnits
  else t.slotAt + ((r - t.rot) * t.count + slot) * slotUnits - t.slot * slotUnits

/-- Whether a package is directly reachable in the active calendar (R287). -/
def Turntable.reaches (t : Turntable) (peer : Nat) : Bool :=
  (List.range 8).any fun p => (List.range t.count).any fun s => joins t.cal p s peer

/-- Whether service traffic to a peer fails (R301). -/
def State.unreachable (s : State) (peer : Nat) : Bool := (s.peer peer).dead || !s.tt.reaches peer

/-! ## Service items (R286, R293) -/

/-- A service item waits for a service flit. -/
def State.sendItem (s : State) (peer core : Nat) (item : ServiceItem) : State :=
  let o : OutItem := { id := s.nextId, peer := peer, seq := none, item := .inr item, cap := nullCap, core := core, rot := s.tt.rot }
  { s with nextId := s.nextId + 1, tt := { s.tt with items := s.tt.items ++ [o] } }

/-! ## LCAL (R303) -/

/-- A byte of an image. -/
def imgByte (bs : List Byte) (i : Nat) : Byte := bs.getD i 0

/-- Offsets at which an image breaks R303. -/
def imageBad (t : Turntable) (bs : List Byte) : List Nat :=
  let head := ((List.range 7).filter fun i => imgByte bs i != 0) ++
    (if (imgByte bs 7).extractLsb' 0 4 != 0 then [7] else [])
  let rot := if bytesAt bs 8 8 < t.rot + 2 then [8] else []
  let entries := (List.range 128).flatMap fun i =>
    let o := 16 + 2 * i
    let e := BitVec.ofNat 16 (bytesAt bs o 2)
    if e.extractLsb' 6 2 != 0 || (entryValid e && entryPeer e == t.pkg) then [o]
    else if e.extractLsb' 8 7 != 0 then [o + 1] else []
  head ++ rot ++ entries

/-- The offset an image is refused with; `none` where it is accepted. -/
def imageRefused (t : Turntable) (bs : List Byte) : Option Nat :=
  if t.state != .run then some 0 else (imageBad t bs).head?

/-- An accepted image becomes the shadow calendar (R303, R304). -/
def loadShadow (t : Turntable) (bs : List Byte) : Turntable :=
  { t with
    shadow := ((List.range 128).map fun i => (i, BitVec.ofNat 16 (bytesAt bs (16 + 2 * i) 2))).filter fun p => p.2 != 0
    shCount := ((imgByte bs 7).extractLsb' 4 4).toNat + 1, takeover := bytesAt bs 8 8, state := .armed }

/-- LCAL's entry: the image is accepted, or refused with a fault. -/
def lcalEntry (s : State) (core : Nat) (e : EngEntry) (addr : Nat) : State :=
  let a := privAt core addr
  let bs := s.mem.read a 272
  let f := { FaultRec.zero with core := core, seq := e.seq, syll := e.syll }
  match s.mem.firstPoison a 272, imageRefused s.tt bs with
  | some g, _ => (s.entryFault core e { f with cls := .poison, tinfo := BitVec.ofNat 64 (g - privAt core 0) } false).retireEntry core qLink e
  | none, some n => (s.entryFault core e { f with cls := .resource, tinfo := BitVec.ofNat 64 n } false).retireEntry core qLink e
  | none, none => { s with tt := loadShadow s.tt bs }.retireEntry core qLink e

/-- Whether the core's link queue holds an LCAL.W that is neither accepted nor refused: a later LSEND waits for it (R359, log 104). -/
def Core.calling (k : Core) : Bool := (k.queue qLink).any fun e => match e.op with | .lcal _ => true | _ => false

/-! ## LSEND of a message (R295) -/

/-- The fields of an LSEND (R113). -/
structure Dep where
  peer  : Nat
  relay : Nat
  rot   : Nat
  slot  : Nat
  berth : Nat

def depOf (peer relay : BitVec 6) (rot : BitVec 12) (slot : BitVec 4) (berth : BitVec 6) : Dep :=
  ⟨peer.toNat, relay.toNat, rot.toNat, slot.toNat, berth.toNat⟩

/-- A route register that holds what R294 lays down. -/
def routeOk (r : Word64) : Bool :=
  decide ((r.extractLsb' 0 8).toNat < 160) && r.extractLsb' 13 2 == 0 && r.extractLsb' 16 48 == 0

/-- Two checks of a berth-table entry (R288, R295). -/
def checkBerth (port slot berth : Nat) : Act Unit := do
  let s ← get
  let e := Tbl.get (0 : BitVec 16) s.tt.berths (1024 * port + 64 * slot + berth)
  need (e.getLsbD 15 && e.extractLsb' 8 2 == 0 && some (e.extractLsb' 10 5) == (s.core s.cur.1).part) .partition 0
    (Config.freeWord s.freeCtr)
  need (decide ((e.extractLsb' 0 8).toNat = s.cur.1)) .resource

def berthKey (rot port slot berth : Nat) : Nat := 8192 * rot + 1024 * port + 64 * slot + berth

/-- Data flits of a berth that earlier LSENDs left free. -/
def State.berthFree (s : State) (key : Nat) : Nat := 46 - Tbl.get 0 s.tt.filled key

/-- Takes f flits from berths on. -/
def takeFlits (t : Tbl Nat) : Nat → Nat → Nat → Tbl Nat
  | 0, _, _ => t
  | n + 1, key, f =>
    let used := Tbl.get 0 t key
    let k := min f (46 - used)
    takeFlits (if k = 0 then t else Tbl.set t key (used + k)) n (key + 1) (f - k)

/-- The checks of the path and of the berth; first-hop port and rotation. -/
def lsendPath (d : Dep) : Act (Nat × Nat) := do
  let s ← get
  if (s.core s.cur.1).calling then hold 3 else pure ()
  let r := expandRot s.tt.rot d.rot
  let (cal, count) := s.tt.calFor r
  need (decide (d.peer ≠ s.tt.pkg) && decide (d.relay ≠ s.tt.pkg) && decide (d.slot < count)) .resource
  match firstPort cal d.slot d.relay with
  | none => fault .resource
  | some port => do
    checkBerth port d.slot d.berth
    pure (port, r)

/-- The checks of the flits, and the allowances (R290): tinfo is the byte count. The result is the first flit's place in its
berth. -/
def lsendFlits (d : Dep) (port r f n : Nat) : Act Nat := do
  let nb := (f + 45) / 46
  let _ ← (List.range (min nb (64 - d.berth))).mapM fun i => checkBerth port d.slot (d.berth + i)
  need (decide (d.berth + nb ≤ 64)) .resource 0 (BitVec.ofNat 64 n)
  let relayed := d.relay != d.peer
  need (decide (f ≤ 1984) && !(relayed && decide (1024 < f))) .resource 0 (BitVec.ofNat 64 n)
  let s ← get
  let key := berthKey r port d.slot d.berth
  need (decide (f ≤ (List.range nb).foldl (fun m i => m + s.berthFree (key + i)) 0)) .schedule 0x04
  if (s.peer d.peer).arrival < f ∨ (relayed ∧ (s.peer d.relay).relay < f) then hold 3
  else modify fun s =>
    let s := s.setPeer d.peer { s.peer d.peer with arrival := (s.peer d.peer).arrival - f }
    let s := if relayed then s.setPeer d.relay { s.peer d.relay with relay := (s.peer d.relay).relay - f } else s
    { s with tt := { s.tt with filled := takeFlits s.tt.filled nb key f } }
  pure (46 - s.berthFree key)

/-- The message enters the link queue. -/
def lsendEnter (d : Dep) (port r f off : Nat) (route : Word64) (p : Payload) (src : Option (Cap × Nat)) (borrows popped : List Cap) :
    Act Unit := do
  let s ← get
  let m : Message :=
    { src := s.tt.pkg, dst := d.peer, core := s.cur.1, part := (s.core s.cur.1).part.getD 0, seq := 0, route := route, payload := p
      flits := f, relay := if d.relay = d.peer then none else some d.relay }
  let _ ← enter qLink (.lsend m port r d.slot d.berth off src) borrows [] popped none 0 none []

/-- LSEND.H. -/
def lsendHAct (h : BitVec 5) (c : BitVec 6) (d : Dep) : Act Unit := do
  let v ← readH h
  let route ← readS c
  need (routeOk route) .resource 0 route
  let (port, r) ← lsendPath d
  checkKind v [kPointer, kTile, kBlank]
  checkPerm v pG
  if v.counted then do
    checkPerm v pD
    checkSpace v [0, 6]
  else pure ()
  let off ← lsendFlits d port r 1 0
  if v.counted then nullH h 1 else pure ()
  lsendEnter d port r 1 off route (.handle v) none [] []

def execLsendH (g : Guard) (h : BitVec 5) (c peer relay : BitVec 6) (rot : BitVec 12) (slot : BitVec 4) (berth : BitVec 6) (s : State) :
    Host.Outcome State Fault Refusal :=
  issueFall g (skip 1 [.hSrc h, .sSrc c]) (lsendHAct h c (depOf peer relay rot slot berth)) s

/-- LSEND.D. -/
def lsendDAct (h : BitVec 5) (b c : BitVec 6) (d : Dep) : Act Unit := do
  let v ← readH h
  let n ← readS b
  let route ← readS c
  need (routeOk route) .resource 0 route
  let (port, r) ← lsendPath d
  checkKind v [kTile]
  checkPerm v pR
  checkPerm v pG
  checkSpace v [0, 1]
  need (decide (n.toNat % 256 = 0) && decide (256 ≤ n.toNat) && decide (n.toNat ≤ 2 ^ 20)) .resource
  let f := 1 + n.toNat / 256
  let off ← lsendFlits d port r f n.toNat
  lsendEnter d port r f off route (.data [] [] 0 0 0) (some (v, n.toNat)) [v] (popsOf [(h, v)])

def execLsendD (g : Guard) (h : BitVec 5) (b c peer relay : BitVec 6) (rot : BitVec 12) (slot : BitVec 4) (berth : BitVec 6)
    (s : State) : Host.Outcome State Fault Refusal :=
  issueFall g (skip 1 [.hSrc h, .sSrc b, .sSrc c]) (lsendDAct h b c (depOf peer relay rot slot berth)) s

/-- LSEND.V. -/
def lsendVAct (b c : BitVec 6) (d : Dep) : Act Unit := do
  let v ← readS b
  let route ← readS c
  need (routeOk route) .resource 0 route
  let (port, r) ← lsendPath d
  let off ← lsendFlits d port r 1 0
  lsendEnter d port r 1 off route (.value v) none [] []

def execLsendV (g : Guard) (b c peer relay : BitVec 6) (rot : BitVec 12) (slot : BitVec 4) (berth : BitVec 6) (s : State) :
    Host.Outcome State Fault Refusal :=
  issueFall g (skip 1 [.sSrc b, .sSrc c]) (lsendVAct b c (depOf peer relay rot slot berth)) s

/-! ## Remote forms (R299) -/

/-- The checks of a remote form's capability: R151 for 8 bytes, then R299. -/
def checkRemote (c : Cap) (perm : Nat) (peer : BitVec 6) : Act Unit := do
  checkKind c [kPointer]
  checkPerm c perm
  checkSpace c [6]
  checkBounds c c.addr.toNat 8
  need (c.addr.extractLsb' 58 6 == peer && c.addr.extractLsb' 52 5 == 0 && c.addr.extractLsb' 0 3 == 0) .capability 0 c.addr

/-- A remote form at issue: its result, where it has one, is due at issue + 572. -/
def remoteAct (kind : RemoteKind) (perm : Nat) (h : BitVec 5) (a b c : Option (BitVec 6)) (peer : BitVec 6) : Act Unit := do
  let p ← readH h
  let v ← match b with | some b => readS b | none => pure 0
  let w ← match c with | some c => readS c | none => pure 0
  checkRemote p perm peer
  let ids ← match a with
    | some a => do
      let id ← awaitS a 572 3
      pure [id]
    | none => pure []
  let _ ← enter qLink (.remote kind peer.toNat p v w) [p] [] (popsOf [(h, p)]) none 0 none ids

def execLsendRld (g : Guard) (h : BitVec 5) (a peer relay : BitVec 6) (s : State) : Host.Outcome State Fault Refusal :=
  let _ := relay
  issueFall g (skip 572 [.hSrc h, .sDst a]) (remoteAct .rld pR h (some a) none none peer) s

def execLsendRst (g : Guard) (h : BitVec 5) (b peer relay : BitVec 6) (s : State) : Host.Outcome State Fault Refusal :=
  let _ := relay
  issueFall g (skip 1 [.hSrc h, .sSrc b]) (remoteAct .rst pW h none (some b) none peer) s

def execLsendRadd (g : Guard) (h : BitVec 5) (a b peer relay : BitVec 6) (s : State) : Host.Outcome State Fault Refusal :=
  let _ := relay
  issueFall g (skip 572 [.hSrc h, .sSrc b, .sDst a]) (remoteAct .radd pC h (some a) (some b) none peer) s

def execLsendRcas (g : Guard) (h : BitVec 5) (a b c peer relay : BitVec 6) (s : State) : Host.Outcome State Fault Refusal :=
  let _ := relay
  issueFall g (skip 572 [.hSrc h, .sSrc b, .sSrc c, .sDst a]) (remoteAct .rcas pC h (some a) (some b) (some c) peer) s

/-! ## LTAKE, LCAL, LMARK, LSTAT -/

/-- A request goes to the H-die, where it is at issue + dH + 4. -/
def askH (op : HOp) (latches : List Nat) : Act Unit := do
  let s ← get
  modCore fun k => { k with hReqs := k.hReqs ++ [⟨op, latches, s.clk + s.dist cDie hDie + 4⟩] }

/-- The latency of what the H-die answers (R283, R296, R298). -/
def hLatency : Act Nat := do
  let s ← get
  pure (2 * s.dist cDie hDie + 8)

/-- LTAKE (R296). -/
def ltakeAct (h : BitVec 5) (a : BitVec 6) (wait : Bool) : Act Unit := do
  let lat ← hLatency
  let i ← awaitS a lat 3
  let j ← awaitS (a + 1) lat 3
  let e ← dstH h nullCap
  let k ← await lat 3 e
  askH (.ltake wait) [i, j, k]

/-- What a guarded-off LTAKE leaves (R359). -/
def skipH (roles : List Role) : Act Unit := do
  let lat ← hLatency
  skip lat roles

def execLtakeM (g : Guard) (h : BitVec 5) (a : BitVec 6) (s : State) : Host.Outcome State Fault Refusal :=
  issueFall g (skipH [.hDst h]) (ltakeAct h a true) s

def execLtakeP (g : Guard) (h : BitVec 5) (a : BitVec 6) (s : State) : Host.Outcome State Fault Refusal :=
  issueFall g (skipH [.hDst h]) (ltakeAct h a false) s

/-- LCAL.W (R303). -/
def lcalAct (h : BitVec 5) (b : BitVec 6) : Act Unit := do
  let c ← readH h
  let a ← readS b
  checkOwn c
  checkPerm c pP
  need (decide (a.toNat % 8 = 0) && decide (a.toNat + 272 ≤ 0x100000)) .capability 0 a
  let _ ← enter qLink (.lcal a.toNat) [c] [] (popsOf [(h, c)]) none 0 none []

def execLcalW (g : Guard) (h : BitVec 5) (b : BitVec 6) (s : State) : Host.Outcome State Fault Refusal :=
  issueFall g (skip 1 [.hSrc h, .sSrc b]) (lcalAct h b) s

/-- LMARK.D (R303). -/
def lmarkAct (b : BitVec 6) : Act Unit := do
  let v ← readS b
  let _ ← enter qLink (.lmark (v.setWidth 6)) [] [] [] none 0 none []

def execLmarkD (g : Guard) (b : BitVec 6) (s : State) : Host.Outcome State Fault Refusal :=
  issueFall g (skip 1 [.sSrc b]) (lmarkAct b) s

def TtState.code : TtState → Nat
  | .run => 0
  | .armed => 1
  | .draining => 2
  | .dark => 3

/-- The item an LSTAT selects (R298). -/
def State.lstat (s : State) (sel : Nat) : Option Word64 :=
  let t := s.tt
  let sat := fun n => min n (2 ^ 32 - 1)
  if sel = 0 then some (BitVec.ofNat 64 t.rot)
  else if sel = 1 then some (BitVec.ofNat 4 t.slot ++ BitVec.ofNat 60 (ptcOf t.slotAt))
  else if sel = 2 then some (BitVec.ofNat 64 (t.takeover % 2 ^ 32 * 2 ^ 32 + (if t.drained then 8 else 0) + t.state.code))
  else if sel = 3 then some (BitVec.ofNat 64 (t.downs * 2 ^ 32 + sat t.late))
  else if sel / 256 = 1 ∧ sel % 256 < 64 then some (BitVec.ofNat 64 (s.peer (sel % 256)).arrival)
  else if sel / 256 = 2 ∧ sel % 256 < 64 then some (BitVec.ofNat 64 (s.peer (sel % 256)).relay)
  else if sel / 256 = 3 ∧ sel % 256 < 8 then
    let p := sel % 256
    some (BitVec.ofNat 64 (Tbl.get 0 t.downCnt p * 2 ^ 32 + (if t.relock.getLsbD p then 2 else 0) + (if t.lit.getLsbD p then 1 else 0)))
  else none

/-- LSTAT.RD (R298). -/
def lstatAct (a b : BitVec 6) : Act Unit := do
  let v ← readS b
  let s ← get
  need (s.lstat v.toNat).isSome .resource 0 v
  let lat ← hLatency
  let id ← awaitS a lat 3
  askH (.lstat v.toNat) [id]

def execLstatRd (g : Guard) (a b : BitVec 6) (s : State) : Host.Outcome State Fault Refusal :=
  issueFall g (skipH [.sSrc b, .sDst a]) (lstatAct a b) s

/-! ## The link queue's entries -/

/-- Flits of this package's own half of the transfer siding: 16 MiB (R18, R290). -/
def sidingFlits : Nat := 65536

/-- Flits of it in use: messages in staging, sent and unacknowledged, or waiting to be returned, and items, four to a flit
(R286, R290). -/
def Turntable.sidingUsed (t : Turntable) : Nat :=
  (t.staged.map fun m => m.msg.flits).sum + (t.returns.map fun r => r.1.flits).sum + (t.items.length + 3) / 4

/-- A message is wholly in the transfer siding: it is late where its first berth is less than 512 PTC cycles away (R295). -/
def State.stage (s : State) (core : Nat) (e : EngEntry) (m : Message) (port rot slot berth off : Nat) (keep : Bool) : State :=
  let late := decide (rot < s.tt.rot) || decide (ptcOf (berthAt (s.tt.slotStart rot slot) berth) < s.ptc + 512)
  let st : Staged :=
    { id := e.id, msg := m, syll := e.syll, port := port, rot := rot, slot := slot, berth := berth, off := off, hop := m.relay.getD m.dst
      whole := s.ptc, sent := none, late := late, entry := if keep then some e.id else none }
  let s := { s with tt := { s.tt with staged := s.tt.staged ++ [st] } }
  if keep then s.modCoreAt core fun k => k.modEntry qLink e.id fun e => { e with op := .staged }
  else s.retireEntry core qLink e

/-- Poisoned granules of bytes read in parts, counted from the first (R87). -/
def partsGranules (s : State) (ps : List Part) : List Nat :=
  ((placesOf ps).zip (List.range (placesOf ps).length)).filterMap fun p =>
    if p.2 % 16 = 0 ∧ s.mem.poisoned p.1 then some (p.2 / 16) else none

/-- LSEND.D reads its tile (R295). -/
def lsendRead (x : EngCtx) (c : Cap) (n : Nat) (m : Message) : Eng Message := do
  let s ← get
  let e := s.tileEntry c.key
  if s.handleBytes c ≠ n then x.raise .resource
  else do
    let ps ← engRange x c.space c.addr.toNat n false
    let s ← get
    pure { m with payload := .data (s.readParts ps) (partsGranules s ps) e.fmt e.rows e.cols }

/-- The link engine's entry for a message: it waits for writes into the blank that it sends, and for room in the siding. -/
def lsendEntry (s : State) (core : Nat) (e : EngEntry) (m : Message) (port rot slot berth off : Nat) (src : Option (Cap × Nat)) :
    State :=
  let wait := match m.payload with
    | .handle c => c.counted && c.kind == kBlank && s.writesOut core c.key
    | _ => false
  if wait || decide (sidingFlits < s.tt.sidingUsed + m.flits) then s.modCoreAt core fun k => k.modEntry qLink e.id fun e => { e with done := s.clk + 1 }
  else match src with
    | none => s.stage core e m port rot slot berth off false
    | some (c, n) =>
      match (lsendRead (EngCtx.ofEntry core qLink e (some 2)) c n m).run.run s with
      | (.ok m', s') => s'.stage core e m' port rot slot berth off true
      | (.error x, s') => s'.stopEntry core qLink e x

/-- The issuing core's sticky bit of an unreachable peer (R301, R302). -/
def State.markPeer (s : State) (core peer : Nat) : State :=
  s.modCoreAt core fun k => { k with pkgBits := k.pkgBits ||| (1#64 <<< peer) }

/-- A remote operation leaves, or fails at once where its peer is unreachable (R299, R301). -/
def remoteEntry (s : State) (core : Nat) (e : EngEntry) (kind : RemoteKind) (peer : Nat) (c : Cap) (v w : Word64) : State :=
  let s := s.retireEntry core qLink e
  if s.unreachable peer && s.tt.state != .dark then
    (e.latches.foldl (fun s id => s.modLatch core id fun l => { l with eff := l.eff.withWord 0, back := some s.clk }) s).markPeer core peer
  else
    let id := e.latches.headD e.id
    let r : RemoteReq :=
      { src := s.tt.pkg, core := core, syll := e.syll, id := id, seq := 0, part := (s.core core).part.getD 0, kind := kind
        addr := c.addr, v := v, w := w }
    let o : OutItem := { id := id, peer := peer, seq := none, item := .inl r, cap := nullCap, core := core, rot := s.tt.rot, ptc := e.ptc }
    let s := { s with tt := { s.tt with items := s.tt.items ++ [o] } }
    if e.latches.isEmpty then s else s.modCoreAt core fun k => { k with remoteOut := k.remoteOut ++ [(id, peer)] }

/-- Peers of the active calendar. -/
def Turntable.peerList (t : Turntable) : List Nat := (List.range 64).filter fun p => p != t.pkg && t.reaches p

/-- Every drain marker is back (R303). -/
def State.drainDone (s : State) : State :=
  if s.tt.peers.any fun p => p.2.markerOut then s
  else
    let s := match s.tt.drainTok with | some (core, t) => s.signalTok core t | none => s
    { s with tt := { s.tt with drained := true, drainTok := none } }

/-- LMARK.D's entry (R303, R304): with no peer in the active calendar, every marker is back at once. -/
def lmarkEntry (s : State) (core : Nat) (e : EngEntry) (token : BitVec 6) : State :=
  let s := s.retireEntry core qLink e
  let s := s.tt.peerList.foldl (fun s p => (s.setPeer p { s.peer p with markerOut := true }).sendItem p 160 .marker) s
  State.drainDone { s with tt := { s.tt with
      drained := false, drainTok := if token.getLsbD 5 then some (core, token.setWidth 5) else none
      state := if s.tt.state = .armed then .draining else s.tt.state } }

/-- The link engine runs an entry that has reached its time. -/
def linkComplete (s : State) (core : Nat) (e : EngEntry) : State :=
  match e.op with
  | .lsend m port rot slot berth off src => lsendEntry s core e m port rot slot berth off src
  | .remote kind peer c v w => remoteEntry s core e kind peer c v w
  | .lcal a => lcalEntry s core e a
  | .lmark t => lmarkEntry s core e t
  | _ => s

/-- The entry that a core's link engine works on: those whose message is in the transfer siding are behind it. -/
def Core.linkHead (k : Core) : Option EngEntry := (k.queue qLink).find? fun e => e.op != .staged

/-- Starts the link engine's next entry. -/
def startLink (s : State) (core : Nat) : State :=
  match (s.core core).linkHead with
  | some e => match e.op with
    | .mark _ => s
    | _ => if s.mayStart core e then s.startEntry core qLink e.id else s
  | none => s

end Sys2Proof.Machine
end

