-- ==== Sys2Proof/Machine/Turntable.lean ====
section
/-! DEFINITION. The H-die's side of the Turntable: what arrives (R292-R297, R299, R300), departures and relays (R289, R291, R293),
unreachable peers (R301, R302), the calendar's change (R303, R304), LTAKE's and LSTAT's requests (R296, R298); and the events
SLOT_OCCURRENCE, LATE_RETURN, MESSAGE_ARRIVAL, SERVICE_ITEM_ARRIVAL, REMOTE_OPERATION, FREEZE_NOTICE, PEER_UNREACHABLE,
SEQUENCE_EXCHANGE_TIMEOUT, DRAIN_MARKER, CALENDAR_DARK, CALENDAR_TAKEOVER, BERTH_TABLE_WRITE. -/
namespace Sys2Proof.Machine
open Sys2Proof

/-- No core: an item that no core's FENCE waits for. -/
def noCore : Nat := 160

def State.modTt (s : State) (f : Turntable → Turntable) : State := { s with tt := f s.tt }
def State.modPeer (s : State) (p : Nat) (f : Peer → Peer) : State := s.setPeer p (f (s.peer p))

/-! ## Messages that come back (R297) -/

/-- A message's entry of the link queue retires, and its borrow ends (R295). -/
def State.retireStaged (s : State) (m : Staged) : State :=
  match m.entry.bind fun id => ((s.core m.msg.core).queue qLink).find? fun e => e.id == id with
  | some e => s.retireEntry m.msg.core qLink e
  | none => s

/-- The allowances a message took are credited back; that of a relay only where the relay has not got it (R297). -/
def State.creditBack (s : State) (m : Message) (relay : Bool) : State :=
  let s := s.modPeer m.dst fun p => { p with arrival := p.arrival + m.flits }
  match m.relay, relay with
  | some r, true => s.modPeer r fun p => { p with relay := p.relay + m.flits }
  | _, _ => s

/-- A message in the transfer siding is returned to its core. -/
def State.giveBack (s : State) (m : Staged) (late : Bool) : State :=
  let s := s.modTt fun t => { t with
    staged := t.staged.filter fun x => x.id != m.id, returns := t.returns ++ [(m.msg, late)] }
  (s.creditBack m.msg m.sent.isNone).retireStaged m

/-- LATE_RETURN (R295): the message does not depart. -/
def lateReturn (s : State) (id : Nat) : State :=
  match s.tt.staged.find? fun m => m.id == id && m.sent.isNone with
  | some m => (s.modTt fun t => { t with late := t.late + 1 }).giveBack m true
  | none => s

def execLateReturn (id : Nat) (s : State) : Host.Outcome State Fault Refusal := .next (lateReturn s id)

/-- The returned message at the head enters its core's arrival queue when the return reserve has room. -/
def returnOne (s : State) : State :=
  match s.tt.returns with
  | (m, late) :: rest =>
    if m.flits ≤ s.tt.reserve then
      (s.modTt fun t => { t with returns := rest, reserve := t.reserve - m.flits }).modCoreAt m.core fun k =>
        { k with arrivals := k.arrivals ++ [⟨m, true, late⟩] }
    else s
  | [] => s

/-! ## Operations to an unreachable peer (R301) -/

/-- The core whose word waits for a latch. -/
def State.latchCore (s : State) (id : Nat) : Option Nat :=
  s.consists.findSome? fun p => ((p.2.latches ++ p.2.parked).find? fun l => l.id == id).map Latch.core

/-- A remote read returns 0, and its core's bit of the peer is set. -/
def State.failRead (s : State) (core id peer : Nat) : State :=
  ((s.modLatch core id fun l => { l with eff := l.eff.withWord 0, back := some s.clk }).modCoreAt core fun k =>
    { k with remoteOut := k.remoteOut.filter fun x => x.1 != id }).markPeer core peer

/-- A uniqueness query that a peer does not answer returns 0, as a remote read does (log 105). -/
def State.failQuery (s : State) (core id peer : Nat) : State :=
  (s.modTt fun t => { t with queries := t.queries.filter fun q => q.1 != id }).failRead core id peer

/-- An item that no peer will answer. -/
def State.failItem (s : State) (o : OutItem) : State :=
  match o.item with
  | .inl r => match r.kind with
    | .rst => s.markPeer o.core o.peer
    | _ => s.failRead o.core o.id o.peer
  | .inr (.weight ..) =>
    let m : Message :=
      { src := s.tt.pkg, dst := o.peer, core := o.core, part := o.cap.part, seq := 0, route := 0, payload := .handle o.cap, flits := 1
        relay := none }
    (s.modTt fun t => { t with returns := t.returns ++ [(m, false)] }).markPeer o.core o.peer
  | .inr (.extend _ _ id) => (s.answer id s.clk .xgFull).markPeer o.core o.peer
  | .inr (.query _ _ id) => s.failQuery o.core id o.peer
  | _ => s

/-- Items of a peer fail: those that `fails` says. -/
def State.failItems (s : State) (fails : OutItem → Bool) : State :=
  let bad := s.tt.items.filter fails
  bad.foldl State.failItem (s.modTt fun t => { t with items := t.items.filter fun o => !fails o })

/-- Messages that are returned because their peer is unreachable. -/
def State.returnWhere (s : State) (back : Staged → Bool) : State :=
  (s.tt.staged.filter back).foldl (fun s m => (s.giveBack m false).markPeer m.msg.core m.msg.dst) s

/-- Messages whose number the peer has acknowledged count as delivered (R293). -/
def State.ackPeer (s : State) (peer n : Nat) : State :=
  let p := s.peer peer
  if n ≤ p.acked then s
  else
    let done := s.tt.staged.filter fun m => m.msg.dst == peer && m.sent.isSome && decide (m.msg.seq < n)
    let s := (s.setPeer peer { p with acked := n }).modTt fun t => { t with
      staged := t.staged.filter fun m => !(m.msg.dst == peer && m.sent.isSome && decide (m.msg.seq < n))
      items := t.items.filter fun o => !(o.peer == peer && (match o.seq with | some q => decide (q < n) | none => false)) }
    done.foldl (fun s m => s.retireStaged m) s

/-- Extensions of a core that are out to a peer: their requests' numbers (R74, R295). -/
def Core.extending (k : Core) (peer : Nat) : List Nat :=
  k.walks.filterMap fun w => match w.for_ with
    | .extension id (.inr c) => if w.ends.isSome && c.addr.toNat / 2 ^ 58 == peer then some id else none
    | _ => none

/-- What a peer was asked and will not answer fails, but for what has not left yet: remote reads, uniqueness queries and extensions
(R301, R295). -/
def State.failAsked (s : State) (peer : Nat) : State :=
  let sent := fun (id : Nat) => !s.tt.items.any fun o => o.id == id && o.peer == peer
  let s := (coreIds s).foldl (fun s c =>
    let s := ((s.core c).remoteOut.filter fun r => r.2 == peer && sent r.1).foldl (fun s r => s.failRead c r.1 peer) s
    (((s.core c).extending peer).filter sent).foldl (fun s id => (s.answer id s.clk .xgFull).markPeer c peer) s) s
  (s.tt.queries.filter fun q => q.2 == peer && sent q.1).foldl (fun s q =>
    match s.latchCore q.1 with
    | some c => s.failQuery c q.1 peer
    | none => s.modTt fun t => { t with queries := t.queries.filter fun x => x.1 != q.1 }) s

/-- The room that a held message took of its source's relay allowance is free again (R290, R293). -/
def State.freeRelay (s : State) (m : Staged) : State := s.modPeer m.msg.src fun p => { p with relGiven := p.relGiven + m.msg.flits }

/-- The relay's siding state of a peer is discarded: what it sent, and the copies of what was forwarded to it (R301). -/
def State.dropRelays (s : State) (peer : Nat) : State :=
  let held := s.tt.relays.filter fun m => m.msg.src == peer && m.sent.isNone
  (held.foldl State.freeRelay s).modTt fun t => { t with
    relays := t.relays.filter fun m => m.msg.src != peer && (m.sent.isNone || m.msg.dst != peer)
    relayed := t.relayed.filter fun r => r.1 != peer && r.2.1 != peer }

/-- The exchange has settled: the peer has accepted every number below n (R301). What was sent beyond is returned or fails, and the
sequence goes on from n; what waits ahead of a missing number from the peer, and what is held of it for relay, is discarded. -/
def State.settle (s : State) (peer n : Nat) : State :=
  let s := s.ackPeer peer n
  let s := s.returnWhere fun m => m.msg.dst == peer && m.sent.isSome
  let s := ((s.failItems fun o => o.peer == peer && o.seq.isSome).failAsked peer).dropRelays peer
  s.modPeer peer fun p => { p with outSeq := max n p.acked, exchange := none, waiting := [] }

/-- A peer becomes unreachable: the two H-dies begin to exchange their highest accepted numbers. -/
def State.loseReach (s : State) (peer : Nat) : State :=
  s.modPeer peer fun p => { p with dead := true, exchange := some s.ptc }

/-- PEER_UNREACHABLE: a peer becomes unreachable, or brings the number below which it has accepted everything. -/
def execPeerUnreachable (peer : BitVec 6) (accepted : Option Nat) (s : State) : Host.Outcome State Fault Refusal :=
  .next (match accepted with
    | none => s.loseReach peer.toNat
    | some n => if (s.peer peer.toNat).exchange.isSome then s.settle peer.toNat n else s)

/-- SEQUENCE_EXCHANGE_TIMEOUT: every unacknowledged message is returned. -/
def execSequenceExchangeTimeout (peer : BitVec 6) (s : State) : Host.Outcome State Fault Refusal :=
  .next (if (s.peer peer.toNat).exchange.isSome then s.settle peer.toNat (s.peer peer.toNat).acked else s)

/-! ## Remote operations (R299, R300) -/

/-- The cell or the HBM physical address a remote operation reaches; otherwise whether it is the grant that does not hold it. -/
def remoteTarget (s : State) (r : RemoteReq) : Except Bool (Nat ⊕ Nat) :=
  if r.addr.getLsbD 57 then
    let n := (r.addr.extractLsb' 3 32).toNat
    if n < 640 * 2 ^ 22 ∧ s.cellGranted r.part n then .ok (.inl n) else .error true
  else
    let va := (r.addr.extractLsb' 0 52).toNat
    match s.walk r.part va with
    | .leaf log2 pa rd wr _ _ =>
      let may := match r.kind with | .rld => rd | .rst => wr | _ => rd && wr
      if !may then .error false
      else if s.granted r.part (pa + va % 2 ^ log2) 8 then .ok (.inr (s.forward (pa + va % 2 ^ log2)))
      else .error true
    | .absent _ => .error false
    | .malformed => .error true

/-- What a remote operation writes, the old value given. -/
def remoteWrites (r : RemoteReq) (old : Word64) : Option Word64 :=
  match r.kind with
  | .rld => none
  | .rst => some r.v
  | .radd => some (old + r.v)
  | .rcas => if old = r.v then some r.w else none

/-- The dirty bit of the page of a write (R167). -/
def State.dirtyPage (s : State) (part : BitVec 5) (va : Nat) : State :=
  match s.walk part va with
  | .leaf _ _ _ _ false entry => (s.casDirty entry (s.pte entry)).getD s
  | _ => s

/-- A write of a remote operation performs. -/
def remotePut (s : State) (r : RemoteReq) (v : Word64) : Nat ⊕ Nat → State
  | .inl n => s.putCells [(n, v)]
  | .inr pa =>
    let s := s.dirtyPage r.part (r.addr.extractLsb' 0 52).toNat
    { s with mem := s.mem.write (hbmAt pa) (toBytes 8 v.toNat) }

/-- The value at a remote operation's target, and whether its granule is poisoned. -/
def remoteOld (s : State) : Nat ⊕ Nat → Word64 × Bool
  | .inl n => (s.cell n, s.cellPoisoned n)
  | .inr pa => (BitVec.ofNat 64 (leNat (s.hbmRead pa 8)), s.mem.poisoned (hbmAt pa))

/-- The permission a remote form asks for (R294). -/
def remotePerm : RemoteKind → Nat
  | .rld => pR
  | .rst => pW
  | _ => pC

/-- A remote operation performs at this package's porter (R299), or it is a violation there: logged, and a freeze notice goes back
(R300). A poisoned granule is not written, and the value that goes back is free. -/
def remotePerform (s : State) (r : RemoteReq) : State :=
  match remoteTarget s r with
  | .error grant =>
    (s.modTt fun t => { t with refused := t.refused ++ [⟨r.src, r.core, r.addr, remotePerm r.kind⟩] }).sendItem r.src noCore
      (.notice ⟨r.core, r.syll, r.addr, grant⟩)
  | .ok t =>
    let (old, bad) := remoteOld s t
    let reply := fun (s : State) (v : Word64) => match r.kind with
      | .rst => s
      | _ => s.sendItem r.src noCore (.reply r.id v)
    if bad && r.kind != .rst then reply { s with freeCtr := s.freeCtr + 1 } (Config.freeWord s.freeCtr)
    else match remoteWrites r old with
      | some v => reply (remotePut s r v t) old
      | none => reply s old

/-! ## What arrives under a number (R292) -/

/-- A counted handle as it arrives at this package (R295): of space 6 with its home in bits 63:58, of space 0 at its home. -/
def State.arrivedCap (s : State) (src : Nat) (c : Cap) : Cap :=
  let put := fun (space : BitVec 4) (a : Word64) => (⟨c.tag, space ++ c.bits.extractLsb' 64 60 ++ a⟩ : Cap)
  if !c.counted then c
  else if c.space = 0 then put 6 (BitVec.ofNat 6 src ++ c.addr.extractLsb' 0 58)
  else if c.space = 6 ∧ c.addr.toNat / 2 ^ 58 = s.tt.pkg then put 0 ((c.addr.extractLsb' 0 52).setWidth 64)
  else c

def State.arrivedPayload (s : State) (src : Nat) : Payload → Payload
  | .handle c => .handle (s.arrivedCap src c)
  | p => p

/-- A message is handed to the core its route names, or is returned where that core does not belong to its partition (R296). -/
def messageIn (s : State) (m : Message) : State :=
  let core := (m.route.extractLsb' 0 8).toNat
  if core < 160 ∧ (s.core core).part = some m.part then
    let s := s.modCoreAt core fun k =>
      { k with arrivals := k.arrivals ++ [⟨{ m with payload := s.arrivedPayload m.src m.payload }, false, false⟩] }
    if m.route.getLsbD 15 then s.signalTok core (m.route.extractLsb' 8 5) else s
  else s.sendItem m.src noCore (.returned m)

/-- The number that a scalar effect holds. -/
def Effect.word : Effect → Word64
  | .setS _ v => v
  | .fill _ _ (.val v) => v
  | _ => 0

/-- This package's marker is back from a peer. -/
def State.markerIn (s : State) (peer : Nat) : State :=
  if (s.peer peer).markerOut then (s.modPeer peer fun p => { p with markerOut := false }).drainDone else s

/-- A freeze notice freezes the issuing master (R219, R300). -/
def State.noticeIn (s : State) (n : Notice) : State :=
  match s.consistOf n.core with
  | some k =>
    if (s.core n.core).frozen.isSome then s
    else freeze s k { FaultRec.zero with
      cls := if n.grant then .partition else .capability, tinfo := n.addr, core := n.core, syll := n.syll }
  | none => s

/-- A service item. -/
def itemIn (s : State) (peer : Nat) : ServiceItem → State
  | .ackOnly => s
  | .reply id v =>
    match (coreIds s).find? fun c => (s.core c).remoteOut.any fun r => r.1 == id with
    | some c =>
      (s.modLatch c id fun l => { l with eff := l.eff.withWord v, back := some (s.clk + s.dist cDie hDie) }).modCoreAt c fun k =>
        { k with remoteOut := k.remoteOut.filter fun r => r.1 != id }
    | none => s
  | .extended id xg => s.answer id (s.clk + s.dist cDie hDie) (.extended xg)
  | .refused id => s.answer id (s.clk + s.dist cDie hDie) .xgFull
  | .unique id total =>
    let s := s.modTt fun t => { t with queries := t.queries.filter fun q => q.1 != id }
    match s.latchCore id with
    | some c => s.modLatch c id fun l => { l with
        eff := l.eff.withWord (boolWord (decide (total = l.eff.word.toNat))), back := some (s.clk + s.dist cDie hDie) }
    | none => s
  | .weight part base w => returnWeight s (dirKey 0 part (BitVec.ofNat 64 base)) w
  | .extend part base id =>
    match extendEntry s (dirKey 0 part (BitVec.ofNat 64 base)) with
    | (s, .extended xg) => s.sendItem peer noCore (.extended id xg)
    | (s, _) => s.sendItem peer noCore (.refused id)
  | .query part base id => s.sendItem peer noCore (.unique id (s.dirEntry (dirKey 0 part (BitVec.ofNat 64 base))).total)
  | .toBlank part base => blankEntry s (dirKey 0 part (BitVec.ofNat 64 base))
  | .hopAck .. => s
  | .marker => s.modPeer peer fun p => { p with markerOwed := true }
  | .markerBack => s.markerIn peer
  | .returned m => (s.creditBack m false).modTt fun t => { t with returns := t.returns ++ [(m, false)] }
  | .notice n => s.noticeIn n

def handOn (s : State) (peer : Nat) : Inbound → State
  | .message m => messageIn s m
  | .item i => itemIn s peer i
  | .remote r => remotePerform s r

/-- Everything that follows in sequence is handed on. -/
def drainIn (peer : Nat) : Nat → State → State
  | 0, s => s
  | n + 1, s =>
    let p := s.peer peer
    match p.waiting.find? fun w => w.1 == p.inSeq with
    | some w =>
      drainIn peer n (handOn (s.setPeer peer { p with inSeq := p.inSeq + 1, waiting := p.waiting.filter fun x => x.1 != p.inSeq }) peer w.2)
    | none => s

/-- A numbered message or item of a peer (R292): a number already accepted is discarded, one ahead of a missing number waits. -/
def accept (s : State) (peer seq : Nat) (i : Inbound) : State :=
  let p := s.peer peer
  if seq < p.inSeq ∨ p.waiting.any (fun w => w.1 == seq) then s
  else drainIn peer (p.waiting.length + 1) (s.setPeer peer { p with waiting := p.waiting ++ [(seq, i)] })

/-- The hop of a relayed message is acknowledged to the package it came from (R293). -/
def State.ackHop (s : State) (peer : Nat) (m : Message) : State := s.sendItem peer noCore (.hopAck m.src m.dst m.seq)

/-- Whether the relay has had a message already: it holds it, or its destination has acknowledged it. -/
def Turntable.hasRelayed (t : Turntable) (m : Message) : Bool :=
  t.relayed.contains (m.src, m.dst, m.seq) || t.relays.any fun x => x.msg.src == m.src && x.msg.dst == m.dst && x.msg.seq == m.seq

/-- MESSAGE_ARRIVAL: for this package, or to be relayed (R289, R291, R293). A relay keeps no second copy of what is sent again. -/
def messageArrival (s : State) (m : Message) : State :=
  if m.dst = s.tt.pkg then
    let s := accept s m.src m.seq (.message m)
    match m.relay with | some r => s.ackHop r m | none => s
  else if s.tt.hasRelayed m then s.ackHop m.src m
  else
    let st : Staged :=
      { id := s.nextId, msg := m, syll := 0, port := 0, rot := s.tt.rot, slot := 0, berth := 0, off := 0, hop := m.dst, whole := s.ptc
        sent := none, late := false, entry := none }
    ({ s with nextId := s.nextId + 1 }.modTt fun t => { t with relays := t.relays ++ [st] }).ackHop m.src m

/-- A hop is acknowledged: at the relay, the destination has the message, and the copy goes; at the source, the relay has it, and the
copy stays until the destination's acknowledgement covers it (R293). -/
def hopAckIn (s : State) (src dst seq : Nat) : State :=
  if src = s.tt.pkg then s
  else
    let is := fun (m : Staged) => m.msg.src == src && m.msg.dst == dst && m.msg.seq == seq
    if s.tt.relays.any is then s.modTt fun t => { t with
      relays := t.relays.filter fun m => !is m, relayed := t.relayed ++ [(src, dst, seq)] }
    else s

def execMessageArrival (m : Message) (s : State) : Host.Outcome State Fault Refusal := .next (messageArrival s m)

/-- Cumulative credits (R293). -/
def State.credit (s : State) (peer arr rel : Nat) : State :=
  s.modPeer peer fun p => { p with
    arrival := p.arrival + (arr - p.arrCredit), arrCredit := max arr p.arrCredit
    relay := p.relay + (rel - p.relCredit), relCredit := max rel p.relCredit }

/-- SERVICE_ITEM_ARRIVAL: an item, with the cumulative acknowledgement and credits of its flit (R293). -/
def serviceArrival (s : State) (peer seq : Nat) (item : ServiceItem) (ack arr rel : Nat) : State :=
  let s := (s.ackPeer peer ack).credit peer arr rel
  match item with
  | .ackOnly => s
  | .hopAck src dst n => hopAckIn s src dst n
  | i => accept s peer seq (.item i)

def execServiceItemArrival (peer : BitVec 6) (seq : Nat) (item : ServiceItem) (cumAck arrCredits relayCredits : Nat) (s : State) :
    Host.Outcome State Fault Refusal := .next (serviceArrival s peer.toNat seq item cumAck arrCredits relayCredits)

def execRemoteOperation (op : RemoteReq) (s : State) : Host.Outcome State Fault Refusal := .next (accept s op.src op.seq (.remote op))

def execFreezeNotice (peer : BitVec 6) (seq : Nat) (n : Notice) (s : State) : Host.Outcome State Fault Refusal :=
  .next (accept s peer.toNat seq (.item (.notice n)))

/-- DRAIN_MARKER: this package's marker comes back from a peer. -/
def execDrainMarker (peer : BitVec 6) (seq : Nat) (s : State) : Host.Outcome State Fault Refusal :=
  .next (accept s peer.toNat seq (.item .markerBack))

/-! ## Slots (R286, R287) -/

def portBits (f : Nat → Bool) : BitVec 8 := (List.range 8).foldl (fun b p => if f p then b ||| (1#8 <<< p) else b) 0

/-- The peer of a port in the current slot. -/
def Turntable.peerOf (t : Turntable) (port : Nat) : Nat := entryPeer (calEntry t.cal port t.slot)

/-- A rotation ends: peers none of whose slots carried traffic count one more rotation (R301), and berths of past rotations are
forgotten. -/
def endRotation (s : State) : State :=
  let s := s.tt.peerList.foldl (fun s p => s.modPeer p fun e =>
    { e with downFor := if e.sawUp then 0 else e.downFor + 1, sawUp := false }) s
  s.modTt fun t => { t with rot := t.rot + 1, filled := t.filled.filter fun f => decide (8192 * (t.rot + 1) ≤ f.1) }

/-- The slot after the current one begins, with the ports whose checks pass; a port whose check fails counts the slot as down. -/
def beginSlot (s : State) (slot at_ : Nat) (checks : BitVec 8) : State :=
  let t := { s.tt with slot := slot, slotAt := at_ }
  let valid := portBits fun p => entryValid (calEntry t.cal p slot)
  let up := checks &&& valid &&& ~~~t.relock
  let down := (List.range 8).filter fun p => valid.getLsbD p && !up.getLsbD p
  let s := { s with tt := { t with
    up := up, lit := valid, berth := 0, downs := t.downs + down.length
    downCnt := down.foldl (fun c p => Tbl.set c p (Tbl.get 0 c p + 1)) t.downCnt } }
  ((List.range 8).filter fun p => up.getLsbD p).foldl (fun s p => s.modPeer (s.tt.peerOf p) fun e =>
    { e with sawUp := true, dead := e.dead && e.exchange.isSome, downFor := 0 }) s

/-- SLOT_OCCURRENCE. -/
def slotOccurrence (s : State) (checks : BitVec 8) : State :=
  if s.tt.state = .dark then s
  else
    let at_ := s.tt.slotAt + slotUnits
    if s.tt.slot + 1 < s.tt.count then beginSlot s (s.tt.slot + 1) at_ checks
    else beginSlot (endRotation s) 0 at_ checks

def execSlotOccurrence (checks : BitVec 8) (s : State) : Host.Outcome State Fault Refusal := .next (slotOccurrence s checks)

/-! ## Berths -/

/-- Whether traffic to a package may leave now: the exchange has settled (R304). -/
def State.mayLeave (s : State) (peer : Nat) : Bool := !(s.peer peer).dead && (s.peer peer).exchange.isNone

/-- A message departs, and takes the next number of its pair (R292). -/
def departMessage (s : State) (m : Staged) : State :=
  let n := (s.peer m.msg.dst).outSeq
  (s.modPeer m.msg.dst fun p => { p with outSeq := n + 1 }).modTt fun t => { t with staged := t.staged.map fun x =>
    if x.id = m.id then { x with msg := { x.msg with seq := n }, sent := some t.rot } else x }

/-- Messages whose first flit is at a place of a berth of the current slot (R289). -/
def departing (s : State) (berth off port : Nat) : List Staged :=
  s.tt.staged.filter fun m => m.sent.isNone && !m.late && decide (m.port = port ∧ m.slot = s.tt.slot ∧ m.berth = berth ∧
    m.off = off ∧ m.rot ≤ s.tt.rot) && m.hop == s.tt.peerOf port && s.mayLeave m.hop

/-- Messages held for relay move up by the flits of a relay berth, the first in order first (R291). One that has left is credited,
and its copy stays (R290, R293). -/
def relayFlits (q began : Nat) : Nat → List Staged → State → State
  | _, [], s => s
  | free, m :: ms, s =>
    if m.msg.dst = q ∧ m.sent = none ∧ m.whole + 512 ≤ began ∧ 0 < free then
      let n := min free (m.msg.flits - m.off)
      let gone := decide (m.off + n = m.msg.flits)
      let s := s.modTt fun t => { t with relays := t.relays.map fun x =>
        if x.id = m.id then { x with off := x.off + n, sent := if gone then some t.rot else none } else x }
      relayFlits q began (free - n) ms (if gone then s.freeRelay m else s)
    else relayFlits q began free ms s

/-- A service item leaves: it takes the next number of its pair, an acknowledgement none (R292, R293). -/
def departItem (s : State) (o : OutItem) : State :=
  match o.item with
  | .inr (.hopAck ..) => s.modTt fun t => { t with items := t.items.filter fun x => x.id != o.id }
  | _ =>
    let n := (s.peer o.peer).outSeq
    (s.modPeer o.peer fun p => { p with outSeq := n + 1 }).modTt fun t => { t with
      items := t.items.map fun x => if x.id = o.id then { x with seq := some n } else x }

/-- Up to eight service items leave in a berth's two service flits (R286). -/
def departItems (s : State) (peer : Nat) : State :=
  if s.mayLeave peer then ((s.tt.items.filter fun o => o.peer == peer && o.seq.isNone).take 8).foldl departItem s else s

/-- A berth of the current slot begins, on every port whose slot carries traffic: the flits in their order in time, those of the same
time by port (R286, R292, log 106). -/
def berthStep (s : State) : State :=
  let b := s.tt.berth
  let began := ptcOf s.tt.slotAt
  let ports := (List.range 8).filter fun p => s.tt.up.getLsbD p
  let relay := fun (p : Nat) =>
    let e := Tbl.get (0 : BitVec 16) s.tt.berths (1024 * p + 64 * s.tt.slot + b)
    e.getLsbD 15 && e.extractLsb' 8 2 == 1
  let s := ((List.range 46).flatMap fun o => ports.flatMap (departing s b o)).foldl departMessage s
  let s := (ports.filter relay).foldl (fun s p => relayFlits (s.tt.peerOf p) began 46 s.tt.relays s) s
  let s := ports.foldl (fun s p => departItems s (s.tt.peerOf p)) s
  s.modTt fun t => { t with berth := b + 1 }

/-- A peer's marker goes back once every message of the peer that was held for relay has left (R303). -/
def markersBack (s : State) : State :=
  (s.tt.peers.filter fun p => p.2.markerOwed && !s.tt.relays.any fun m => m.msg.src == p.1 && m.sent.isNone).foldl (fun s p =>
    (s.modPeer p.1 fun e => { e with markerOwed := false }).sendItem p.1 noCore .markerBack) s

/-- What an unreachable peer whose exchange has settled does not get: messages are returned, service items fail (R297, R301). In the
dark both wait in staging for the new calendar (R304). -/
def failDead (s : State) : State :=
  let gone := fun (p : Nat) => (s.peer p).dead && (s.peer p).exchange.isNone
  if s.tt.state = .dark then s
  else (s.returnWhere fun m => m.sent.isNone && (gone m.msg.dst || gone m.hop)).failItems fun o => o.seq.isNone && (s.peer o.peer).exchange.isNone && s.unreachable o.peer

/-- The H-die in each cycle of package time. -/
def tickTurntable (s : State) : State :=
  let s := if s.tt.state != .dark && decide (s.tt.berth < 64) && decide (berthAt s.tt.slotAt s.tt.berth ≤ 40 * s.ptc)
    then berthStep s else s
  let s := returnOne (markersBack s)
  if s.tt.staged.isEmpty && s.tt.items.isEmpty then s else failDead s

/-! ## The calendar's change (R304) -/

/-- CALENDAR_DARK: the end of rotation N − 1. Peers whose marker is not back are unreachable. -/
def calendarDark (s : State) : State :=
  let out := (s.tt.peers.filter fun p => p.2.markerOut).map Prod.fst
  let s := out.foldl (fun s p =>
    (coreIds s).foldl (fun s c => s.markPeer c p) ((s.loseReach p).modPeer p fun e => { e with markerOut := false })) s
  s.modTt fun t => { t with state := .dark, darkAt := t.slotAt + slotUnits, up := 0, lit := 0 }

def execCalendarDark (s : State) : Host.Outcome State Fault Refusal := .next (calendarDark s)

/-- CALENDAR_TAKEOVER: the shadow calendar is active, and the first slot of rotation N is about to begin. -/
def calendarTakeover (s : State) (relocked : BitVec 8) : State :=
  let s := s.modTt fun t => { t with
    cal := t.shadow, count := t.shCount, slot := t.shCount - 1, slotAt := t.darkAt + darkUnits - slotUnits, berth := 64, state := .run
    rot := t.takeover - 1, relock := ~~~relocked &&& portBits fun p => (List.range 16).any fun i => entryValid (calEntry t.shadow p i) }
  let s := s.tt.peerList.foldl (fun s p => s.modPeer p fun e => { e with sawUp := true, dead := false }) s
  let lost := fun (m : Staged) => !joins s.tt.cal m.port m.slot m.hop || decide (s.tt.count ≤ m.slot)
  let s := s.returnWhere lost
  let stuck := s.tt.relays.filter fun m => m.sent.isNone && !s.tt.reaches m.msg.dst
  stuck.foldl (fun s m => (s.freeRelay m).sendItem m.msg.src noCore (.returned m.msg))
    (s.modTt fun t => { t with relays := t.relays.filter fun m => m.sent.isSome || t.reaches m.msg.dst })

def execCalendarTakeover (relocked : BitVec 8) (s : State) : Host.Outcome State Fault Refusal := .next (calendarTakeover s relocked)

/-! ## What is due -/

inductive TtDue where
  | late (id : Nat)
  | slot
  | dark
  | takeover
  | unreachable (peer : Nat)
  | timeout (peer : Nat)
  deriving DecidableEq, Repr

/-- Peers that lose their reach (R301): every slot down for four rotations, or a message unacknowledged for four. -/
def State.losing (s : State) (p : Nat) (e : Peer) : Bool :=
  !e.dead && e.exchange.isNone && s.tt.state != .dark &&
  (decide (4 ≤ e.downFor) || s.tt.staged.any fun m => m.msg.dst == p && (match m.sent with | some r => decide (r + 4 ≤ s.tt.rot) | none => false))

/-- What the H-die has due. -/
def dueTurntable (s : State) : Option TtDue :=
  let t := s.tt
  let now := 40 * s.ptc
  match t.staged.find? fun m => m.late && m.sent.isNone with
  | some m => some (.late m.id)
  | none =>
    if t.state = .dark then (if t.darkAt + darkUnits ≤ now then some .takeover else none)
    else if t.slotAt + slotUnits ≤ now then
      (if t.pending && decide (t.count ≤ t.slot + 1) && decide (t.takeover ≤ t.rot + 1) then some .dark else some .slot)
    else match t.peers.find? fun p => s.losing p.1 p.2 with
      | some p => some (.unreachable p.1)
      | none => (t.peers.find? fun p => match p.2.exchange with | some b => decide (b + 1300000 ≤ s.ptc) | none => false).map
          fun p => .timeout p.1

/-- The number of the slot that comes next, for the checks of its ports. -/
def Turntable.nextSlot (t : Turntable) : Nat :=
  if t.slot + 1 < t.count then 16 * t.rot + t.slot + 1 else 16 * (t.rot + 1)

/-! ## LTAKE and LSTAT at the H-die (R296, R298) -/

/-- The station time at which an answer of the H-die is back. -/
def State.backFromH (s : State) : Nat := s.clk + s.dist cDie hDie + 4

/-- The status word of LTAKE. -/
def takeStatus (a : Arrival) : Word64 :=
  let kind := match a.msg.payload with | .handle _ => 0 | .data .. => 1 | .value _ => 2
  BitVec.ofNat 64 (2 ^ 63 + (if a.returned then 2 ^ 62 else 0) + (if a.late then 2 ^ 61 else 0) + kind * 2 ^ 58 + a.msg.src % 64 * 2 ^ 52 +
    a.msg.core % 256 * 2 ^ 44 + a.msg.seq % 2 ^ 32)

/-- The flits of an entry that has been taken are free: a credit for its source, or room in the return reserve (R290, R296). -/
def State.freeFlits (s : State) (a : Arrival) : State :=
  if a.returned then s.modTt fun t => { t with reserve := t.reserve + a.msg.flits }
  else s.modPeer a.msg.src fun p => { p with arrGiven := p.arrGiven + a.msg.flits }

/-- The smallest class that holds so many bytes (R62). -/
def classFor (n : Nat) : Nat := ((List.range 11).find? fun k => decide (n ≤ classSize k)).getD 10

/-- A message's bytes become a sealed tile of its shape in a core's tile store; `none` where no block is free. -/
def State.newTile (s : State) (core : Nat) (part : BitVec 5) (bytes : List Byte) (poison : List Nat) (fmt rows cols : Nat) :
    Option (Cap × State) :=
  match allocBlock s part core (classFor bytes.length) with
  | (s, .block base) =>
    let c := handleCap 1 kTile 0x69 fullWeight 0 part (BitVec.ofNat 64 base)
    match tileRange base bytes.length with
    | some (_, a) =>
      let s := sealEntry { s with mem := poisonAll (s.mem.write a bytes) (poison.map fun g => a + 16 * g) } c.key rows cols fmt
      some (c, if poison.isEmpty then s else s.poisonEntry c.key)
    | none => none
  | _ => none

/-- What LTAKE writes: the latches of status, value and handle. -/
def State.takeInto (s : State) (core : Nat) (ids : List Nat) (fs : List (Effect → Effect)) : State :=
  (ids.zip fs).foldl (fun s p => s.modLatch core p.1 fun l => { l with eff := p.2 l.eff, back := some s.backFromH }) s

/-- LTAKE at the H-die: the oldest entry; `none` while a waiting one finds no entry. -/
def ltakeStep (s : State) (core : Nat) (wait : Bool) (ids : List Nat) : Option State :=
  match (s.core core).arrivals with
  | [] => if wait then none else some (s.takeInto core ids [Effect.withWord 0, Effect.lost, Effect.lost])
  | a :: rest =>
    let take := fun (s : State) (v : Word64) (c : Cap) =>
      ((s.modCoreAt core fun k => { k with arrivals := rest }).freeFlits a).takeInto core ids
        [Effect.withWord (takeStatus a), Effect.withWord v, Effect.withCap c]
    match a.msg.payload with
    | .handle c => some (take s 0 c)
    | .value v => some (take s v nullCap)
    | .data bytes poison fmt rows cols =>
      match s.newTile core a.msg.part bytes poison fmt rows cols with
      | some (c, s) => some (take s (BitVec.ofNat 64 bytes.length) c)
      | none =>
        some ((s.takeInto core ids [Effect.lost, Effect.lost, Effect.lost]).modLatch core (ids.headD 0) fun l => { l with
          err := some { FaultRec.zero with
            cls := .resource, tinfo := BitVec.ofNat 64 (classFor bytes.length), core := core, seq := l.seq, syll := l.syll } })

/-- LSTAT's sample. -/
def lstatStep (s : State) (core sel : Nat) (ids : List Nat) : State := s.takeInto core ids [Effect.withWord ((s.lstat sel).getD 0)]

end Sys2Proof.Machine
end

