-- ==== Sys2Proof/Machine/Shuttle.lean ====
section
/-! DEFINITION. The shuttle between cores: the words 0xB5 to 0xB7 (SHSEND, SHTAKE, SHRET; R260-R263, R394), the shuttle engine, and
the events TABLET_ARRIVAL and SHUTTLE_DELIVERY. -/
namespace Sys2Proof.Machine
open Sys2Proof

/-! ## Channels (R261) -/

/-- A channel that is bound. -/
def chan? {α : Type} (t : Tbl α) (ch : BitVec 4) : Option α := (t.find? fun e => e.1 == ch.toNat).map Prod.snd
def unbind {α : Type} (t : Tbl α) (ch : BitVec 4) : Tbl α := t.filter fun e => e.1 != ch.toNat

def State.shTx (s : State) (core : Nat) (ch : BitVec 4) : Option ShTx := chan? (s.core core).shTx ch
def State.shRx (s : State) (core : Nat) (ch : BitVec 4) : Option ShRx := chan? (s.core core).shRx ch
def State.modTx (s : State) (core : Nat) (ch : BitVec 4) (f : ShTx → ShTx) : State :=
  match s.shTx core ch with
  | some x => s.modCoreAt core fun k => { k with shTx := Tbl.set k.shTx ch.toNat (f x) }
  | none => s
def State.modRx (s : State) (core : Nat) (ch : BitVec 4) (f : ShRx → ShRx) : State :=
  match s.shRx core ch with
  | some x => s.modCoreAt core fun k => { k with shRx := Tbl.set k.shRx ch.toNat (f x) }
  | none => s

/-- Tablets and filled tiles outstanding on a channel (R261): on the way to the sender, held there, being filled, in the FIFO. -/
def State.lent (s : State) (x : ShRx) : Nat :=
  let tx := match s.shTx x.tx x.ch with | some t => t.tablets.length + t.flight | none => 0
  x.coming.length + x.fifo.length + tx

/-- A channel is closed: the tablets' weight, and that of the tiles a closing at train completion finds in the FIFO, goes home, and both
sides are unbound. -/
def State.closeRx (s : State) (core : Nat) (ch : BitVec 4) : State :=
  match s.shRx core ch with
  | none => s
  | some x =>
    let held := match s.shTx x.tx x.ch with | some t => t.tablets | none => []
    let s := (x.coming.map Prod.fst ++ held ++ x.fifo).foldl (fun s c => s.dropWeight core c) s
    let s := s.modCoreAt core fun k => { k with shRx := unbind k.shRx ch }
    s.modCoreAt x.tx fun k => { k with shTx := unbind k.shTx x.ch }

/-! ## SHRET -/

/-- n blanks of a class from a core's tile-store share (R62, R79). -/
def takeBlanks (core : Nat) (part : BitVec 5) (cls : Nat) : Nat → State → Option (List Cap × State)
  | 0, s => some ([], s)
  | n + 1, s =>
    match allocBlock s part core cls with
    | (s, .block base) => (takeBlanks core part cls n s).map fun r => (newBlank core part base 0x7B :: r.1, r.2)
    | _ => none

/-- SHRET.OPEN (R261). -/
def shretOpenAct (a : BitVec 6) (ch : BitVec 4) (n : BitVec 3) (k : BitVec 4) : Act Unit := do
  let v ← readS a
  let s ← get
  let core := s.cur.1
  let tx := (v.extractLsb' 0 8).toNat
  let tch := v.extractLsb' 8 4
  need (v.extractLsb' 12 52 == 0 && decide (tx < 160)) .resource 0 v
  need ((s.core tx).part == (s.core core).part) .partition 0 v
  need ((s.shRx core ch).isNone && (s.shTx tx tch).isNone) .resource 0 v
  roomIn qShuttle
  let count := if n = 0 then 2 else n.toNat
  match takeBlanks core ((s.core core).part.getD 0) k.toNat count s with
  | none => fault .resource 0 (k.setWidth 64)
  | some (cs, s) => do
    set s
    let owner := ((s.core core).part.getD 0, (s.cons s.curCons).train)
    let x : ShRx := { tx := tx, ch := tch, cls := k.toNat, n := count, owner := owner, fifo := []
                      coming := cs.map fun c => (c, s.clk + 8) }
    modCore fun e => { e with shRx := Tbl.set e.shRx ch.toNat x }
    modify fun s => s.modCoreAt tx fun e => { e with shTx := Tbl.set e.shTx tch.toNat ⟨core, ch, k.toNat, [], 0⟩ }

def execShretOpen (g : Guard) (a : BitVec 6) (ch : BitVec 4) (n : BitVec 3) (k : BitVec 4) (s : State) :
    Host.Outcome State Fault Refusal := issueFall g (skip 1 [.sSrc a]) (shretOpenAct a ch n k) s

/-- SHRET.T (R261). -/
def shretTAct (h : BitVec 5) (ch : BitVec 4) : Act Unit := do
  let c ← readH h
  checkKind c [kBlank]
  let s ← get
  match s.shRx s.cur.1 ch with
  | none => fault .resource
  | some x => do
    need (c.space == 1 && decide (c.addr.toNat / 2 ^ 32 = s.cur.1) && decide ((s.dirEntry c.key).cls = x.cls) &&
      decide (c.weight = fullWeight)) .capability 0 c.addr
    need (decide (s.lent x < x.n)) .resource
    roomIn qShuttle
    nullH h 1
    modify fun s => s.modRx s.cur.1 ch fun x => { x with coming := x.coming ++ [(c, s.clk + 4)] }

def execShretT (g : Guard) (h : BitVec 5) (ch : BitVec 4) (s : State) : Host.Outcome State Fault Refusal :=
  issueFall g (skip 1 [.hSrc h]) (shretTAct h ch) s

/-- SHRET.CLOSE (R261). -/
def shretCloseAct (ch : BitVec 4) : Act Unit := do
  let s ← get
  match s.shRx s.cur.1 ch with
  | none => fault .resource
  | some x => do
    let flight := match s.shTx x.tx x.ch with | some t => t.flight | none => 0
    need (decide (flight = 0) && x.fifo.isEmpty) .resource
    roomIn qShuttle
    set (s.closeRx s.cur.1 ch)

def execShretClose (g : Guard) (ch : BitVec 4) (s : State) : Host.Outcome State Fault Refusal :=
  issueFall g (pure ()) (shretCloseAct ch) s

/-- TABLET_ARRIVAL (R261): the first tablet on its way to a sender's channel that is there, its lender's writes into it performed. -/
def tabletReady (s : State) (rx : Nat) (x : ShRx) : Option Cap :=
  match x.coming with
  | (c, t) :: _ => if t ≤ s.clk && !s.writesOut rx c.key then some c else none
  | [] => none

def tabletArrival (s : State) (core : Nat) (ch : BitVec 4) : State :=
  match s.shTx core ch with
  | none => s
  | some t =>
    match (s.shRx t.rx t.ch).bind (tabletReady s t.rx) with
    | some c => (s.modRx t.rx t.ch fun x => { x with coming := x.coming.drop 1 }).modTx core ch fun t =>
        { t with tablets := t.tablets ++ [c] }
    | none => s

def execTabletArrival (core : Nat) (ch : BitVec 4) (s : State) : Host.Outcome State Fault Refusal := .next (tabletArrival s core ch)

/-! ## SHSEND and SHTAKE (R262, R394) -/

/-- The barrier that imm45 names (R394). -/
def shBarrier (imm : BitVec 45) : Option Nat := if imm.getLsbD 44 then some (imm.extractLsb' 4 32).toNat else none

/-- SHSEND.T. -/
def shsendAct (h : BitVec 5) (imm : BitVec 45) : Act Unit := do
  let c ← readH h
  let s ← get
  let ch : BitVec 4 := imm.setWidth 4
  match s.shTx s.cur.1 ch with
  | none => fault .resource
  | some t => do
    checkTile c
    checkPerm c pD
    let e := s.tileEntry c.key
    let n := tileBytes e.rows e.cols e.fmt
    need (decide (n ≤ classSize t.cls)) .resource 0 (BitVec.ofNat 64 t.cls)
    match shBarrier imm with
    | some b => need (decide (b < 640 * 2 ^ 22)) .capability 0 (BitVec.ofNat 64 b)
    | none => pure ()
    match t.tablets with
    | [] => hold 4
    | b :: rest => do
      nullH h 1
      modify fun s => s.modTx s.cur.1 ch fun t => { t with tablets := rest, flight := t.flight + 1 }
      let _ ← enter qShuttle (.shsend c b n t.rx t.ch) [c] [b] [c] (shBarrier imm) n none []

def execShsendT (g : Guard) (h : BitVec 5) (imm : BitVec 45) (s : State) : Host.Outcome State Fault Refusal :=
  issueFall g (skip 1 [.hSrc h]) (shsendAct h imm) s

/-- SHTAKE.T. -/
def shtakeAct (h : BitVec 5) (ch : BitVec 4) : Act Unit := do
  let s ← get
  match s.shRx s.cur.1 ch with
  | none => fault .resource
  | some x =>
    match x.fifo with
    | [] => hold 4
    | c :: rest => do
      roomIn qShuttle
      writeH h 1 c
      modify fun s => s.modRx s.cur.1 ch fun x => { x with fifo := rest }

def execShtakeT (g : Guard) (h : BitVec 5) (ch : BitVec 4) (s : State) : Host.Outcome State Fault Refusal :=
  issueFall g (skip 1 [.hDst h]) (shtakeAct h ch) s

/-! ## The shuttle engine -/

/-- A tile's bytes are copied into the tablet, which is sealed with the tile's shape first, so that carried poison marks the sealed
entry (R87). -/
def shuttleWork (x : EngCtx) (c b : Cap) (n : Nat) : Eng WorkEnd := do
  modify fun s =>
    let e := s.tileEntry c.key
    sealEntry s b.key e.rows e.cols e.fmt
  Eng.lines x n fun off m => do
    let src ← engRange x c.space (c.addr.toNat + off) m false
    let dst ← engRange x b.space (b.addr.toNat + off) m true
    Eng.move b (((placesOf src).map some).zip (placesOf dst))
  pure .done

/-- The tile joins the receiver's FIFO, and the arrival leaves (R262, R394). -/
def shuttleFinish (core : Nat) (e : EngEntry) (c b : Cap) (rx : Nat) (ch : BitVec 4) (s : State) : State :=
  let s := match s.shRx rx ch with
    | some x => (s.modRx rx ch fun x => { x with fifo := x.fifo ++ [b.withKind kTile c.perms fullWeight 0] }).modTx core x.ch fun t =>
        { t with flight := t.flight - 1 }
    | none => s
  s.arriveBarrier core e

/-- SHUTTLE_DELIVERY: the entry at the head of a core's shuttle queue completes. -/
def shuttleDelivery (s : State) (core : Nat) : State :=
  match (s.core core).queue qShuttle with
  | e :: _ => match e.op with
    | .shsend c b n rx ch =>
      if e.started then s.runEntry core qShuttle e (shuttleWork (EngCtx.ofEntry core qShuttle e none) c b n)
        (shuttleFinish core e c b rx ch) else s
    | _ => s
  | [] => s

def execShuttleDelivery (core : Nat) (s : State) : Host.Outcome State Fault Refusal := .next (shuttleDelivery s core)

/-- Starts the shuttle engine's next entry. -/
def startShuttle (s : State) (core : Nat) : State :=
  match (s.core core).queue qShuttle with
  | e :: _ => match e.op with
    | .mark _ => s
    | _ => if s.mayStart core e then s.startHead core qShuttle else s
  | [] => s

/-- Whether an engine entry has reached its time. -/
def State.entryDue (s : State) (core q : Nat) (e : EngEntry) : Bool :=
  e.started && !e.stuck && decide (e.done ≤ s.clk) && !(s.core core).walkPending q e.id && !s.unitsStopped core

/-- What the shuttle has due: a tablet's arrival at a sender's channel, or a delivery. -/
def dueShuttle (s : State) : Option (Nat × Nat ⊕ Nat) :=
  (coreIds s).findSome? fun core =>
    let k := s.core core
    match k.shTx.find? fun t => ((s.shRx t.2.rx t.2.ch).bind (tabletReady s t.2.rx)).isSome with
    | some t => some (.inl (core, t.1))
    | none => match k.queue qShuttle with
      | e :: _ => if s.entryDue core qShuttle e then some (.inr core) else none
      | [] => none

end Sys2Proof.Machine
end

