-- ==== Sys2Proof/Machine/SBox.lean ====
section
/-! DEFINITION. The Signal Box (R271-R284, R389): the words 0xB8 to 0xBC (SBPUT, SBGET, SBTBL, SBCOMMIT, SBSTAT), the interface queue,
records on their way through the stages to their egress, tables and their banks; and the events SHADOW_BANK_WRITE, RECORD_INGRESS,
RECORD_PASS. -/
namespace Sys2Proof.Machine
open Sys2Proof

def State.modSbox (s : State) (f : SBox → SBox) : State := { s with sbox := f s.sbox }

/-! ## Tables -/

/-- Table number of a stage: 16 × pipeline + stage. -/
def tableNo (pipe : BitVec 1) (stage : Nat) : Nat := 16 * pipe.toNat + stage
/-- Key of a partition's table in one bank. -/
def bankKey (part : BitVec 5) (table : Nat) (bank : Bool) : Nat := (part.toNat * 32 + table) * 2 + (if bank then 1 else 0)

def SBox.kind (b : SBox) (table : Nat) : Nat := (Tbl.get (3 : BitVec 2) b.kinds table).toNat
def SBox.window (b : SBox) (part : BitVec 5) (table : Nat) : Nat × Nat := Tbl.get (0, 0) b.windows (part.toNat * 32 + table)
def SBox.classWord (b : SBox) (part : BitVec 5) (table : Nat) (bank : Bool) (cls : BitVec 4) : Word64 :=
  Tbl.get 0 b.classes (bankKey part table bank * 16 + cls.toNat)
/-- Key of an entry of a stage in one bank; a partition's window names it from its base on (R275). -/
def SBox.entryKey (b : SBox) (part : BitVec 5) (table : Nat) (bank : Bool) (i : Nat) : Nat :=
  (table * 2 + (if bank then 1 else 0)) * 8192 + (b.window part table).1 + i
def SBox.entry (b : SBox) (part : BitVec 5) (table : Nat) (bank : Bool) (i : Nat) : List Word64 :=
  Tbl.get [] b.entries (b.entryKey part table bank i)
def SBox.missWords (b : SBox) (part : BitVec 5) (table : Nat) (bank : Bool) : List Word64 := Tbl.get [] b.miss (bankKey part table bank)
/-- The active bank of a partition's table (R280). -/
def SBox.bank (b : SBox) (part : BitVec 5) (table : Nat) : Bool := (Tbl.get (0 : BitVec 32) b.active part.toNat).getLsbD table

def imgDw (img : List Word64) (i : Nat) : Word64 := img.getD i 0
/-- The doubleword of an entry's action word, by kind (R276). -/
def actionAt (kind : Nat) : Nat := if kind = 1 then 4 else 2

/-! ## A stage (R274-R277) -/

def Record.field (r : Record) (i : Nat) : BitVec 32 := r.f.getD i 0

/-- The key a class stage word forms. -/
def keyOf (cw : Word64) (r : Record) : Nat :=
  let n := (cw.extractLsb' 61 2).toNat + 1
  (List.range n).foldl (fun k i => k + (r.field (cw.extractLsb' (57 - 4 * i) 4).toNat).toNat * 2 ^ (32 * i)) 0

/-- Whether an entry matches a key. -/
def entryHit (kind : Nat) (k : Nat) (img : List Word64) : Bool :=
  let two := fun (i : Nat) => (imgDw img i).toNat + (imgDw img (i + 1)).toNat * 2 ^ 64
  (imgDw img (actionAt kind)).getLsbD 63 &&
  (if kind = 0 then k == two 0
   else if kind = 1 then (BitVec.ofNat 128 k ^^^ BitVec.ofNat 128 (two 0)) &&& BitVec.ofNat 128 (two 2) == 0
   else
     let lo := (imgDw img 0).toNat % 2 ^ 32
     let hi := (imgDw img 0).toNat / 2 ^ 32
     decide (lo ≤ k % 2 ^ 32) && decide (k % 2 ^ 32 ≤ hi))

/-- One micro-operation of an action (R277). -/
def sbMicro (r : Record) (data : Word64) (op : BitVec 14) : Record :=
  let dst := (op.extractLsb' 6 4).toNat
  let src := op.extractLsb' 2 4
  let x : BitVec 32 := match (op.extractLsb' 0 2).toNat with
    | 0 => r.field src.toNat
    | 1 => data.extractLsb' 0 32
    | 2 => data.extractLsb' 32 32
    | _ => src.setWidth 32
  let d := r.field dst
  let v : BitVec 32 := match (op.extractLsb' 10 4).toNat with
    | 1 => d + x
    | 2 => d - x
    | 3 => d &&& x
    | 4 => d ||| x
    | 5 => d ^^^ x
    | 6 => d <<< (x.toNat % 32)
    | 7 => d >>> (x.toNat % 32)
    | 8 => if x.toNat < d.toNat then x else d
    | 9 => if d.toNat < x.toNat then x else d
    | 10 => if x = 0 then data.extractLsb' 32 32 else data.extractLsb' 0 32
    | 11 => x
    | _ => d
  { r with f := r.f.set dst v }

/-- An action on a record: its four micro-operations in order, then its egress. -/
def sbAction (r : Record) (aw data : Word64) : Record :=
  let r := [42, 28, 14, 0].foldl (fun r o => sbMicro r data (aw.extractLsb' o 14)) r
  let e : BitVec 3 := aw.extractLsb' 60 3
  if e = 0 then r else { r with egress := e, target := r.field (aw.extractLsb' 56 4).toNat, data := data }

/-- Reason 5 (R279), kept in the record until it leaves: the class has no class stage word applied at a stage of kind none that has a
miss action. -/
def strayMiss (b : SBox) (r : Record) (table : Nat) (bank : Bool) : Bool :=
  b.kind table == 3 && (imgDw (b.missWords r.part table bank) 0).getLsbD 63

/-- One stage. -/
def sbStage (b : SBox) (r : Record) (stage : Nat) : Record :=
  let table := tableNo r.pipe stage
  let bank := r.banks.getLsbD table
  let cw := b.classWord r.part table bank r.cls
  if !cw.getLsbD 63 then (if strayMiss b r table bank then { r with reason := 5 } else r)
  else
    let kind := b.kind table
    let k := keyOf cw r
    let hit := if kind = 3 then none
      else (List.range (b.window r.part table).2).find? fun i => entryHit kind k (b.entry r.part table bank i)
    match hit with
    | some i =>
      let img := b.entry r.part table bank i
      sbAction r (imgDw img (actionAt kind)) (imgDw img (actionAt kind + 1))
    | none =>
      let m := b.missWords r.part table bank
      if (imgDw m 0).getLsbD 63 then sbAction r (imgDw m 0) (imgDw m 1) else r

/-- A pass through the sixteen stages. -/
def sbPass (b : SBox) (r : Record) : Record := (List.range 16).foldl (sbStage b) r

/-! ## Egress (R278, R279) -/

/-- A source becomes pending at a core, from the station time at which it is at the C-die (R213). -/
def State.raiseIrq (s : State) (core : Nat) (src : BitVec 3) (at_ : Nat) : State :=
  let k := s.core core
  if k.irq.any fun p => p.1 == src then s else s.setCore core { k with irq := k.irq ++ [(src, at_)] }

/-- The exception queue of the record's partition; the host is notified (R318). -/
def State.exception (s : State) (r : Record) (reason : BitVec 4) : State :=
  let p := s.part r.part
  s.setPart r.part (if 256 ≤ p.exc.length then { p with dropped := min (p.dropped + 1) (2 ^ 32 - 1) }
    else { p with exc := p.exc ++ [{ r with reason := reason }], msix := p.msix ++ [2] })

/-- A launch packet of a record: its fields, and a partition vector of zeros. -/
def launchPacket (r : Record) : List Word64 :=
  (List.range 8).map (fun i => r.field (2 * i + 1) ++ r.field (2 * i)) ++ List.replicate 8 0

/-- The place of a sequence-table entry in the record's partition (R278). -/
def kvPlace (s : State) (r : Record) : Option Nat :=
  let a := r.data.toNat
  let inside : Bool := match (s.part r.part).grant.kv with | some (b, n) => decide (b ≤ a) && decide (a + 64 ≤ b + n) | none => false
  if inside && decide (a % 64 = 0) then
    match s.walk r.part a with
    | .leaf log2 pa _ w _ _ => if w && s.granted r.part (pa + a % 2 ^ log2) 64 then some (s.forward (pa + a % 2 ^ log2)) else none
    | _ => none
  else none

/-- A record at its egress; `none` while the stack's queue for a sequence-table entry is full. One for a fourth round has reason 2
(R279). -/
def egress (s : State) (r : Record) : Option State :=
  let away := fun (s : State) (n : BitVec 4) => some (s.exception r n)
  if r.reason = 5 then away s 5
  else if r.reason = 2 then away s 2
  else match r.egress.toNat with
    | 1 =>
      let core := (r.target.extractLsb' 0 8).toNat
      if !(decide (core < 160) && (s.core core).part == some r.part) then away s 4
      else if 64 ≤ (s.core core).egress.length then away s 3
      else
        let s := s.modCoreAt core fun k => { k with egress := k.egress ++ [r] }
        some (if (s.core core).egressMark then s.raiseIrq core 2 (s.clk + s.dist hDie cDie) else s)
    | 2 =>
      if ((launchPacket r).getD 0 0).extractLsb' 48 5 = r.part then
        some { s with disp := { s.disp with
          launches := s.disp.launches ++ [{ by_ := .record r, packet := launchPacket r, at_ := s.clk }] } }
      else away s 4
    | 3 =>
      match kvPlace s r with
      | none => away s 4
      | some pa =>
        let stack := pa / 2 ^ 37
        if kvDepth ≤ (s.kvQueue stack).length then none
        else some (s.enterKv [stack] [([⟨r.data.toNat, pa, 64⟩], r.f.flatMap fun v => toBytes 4 v.toNat, false)])
    | 4 => some (s.modSbox fun b => { b with handed := b.handed ++ [r] })
    | 5 => away s 0
    | 7 => some (s.modSbox fun b => { b with discarded := b.discarded + 1 })
    | _ => away s 1

/-- Records whose time at their egress has come, in order; one that finds its stack's queue full tries again. -/
def tickEgress (s : State) : State :=
  let due := s.sbox.out.filter fun o => decide (o.1 ≤ s.clk)
  due.foldl (fun s o => match egress s o.2 with
    | some s => s
    | none => s.modSbox fun b => { b with out := b.out ++ [o] })
    (s.modSbox fun b => { b with out := b.out.filter fun o => !decide (o.1 ≤ s.clk) })

/-! ## Passing (R273) -/

/-- Cycles from stage 15 to a record's destination: 2, and the distance of another die (R273). -/
def egressTime (s : State) (r : Record) : Nat :=
  2 + (if r.egress = 3 && r.reason = 0 then (match kvPlace s r with | some pa => s.dist hDie (dieOfStack (pa / 2 ^ 37)) | none => 0) else 0)

/-- RECORD_PASS: the pass of a record ends; it goes round again, or is at its egress two cycles on. -/
def recordPass (s : State) (id : Nat) : State :=
  match s.sbox.inside.find? fun e => e.1 == id with
  | none => s
  | some (_, t, r) =>
    let r := sbPass s.sbox r
    let s := s.modSbox fun b => { b with inside := b.inside.filter fun e => e.1 != id }
    if r.egress = 6 ∧ r.reason ≠ 5 then
      if r.recirc < 3 then s.modSbox fun b => { b with inside := b.inside ++ [(id, t + 32, { r with recirc := r.recirc + 1, egress := 0 })] }
      else s.modSbox fun b => { b with out := b.out ++ [(t + 2, { r with reason := 2 })] }
    else s.modSbox fun b => { b with out := b.out ++ [(t + egressTime s r, r)] }

def execRecordPass (id : Nat) (s : State) : Host.Outcome State Fault Refusal := .next (recordPass s id)

/-! ## At the H-die -/

/-- The status word of SBGET, with the records still in the queue. -/
def sbStatus (r : Record) (exc : Bool) (left : Nat) : Word64 :=
  BitVec.ofNat 64 (2 ^ 63 + r.cls.toNat * 2 ^ 56 + (if exc then r.reason.toNat else 0) * 2 ^ 52 + r.recirc % 4 * 2 ^ 40 + r.src % 256 * 2 ^ 32 +
    left * 2 ^ 16)

/-- SBGET takes the oldest record. -/
def sbgetStep (s : State) (core : Nat) (exc : Bool) (addr : Nat) (ids : List Nat) : State :=
  let part := (s.core core).part.getD 0
  let q := if exc then (s.part part).exc else (s.core core).egress
  match q with
  | [] => s.takeInto core ids [Effect.withWord 0, fun e => e]
  | r :: rest =>
    let s := if exc then s.setPart part { s.part part with exc := rest } else s.modCoreAt core fun k => { k with egress := rest }
    let s := s.takeInto core (ids.take 1) [Effect.withWord (sbStatus r exc rest.length)]
    (ids.drop 1).foldl (fun s id => s.modLatch core id fun l => { l with
      eff := .store nullCap [⟨0, privAt core addr, r.f.flatMap fun v => toBytes 4 v.toNat⟩], back := some (s.clk + s.dist hDie (dieOf core) + 4) }) s

/-- The item an SBSTAT selects (R283). -/
def sbstatStep (s : State) (core sel : Nat) (ids : List Nat) : State :=
  let part := (s.core core).part.getD 0
  let p := s.part part
  let bits := fun (pipe : Nat) => (List.range 64).foldl (fun (w : Nat) i => if Tbl.get 0 s.sbox.slots (64 * pipe + i) = core + 1 then w + 2 ^ i else w) 0
  let v : Nat := match sel with
    | 0 => (s.core core).egress.length + (if (s.core core).egressMark then 256 else 0)
    | 1 => p.exc.length + p.dropped * 2 ^ 16
    | 2 => p.refused % 2 ^ 32 * 2 ^ 32 + (if p.sticky then 1 else 0)
    | 3 => (List.range 32).foldl (fun w t => w + s.sbox.kind t * 2 ^ (2 * t)) 0
    | 4 => bits 0
    | _ => bits 1
  let s := s.takeInto core ids [Effect.withWord (BitVec.ofNat 64 v)]
  if sel = 2 then s.setPart part { s.part part with sticky := false } else s

/-- What one request has the H-die do; `none` while an LTAKE waits. -/
def hStep (s : State) (core : Nat) (q : HReq) : Option State :=
  match q.op with
  | .ltake wait => ltakeStep s core wait q.latches
  | .lstat sel => some (lstatStep s core sel q.latches)
  | .sbget exc a => some (sbgetStep s core exc a q.latches)
  | .sbstat sel => some (sbstatStep s core sel q.latches)
  | .sbmark b => some (s.modCoreAt core fun k => { k with egressMark := b })

/-! ## The interface queue (R272, R282, R283) -/

/-- Whether a core owns an ingress slot of a pipeline. -/
def SBox.owns (b : SBox) (core : Nat) (pipe : BitVec 1) : Bool := (List.range 64).any fun i => Tbl.get 0 b.slots (64 * pipe.toNat + i) == core + 1

/-- The bytes an SBTBL's image has (R276, R282). -/
def imageSize (kind : Nat) (lit : BitVec 64) : Nat :=
  match (lit.extractLsb' 62 2).toNat with
  | 0 => if kind = 1 then 48 else 32
  | 1 => 8
  | _ => 16

/-- Fields of SBTBL's literal. -/
def litTable (lit : BitVec 64) : Nat := tableNo (lit.extractLsb' 61 1) (lit.extractLsb' 57 4).toNat
def litClass (lit : BitVec 64) : BitVec 4 := lit.extractLsb' 53 4
def litIndex (lit : BitVec 64) : Nat := (lit.extractLsb' 40 13).toNat

/-- The station time at which a started entry is at the H-die: issue + d + D(core's die, H-die) + 4 at the earliest (R272). -/
def atH (s : State) (core : Nat) (e : EngEntry) : Nat := max (e.ready + 2) s.clk + s.dist (dieOf core) hDie

/-- An entry starts: a record or an image is read from private memory (R227, R283). -/
def startOne (core : Nat) (s : State) (e : EngEntry) : State :=
  let put := fun (s : State) (op : EngOp) =>
    s.modCoreAt core fun k => k.modEntry qSbox e.id fun x => { x with op := op, started := true, done := atH s core e }
  let take := fun (a n : Nat) (op : EngOp) =>
    match s.mem.firstPoison (privAt core a) n with
    | some g => (s.entryFault core e { FaultRec.zero with
        cls := .poison, tinfo := BitVec.ofNat 64 (g - privAt core 0), core := core, seq := e.seq, syll := e.syll } false).retireEntry core qSbox e
    | none => put s op
  match e.op with
  | .sbput a pipe cls =>
    take a 64 (.sbrec ((List.range 16).map fun i => s.mem.read32 (privAt core a + 4 * i)) pipe cls false)
  | .sbtbl a lit =>
    let n := imageSize (s.sbox.kind (litTable lit)) lit
    take a n (.sbimage ((List.range (n / 8)).map fun i => s.mem.read64 (privAt core a + 8 * i)) lit)
  | op => put s op

def EngEntry.isMark (e : EngEntry) : Bool := match e.op with | .mark _ => true | _ => false

/-- The entry of a core's interface queue that may run: the oldest, markers apart (R40). -/
def Core.sboxHead (k : Core) : Option EngEntry := ((k.queue qSbox).dropWhile EngEntry.isMark).head?

/-- The oldest entry starts, from issue + d + 4 on; SBGET and SBSTAT have their effect at the H-die (R40, R282, R283). -/
def startSbox (s : State) (core : Nat) : State :=
  match (s.core core).sboxHead with
  | none => s
  | some e =>
    if s.unitsStopped core || s.saving core || e.started || (s.core core).gated e.id then s
    else match e.op with
      | .sbask op t =>
        if s.clk < t then s
        else match hStep s core ⟨op, e.latches, t⟩ with
          | some s => s.retireEntry core qSbox e
          | none => s
      | _ => if s.clk < e.ready + 2 then s else startOne core s e

/-- The record of a core that may enter a pipeline: that of its oldest entry, once it is at the H-die (R40, R272). -/
def Core.ingressHead (k : Core) (pipe : BitVec 1) : Option EngEntry :=
  k.sboxHead.filter fun e => e.started && (match e.op with | .sbrec _ p _ _ => p == pipe | _ => false)

/-- RECORD_INGRESS (R272, R281): a record is stamped with the active banks and enters stage 0; a failure record for a pipeline on which
its core owns no slot goes to the exception queue (R279). -/
def recordIngress (s : State) (core : Nat) (pipe : BitVec 1) : State :=
  match (s.core core).ingressHead pipe with
  | some e => match e.op with
    | .sbrec f _ cls fail =>
      let part := (s.core core).part.getD 0
      let r : Record :=
        { f := f, cls := cls, pipe := pipe, src := core, part := part, recirc := 0, egress := 0, target := 0, data := 0
          banks := Tbl.get 0 s.sbox.active part.toNat, reason := 0 }
      let s' := s.retireEntry core qSbox e
      if fail && !s.sbox.owns core pipe then s'.exception r 7
      else { s' with nextId := s'.nextId + 1 }.modSbox fun b => { b with inside := b.inside ++ [(s'.nextId, s.clk + 32, r)] }
    | _ => s
  | none => s

def execRecordIngress (core : Nat) (pipe : BitVec 1) (s : State) : Host.Outcome State Fault Refusal := .next (recordIngress s core pipe)

/-- Whether an action word breaks R277. -/
def actionBad (aw : Word64) : Bool := [42, 28, 14, 0].any fun o => decide (12 ≤ (aw.extractLsb' (o + 10) 4).toNat)

/-- Key fields of a partition's table in a bank: the most that a class stage word which applies there names; 4 where none applies
(log 64). -/
def SBox.keyFields (b : SBox) (part : BitVec 5) (table : Nat) (bank : Bool) : Nat :=
  let ws := ((List.range 16).map fun c => b.classWord part table bank (BitVec.ofNat 4 c)).filter fun w => w.getLsbD 63
  if ws.isEmpty then 4 else ws.foldl (fun n w => max n ((w.extractLsb' 61 2).toNat + 1)) 0

/-- Whether an image breaks R274 to R277 for its stage's kind, and for keys of a number of fields. -/
def imageBadFor (kind fields : Nat) (lit : BitVec 64) (img : List Word64) : Bool :=
  match (lit.extractLsb' 62 2).toNat with
  | 0 => kind == 3 || actionBad (imgDw img (actionAt kind)) || (kind == 2 && imgDw img 1 != 0) ||
      (kind == 0 && decide (2 ^ (32 * fields) ≤ (imgDw img 0).toNat + (imgDw img 1).toNat * 2 ^ 64))
  | 1 =>
    let w := imgDw img 0
    w.extractLsb' 0 45 != 0 || (kind == 2 && w.getLsbD 63 && w.extractLsb' 61 2 != 0)
  | _ => actionBad (imgDw img 0)

/-- Whether a record in the pipeline is stamped with a bank. -/
def SBox.stamped (b : SBox) (part : BitVec 5) (table : Nat) (bank : Bool) : Bool :=
  b.inside.any fun e => e.2.2.part == part && e.2.2.pipe.toNat == table / 16 && e.2.2.banks.getLsbD table == bank

/-- A table's image goes into a bank. -/
def SBox.putImage (b : SBox) (part : BitVec 5) (bank : Bool) (lit : BitVec 64) (img : List Word64) : SBox :=
  let key := bankKey part (litTable lit) bank
  match (lit.extractLsb' 62 2).toNat with
  | 0 => { b with entries := Tbl.set b.entries (b.entryKey part (litTable lit) bank (litIndex lit)) img }
  | 1 => { b with classes := Tbl.set b.classes (key * 16 + (litClass lit).toNat) (imgDw img 0) }
  | _ => { b with miss := Tbl.set b.miss key img }

/-- SHADOW_BANK_WRITE (R281, R283): the image at the head of a core's queue goes into the shadow bank, or is refused. -/
def shadowBankWrite (s : State) (core : Nat) : State :=
  match (s.core core).queue qSbox with
  | e :: _ => match e.op with
    | .sbimage img lit =>
      let part := (s.core core).part.getD 0
      let table := litTable lit
      let bank := !s.sbox.bank part table
      if s.sbox.stamped part table bank then s
      else
        let s := s.retireEntry core qSbox e
        if imageBadFor (s.sbox.kind table) (s.sbox.keyFields part table bank) lit img then
          s.setPart part { s.part part with refused := (s.part part).refused + 1, sticky := true }
        else s.modSbox fun b => b.putImage part bank lit img
    | _ => s
  | [] => s

def execShadowBankWrite (core : Nat) (s : State) : Host.Outcome State Fault Refusal := .next (shadowBankWrite s core)

/-- SBCOMMIT.G at the head of a core's queue (R280). -/
def sbCommit (s : State) (core : Nat) (e : EngEntry) (mask : BitVec 32) : State :=
  let part := (s.core core).part.getD 0
  (s.retireEntry core qSbox e).modSbox fun b => { b with active := Tbl.set b.active part.toNat (Tbl.get 0 b.active part.toNat ^^^ mask) }

/-! ## Words -/

def sbputAct (b : BitVec 6) (pipe : BitVec 1) (cls : BitVec 4) : Act Unit := do
  let v ← readS b
  let s ← get
  checkPrivate v 64
  need (s.sbox.owns s.cur.1 pipe) .resource 0 (pipe.setWidth 64)
  let _ ← enter qSbox (.sbput v.toNat pipe cls) [] [] [] none 0 none []

def execSbputR (g : Guard) (b : BitVec 6) (pipe : BitVec 1) (cls : BitVec 4) (s : State) : Host.Outcome State Fault Refusal :=
  issueFall g (skip 1 [.sSrc b]) (sbputAct b pipe cls) s

/-- An entry that is at the H-die from issue + dH + 4 on (R282, R283). -/
def enterAsk (op : HOp) (latches : List Nat) : Act Nat := do
  let s ← get
  enter qSbox (.sbask op (s.clk + s.dist cDie hDie + 4)) [] [] [] none 0 none latches

/-- SBGET (R283): status, and the 64 bytes at issue + dH + D(H-die, core's die) + 8. -/
def sbgetAct (exc : Bool) (a b : BitVec 6) : Act Unit := do
  let v ← readS b
  checkPrivate v 64
  let lat ← hLatency
  let id ← awaitS a lat 3
  let s ← get
  let st ← await (s.dist cDie hDie + s.dist hDie (dieOf s.cur.1) + 8) 3 (.store nullCap [])
  let _ ← enterAsk (.sbget exc v.toNat) [id, st]

def execSbgetQ (g : Guard) (a b : BitVec 6) (s : State) : Host.Outcome State Fault Refusal :=
  issueFall g (skipH [.sSrc b, .sDst a]) (sbgetAct false a b) s

def execSbgetX (g : Guard) (a b : BitVec 6) (s : State) : Host.Outcome State Fault Refusal :=
  issueFall g (skipH [.sSrc b, .sDst a]) (sbgetAct true a b) s

def sbtblAct (b : BitVec 6) (lit : BitVec 64) : Act Unit := do
  let v ← readS b
  let s ← get
  let n := imageSize (s.sbox.kind (litTable lit)) lit
  need (decide (v.toNat % 8 = 0) && decide (v.toNat + n ≤ 0x100000)) .capability 0 v
  need (lit.extractLsb' 62 2 != 0 || decide (litIndex lit < (s.sbox.window ((s.core s.cur.1).part.getD 0) (litTable lit)).2)) .partition 0
    (BitVec.ofNat 64 (litIndex lit))
  let _ ← enter qSbox (.sbtbl v.toNat lit) [] [] [] none 0 none []

def execSbtblW (g : Guard) (b : BitVec 6) (lit : Word96) (s : State) : Host.Outcome State Fault Refusal :=
  issueN 2 g (skip 1 [.sSrc b]) (do
    sbtblAct b (lit.setWidth 64)
    pure .fall) s

def sbcommitAct (b : BitVec 6) : Act Unit := do
  let v ← readS b
  let _ ← enter qSbox (.sbcommit (v.setWidth 32)) [] [] [] none 0 none []

def execSbcommitG (g : Guard) (b : BitVec 6) (s : State) : Host.Outcome State Fault Refusal :=
  issueFall g (skip 1 [.sSrc b]) (sbcommitAct b) s

/-- SBSTAT.RD (R283). -/
def sbstatAct (a b : BitVec 6) : Act Unit := do
  let v ← readS b
  need (decide (v.toNat ≤ 5)) .resource 0 v
  let lat ← hLatency
  let id ← awaitS a lat 3
  let _ ← enterAsk (.sbstat v.toNat) [id]

def execSbstatRd (g : Guard) (a b : BitVec 6) (s : State) : Host.Outcome State Fault Refusal :=
  issueFall g (skipH [.sSrc b, .sDst a]) (sbstatAct a b) s

/-- SBSTAT.MARK (R282). -/
def sbmarkAct (b : BitVec 6) : Act Unit := do
  let v ← readS b
  let _ ← enterAsk (.sbmark (v.getLsbD 0)) []

def execSbstatMark (g : Guard) (b : BitVec 6) (s : State) : Host.Outcome State Fault Refusal :=
  issueFall g (skip 1 [.sSrc b]) (sbmarkAct b) s

/-! ## Requests beside the queue -/

/-- A core's requests that are at the H-die, in order; of its LTAKEs only the first that waits is tried. -/
def hSteps (core : Nat) : Bool → List HReq → State → State
  | _, [], s => s
  | blocked, q :: qs, s =>
    let take : Bool := match q.op with | .ltake _ => true | _ => false
    if decide (s.clk < q.at_) || (take && blocked) then hSteps core (blocked || take) qs s
    else match hStep s core q with
      | some s => hSteps core blocked qs (s.modCoreAt core fun k => { k with hReqs := k.hReqs.erase q })
      | none => hSteps core true qs s

def tickH (s : State) (core : Nat) : State :=
  if (s.core core).hReqs.isEmpty then s else hSteps core false (s.core core).hReqs s

/-! ## What is due -/

inductive SbDue where
  | ingress (core : Nat) (pipe : BitVec 1)
  | shadow (core : Nat)
  | commit (core : Nat)
  | pass (id : Nat)
  deriving DecidableEq, Repr

/-- The owner of the slot of this cycle. -/
def SBox.owner (b : SBox) (ptc : Nat) (pipe : BitVec 1) : Option Nat :=
  match Tbl.get 0 b.slots (64 * pipe.toNat + ptc % 64) with
  | 0 => none
  | n + 1 => some n

/-- Whether a core's record may enter a pipeline in this cycle. -/
def ingressDue (s : State) (core : Nat) (pipe : BitVec 1) : Bool :=
  match (s.core core).ingressHead pipe with
  | some e => match e.op with
    | .sbrec _ _ _ fail => decide (e.done ≤ s.clk) && (s.sbox.owner s.ptc pipe == some core || (fail && !s.sbox.owns core pipe))
    | _ => false
  | none => false

/-- What the Signal Box has due; pipeline 0 first (R284). One record enters a pipeline in a cycle: the one that has entered ends its
pass 32 cycles on. -/
def dueSbox (s : State) : Option SbDue :=
  let ends := fun (pipe : BitVec 1) => s.sbox.inside.find? fun e => decide (e.2.1 ≤ s.clk) && e.2.2.pipe == pipe
  match (ends 0).orElse fun _ => ends 1 with
  | some e => some (.pass e.1)
  | none =>
    let entered := fun (pipe : BitVec 1) => s.sbox.inside.any fun e => e.2.2.pipe == pipe && e.2.1 == s.clk + 32 && e.2.2.recirc == 0
    match ([0, 1] : List (BitVec 1)).findSome? fun pipe =>
        if entered pipe then none else ((coreIds s).find? fun core => ingressDue s core pipe).map fun core => SbDue.ingress core pipe with
    | some d => some d
    | none => (coreIds s).findSome? fun core =>
      match (s.core core).queue qSbox with
      | e :: _ => if decide (e.done ≤ s.clk) && e.started && !s.unitsStopped core then
          (match e.op with
            | .sbimage _ lit =>
              let part := (s.core core).part.getD 0
              if s.sbox.stamped part (litTable lit) (!s.sbox.bank part (litTable lit)) then none else some (.shadow core)
            | .sbcommit _ => some (.commit core)
            | _ => none) else none
      | [] => none

end Sys2Proof.Machine
end

