-- ==== Sys2Proof/Machine/Engines.lean ====
section
/-! DEFINITION. What completes at a core's engines: ENGINE_ENTRY_COMPLETE (R40) and SHADOW_WALK_COMPLETE (R162, R163, R214). -/
namespace Sys2Proof.Machine
open Sys2Proof

/-- ENGINE_ENTRY_COMPLETE: the entry a queue's engine works on is done with its time; its work is done and it retires. -/
def engineComplete (s : State) (core q : Nat) : State :=
  if q = qLink then
    match (s.core core).linkHead with
    | some e => if e.started then linkComplete s core e else s
    | none => s
  else
    match (s.core core).queue q with
    | e :: _ =>
      if !e.started then s
      else if q = qCopy then copyComplete s core e
      else match e.op with
        | .sbcommit mask => sbCommit s core e mask
        | .shsend .. => shuttleDelivery s core
        | _ => s
    | [] => s

def execEngineEntryComplete (core : Nat) (queue : BitVec 3) (s : State) : Host.Outcome State Fault Refusal :=
  .next (engineComplete s core queue.toNat)

/-- Whether a core's copy engine is done with its time; `appends` asks for an APPEND only. -/
def copyDue (s : State) (appends : Bool) (core : Nat) : Bool :=
  match (s.core core).queue qCopy with
  | e :: _ => s.entryDue core qCopy e && (!appends || (match e.op with | .append .. => true | _ => false))
  | [] => false

/-- A core and queue whose entry has reached its time: the APPENDs of a cycle count as first (R195, R258). -/
def dueEngine (s : State) : Option (Nat × Nat) :=
  match (coreIds s).find? (copyDue s true) with
  | some core => some (core, qCopy)
  | none => (coreIds s).findSome? fun core =>
    let k := s.core core
    let copy := copyDue s false core
    let link := match k.linkHead with | some e => s.entryDue core qLink e | none => false
    if copy then some (core, qCopy) else if link then some (core, qLink) else none

/-! ## The shadow scalar context (R214) -/

/-- How a walk that serves an access ends in a fault (R162). -/
def walkFault (s : State) (core va : Nat) (write : Bool) : Option FaultClass :=
  match s.walk ((s.core core).part.getD 0) va with
  | .leaf _ _ r w _ _ => if (if write then w else r) then none else some .capability
  | .absent false => some .capability
  | .absent true => some .majorTrans
  | .malformed => some .partition

/-- A walk for an engine's entry ends in a fault. An ASTART stops, but for a major fault, which is reported (R216, R249). -/
def entryWalkFault (s : State) (core : Nat) (w : Walk) (q id : Nat) (cls : FaultClass) : State :=
  match (s.core core).queue q |>.find? (fun e => e.id == id), s.consistOf core with
  | some e, some k =>
    let f : FaultRec := { FaultRec.zero with
      cls := cls, tinfo := BitVec.ofNat 64 w.va, core := core, seq := e.seq, syll := e.syll, write := w.write, kv := w.kv }
    let a := (s.core core).attn
    let norm := (Tbl.get (0 : Word64) a.store a.upc).extractLsb' 58 6 == 0x09
    match e.op with
    | .astart .. =>
      if cls = .majorTrans then report (stopAstart s core id) k f e.issued else attnFinish s core a.upc (if norm then 4 else 2)
    | _ => report (s.stickEntry core q id) k f e.issued
  | _, _ => s

/-- What a finished job served goes on, with the fault its walk ended in. -/
def serveWalk (s : State) (core : Nat) (bad : Option FaultClass) (w : Walk) : State :=
  match w.for_ with
  | .latch id =>
    match s.consistOf core with
    | some k =>
      match ((s.cons k).latches ++ (s.cons k).parked).find? fun l => l.id == id with
      | some l => match l.defer with
        | some d => walkedAccess s k l d
        | none => s
      | none => s
    | none => s
  | .entry q id => match bad with
    | some cls => entryWalkFault s core w q id cls
    | none => s
  | .nextPage q => s.modCoreAt core fun k =>
      let p := k.page q
      if p.next.any (inPage w.va) then
        k.setPage q (match bad with
          | some cls => { p with fault := some { FaultRec.zero with cls := cls, tinfo := BitVec.ofNat 64 w.va, core := core } }
          | none => { p with next := (k.tlbPage w.va).orElse fun _ => p.next, ready := true })
      else k
  | .micro => s
  | .extension .. => s

/-- A walk has ended with a translation: the TLB is filled, and what its first job and any other job that the TLB entry serves waited for
goes on (R214; log 22). -/
def walkFills (s : State) (core : Nat) (w : Walk) (t : TlbEntry) : State :=
  let s := s.putTlb core t
  let hit := fun (v : Walk) => (match v.for_ with | .extension .. => false | _ => true) &&
    (match xlatePart s core v.va 1 v.write false with | .ok _ => true | _ => false)
  let rest := (s.core core).walks.tail.filter hit
  let s := dropWalks (s.modCoreAt core fun k => { k with walks := k.walks.tail }) core hit
  rest.foldl (fun s v => serveWalk s core none v) (serveWalk s core none w)

/-- The first job begins again, or goes on, `n` station cycles from now. -/
def walkAgain (s : State) (core n : Nat) (cas : Option (Nat × Word64 × TlbEntry)) : State :=
  s.modCoreAt core fun k => match k.walks with
    | w :: ws => { k with walks := { w with ends := some (s.clk + n), cas := cas } :: ws }
    | [] => k

/-- SHADOW_WALK_COMPLETE: the context's first job has come to its time. A walk for a write whose page is clean has the porter set the dirty
bit by a compare-and-swap; where that fails, the walk begins again at the root (R167, R168). -/
def walkComplete (s : State) (core : Nat) : State :=
  match (s.core core).walks with
  | [] => s
  | w :: _ =>
    match w.cas with
    | some (entry, was, t) =>
      match s.casDirty entry was with
      | some s => walkFills s core w t
      | none => walkAgain s core w.len none
    | none =>
      match walkFault s core w.va w.write, s.walk ((s.core core).part.getD 0) w.va with
      | none, .leaf log2 pa r wr dirty entry =>
        if w.write && !dirty then
          let (n, s) := s.delay
          walkAgain s core (1 + n) (some (entry, s.pte entry, leafEntry w.va log2 pa r wr true))
        else walkFills s core w (leafEntry w.va log2 pa r wr dirty)
      | bad, _ => serveWalk (dropWalks (s.modCoreAt core fun k => { k with walks := k.walks.tail }) core fun _ => false) core bad w

def execShadowWalkComplete (core : Nat) (s : State) : Host.Outcome State Fault Refusal := .next (walkComplete s core)

/-- A core whose walk has ended; its reads of the page table wait for a refresh window to close (R20). -/
def dueWalk (s : State) : Option Nat :=
  if refreshOpen s.ptc then none
  else (coreIds s).find? fun core => match (s.core core).walks with
    | w :: _ => w.ends.any (fun t => decide (t ≤ s.clk)) && (match w.for_ with | .extension .. => false | _ => true)
    | [] => false

/-- Whether a walk of a core's consist makes it hold (R214): cause bit 8. -/
def Core.walkHolds (k : Core) : Bool := k.walks.any fun w => match w.for_ with | .entry .. => true | .micro => true | _ => false

/-- A core's engines start what may start. -/
def startEngines (s : State) (core : Nat) : State :=
  let k := s.core core
  if k.eng.all fun q => q.2.isEmpty then s
  else startSbox (startShuttle (startLink (startPorter (startCopy s core) core) core) core) core

end Sys2Proof.Machine
end

