-- ==== Sys2Proof/Machine/Holds.lean ====
section
/-! DEFINITION. How holds end (R47-R52): the events HOLD_RELEASE and HOLD_LIMIT; the end of a RETIME wait (R240): RETIME_RELEASE and
RETIME_SLIP_FAULT; interrupts (R213, R318): TIMER_COMPARE, INTERRUPT_TAKEN, MANAGEMENT_INTERRUPT, HOST_NOTIFICATION; and
HALT_RESUME (R357). -/
namespace Sys2Proof.Machine
open Sys2Proof

/-! ## Holds -/

/-- Results that are late at the current TTC (R430). -/
def lateLatches (c : Consist) : List Latch := c.latches.filter fun l => decide (l.due ≤ c.ttc) && l.cause.isSome && !l.pend

def causesOf (ls : List Latch) : BitVec 16 := ls.foldl (fun b l => b ||| l.cause.getD 0) 0

/-- A schedule fault of a consist that no word raises at its issue. -/
def State.schedFault (s : State) (core : Nat) (q : SeqId) (sub : BitVec 8) : FaultRec :=
  { FaultRec.zero with cls := .schedule, sub := sub, core := core, seq := q, syll := BitVec.ofNat 25 (s.seq core q).at_.wordAt }

/-- HOLD_RELEASE (R48): the consist goes on at its TTC. A core whose trace takes no record in stop mode raises schedule fault 0x0A
(R52). -/
def holdRelease (s : State) (k : Nat) : State :=
  let c := s.cons k
  match c.mode with
  | .hold h =>
    let full := c.cores.find? fun x => traceFull (s.core x)
    let s := traceHolds s k h
    let s := s.setCons k (match c.next with
      | some (.boundary o t) => { s.cons k with mode := .boundary o t, next := none }
      | _ => { s.cons k with mode := .run })
    match full with
    | some x => raise s k (s.schedFault x .as 0x0A)
    | none => s
  | .reentry (some h) =>
    let full := c.cores.find? fun x => traceFull (s.core x)
    let s := traceHolds s k h
    match full with
    | some x => raise s k (s.schedFault x .as 0x0A)
    | none => resumeRun (s.setCons k { s.cons k with mode := .run }) k
  | _ => s

def execHoldRelease (consist : Nat) (s : State) : Host.Outcome State Fault Refusal := .next (holdRelease s consist)

/-- The token a waiting WAIT names. -/
def waitedToken (s : State) (w : Nat × SeqId) : List (Nat × Nat) :=
  let p := (s.seq w.1 w.2).at_
  let i := s.mem.iword p.pc
  if opcodeOf i = 0x31 then [(w.1, (i.extractLsb' 64 5).toNat)] else []

/-- A result that does not come any more: what arrives for it names a latch that is not there (R51). -/
def discardLatch (k : Nat) (s : State) (l : Latch) : State :=
  { s with nextId := s.nextId + 1 }.setCons k ((s.cons k).modLatch l.id fun l =>
    { l with id := s.nextId, eff := l.eff.lost, cause := none, arrive := none, back := none, defer := none, missAt := none, replay := false })

/-- What a waiting word asked for is asked for no more: an answer that comes later is discarded (R51). -/
def unask (s : State) (w : Nat × SeqId) : State :=
  let s := match (s.seq w.1 w.2).at_.req with | some id => endExtension s id | none => s
  s.modSeqAt w.1 w.2 fun q => { q with at_ := { q.at_ with req := none } }

/-- HOLD_LIMIT (R51): watches are lost (R176), what the hold waited for is discarded when it comes, and schedule fault 0x0B is
raised. -/
def holdLimit (s : State) (k : Nat) : State :=
  let c := s.cons k
  match c.holding with
  | some h =>
    let watched := fun (r : PorterReq) => c.cores.contains r.core
    let ids := ((s.stores.watches.flatMap Prod.snd).map Watch.req ++ (c.cores.flatMap fun x => (s.core x).polls.map fun p => p.1)).flatMap
      PorterReq.latches
    let s := s.loseWatches watched
    let s := ((lateLatches (s.cons k) ++ (s.cons k).latches.filter Latch.replay).filter fun l => !ids.contains l.id).foldl (discardLatch k) s
    let s := (h.words.flatMap (waitedToken s)).foldl (fun s p => s.modCoreAt p.1 fun e => { e with deaf := e.deaf ++ [p.2] }) s
    let s := h.words.foldl unask s
    let who := h.words.headD (h.late.headD c.lead, .as)
    raise s k (s.schedFault who.1 who.2 0x0B)
  | none => s

def execHoldLimit (consist : Nat) (s : State) : Host.Outcome State Fault Refusal := .next (holdLimit s consist)

/-! ## RETIME (R240) -/

/-- RETIME_RELEASE: the consist goes on at PTC Q, every lag is 0, and a slip is recorded. -/
def retimeRelease (s : State) (k : Nat) : State :=
  let c := s.cons k
  match c.mode with
  | .retime r =>
    let slip := r.notice - r.target
    let s := if slip = 0 then s
      else c.cores.foldl (fun s x => traceEvent s x 6 0 (r.die * 2 ^ 34 + min slip (2 ^ 34 - 1)) c.ttc) s
    let s := c.dies.foldl (fun s d => s.setDie d { s.die d with lag := 0 }) s
    resumeRun s k
  | _ => s

def execRetimeRelease (consist : Nat) (s : State) : Host.Outcome State Fault Refusal := .next (retimeRelease s consist)

/-- RETIME_SLIP_FAULT: schedule fault 0x06 at the boundary u + 1. -/
def retimeSlip (s : State) (k : Nat) : State :=
  let c := s.cons k
  match c.mode with
  | .retime r =>
    raise (s.setCons k { c with mode := .run }) k
      { FaultRec.zero with cls := .schedule, sub := 0x06, core := r.core, seq := r.seq, syll := r.syll }
  | _ => s

def execRetimeSlipFault (consist : Nat) (s : State) : Host.Outcome State Fault Refusal := .next (retimeSlip s consist)

/-! ## Interrupts (R213) -/

/-- TIMER_COMPARE: the armed timer becomes pending. -/
def timerCompare (s : State) (core : Nat) : State :=
  let k := s.core core
  if k.armed && decide (k.timer.toNat ≤ s.ptc) then (s.setCore core { k with armed := false }).raiseIrq core 0 s.clk else s

def execTimerCompare (core : Nat) (s : State) : Host.Outcome State Fault Refusal := .next (timerCompare s core)

/-- A core whose timer has reached its compare value. -/
def dueTimer (s : State) : Option Nat :=
  (coreIds s).find? fun x => (s.core x).armed && decide ((s.core x).timer.toNat ≤ s.ptc)

/-- The order of the sources, highest first. -/
def irqOrder : List (BitVec 3) := [1, 4, 3, 2, 0]

/-- Whether a core's source may be taken now: at least 4 cycles after it reached the C-die. -/
def irqRipe (s : State) (core : Nat) (src : BitVec 3) : Bool :=
  (s.core core).irq.any fun p => p.1 == src && decide (p.2 + 4 ≤ s.clk)

/-- The source and core that a consist takes next: source 1 whatever tvec holds. -/
def irqNext (s : State) (k : Nat) : Option (BitVec 3 × Nat) :=
  let c := s.cons k
  let on := (s.core c.lead).xs.tvec.getLsbD 63
  irqOrder.findSome? fun src =>
    if src = 1 || on then (c.cores.find? fun x => irqRipe s x src).map fun x => (src, x) else none

/-- Pending interrupts of a consist that may be taken now. -/
def takeable (s : State) (k : Nat) : Bool := (s.cons k).trapT.isNone && (irqNext s k).isSome

/-- INTERRUPT_TAKEN: a trap that counts as raised by the XS of the lead core (R207); source 1 is a context save (R216). -/
def interruptTaken (s : State) (k : Nat) : State :=
  match irqNext s k with
  | none => s
  | some (src, x) =>
    let s := s.modCoreAt x fun e => { e with irq := e.irq.filter fun p => p.1 != src }
    if src = 1 then beginSave (s.setCons k { s.cons k with preempt := false }) k none
    else
      let lead := (s.cons k).lead
      raise s k { FaultRec.zero with
        cls := .interrupt, core := lead, seq := .xs, source := src, syll := BitVec.ofNat 25 (s.seq lead .xs).at_.wordAt }

def execInterruptTaken (consist : Nat) (s : State) : Host.Outcome State Fault Refusal :=
  .next (if takeable s consist then interruptTaken s consist else s)

/-- MANAGEMENT_INTERRUPT: source 4 on a core. -/
def execManagementInterrupt (core : Nat) (s : State) : Host.Outcome State Fault Refusal :=
  .next (if core < 160 then s.raiseIrq core 4 (s.clk + s.dist hDie cDie) else s)

/-- A refused write in the error log (R326). -/
def State.refuse (s : State) (addr : Word64) (part : BitVec 5) : State := s.logErr 4 hDie 4 addr part

/-- HOST_NOTIFICATION (R318): source 3 on the core that bits 7:0 name, of the virtual function's partition. -/
def hostNotification (s : State) (vf : BitVec 5) (value : BitVec 64) : State :=
  let core := (value.extractLsb' 0 8).toNat
  if core < 160 && (s.core core).part == some vf then s.raiseIrq core 3 (s.clk + s.dist hDie cDie)
  else s.refuse 0x018 vf

def execHostNotification (vf : BitVec 5) (value : BitVec 64) (s : State) : Host.Outcome State Fault Refusal :=
  .next (hostNotification s vf value)

/-! ## HALT (R357) -/

/-- HALT_RESUME: a halted car goes on at the HALT's next word. -/
def haltResume (s : State) (k : Nat) : State :=
  match (s.cons k).mode with
  | .halted => resumeRun s k
  | _ => s

def execHaltResume (consist : Nat) (s : State) : Host.Outcome State Fault Refusal := .next (haltResume s consist)

end Sys2Proof.Machine
end

