-- ==== Sys2Proof/Machine/SaveArea.lean ====
section
/-! DEFINITION. What a context save writes into a partition's context area in HBM (R216), and what comes back from there (R217). -/
namespace Sys2Proof.Machine
open Sys2Proof

/-! ## Parts of memory -/

/-- Memory with the bytes, tags and poison of a saved part of it put back. -/
def Memory.putCells (m : Memory) : List Host.Cell → Memory
  | [] => m
  | (a, b) :: t => (m.setByte a b).putCells t

def Memory.putTags (m : Memory) : List Nat → Memory
  | [] => m
  | g :: t => (m.setTag g true).putTags t

def Memory.putPoison (m : Memory) : List Nat → Memory
  | [] => m
  | g :: t => (m.setPoison g true).putPoison t

/-- The part of memory in some ranges. -/
def Memory.part (m : Memory) (rs : List (Nat × Nat)) : Memory :=
  let inside := fun a => rs.any fun r => decide (r.1 ≤ a) && decide (a < r.1 + r.2)
  { cells := m.cells.filter fun c => inside c.1, tags := m.tags.filter fun g => inside (16 * g)
    poison := m.poison.filter fun g => inside (16 * g) }

/-- A part of memory laid over another. -/
def Memory.lay (m part : Memory) : Memory := ((m.putCells part.cells).putTags part.tags).putPoison part.poison

/-- What stands in a range of one place, moved to another; both begin at a granule. -/
def Memory.shift (m : Memory) (src dst n : Nat) : Memory :=
  let p := m.part [(src, n)]
  { cells := p.cells.map fun c => (c.1 - src + dst, c.2), tags := p.tags.map fun g => g - src / 16 + dst / 16
    poison := p.poison.map fun g => g - src / 16 + dst / 16 }

/-- A range of one place copied to another, tags and poison with it (R87). -/
def Memory.copy (m : Memory) (src dst n : Nat) : Memory := (m.zero dst n).lay (m.shift src dst n)

/-- A range without its tags. -/
def Memory.untag (m : Memory) (a n : Nat) : Memory :=
  { m with tags := m.tags.filter fun g => !(decide (a ≤ 16 * g) && decide (16 * g < a + n)) }

/-! ## The frame of a core (R216) -/

/-- Its parts in KiB, in the order of R216's table: trap frames, queues, engine queues, vector state, small state, accumulators, operand
memory, private memory, attention state. -/
def frameKib : CoreClass → List Nat
  | .array => [80, 4, 64, 33, 8, 1024, 2048, 1024, 0]
  | .attention => [80, 4, 64, 33, 8, 256, 512, 1024, 40]

def framePart (cls : CoreClass) (i : Nat) : Nat := 1024 * (frameKib cls).getD i 0
def framePartAt (cls : CoreClass) (i : Nat) : Nat := 1024 * ((frameKib cls).take i).sum

/-- Bytes from one frame of the area to the next: an array core's frame (log 71). -/
def frameStride : Nat := 1024 * (frameKib .array).sum

/-- Columns and rows of the accumulator store (R15). -/
def accShape : CoreClass → Nat × Nat
  | .array => (1024, 256)
  | .attention => (512, 128)

/-- The accumulators, row by row. -/
def accBytes (cls : CoreClass) (k : Core) : List Byte :=
  (List.range (accShape cls).2).flatMap fun r => (List.range (accShape cls).1).flatMap fun c => toBytes 4 (k.accAt r c).toNat

/-- The vector registers, v0 first. -/
def vectorBytes (k : Core) : List Byte := (List.range 64).flatMap fun r => toBytes 512 (Tbl.get 0 k.v r).toNat

/-- A core's private memory and operand memory, as places, parts of the frame and lengths. -/
def savedParts (core : Nat) : List (Nat × Nat × Nat) :=
  [(privAt core 0, framePartAt (classOf core) 7, 2 ^ 20), (slotAt core 0 0, framePartAt (classOf core) 6, framePart (classOf core) 6)]

def savedRanges (core : Nat) : List (Nat × Nat) := (savedParts core).map fun p => (p.1, p.2.2)

def Memory.putBack (m : Memory) (core : Nat) (old : Memory) : Memory :=
  ((savedRanges core).foldl (fun m r => m.zero r.1 r.2) m).lay old

/-- Bytes of a part whose layout the spec does not give (log 71). -/
def freePart (m : Memory) (a n ctr : Nat) : Memory := m.write a ((List.range n).map (Config.frameByte ctr))

/-- One core's frame is written at a place of HBM. -/
def saveFrame (s : State) (k core base : Nat) : State :=
  let cls := classOf core
  let e := s.core core
  let c := s.cons k
  let at_ := fun i => hbmAt (base + framePartAt cls i)
  let trapFrame := fun (s : State) (q : SeqId) (off : Nat) =>
    let ls := (c.latches ++ c.parked).filter fun l => l.core == core && l.seq == q && !l.isTok
    let list := (c.relist.filter fun r => r.1 == core && r.2.1 == q).map fun r => r.2.2
    { s with mem := (writeFrameAt s core q c.ttc ls list (at_ 0 + off)).1 }
  let s := trapFrame (trapFrame s .as 0) .xs 0xA000
  let m := s.mem
  let m := freePart m (at_ 1) (framePart cls 1) s.freeCtr
  let m := freePart m (at_ 2) (framePart cls 2) (s.freeCtr + 1)
  let m := m.write (at_ 3) (vectorBytes e)
  let m := freePart m (at_ 3 + 2 ^ 15) 1024 (s.freeCtr + 2)
  let m := freePart m (at_ 4) (framePart cls 4) (s.freeCtr + 3)
  let m := m.write (at_ 5) (accBytes cls e)
  let m := (savedParts core).foldl (fun m p => m.copy p.1 (hbmAt (base + p.2.1)) p.2.2) m
  { s with mem := freePart m (at_ 8) (framePart cls 8) (s.freeCtr + 4), freeCtr := s.freeCtr + 5 }

/-- The frame of a core that is in reset: zero (R222). -/
def zeroFrame (s : State) (core base : Nat) : State :=
  { s with mem := s.mem.zero (hbmAt base) (1024 * (frameKib (classOf core)).sum) }

/-- Places of frames in a partition's context area, without those that saved cars hold (log 71). -/
def freeFrames (s : State) (part : BitVec 5) : List Nat :=
  let (a, n) := (s.part part).grant.context
  let from_ := (a + 15) / 16 * 16
  let used := (s.disp.saved.filter fun v => v.consist.part == part).flatMap fun v => v.frames
  ((List.range ((n - (from_ - a)) / frameStride)).map fun i => from_ + i * frameStride).filter fun b => !used.contains b

/-- The frames of a consist are written (R216); a core in reset has its part zero (R222). Answers their places: none where the area has no
room. -/
def saveFrames (s : State) (k : Nat) (lost : Nat → Bool) : State × List Nat :=
  let c := s.cons k
  let places := (freeFrames s c.part).take c.cores.length
  if places.length < c.cores.length then (s, [])
  else ((c.cores.zip places).foldl (fun s p => if lost p.1 then zeroFrame s p.1 p.2 else saveFrame s k p.1 p.2) s, places)

/-- A core's saved memory: what stands in the context area, or the model's own copy where the area had no room. -/
def Saved.memory (s : State) (v : Saved) (i core : Nat) : Memory :=
  match v.frames[i]? with
  | some base =>
    let ps := (savedParts core).map fun p => s.mem.shift (hbmAt (base + p.2.1)) p.1 p.2.2
    ps.foldl Memory.lay ⟨[], [], []⟩
  | none => v.mems.getD i ⟨[], [], []⟩

/-- The handles of the frames have moved: no tag stays behind (R86). -/
def Saved.clearFrames (s : State) (v : Saved) : State :=
  { s with mem := v.frames.foldl (fun m b => m.untag (hbmAt b) frameStride) s.mem }

end Sys2Proof.Machine
end

