-- ==== Sys2Proof/Machine/Trains.lean ====
section
/-! DEFINITION. The dispatcher's trains: launch packets (R25-R31, R348, R349), placement (R32, R53, R54, R235), cars (R33-R36, R346),
aborts (R221) and saved cars that come back (R217); and the events LAUNCH_PACKET, CORES_OFFERED, CAR_COMPLETE, CONTEXT_RESTORE,
ABORT_TIMER and HALT_ABORT. -/
namespace Sys2Proof.Machine
open Sys2Proof

/-! ## Descriptors (R55) -/

def descEnabled (d : Word64) : Bool := d.getLsbD 63
def descMin (d : Word64) : CoreClass → Nat
  | .array => (d.extractLsb' 48 8).toNat
  | .attention => (d.extractLsb' 32 8).toNat
def descMax (d : Word64) : CoreClass → Nat
  | .array => (d.extractLsb' 40 8).toNat
  | .attention => (d.extractLsb' 24 8).toNat
def descTarget (d : Word64) : Nat := (d.extractLsb' 0 16).toNat

/-- Cores per die, dies and cores of a class (R26). -/
def classCores : CoreClass → Nat
  | .array => 4
  | .attention => 8
def classDies : CoreClass → Nat
  | .array => 24
  | .attention => 8
def classTotal (c : CoreClass) : Nat := classCores c * classDies c

/-- The cores of a partition are to be offered (R53). -/
def State.offer (s : State) (part : BitVec 5) : State :=
  if s.disp.offer.contains part then s else { s with disp := { s.disp with offer := s.disp.offer ++ [part] } }

def State.setTrains (s : State) (ts : List Train) : State := { s with disp := { s.disp with trains := ts } }
def State.train? (s : State) (part : BitVec 5) (num : BitVec 15) : Option Train :=
  s.disp.trains.find? fun t => t.part == part && t.num == num
def State.modTrain (s : State) (part : BitVec 5) (num : BitVec 15) (f : Train → Train) : State :=
  s.setTrains (s.disp.trains.map fun t => if t.part = part ∧ t.num = num then f t else t)
def State.trainsOf (s : State) (part : BitVec 5) : List Train := s.disp.trains.filter fun t => t.part == part

/-! ## Launch packets (R26, R28-R31) -/

/-- A doubleword of a packet. -/
def pkt (p : List Word64) (i : Nat) : Word64 := p.getD i 0

def pktPart (p : List Word64) : BitVec 5 := (pkt p 0).extractLsb' 48 5
def pktClass (p : List Word64) : CoreClass := if (pkt p 0).getLsbD 47 then .attention else .array
def pktC (p : List Word64) : Nat := ((pkt p 0).extractLsb' 43 4).toNat + 1
def pktE (p : List Word64) : Nat := ((pkt p 0).extractLsb' 38 5).toNat + 1
def pktOverlay (p : List Word64) : BitVec 16 := (pkt p 1).extractLsb' 48 16
def pktLoop (p : List Word64) : Nat := ((pkt p 1).extractLsb' 40 8).toNat
def pktFirst (p : List Word64) : Nat := ((pkt p 2).extractLsb' 32 32).toNat
def pktCount (p : List Word64) : Nat := ((pkt p 2).extractLsb' 0 32).toNat
/-- The predecessors that are marked valid. -/
def pktPreds (p : List Word64) : List (BitVec 15) :=
  ([48, 32, 16, 0].filter fun o => (pkt p 3).getLsbD (o + 15)).map fun o => (pkt p 3).extractLsb' o 15
/-- The partition vector. -/
def pktVec (p : List Word64) : List Nat :=
  (List.range 32).map fun i => ((pkt p (8 + i / 4)).extractLsb' (16 * (i % 4)) 16).toNat

/-- Version and reserved fields. -/
def pktOk (p : List Word64) : Bool :=
  (pkt p 0).extractLsb' 56 8 == 1 && (pkt p 0).extractLsb' 32 6 == 0 && (pkt p 1).extractLsb' 0 40 == 0 &&
  (pkt p 6).extractLsb' 2 62 == 0 && pkt p 7 == 0

/-- Levels of a loop table: kind and extent. -/
def loopLevels (t : List Word64) : List (Nat × Nat) :=
  ((t.drop 1).take ((t.headD 0).extractLsb' 60 4).toNat).map fun w => ((w.extractLsb' 62 2).toNat, (w.extractLsb' 0 32).toNat)

/-- A loop table that is valid for c cores per die (R29, R30). -/
def loopOk (t : List Word64) (c : Nat) : Bool :=
  let n := ((t.headD 0).extractLsb' 60 4).toNat
  let ls := loopLevels t
  let kinds := ls.map Prod.fst
  decide (1 ≤ n ∧ n ≤ 4 ∧ ls.length = n) && (t.headD 0).extractLsb' 0 60 == 0 &&
  ((t.drop 1).take n).all (fun w => w.extractLsb' 32 30 == 0) &&
  ls.all (fun l => l.1 != 3 && l.2 != 0 && (l.1 != 1 || l.2 == c)) &&
  decide (kinds.count 1 ≤ 1 ∧ kinds.count 2 ≤ 1)

/-- Whether the partition vector fits the loop table (R31). -/
def vecOk (t : List Word64) (vec : List Nat) (e : Nat) : Bool :=
  match (loopLevels t).find? fun l => l.1 == 2 with
  | some l => (vec.take e).sum == l.2 && (vec.drop e).all (· == 0)
  | none => vec.all (· == 0)

/-- Whether a packet's submitter belongs to a partition. -/
def submitterIn (s : State) (by_ : Submitter) (part : BitVec 5) : Bool :=
  match by_ with
  | .host vf _ _ => vf == part
  | .core core _ => (s.core core).part == some part
  | .record r => r.part == part

/-- Incomplete trains that a partition may hold (R28). -/
def maxTrains : Nat := 4096

/-- The dispatcher's check of a packet, in the order of R28: the code. -/
def launchCode (s : State) (by_ : Submitter) (p : List Word64) : BitVec 8 :=
  let part := pktPart p
  let cls := pktClass p
  let c := pktC p
  let e := pktE p
  let desc := (s.part part).desc
  let o := s.overlay? part (pktOverlay p)
  let table := (o.map fun o => o.loops.getD (pktLoop p) []).getD []
  if (match by_ with | .host _ _ v => v | _ => false) then 0x0B
  else if !pktOk p then 0x01
  else if !descEnabled desc || !submitterIn s by_ part then 0x02
  else if classCores cls < c ∨ 32 < c * e ∨ classDies cls < e then 0x03
  else if descMax desc cls < c * e then 0x04
  else if o.isNone then 0x05
  else if (o.bind Overlay.shape).any (fun sh => sh != (cls, c, e)) then 0x0A
  else if !loopOk table c then 0x06
  else if !vecOk table (pktVec p) e then 0x07
  else if pktCount p = 0 ∨ 2 ^ 32 < pktFirst p + pktCount p then 0x08
  else if maxTrains ≤ (s.trainsOf part).length then 0x09
  else 0

/-- The next train number of a partition that no incomplete train has (R27). -/
def freeNumber (s : State) (part : BitVec 5) : Nat → Nat → Nat
  | 0, n => n
  | fuel + 1, n => if (s.train? part (BitVec.ofNat 15 n)).isSome then freeNumber s part fuel (n + 1) else n

/-- A packet becomes a train. -/
def acceptTrain (s : State) (p : List Word64) : State × BitVec 15 :=
  let part := pktPart p
  let pp := s.part part
  let n := freeNumber s part maxTrains pp.nextNum
  let num := BitVec.ofNat 15 n
  let table := ((s.overlay? part (pktOverlay p)).map fun o => o.loops.getD (pktLoop p) []).getD []
  let t : Train :=
    { num := num, part := part, prio := ((pkt p 0).extractLsb' 53 3).toNat, cls := pktClass p, c := pktC p, e := pktE p
      tag := (pkt p 0).extractLsb' 0 32, overlay := pktOverlay p, loops := table, first := pktFirst p, count := pktCount p
      preds := (pktPreds p).filter fun n => (s.train? part n).isSome, arg := pkt p 4, cell := pkt p 5
      notifyTrain := (pkt p 6).getLsbD 1, notifyCar := (pkt p 6).getLsbD 0, vec := pktVec p, taken := 0, done := 0
      seqNo := s.disp.accepted, aborted := false }
  let s := { s with disp := { s.disp with trains := s.disp.trains ++ [t], accepted := s.disp.accepted + 1 } }
  ((s.setPart part { pp with nextNum := (n + 1) % 2 ^ 15 }).offer part, num)

/-- The status word goes to its submitter (R25, R317). -/
def launchStatus (s : State) (by_ : Submitter) (part : BitVec 5) (code : BitVec 8) (num : BitVec 15) : State :=
  let st : Word64 := code.setWidth 64 <<< 56 ||| num.setWidth 64
  match by_ with
  | .core core latch => s.modLatch core latch fun l => { l with eff := l.eff.withWord st, back := some s.clk }
  | .host vf i _ =>
    let a := hostAt vf.toNat (((s.part vf).qbase.extractLsb' 12 52).toNat * 2 ^ 12 + 256 * i)
    { s with mem := (s.mem.write64 (a + 0x80) st).write64 (a + 0x88) 1 }
  | .record r =>
    let _ := part
    if code = 0 then s else s.exception { r with f := r.f.set 15 ((r.f.getD 15 0 &&& 0xFFFFFF00) ||| code.setWidth 32) } 6

/-- Entries of a host launch queue (R316). -/
def queueSize (qbase : Word64) : Nat := 2 ^ (qbase.extractLsb' 0 4).toNat

/-- The packet next in order of arrival, a DLAUNCH before the others of its cycle (R349). -/
def nextLaunch (s : State) : Option LaunchReq :=
  let due := s.disp.launches.filter fun r => decide (r.at_ ≤ s.clk)
  due.foldl (fun best r =>
    match best with
    | none => some r
    | some b =>
      let core : Bool := match r.by_, b.by_ with | .core .., .core .. => false | .core .., _ => true | _, _ => false
      if r.at_ < b.at_ ∨ (r.at_ = b.at_ ∧ core) then some r else some b) none

/-- The packet of a request, with the valid bit its entry has (R317). -/
def readLaunch (s : State) (r : LaunchReq) : LaunchReq :=
  match r.by_ with
  | .host vf i _ =>
    let a := hostAt vf.toNat (((s.part vf).qbase.extractLsb' 12 52).toNat * 2 ^ 12 + 256 * i)
    { r with by_ := .host vf i ((s.mem.read64 (a + 0x88)).getLsbD 0), packet := (List.range 16).map fun j => s.mem.read64 (a + 8 * j) }
  | _ => r

def removeFirst (r : LaunchReq) : List LaunchReq → List LaunchReq
  | [] => []
  | x :: t => if x = r then t else x :: removeFirst r t

/-- LAUNCH_PACKET: the dispatcher checks a packet and accepts or rejects it (R25-R31). -/
def launchPacketStep (s : State) : State :=
  match nextLaunch s with
  | none => s
  | some r0 =>
    let s := { s with disp := { s.disp with launches := removeFirst r0 s.disp.launches } }
    let r := readLaunch s r0
    let s := match r.by_ with
      | .host vf i _ => s.setPart vf { s.part vf with head := (i + 1) % queueSize (s.part vf).qbase }
      | _ => s
    let code := launchCode s r.by_ r.packet
    if code = 0 then
      let (s, num) := acceptTrain s r.packet
      launchStatus s r.by_ (pktPart r.packet) 0 num
    else launchStatus s r.by_ (pktPart r.packet) code 0

def execLaunchPacket (s : State) : Host.Outcome State Fault Refusal := .next (launchPacketStep s)

/-! ## Placement (R32, R235) -/

/-- Whether a die may hold a new consist: it runs, and it is not closed for heat (R241, R327). -/
def State.dieOpen (s : State) (d : Nat) : Bool :=
  (s.die d).state == .run && (s.die d).power == 0 && !s.disp.closed.contains d

/-- Whether a core of a partition holds no car. -/
def State.coreIdle (s : State) (part : BitVec 5) (core : Nat) : Bool :=
  let k := s.core core
  k.part == some part && k.consist.isNone && k.scrub.isNone && s.dieOpen (dieOf core)

/-- Whether a core of a partition may take a car: it holds none, and is not to move. -/
def State.coreFree (s : State) (part : BitVec 5) (core : Nat) : Bool := s.coreIdle part core && (s.core core).joins.isNone

/-- Cores of a class, in order. -/
def coresOfClass : CoreClass → List Nat
  | .array => List.range 96
  | .attention => (List.range 64).map (96 + ·)

/-- The bounding rectangle of dies: rows and columns (R235). -/
def rectOf (dies : List Nat) : (Nat × Nat) × (Nat × Nat) :=
  let sites := dies.map fun d => dieSites.getD d (0, 0)
  let lo := fun (l : List Nat) => l.foldl min 8
  let hi := fun (l : List Nat) => l.foldl max 0
  ((lo (sites.map Prod.fst), hi (sites.map Prod.fst)), (lo (sites.map Prod.snd), hi (sites.map Prod.snd)))

def overlap (a b : (Nat × Nat) × (Nat × Nat)) : Bool :=
  decide (a.1.1 ≤ b.1.2 ∧ b.1.1 ≤ a.1.2 ∧ a.2.1 ≤ b.2.2 ∧ b.2.1 ≤ a.2.2)

/-- The lane index a consist on these dies gets: none for one die; `none` where no index is free (R235). -/
def laneFor (s : State) (dies : List Nat) : Option (Option Nat) :=
  match dies with
  | _ :: _ :: _ =>
    let used := s.consists.filterMap fun e => match e.2.lane with
      | some l => if overlap (rectOf dies) (rectOf e.2.dies) then some l else none
      | none => none
    ((List.range 4).find? fun l => !used.contains l).map some
  | _ => some none

/-- Choosing n of the dies in rising order, the first set that passes. -/
def pickDies (ok : List Nat → Bool) : Nat → List Nat → List Nat → Option (List Nat)
  | 0, _, acc => if ok acc then some acc else none
  | _ + 1, [], _ => none
  | n + 1, d :: ds, acc =>
    match pickDies ok n ds (acc ++ [d]) with
    | some r => some r
    | none => pickDies ok (n + 1) ds acc

/-- The cores of a consist for a shape, and its lane index (R32, R235). -/
def place (s : State) (part : BitVec 5) (cls : CoreClass) (c e : Nat) (needs : List Word64) : Option (List Nat × Option Nat) :=
  let free := (coresOfClass cls).filter (s.coreFree part)
  let on := fun d => free.filter fun x => dieOf x == d
  let dies := (free.map dieOf).dedup.filter fun d => decide (c ≤ (on d).length)
  match pickDies (fun ds => needs.all (s.needOk ds) && (laneFor s ds).isSome) e dies [] with
  | some ds => some (ds.flatMap fun d => (on d).take c, (laneFor s ds).getD none)
  | none => none

def placeTrain (s : State) (t : Train) : Option (List Nat × Option Nat) :=
  match s.overlay? t.part t.overlay with
  | some o => place s t.part t.cls t.c t.e o.needs
  | none => none

/-- A ready train (R53). -/
def Train.ready (t : Train) : Bool := decide (t.taken < t.count) && t.preds.isEmpty && !t.aborted

/-- Whether the partition's descriptor can hold a train's shape (R58). -/
def State.fits (s : State) (t : Train) : Bool := decide (t.c * t.e ≤ descMax (s.part t.part).desc t.cls)

/-- The highest level that holds a ready train, and its ready trains in the order they are gone through (R53). -/
def readyTrains (s : State) (part : BitVec 5) : Nat × List Train :=
  let ready := (s.trainsOf part).filter Train.ready
  let top := ready.foldl (fun m t => max m t.prio) 0
  let level := ready.filter fun t => t.prio == top
  match (s.part part).lastSeq.find? fun e => e.1 == top with
  | some (_, last) => (top, (level.filter fun t => decide (last < t.seqNo)) ++ level.filter fun t => decide (t.seqNo ≤ last))
  | none => (top, level)

/-- The train that free cores go to, with its cores and its lane (R53). -/
def chooseTrain (s : State) (part : BitVec 5) : Option (Train × List Nat × Option Nat) :=
  (readyTrains s part).2.findSome? fun t => if s.fits t then (placeTrain s t).map fun p => (t, p) else none

/-! ## Cars (R33, R34, R346) -/

/-- A sequencer's registers at a car's start (R33, R335); a train's first car on the core sets the system registers too (R34). -/
def carSeq (q : SeqId) (arg : Word64) (newTrain : Bool) (sq : Seq) : Seq :=
  let r := Seq.reset q
  let sq := if newTrain then { sq with tvec := 0, tframe := 0, stbase := r.stbase, stlimit := r.stlimit } else sq
  { sq with
    s := Tbl.set (Tbl.set (Tbl.set [] 1 arg) 62 sq.stbase) 63 sq.stbase, p := 0, h := [], b := [], saved := none }

/-- lvlidx of a core at position q (R30). -/
def carLevel (tr : Train) (q k : Nat) : BitVec 32 :=
  match (loopLevels tr.loops)[k]? with
  | some (1, _) => BitVec.ofNat 32 (q % tr.c)
  | some (2, _) => BitVec.ofNat 32 (tr.vec.take (q / tr.c)).sum
  | _ => 0

/-- A core's state at the start of a car, at position q (R33, R34, R340, R356, R374). A car of another train than the one the core ran
last is that train's first car on it (log 88). -/
def carCore (tr : Train) (k : Nat) (car : BitVec 32) (fresh : Bool) (t q : Nat) (e : Core) : Core :=
  let new := e.lastTrain != some tr.seqNo
  let e := if new then { e with
      g := [], heapbase := 0, heaplimit := 0, heapoffset := 0, npd := 0, trcctl := 0, timer := 0, armed := false } else e
  let e := if fresh then { e with
      slots := e.slots.map fun p => (p.1, { p.2 with since := t })
      eng := e.eng.map fun p => (p.1, p.2.map fun x => { x with issued := 0 })
      trace := { e.trace with last := t }, satAt := none } else e
  { e with
    as := carSeq .as tr.arg new e.as, xs := carSeq .xs tr.arg new e.xs, masks := [BitVec.allOnes 128], m := [], x := []
    dq := [], hq := [], hqHeld := 0, carid := car, lvl := (List.range 4).map fun l => (l, carLevel tr q l)
    lastTrain := some tr.seqNo, consist := some k, frozen := none, deaf := [] }

/-- A consist begins a car at its TTC (R33, R346). -/
def startCar (s : State) (k : Nat) (tr : Train) (car : BitVec 32) (fresh : Bool) : State :=
  let c := s.cons k
  let t := c.ttc
  let s := s.setCons k { c with car := car, overlay := tr.overlay, mode := .run, next := none, firstTtc := t, preempt := false }
  match s.overlay? tr.part tr.overlay with
  | none => s
  | some o =>
    let s := (c.cores.zip (List.range 160)).foldl (fun s p =>
      startOverlay (traceEvent (s.modCoreAt p.1 (carCore tr k car fresh t p.2)) p.1 7 0 car.toNat t) p.1 o t) s
    enterSections s k

/-- A train gives its lowest untaken car away. -/
def takeCar (s : State) (tr : Train) : State × BitVec 32 :=
  let p := s.part tr.part
  ((s.modTrain tr.part tr.num fun t => { t with taken := t.taken + 1 }).setPart tr.part
    { p with lastSeq := Tbl.set p.lastSeq tr.prio tr.seqNo }, BitVec.ofNat 32 (tr.first + tr.taken))

/-- A consist is formed and begins a train's next car (R32, R33). -/
def formConsist (s : State) (tr : Train) (cores : List Nat) (lane : Option Nat) : State :=
  let (s, car) := takeCar s tr
  let k := s.nextId
  let c : Consist := { Consist.reset with
    cores := cores, cls := tr.cls, c := tr.c, e := tr.e, part := tr.part, train := tr.num, lane := lane }
  let got := fun (v : Saved) => if v.consist.part = tr.part ∧ v.yields = some tr.num then { v with yields := none } else v
  let s := { s with disp := { s.disp with saved := s.disp.saved.map got } }
  startCar ({ s with nextId := k + 1 }.setCons k c) k tr car true

/-- PTC cycles of a scrub: 48 µs (R57). -/
def scrubTime : Nat := 62400

/-- Whether a core holds part of a saved car's context. -/
def claimed (s : State) (core : Nat) : Bool := s.disp.saved.any fun v => v.consist.cores.contains core

/-- A core that is to move begins its scrub once it holds no car, and no part of a saved one (R56, R57). -/
def beginScrub (s : State) (core : Nat) : State :=
  let k := s.core core
  if k.joins.isSome && k.consist.isNone && k.scrub.isNone && !claimed s core then
    s.setCore core { k with scrub := some (s.ptc + scrubTime) }
  else s

/-- A consist dissolves: its cores are free, and those that move begin their scrub (R35, R56). -/
def dissolve (s : State) (k : Nat) : State :=
  let c := s.cons k
  let idle := fun (q : Seq) => { q with at_ := Place.idle, saved := none }
  let s := c.cores.foldl (fun s x => s.modCoreAt x fun e =>
    { e with as := idle e.as, xs := idle e.xs, consist := none, gates := [], irq := e.irq.filter fun p => p.1 != 1 }) s
  c.cores.foldl beginScrub { s with consists := s.consists.filter fun e => e.1 != k }

/-! ## Completion (R35, R36) -/

/-- A core number that names no core: operations of the dispatcher. -/
def dispatcherCore : Nat := 160

/-- The completion cell's addition leaves the dispatcher (R36). -/
def completionAdd (s : State) (t : Train) (v : Word64) : State :=
  let n := t.cell.toNat / 8
  if t.cell = 0 ∨ 640 ≤ porterOf n then s
  else
    let r : PorterReq :=
      { id := s.nextId, core := dispatcherCore, seq := .as, syll := 0, part := t.part, op := .add, cell := n, v := v, v2 := 0, w := 0
        w2 := 0, cap := nullCap, links := 0, arrival := none, latches := [], entry := none
        at_ := s.clk + s.dist hDie (dieOfPorter (porterOf n)) + 4 }
    { s with nextId := s.nextId + 1, stores := { s.stores with cellInbox := s.stores.cellInbox ++ [r] } }

/-- The host is notified (R318). -/
def State.notify (s : State) (part : BitVec 5) (vec : Nat) : State :=
  s.setPart part { s.part part with msix := (s.part part).msix ++ [vec] }

/-- The shuttle channels a train left open are closed (R261). -/
def closeChannels (s : State) (part : BitVec 5) (num : BitVec 15) : State :=
  (coreIds s).foldl (fun s x => (s.core x).shRx.foldl (fun s e =>
    if e.2.owner = (part, num) then s.closeRx x (BitVec.ofNat 4 e.1) else s) s) s

/-- TRAIN_COMPLETE (R36): its cell, its notification, its successors. -/
def completeTrain (s : State) (t : Train) (v : Word64) : State :=
  let s := completionAdd s t v
  let s := if t.notifyTrain then s.notify t.part 0 else s
  let s := closeChannels s t.part t.num
  let rest := (s.disp.trains.filter fun x => !(x.part == t.part && x.num == t.num)).map fun x =>
    if x.part = t.part then { x with preds := x.preds.filter fun n => n != t.num } else x
  (s.setTrains rest).offer t.part

/-- Counted handles left in h0-h30 at the end of a car go home; the other capabilities stay until the next car (R33, R86). -/
def dropHandles (s : State) (core : Nat) : State :=
  let k := s.core core
  let hs := k.as.h.map Prod.snd ++ k.xs.h.map Prod.snd
  let kept := fun (q : Seq) => { q with h := q.h.filter fun p => !p.2.counted }
  hs.foldl (fun s c => s.dropWeight core c) (s.setCore core { k with as := kept k.as, xs := kept k.xs })

/-! ## Saved cars (R54, R217) -/

/-- Whether a saved car's cores are still for the train it was saved for: that train is ready, and has not got them (R54, log 24). -/
def Saved.waits (s : State) (v : Saved) : Bool :=
  match v.yields with
  | some n => (s.train? v.consist.part n).any Train.ready
  | none => false

/-- Whether a saved car may be restored now: its cores hold no car, and for a major fault it has been resumed. A core that is to move
takes it back first (R56). -/
def Saved.restorable (s : State) (v : Saved) : Bool :=
  v.consist.cores.all (s.coreIdle v.consist.part) && (v.major.isNone || v.resumed) && (laneFor s v.consist.dies).isSome && !v.waits s

def restorable (s : State) (part : BitVec 5) : Option Saved :=
  s.disp.saved.find? fun v => v.consist.part == part && v.restorable s

/-! ## CAR_COMPLETE (R35) -/

/-- The car's handles and counts; the train, if it is still incomplete. -/
def carEnds (s : State) (k : Nat) : State × Option Train :=
  let c := s.cons k
  let s := c.cores.foldl dropHandles s
  let p := s.part c.part
  let s := s.setPart c.part { p with counted := p.counted + 1 }
  match s.train? c.part c.train with
  | none => (s, none)
  | some t =>
    let s := if t.notifyCar then s.notify c.part 1 else s
    let t := { t with done := t.done + 1 }
    let s := s.modTrain c.part c.train fun _ => t
    if t.done = t.count then (completeTrain s t 1, none) else (s, some t)

/-- CAR_COMPLETE: the consist goes on with its train, or dissolves (R35). -/
def carComplete (s : State) (k : Nat) : State :=
  let c := s.cons k
  let (s, left) := carEnds s k
  let gone := (dissolve s k).offer c.part
  match left with
  | none => gone
  | some t =>
    if c.cores.any (fun x => (s.core x).joins.isSome) || (restorable gone c.part).isSome || !c.cores.all (fun x => s.dieOpen (dieOf x)) then gone
    else match chooseTrain gone c.part with
      | some (u, _) =>
        if u.num = t.num then
          let (s, car) := takeCar (s.offer c.part) t
          let s := s.modCoreAt c.lead fun e => { e with irq := e.irq.filter fun p => p.1 != 1 }
          startCar s k t car false
        else gone
      | none => gone

def execCarComplete (consist : Nat) (s : State) : Host.Outcome State Fault Refusal := .next (carComplete s consist)

/-! ## Pre-emption (R54) -/

/-- Running cars of lower priority, the lowest priority first, the youngest train first among equals; with their trains. -/
def insertVictim (v : Nat × Train) : List (Nat × Train) → List (Nat × Train)
  | [] => [v]
  | x :: xs =>
    if v.2.prio < x.2.prio ∨ (v.2.prio = x.2.prio ∧ x.2.seqNo < v.2.seqNo) then v :: x :: xs else x :: insertVictim v xs

def victims (s : State) (part : BitVec 5) (prio : Nat) (cls : CoreClass) : List (Nat × Train) :=
  (s.consists.filterMap fun e =>
    if e.2.part = part ∧ e.2.cls = cls ∧ !e.2.preempt then
      match s.train? part e.2.train with
      | some t => if t.prio < prio then some (e.1, t) else none
      | none => none
    else none).foldl (fun l v => insertVictim v l) []

/-- The state as it would be without some consists. -/
def without (s : State) (ks : List Nat) : State := ks.foldl dissolve s

/-- The shortest run of candidates whose cores make a place. -/
def enough (ok : List Nat → Bool) : List Nat → List Nat → Option (List Nat)
  | got, [] => if ok got then some got else none
  | got, k :: ks => if ok got then some got else enough ok (got ++ [k]) ks

/-- Candidates that are not needed are left out. -/
def trim (ok : List Nat → Bool) : List Nat → List Nat → List Nat
  | keep, [] => keep
  | keep, k :: ks => if ok (keep ++ ks) then trim ok keep ks else trim ok (keep ++ [k]) ks

/-- PRE_EMPTION_REQUEST: a running car is to be saved for a train. -/
def requestSave (t : Train) (s : State) (k : Nat) : State :=
  (s.setCons k { s.cons k with preempt := true, preemptFor := some t.num }).raiseIrq (s.cons k).lead 1 (s.clk + s.dist hDie cDie)

/-- Pre-emption for one train: as few running cars of lower priority as it needs. `v` is the state as it will be for it: without the cars
that are being saved, and with the cores that earlier trains are to get taken. -/
def preempt (acc : State × State) (t : Train) : State × State :=
  let take := fun (v : State) (p : List Nat × Option Nat) => p.1.foldl (fun v x => v.modCoreAt x fun e => { e with consist := some 0 }) v
  let (s, v) := acc
  match placeTrain v t with
  | some p => (s, take v p)
  | none =>
    let ok := fun (ks : List Nat) => (placeTrain (without v ks) t).isSome
    match enough ok [] ((victims v t.part t.prio t.cls).map Prod.fst) with
    | none => (s, v)
    | some ks =>
      let ks := trim ok [] ks
      let w := without v ks
      (ks.foldl (requestSave t) s, match placeTrain w t with | some p => take w p | none => w)

/-- Pre-emption requests for the ready trains that find no cores, in the order of R53 (R54). -/
def preemptAll (s : State) (ts : List Train) : State :=
  let gone := s.consists.filter fun e => e.2.preempt || e.2.mode == .saving
  (ts.foldl preempt (s, without s (gone.map Prod.fst))).1

/-- A shape that the descriptor can no longer hold is logged once (R58). -/
def logMismatch (s : State) (part : BitVec 5) : State :=
  let p := s.part part
  if !p.mismatch && (s.trainsOf part).any fun t => t.ready && !s.fits t then (s.setPart part { p with mismatch := true }).refuse 0 part
  else s

/-- A train for which cars were saved, and that their cores now go to (R54, log 24). -/
def awaitedTrain (s : State) (part : BitVec 5) : Option (Train × List Nat × Option Nat) :=
  s.disp.saved.findSome? fun v =>
    if v.consist.part = part && v.waits s then
      (v.yields.bind (s.train? part)).bind fun t => (placeTrain s t).map fun p => (t, p)
    else none

/-- CORES_OFFERED (R53): a consist for a train that cars were saved for, or for the first train that can be placed; while none can,
pre-emption requests (R54). -/
def coresOffered (s : State) (part : BitVec 5) : State :=
  let s := logMismatch s part
  match (awaitedTrain s part).orElse fun _ => chooseTrain s part with
  | some (t, cores, lane) => formConsist s t cores lane
  | none =>
    preemptAll { s with disp := { s.disp with offer := s.disp.offer.filter fun p => p != part } } ((readyTrains s part).2.filter s.fits)

def execCoresOffered (part : BitVec 5) (s : State) : Host.Outcome State Fault Refusal := .next (coresOffered s part)

/-! ## CONTEXT_RESTORE (R217) -/

/-- A core with its saved state: what the save does not hold stays as it is now, and no return record has a copy (R386). -/
def restoreCore (now : Core) (img : Core) (k : Nat) : Core :=
  { img with
    part := now.part, joins := now.joins, tlb := now.tlb, pages := now.pages, walks := now.walks, egress := now.egress, egressMark := now.egressMark
    arrivals := now.arrivals, shTx := now.shTx, shRx := now.shRx, dieBits := now.dieBits, pkgBits := now.pkgBits
    remoteOut := now.remoteOut, irq := now.irq, frozen := none, consist := some k, scrub := none
    as := { img.as with retRecs := [] }
    xs := { img.xs with retRecs := [] }
    eng := img.eng.map fun q => (q.1, q.2.map fun e => { e with stuck := false, started := false, moved := 0 }) }

/-- A result whose access met the major fault is fetched again. -/
def refetch (f : FaultRec) (l : Latch) : Latch :=
  let hit := (match l.err with | some e => e.cls == .majorTrans | none => false) ||
    (l.pend && l.core == f.core && l.seq == f.seq && l.syll == f.syll && l.defer.isSome)
  if hit then { l with err := none, pend := false, missAt := none, cause := some (causeBit 1) } else l

/-- A saved car comes back onto its cores (R217). -/
def restore (s : State) (v : Saved) : State :=
  let k := s.nextId
  let s := { s with nextId := k + 1, disp := { s.disp with saved := s.disp.saved.filter fun x => !decide (x = v) } }
  let c := v.consist
  let s := v.clearFrames ((c.cores.zip (v.image.zip (List.range 32))).foldl (fun s p =>
    { s with mem := s.mem.putBack p.1 (v.memory s p.2.2 p.1) }.modCoreAt p.1 fun now => restoreCore now p.2.1 k) s)
  let latches := match v.major with | some f => c.latches.map (refetch f) | none => c.latches
  let relist := match v.major, c.relist with
    | some f, (_, _, g) :: rest => if g.cls = f.cls ∧ g.syll = f.syll then rest else c.relist
    | _, l => l
  let s := s.setCons k { c with
    latches := latches, relist := relist, saveFor := none, lane := (laneFor s c.dies).getD none, preempt := false, preemptFor := none
    mode := .reentry none }
  let s := lookLatches s k
  if relist.isEmpty then resumeRun s k else s

def contextRestore (s : State) (part : BitVec 5) (train : BitVec 15) (car : BitVec 32) : State :=
  match s.disp.saved.find? fun v => v.consist.part == part && v.consist.train == train && v.consist.car == car && v.restorable s with
  | some v => restore s v
  | none => s

def execContextRestore (part : BitVec 5) (train : BitVec 15) (car : BitVec 32) (s : State) : Host.Outcome State Fault Refusal :=
  .next (contextRestore s part train car)

/-! ## TRAIN_ABORT (R221) -/

/-- The counted handle a result in flight carries. -/
def Effect.handles : Effect → List Cap
  | .setH _ c => [c]
  | .fillH _ (.val c) => [c]
  | .returnHq c => [c]
  | .drop c => [c]
  | .storeCap _ _ _ c => [c]
  | _ => []

/-- The handle registers of a sequencer without those whose handles its trap frame holds, while a handler runs (R86, R208). -/
def Seq.handles (m : Memory) (core : Nat) (trapped : Bool) (q : Seq) : List Cap :=
  let at_ := fun (i : Nat) => privAt core (q.tframe.toNat + 0x300 + 16 * i)
  (q.h.filter fun p => !(trapped && m.readCap (at_ p.1) == p.2)).map Prod.snd

/-- The handles of a core's registers, queues and engine queues; those of its private memory, its trap frames among them, are told apart
(R221). -/
def Core.handles (k : Core) (m : Memory) (core : Nat) (trapped : Bool) : List Cap :=
  k.as.handles m core trapped ++ k.xs.handles m core trapped ++
  (k.hq.filterMap fun e => match e.v with | .val c => some c | _ => none) ++
  (k.eng.flatMap fun q => q.2.flatMap fun e => e.popped ++
    (match e.op with | .porter r _ => if r.op = .hxch then [r.cap] else []
                     | .lsend m .. => (match m.payload with | .handle c => [c] | _ => [])
                     | _ => [])) ++
  (k.mat.flatMap MatCmd.popped) ++ k.upds.map Upd.cap

/-- Tagged capabilities of a part of memory. -/
def Memory.caps (m : Memory) (a n : Nat) : List (Nat × Cap) :=
  (m.tags.filter fun g => decide (a ≤ 16 * g) && decide (16 * g + 16 ≤ a + n)).map fun g => (16 * g, m.readCap (16 * g))

/-- Dropping handles at a core. -/
def dropAll (s : State) (core : Nat) (cs : List Cap) : State := cs.foldl (fun s c => s.dropWeight core c) s

/-- The counted handles of private memory are dropped, and null capabilities stand in their places (R86, R221). -/
def dropPrivate (s : State) (core : Nat) : State :=
  ((s.mem.caps (privAt core 0) (2 ^ 20)).filter fun p => p.2.counted).foldl (fun s p =>
    { s with mem := s.mem.writeCap p.1 nullCap }.dropWeight core p.2) s

/-- A core whose car is gone holds nothing of it but what R33 carries over. -/
def emptyCore (k : Core) : Core :=
  { k with
    as := { k.as with h := [] }, xs := { k.xs with h := [] }, dq := [], hq := [], hqHeld := 0, eng := [], mat := [], upds := []
    marks := [], gates := [], sstep := none, astats := [], hReqs := [], polls := []
    attn := { k.attn with entry := none, waiting := none } }

/-- What a core of an aborted train holds goes home. -/
def abortCore (k : Nat) (s : State) (core : Nat) : State :=
  let c := s.cons k
  let mine := (c.latches ++ c.parked.filter fun l => l.place.isNone).filter fun l => decide (l.core = core)
  let e := s.core core
  let entries := e.eng.flatMap fun q => q.2.map EngEntry.id
  let posted := s.stores.cellInbox.filter fun r => !(r.core == core && r.op == .hxch && r.entry.any fun n => entries.contains n)
  let s := { s with stores := { s.stores with
    cellInbox := posted
    watches := s.stores.watches.map fun (w : Nat × List Watch) => (w.1, w.2.filter fun x => x.req.core != core) } }
  let s := s.setCore core (emptyCore e)
  (dropPrivate (dropAll s core (e.handles s.mem core c.trapT.isSome ++ mine.flatMap fun l => l.eff.handles)) core).sendAllKept core

/-- What a saved car of an aborted train holds goes home (R221). -/
def abortSaved (s : State) (v : Saved) : State :=
  let s := { s with disp := { s.disp with saved := s.disp.saved.filter fun x => !decide (x = v) } }
  let all := v.consist.latches ++ v.consist.parked.filter fun l => l.place.isNone
  let mems := (v.consist.cores.zip (List.range 32)).map fun p => v.memory s p.2 p.1
  let s := v.consist.cores.foldl beginScrub (v.clearFrames s)
  (v.consist.cores.zip (v.image.zip mems)).foldl (fun s p =>
    let caps := (p.2.2.caps (privAt p.1 0) (2 ^ 20)).map Prod.snd
    let s := (p.2.1.kept.filter fun m => match m.msg with | .weight _ => true | _ => false).foldl (State.sendKept p.1) s
    dropAll s p.1 (p.2.1.handles p.2.2 p.1 v.consist.trapT.isSome ++ caps ++ (all.filter fun l => decide (l.core = p.1)).flatMap fun l => l.eff.handles)) s

/-- TRAIN_ABORT: the train's handles go home, its cores are free, and it completes with bit 63 (R36, R221). -/
def abortTrain (s : State) (part : BitVec 5) (num : BitVec 15) (cls : Nat) (sub : BitVec 8) : State :=
  let ks := (s.consists.filter fun e => e.2.part == part && e.2.train == num).map Prod.fst
  let s := ks.foldl (fun s k => dissolve ((s.cons k).cores.foldl (abortCore k) s) k) s
  let s := (s.disp.saved.filter fun v => v.consist.part == part && v.consist.train == num).foldl abortSaved s
  let s := { s with disp := { s.disp with aborts := s.disp.aborts ++ [(part, num, cls, sub)] } }
  match s.train? part num with
  | some t => completeTrain s { t with aborted := true } (1#64 <<< 63)
  | none => s.offer part

def State.abortConsist (s : State) (k : Nat) (cls : Nat) (sub : BitVec 8) : State :=
  abortTrain s (s.cons k).part (s.cons k).train cls sub

/-- ABORT_TIMER (R219): a frozen car that nothing revived in 1 ms; the train reports the fatal fault (R220). -/
def abortTimer (s : State) (k : Nat) : State :=
  match (s.cons k).mode with
  | .frozen _ =>
    let f := (s.cons k).faults.headD FaultRec.zero
    s.abortConsist k f.code f.sub
  | _ => s

def execAbortTimer (consist : Nat) (s : State) : Host.Outcome State Fault Refusal := .next (abortTimer s consist)

/-- HALT_ABORT (R357): the train of a halted car is aborted. -/
def haltAbort (s : State) (k : Nat) : State :=
  match (s.cons k).mode with
  | .halted => s.abortConsist k FaultClass.software.code 0
  | _ => s

def execHaltAbort (consist : Nat) (s : State) : Host.Outcome State Fault Refusal := .next (haltAbort s consist)

/-! ## What is due -/

/-- What the dispatcher has to do: a saved car to restore, or cores to offer. -/
inductive OfferDue where
  | restore (v : Saved)
  | offer (part : BitVec 5)

/-- A saved car that may come back does so before its cores are offered (R54). -/
def dueOffer (s : State) : Option OfferDue :=
  match s.disp.offer with
  | [] => none
  | p :: _ => match restorable s p with
    | some v => some (.restore v)
    | none => some (.offer p)

end Sys2Proof.Machine
end

