-- ==== Sys2Proof/Machine/Contexts.lean ====
section
/-! DEFINITION. Context saves (R215-R218) and the host's side of the dispatcher (R316-R318): the events MAJOR_FAULT_SAVE, REVIVE, RESUME,
HOST_PAGING_COPY_RESUME, DOORBELL and QUEUE_BASE_WRITE. -/
namespace Sys2Proof.Machine
open Sys2Proof

/-! ## When a save may be written (R215) -/

/-- Whether a result in flight is one that the save waits for: a unit is bringing it. -/
def bringing (s : State) (l : Latch) : Bool :=
  let k := s.core l.core
  let waits := (k.gates.any fun g => g.latch == l.id) || (k.hReqs.any fun h => h.latches.contains l.id) ||
    (k.astats.any fun a => a.latch == l.id) || (k.eng.any fun q => q.2.any fun e => !e.started && e.latches.contains l.id)
  l.cause.isSome && !l.pend && !waits &&
    (l.arrive.isSome || l.back.isSome || l.missAt.isSome || l.defer.isNone)

/-- Whether a core has something running that performs before the save is written. -/
def coreBusy (s : State) (core : Nat) : Bool :=
  let k := s.core core
  (k.eng.any fun q => q.2.any fun e => e.started) || portLeaves s core || k.attn.entry.isSome || !k.upds.isEmpty || !k.remoteOut.isEmpty ||
  (s.stores.cellInbox.any fun r => r.core == core) || (s.tt.items.any fun o => decide (o.core = core) && o.item.isLeft) ||
  (k.shTx.any fun t => decide (t.2.flight ≠ 0) && (k.queue qShuttle).any fun e => e.started)

/-- Whether everything a save waits for has performed. -/
def saveReady (s : State) (k : Nat) : Bool :=
  let c := s.cons k
  !(c.cores.any (coreBusy s)) && !((c.latches ++ c.parked).any (bringing s))

/-- Watches of a consist that is being saved are lost (R176). -/
def saveWatched (s : State) (k : Nat) : Bool :=
  let c := s.cons k
  (s.stores.watches.any fun w => w.2.any fun x => c.cores.contains x.req.core) || c.cores.any fun x => !(s.core x).polls.isEmpty

/-! ## Fault notices (R218) -/

/-- The four doublewords of a notice. -/
def noticeWords (c : Consist) (f : FaultRec) (ptc : Nat) : List Word64 :=
  [BitVec.ofNat 64 (2 ^ 63 + c.train.toNat * 2 ^ 32 + c.car.toNat), f.tinfo, BitVec.ofNat 64 (bit f.write 1 + bit f.kv 0),
   BitVec.ofNat 64 ptc]

/-- The address of the next entry of a partition's host paging ring. -/
def ringEntry (s : State) (part : BitVec 5) : Nat :=
  hostAt part.toNat (((s.part part).paging.extractLsb' 12 52).toNat * 2 ^ 12 + 32 * ((s.part part).ring % 256))

/-- Whether the next entry is still valid. -/
def ringFull (s : State) (part : BitVec 5) : Bool := (s.mem.read64 (ringEntry s part)).getLsbD 63

/-- A notice is written: doublewords 1-3, then the one with the valid bit; the host is notified. -/
def writeNotice (s : State) (part : BitVec 5) (n : List Word64) : State :=
  let a := ringEntry s part
  let m := ((s.mem.write64 (a + 8) (n.getD 1 0)).write64 (a + 16) (n.getD 2 0)).write64 (a + 24) (n.getD 3 0)
  let s := { s with mem := m.write64 a (n.getD 0 0) }
  (s.setPart part { s.part part with ring := ((s.part part).ring + 1) % 256 }).notify part 3

/-- FAULT_NOTICE: the management cores' copy and interrupt at once, the host's copy in order, as its ring has room. -/
def giveNotice (s : State) (part : BitVec 5) (n : List Word64) : State :=
  let s := { s with disp := { s.disp with notices := s.disp.notices ++ [n], alarms := s.disp.alarms + 1 } }
  let p := s.part part
  if p.paging.extractLsb' 12 52 = 0 then s
  else if !p.held.isEmpty || ringFull s part then s.setPart part { p with held := p.held ++ [n] }
  else writeNotice s part n

/-- HOST_PAGING_COPY_RESUME: a held notice is written once its entry has been cleared. -/
def pagingCopy (s : State) (part : BitVec 5) : State :=
  let p := s.part part
  match p.held with
  | n :: rest => if ringFull s part then s else writeNotice (s.setPart part { p with held := rest }) part n
  | [] => s

def execHostPagingCopyResume (part : BitVec 5) (s : State) : Host.Outcome State Fault Refusal := .next (pagingCopy s part)

/-- A partition with a held notice that may be written now. -/
def duePaging (s : State) : Option (BitVec 5) :=
  (s.disp.parts.find? fun e => !e.2.held.isEmpty && !ringFull s (BitVec.ofNat 5 e.1)).map fun e => BitVec.ofNat 5 e.1

/-! ## The save (R216) -/

/-- The core once its context is in the context area: it holds no car. -/
def savedCore (k : Core) : Core := { emptyCore k with kept := [], v := k.v }

/-- MAJOR_FAULT_SAVE: the consist's context is written into the context area, its cores are free, and a major fault is reported. The saved
record holds beside it what the area has in no layout that the spec gives (log 71). -/
def majorFaultSave (s : State) (k : Nat) : State :=
  if saveWatched s k then s.loseWatches fun r => (s.cons k).cores.contains r.core
  else
    let c := s.cons k
    let (s, frames) := saveFrames s k fun _ => false
    let v : Saved :=
      { consist := { c with mode := .run, next := none, lane := none }, image := c.cores.map s.core, major := c.saveFor, resumed := false
        yields := c.preemptFor, ptc := s.ptc, frames := frames, mems := c.cores.map fun x => s.mem.part (savedRanges x) }
    let s := c.cores.foldl (fun s x => s.modCoreAt x savedCore) s
    let s := (dissolve { s with disp := { s.disp with saved := s.disp.saved ++ [v] } } k).offer c.part
    match c.saveFor with
    | some f => giveNotice s c.part (noticeWords c f s.ptc)
    | none => s

def execMajorFaultSave (consist : Nat) (s : State) : Host.Outcome State Fault Refusal :=
  .next (match (s.cons consist).mode with
    | .saving => majorFaultSave s consist
    | _ => s)

/-- Whether a save goes on now. -/
def dueSave (s : State) (k : Nat) : Bool := saveWatched s k || saveReady s k

/-- REVIVE (R219): a frozen car is turned into a context save. -/
def revive (s : State) (k : Nat) : State :=
  let c := s.cons k
  match c.mode with
  | .frozen _ =>
    let s := c.cores.foldl (fun s x => s.modCoreAt x fun e => { e with frozen := none }) s
    beginSave (s.setCons k { c with faults := [] }) k none
  | _ => s

def execRevive (consist : Nat) (s : State) : Host.Outcome State Fault Refusal := .next (revive s consist)

/-- RESUME (R218): the dispatcher walks the page again; the car becomes restorable, or a new notice is issued. -/
def resumeCar (s : State) (vf : BitVec 5) (value : BitVec 64) : State :=
  let train : BitVec 15 := value.extractLsb' 32 15
  let car : BitVec 32 := value.extractLsb' 0 32
  let named := fun (v : Saved) => v.consist.part == vf && v.consist.train == train && v.consist.car == car && v.major.isSome
  match s.disp.saved.find? named with
  | some v =>
    let f := v.major.getD FaultRec.zero
    match s.walk vf f.tinfo.toNat with
    | .leaf .. =>
      { s with disp := { s.disp with saved := s.disp.saved.map fun x => if named x then { x with resumed := true } else x } }.offer vf
    | _ => giveNotice s vf (noticeWords v.consist f v.ptc)
  | none => s.refuse 0x020 vf

def execResume (vf : BitVec 5) (value : BitVec 64) (s : State) : Host.Outcome State Fault Refusal := .next (resumeCar s vf value)

/-! ## Launch queues (R316, R317) -/

/-- Indices of a ring from a to b. -/
def ringFrom (size b : Nat) : Nat → Nat → List Nat
  | 0, _ => []
  | fuel + 1, a => if a = b then [] else a :: ringFrom size b fuel ((a + 1) % size)

/-- DOORBELL: entries up to the new tail are to be read. -/
def doorbell (s : State) (vf : BitVec 5) (value : BitVec 64) : State :=
  let p := s.part vf
  let tail := (value.extractLsb' 0 16).toNat
  let size := queueSize p.qbase
  if !descEnabled p.desc || decide (size < 16) || decide (size ≤ tail) then s.refuse 0x000 vf
  else
    let new := (ringFrom size tail size p.tail).map fun i =>
      ({ by_ := .host vf i false, packet := [], at_ := s.clk } : LaunchReq)
    { s with disp := { s.disp with launches := s.disp.launches ++ new } }.setPart vf { p with tail := tail }

def execDoorbell (vf : BitVec 5) (value : BitVec 64) (s : State) : Host.Outcome State Fault Refusal := .next (doorbell s vf value)

/-- QUEUE_BASE_WRITE: ignored and logged while head differs from tail; reserved bits are ignored. -/
def queueBase (s : State) (vf : BitVec 5) (value : BitVec 64) : State :=
  let p := s.part vf
  if p.head ≠ p.tail then s.refuse 0x008 vf else s.setPart vf { p with qbase := value &&& 0xFFFFFFFFFFFFF00F }

def execQueueBaseWrite (vf : BitVec 5) (value : BitVec 64) (s : State) : Host.Outcome State Fault Refusal :=
  .next (queueBase s vf value)

end Sys2Proof.Machine
end

