-- ==== Sys2Proof/Machine/Partitions.lean ====
section
/-! DEFINITION. Partitions as the management cores write them (R55-R58, R322): the events PARTITION_DESCRIPTOR_WRITE, GRANT_CHANGE,
SERVICE_WINDOW_END and SCRUB_COMPLETE; and REGISTER_WRITE, the registers without an event of their own (R2, R272, R275, R285-R287,
R316). -/
namespace Sys2Proof.Machine
open Sys2Proof

def partIds : List (BitVec 5) := (List.range 32).map (BitVec.ofNat 5)

/-! ## Descriptor and grants -/

/-- Whether a descriptor may stand (R55). -/
def descOk (s : State) (part : BitVec 5) (d : Word64) : Bool :=
  let classes : List CoreClass := [.array, .attention]
  let enabled := (partIds.map fun p => if p = part then d else (s.part p).desc).filter descEnabled
  d.extractLsb' 56 7 == 0 && d.extractLsb' 16 8 == 0 &&
  classes.all fun c => decide (descMin d c ≤ descMax d c) && decide ((enabled.map fun e => descMin e c).sum ≤ classTotal c)

/-- PARTITION_DESCRIPTOR_WRITE. -/
def descriptorWrite (s : State) (part : BitVec 5) (d : Word64) : State :=
  if descOk s part d then (s.setPart part { s.part part with desc := d, mismatch := false }).offer part else s.refuse d part

def execPartitionDescriptorWrite (part : BitVec 5) (value : BitVec 64) (s : State) : Host.Outcome State Fault Refusal :=
  .next (descriptorWrite s part value)

/-- Whether two physical ranges meet. -/
def meets (a b : Nat × Nat) : Bool := decide (a.1 < b.1 + b.2) && decide (b.1 < a.1 + a.2)

/-- Whether a launch packet for a partition waits for the dispatcher. -/
def LaunchReq.isFor (s : State) (part : BitVec 5) (r : LaunchReq) : Bool :=
  match r.by_ with
  | .host vf _ _ => vf == part
  | .core c _ => (s.core c).part == some part
  | .record _ => pktPart r.packet == part

/-- Whether a partition holds an accepted, incomplete train, or is about to: its grants stay (R322, R327). -/
def engaged (s : State) (part : BitVec 5) : Bool :=
  !(s.trainsOf part).isEmpty || s.disp.launches.any (LaunchReq.isFor s part)

/-- The partition of a valid entry of the berth table (R288). -/
def berthPart (e : BitVec 16) : Option (BitVec 5) := if e.getLsbD 15 then some (e.extractLsb' 10 5) else none

/-- BERTH_TABLE_WRITE (R288, R322): refused and logged for a reserved use, over another partition's entry, and while a partition that it
gives an entry or takes one from holds a train. -/
def berthTableWrite (s : State) (index : Nat) (v : BitVec 16) : State :=
  let old := berthPart (Tbl.get 0 s.tt.berths index)
  let new := berthPart v
  let overlap := match old, new with | some p, some q => p != q | _, _ => false
  if v.getLsbD 9 || overlap || old.any (engaged s) || new.any (engaged s) then
    s.logErr 4 hDie 4 (BitVec.ofNat 64 index) (v.extractLsb' 10 5)
  else { s with tt := { s.tt with berths := Tbl.set s.tt.berths index v } }

def execBerthTableWrite (index : BitVec 13) (value : BitVec 16) (s : State) : Host.Outcome State Fault Refusal :=
  .next (berthTableWrite s index.toNat value)

/-- The ranges of HBM that a grant names: pages, and the context area. -/
def grantRanges (g : GrantSet) : List (Nat × Nat) := if g.context.2 = 0 then g.hbm else g.context :: g.hbm

/-- Whether a grant may stand: up to 64 ranges, 2 MiB aligned, and nothing that another partition has (R322). -/
def grantOk (s : State) (part : BitVec 5) (g : GrantSet) : Bool :=
  decide (g.hbm.length ≤ 64) &&
  g.hbm.all (fun r => decide (r.1 % 2 ^ 21 = 0) && decide (r.2 % 2 ^ 21 = 0) && inStack r.1 r.2) &&
  (decide (g.context.2 = 0) || inStack g.context.1 g.context.2) &&
  (partIds.filter (· != part)).all fun p =>
    let o := (s.part p).grant
    !((grantRanges g).any fun a => (grantRanges o).any fun b => meets a b) &&
    !(g.cells.any fun a => o.cells.any fun b => a.1 == b.1 && decide (0 < a.2) && decide (0 < b.2))

/-- GRANT_CHANGE: the change is pending until the dispatcher's next cycle of package time (R322, R327, log 107). -/
def grantChange (s : State) (part : BitVec 5) (g : GrantSet) : State := { s with disp := { s.disp with grants := s.disp.grants ++ [(part, g)] } }

/-- A pending change takes effect, or is refused: the partition holds a train, or the grant may not stand (R322). -/
def settleGrant (s : State) (c : BitVec 5 × GrantSet) : State :=
  if !engaged s c.1 && grantOk s c.1 c.2 then s.setPart c.1 { s.part c.1 with grant := c.2 } else s.refuse 0 c.1

/-- The pending changes, in order. -/
def settleGrants (s : State) : State := s.disp.grants.foldl settleGrant { s with disp := { s.disp with grants := [] } }

def execGrantChange (part : BitVec 5) (grant : GrantSet) (s : State) : Host.Outcome State Fault Refusal := .next (grantChange s part grant)

/-! ## The service controller (R56) -/

/-- Cores of a class that a partition has, or is to have. -/
def coresHeld (s : State) (part : BitVec 5) (cls : CoreClass) : Nat :=
  ((coresOfClass cls).filter fun x => match (s.core x).joins with
    | some p => p == part
    | none => (s.core x).part == some part).length

/-- Whether one partition's ratio of completed cars to target is below another's; best-effort partitions are above all. -/
def ratioBelow (a b : Partition) : Bool :=
  match descTarget a.desc, descTarget b.desc with
  | 0, _ => false
  | _, 0 => true
  | x, y => decide (a.counted * y < b.counted * x)

/-- The least of a list. -/
def leastBy {α : Type} (lt : α → α → Bool) : List α → Option α
  | [] => none
  | x :: xs => match leastBy lt xs with
    | none => some x
    | some y => some (if lt y x then y else x)

/-- A partition that is to receive a core, and of which class: one of a ready train that cannot be placed, of which the partition is below
its maximum. -/
def receiver (s : State) : Option (BitVec 5 × CoreClass) :=
  let cands := partIds.filterMap fun p =>
    if !descEnabled (s.part p).desc then none
    else
      let below := fun (t : Train) => decide (coresHeld s p t.cls < descMax (s.part p).desc t.cls)
      let ready := (readyTrains s p).2 ++ (s.trainsOf p).filter Train.ready
      (ready.find? fun t => s.fits t && (placeTrain s t).isNone && below t).map fun t => (p, t.cls)
  leastBy (fun a b => ratioBelow (s.part a.1) (s.part b.1)) cands

/-- The core that a partition would give: a free one if there is one. -/
def givenCore (s : State) (part : BitVec 5) (cls : CoreClass) : Option Nat :=
  let mine := (coresOfClass cls).filter fun x =>
    (s.core x).part == some part && (s.core x).joins.isNone && (s.core x).scrub.isNone && !claimed s x
  match mine.find? fun x => (s.core x).consist.isNone with
  | some x => some x
  | none => mine.head?

/-- The partition that gives a core, and the core. -/
def giver (s : State) (to_ : BitVec 5) (cls : CoreClass) : Option (BitVec 5 × Nat) :=
  let cands := partIds.filterMap fun p =>
    if p = to_ ∨ coresHeld s p cls < descMin (s.part p).desc cls + 1 then none else (givenCore s p cls).map fun x => (p, x)
  leastBy (fun a b => ratioBelow (s.part b.1) (s.part a.1)) cands

/-- A core is to move: at once if it holds no car, else when its car completes. -/
def planMove (s : State) (core : Nat) (to_ : BitVec 5) : State :=
  beginScrub (s.modCoreAt core fun k => { k with joins := some to_ }) core

def planMoves : Nat → State → State
  | 0, s => s
  | n + 1, s =>
    match receiver s with
    | none => s
    | some (p, cls) => match giver s p cls with
      | none => s
      | some (_, x) => planMoves n (planMove s x p)

/-- PTC cycles of a service window: 100 µs. -/
def serviceTime : Nat := 130000

/-- SERVICE_WINDOW_END: at most four moves are planned, and the next window begins. -/
def serviceEnd (s : State) : State :=
  let s := planMoves 4 s
  { s with disp := { s.disp with
      window := s.disp.window + serviceTime
      parts := s.disp.parts.map fun p => (p.1, { p.2 with counted := 0 }) } }

def execServiceWindowEnd (s : State) : Host.Outcome State Fault Refusal := .next (serviceEnd s)

/-! ## Cores that join a partition (R57) -/

/-- A core's translation state belongs to its partition (R161-R163). -/
def Core.forget (k : Core) : Core := { k with tlb := [], pages := [], walks := [] }

/-- What a partition has in a core's tile store goes back to the partition's free list (R57). -/
def releaseShare (s : State) (core : Nat) (part : BitVec 5) : State :=
  let mine := s.stores.dir.filter fun e =>
    keySpace e.1 == 1 && keyBase e.1 / 2 ^ 32 == core && e.2.part == part && e.2.state != .free && !e.2.kept
  mine.foldl (fun s e =>
    { s with stores := { s.stores with free := joinBlock s.stores.free ⟨part, core, e.2.cls, e.2.base⟩ 11 } }.setDir e.1
      { e.2 with state := .free }) s

/-- A core's tile store becomes free blocks of a partition, whatever stood there. -/
def shareTo (s : State) (core : Nat) (part : Option (BitVec 5)) : State :=
  let blocks := match part with
    | some p => (List.range (tileStoreSize core / 2 ^ 18)).map fun i => (⟨p, core, 10, core * 2 ^ 32 + i * 2 ^ 18⟩ : FreeBlock)
    | none => []
  let here := fun (key : Nat) => keySpace key == 1 && keyBase key / 2 ^ 32 == core
  { s with stores := { s.stores with
      free := blocks ++ s.stores.free.filter (fun b => b.place != core),
      dir := s.stores.dir.map fun e => if here e.1 then (e.1, { e.2 with state := .free }) else e } }

/-- SCRUB_COMPLETE: handles in private memory go home, what R57 names is cleared, the core's share of tile store is on its old
partition's free list, and the core joins its new partition (log 91). -/
def scrubComplete (s : State) (core : Nat) : State :=
  let k := s.core core
  match k.joins with
  | none => s
  | some p =>
    let s := dropPrivate s core
    let m := (savedRanges core).foldl (fun m r => m.zero r.1 r.2) s.mem
    let s := match k.part with | some old => releaseShare { s with mem := m } core old | none => { s with mem := m }
    let base := fun (q : SeqId) (sq : Seq) => carSeq q 0 true sq
    let s := s.modCoreAt core fun k =>
      { k.forget with
        part := some p, scrub := none, joins := none, slots := [], acc := [], v := [], spill := [], as := base .as k.as
        xs := base .xs k.xs, heapbase := 0, heaplimit := 0, heapoffset := 0, npd := 0, trcctl := 0, timer := 0, armed := false
        lastTrain := none }
    match k.part with
    | some old => (s.offer p).offer old
    | none => s.offer p

def execScrubComplete (core : Nat) (s : State) : Host.Outcome State Fault Refusal := .next (scrubComplete s core)

/-- A core whose scrub has ended. -/
def dueScrub (s : State) : Option Nat :=
  (coreIds s).find? fun x => match (s.core x).scrub with | some t => decide (t ≤ s.ptc) | none => false

/-! ## Registers -/

/-- A free core is given to a partition, or taken from all, at set-up. -/
def giveCore (s : State) (core : Nat) (value : Word64) : State :=
  if 160 ≤ core ∨ (s.core core).consist.isSome ∨ (s.core core).scrub.isSome then s.refuse value 0
  else
    let part : Option (BitVec 5) := if value.getLsbD 5 then some (value.extractLsb' 0 5) else none
    let s := (shareTo s core part).modCoreAt core fun k => { k.forget with part := part, joins := none, lastTrain := none }
    match part with
    | some p => s.offer p
    | none => s

/-- Entries of a stage, of all partitions together, by kind (R275). -/
def stageSize : Nat → Nat
  | 0 => 8192
  | 1 => 1024
  | 2 => 512
  | _ => 0

/-- Windows of a stage that partitions have been given. -/
def windowsOf (s : State) (table : Nat) : List (BitVec 5 × Nat × Nat) :=
  (partIds.map fun p => (p, s.sbox.window p table)).filter fun w => decide (0 < w.2.2)

/-- A stage's table kind; refused where a window would not fit it. -/
def stageKind (s : State) (table : Nat) (kind : BitVec 2) : State :=
  if (windowsOf s table).all fun w => decide (w.2.1 + w.2.2 ≤ stageSize kind.toNat) then
    { s with sbox := { s.sbox with kinds := Tbl.set s.sbox.kinds table kind } }
  else s.refuse (kind.setWidth 64) 0

/-- A partition's window of a stage: within the stage, and apart from other partitions' windows; its entries start invalid (R275). -/
def stageWindow (s : State) (part : BitVec 5) (table : Nat) (value : Word64) : State :=
  let base := (value.extractLsb' 16 16).toNat
  let count := (value.extractLsb' 0 16).toNat
  let others := (windowsOf s table).filter fun w => w.1 != part
  if (decide (count = 0) || decide (base + count ≤ stageSize (s.sbox.kind table))) && !(others.any fun w => meets w.2 (base, count)) then
    let inside := fun (key : Nat) => decide (key / 8192 / 2 = table) && decide (base ≤ key % 8192) && decide (key % 8192 < base + count)
    { s with sbox := { s.sbox with
        windows := Tbl.set s.sbox.windows (part.toNat * 32 + table) (base, count)
        entries := s.sbox.entries.filter fun e => !inside e.1 } }
  else s.refuse value part

/-- REGISTER_WRITE. -/
def registerWrite (s : State) (reg : RegName) (value : Word64) : State :=
  match reg with
  | .pagingBase vf => s.setPart vf { s.part vf with paging := value &&& 0xFFFFFFFFFFFFF000, ring := 0 }
  | .headIndex _ => s
  | .ingressSlot pipe slot =>
    let owner := if value.getLsbD 8 then 1 + (value.extractLsb' 0 8).toNat else 0
    { s with sbox := { s.sbox with slots := Tbl.set s.sbox.slots (64 * pipe.toNat + slot.toNat) owner } }
  | .stageKind pipe stage => stageKind s (16 * pipe.toNat + stage.toNat) (value.extractLsb' 0 2)
  | .stageWindow part pipe stage => stageWindow s part (16 * pipe.toNat + stage.toNat) value
  | .groupPackage => { s with tt := { s.tt with pkg := (value.extractLsb' 0 6).toNat } }
  | .calendarEntry port slot =>
    { s with tt := { s.tt with cal := Tbl.set s.tt.cal (16 * port.toNat + slot.toNat) (value.extractLsb' 0 16) } }
  | .slotCount => { s with tt := { s.tt with count := (value.extractLsb' 0 4).toNat + 1 } }
  | .hostMemory vf addr => { s with mem := s.mem.write64 (hostAt vf.toNat addr.toNat) value }
  | .hbmWord pa => { s with mem := s.mem.write64 (hbmAt (s.forward pa.toNat)) value }
  | .cellWord cell => s.putCells [(cell.toNat, value)]
  | .freeBlock part stack cls =>
    if 40 ≤ stack.toNat ∨ 10 < cls.toNat then s.refuse value part
    else { s with stores := { s.stores with free := joinBlock s.stores.free ⟨part, 256 + stack.toNat, cls.toNat, value.toNat⟩ 11 } }
  | .coreOwner core => giveCore s core.toNat value
  | .other _ => s

def execRegisterWrite (reg : RegName) (value : BitVec 64) (s : State) : Host.Outcome State Fault Refusal :=
  .next (registerWrite s reg value)

end Sys2Proof.Machine
end

