-- ==== Sys2Proof/Machine/Sha3.lean ====
section
/-! DEFINITION. SHA3-512, which R319 to R321 name (Keccak as the standard FIPS 202 has it; log 16). -/
namespace Sys2Proof.Machine
open Sys2Proof

/-- A step of the shift register whose bits the round constants take: x^8 + x^6 + x^5 + x^4 + 1. -/
def shiftStep (r : Nat) : Nat := if 128 ≤ r then (2 * r - 256) ^^^ 0x71 else 2 * r

/-- The first n bits that it gives. -/
def shiftBits : Nat → Nat → List Bool
  | 0, _ => []
  | n + 1, r => decide (r % 2 = 1) :: shiftBits n (shiftStep r)

/-- A round's constant: the next seven bits, the j-th of them at place 2^j - 1. -/
def roundWord (bits : List Bool) : Word64 :=
  (List.range 7).foldl (fun w j => if bits.getD j false then w ||| (1#64 <<< (2 ^ j - 1)) else w) 0

def roundWords : List Word64 :=
  let bits := shiftBits 168 1
  (List.range 24).map fun i => roundWord (bits.drop (7 * i))

/-- How far lanes rotate, by lane x + 5y: from lane 1, 0 on, the next lane of the walk is y, 2x + 3y, and the t-th turns by the t-th
triangular number. Lane 0, 0 stands still. -/
def laneTurns : Nat → Nat → Nat → Nat → Tbl Nat
  | 0, _, _, _ => []
  | n + 1, t, x, y => (x + 5 * y, t * (t + 1) / 2 % 64) :: laneTurns n (t + 1) y ((2 * x + 3 * y) % 5)

/-- Lane x, y of a state; the coordinates wrap. -/
def kLane (a : List Word64) (x y : Nat) : Word64 := a.getD (x % 5 + 5 * (y % 5)) 0

def kMap (f : Nat → Nat → Word64) : List Word64 := (List.range 25).map fun i => f (i % 5) (i / 5)

/-- One round: θ, ρ and π, χ, ι. -/
def keccakRound (turns : Tbl Nat) (a : List Word64) (rc : Word64) : List Word64 :=
  let c := (List.range 5).map fun x => kLane a x 0 ^^^ kLane a x 1 ^^^ kLane a x 2 ^^^ kLane a x 3 ^^^ kLane a x 4
  let d := (List.range 5).map fun x => c.getD ((x + 4) % 5) 0 ^^^ (c.getD ((x + 1) % 5) 0).rotateLeft 1
  let t := kMap fun x y => kLane a x y ^^^ d.getD x 0
  let b := kMap fun x y =>
    let x0 := (x + 3 * y) % 5
    (kLane t x0 x).rotateLeft (Tbl.get 0 turns (x0 + 5 * x))
  kMap fun x y =>
    let v := kLane b x y ^^^ (~~~kLane b (x + 1) y &&& kLane b (x + 2) y)
    if x = 0 ∧ y = 0 then v ^^^ rc else v

def keccakF (a : List Word64) : List Word64 := roundWords.foldl (keccakRound (laneTurns 24 1 1 0)) a

/-- Takes in the blocks of 72 bytes. -/
def absorb : Nat → List Byte → List Word64 → List Word64
  | 0, _, a => a
  | n + 1, bs, a =>
    let block := (List.range 9).map fun i => BitVec.ofNat 64 (leNat ((bs.drop (8 * i)).take 8))
    absorb n (bs.drop 72) (keccakF (kMap fun x y => kLane a x y ^^^ block.getD (x + 5 * y) 0))

/-- The padding of a message of n bytes to whole blocks. -/
def sha3Pad (n : Nat) : List Byte :=
  let r := 72 - n % 72
  if r = 1 then [0x86] else 0x06 :: (List.replicate (r - 2) 0 ++ [0x80])

/-- The 64 bytes of the digest, the first byte lowest. -/
def sha3_512 (bs : List Byte) : BitVec 512 :=
  let m := bs ++ sha3Pad bs.length
  let a := absorb (m.length / 72) m (List.replicate 25 0)
  BitVec.ofNat 512 (leNat ((a.take 8).flatMap fun w => toBytes 8 w.toNat))

end Sys2Proof.Machine
end

