-- ==== Sys2Proof/Machine/Manage.lean ====
section
/-! DEFINITION. What the management cores and the module do by themselves: refresh windows (R20), checks (R325), invalidation and
migration (R164-R166, R323), reset of dies (R241-R243), the operating point and the slip stall (R237-R239), boot and measurement
(R319-R321), power and heat (R327); the events named after them. -/
namespace Sys2Proof.Machine
open Sys2Proof

/-! ## Refresh (R20) -/

def setWindow (s : State) (b : Bool) : State := { s with sys := { s.sys with window := b } }

def execRefreshWindowOpen (s : State) : Host.Outcome State Fault Refusal := .next (setWindow s true)
def execRefreshWindowClose (s : State) : Host.Outcome State Fault Refusal := .next (setWindow s false)

/-! ## Checks (R324-R326) -/

/-- Whether an entry's storage holds an address: pages are walked where it is HBM. -/
def entryHolds (s : State) (e : DirEntry) (a : Nat) : Bool :=
  let n := classSize e.cls
  if e.space = 1 then
    match tileRange e.base n with
    | some (_, m) => decide (m ≤ a) && decide (a < m + n)
    | none => false
  else (List.range (n / 2 ^ 16 + 1)).any fun i =>
    let va := if i = 0 then e.base else (e.base / 2 ^ 16 + i) * 2 ^ 16
    let left := min (2 ^ 16 - va % 2 ^ 16) (e.base + n - va)
    match s.walk e.part va with
    | .leaf log2 pa _ _ _ _ =>
      let p := hbmAt (s.forward (pa + va % 2 ^ log2))
      decide (va < e.base + n) && decide (p ≤ a) && decide (a < p + left)
    | _ => false

/-- Whether an entry stands for storage that can be poisoned (R65). -/
def DirEntry.holds (e : DirEntry) : Bool := e.state == .blank || e.state == .live

/-- An address as its own space or memory has it, or the number of a porter cell (R326). -/
def plainAddr (a : Nat) : Nat :=
  if a < 2 ^ 44 then a
  else if a < 2 ^ 45 then (a - 2 ^ 44) / 2 ^ 25 * 2 ^ 32 + (a - 2 ^ 44) % 2 ^ 25
  else if a < 2 ^ 46 then (a - 2 ^ 45) % 2 ^ 20
  else if a < 2 ^ 47 then (a - 2 ^ 46) / 8
  else if a < 2 ^ 48 then (a - 2 ^ 47) / 4
  else if a < 2 ^ 70 then (a - 2 ^ 48) % 2 ^ 21
  else a % 2 ^ 64

/-- The core whose memory an address lies in. -/
def coreOfAddr (a : Nat) : Option Nat :=
  if 2 ^ 44 ≤ a ∧ a < 2 ^ 45 then some ((a - 2 ^ 44) / 2 ^ 25)
  else if 2 ^ 45 ≤ a ∧ a < 2 ^ 46 then some ((a - 2 ^ 45) / 2 ^ 20)
  else if 2 ^ 48 ≤ a ∧ a < 2 ^ 70 then some ((a - 2 ^ 48) / 2 ^ 21)
  else none

/-- The partition that an address is of: that of the storage it lies in, of the core whose memory it is, or of the grant that holds it;
0 where it is of none (R326, log 108). -/
def partOfAddr (s : State) (a : Nat) : BitVec 5 :=
  match s.stores.dir.find? fun e => e.2.holds && entryHolds s e.2 a with
  | some e => e.2.part
  | none => match coreOfAddr a with
    | some c => (s.core c).part.getD 0
    | none => (partIds.find? fun p =>
        if a < 2 ^ 44 then (grantRanges (s.part p).grant).any (meets (a, 1))
        else decide (2 ^ 46 ≤ a ∧ a < 2 ^ 47) && s.cellGranted p ((a - 2 ^ 46) / 8)).getD 0

/-- CHECK_FAILURE: the second attempt passes and the soft error is logged, or the granule is poisoned at its home. -/
def checkFailure (s : State) (addr : Nat) (second : Bool) (die : Nat) (unit : BitVec 8) : State :=
  let at_ := BitVec.ofNat 64 (plainAddr addr)
  let part := partOfAddr s addr
  if second then s.logErr 1 die unit.toNat at_ part
  else
    let hit := s.stores.dir.filter fun e => e.2.holds && entryHolds s e.2 addr
    let t := hit.foldl (fun s e => s.poisonEntry e.1) { s with mem := s.mem.setPoison (addr / 16) true }
    t.logErr 2 die unit.toNat at_ part

def execCheckFailure (addr : Nat) (secondPasses : Bool) (die : Nat) (unit : BitVec 8) (s : State) : Host.Outcome State Fault Refusal :=
  .next (checkFailure s addr secondPasses die unit)

/-- POISONED_STORAGE_RELEASE: storage that was kept off the free list goes back to it. -/
def poisonedRelease (s : State) (key : Nat) : State :=
  let e := s.dirEntry key
  if e.state = .poisoned ∧ e.kept ∧ e.total = 0 then
    { s with stores := { s.stores with
        free := joinBlock s.stores.free ⟨e.part, s.placeOfKey key, e.cls, e.base⟩ 11 } }.setDir key { e with state := .free, kept := false }
  else s

def execPoisonedStorageRelease (key : Nat) (s : State) : Host.Outcome State Fault Refusal := .next (poisonedRelease s key)

/-! ## Invalidation (R164, R242, R323) -/

/-- A TLB entry or a page register that an invalidation of [va, va + n) does not reach. -/
def TlbEntry.clear (e : TlbEntry) (va n : Nat) : Bool := decide (e.va + 2 ^ e.log2 ≤ va) || decide (va + n ≤ e.va)

def PageRegs.purge (p : PageRegs) (va n : Nat) : PageRegs :=
  let gone := fun (b : Option (Nat × Nat)) => b.any fun a => decide (va < a.1 + 2 ^ a.2) && decide (a.1 < va + n)
  let p := if gone p.cur then { p with cur := none } else p
  if gone p.next then { p with next := none, ready := false, fault := none } else p

/-- A walk that has read an entry of the range begins again at the root. -/
def Walk.purge (w : Walk) (va n : Nat) : Walk := if va ≤ w.va ∧ w.va < va + n then { w with cas := none } else w

/-- The dies on which a partition has cores. -/
def partDies (s : State) (part : BitVec 5) : List Nat :=
  ((coreIds s).filter fun x => decide (x < 160) && (s.core x).part == some part).map dieOf |>.dedup

/-- When the last die has acknowledged, the request is complete, and the old frames of pages it covers no longer forward (R165). -/
def finishInvalid (s : State) : State :=
  match s.disp.invalid with
  | none => s
  | some (part, va, n) =>
    if (partDies s part).all fun d => s.disp.acked.contains d then
      let done := fun (m : Migration) =>
        decide (2 ^ m.log2 ≤ m.copied) && (List.range (max 1 (2 ^ n / 2 ^ m.log2))).any fun i =>
          (match s.walk part (va + i * 2 ^ m.log2) with
           | .leaf log2 pa _ _ _ _ => meets (pa, 2 ^ log2) (m.new, 2 ^ m.log2)
           | _ => false)
      { s with disp := { s.disp with invalid := none, acked := [] }
               stores := { s.stores with migrations := s.stores.migrations.filter fun m => !done m } }
    else s

/-- INVALIDATION_REQUEST: matching translations are removed on every die; a die in reset has acknowledged (R242). -/
def invalidate (s : State) (part : BitVec 5) (va : Word64) (log2 : Nat) : State :=
  if s.disp.invalid.isSome || decide (log2 < 16 ∨ 52 < log2) || decide (va.toNat % 2 ^ 16 ≠ 0) then s.refuse va part
  else
    let n := 2 ^ log2
    let s := (coreIds s).foldl (fun s x =>
      if (s.core x).part = some part then
        s.modCoreAt x fun k => { k with tlb := k.tlb.filter fun e => e.clear va.toNat n
                                        pages := k.pages.map fun p => (p.1, p.2.purge va.toNat n)
                                        walks := k.walks.map fun w => w.purge va.toNat n }
      else s) s
    let down := (List.range 34).filter fun d => (s.die d).state == .reset
    finishInvalid { s with disp := { s.disp with invalid := some (part, va.toNat, log2), acked := down } }

def execInvalidationRequest (part : BitVec 5) (va : BitVec 64) (log2 : Nat) (s : State) : Host.Outcome State Fault Refusal :=
  .next (invalidate s part va log2)

/-- Whether an access of a core that has translated has not performed yet. -/
def translatedOut (s : State) (core : Nat) : Bool :=
  match s.consistOf core with
  | none => false
  | some k => ((s.cons k).latches ++ (s.cons k).parked).any fun l =>
      decide (l.core = core) && l.defer.isNone && (l.arrive.isSome ||
        (match l.eff with | .store _ segs => segs.any fun g => decide (g.at_ < 2 ^ 44) | _ => false))

/-- A die that acknowledges the invalidation in progress: none of its accesses that used an old translation is on the way. -/
def dueAck (s : State) : Option Nat :=
  match s.disp.invalid with
  | none => none
  | some (part, _, _) => (partDies s part).find? fun d => !s.disp.acked.contains d &&
      ((coreIds s).all fun x => dieOf x != d || (s.core x).part != some part || !translatedOut s x)

/-- INVALIDATION_ACK. -/
def invalidationAck (s : State) (die : Nat) : State :=
  match s.disp.invalid with
  | some _ => finishInvalid { s with disp := { s.disp with acked := if s.disp.acked.contains die then s.disp.acked else s.disp.acked ++ [die] } }
  | none => s

def execInvalidationAck (die : Nat) (s : State) : Host.Outcome State Fault Refusal := .next (invalidationAck s die)

/-! ## Migration (R165, R166) -/

/-- PAGE_MIGRATION: the old frame is marked, and watches of cells in it are lost (R176). -/
def pageMigration (s : State) (old new log2 : Nat) : State :=
  let n := 2 ^ log2
  let sizes := decide (log2 = 16 ∨ log2 = 21 ∨ log2 = 30 ∨ log2 = 36)
  let busy := s.stores.migrations.any fun m => meets (m.old, 2 ^ m.log2) (old, n) || meets (m.new, 2 ^ m.log2) (old, n)
  if !sizes || decide (old % n ≠ 0 ∨ new % n ≠ 0 ∨ old = new) || busy then s.refuse (BitVec.ofNat 64 old) 0
  else
    let u := s.loseWatches fun r => decide (old ≤ Config.cellPlace r.cell) && decide (Config.cellPlace r.cell < old + n)
    { u with stores := { u.stores with migrations := u.stores.migrations ++ [⟨old, new, log2, 0, s.clk + 1⟩] } }

def execPageMigration (old new log2 : Nat) (s : State) : Host.Outcome State Fault Refusal := .next (pageMigration s old new log2)

/-- Whether a line of a migration is to be copied now. -/
def Migration.due (m : Migration) (clk : Nat) : Bool := decide (m.copied < 2 ^ m.log2) && decide (m.at_ ≤ clk)

/-- Whether it may be: no refresh window is open (R20), and its stack's queue holds no byte of the line (R258). -/
def State.lineFree (s : State) (m : Migration) : Bool :=
  let a := m.old + m.copied
  !refreshOpen s.ptc && !(s.kvQueue (a / 2 ^ 37)).any fun e => e.bytes.any fun p => decide (p.1 < a + 256) && decide (a < p.1 + p.2.length)

/-- Directory entries of storage whose base lies in a line move with it, and what is on its way to their home goes on to the new one
(R63, R165, R166). -/
def moveEntries (s : State) (from_ to_ : Nat) : State :=
  let here := fun (e : DirEntry) => e.space == 0 && e.state != .free && decide (from_ ≤ e.pa) && decide (e.pa < from_ + 256)
  let mv := (s.stores.dir.filter fun p => here p.2).map Prod.fst
  let dir := s.stores.dir.map fun p => if here p.2 then (p.1, { p.2 with pa := to_ + (p.2.pa - from_) }) else p
  let s := { s with stores := { s.stores with dir := dir } }
  let on := fun (r : HomeReq) => if mv.contains r.key then { r with porter := s.porterOfMsg r.core r.key r.msg } else r
  { s with stores := { s.stores with inbox := s.stores.inbox.map on } }

/-- One line of a frame at its new place: bytes, tags and poison. -/
def copyLine (s : State) (from_ to_ : Nat) : Memory :=
  let m := s.mem.write (hbmAt to_) (s.hbmRead from_ 256)
  (List.range 16).foldl (fun (m : Memory) i =>
    let a := hbmAt (from_ + 16 * i) / 16
    let b := hbmAt (to_ + 16 * i) / 16
    (m.setTag b (granGet s.mem.tags a)).setPoison b (granGet s.mem.poison a)) m

/-- MIGRATION_LINE_COPY: the next line of the oldest migration that has one, in ascending order. -/
def lineCopy (s : State) : State :=
  match s.stores.migrations.find? fun m => m.due s.clk && s.lineFree m with
  | none => s
  | some m =>
    let mem := copyLine s (m.old + m.copied) (m.new + m.copied)
    let (n, s) := (moveEntries { s with mem := mem } (m.old + m.copied) (m.new + m.copied)).delay
    let m' := { m with copied := m.copied + 256, at_ := s.clk + 1 + n }
    { s with stores := { s.stores with migrations := s.stores.migrations.map fun x => if x = m then m' else x } }

def execMigrationLineCopy (s : State) : Host.Outcome State Fault Refusal := .next (lineCopy s)

/-! ## Dies (R241-R243) -/

/-- DIE_RESET_REQUEST: the die's injection stops. -/
def dieResetRequest (s : State) (die : Nat) : State :=
  if die < 34 ∧ (s.die die).state = .run then s.setDie die { s.die die with state := .stopping } else s.refuse (BitVec.ofNat 64 die) 0

def execDieResetRequest (die : Nat) (s : State) : Host.Outcome State Fault Refusal := .next (dieResetRequest s die)

/-- A write into HBM that has issued and not performed. -/
def Latch.writesHbm (l : Latch) : Bool :=
  match l.eff, l.defer with
  | .store _ segs, none => segs.any fun g => decide (g.at_ < 2 ^ 44)
  | .store .., some _ => true
  | .storeCap _ _ a _, none => decide (a < 2 ^ 44)
  | .storeCap .., some _ => true
  | _, _ => false

/-- Whether an entry moves bytes from its core: one that has started, and is not done with but for an acknowledgement. -/
def EngEntry.moving (e : EngEntry) : Bool := e.started && !e.stuck && (match e.op with | .staged => false | .mark _ => false | _ => true)

/-- What a core has on the die's outbound lanes: entries that run, writes into HBM, tablets on their way. -/
def coreSends (s : State) (core : Nat) : Bool :=
  let k := s.core core
  ([qCopy, qLink, qShuttle, qSbox].any fun q => (k.queue q).any EngEntry.moving) || (k.shRx.any fun e => !e.2.coming.isEmpty) ||
  (match s.consistOf core with
   | some n => ((s.cons n).latches ++ (s.cons n).parked).any fun l => decide (l.core = core) && l.writesHbm
   | none => false)

/-- Whether nothing of a die's is on the way any more (R241). -/
def lanesEmpty (s : State) (die : Nat) : Bool :=
  let mine := fun (x : Nat) => decide (x < 160) && dieOf x == die
  !(s.stores.cellInbox.any fun r => mine r.core) && !(s.stores.inbox.any fun r => mine r.core) &&
  !(s.stores.replies.any fun r => r.1 == die && decide (s.clk < r.2)) && !((coreIds s).any fun x => mine x && coreSends s x)

/-- A die whose reset asserts now. -/
def dueReset (s : State) : Option Nat :=
  (s.sys.dies.find? fun e => e.2.state == .stopping && lanesEmpty s e.1).map Prod.fst

/-- Whether a core's car is lost with a die: that of a core on it, and every car with the die of the sequencers (log 102). -/
def lostWith (die core : Nat) : Bool := die == cDie || dieOf core == die

/-- DIE_LOSS_ABORT (R243): trains with a car on a die are aborted; the cores on other dies of a consist that loses the die record class
0x11. A save in progress is written, zero for the cores that are lost (R222). -/
def dieLoss (s : State) (die : Nat) : State :=
  let hit := s.consists.filter fun e => e.2.cores.any (lostWith die)
  let peers := hit.flatMap fun e =>
    (e.2.cores.filter fun x => !lostWith die x).map fun x => (x, BitVec.ofNat 25 (s.seq x .as).at_.wordAt)
  let s := hit.foldl (fun s e => if e.2.mode == .saving then (saveFrames s e.1 (lostWith die)).1 else s) s
  let s := (hit.map fun e => (e.2.part, e.2.train)).dedup.foldl (fun s t => abortTrain s t.1 t.2 FaultClass.aborted.code 0) s
  peers.foldl (fun s p => s.modCoreAt p.1 fun k => { k with frozen := some ⟨.aborted, 0, 0, p.2⟩ }) s

/-- A core of a die in reset. -/
def resetCore (k : Core) : Core :=
  { Core.reset with part := k.part, joins := k.joins, scrub := k.scrub, irq := k.irq, arrivals := k.arrivals, egress := k.egress }

/-- RESET_ASSERT: the die is in reset, and a pending invalidation counts as acknowledged by it (R242). -/
def resetAssert (s : State) (die : Nat) : State :=
  let s := dieLoss s die
  let s := ((coreIds s).filter fun x => decide (x < 160) && dieOf x == die).foldl (fun s x => s.modCoreAt x resetCore) s
  invalidationAck (s.setDie die { s.die die with state := .reset, lag := 0 }) die

def execResetAssert (die : Nat) (s : State) : Host.Outcome State Fault Refusal :=
  .next (if (s.die die).state = .stopping then resetAssert s die else s)

/-- DIE_RESET_RELEASE: station time starts at 0. -/
def resetRelease (s : State) (die : Nat) : State :=
  if (s.die die).state = .reset then
    (partIds.filter fun p => !(s.trainsOf p).isEmpty).foldl State.offer (s.setDie die { s.die die with state := .run, station := s.clk, missed := 0, lag := 0 })
  else s.refuse (BitVec.ofNat 64 die) 0

def execDieResetRelease (die : Nat) (s : State) : Host.Outcome State Fault Refusal := .next (resetRelease s die)

/-! ## Operating point and slip (R237-R240) -/

/-- PTC cycles of a frequency stall: 2 µs. -/
def stallTime : Nat := 2600

/-- FREQUENCY_REQUEST: S is the first multiple of 1,300 at least 1,300 later; refused and logged in slack mode and during a stall. -/
def frequencyRequest (s : State) (point : BitVec 2) : State :=
  let begun := match s.sys.wanted with | some (_, _, b) => b | none => false
  if s.sys.slack || begun then s.refuse (point.setWidth 64) 0
  else { s with sys := { s.sys with wanted := some (point, (s.ptc + 1300 + 1299) / 1300 * 1300, false) } }

def execFrequencyRequest (point : BitVec 2) (s : State) : Host.Outcome State Fault Refusal := .next (frequencyRequest s point)

def stallStart (s : State) : State :=
  match s.sys.wanted with
  | some (p, t, _) => { s with sys := { s.sys with wanted := some (p, t, true), stalls := s.sys.stalls ++ [(t, t + stallTime)] } }
  | none => s

def execFrequencyStallStart (s : State) : Host.Outcome State Fault Refusal := .next (stallStart s)

/-- FREQUENCY_STALL_END: all dies restart at the new point; RETIME waits that the stall overlapped are that much longer (R240). -/
def stallEnd (s : State) : State :=
  match s.sys.wanted with
  | some (p, _, true) =>
    let put := fun (m : Mode) => match m with
      | .retime r => .retime { r with target := r.target + stallTime }
      | m => m
    let later := fun (c : Consist) => { c with mode := put c.mode, next := c.next.map put }
    { s with consists := s.consists.map fun e => (e.1, later e.2)
             sys := { s.sys with point := p, wanted := none, phase := 0 } }
  | _ => s

def execFrequencyStallEnd (s : State) : Host.Outcome State Fault Refusal := .next (stallEnd s)

/-- The frequency stall's event that is due: its start, or its end. -/
def dueStall (s : State) : Option Bool :=
  match s.sys.wanted with
  | some (_, t, false) => if t ≤ s.ptc then some false else none
  | some (_, t, true) => if t + stallTime ≤ s.ptc then some true else none
  | none => none

/-- SLIP_STALL: a die's lag in slack mode, at most 16; always 0 in lockstep (R237, R238). A lag that grows is cycles that the die's own
clock did not have (R230). -/
def slipStall (s : State) (die lag : Nat) : State :=
  let d := s.die die
  let n := if s.sys.slack then min lag 16 else 0
  s.setDie die { d with lag := n, missed := d.missed + (n - d.lag) }

def execSlipStall (die lag : Nat) (s : State) : Host.Outcome State Fault Refusal := .next (slipStall s die lag)

/-! ## Boot (R319, R320) -/

/-- The ROM has fetched an image. -/
def fetched (s : State) (i : BootImage) : State := { s with sys := { s.sys with image := i.bytes, boot := .fetched } }

/-- POWER_ON. -/
def execPowerOn (image : BootImage) (s : State) : Host.Outcome State Fault Refusal :=
  .next (if s.sys.boot = .off then fetched s image else s)

/-- PTC cycles in 1 s. -/
def retryTime : Nat := 1300000000

/-- BOOT_RETRY: 1 s after a failure. -/
def execBootRetry (image : BootImage) (s : State) : Host.Outcome State Fault Refusal :=
  .next (match s.sys.boot with
    | .failed t => if t + retryTime ≤ s.ptc then fetched s image else s
    | _ => s)

/-- Offset and size of an image's key, body and signature. -/
def keyAt : Nat := 0x40
def keySize : Nat := 2592
def bodyAt : Nat := 0xA60
def signSize : Nat := 4627

/-- Whether the ROM accepts an image (R320). -/
def imageOk (s : State) (im : List Byte) : Bool :=
  let n := bytesAt im 8 8
  let key := (im.drop keyAt).take keySize
  let signed := im.take (bodyAt + n)
  decide (im.length = bodyAt + n + signSize) && bytesAt im 0 4 == 0x4E594D56 && bytesAt im 4 4 == 1 &&
  decide (bytesAt im 0x10 1 ≤ 1) && decide (bytesAt im 0x11 1 ≤ 3) && ((im.drop 0x12).take 46).all (· == 0) &&
  sha3_512 key == s.sys.keyHash && Config.mlDsaVerify key (sha3_512 signed) (im.drop (bodyAt + n))

/-- Bytes of 512 bits, the first lowest. -/
def bytes64 (d : BitVec 512) : List Byte := toBytes 64 d.toNat

/-- An extend (R321). -/
def extendMr (s : State) (i : Nat) (d : BitVec 512) : State :=
  let old := Tbl.get (0 : BitVec 512) s.sys.mr i
  { s with sys := { s.sys with mr := Tbl.set s.sys.mr i (sha3_512 (bytes64 old ++ bytes64 d)) } }

/-- IMAGE_ACCEPT: the image is measured, the clock mode set and the dispatcher started, and package time begins (R231); or it is
discarded and the failure counted. -/
def imageAccept (s : State) : State :=
  if s.sys.boot ≠ .fetched then s
  else
    let im := s.sys.image
    if imageOk s im then
      let s := extendMr s 0 (sha3_512 (im.take (bodyAt + bytesAt im 8 8)))
      let slack := bytesAt im 0x10 1 == 1
      let s := s.fillTable
      { s with
        sys := { s.sys with
          boot := .done, slack := slack, point := if slack then 0 else BitVec.ofNat 2 (bytesAt im 0x11 1), ptc := 0, phase := 0
          tempAt := 1300000, window := false }
        disp := { s.disp with started := true, window := serviceTime } }
    else { s with sys := { s.sys with image := [], failures := s.sys.failures + 1, boot := .failed s.ptc } }

def execImageAccept (s : State) : Host.Outcome State Fault Refusal := .next (imageAccept s)

/-! ## Measurement (R321) -/

/-- MEASUREMENT_EXTEND: the management cores may extend MR1 to MR7. -/
def execMeasurementExtend (mr : BitVec 3) (digest : BitVec 512) (s : State) : Host.Outcome State Fault Refusal :=
  .next (if mr = 0 then s.refuse 0 0 else extendMr s mr.toNat digest)

/-- QUOTE: a signature over the nonce, the registers and the serial number. -/
def quote (s : State) (nonce : BitVec 512) : State :=
  let mrs := (List.range 8).flatMap fun i => bytes64 (Tbl.get 0 s.sys.mr i)
  { s with sys := { s.sys with
      quotes := s.sys.quotes ++ [Config.mlDsaSign (bytes64 nonce ++ mrs ++ toBytes 8 s.sys.serial.toNat)] } }

def execQuote (nonce : BitVec 512) (s : State) : Host.Outcome State Fault Refusal := .next (quote s nonce)

/-! ## Power and heat (R327) -/

/-- Every partition that holds trains is offered its cores again. -/
def offerAll (s : State) : State := (partIds.filter fun p => !(s.trainsOf p).isEmpty).foldl State.offer s

/-- POWER_STATE: a die that holds a car stays in state 0. -/
def powerState (s : State) (die : Nat) (st : BitVec 2) : State :=
  let busy := s.consists.any fun e => e.2.cores.any fun x => dieOf x == die
  if st ≠ 0 ∧ busy then s.refuse (BitVec.ofNat 64 die) 0 else offerAll (s.setDie die { s.die die with power := st })

def execPowerState (die : Nat) (state : BitVec 2) (s : State) : Host.Outcome State Fault Refusal := .next (powerState s die state)

/-- PTC cycles in 1 ms and in 100 ms. -/
def sampleTime : Nat := 1300000
def coolTime : Nat := 130000000

/-- A die's temperature, and since when it has stayed below 95 °C. -/
def heatDie (s : State) (p : Nat × Int) : State :=
  let d := s.die p.1
  s.setDie p.1 { d with temp := p.2, coolFrom := if p.2 < 95 then d.coolFrom else s.ptc }

/-- Whether a die has stayed below 95 °C for 100 ms. -/
def cooled (s : State) (die : Nat) : Bool :=
  decide ((s.die die).temp < 95) && decide ((s.die die).coolFrom + coolTime ≤ s.ptc)

def closeDie (s : State) (die : Nat) : State :=
  if s.disp.closed.contains die then s else { s with disp := { s.disp with closed := s.disp.closed ++ [die] } }

/-- A die of 105 °C or more: the module's operating point falls by one step, or, where it cannot, the die is closed. -/
def heatStep (s : State) (hot : List Nat) : State :=
  if hot.isEmpty then s
  else if s.sys.slack || s.sys.point == 3 then hot.foldl closeDie s
  else if s.sys.wanted.isSome then s
  else
    let s := frequencyRequest s (s.sys.point + 1)
    { s with sys := { s.sys with lowered := s.sys.lowered + 1 } }

/-- Dies that have cooled open again, and the operating point rises by one step, as far as it was lowered and lies below the highest. -/
def coolStep (s : State) : State :=
  let open_ := s.disp.closed.filter (cooled s)
  let s := if open_.isEmpty then s
    else offerAll { s with disp := { s.disp with closed := s.disp.closed.filter fun d => !open_.contains d } }
  if s.sys.lowered ≠ 0 ∧ s.sys.wanted = none ∧ (List.range 34).all (cooled s) then
    let s := if s.sys.point = 0 then s else frequencyRequest s (s.sys.point - 1)
    let s := (List.range 34).foldl (fun s d => s.setDie d { s.die d with coolFrom := s.ptc }) s
    { s with sys := { s.sys with lowered := s.sys.lowered - 1 } }
  else s

/-- A die of 115 °C: its trains are aborted and it is put in reset. -/
def burnStep (s : State) (die : Nat) : State :=
  let s := dieLoss s die
  if (s.die die).state = .run then s.setDie die { s.die die with state := .stopping } else s

/-- TEMPERATURE_SAMPLE. -/
def temperatureSample (s : State) (temps : List (Nat × Int)) : State :=
  let s := temps.foldl heatDie { s with sys := { s.sys with tempAt := s.sys.tempAt + sampleTime } }
  let dies := (temps.map Prod.fst).filter fun d => decide (d < 34)
  let s := heatStep s (dies.filter fun d => decide (105 ≤ (s.die d).temp))
  let s := (dies.filter fun d => decide (115 ≤ (s.die d).temp)).foldl burnStep s
  coolStep s

def execTemperatureSample (temps : List (Nat × Int)) (s : State) : Host.Outcome State Fault Refusal := .next (temperatureSample s temps)

/-- The temperatures of the sample that is due (log 5). -/
def dueSample (s : State) : Option (List (Nat × Int)) :=
  if s.sys.tempAt ≤ s.ptc then some ((List.range 34).map fun d => (d, Config.temperature (s.sys.tempAt / sampleTime) d)) else none

end Sys2Proof.Machine
end

