-- ==== Sys2Proof/Machine/Loader.lean ====
section
/-! DEFINITION. The loader (R136-R146): the events LOAD_OVERLAY and UNLOAD_OVERLAY. -/
namespace Sys2Proof.Machine
open Sys2Proof

/-! ## The image's records (R136-R141) -/

def overlayHasShape (i : OverlayImage) : Bool := i.eFlags.getLsbD 10
def overlayClass (i : OverlayImage) : CoreClass := if i.eFlags.getLsbD 9 then .attention else .array
def overlayC (i : OverlayImage) : Nat := (i.eFlags.extractLsb' 0 4).toNat + 1
def overlayE (i : OverlayImage) : Nat := (i.eFlags.extractLsb' 4 5).toNat + 1

def headerOk (i : OverlayImage) : Bool :=
  decide (i.eiClass = 2) && decide (i.eiData = 1) && decide (i.eMachine = 0x7E21) && decide (i.eType = 2) && i.eEntry == 0 &&
  i.eFlags.extractLsb' 11 21 == 0 && (overlayHasShape i || i.eFlags.extractLsb' 0 9 == 0) &&
  decide (overlayC i ≤ classCores (overlayClass i)) && decide (overlayE i ≤ classDies (overlayClass i)) &&
  decide (overlayC i * overlayE i ≤ 32)

/-- A geometry descriptor (R138). -/
def geomOk (g : List Word64) : Bool :=
  let rank := ((g.getD 0 0).extractLsb' 61 3).toNat
  let extent := fun k => if k % 2 = 0 then (g.getD (1 + k / 2) 0).extractLsb' 0 32 else (g.getD (1 + k / 2) 0).extractLsb' 32 32
  decide (g.length = 12) && decide (rank ≠ 0) && (g.getD 0 0).extractLsb' 0 49 == 0 && (g.getD 4 0).extractLsb' 32 32 == 0 &&
  (List.range 7).all fun k => decide (k < rank) || (extent k == 0 && g.getD (5 + k) 0 == 0)

def tileKind (t : TileRec) : Nat := (t.dw0.extractLsb' 60 4).toNat
def tileFmt (t : TileRec) : Nat := (t.dw0.extractLsb' 56 4).toNat
def tileRows (t : TileRec) : Nat := (t.dw0.extractLsb' 48 8).toNat + 1
def tileCols (t : TileRec) : Nat := (t.dw0.extractLsb' 40 8).toNat + 1
def tileCls (t : TileRec) : Nat := (t.dw0.extractLsb' 36 4).toNat

/-- A tile or blank record (R139). One that its size class cannot hold, one whose content is longer than the tile, and a CB4 tile whose
rows no layout has (R95, R96) count as malformed (log 94). -/
def tileRecOk (t : TileRec) : Bool :=
  t.dw0.extractLsb' 0 36 == 0 && t.dw3 == 0 && decide (tileCls t ≤ 10) &&
  (if tileKind t = 1 then
    decide (tileFmt t ≤ 7) && (tileFmt t != 6 || decide (tileRows t % 64 = 0)) && decide (tileBytes (tileRows t) (tileCols t) (tileFmt t) ≤ classSize (tileCls t)) &&
      decide (t.dw1.toNat ≤ tileBytes (tileRows t) (tileCols t) (tileFmt t)) && decide (t.dw1.toNat ≤ t.content.length)
  else decide (tileKind t = 2) && decide (tileFmt t = 0) && t.dw1 == 0)

def cellKind (c : Word64 × Word64) : Nat := (c.1.extractLsb' 62 2).toNat
def cellCount (c : Word64 × Word64) : Nat := (c.1.extractLsb' 0 17).toNat

/-- A cell record (R140, R270). -/
def cellRecOk (c : Word64 × Word64) : Bool :=
  decide (cellKind c ≠ 3) && c.1.extractLsb' 17 37 == 0 && (cellKind c == 2 || c.1.extractLsb' 54 8 == 0) &&
  decide (1 ≤ cellCount c) && decide (cellCount c ≤ 65536) && (cellKind c != 2 || cellCount c == 2)

/-- Doublewords of an entry image of a table kind (R276). -/
def entryDwords (kind : Nat) : Nat := if kind = 1 then 6 else 4

def tableKind (b : BlockRec) : Nat := (b.dw0.extractLsb' 55 2).toNat
def recCount (b : BlockRec) : Nat := (b.dw0.extractLsb' 0 32).toNat

/-- A table record and its entries, a microcode record and its words (R137). More of them than a stage or the control store holds, and
a body that does not match its count, count as malformed (log 94). -/
def tableOk (b : BlockRec) : Bool :=
  b.dw0.extractLsb' 62 2 == 0 && b.dw0.extractLsb' 32 23 == 0 && decide (tableKind b ≠ 3) &&
  decide (b.body.length = recCount b * entryDwords (tableKind b)) && decide (recCount b ≤ 8192)
def microOk (b : BlockRec) : Bool :=
  b.dw0.extractLsb' 44 20 == 0 && decide (b.body.length = (recCount b)) &&
  decide ((b.dw0.extractLsb' 32 12).toNat + recCount b ≤ 4096)

/-- A `.needs` entry (R141). -/
def needRecOk (n : Word64 × Word64) : Bool :=
  let kind := (n.1.extractLsb' 60 4).toNat
  n.2 == 0 && n.1.extractLsb' 32 14 == 0 && decide (kind ≤ 2) && decide ((n.1.extractLsb' 56 4).toNat ≤ 2) &&
  (kind != 2 || n.1.extractLsb' 0 32 == 0)

/-- The shape that an entry of kind 2 states. -/
def needShape (w : Word64) : CoreClass × Nat × Nat :=
  (if w.getLsbD 55 then .attention else .array, (w.extractLsb' 51 4).toNat + 1, (w.extractLsb' 46 5).toNat + 1)

/-- The shape entries of an image (R135, R141). -/
def shapeEntries (i : OverlayImage) : List Word64 := (i.needs.map Prod.fst).filter fun w => w.extractLsb' 60 4 == 2

/-- The header's flags state the `.consist` that the shape entry records, and no shape where there is none (R136). -/
def shapeOk (i : OverlayImage) : Bool :=
  overlayHasShape i != (shapeEntries i).isEmpty &&
  (shapeEntries i).all fun w => needShape w == (overlayClass i, overlayC i, overlayE i)

/-- Step 1. -/
def overlayImageOk (i : OverlayImage) : Bool :=
  headerOk i && shapeOk i && i.geom.all geomOk && i.tiles.all tileRecOk && i.cells.all cellRecOk && i.sbox.all tableOk && i.amicro.all microOk &&
  i.needs.all needRecOk && (i.amicro.isEmpty || overlayClass i == .attention)

/-- The shape of a shape entry (R135, R141). -/
def overlayShape (i : OverlayImage) : Option (CoreClass × Nat × Nat) := (shapeEntries i).head?.map needShape

/-- The dies of a class. -/
def diesOfClass : CoreClass → List Nat
  | .array => List.range 24
  | .attention => (List.range 8).map (24 + ·)

/-- The highest die position that a distance bound names (R141). -/
def needTop (w : Word64) : Nat := max (w.extractLsb' 51 5).toNat (if w.extractLsb' 60 4 = 1 then (w.extractLsb' 46 5).toNat else 0)

/-- The number of dies that step 2 looks for: that of the shape; without one, as many as the entries name. -/
def needDies (i : OverlayImage) : Nat :=
  match overlayShape i with
  | some (_, _, e) => e
  | none => i.needs.foldl (fun m n => max m (needTop n.1 + 1)) 1

def needsMet (s : State) (i : OverlayImage) : Bool :=
  let ns := (i.needs.map Prod.fst).filter fun w => w.extractLsb' 60 4 != 2
  ns.isEmpty || (pickDies (fun ds => ns.all (s.needOk ds)) (needDies i) (diesOfClass (overlayClass i)) []).isSome

/-! ## Streams (R115-R118) -/

/-- A 64-bit header at a syllable of a stream. -/
def hdrAt (st : List (BitVec 32)) (o : Nat) : Word64 := st.getD (o + 1) 0 ++ st.getD o 0
/-- A 96-bit word at a syllable of a stream. -/
def wordAt (st : List (BitVec 32)) (o : Nat) : Word96 := st.getD (o + 2) 0 ++ st.getD (o + 1) 0 ++ st.getD o 0

def setHdr (st : List (BitVec 32)) (o : Nat) (h : Word64) : List (BitVec 32) :=
  (st.set o (h.extractLsb' 0 32)).set (o + 1) (h.extractLsb' 32 32)
def setWord (st : List (BitVec 32)) (o : Nat) (w : Word96) : List (BitVec 32) :=
  ((st.set o (w.extractLsb' 0 32)).set (o + 1) (w.extractLsb' 32 32)).set (o + 2) (w.extractLsb' 64 32)

/-- The sections of a stream: the syllable of each header and its count of words. -/
def sectionsFrom (st : List (BitVec 32)) : Nat → Nat → List (Nat × Nat)
  | 0, _ => []
  | fuel + 1, o =>
    let h := hdrAt st o
    if hdrMark h = 0xFF ∧ hdrLen h ≠ 0 ∧ o + 2 + 3 * hdrLen h ≤ st.length then
      (o, hdrLen h) :: (if hdrLast h then [] else sectionsFrom st fuel (o + 2 + 3 * hdrLen h))
    else []

def streamSections (st : List (BitVec 32)) : List (Nat × Nat) := sectionsFrom st st.length 0

def sectionCrc (st : List (BitVec 32)) (sec : Nat × Nat) : BitVec 12 :=
  crc12 (((st.drop (sec.1 + 2)).take (3 * sec.2)).flatMap fun v => toBytes 4 v.toNat)

def crcsOk (st : List (BitVec 32)) : Bool := (streamSections st).all fun sec => sectionCrc st sec == hdrCrc (hdrAt st sec.1)

/-- Every header with the CRC of its section as it now stands (step 8). -/
def withCrcs (st : List (BitVec 32)) : List (BitVec 32) :=
  (streamSections st).foldl (fun st sec =>
    let h := hdrAt st sec.1
    setHdr st sec.1 (h.extractLsb' 12 52 ++ sectionCrc st sec)) st

/-- Whether a word takes a trailing literal (R114): LIT, GSET, SBTBL. -/
def takesLiteral (w : Word96) : Bool := opHasLit (opcodeOf w)

/-- Whether word i of a section is the literal of the word before it. -/
def isLiteral (st : List (BitVec 32)) (o : Nat) : Nat → Bool
  | 0 => false
  | i + 1 => takesLiteral (wordAt st (o + 2 + 3 * i)) && !isLiteral st o i

/-- Whether a syllable is the first of a word, and whether that word is a literal. -/
def wordKind (st : List (BitVec 32)) (a : Nat) : Option Bool :=
  match (streamSections st).find? fun sec => decide (sec.1 + 2 ≤ a) && decide (a < sec.1 + 2 + 3 * sec.2) with
  | some sec => if (a - sec.1 - 2) % 3 = 0 then some (isLiteral st sec.1 ((a - sec.1 - 2) / 3)) else none
  | none => none

/-! ## Loading (R144) -/

/-- What has been placed so far: the state with it, the partition and the image, cells taken, storage taken for the images, each
`.cells` record's first cell, and for records that name a symbol: the symbol, its handle cell, the address and bytes of its storage. -/
structure Loading where
  s       : State
  part    : BitVec 5
  image   : OverlayImage
  cells   : List (Nat × Nat)
  storage : List Nat
  recs    : List Nat
  placed  : List (Nat × Option Nat × Nat × Nat)
  geom    : Nat
  baseA   : Nat
  baseX   : Nat
  tokens  : List (Nat × Nat)      -- symbol and t number
  streamA : List (BitVec 32)
  streamX : List (BitVec 32)

def orCode {α : Type} (code : BitVec 8) : Option α → Except (BitVec 8) α
  | some a => .ok a
  | none => .error code

def check (code : BitVec 8) (b : Bool) : Except (BitVec 8) Unit := if b then .ok () else .error code

/-- Overlays of a partition. -/
def State.overlaysOf (s : State) (part : BitVec 5) : List Overlay := s.disp.overlays.filter fun o => o.part == part

/-- The banks a sequencer's stream lies in. -/
def Seq.banks (q : Seq) : List Nat :=
  (List.range 8).map (q.streamLo / 2 ^ 17 + ·) |>.filter fun b => decide (b * 2 ^ 17 < q.streamHi)

/-- The active banks (R45): those a consist fetches from, or will when its saved context comes back. -/
def State.activeBanks (s : State) : List Nat :=
  let of := fun (k : Core) => k.as.banks ++ k.xs.banks
  (s.consists.flatMap fun c => c.2.cores.flatMap fun x => of (s.core x)) ++ s.disp.saved.flatMap fun v => v.image.flatMap of

/-- The fewest consecutive free banks for a count of syllables, the lowest (R144). A bank that is still active is not free, so no
write reaches it (R45, R145; log 95). -/
def freeBanks (s : State) (sylls : Nat) : Option (List Nat) :=
  let used := s.disp.overlays.flatMap Overlay.banks ++ s.activeBanks
  let n := max 1 (roundUp sylls (2 ^ 17) / 2 ^ 17)
  if 8 < n then none
  else ((List.range (257 - n)).find? fun b => (List.range n).all fun i => !used.contains (b + i)).map fun b => (List.range n).map (b + ·)

/-- The least even cell number from which n cells of one porter are granted and unused, of the lowest porter that has them (R202). -/
def findCells (grants used : List (Nat × Nat)) (n : Nat) : Option Nat :=
  let free := fun a => used.all fun u => decide (a + n ≤ u.1) || decide (u.1 + u.2 ≤ a)
  let here := grants.flatMap fun g =>
    let lo := g.1 * 2 ^ 22
    (lo :: used.map fun u => roundUp (u.1 + u.2) 2).filter fun a =>
      decide (lo ≤ a) && decide (a + n ≤ lo + min g.2 (2 ^ 22)) && free a
  here.foldl (fun best a => match best with | none => some a | some b => some (min a b)) none

def Loading.takeCells (l : Loading) (n : Nat) : Except (BitVec 8) (Nat × Loading) := do
  let used := (l.s.overlaysOf l.part).flatMap Overlay.cells ++ l.cells
  let a ← orCode 0x06 (findCells (l.s.part l.part).grant.cells used n)
  pure (a, { l with cells := l.cells ++ [(a, n)] })

/-- The least class that holds a count of bytes. -/
def imageClass (n : Nat) : Nat := ((List.range 11).find? fun k => decide (n ≤ classSize k)).getD 11

/-- A block of a class from the lowest HBM stack that has one (R62). -/
def Loading.takeBlock (l : Loading) (cls : Nat) : Except (BitVec 8) (Nat × Loading) := do
  let r := (List.range 40).findSome? fun st =>
    match allocBlock l.s l.part (256 + st) cls with
    | (s, .block base) => some (base, { l with s := s })
    | _ => none
  orCode 0x06 r

/-- Bytes go to a virtual address of a partition, page by page. -/
def writeVirtual (part : BitVec 5) : Nat → State → Nat → List Byte → Option State
  | _, s, _, [] => some s
  | 0, _, _, _ => none
  | fuel + 1, s, va, bs =>
    match s.walk part va with
    | .leaf log2 pa _ _ _ _ =>
      let n := min bs.length (2 ^ log2 - va % 2 ^ log2)
      let a := pa + va % 2 ^ log2
      if s.granted part a n then
        writeVirtual part fuel { s with mem := s.mem.write (hbmAt (s.forward a)) (bs.take n) } (va + n) (bs.drop n)
      else none
    | _ => none

/-- A block for an image, with the image in it. -/
def Loading.putImage (l : Loading) (ws : List Word64) : Except (BitVec 8) (Nat × Loading) := do
  let (base, l) ← l.takeBlock (imageClass (8 * ws.length))
  let s ← orCode 0x06 (writeVirtual l.part 64 l.s base (ws.flatMap fun w => toBytes 8 w.toNat))
  pure (base, { l with s := s, storage := l.storage ++ [dirKey 0 l.part (BitVec.ofNat 64 base)] })

/-- A tile, sealed, or a blank, with its handle in its handle cell. -/
def Loading.putTile (l : Loading) (t : TileRec) : Except (BitVec 8) Loading := do
  let (base, l) ← l.takeBlock (tileCls t)
  let (cell, l) ← l.takeCells 2
  let w := BitVec.ofNat 64 base
  let placed := l.placed ++ [(t.dw2.toNat, some cell, base, classSize (tileCls t))]
  if tileKind t = 1 then
    let n := tileBytes (tileRows t) (tileCols t) (tileFmt t)
    let bytes := t.content.take t.dw1.toNat
    let s ← orCode 0x06 (writeVirtual l.part 64 l.s base (bytes ++ List.replicate (n - bytes.length) 0))
    let s := sealEntry s (dirKey 0 l.part w) (tileRows t) (tileCols t) (tileFmt t)
    pure { l with s := s.putCap cell (handleCap 0 kTile 0x69 fullWeight 0 l.part w), placed := placed }
  else pure { l with s := l.s.putCap cell (newBlank 256 l.part base 0x7B), placed := placed }

/-- A cell record's cells with their initial values. -/
def Loading.putCellRec (l : Loading) (c : Word64 × Word64) : Except (BitVec 8) Loading := do
  let (a, l) ← l.takeCells (cellCount c)
  let v : Word64 := if cellKind c = 1 then c.2 else 0
  pure { l with s := l.s.putCells ((List.range (cellCount c)).map fun i => (a + i, v)), recs := l.recs ++ [a] }

/-- A Signal Box table goes into both banks of its stage, from the start of the partition's window (R281), as far as that goes (log 64). -/
def writeTable (s : State) (part : BitVec 5) (b : BlockRec) : State :=
  let table := 16 * (b.dw0.extractLsb' 61 1).toNat + (b.dw0.extractLsb' 57 4).toNat
  let n := entryDwords (tableKind b)
  let put := fun (x : SBox) (i : Nat) =>
    let img := (b.body.drop (n * i)).take n
    let x := { x with entries := Tbl.set x.entries (x.entryKey part table false i) img }
    { x with entries := Tbl.set x.entries (x.entryKey part table true i) img }
  s.modSbox fun x => (List.range (min (recCount b) (x.window part table).2)).foldl put x

def Loading.putTable (l : Loading) (b : BlockRec) : Except (BitVec 8) Loading := do
  let (base, l) ← l.putImage b.body
  pure { l with s := writeTable l.s l.part b, placed := l.placed ++ [(b.dw1.toNat, none, base, 8 * b.body.length)] }

def Loading.putMicro (l : Loading) (b : BlockRec) : Except (BitVec 8) Loading := do
  let (base, l) ← l.putImage b.body
  pure { l with placed := l.placed ++ [(b.dw1.toNat, none, base, 8 * b.body.length)] }

/-- Step 5. -/
def Loading.allocate (l : Loading) : Except (BitVec 8) Loading := do
  let l ← if l.image.geom.isEmpty then pure l else do
    let (base, l) ← l.putImage (l.image.geom.flatMap id)
    pure { l with geom := base }
  let l ← l.image.sbox.foldlM Loading.putTable l
  let l ← l.image.amicro.foldlM Loading.putMicro l
  let l ← l.image.tiles.foldlM Loading.putTile l
  l.image.cells.foldlM Loading.putCellRec l

/-- The token numbers that an image's symbols fix. -/
def fixedTokens (i : OverlayImage) : List Nat := (i.symbols.filter fun y => y.typ == 14 && decide (y.value < 32)).map Sym.value

/-- Step 6: each token symbol with value 0xFFFF gets the lowest t number that no overlay of the partition uses (log 93). -/
def Loading.giveTokens (l : Loading) : Except (BitVec 8) Loading :=
  (List.range l.image.symbols.length).foldlM (fun (l : Loading) k =>
    match l.image.symbols[k]? with
    | some y =>
      if y.typ = 14 ∧ y.value = 0xFFFF then do
        let used := (l.s.overlaysOf l.part).flatMap Overlay.tokens ++ fixedTokens l.image ++ l.tokens.map Prod.snd
        let t ← orCode 0x06 ((List.range 32).find? fun t => !used.contains t)
        pure { l with tokens := l.tokens ++ [(k, t)] }
      else pure l
    | none => pure l) l

/-! ## Relocations (R143) -/

/-- The record of the cell that has an index among the image's cells: its first cell, its place in it and its count. -/
def cellOfIndex : List (Word64 × Word64) → List Nat → Nat → Option (Nat × Nat × Nat)
  | c :: cs, a :: as, i => if i < cellCount c then some (a, i, cellCount c) else cellOfIndex cs as (i - cellCount c)
  | _, _, _ => none

def Loading.record (l : Loading) (k : Nat) : Option (Nat × Option Nat × Nat × Nat) := l.placed.find? fun p => p.1 == k

/-- A symbol's value as placed. -/
def Loading.value (l : Loading) (k : Nat) : Except (BitVec 8) Nat := do
  let y ← orCode 0x07 l.image.symbols[k]?
  if y.typ = 14 then pure (((l.tokens.find? fun t => t.1 == k).map Prod.snd).getD y.value)
  else match y.shndx with
    | 1 => pure (l.baseA + y.value)
    | 2 => pure (l.baseX + y.value)
    | 3 => pure (l.geom + y.value)
    | 4 => orCode 0x07 ((l.record k).bind fun p => p.2.1)
    | 5 => orCode 0x07 ((cellOfIndex l.image.cells l.recs y.value).map fun c => c.1 + c.2.1)
    | 6 | 7 => orCode 0x07 ((l.record k).map fun p => p.2.2.1)
    | 8 => pure y.value
    | _ => .error 0x07

/-- Space, base and length of a symbol's storage. -/
def Loading.storageOf (l : Loading) (k : Nat) : Except (BitVec 8) (BitVec 4 × Nat × Nat) := do
  let y ← orCode 0x07 l.image.symbols[k]?
  match y.shndx with
  | 3 => pure (0, l.geom + y.value, 96)
  | 4 | 6 | 7 => orCode 0x07 ((l.record k).map fun p => (0, p.2.2.1, p.2.2.2))
  | 5 => orCode 0x07 ((cellOfIndex l.image.cells l.recs y.value).map fun c => (3, 8 * c.1, 8 * c.2.2))
  | 0 => .error 0x07
  | _ => .error 0x08

/-- Bits of a word replaced. -/
def patch96 (w : Word96) (off n : Nat) (v : BitVec 96) : Word96 :=
  (w &&& ~~~((BitVec.allOnes 96 >>> (96 - n)) <<< off)) ||| ((v &&& (BitVec.allOnes 96 >>> (96 - n))) <<< off)

def fits48 (v : Int) : Bool := decide (-(2 ^ 47) ≤ v) && decide (v < 2 ^ 47)

/-- The patch of a word at a syllable of a stream that starts at a base. -/
def Loading.patchWord (l : Loading) (st : List (BitVec 32)) (base : Nat) (other : List (BitVec 32)) (otherBase : Nat) (r : Rela) :
    Except (BitVec 8) (List (BitVec 32)) := do
  check 0x08 (r.offset % 4 = 0)
  let a := r.offset / 4
  let v ← l.value r.sym
  let x : Int := v + r.addend
  if r.typ = 6 then
    check 0x08 ((streamSections st).any fun sec => sec.1 == a)
    check 0x08 (decide (otherBase ≤ v) && (streamSections other).any fun sec => sec.1 == v - otherBase)
    let h := hdrAt st a
    pure (setHdr st a (h.extractLsb' 30 34 ++ hdrNum (hdrAt other (v - otherBase)) ++ h.extractLsb' 0 16))
  else
    let isLit ← orCode 0x08 (wordKind st a)
    let w := wordAt st a
    let y := l.image.symbols.getD r.sym ⟨0, 0, 0⟩
    let w ← match r.typ with
      | 1 => do
        check 0x08 (fits48 x)
        pure (if isLit then patch96 w 0 64 (BitVec.ofInt 96 x) else patch96 w 8 48 (BitVec.ofInt 96 x))
      | 2 => do
        let p : Int := ((base + a : Nat) : Int)
        let header := fun (st : List (BitVec 32)) (b : Nat) => (streamSections st).any fun sec => decide (((b + sec.1 : Nat) : Int) = x)
        check 0x08 (header st base || header other otherBase)
        pure (patch96 w 8 48 (BitVec.ofInt 96 (x - p)))
      | 4 => do
        check 0x08 (decide (y.shndx = 3))
        pure (patch96 w 0 48 (BitVec.ofInt 96 x))
      | 5 => do
        check 0x08 (decide (y.shndx = 4) || decide (y.shndx = 5))
        pure (patch96 w 0 32 (BitVec.ofInt 96 x))
      | 7 => do
        check 0x08 (decide (0 ≤ x) && decide (x < 32) && !w.getLsbD 69)
        pure (patch96 w 64 5 (BitVec.ofInt 96 x))
      | _ => .error 0x08
    pure (setWord st a w)

/-- Whether an address of HBM or of the porter cells lies inside a partition: its page is mapped to storage granted to it, or the cell
is granted (R143). -/
def State.insidePart (s : State) (part : BitVec 5) (space : BitVec 4) (a : Nat) : Bool :=
  if space = 3 then s.cellGranted part (a / 8)
  else match s.walk part a with
    | .leaf log2 pa _ _ _ _ => s.granted part (pa + a % 2 ^ log2) 1
    | _ => false

/-- The pointer of a kind-2 cell record: bounds exactly the symbol's storage (R270), its address S + A (R143). -/
def Loading.patchCell (l : Loading) (r : Rela) : Except (BitVec 8) Loading := do
  let i := r.offset / 16
  let c ← orCode 0x08 l.image.cells[i]?
  check 0x08 (cellKind c = 2)
  let (space, base, len) ← l.storageOf r.sym
  let x : Int := (base : Int) + r.addend
  check 0x08 (decide (0 ≤ x) && l.s.insidePart l.part space x.toNat)
  let p := boundedCap space (c.1.extractLsb' 54 8) l.part base len base
  pure { l with s := l.s.putCap (l.recs.getD i 0) (p.setCursor (BitVec.ofInt 64 x)) }

/-- One relocation. -/
def Loading.relocate (l : Loading) (r : Rela) : Except (BitVec 8) Loading := do
  if r.typ = 0 then pure l
  else if r.typ = 3 then
    check 0x08 (r.target = 2)
    l.patchCell r
  else match r.target with
    | 0 => do
      let st ← l.patchWord l.streamA l.baseA l.streamX l.baseX r
      pure { l with streamA := st }
    | 1 => do
      let st ← l.patchWord l.streamX l.baseX l.streamA l.baseA r
      pure { l with streamX := st }
    | _ => .error 0x08

/-- Both streams go into their banks. -/
def writeStream (s : State) (base : Nat) (st : List (BitVec 32)) : State :=
  { s with mem := s.mem.write (syllAt base) (st.flatMap fun v => toBytes 4 v.toNat) }

/-- The nine steps of R144: the state with the overlay loaded, or the code of the first step that fails. -/
def loadSteps (s : State) (part : BitVec 5) (number : BitVec 16) (i : OverlayImage) : Except (BitVec 8) State := do
  check 0x01 (overlayImageOk i)
  check 0x04 (needsMet s i)
  check 0x03 (crcsOk i.streamA && crcsOk i.streamX)
  let startX := roundUp i.streamA.length 64
  let banks ← orCode 0x05 (freeBanks s (startX + i.streamX.length))
  let base := banks.headD 0 * 2 ^ 17
  let l : Loading :=
    { s := s, part := part, image := i, cells := [], storage := [], recs := [], placed := [], geom := 0, baseA := base
      baseX := base + startX, tokens := [], streamA := i.streamA, streamX := i.streamX }
  let l ← l.allocate
  let l ← l.giveTokens
  let l ← i.relas.foldlM Loading.relocate l
  let s := writeStream (writeStream l.s base (withCrcs l.streamA)) (base + startX) (withCrcs l.streamX)
  check 0x09 (s.overlay? part number).isNone
  let o : Overlay :=
    { part := part, num := number, banks := banks, lenA := i.streamA.length, lenX := i.streamX.length, startX := startX
      shape := overlayShape i, cls := overlayClass i, needs := i.needs.map Prod.fst, loops := i.looptab, cells := l.cells
      handleCells := l.placed.filterMap fun p => p.2.1, tokens := fixedTokens i ++ l.tokens.map Prod.snd, geomLo := l.geom
      geomHi := l.geom + 96 * i.geom.length, storage := l.storage, mask := i.trailer.extractLsb' 48 8 }
  pure { s with disp := { s.disp with overlays := s.disp.overlays ++ [o] } }

/-- The loader's answer. -/
def State.loaderStatus (s : State) (code : BitVec 8) : State := { s with disp := { s.disp with loadStatus := code } }

def loadOverlay (s : State) (part : BitVec 5) (number : BitVec 16) (i : OverlayImage) : State :=
  match loadSteps s part number i with
  | .ok t => t.loaderStatus 0
  | .error c => s.loaderStatus c

def execLoadOverlay (part : BitVec 5) (number : BitVec 16) (image : OverlayImage) (s : State) : Host.Outcome State Fault Refusal :=
  .next (loadOverlay s part number image)

/-! ## Unloading (R146) -/

/-- A handle cell is swapped with null; a counted handle in it is dropped (R76). -/
def clearHandle (s : State) (n : Nat) : State :=
  let c := s.mem.readCap (cellAt n)
  let s := s.putCap n nullCap
  if c.tag && c.counted then s.dropWeight dispatcherCore c else s

/-- The storage of an image goes back. -/
def releaseStorage (s : State) (key : Nat) : State := returnWeight s key (s.dirEntry key).total

def unload (s : State) (o : Overlay) : State :=
  let s := { s with disp := { s.disp with overlays := s.disp.overlays.filter fun x => !(x.part == o.part && x.num == o.num) } }
  o.storage.foldl releaseStorage (o.handleCells.foldl clearHandle s)

/-- UNLOAD_OVERLAY. -/
def unloadOverlay (s : State) (part : BitVec 5) (number : BitVec 16) : State :=
  match s.overlay? part number with
  | none => s
  | some o =>
    if (s.trainsOf part).any fun t => t.overlay == number then s.loaderStatus 0x0A
    else (unload s o).loaderStatus 0

def execUnloadOverlay (part : BitVec 5) (number : BitVec 16) (s : State) : Host.Outcome State Fault Refusal :=
  .next (unloadOverlay s part number)

end Sys2Proof.Machine
end

