-- ==== Sys2Proof/Machine/Scalar.lean ====
section
/-! DEFINITION. The scalar words, opcodes 0x10 to 0x15: SALU, SALUI (R124, R388), SDIV (R390), SFP (R392, R393), PSET (R382), LIT
(R114, R365). -/
namespace Sys2Proof.Machine
open Sys2Proof

/-! ## SALU and SALUI (R124) -/

/-- A shift amount: bits 5:0. -/
def amount (b : Word64) : Nat := (b.setWidth 6).toNat

def aluAdd (a b : Word64) : Word64 := a + b
def aluSub (a b : Word64) : Word64 := a - b
def aluAnd (a b : Word64) : Word64 := a &&& b
def aluOr (a b : Word64) : Word64 := a ||| b
def aluXor (a b : Word64) : Word64 := a ^^^ b
def aluAndn (a b : Word64) : Word64 := a &&& ~~~b
def aluShl (a b : Word64) : Word64 := a <<< amount b
def aluShr (a b : Word64) : Word64 := a >>> amount b
def aluSar (a b : Word64) : Word64 := a.sshiftRight (amount b)
def aluRol (a b : Word64) : Word64 := a.rotateLeft (amount b)
def aluMin (a b : Word64) : Word64 := if b.slt a then b else a
def aluMax (a b : Word64) : Word64 := if a.slt b then b else a
def aluMinu (a b : Word64) : Word64 := if b.ult a then b else a
def aluMaxu (a b : Word64) : Word64 := if a.ult b then b else a
def aluMul (a b : Word64) : Word64 := a * b
/-- Bits 127:64 of the signed product. -/
def aluMulh (a b : Word64) : Word64 := BitVec.ofInt 64 (a.toInt * b.toInt / 2 ^ 64)
def aluMulhu (a b : Word64) : Word64 := BitVec.ofNat 64 (a.toNat * b.toNat / 2 ^ 64)
def aluSeq (a b : Word64) : Word64 := boolWord (condEq a b)
def aluSne (a b : Word64) : Word64 := boolWord (condNe a b)
def aluSlt (a b : Word64) : Word64 := boolWord (condLt a b)
def aluSltu (a b : Word64) : Word64 := boolWord (condLtu a b)
def aluSel (a b c : Word64) : Word64 := if c = 0 then b else a

/-- Leading zeros of the low n bits. -/
def clzFrom (a : Word64) : Nat → Nat
  | 0 => 0
  | n + 1 => if a.getLsbD n then 0 else 1 + clzFrom a n

/-- Trailing zeros from bit 64 − n on. -/
def ctzFrom (a : Word64) : Nat → Nat
  | 0 => 0
  | n + 1 => if a.getLsbD (63 - n) then 0 else 1 + ctzFrom a n

def popFrom (a : Word64) : Nat → Nat
  | 0 => 0
  | n + 1 => (if a.getLsbD n then 1 else 0) + popFrom a n

def aluClz (a : Word64) : Word64 := BitVec.ofNat 64 (clzFrom a 64)
def aluCtz (a : Word64) : Word64 := BitVec.ofNat 64 (ctzFrom a 64)
def aluPop (a : Word64) : Word64 := BitVec.ofNat 64 (popFrom a 64)

/-- A result of two sources. -/
def binAct (lat : Nat) (f : Word64 → Word64 → Word64) (d a b : BitVec 6) : Act Unit := do
  let x ← readS a
  let y ← readS b
  writeS d lat (f x y)

/-- A result of one source. -/
def unAct (lat : Nat) (f : Word64 → Word64) (d a : BitVec 6) : Act Unit := do
  let x ← readS a
  writeS d lat (f x)

/-- A result of three sources. -/
def terAct (lat : Nat) (f : Word64 → Word64 → Word64 → Word64) (d a b c : BitVec 6) : Act Unit := do
  let x ← readS a
  let y ← readS b
  let z ← readS c
  writeS d lat (f x y z)

/-- SALUI's second operand (R388). -/
def sxImm48 (imm : BitVec 48) : Word64 := imm.signExtend 64

def execSaluAdd (g : Guard) (d a b : BitVec 6) (s : State) : Host.Outcome State Fault Refusal :=
  issueFall g (skip 1 [.sSrc a, .sSrc b, .sDst d]) (binAct 1 aluAdd d a b) s

def execSaluSub (g : Guard) (d a b : BitVec 6) (s : State) : Host.Outcome State Fault Refusal :=
  issueFall g (skip 1 [.sSrc a, .sSrc b, .sDst d]) (binAct 1 aluSub d a b) s

def execSaluAnd (g : Guard) (d a b : BitVec 6) (s : State) : Host.Outcome State Fault Refusal :=
  issueFall g (skip 1 [.sSrc a, .sSrc b, .sDst d]) (binAct 1 aluAnd d a b) s

def execSaluOr (g : Guard) (d a b : BitVec 6) (s : State) : Host.Outcome State Fault Refusal :=
  issueFall g (skip 1 [.sSrc a, .sSrc b, .sDst d]) (binAct 1 aluOr d a b) s

def execSaluXor (g : Guard) (d a b : BitVec 6) (s : State) : Host.Outcome State Fault Refusal :=
  issueFall g (skip 1 [.sSrc a, .sSrc b, .sDst d]) (binAct 1 aluXor d a b) s

def execSaluAndn (g : Guard) (d a b : BitVec 6) (s : State) : Host.Outcome State Fault Refusal :=
  issueFall g (skip 1 [.sSrc a, .sSrc b, .sDst d]) (binAct 1 aluAndn d a b) s

def execSaluShl (g : Guard) (d a b : BitVec 6) (s : State) : Host.Outcome State Fault Refusal :=
  issueFall g (skip 1 [.sSrc a, .sSrc b, .sDst d]) (binAct 1 aluShl d a b) s

def execSaluShr (g : Guard) (d a b : BitVec 6) (s : State) : Host.Outcome State Fault Refusal :=
  issueFall g (skip 1 [.sSrc a, .sSrc b, .sDst d]) (binAct 1 aluShr d a b) s

def execSaluSar (g : Guard) (d a b : BitVec 6) (s : State) : Host.Outcome State Fault Refusal :=
  issueFall g (skip 1 [.sSrc a, .sSrc b, .sDst d]) (binAct 1 aluSar d a b) s

def execSaluRol (g : Guard) (d a b : BitVec 6) (s : State) : Host.Outcome State Fault Refusal :=
  issueFall g (skip 1 [.sSrc a, .sSrc b, .sDst d]) (binAct 1 aluRol d a b) s

def execSaluMin (g : Guard) (d a b : BitVec 6) (s : State) : Host.Outcome State Fault Refusal :=
  issueFall g (skip 1 [.sSrc a, .sSrc b, .sDst d]) (binAct 1 aluMin d a b) s

def execSaluMax (g : Guard) (d a b : BitVec 6) (s : State) : Host.Outcome State Fault Refusal :=
  issueFall g (skip 1 [.sSrc a, .sSrc b, .sDst d]) (binAct 1 aluMax d a b) s

def execSaluMinu (g : Guard) (d a b : BitVec 6) (s : State) : Host.Outcome State Fault Refusal :=
  issueFall g (skip 1 [.sSrc a, .sSrc b, .sDst d]) (binAct 1 aluMinu d a b) s

def execSaluMaxu (g : Guard) (d a b : BitVec 6) (s : State) : Host.Outcome State Fault Refusal :=
  issueFall g (skip 1 [.sSrc a, .sSrc b, .sDst d]) (binAct 1 aluMaxu d a b) s

def execSaluMul (g : Guard) (d a b : BitVec 6) (s : State) : Host.Outcome State Fault Refusal :=
  issueFall g (skip 3 [.sSrc a, .sSrc b, .sDst d]) (binAct 3 aluMul d a b) s

def execSaluMulh (g : Guard) (d a b : BitVec 6) (s : State) : Host.Outcome State Fault Refusal :=
  issueFall g (skip 3 [.sSrc a, .sSrc b, .sDst d]) (binAct 3 aluMulh d a b) s

def execSaluMulhu (g : Guard) (d a b : BitVec 6) (s : State) : Host.Outcome State Fault Refusal :=
  issueFall g (skip 3 [.sSrc a, .sSrc b, .sDst d]) (binAct 3 aluMulhu d a b) s

def execSaluSeq (g : Guard) (d a b : BitVec 6) (s : State) : Host.Outcome State Fault Refusal :=
  issueFall g (skip 1 [.sSrc a, .sSrc b, .sDst d]) (binAct 1 aluSeq d a b) s

def execSaluSne (g : Guard) (d a b : BitVec 6) (s : State) : Host.Outcome State Fault Refusal :=
  issueFall g (skip 1 [.sSrc a, .sSrc b, .sDst d]) (binAct 1 aluSne d a b) s

def execSaluSlt (g : Guard) (d a b : BitVec 6) (s : State) : Host.Outcome State Fault Refusal :=
  issueFall g (skip 1 [.sSrc a, .sSrc b, .sDst d]) (binAct 1 aluSlt d a b) s

def execSaluSltu (g : Guard) (d a b : BitVec 6) (s : State) : Host.Outcome State Fault Refusal :=
  issueFall g (skip 1 [.sSrc a, .sSrc b, .sDst d]) (binAct 1 aluSltu d a b) s

def execSaluSel (g : Guard) (d a b c : BitVec 6) (s : State) : Host.Outcome State Fault Refusal :=
  issueFall g (skip 1 [.sSrc a, .sSrc b, .sSrc c, .sDst d]) (terAct 1 aluSel d a b c) s

def execSaluClz (g : Guard) (d a : BitVec 6) (s : State) : Host.Outcome State Fault Refusal :=
  issueFall g (skip 1 [.sSrc a, .sDst d]) (unAct 1 aluClz d a) s

def execSaluCtz (g : Guard) (d a : BitVec 6) (s : State) : Host.Outcome State Fault Refusal :=
  issueFall g (skip 1 [.sSrc a, .sDst d]) (unAct 1 aluCtz d a) s

def execSaluPop (g : Guard) (d a : BitVec 6) (s : State) : Host.Outcome State Fault Refusal :=
  issueFall g (skip 1 [.sSrc a, .sDst d]) (unAct 1 aluPop d a) s

def execSaluiAdd (g : Guard) (d a : BitVec 6) (imm : BitVec 48) (s : State) : Host.Outcome State Fault Refusal :=
  issueFall g (skip 1 [.sSrc a, .sDst d]) (unAct 1 (fun x => aluAdd x (sxImm48 imm)) d a) s

def execSaluiSub (g : Guard) (d a : BitVec 6) (imm : BitVec 48) (s : State) : Host.Outcome State Fault Refusal :=
  issueFall g (skip 1 [.sSrc a, .sDst d]) (unAct 1 (fun x => aluSub x (sxImm48 imm)) d a) s

def execSaluiAnd (g : Guard) (d a : BitVec 6) (imm : BitVec 48) (s : State) : Host.Outcome State Fault Refusal :=
  issueFall g (skip 1 [.sSrc a, .sDst d]) (unAct 1 (fun x => aluAnd x (sxImm48 imm)) d a) s

def execSaluiOr (g : Guard) (d a : BitVec 6) (imm : BitVec 48) (s : State) : Host.Outcome State Fault Refusal :=
  issueFall g (skip 1 [.sSrc a, .sDst d]) (unAct 1 (fun x => aluOr x (sxImm48 imm)) d a) s

def execSaluiXor (g : Guard) (d a : BitVec 6) (imm : BitVec 48) (s : State) : Host.Outcome State Fault Refusal :=
  issueFall g (skip 1 [.sSrc a, .sDst d]) (unAct 1 (fun x => aluXor x (sxImm48 imm)) d a) s

def execSaluiAndn (g : Guard) (d a : BitVec 6) (imm : BitVec 48) (s : State) : Host.Outcome State Fault Refusal :=
  issueFall g (skip 1 [.sSrc a, .sDst d]) (unAct 1 (fun x => aluAndn x (sxImm48 imm)) d a) s

def execSaluiShl (g : Guard) (d a : BitVec 6) (imm : BitVec 48) (s : State) : Host.Outcome State Fault Refusal :=
  issueFall g (skip 1 [.sSrc a, .sDst d]) (unAct 1 (fun x => aluShl x (sxImm48 imm)) d a) s

def execSaluiShr (g : Guard) (d a : BitVec 6) (imm : BitVec 48) (s : State) : Host.Outcome State Fault Refusal :=
  issueFall g (skip 1 [.sSrc a, .sDst d]) (unAct 1 (fun x => aluShr x (sxImm48 imm)) d a) s

def execSaluiSar (g : Guard) (d a : BitVec 6) (imm : BitVec 48) (s : State) : Host.Outcome State Fault Refusal :=
  issueFall g (skip 1 [.sSrc a, .sDst d]) (unAct 1 (fun x => aluSar x (sxImm48 imm)) d a) s

def execSaluiRol (g : Guard) (d a : BitVec 6) (imm : BitVec 48) (s : State) : Host.Outcome State Fault Refusal :=
  issueFall g (skip 1 [.sSrc a, .sDst d]) (unAct 1 (fun x => aluRol x (sxImm48 imm)) d a) s

def execSaluiMin (g : Guard) (d a : BitVec 6) (imm : BitVec 48) (s : State) : Host.Outcome State Fault Refusal :=
  issueFall g (skip 1 [.sSrc a, .sDst d]) (unAct 1 (fun x => aluMin x (sxImm48 imm)) d a) s

def execSaluiMax (g : Guard) (d a : BitVec 6) (imm : BitVec 48) (s : State) : Host.Outcome State Fault Refusal :=
  issueFall g (skip 1 [.sSrc a, .sDst d]) (unAct 1 (fun x => aluMax x (sxImm48 imm)) d a) s

def execSaluiMinu (g : Guard) (d a : BitVec 6) (imm : BitVec 48) (s : State) : Host.Outcome State Fault Refusal :=
  issueFall g (skip 1 [.sSrc a, .sDst d]) (unAct 1 (fun x => aluMinu x (sxImm48 imm)) d a) s

def execSaluiMaxu (g : Guard) (d a : BitVec 6) (imm : BitVec 48) (s : State) : Host.Outcome State Fault Refusal :=
  issueFall g (skip 1 [.sSrc a, .sDst d]) (unAct 1 (fun x => aluMaxu x (sxImm48 imm)) d a) s

def execSaluiMul (g : Guard) (d a : BitVec 6) (imm : BitVec 48) (s : State) : Host.Outcome State Fault Refusal :=
  issueFall g (skip 3 [.sSrc a, .sDst d]) (unAct 3 (fun x => aluMul x (sxImm48 imm)) d a) s

def execSaluiMulh (g : Guard) (d a : BitVec 6) (imm : BitVec 48) (s : State) : Host.Outcome State Fault Refusal :=
  issueFall g (skip 3 [.sSrc a, .sDst d]) (unAct 3 (fun x => aluMulh x (sxImm48 imm)) d a) s

def execSaluiMulhu (g : Guard) (d a : BitVec 6) (imm : BitVec 48) (s : State) : Host.Outcome State Fault Refusal :=
  issueFall g (skip 3 [.sSrc a, .sDst d]) (unAct 3 (fun x => aluMulhu x (sxImm48 imm)) d a) s

def execSaluiSeq (g : Guard) (d a : BitVec 6) (imm : BitVec 48) (s : State) : Host.Outcome State Fault Refusal :=
  issueFall g (skip 1 [.sSrc a, .sDst d]) (unAct 1 (fun x => aluSeq x (sxImm48 imm)) d a) s

def execSaluiSne (g : Guard) (d a : BitVec 6) (imm : BitVec 48) (s : State) : Host.Outcome State Fault Refusal :=
  issueFall g (skip 1 [.sSrc a, .sDst d]) (unAct 1 (fun x => aluSne x (sxImm48 imm)) d a) s

def execSaluiSlt (g : Guard) (d a : BitVec 6) (imm : BitVec 48) (s : State) : Host.Outcome State Fault Refusal :=
  issueFall g (skip 1 [.sSrc a, .sDst d]) (unAct 1 (fun x => aluSlt x (sxImm48 imm)) d a) s

def execSaluiSltu (g : Guard) (d a : BitVec 6) (imm : BitVec 48) (s : State) : Host.Outcome State Fault Refusal :=
  issueFall g (skip 1 [.sSrc a, .sDst d]) (unAct 1 (fun x => aluSltu x (sxImm48 imm)) d a) s

/-! ## SDIV (R390) -/

/-- Division truncated toward zero; by zero, −1. -/
def sdivDiv (a b : Word64) : Word64 := if b = 0 then BitVec.allOnes 64 else BitVec.ofInt 64 (a.toInt.tdiv b.toInt)
def sdivDivu (a b : Word64) : Word64 := if b = 0 then BitVec.allOnes 64 else a / b
def sdivRem (a b : Word64) : Word64 := if b = 0 then a else BitVec.ofInt 64 (a.toInt.tmod b.toInt)
def sdivRemu (a b : Word64) : Word64 := if b = 0 then a else a % b

def execSdivDiv (g : Guard) (d a b : BitVec 6) (s : State) : Host.Outcome State Fault Refusal :=
  issueFall g (skip 18 [.sSrc a, .sSrc b, .sDst d]) (binAct 18 sdivDiv d a b) s

def execSdivDivu (g : Guard) (d a b : BitVec 6) (s : State) : Host.Outcome State Fault Refusal :=
  issueFall g (skip 18 [.sSrc a, .sSrc b, .sDst d]) (binAct 18 sdivDivu d a b) s

def execSdivRem (g : Guard) (d a b : BitVec 6) (s : State) : Host.Outcome State Fault Refusal :=
  issueFall g (skip 18 [.sSrc a, .sSrc b, .sDst d]) (binAct 18 sdivRem d a b) s

def execSdivRemu (g : Guard) (d a b : BitVec 6) (s : State) : Host.Outcome State Fault Refusal :=
  issueFall g (skip 18 [.sSrc a, .sSrc b, .sDst d]) (binAct 18 sdivRemu d a b) s

/-! ## SFP (R392, R393) -/

/-- The FP32 number in bits 31:0 of a source. -/
def fpIn (w : Word64) : XNum := fp32.decode (w.setWidth 32).toNat

/-- A number rounded to FP32 in mode 0, in bits 31:0. -/
def fpOut (x : XNum) : Word64 := BitVec.ofNat 64 (fp32.round 0 false x).1

def sfpAdd (a b : Word64) : Word64 := fpOut ((fpIn a).add 0 (fpIn b))
def sfpSub (a b : Word64) : Word64 := fpOut ((fpIn a).add 0 (fpIn b).neg)
def sfpMul (a b : Word64) : Word64 := fpOut ((fpIn a).mul (fpIn b))
def sfpFma (a b c : Word64) : Word64 := fpOut (((fpIn a).mul (fpIn b)).add 0 (fpIn c))
def sfpDiv (a b : Word64) : Word64 := fpOut ((fpIn a).div (fpIn b))
def sfpSqrt (a : Word64) : Word64 := fpOut (fpIn a).sqrt
def sfpMin (a b : Word64) : Word64 := fpOut ((fpIn a).min (fpIn b))
def sfpMax (a b : Word64) : Word64 := fpOut ((fpIn a).max (fpIn b))
/-- To a signed 64-bit integer, rounded, clamped; a NaN gives 0. -/
def sfpCvti (a : Word64) : Word64 := BitVec.ofInt 64 ((fpIn a).toRange 0 (-(2 ^ 63 : Int)) (2 ^ 63 - 1)).1
def sfpCvtf (a : Word64) : Word64 := fpOut (XNum.ofInt a.toInt)
def sfpEq (a b : Word64) : Word64 := boolWord ((fpIn a).cmp (fpIn b) == some 0)
def sfpLt (a b : Word64) : Word64 := boolWord (match (fpIn a).cmp (fpIn b) with | some c => decide (c < 0) | none => false)
def sfpLe (a b : Word64) : Word64 := boolWord (match (fpIn a).cmp (fpIn b) with | some c => decide (c ≤ 0) | none => false)

def execSfpAdd (g : Guard) (d a b : BitVec 6) (s : State) : Host.Outcome State Fault Refusal :=
  issueFall g (skip 4 [.sSrc a, .sSrc b, .sDst d]) (binAct 4 sfpAdd d a b) s

def execSfpSub (g : Guard) (d a b : BitVec 6) (s : State) : Host.Outcome State Fault Refusal :=
  issueFall g (skip 4 [.sSrc a, .sSrc b, .sDst d]) (binAct 4 sfpSub d a b) s

def execSfpMul (g : Guard) (d a b : BitVec 6) (s : State) : Host.Outcome State Fault Refusal :=
  issueFall g (skip 4 [.sSrc a, .sSrc b, .sDst d]) (binAct 4 sfpMul d a b) s

def execSfpFma (g : Guard) (d a b c : BitVec 6) (s : State) : Host.Outcome State Fault Refusal :=
  issueFall g (skip 4 [.sSrc a, .sSrc b, .sSrc c, .sDst d]) (terAct 4 sfpFma d a b c) s

def execSfpDiv (g : Guard) (d a b : BitVec 6) (s : State) : Host.Outcome State Fault Refusal :=
  issueFall g (skip 4 [.sSrc a, .sSrc b, .sDst d]) (binAct 4 sfpDiv d a b) s

def execSfpSqrt (g : Guard) (d a : BitVec 6) (s : State) : Host.Outcome State Fault Refusal :=
  issueFall g (skip 4 [.sSrc a, .sDst d]) (unAct 4 sfpSqrt d a) s

def execSfpMin (g : Guard) (d a b : BitVec 6) (s : State) : Host.Outcome State Fault Refusal :=
  issueFall g (skip 4 [.sSrc a, .sSrc b, .sDst d]) (binAct 4 sfpMin d a b) s

def execSfpMax (g : Guard) (d a b : BitVec 6) (s : State) : Host.Outcome State Fault Refusal :=
  issueFall g (skip 4 [.sSrc a, .sSrc b, .sDst d]) (binAct 4 sfpMax d a b) s

def execSfpCvti (g : Guard) (d a : BitVec 6) (s : State) : Host.Outcome State Fault Refusal :=
  issueFall g (skip 4 [.sSrc a, .sDst d]) (unAct 4 sfpCvti d a) s

def execSfpCvtf (g : Guard) (d a : BitVec 6) (s : State) : Host.Outcome State Fault Refusal :=
  issueFall g (skip 4 [.sSrc a, .sDst d]) (unAct 4 sfpCvtf d a) s

def execSfpEq (g : Guard) (d a b : BitVec 6) (s : State) : Host.Outcome State Fault Refusal :=
  issueFall g (skip 4 [.sSrc a, .sSrc b, .sDst d]) (binAct 4 sfpEq d a b) s

def execSfpLt (g : Guard) (d a b : BitVec 6) (s : State) : Host.Outcome State Fault Refusal :=
  issueFall g (skip 4 [.sSrc a, .sSrc b, .sDst d]) (binAct 4 sfpLt d a b) s

def execSfpLe (g : Guard) (d a b : BitVec 6) (s : State) : Host.Outcome State Fault Refusal :=
  issueFall g (skip 4 [.sSrc a, .sSrc b, .sDst d]) (binAct 4 sfpLe d a b) s

/-! ## PSET (R382) -/

/-- A predicate result, pushed too where the word says so: from the XS into bq0, from the AS into bq1. -/
def psetAct (d c : BitVec 6) (v : Bool) : Act Unit := do
  writeP (d.setWidth 4) 1 v
  if c.getLsbD 0 then
    let s ← get
    let q := match s.cur.2 with | .as => 5 | .xs => 4
    let id ← pushQ q
    result 1 (.fill q id (.val (boolWord v)))
  else pure ()

def psetPred (f : Bool → Bool → Bool) (d a b c : BitVec 6) : Act Unit := do
  let x ← readP (a.setWidth 4)
  let y ← readP (b.setWidth 4)
  psetAct d c (f x y)

def psetCmp (f : Word64 → Word64 → Bool) (d a b c : BitVec 6) : Act Unit := do
  let x ← readS a
  let y ← readS b
  psetAct d c (f x y)

/-- What a guarded-off PSET pushes. -/
def pushRoles (c : BitVec 6) : List Role := if c.getLsbD 0 then [.bqPush] else []

def execPsetAnd (g : Guard) (d a b c : BitVec 6) (s : State) : Host.Outcome State Fault Refusal :=
  issueFall g (skip 1 (pushRoles c)) (psetPred (fun x y => x && y) d a b c) s

def execPsetOr (g : Guard) (d a b c : BitVec 6) (s : State) : Host.Outcome State Fault Refusal :=
  issueFall g (skip 1 (pushRoles c)) (psetPred (fun x y => x || y) d a b c) s

def execPsetXor (g : Guard) (d a b c : BitVec 6) (s : State) : Host.Outcome State Fault Refusal :=
  issueFall g (skip 1 (pushRoles c)) (psetPred (fun x y => x != y) d a b c) s

def execPsetAndn (g : Guard) (d a b c : BitVec 6) (s : State) : Host.Outcome State Fault Refusal :=
  issueFall g (skip 1 (pushRoles c)) (psetPred (fun x y => x && !y) d a b c) s

def execPsetEq (g : Guard) (d a b c : BitVec 6) (s : State) : Host.Outcome State Fault Refusal :=
  issueFall g (skip 1 ([.sSrc a, .sSrc b] ++ pushRoles c)) (psetCmp condEq d a b c) s

def execPsetNe (g : Guard) (d a b c : BitVec 6) (s : State) : Host.Outcome State Fault Refusal :=
  issueFall g (skip 1 ([.sSrc a, .sSrc b] ++ pushRoles c)) (psetCmp condNe d a b c) s

def execPsetLt (g : Guard) (d a b c : BitVec 6) (s : State) : Host.Outcome State Fault Refusal :=
  issueFall g (skip 1 ([.sSrc a, .sSrc b] ++ pushRoles c)) (psetCmp condLt d a b c) s

def execPsetLtu (g : Guard) (d a b c : BitVec 6) (s : State) : Host.Outcome State Fault Refusal :=
  issueFall g (skip 1 ([.sSrc a, .sSrc b] ++ pushRoles c)) (psetCmp condLtu d a b c) s

def execPsetGe (g : Guard) (d a b c : BitVec 6) (s : State) : Host.Outcome State Fault Refusal :=
  issueFall g (skip 1 ([.sSrc a, .sSrc b] ++ pushRoles c)) (psetCmp condGe d a b c) s

def execPsetGeu (g : Guard) (d a b c : BitVec 6) (s : State) : Host.Outcome State Fault Refusal :=
  issueFall g (skip 1 ([.sSrc a, .sSrc b] ++ pushRoles c)) (psetCmp condGeu d a b c) s

/-! ## LIT (R114, R365) -/

def litAct (d : BitVec 6) (lit : Word96) : Act Ctl := do
  writeS d 1 (lit.setWidth 64)
  pure .fall

def execLit (g : Guard) (d : BitVec 6) (lit : Word96) (s : State) : Host.Outcome State Fault Refusal :=
  issueN 2 g (skip 1 [.sDst d]) (litAct d lit) s

end Sys2Proof.Machine
end

