-- ==== Sys2Proof/Machine/System.lean ====
section
/-! DEFINITION. The control and system words, opcodes 0x00 to 0x09: NOP, HALT, TRAP, RFT, SYSR, SYSW, OVLY, CARDONE, DLAUNCH,
TRACE; and what stands for a word that cannot be decoded. -/
namespace Sys2Proof.Machine
open Sys2Proof

/-- NOP (R376). -/
def execNop (g : Guard) (s : State) : Host.Outcome State Fault Refusal := issueFall g (pure ()) (pure ()) s

/-- HALT (R357): the consist stops at the next cycle. -/
def haltAct : Act Unit := do
  notInHandler
  let s ← get
  let c := s.cons s.curCons
  let syll := (s.seq s.cur.1 s.cur.2).at_.pc
  if c.next = some .halted then pure ()
  else
    set (c.cores.foldl (fun s core => traceEvent s core 2 0 (FaultClass.software.code * 2 ^ 32 + syll % 2 ^ 25) c.ttc)
      (s.setCons s.curCons { c with next := some .halted }))

def execHalt (g : Guard) (s : State) : Host.Outcome State Fault Refusal := issueFall g (pure ()) haltAct s

/-- TRAP.SW (R309). -/
def trapSwAct (imm : BitVec 48) : Act Ctl := do
  let s ← get
  pure (.trap (s.mkFault .software 0 (imm.signExtend 64)))

def execTrapSw (g : Guard) (imm : BitVec 48) (s : State) : Host.Outcome State Fault Refusal :=
  issue g (pure ()) (trapSwAct imm) s

/-- RFT (R212, R387): the sequencer has returned, and waits for the others. -/
def rftAct : Act Ctl := do
  let h ← inHandler
  need h .illegal 0x08
  pure (.stop .rft)

def execRft (g : Guard) (s : State) : Host.Outcome State Fault Refusal := issue g (pure ()) rftAct s

/-- The mask that SYSR spillmap reads (R155). -/
def spillMask (k : Core) : Word64 := k.spill.foldl (fun m p => m ||| (1#64 <<< p.1)) 0

/-- A system register as SYSR reads it (R226). -/
def sysReg (s : State) (core : Nat) (q : SeqId) (n : BitVec 8) : Word64 :=
  let k := s.core core
  let sq := s.seq core q
  match n.toNat with
  | 0x00 => BitVec.ofNat 64 core
  | 0x01 => (k.part.getD 0).setWidth 64
  | 0x02 => k.carid.setWidth 64
  | 0x03 => (Tbl.get 0 k.lvl 0).setWidth 64
  | 0x04 => (Tbl.get 0 k.lvl 1).setWidth 64
  | 0x05 => (Tbl.get 0 k.lvl 2).setWidth 64
  | 0x06 => (Tbl.get 0 k.lvl 3).setWidth 64
  | 0x08 => sq.tvec
  | 0x09 => sq.tcause
  | 0x0A => sq.tframe
  | 0x0B => sq.tinfo
  | 0x10 => sq.stbase
  | 0x11 => sq.stlimit
  | 0x12 => k.heapbase
  | 0x13 => k.heaplimit
  | 0x14 => k.heapoffset
  | 0x15 => k.npd
  | 0x18 => BitVec.ofNat 64 s.ptc
  | 0x19 => spillMask k
  | 0x1A => k.trcctl
  | _ => 0

/-- SYSR (R226, R397). -/
def sysrAct (d : BitVec 6) (reg : BitVec 8) : Act Unit := do
  let s ← get
  writeS d 2 (sysReg s s.cur.1 s.cur.2 reg)

def execSysr (g : Guard) (d : BitVec 6) (reg : BitVec 8) (s : State) : Host.Outcome State Fault Refusal :=
  issueFall g (skip 2 [.sDst d]) (sysrAct d reg) s

/-- SYSW (R226, R397). -/
def syswAct (a : BitVec 6) (reg : BitVec 8) : Act Unit := do
  let v ← readS a
  result 1 (.setSys reg v)

def execSysw (g : Guard) (a : BitVec 6) (reg : BitVec 8) (s : State) : Host.Outcome State Fault Refusal :=
  issueFall g (skip 1 [.sSrc a]) (syswAct a reg) s

/-- The number that a sequencer's OVLY names, if that is the word it issues guarded on at the current TTC (R377). DEDUCED: one that is
guarded off issues none, since both streams of the new overlay start (R378); log 111. -/
def namedBy (s : State) (core : Nat) (q : SeqId) : Option Word64 :=
  let sq := s.seq core q
  let p := sq.at_
  let w := s.mem.iword p.pc
  if p.start || opcodeOf w != 0x06 || s.dueAt p != some s.ttc ||
      !guardOn sq ⟨w.extractLsb' 84 4, w.extractLsb' 83 1, w.extractLsb' 76 7⟩ then none
  else if w.extractLsb' 56 8 = 0 then some ((w.extractLsb' 8 48).setWidth 64)
  else
    let r : BitVec 6 := w.extractLsb' 64 6
    match srcQueue r with
    | some n => match (s.core core).dqs n with
      | ⟨_, .val v⟩ :: _ => some v
      | _ => none
    | none => some (if r = 0 then 0 else if r = 61 then BitVec.ofNat 64 s.ttc else Tbl.get 0 sq.s r.toNat)

/-- Whether every other sequencer of the consist issues OVLY with this number in this cycle (R377). -/
def othersAgree (s : State) (n : Word64) : Bool :=
  (s.cons s.curCons).seqs.all fun cq =>
    cq == s.cur || (s.seq cq.1 cq.2).at_.stop == .ovly (n.setWidth 16) || namedBy s cq.1 cq.2 == some n

/-- The number that the lowest consist position names (R377). -/
def lowestNamed (s : State) (n : Word64) : Word64 :=
  ((s.cons s.curCons).seqs.findSome? fun cq =>
    if cq == s.cur then some n
    else namedBy s cq.1 cq.2).getD n

/-- Whether an overlay may run on a consist (R377). -/
def overlayFits (s : State) (c : Consist) (o : Overlay) : Bool :=
  o.cls == c.cls && (match o.shape with | some sh => sh == (c.cls, c.c, c.e) | none => true) && o.needs.all (s.needOk c.dies)

/-- OVLY with the number it has read (R44, R377, R378). -/
def ovlyAct (n : Word64) : Act Ctl := do
  notInHandler
  need (decide (n.toNat < 65536)) .resource 0 n
  let s ← get
  let c := s.cons s.curCons
  let fits := match s.overlay? c.part (n.setWidth 16) with | some o => overlayFits s c o | none => false
  need (othersAgree s n && fits) .resource 0 (lowestNamed s n)
  set (traceFlush (s.setCons s.curCons { c with next := some (.boundary (some (n.setWidth 16)) c.ttc) }) s.cur.1)
  pure (.stop (.ovly (n.setWidth 16)))

def execOvlyN (g : Guard) (imm : BitVec 48) (s : State) : Host.Outcome State Fault Refusal :=
  issue g (pure ()) (ovlyAct (imm.setWidth 64)) s

def ovlySAct (a : BitVec 6) : Act Ctl := do
  let v ← readS a
  ovlyAct v

def execOvlyS (g : Guard) (a : BitVec 6) (s : State) : Host.Outcome State Fault Refusal :=
  issue g (skip 1 [.sSrc a]) (ovlySAct a) s

/-- Whether every inter-sequencer queue of a core is empty (R35). -/
def queuesEmpty (k : Core) : Bool := [0, 1, 2, 3, 4, 5, 7].all (fun q => (k.dqs q).isEmpty) && k.hq.isEmpty

/-- CARDONE (R35, R345). -/
def cardoneAct : Act Ctl := do
  notInHandler
  let k ← getCore
  need (queuesEmpty k) .schedule 0x09
  modify fun s => traceFlush s s.cur.1
  pure (.stop .cardone)

def execCardone (g : Guard) (s : State) : Host.Outcome State Fault Refusal := issue g (pure ()) cardoneAct s

/-- DLAUNCH.P (R348). -/
def dlaunchAct (d a : BitVec 6) : Act Unit := do
  let v ← readS a
  need (decide (v.toNat % 64 = 0) && decide (v.toNat + 128 ≤ 0x100000)) .capability 0 v
  let s ← get
  let id ← awaitS d (2 * s.dist cDie hDie + 24) 2
  result (s.dC s.cur.1 + 4) (.launch v.toNat id)

def execDlaunchP (g : Guard) (d a : BitVec 6) (s : State) : Host.Outcome State Fault Refusal :=
  issueFall g (do
    let s ← get
    skip (2 * s.dist cDie hDie + 24) [.sSrc a, .sDst d]) (dlaunchAct d a) s

/-- TRACE.TS (R406). -/
def traceTsAct : Act Unit := modify fun s => traceEvent s s.cur.1 0 0 s.ttc s.ttc

def execTraceTs (g : Guard) (s : State) : Host.Outcome State Fault Refusal := issueFall g (pure ()) traceTsAct s

/-- TRACE.BR (R406). -/
def traceBrAct : Act Unit := modify fun s =>
  let w := (s.core s.cur.1).trcctl
  if trOn w && trBranches w then traceFlush s s.cur.1 else s

def execTraceBr (g : Guard) (s : State) : Host.Outcome State Fault Refusal := issueFall g (pure ()) traceBrAct s

/-- A word that fails a decode check, or a section start that R119 calls illegal: the illegal-instruction fault, whether a word
there would be guarded on or off (R122). -/
def execIllegalWord (sub : BitVec 8) (s : State) : Host.Outcome State Fault Refusal :=
  issue ⟨0, 0, 0⟩ (pure ()) (fault .illegal sub) s

end Sys2Proof.Machine
end

