-- ==== Sys2Proof/Machine/Vector.lean ====
section
/-! DEFINITION. The vector and mask words, opcodes 0x70 to 0x86: lane arithmetic (R199, R200, R223, R224, R264-R267, R306-R308,
R399, R400, R410-R416, R419, R420, R423-R426), vector memory (R225, R266, R307, R417, R418), the mask stack (R373, R374), and parking
(R155, R421, R422). -/
namespace Sys2Proof.Machine
open Sys2Proof

/-! ## Elements of a lane (R91, R123) -/

/-- Bits of an element of a lane type. -/
def elemBits (ty : Nat) : Nat := 32 / elemsPerLane ty

/-- A lane's elements, element 0 first. -/
def elemsOf (ty : Nat) (x : BitVec 32) : List Nat :=
  (List.range (elemsPerLane ty)).map fun i => x.toNat / 2 ^ (elemBits ty * i) % 2 ^ elemBits ty

/-- A lane from its elements. -/
def packElems (ty : Nat) : List Nat → BitVec 32
  | [] => 0
  | e :: t => BitVec.ofNat 32 (e % 2 ^ elemBits ty) ||| (packElems ty t <<< elemBits ty)

/-- The format of a floating lane type. -/
def laneFmt (ty : Nat) : Option Fmt :=
  match ty with
  | 2 => some fp32
  | 3 => some bf16
  | 4 => some fp16
  | 7 => some f8aFmt
  | 8 => some f8bFmt
  | _ => none

/-- An integer element's value: U32 unsigned, the I types signed. -/
def elemInt (ty e : Nat) : Int := if ty = 1 ∨ ty = 9 then e else if e < 2 ^ (elemBits ty - 1) then (e : Int) else (e : Int) - 2 ^ elemBits ty

/-- The range of an integer type. -/
def intRange (ty : Nat) : Int × Int :=
  if ty = 1 then (0, 2 ^ 32 - 1) else (-(2 ^ (elemBits ty - 1) : Int), 2 ^ (elemBits ty - 1) - 1)

/-- An exact integer as an element (R400): reduced, or clamped with the flag. -/
def intElem (ty : Nat) (sat : Bool) (v : Int) : Nat × Bool :=
  let r := intRange ty
  let c := if v < r.1 then r.1 else if r.2 < v then r.2 else v
  if sat then ((c % 2 ^ elemBits ty).toNat, c != v) else ((v % 2 ^ elemBits ty).toNat, false)

/-- The number an element holds. -/
def elemNum (ty e : Nat) : XNum := match laneFmt ty with | some f => f.decode e | none => XNum.ofInt (elemInt ty e)

/-! ## Results -/

/-- A lane and whether something in it saturated or was clamped. -/
abbrev LaneOut := BitVec 32 × Bool

/-- The lanes a word writes (R399). -/
def lanesFor (masked : BitVec 1) : Act LaneMask := do
  let k ← getCore
  pure (if masked = 1 then k.top else BitVec.allOnes 128)

/-- Whether a written lane carries the flag. -/
def anyFlag (m : LaneMask) : Nat → List LaneOut → Bool
  | _, [] => false
  | i, x :: t => (x.2 && m.getLsbD i) || anyFlag m (i + 1) t

/-- A vector result `lat` cycles on; a saturation reaches status entry 16 (R105). -/
def vecResult (vd : BitVec 6) (masked : BitVec 1) (lat : Nat) (out : List LaneOut) : Act Unit := do
  let m ← lanesFor masked
  result lat (.setV vd m (ofLanes (out.map Prod.fst)))
  if anyFlag m 0 out then result lat .satFlag else pure ()

def readV (r : BitVec 6) : Act VReg := do
  let k ← getCore
  pure (k.vreg r)

/-- Every lane by a function of its number. -/
def perLane (f : Nat → BitVec 32) : List LaneOut := (List.range 128).map fun i => (f i, false)

/-- Lanes whose elements come of one element each of two sources. -/
def zipElems (ty : Nat) (f : Nat → Nat → Nat × Bool) (a b : VReg) : List LaneOut :=
  (List.range 128).map fun i =>
    let r := List.zipWith f (elemsOf ty (lane a i)) (elemsOf ty (lane b i))
    (packElems ty (r.map Prod.fst), r.any Prod.snd)

/-- A word that computes elements from two registers. -/
def vec2Act (lat : Nat) (vd va vb : BitVec 6) (ty : BitVec 4) (masked : BitVec 1) (f : Nat → Nat → Nat × Bool) : Act Unit := do
  let a ← readV va
  let b ← readV vb
  vecResult vd masked lat (zipElems ty.toNat f a b)

/-- A word that computes lanes from two registers. -/
def lane2Act (lat : Nat) (vd va vb : BitVec 6) (masked : BitVec 1) (f : BitVec 32 → BitVec 32 → BitVec 32) : Act Unit := do
  let a ← readV va
  let b ← readV vb
  vecResult vd masked lat (perLane fun i => f (lane a i) (lane b i))

/-! ## VALU (R410) -/

/-- Arithmetic of one element (R400): exact, then rounded or reduced. -/
def arith (ty rm : Nat) (sat : Bool) (f : XNum → XNum → XNum) (g : Int → Int → Int) (a b : Nat) : Nat × Bool :=
  match laneFmt ty with
  | some fmt => fmt.round rm sat (f (fmt.decode a) (fmt.decode b))
  | none => intElem ty sat (g (elemInt ty a) (elemInt ty b))

def addElem (ty rm : Nat) (sat : Bool) : Nat → Nat → Nat × Bool := arith ty rm sat (XNum.add rm) (· + ·)
def subElem (ty rm : Nat) (sat : Bool) : Nat → Nat → Nat × Bool := arith ty rm sat (fun a b => XNum.add rm a b.neg) (· - ·)
def mulElem (ty rm : Nat) (sat : Bool) : Nat → Nat → Nat × Bool := arith ty rm sat XNum.mul (· * ·)
def minElem (ty : Nat) : Nat → Nat → Nat × Bool := arith ty 0 false XNum.min min
def maxElem (ty : Nat) : Nat → Nat → Nat × Bool := arith ty 0 false XNum.max max
def absElem (ty rm : Nat) (sat : Bool) (a _ : Nat) : Nat × Bool := arith ty rm sat (fun x _ => x.abs) (fun x _ => (x.natAbs : Int)) a a
def mulhElem (ty : Nat) (a b : Nat) : Nat × Bool :=
  ((elemInt ty a * elemInt ty b / 2 ^ elemBits ty % 2 ^ elemBits ty).toNat, false)
def shlElem (ty a b : Nat) : Nat × Bool := (a * 2 ^ (b % elemBits ty) % 2 ^ elemBits ty, false)
def shrElem (ty a b : Nat) : Nat × Bool := (a / 2 ^ (b % elemBits ty), false)
def sarElem (ty a b : Nat) : Nat × Bool := ((elemInt ty a / 2 ^ (b % elemBits ty) % 2 ^ elemBits ty).toNat, false)

/-- VALU.ADD (R410). -/
def execValuAdd (g : Guard) (vd va vb : BitVec 6) (ty : BitVec 4) (rm : BitVec 3) (sat masked : BitVec 1) (s : State) :
    Host.Outcome State Fault Refusal :=
  issueFall g (pure ()) (vec2Act 2 vd va vb ty masked (addElem ty.toNat rm.toNat (sat == 1))) s

/-- VALU.SUB (R410). -/
def execValuSub (g : Guard) (vd va vb : BitVec 6) (ty : BitVec 4) (rm : BitVec 3) (sat masked : BitVec 1) (s : State) :
    Host.Outcome State Fault Refusal :=
  issueFall g (pure ()) (vec2Act 2 vd va vb ty masked (subElem ty.toNat rm.toNat (sat == 1))) s

/-- VALU.MUL (R410). -/
def execValuMul (g : Guard) (vd va vb : BitVec 6) (ty : BitVec 4) (rm : BitVec 3) (sat masked : BitVec 1) (s : State) :
    Host.Outcome State Fault Refusal :=
  issueFall g (pure ()) (vec2Act 2 vd va vb ty masked (mulElem ty.toNat rm.toNat (sat == 1))) s

/-- VALU.ABS (R410). -/
def execValuAbs (g : Guard) (vd va : BitVec 6) (ty : BitVec 4) (rm : BitVec 3) (sat masked : BitVec 1) (s : State) :
    Host.Outcome State Fault Refusal :=
  issueFall g (pure ()) (vec2Act 2 vd va va ty masked (absElem ty.toNat rm.toNat (sat == 1))) s

/-- VALU.MIN (R410). -/
def execValuMin (g : Guard) (vd va vb : BitVec 6) (ty : BitVec 4) (rm : BitVec 3) (sat masked : BitVec 1) (s : State) :
    Host.Outcome State Fault Refusal :=
  let _ := (rm, sat)
  issueFall g (pure ()) (vec2Act 2 vd va vb ty masked (minElem ty.toNat)) s

/-- VALU.MAX (R410). -/
def execValuMax (g : Guard) (vd va vb : BitVec 6) (ty : BitVec 4) (rm : BitVec 3) (sat masked : BitVec 1) (s : State) :
    Host.Outcome State Fault Refusal :=
  let _ := (rm, sat)
  issueFall g (pure ()) (vec2Act 2 vd va vb ty masked (maxElem ty.toNat)) s

/-- VALU.MULH (R410). -/
def execValuMulh (g : Guard) (vd va vb : BitVec 6) (ty : BitVec 4) (rm : BitVec 3) (sat masked : BitVec 1) (s : State) :
    Host.Outcome State Fault Refusal :=
  let _ := (rm, sat)
  issueFall g (pure ()) (vec2Act 2 vd va vb ty masked (mulhElem ty.toNat)) s

/-- VALU.SHL (R410). -/
def execValuShl (g : Guard) (vd va vb : BitVec 6) (ty : BitVec 4) (rm : BitVec 3) (sat masked : BitVec 1) (s : State) :
    Host.Outcome State Fault Refusal :=
  let _ := (rm, sat)
  issueFall g (pure ()) (vec2Act 2 vd va vb ty masked (shlElem ty.toNat)) s

/-- VALU.SHR (R410). -/
def execValuShr (g : Guard) (vd va vb : BitVec 6) (ty : BitVec 4) (rm : BitVec 3) (sat masked : BitVec 1) (s : State) :
    Host.Outcome State Fault Refusal :=
  let _ := (rm, sat)
  issueFall g (pure ()) (vec2Act 2 vd va vb ty masked (shrElem ty.toNat)) s

/-- VALU.SAR (R410). -/
def execValuSar (g : Guard) (vd va vb : BitVec 6) (ty : BitVec 4) (rm : BitVec 3) (sat masked : BitVec 1) (s : State) :
    Host.Outcome State Fault Refusal :=
  let _ := (rm, sat)
  issueFall g (pure ()) (vec2Act 2 vd va vb ty masked (sarElem ty.toNat)) s

/-- VALU.AND (R410). -/
def execValuAnd (g : Guard) (vd va vb : BitVec 6) (ty : BitVec 4) (rm : BitVec 3) (sat masked : BitVec 1) (s : State) :
    Host.Outcome State Fault Refusal :=
  let _ := (rm, sat)
  issueFall g (pure ()) (vec2Act 2 vd va vb ty masked (fun a b => ((a &&& b), false))) s

/-- VALU.OR (R410). -/
def execValuOr (g : Guard) (vd va vb : BitVec 6) (ty : BitVec 4) (rm : BitVec 3) (sat masked : BitVec 1) (s : State) :
    Host.Outcome State Fault Refusal :=
  let _ := (rm, sat)
  issueFall g (pure ()) (vec2Act 2 vd va vb ty masked (fun a b => ((a ||| b), false))) s

/-- VALU.XOR (R410). -/
def execValuXor (g : Guard) (vd va vb : BitVec 6) (ty : BitVec 4) (rm : BitVec 3) (sat masked : BitVec 1) (s : State) :
    Host.Outcome State Fault Refusal :=
  let _ := (rm, sat)
  issueFall g (pure ()) (vec2Act 2 vd va vb ty masked (fun a b => ((a ^^^ b), false))) s

/-- VALU.ANDN (R410). -/
def execValuAndn (g : Guard) (vd va vb : BitVec 6) (ty : BitVec 4) (rm : BitVec 3) (sat masked : BitVec 1) (s : State) :
    Host.Outcome State Fault Refusal :=
  let _ := (rm, sat)
  issueFall g (pure ()) (vec2Act 2 vd va vb ty masked (fun a b => ((a &&& (2 ^ 32 - 1 - b)), false))) s

/-! ## VFMA, VCMP, VCVT (R412-R414) -/

/-- Every element formed exactly from three, and rounded once (R224, R414). -/
def fmaAct (vd va vb vc : BitVec 6) (ty : BitVec 4) (rm : BitVec 3) (sat masked : BitVec 1) (f : XNum → XNum → XNum → XNum) :
    Act Unit := do
  let a ← readV va
  let b ← readV vb
  let c ← readV vc
  let t := ty.toNat
  let fmt := (laneFmt t).getD fp32
  vecResult vd masked 4 ((List.range 128).map fun i =>
    let r := (((elemsOf t (lane a i)).zip (elemsOf t (lane b i))).zip (elemsOf t (lane c i))).map fun p =>
      fmt.round rm.toNat (sat == 1) (f (fmt.decode p.1.1) (fmt.decode p.1.2) (fmt.decode p.2))
    (packElems t (r.map Prod.fst), r.any Prod.snd))

/-- One element of a comparison: all ones or all zeros (R412). -/
def cmpElem (c : Cond) (ty a b : Nat) : Nat × Bool := (if c.ofSign (elemCmp ty a b) then 2 ^ elemBits ty - 1 else 0, false)

/-- Conversion of one element (R93, R413). -/
def convElem (src dst rm : Nat) (sat : Bool) (e : Nat) : Nat × Bool :=
  match laneFmt dst with
  | some f => f.round rm sat (elemNum src e)
  | none =>
    let r := intRange dst
    let v := XNum.toRange rm r.1 r.2 (elemNum src e)
    ((v.1 % 2 ^ elemBits dst).toNat, v.2)

/-- Where a conversion's elements stand in a lane of the destination, and which elements of the source they come of (R413). -/
def cvtLane (src dst q rm : Nat) (sat : Bool) (x : BitVec 32) : LaneOut :=
  let ns := elemsPerLane src
  let nd := elemsPerLane dst
  let es := elemsOf src x
  let used := if nd < ns then (es.drop (q * nd)).take nd else es
  let r := used.map (convElem src dst rm sat)
  let shift := if ns < nd then q * ns else 0
  (packElems dst (List.replicate shift 0 ++ r.map Prod.fst), r.any Prod.snd)

/-- The bits of a lane that a conversion writes. -/
def cvtBits (src dst q : Nat) : BitVec 32 :=
  let ns := elemsPerLane src
  let nd := elemsPerLane dst
  if ns < nd then packElems dst (List.replicate (q * ns) 0 ++ List.replicate ns (2 ^ elemBits dst - 1)) else BitVec.allOnes 32

/-- VCVT (R413). -/
def vcvtAct (vd va : BitVec 6) (ty : BitVec 4) (rm : BitVec 3) (sat masked : BitVec 1) (imm : BitVec 8) : Act Unit := do
  let a ← readV va
  let dst := imm.toNat % 16
  let q := imm.toNat / 16 % 4
  let out := (List.range 128).map fun i => cvtLane ty.toNat dst q rm.toNat (sat == 1) (lane a i)
  let m ← lanesFor masked
  let v := ofLanes (out.map Prod.fst)
  let bits := cvtBits ty.toNat dst q
  result 3 (if bits = BitVec.allOnes 32 then .setV vd m v else .setVPart vd m bits v)
  if anyFlag m 0 out then result 3 .satFlag else pure ()

def execVcvtCvt (g : Guard) (vd va : BitVec 6) (ty : BitVec 4) (rm : BitVec 3) (sat masked : BitVec 1) (imm : BitVec 8) (s : State) :
    Host.Outcome State Fault Refusal :=
  issueFall g (pure ()) (vcvtAct vd va ty rm sat masked imm) s

/-- VFMA.FMA (R224, R414). -/
def execVfmaFma (g : Guard) (vd va vb vc : BitVec 6) (ty : BitVec 4) (rm : BitVec 3) (sat masked : BitVec 1) (s : State) :
    Host.Outcome State Fault Refusal :=
  issueFall g (pure ()) (fmaAct vd va vb vc ty rm sat masked fun a b c => XNum.add rm.toNat (XNum.mul a b) c) s

/-- VFMA.FMS (R224, R414). -/
def execVfmaFms (g : Guard) (vd va vb vc : BitVec 6) (ty : BitVec 4) (rm : BitVec 3) (sat masked : BitVec 1) (s : State) :
    Host.Outcome State Fault Refusal :=
  issueFall g (pure ()) (fmaAct vd va vb vc ty rm sat masked fun a b c => XNum.add rm.toNat (XNum.mul a b) c.neg) s

/-- VFMA.FNMA (R224, R414). -/
def execVfmaFnma (g : Guard) (vd va vb vc : BitVec 6) (ty : BitVec 4) (rm : BitVec 3) (sat masked : BitVec 1) (s : State) :
    Host.Outcome State Fault Refusal :=
  issueFall g (pure ()) (fmaAct vd va vb vc ty rm sat masked fun a b c => XNum.add rm.toNat c (XNum.mul a b).neg) s

/-- VCMP.EQ (R412). -/
def execVcmpEq (g : Guard) (vd va vb : BitVec 6) (ty : BitVec 4) (masked : BitVec 1) (s : State) : Host.Outcome State Fault Refusal :=
  issueFall g (pure ()) (vec2Act 2 vd va vb ty masked (cmpElem .eq ty.toNat)) s

/-- VCMP.NE (R412). -/
def execVcmpNe (g : Guard) (vd va vb : BitVec 6) (ty : BitVec 4) (masked : BitVec 1) (s : State) : Host.Outcome State Fault Refusal :=
  issueFall g (pure ()) (vec2Act 2 vd va vb ty masked (cmpElem .ne ty.toNat)) s

/-- VCMP.LT (R412). -/
def execVcmpLt (g : Guard) (vd va vb : BitVec 6) (ty : BitVec 4) (masked : BitVec 1) (s : State) : Host.Outcome State Fault Refusal :=
  issueFall g (pure ()) (vec2Act 2 vd va vb ty masked (cmpElem .lt ty.toNat)) s

/-- VCMP.GE (R412). -/
def execVcmpGe (g : Guard) (vd va vb : BitVec 6) (ty : BitVec 4) (masked : BitVec 1) (s : State) : Host.Outcome State Fault Refusal :=
  issueFall g (pure ()) (vec2Act 2 vd va vb ty masked (cmpElem .ge ty.toNat)) s

/-- VFUN.EXP (R416). -/
def execVfunExp (g : Guard) (vd va : BitVec 6) (ty : BitVec 4) (rm : BitVec 3) (sat masked : BitVec 1) (s : State) :
    Host.Outcome State Fault Refusal :=
  issueFall g (pure ()) (vec2Act 8 vd va va ty masked fun a _ => fp32.round rm.toNat (sat == 1) (XNum.exp (fp32.decode a))) s

/-- VFUN.EXP2 (R416). -/
def execVfunExp2 (g : Guard) (vd va : BitVec 6) (ty : BitVec 4) (rm : BitVec 3) (sat masked : BitVec 1) (s : State) :
    Host.Outcome State Fault Refusal :=
  issueFall g (pure ()) (vec2Act 8 vd va va ty masked fun a _ => fp32.round rm.toNat (sat == 1) (XNum.exp2 (fp32.decode a))) s

/-- VFUN.LOG (R416). -/
def execVfunLog (g : Guard) (vd va : BitVec 6) (ty : BitVec 4) (rm : BitVec 3) (sat masked : BitVec 1) (s : State) :
    Host.Outcome State Fault Refusal :=
  issueFall g (pure ()) (vec2Act 8 vd va va ty masked fun a _ => fp32.round rm.toNat (sat == 1) (XNum.log (fp32.decode a))) s

/-- VFUN.LOG2 (R416). -/
def execVfunLog2 (g : Guard) (vd va : BitVec 6) (ty : BitVec 4) (rm : BitVec 3) (sat masked : BitVec 1) (s : State) :
    Host.Outcome State Fault Refusal :=
  issueFall g (pure ()) (vec2Act 8 vd va va ty masked fun a _ => fp32.round rm.toNat (sat == 1) (XNum.log2 (fp32.decode a))) s

/-- VFUN.RCP (R416). -/
def execVfunRcp (g : Guard) (vd va : BitVec 6) (ty : BitVec 4) (rm : BitVec 3) (sat masked : BitVec 1) (s : State) :
    Host.Outcome State Fault Refusal :=
  issueFall g (pure ()) (vec2Act 8 vd va va ty masked fun a _ => fp32.round rm.toNat (sat == 1) (XNum.rcp (fp32.decode a))) s

/-- VFUN.SQRT (R416). -/
def execVfunSqrt (g : Guard) (vd va : BitVec 6) (ty : BitVec 4) (rm : BitVec 3) (sat masked : BitVec 1) (s : State) :
    Host.Outcome State Fault Refusal :=
  issueFall g (pure ()) (vec2Act 8 vd va va ty masked fun a _ => fp32.round rm.toNat (sat == 1) (XNum.sqrt (fp32.decode a))) s

/-- VFUN.RSQRT (R416). -/
def execVfunRsqrt (g : Guard) (vd va : BitVec 6) (ty : BitVec 4) (rm : BitVec 3) (sat masked : BitVec 1) (s : State) :
    Host.Outcome State Fault Refusal :=
  issueFall g (pure ()) (vec2Act 8 vd va va ty masked fun a _ => fp32.round rm.toNat (sat == 1) (XNum.rsqrt (fp32.decode a))) s

/-- VFUN.TANH (R416). -/
def execVfunTanh (g : Guard) (vd va : BitVec 6) (ty : BitVec 4) (rm : BitVec 3) (sat masked : BitVec 1) (s : State) :
    Host.Outcome State Fault Refusal :=
  issueFall g (pure ()) (vec2Act 8 vd va va ty masked fun a _ => fp32.round rm.toNat (sat == 1) (XNum.tanh (fp32.decode a))) s

/-- VFUN.SIGM (R416). -/
def execVfunSigm (g : Guard) (vd va : BitVec 6) (ty : BitVec 4) (rm : BitVec 3) (sat masked : BitVec 1) (s : State) :
    Host.Outcome State Fault Refusal :=
  issueFall g (pure ()) (vec2Act 8 vd va va ty masked fun a _ => fp32.round rm.toNat (sat == 1) (XNum.sigm (fp32.decode a))) s

/-! ## Bits and lanes (R199, R200, R411, R415, R419, R423, R425) -/

/-- VLT3.LUT (R200): a bit from a table of eight. -/
def lutLane (tbl : BitVec 8) (a b c : BitVec 32) : BitVec 32 :=
  (List.range 8).foldl (fun acc i =>
    if tbl.getLsbD i then
      acc ||| ((if i / 4 = 1 then a else ~~~a) &&& (if i / 2 % 2 = 1 then b else ~~~b) &&& (if i % 2 = 1 then c else ~~~c))
    else acc) 0

def lutAct (vd va vb vc : BitVec 6) (masked : BitVec 1) (tbl : BitVec 8) : Act Unit := do
  let a ← readV va
  let b ← readV vb
  let c ← readV vc
  vecResult vd masked 2 (perLane fun i => lutLane tbl (lane a i) (lane b i) (lane c i))

def execVlt3Lut (g : Guard) (vd va vb vc : BitVec 6) (ty : BitVec 4) (masked : BitVec 1) (imm : BitVec 8) (s : State) :
    Host.Outcome State Fault Refusal :=
  let _ := ty
  issueFall g (pure ()) (lutAct vd va vb vc masked imm) s

/-- VFSH.L (R200, R415). -/
def execVfshL (g : Guard) (vd va vb : BitVec 6) (ty : BitVec 4) (masked : BitVec 1) (imm : BitVec 8) (s : State) :
    Host.Outcome State Fault Refusal :=
  let _ := ty
  issueFall g (pure ()) (lane2Act 2 vd va vb masked fun a b => ((a ++ b) <<< imm.toNat).extractLsb' 32 32) s

/-- VFSH.R (R415). -/
def execVfshR (g : Guard) (vd va vb : BitVec 6) (ty : BitVec 4) (masked : BitVec 1) (imm : BitVec 8) (s : State) :
    Host.Outcome State Fault Refusal :=
  let _ := ty
  issueFall g (pure ()) (lane2Act 2 vd va vb masked fun a b => ((a ++ b) >>> imm.toNat).extractLsb' 0 32) s

/-- VLROT (R200, R419): every lane of va is read. -/
def rotAct (vd va : BitVec 6) (masked : BitVec 1) (n : Nat) : Act Unit := do
  let a ← readV va
  vecResult vd masked 3 (perLane fun i => lane a ((i + n) % 128))

def execVlrotRot (g : Guard) (vd va : BitVec 6) (ty : BitVec 4) (masked : BitVec 1) (imm : BitVec 8) (s : State) :
    Host.Outcome State Fault Refusal :=
  let _ := ty
  issueFall g (pure ()) (rotAct vd va masked imm.toNat) s

def rotsAct (vd va : BitVec 6) (masked : BitVec 1) (sr : BitVec 6) : Act Unit := do
  let n ← readS sr
  rotAct vd va masked (n.toNat % 128)

def execVlrotRots (g : Guard) (vd va : BitVec 6) (ty : BitVec 4) (masked : BitVec 1) (sr : BitVec 6) (s : State) :
    Host.Outcome State Fault Refusal :=
  let _ := ty
  issueFall g (skip 1 [.sSrc sr]) (rotsAct vd va masked sr) s

/-- VPERM.IDX (R423). -/
def permAct (vd va vb : BitVec 6) (masked : BitVec 1) : Act Unit := do
  let a ← readV va
  let b ← readV vb
  vecResult vd masked 4 (perLane fun i => lane a ((lane b i).toNat % 128))

def execVpermIdx (g : Guard) (vd va vb : BitVec 6) (ty : BitVec 4) (masked : BitVec 1) (s : State) : Host.Outcome State Fault Refusal :=
  let _ := ty
  issueFall g (pure ()) (permAct vd va vb masked) s

/-- VPERM.IDX2 (R423). -/
def perm2Act (vd va vb vc : BitVec 6) (masked : BitVec 1) : Act Unit := do
  let a ← readV va
  let b ← readV vb
  let c ← readV vc
  vecResult vd masked 4 (perLane fun i =>
    let k := (lane b i).toNat % 256
    if k < 128 then lane a k else lane c (k - 128))

def execVpermIdx2 (g : Guard) (vd va vb vc : BitVec 6) (ty : BitVec 4) (masked : BitVec 1) (s : State) :
    Host.Outcome State Fault Refusal :=
  let _ := ty
  issueFall g (pure ()) (perm2Act vd va vb vc masked) s

/-- VBCAST (R411). -/
def bcastAct (vd : BitVec 6) (masked : BitVec 1) (x : BitVec 32) : Act Unit := vecResult vd masked 2 (perLane fun _ => x)

def bcastSAct (vd : BitVec 6) (masked : BitVec 1) (sr : BitVec 6) : Act Unit := do
  let v ← readS sr
  bcastAct vd masked (v.setWidth 32)

def execVbcastS (g : Guard) (vd : BitVec 6) (ty : BitVec 4) (masked : BitVec 1) (sr : BitVec 6) (s : State) :
    Host.Outcome State Fault Refusal :=
  let _ := ty
  issueFall g (skip 1 [.sSrc sr]) (bcastSAct vd masked sr) s

def bcastLaneAct (vd va : BitVec 6) (masked : BitVec 1) (n : Nat) : Act Unit := do
  let a ← readV va
  bcastAct vd masked (lane a n)

def execVbcastLane (g : Guard) (vd va : BitVec 6) (ty : BitVec 4) (masked : BitVec 1) (imm : BitVec 8) (s : State) :
    Host.Outcome State Fault Refusal :=
  let _ := ty
  issueFall g (pure ()) (bcastLaneAct vd va masked imm.toNat) s

def execVbcastImm (g : Guard) (vd : BitVec 6) (ty : BitVec 4) (masked : BitVec 1) (imm : BitVec 8) (s : State) :
    Host.Outcome State Fault Refusal :=
  let _ := ty
  issueFall g (pure ()) (bcastAct vd masked (imm.signExtend 32)) s

/-- VSEL.BIT (R425). -/
def selBitAct (vd va vb vc : BitVec 6) (masked : BitVec 1) : Act Unit := do
  let a ← readV va
  let b ← readV vb
  let c ← readV vc
  vecResult vd masked 2 (perLane fun i => (lane a i &&& lane c i) ||| (lane b i &&& ~~~(lane c i)))

def execVselBit (g : Guard) (vd va vb vc : BitVec 6) (ty : BitVec 4) (masked : BitVec 1) (s : State) : Host.Outcome State Fault Refusal :=
  let _ := ty
  issueFall g (pure ()) (selBitAct vd va vb vc masked) s

/-- VSEL.MASK (R425): all 128 lanes are written. -/
def selMaskAct (vd va vb : BitVec 6) : Act Unit := do
  let a ← readV va
  let b ← readV vb
  let k ← getCore
  vecResult vd 0 2 (perLane fun i => if k.top.getLsbD i then lane a i else lane b i)

def execVselMask (g : Guard) (vd va vb : BitVec 6) (ty : BitVec 4) (s : State) : Host.Outcome State Fault Refusal :=
  let _ := ty
  issueFall g (pure ()) (selMaskAct vd va vb) s

/-- VMOVS (R420). -/
def movsAct (va sr : BitVec 6) (n : Nat) (pair : Bool) : Act Unit := do
  let a ← readV va
  let d ← getD
  writeS sr (2 * d + 3) ((if pair then lane a (n + 1) else 0) ++ lane a n)

/-- What a guarded-off VMOVS pushes is there at its result's cycle. -/
def skipMovs (sr : BitVec 6) : Act Unit := do
  let d ← getD
  skip (2 * d + 3) [.sDst sr]

def execVmovsLane (g : Guard) (va : BitVec 6) (ty : BitVec 4) (sr : BitVec 6) (imm : BitVec 8) (s : State) :
    Host.Outcome State Fault Refusal :=
  let _ := ty
  issueFall g (skipMovs sr) (movsAct va sr imm.toNat false) s

def execVmovsPair (g : Guard) (va : BitVec 6) (ty : BitVec 4) (sr : BitVec 6) (imm : BitVec 8) (s : State) :
    Host.Outcome State Fault Refusal :=
  let _ := ty
  issueFall g (skipMovs sr) (movsAct va sr imm.toNat true) s

/-! ## VTOPK (R267, R426) -/

/-- Whether lane i of two comes before lane j in the ranking. -/
def ranksBefore (x : Nat → XNum) (i j : Nat) : Bool :=
  match XNum.cmp (x i) (x j) with
  | some c => decide (0 < c) || (decide (c = 0) && decide (i < j))
  | none => if (x j).isNan then !(x i).isNan || decide (i < j) else false

/-- The lane of every rank, rank 0 first. -/
def ranking (x : Nat → XNum) (n : Nat) : List Nat :=
  let place := fun j => ((List.range n).filter fun i => i != j && ranksBefore x i j).length
  let ps := (List.range n).map fun j => (place j, j)
  (List.range n).map fun r => ((ps.find? fun p => p.1 == r).map Prod.snd).getD 0

/-- The lanes of ranks 0 to k − 1, and n; a resource fault where they cannot be (R267). -/
def topkRanks (va vb : BitVec 6) (k : Nat) : Act (List Nat) := do
  let v ← readS vb
  let n := v.toNat
  need (decide (1 ≤ n ∧ n ≤ 128 ∧ k ≤ n)) .resource 0 v
  let a ← readV va
  pure ((ranking (fun i => fp32.decode (lane a i).toNat) n).take k)

/-- VTOPK.VAL (R426). -/
def topkValAct (vd va vb : BitVec 6) (masked : BitVec 1) (k : Nat) : Act Unit := do
  let rs ← topkRanks va vb k
  let a ← readV va
  vecResult vd masked 12 (perLane fun i => match rs[i]? with
    | some l => BitVec.ofNat 32 (fp32.round 0 false (fp32.decode (lane a l).toNat)).1
    | none => 0)

def execVtopkVal (g : Guard) (vd va vb : BitVec 6) (ty : BitVec 4) (masked : BitVec 1) (imm : BitVec 8) (s : State) :
    Host.Outcome State Fault Refusal :=
  let _ := ty
  issueFall g (skip 1 [.sSrc vb]) (topkValAct vd va vb masked imm.toNat) s

/-- VTOPK.IDX (R267). -/
def topkIdxAct (vd va vb sr : BitVec 6) (masked : BitVec 1) (k : Nat) : Act Unit := do
  let rs ← topkRanks va vb k
  let o ← readS sr
  let r := fun i => match rs[i]? with | some l => (l + o.toNat) % 2 ^ 16 | none => 0
  vecResult vd masked 12 (perLane fun i => BitVec.ofNat 32 (r (2 * i) + r (2 * i + 1) * 2 ^ 16))

def execVtopkIdx (g : Guard) (vd va vb : BitVec 6) (ty : BitVec 4) (masked : BitVec 1) (sr : BitVec 6) (imm : BitVec 8) (s : State) :
    Host.Outcome State Fault Refusal :=
  let _ := ty
  issueFall g (skip 1 [.sSrc vb, .sSrc sr]) (topkIdxAct vd va vb sr masked imm.toNat) s

/-! ## VRED (R424) -/

/-- One level of the tree. -/
def pairUp (f : BitVec 32 → BitVec 32 → BitVec 32) : List (BitVec 32) → List (BitVec 32)
  | a :: b :: t => f a b :: pairUp f t
  | l => l

/-- How a reduction works: its identity, its step, and its last step with the flag. -/
structure Red where
  unit : BitVec 32
  op   : BitVec 32 → BitVec 32 → BitVec 32
  last : BitVec 32 → BitVec 32 → LaneOut

def redBits (f : BitVec 32 → BitVec 32 → BitVec 32) (unit : BitVec 32) : Red := ⟨unit, f, fun a b => (f a b, false)⟩

def redElem (f : Nat → Nat → Nat × Bool) (last : Nat → Nat → Nat × Bool) (unit : BitVec 32) : Red :=
  { unit := unit
    op := fun a b => BitVec.ofNat 32 (f a.toNat b.toNat).1
    last := fun a b => (BitVec.ofNat 32 (last a.toNat b.toNat).1, (last a.toNat b.toNat).2) }

/-- ADD: −0 is FP32's identity; every level rounds, and the saturate bit applies to the last. Integer sums are reduced, which for the
sum of all lanes is as reducing once. -/
def redAdd (ty rm : Nat) (sat : Bool) : Red := redElem (addElem ty rm false) (addElem ty rm sat) (if ty = 2 then 0x80000000 else 0)
def redMin (ty : Nat) : Red := redElem (minElem ty) (minElem ty) (if ty = 2 then 0x7F800000 else if ty = 1 then 0xFFFFFFFF else 0x7FFFFFFF)
def redMax (ty : Nat) : Red := redElem (maxElem ty) (maxElem ty) (if ty = 2 then 0xFF800000 else if ty = 1 then 0 else 0x80000000)

def redTree (r : Red) : Nat → List (BitVec 32) → LaneOut
  | 0, l => (l.headD 0, false)
  | n + 1, l => match l with
    | [a, b] => r.last a b
    | _ => redTree r n (pairUp r.op l)

/-- VRED: lanes 1 to 127 are written whatever the mask. -/
def redAct (vd va : BitVec 6) (masked : BitVec 1) (r : Red) : Act Unit := do
  let a ← readV va
  let m ← lanesFor masked
  let y := redTree r 8 ((List.range 128).map fun i => if m.getLsbD i then lane a i else r.unit)
  vecResult vd 0 6 (y :: List.replicate 127 (0, false))

/-! ## Masks (R373, R374) -/

/-- A mask from a test of each lane. -/
def maskOf (f : Nat → Bool) : LaneMask :=
  (List.range 128).foldl (fun m i => if f i then m ||| (1#128 <<< i) else m) 0

/-- MPUSH (R373): a push at depth 8 is a resource fault (R374). -/
def mpushAct (c : Cond) (va vb : BitVec 6) (ty : BitVec 4) : Act Unit := do
  let k ← getCore
  need (decide (k.masks.length < 8)) .resource 0 (BitVec.ofNat 64 k.masks.length)
  let a ← readV va
  let b ← readV vb
  let m := maskOf fun i => c.ofSign (elemCmp ty.toNat (lane a i).toNat (lane b i).toNat)
  result 1 (.masks ((k.top &&& m) :: k.masks))

/-- VRED.ADD (R424). -/
def execVredAdd (g : Guard) (vd va : BitVec 6) (ty : BitVec 4) (rm : BitVec 3) (sat masked : BitVec 1) (s : State) :
    Host.Outcome State Fault Refusal :=
  issueFall g (pure ()) (redAct vd va masked (redAdd ty.toNat rm.toNat (sat == 1))) s

/-- VRED.AND (R424). -/
def execVredAnd (g : Guard) (vd va : BitVec 6) (ty : BitVec 4) (rm : BitVec 3) (sat masked : BitVec 1) (s : State) :
    Host.Outcome State Fault Refusal :=
  let _ := (ty, rm, sat)
  issueFall g (pure ()) (redAct vd va masked (redBits (· &&& ·) (BitVec.allOnes 32))) s

/-- VRED.OR (R424). -/
def execVredOr (g : Guard) (vd va : BitVec 6) (ty : BitVec 4) (rm : BitVec 3) (sat masked : BitVec 1) (s : State) :
    Host.Outcome State Fault Refusal :=
  let _ := (ty, rm, sat)
  issueFall g (pure ()) (redAct vd va masked (redBits (· ||| ·) 0)) s

/-- VRED.XOR (R424). -/
def execVredXor (g : Guard) (vd va : BitVec 6) (ty : BitVec 4) (rm : BitVec 3) (sat masked : BitVec 1) (s : State) :
    Host.Outcome State Fault Refusal :=
  let _ := (ty, rm, sat)
  issueFall g (pure ()) (redAct vd va masked (redBits (· ^^^ ·) 0)) s

/-- VRED.MIN (R424). -/
def execVredMin (g : Guard) (vd va : BitVec 6) (ty : BitVec 4) (rm : BitVec 3) (sat masked : BitVec 1) (s : State) :
    Host.Outcome State Fault Refusal :=
  let _ := (rm, sat)
  issueFall g (pure ()) (redAct vd va masked (redMin ty.toNat)) s

/-- VRED.MAX (R424). -/
def execVredMax (g : Guard) (vd va : BitVec 6) (ty : BitVec 4) (rm : BitVec 3) (sat masked : BitVec 1) (s : State) :
    Host.Outcome State Fault Refusal :=
  let _ := (rm, sat)
  issueFall g (pure ()) (redAct vd va masked (redMax ty.toNat)) s

/-- MPUSH.EQ (R373). -/
def execMpushEq (g : Guard) (va vb : BitVec 6) (ty : BitVec 4) (s : State) : Host.Outcome State Fault Refusal :=
  issueFall g (pure ()) (mpushAct .eq va vb ty) s

/-- MPUSH.NE (R373). -/
def execMpushNe (g : Guard) (va vb : BitVec 6) (ty : BitVec 4) (s : State) : Host.Outcome State Fault Refusal :=
  issueFall g (pure ()) (mpushAct .ne va vb ty) s

/-- MPUSH.LT (R373). -/
def execMpushLt (g : Guard) (va vb : BitVec 6) (ty : BitVec 4) (s : State) : Host.Outcome State Fault Refusal :=
  issueFall g (pure ()) (mpushAct .lt va vb ty) s

/-- MPUSH.GE (R373). -/
def execMpushGe (g : Guard) (va vb : BitVec 6) (ty : BitVec 4) (s : State) : Host.Outcome State Fault Refusal :=
  issueFall g (pure ()) (mpushAct .ge va vb ty) s

/-- MINV (R373): at depth 1 the parent is all ones. -/
def minvAct : Act Unit := do
  let k ← getCore
  let parent := match k.masks with | _ :: p :: _ => p | _ => BitVec.allOnes 128
  result 1 (.masks ((parent &&& ~~~k.top) :: k.masks.tail))

def execMinv (g : Guard) (ty : BitVec 4) (s : State) : Host.Outcome State Fault Refusal :=
  let _ := ty
  issueFall g (pure ()) minvAct s

/-- MPOP (R373, R374). -/
def mpopAct : Act Unit := do
  let k ← getCore
  need (decide (1 < k.masks.length)) .resource 0 (BitVec.ofNat 64 k.masks.length)
  result 1 (.masks k.masks.tail)

def execMpop (g : Guard) (ty : BitVec 4) (s : State) : Host.Outcome State Fault Refusal :=
  let _ := ty
  issueFall g (pure ()) mpopAct s

/-- MGET.M (R373). -/
def mgetMAct (md : BitVec 3) : Act Unit := do
  let k ← getCore
  result 1 (.setM md k.top)

def execMgetM (g : Guard) (vd : BitVec 6) (ty : BitVec 4) (s : State) : Host.Outcome State Fault Refusal :=
  let _ := ty
  issueFall g (pure ()) (mgetMAct (vd.setWidth 3)) s

/-- MGET.V (R373). -/
def mgetVAct (vd : BitVec 6) : Act Unit := do
  let k ← getCore
  vecResult vd 0 1 (perLane fun i => if k.top.getLsbD i then 0xFFFFFFFF else 0)

def execMgetV (g : Guard) (vd : BitVec 6) (ty : BitVec 4) (s : State) : Host.Outcome State Fault Refusal :=
  let _ := ty
  issueFall g (pure ()) (mgetVAct vd) s

/-- MSET.M (R373): the depth is unchanged. -/
def msetMAct (ma : BitVec 3) : Act Unit := do
  let k ← getCore
  result 1 (.masks (k.mreg ma :: k.masks.tail))

def execMsetM (g : Guard) (va : BitVec 6) (ty : BitVec 4) (s : State) : Host.Outcome State Fault Refusal :=
  let _ := ty
  issueFall g (pure ()) (msetMAct (va.setWidth 3)) s

/-- MSET.V (R373). -/
def msetVAct (va : BitVec 6) : Act Unit := do
  let k ← getCore
  let a ← readV va
  result 1 (.masks (maskOf (fun i => lane a i != 0) :: k.masks.tail))

def execMsetV (g : Guard) (va : BitVec 6) (ty : BitVec 4) (s : State) : Host.Outcome State Fault Refusal :=
  let _ := ty
  issueFall g (pure ()) (msetVAct va) s

/-! ## Vector memory (R200, R225, R266, R307, R417) -/

/-- The checks of a vector memory word's handle (R67, R72). -/
def checkVecHandle (c : Cap) (kinds : List (BitVec 4)) (perm : Nat) (spaces : List Nat) : Act Unit := do
  checkKind c kinds
  checkPerm c perm
  checkSpace c spaces

/-- 4-byte words that a handle holds: a tile's elements, two to a word for type 3; a blank's class (R200, R225, R307). -/
def State.wordCount (s : State) (c : Cap) (ty : Nat) : Nat :=
  let e := s.tileEntry c.key
  if c.kind == kTile then (if ty = 3 then e.rows * e.cols / 2 else e.rows * e.cols) else classSize e.cls / 4

/-- A tile of another width is refused; for type 3 so is one of an odd element count (R200, R307, R433). -/
def checkWidth (c : Cap) (ty : Nat) : Act Unit := do
  let s ← get
  let e := s.tileEntry c.key
  need (c.kind != kTile || (if ty = 3 then fmtBytes e.fmt == some 2 && decide (e.rows * e.cols % 2 = 0) else fmtBytes e.fmt == some 4))
    .format

/-- The addresses of MOD's lanes: element (L − b) mod N (R200). -/
def modAddrs (c : Cap) (n b : Nat) : List Nat :=
  (List.range 128).map fun (l : Nat) => c.addr.toNat + 4 * (((l : Int) - b) % n).toNat

/-- The addresses of STR's lanes, each checked (R266, R417). -/
def strideAddrs (c : Cap) (o t : Word64) (n : Nat) : Act (List Nat) := do
  let s ← get
  let b := s.baseBounds c
  let as := (List.range n).map fun i => (c.addr + o + BitVec.ofNat 64 i * t).toNat
  match as.find? fun a => !(decide (a % 4 = 0) && decide (b.1 ≤ a) && decide (a + 4 ≤ b.2)) with
  | some a => fault .capability 0 (BitVec.ofNat 64 a)
  | none => pure as

/-- The tile-store places of lanes' words, which are the core's own (R434). -/
def tilePlaces : List Nat → Act (List Nat)
  | [] => pure []
  | a :: t => do
    let p ← fixedTile a 4
    let ps ← tilePlaces t
    pure (p :: ps)

/-- A vector load of lanes' words; lanes beyond them become 0 (R266, R418). -/
def loadLanes (vd : BitVec 6) (masked : BitVec 1) (h : BitVec 5) (c : Cap) (as : List Nat) : Act Unit := do
  let m ← lanesFor masked
  if c.space = 1 then do
    let ps ← tilePlaces as
    let s ← get
    let v := ofLanes (ps.map s.mem.read32)
    let bad := (ps.zip as).findSome? fun p => poisonOf s p.1 4 p.2
    resultOr 8 (.setV vd m v) bad
    dropPopped h c 8
  else do
    readHbm 96 (.lanes ((List.range as.length).zip as)) (.setV vd m 0)
    dropPopped h c 96

/-- Words by offset from a handle's address; where lanes collide the highest stands (R200, R417). -/
def lastWords (m : LaneMask) (base : Word64) (v : VReg) : Nat → List Nat → Tbl (BitVec 32) → Tbl (BitVec 32)
  | _, [], t => t
  | i, a :: as, t =>
    lastWords m base v (i + 1) as (if m.getLsbD i then Tbl.set t (BitVec.ofNat 64 a - base).toNat (lane v i) else t)

/-- The runs of bytes that words make. -/
def wordRuns (t : Tbl (BitVec 32)) : List (Nat × List Byte) :=
  groupRuns (t.flatMap fun p => (toBytes 4 p.2.toNat).zipIdx.map fun b => (p.1 + b.2, b.1))

/-- A vector store of lanes' words (R83, R417). -/
def storeLanes (va : BitVec 6) (masked : BitVec 1) (h : BitVec 5) (c : Cap) (as : List Nat) : Act Unit := do
  let m ← lanesFor masked
  let v ← readV va
  let runs := wordRuns (lastWords m c.addr v 0 as [])
  if c.space = 1 then do
    let _ ← tilePlaces as
    noBorrow c
    let s ← get
    result 6 (.store c (runs.map fun r => ⟨r.1, tileAt s.cur.1 ((c.addr.toNat + r.1) % 2 ^ 32), r.2⟩))
    dropPopped h c 6
  else do
    noBorrow c
    writeHbm 96 c (runs.map fun r => ⟨r.1, c.addr.toNat + r.1, r.2⟩)
    dropPopped h c 96

/-- VLD.MOD and VST.MOD. -/
def vldModAct (vd : BitVec 6) (ty : BitVec 4) (masked : BitVec 1) (h : BitVec 5) (b : Nat) : Act Unit := do
  let c ← readH h
  checkVecHandle c [kTile, kBlank] pR [1]
  checkWidth c ty.toNat
  let s ← get
  loadLanes vd masked h c (modAddrs c (s.wordCount c ty.toNat) b)

def execVldMod (g : Guard) (vd : BitVec 6) (ty : BitVec 4) (masked : BitVec 1) (sr : BitVec 6) (imm : BitVec 8) (s : State) :
    Host.Outcome State Fault Refusal :=
  issueFall g (skip 1 [.hSrc (sr.setWidth 5)]) (vldModAct vd ty masked (sr.setWidth 5) imm.toNat) s

def vstModAct (va : BitVec 6) (ty : BitVec 4) (masked : BitVec 1) (h : BitVec 5) (b : Nat) : Act Unit := do
  let c ← readH h
  checkVecHandle c [kBlank] pW [1]
  let s ← get
  storeLanes va masked h c (modAddrs c (s.wordCount c ty.toNat) b)

def execVstMod (g : Guard) (va : BitVec 6) (ty : BitVec 4) (masked : BitVec 1) (sr : BitVec 6) (imm : BitVec 8) (s : State) :
    Host.Outcome State Fault Refusal :=
  issueFall g (skip 1 [.hSrc (sr.setWidth 5)]) (vstModAct va ty masked (sr.setWidth 5) imm.toNat) s

/-- The addresses of ROW's lanes (R225). -/
def rowAddrs (c : Cap) (e : Word64) : Act (List Nat) := do
  let s ← get
  need (decide (e.toNat + 128 ≤ s.wordCount c 9)) .capability 0 (c.addr + 4 * e)
  pure ((List.range 128).map fun i => c.addr.toNat + 4 * (e.toNat + i))

/-- VLD.ROW and VST.ROW. -/
def vldRowAct (vd : BitVec 6) (masked : BitVec 1) (h : BitVec 5) (sb : BitVec 6) : Act Unit := do
  let c ← readH h
  let e ← readS sb
  checkVecHandle c [kTile, kBlank] pR [0, 1]
  let as ← rowAddrs c e
  checkWidth c 9
  loadLanes vd masked h c as

def execVldRow (g : Guard) (vd vb : BitVec 6) (ty : BitVec 4) (masked : BitVec 1) (sr : BitVec 6) (s : State) :
    Host.Outcome State Fault Refusal :=
  let _ := ty
  issueFall g (skip 1 [.hSrc (sr.setWidth 5), .sSrc vb]) (vldRowAct vd masked (sr.setWidth 5) vb) s

def vstRowAct (va : BitVec 6) (masked : BitVec 1) (h : BitVec 5) (sb : BitVec 6) : Act Unit := do
  let c ← readH h
  let e ← readS sb
  checkVecHandle c [kBlank] pW [0, 1]
  let as ← rowAddrs c e
  storeLanes va masked h c as

def execVstRow (g : Guard) (va vb : BitVec 6) (ty : BitVec 4) (masked : BitVec 1) (sr : BitVec 6) (s : State) :
    Host.Outcome State Fault Refusal :=
  let _ := ty
  issueFall g (skip 1 [.hSrc (sr.setWidth 5), .sSrc vb]) (vstRowAct va masked (sr.setWidth 5) vb) s

/-- VLD.STR (R266) and VST.STR (R417). -/
def vldStrAct (vd : BitVec 6) (masked : BitVec 1) (h : BitVec 5) (sb sc : BitVec 6) (n : Nat) : Act Unit := do
  let c ← readH h
  let o ← readS sb
  let t ← readS sc
  checkOwn c
  checkVecHandle c [kPointer, kTile, kBlank] pR [0, 1, 5]
  let as ← strideAddrs c o t n
  checkWidth c 9
  loadLanes vd masked h c as

def execVldStr (g : Guard) (vd vb vc : BitVec 6) (ty : BitVec 4) (masked : BitVec 1) (sr : BitVec 6) (imm : BitVec 8) (s : State) :
    Host.Outcome State Fault Refusal :=
  let _ := ty
  issueFall g (skip 1 [.hSrc (sr.setWidth 5), .sSrc vb, .sSrc vc]) (vldStrAct vd masked (sr.setWidth 5) vb vc (imm.toNat + 1)) s

def vstStrAct (va : BitVec 6) (masked : BitVec 1) (h : BitVec 5) (sb sc : BitVec 6) (n : Nat) : Act Unit := do
  let c ← readH h
  let o ← readS sb
  let t ← readS sc
  checkOwn c
  checkVecHandle c [kBlank] pW [0, 1]
  let as ← strideAddrs c o t n
  storeLanes va masked h c as

def execVstStr (g : Guard) (va vb vc : BitVec 6) (ty : BitVec 4) (masked : BitVec 1) (sr : BitVec 6) (imm : BitVec 8) (s : State) :
    Host.Outcome State Fault Refusal :=
  let _ := ty
  issueFall g (skip 1 [.hSrc (sr.setWidth 5), .sSrc vb, .sSrc vc]) (vstStrAct va masked (sr.setWidth 5) vb vc (imm.toNat + 1)) s

/-! ## Parking (R155, R421, R422) -/

/-- VPARK. -/
def vparkAct (va : BitVec 6) (col : Nat) : Act Unit := do
  let k ← getCore
  let t ← getTtc
  need (!(k.spill.any fun p => decide (p.2 = col ∨ p.1 = va.toNat)) && !k.writesColumn col (t + 4)) .resource 0 (BitVec.ofNat 64 col)
  result 1 (.park va col)
  result 4 (.accCol col (k.vreg va))

def execVparkP (g : Guard) (va vc : BitVec 6) (ty : BitVec 4) (imm : BitVec 8) (s : State) : Host.Outcome State Fault Refusal :=
  let _ := ty
  issueFall g (pure ()) (vparkAct va (imm.toNat + 256 * (vc.toNat % 4))) s

/-- VUNPARK. -/
def vunparkAct (vd : BitVec 6) : Act Unit := do
  let k ← getCore
  match k.spill.find? fun p => decide (p.1 = vd.toNat) with
  | none => fault .resource
  | some p => do
    let id ← addLatch 4 (.setV vd (BitVec.allOnes 128) 0) none none
    result 1 (.unpark vd p.2 id)

def execVunparkU (g : Guard) (vd : BitVec 6) (ty : BitVec 4) (s : State) : Host.Outcome State Fault Refusal :=
  let _ := ty
  issueFall g (pure ()) (vunparkAct vd) s

end Sys2Proof.Machine
end

