-- ==== Sys2Proof/Machine/Dispatch.lean ====
section
/-! DEFINITION. One arm for every instruction, micro-operation and event: its meaning. -/
namespace Sys2Proof.Machine
open Sys2Proof

def exec (i : Instr) (s : State) : Host.Outcome State Fault Refusal :=
  match i with
  | .nop g => Sys2Proof.Machine.execNop g s
  | .halt g => Sys2Proof.Machine.execHalt g s
  | .trapSw g imm => Sys2Proof.Machine.execTrapSw g imm s
  | .rft g => Sys2Proof.Machine.execRft g s
  | .sysr g d reg => Sys2Proof.Machine.execSysr g d reg s
  | .sysw g a reg => Sys2Proof.Machine.execSysw g a reg s
  | .ovlyN g imm => Sys2Proof.Machine.execOvlyN g imm s
  | .ovlyS g a => Sys2Proof.Machine.execOvlyS g a s
  | .cardone g => Sys2Proof.Machine.execCardone g s
  | .dlaunchP g d a => Sys2Proof.Machine.execDlaunchP g d a s
  | .traceTs g => Sys2Proof.Machine.execTraceTs g s
  | .traceBr g => Sys2Proof.Machine.execTraceBr g s
  | .saluAdd g d a b => Sys2Proof.Machine.execSaluAdd g d a b s
  | .saluSub g d a b => Sys2Proof.Machine.execSaluSub g d a b s
  | .saluAnd g d a b => Sys2Proof.Machine.execSaluAnd g d a b s
  | .saluOr g d a b => Sys2Proof.Machine.execSaluOr g d a b s
  | .saluXor g d a b => Sys2Proof.Machine.execSaluXor g d a b s
  | .saluAndn g d a b => Sys2Proof.Machine.execSaluAndn g d a b s
  | .saluShl g d a b => Sys2Proof.Machine.execSaluShl g d a b s
  | .saluShr g d a b => Sys2Proof.Machine.execSaluShr g d a b s
  | .saluSar g d a b => Sys2Proof.Machine.execSaluSar g d a b s
  | .saluRol g d a b => Sys2Proof.Machine.execSaluRol g d a b s
  | .saluMin g d a b => Sys2Proof.Machine.execSaluMin g d a b s
  | .saluMax g d a b => Sys2Proof.Machine.execSaluMax g d a b s
  | .saluMinu g d a b => Sys2Proof.Machine.execSaluMinu g d a b s
  | .saluMaxu g d a b => Sys2Proof.Machine.execSaluMaxu g d a b s
  | .saluMul g d a b => Sys2Proof.Machine.execSaluMul g d a b s
  | .saluMulh g d a b => Sys2Proof.Machine.execSaluMulh g d a b s
  | .saluMulhu g d a b => Sys2Proof.Machine.execSaluMulhu g d a b s
  | .saluSeq g d a b => Sys2Proof.Machine.execSaluSeq g d a b s
  | .saluSne g d a b => Sys2Proof.Machine.execSaluSne g d a b s
  | .saluSlt g d a b => Sys2Proof.Machine.execSaluSlt g d a b s
  | .saluSltu g d a b => Sys2Proof.Machine.execSaluSltu g d a b s
  | .saluSel g d a b c => Sys2Proof.Machine.execSaluSel g d a b c s
  | .saluClz g d a => Sys2Proof.Machine.execSaluClz g d a s
  | .saluCtz g d a => Sys2Proof.Machine.execSaluCtz g d a s
  | .saluPop g d a => Sys2Proof.Machine.execSaluPop g d a s
  | .saluiAdd g d a imm => Sys2Proof.Machine.execSaluiAdd g d a imm s
  | .saluiSub g d a imm => Sys2Proof.Machine.execSaluiSub g d a imm s
  | .saluiAnd g d a imm => Sys2Proof.Machine.execSaluiAnd g d a imm s
  | .saluiOr g d a imm => Sys2Proof.Machine.execSaluiOr g d a imm s
  | .saluiXor g d a imm => Sys2Proof.Machine.execSaluiXor g d a imm s
  | .saluiAndn g d a imm => Sys2Proof.Machine.execSaluiAndn g d a imm s
  | .saluiShl g d a imm => Sys2Proof.Machine.execSaluiShl g d a imm s
  | .saluiShr g d a imm => Sys2Proof.Machine.execSaluiShr g d a imm s
  | .saluiSar g d a imm => Sys2Proof.Machine.execSaluiSar g d a imm s
  | .saluiRol g d a imm => Sys2Proof.Machine.execSaluiRol g d a imm s
  | .saluiMin g d a imm => Sys2Proof.Machine.execSaluiMin g d a imm s
  | .saluiMax g d a imm => Sys2Proof.Machine.execSaluiMax g d a imm s
  | .saluiMinu g d a imm => Sys2Proof.Machine.execSaluiMinu g d a imm s
  | .saluiMaxu g d a imm => Sys2Proof.Machine.execSaluiMaxu g d a imm s
  | .saluiMul g d a imm => Sys2Proof.Machine.execSaluiMul g d a imm s
  | .saluiMulh g d a imm => Sys2Proof.Machine.execSaluiMulh g d a imm s
  | .saluiMulhu g d a imm => Sys2Proof.Machine.execSaluiMulhu g d a imm s
  | .saluiSeq g d a imm => Sys2Proof.Machine.execSaluiSeq g d a imm s
  | .saluiSne g d a imm => Sys2Proof.Machine.execSaluiSne g d a imm s
  | .saluiSlt g d a imm => Sys2Proof.Machine.execSaluiSlt g d a imm s
  | .saluiSltu g d a imm => Sys2Proof.Machine.execSaluiSltu g d a imm s
  | .sdivDiv g d a b => Sys2Proof.Machine.execSdivDiv g d a b s
  | .sdivDivu g d a b => Sys2Proof.Machine.execSdivDivu g d a b s
  | .sdivRem g d a b => Sys2Proof.Machine.execSdivRem g d a b s
  | .sdivRemu g d a b => Sys2Proof.Machine.execSdivRemu g d a b s
  | .sfpAdd g d a b => Sys2Proof.Machine.execSfpAdd g d a b s
  | .sfpSub g d a b => Sys2Proof.Machine.execSfpSub g d a b s
  | .sfpMul g d a b => Sys2Proof.Machine.execSfpMul g d a b s
  | .sfpFma g d a b c => Sys2Proof.Machine.execSfpFma g d a b c s
  | .sfpDiv g d a b => Sys2Proof.Machine.execSfpDiv g d a b s
  | .sfpSqrt g d a => Sys2Proof.Machine.execSfpSqrt g d a s
  | .sfpMin g d a b => Sys2Proof.Machine.execSfpMin g d a b s
  | .sfpMax g d a b => Sys2Proof.Machine.execSfpMax g d a b s
  | .sfpCvti g d a => Sys2Proof.Machine.execSfpCvti g d a s
  | .sfpCvtf g d a => Sys2Proof.Machine.execSfpCvtf g d a s
  | .sfpEq g d a b => Sys2Proof.Machine.execSfpEq g d a b s
  | .sfpLt g d a b => Sys2Proof.Machine.execSfpLt g d a b s
  | .sfpLe g d a b => Sys2Proof.Machine.execSfpLe g d a b s
  | .psetAnd g d a b c => Sys2Proof.Machine.execPsetAnd g d a b c s
  | .psetOr g d a b c => Sys2Proof.Machine.execPsetOr g d a b c s
  | .psetXor g d a b c => Sys2Proof.Machine.execPsetXor g d a b c s
  | .psetAndn g d a b c => Sys2Proof.Machine.execPsetAndn g d a b c s
  | .psetEq g d a b c => Sys2Proof.Machine.execPsetEq g d a b c s
  | .psetNe g d a b c => Sys2Proof.Machine.execPsetNe g d a b c s
  | .psetLt g d a b c => Sys2Proof.Machine.execPsetLt g d a b c s
  | .psetLtu g d a b c => Sys2Proof.Machine.execPsetLtu g d a b c s
  | .psetGe g d a b c => Sys2Proof.Machine.execPsetGe g d a b c s
  | .psetGeu g d a b c => Sys2Proof.Machine.execPsetGeu g d a b c s
  | .lit g d lit => Sys2Proof.Machine.execLit g d lit s
  | .ldP g d a imm => Sys2Proof.Machine.execLdP g d a imm s
  | .ldH g d a imm => Sys2Proof.Machine.execLdH g d a imm s
  | .ldCap g d a imm => Sys2Proof.Machine.execLdCap g d a imm s
  | .stP g d a imm => Sys2Proof.Machine.execStP g d a imm s
  | .stH g d a imm => Sys2Proof.Machine.execStH g d a imm s
  | .stCap g d a imm => Sys2Proof.Machine.execStCap g d a imm s
  | .enterF g imm => Sys2Proof.Machine.execEnterF g imm s
  | .leaveF g => Sys2Proof.Machine.execLeaveF g s
  | .pbrO g t imm => Sys2Proof.Machine.execPbrO g t imm s
  | .pbrR g t a => Sys2Proof.Machine.execPbrR g t a s
  | .brGo g t => Sys2Proof.Machine.execBrGo g t s
  | .brqT g t => Sys2Proof.Machine.execBrqT g t s
  | .brqF g t => Sys2Proof.Machine.execBrqF g t s
  | .brmzSkip g imm => Sys2Proof.Machine.execBrmzSkip g imm s
  | .callGo g t => Sys2Proof.Machine.execCallGo g t s
  | .retGo g => Sys2Proof.Machine.execRetGo g s
  | .loopL g a imm => Sys2Proof.Machine.execLoopL g a imm s
  | .loopS g t a imm => Sys2Proof.Machine.execLoopS g t a imm s
  | .repeatN g imm => Sys2Proof.Machine.execRepeatN g imm s
  | .repeatS g a => Sys2Proof.Machine.execRepeatS g a s
  | .signalT g a imm => Sys2Proof.Machine.execSignalT g a imm s
  | .signalS g d a => Sys2Proof.Machine.execSignalS g d a s
  | .waitT g a => Sys2Proof.Machine.execWaitT g a s
  | .waitN g a imm => Sys2Proof.Machine.execWaitN g a imm s
  | .toksetI g a imm => Sys2Proof.Machine.execToksetI g a imm s
  | .toksetX g d a imm => Sys2Proof.Machine.execToksetX g d a imm s
  | .fenceS g d imm => Sys2Proof.Machine.execFenceS g d imm s
  | .retimeAt g a imm => Sys2Proof.Machine.execRetimeAt g a imm s
  | .waitvEq g h a b scope order cell => Sys2Proof.Machine.execWaitvEq g h a b scope order cell s
  | .waitvNe g h a b scope order cell => Sys2Proof.Machine.execWaitvNe g h a b scope order cell s
  | .waitvGe g h a b scope order cell => Sys2Proof.Machine.execWaitvGe g h a b scope order cell s
  | .waitvLt g h a b scope order cell => Sys2Proof.Machine.execWaitvLt g h a b scope order cell s
  | .waitvAny g h a b scope order cell => Sys2Proof.Machine.execWaitvAny g h a b scope order cell s
  | .waitvNone g h a b scope order cell => Sys2Proof.Machine.execWaitvNone g h a b scope order cell s
  | .markQ g a imm => Sys2Proof.Machine.execMarkQ g a imm s
  | .sstepS g a imm => Sys2Proof.Machine.execSstepS g a imm s
  | .capsetB g hd ha sr => Sys2Proof.Machine.execCapsetB g hd ha sr s
  | .capsetE g hd ha sr => Sys2Proof.Machine.execCapsetE g hd ha sr s
  | .cappermAnd g hd ha imm => Sys2Proof.Machine.execCappermAnd g hd ha imm s
  | .capoffAdd g hd ha sr => Sys2Proof.Machine.execCapoffAdd g hd ha sr s
  | .capoffSet g hd ha sr => Sys2Proof.Machine.execCapoffSet g hd ha sr s
  | .capgetA g ha sr => Sys2Proof.Machine.execCapgetA g ha sr s
  | .capgetCells g hd => Sys2Proof.Machine.execCapgetCells g hd s
  | .capgetKv g hd => Sys2Proof.Machine.execCapgetKv g hd s
  | .capgetPeer g hd sr => Sys2Proof.Machine.execCapgetPeer g hd sr s
  | .capgetSys g hd => Sys2Proof.Machine.execCapgetSys g hd s
  | .capgetBase g ha sr => Sys2Proof.Machine.execCapgetBase g ha sr s
  | .capgetLen g ha sr => Sys2Proof.Machine.execCapgetLen g ha sr s
  | .capgetHi g ha sr => Sys2Proof.Machine.execCapgetHi g ha sr s
  | .captestTag g ha sr => Sys2Proof.Machine.execCaptestTag g ha sr s
  | .captestIn g ha sr imm => Sys2Proof.Machine.execCaptestIn g ha sr imm s
  | .dupN g hd ha imm => Sys2Proof.Machine.execDupN g hd ha imm s
  | .dropW g ha => Sys2Proof.Machine.execDropW g ha s
  | .dropB g hd ha sr => Sys2Proof.Machine.execDropB g hd ha sr s
  | .movhM g hd ha => Sys2Proof.Machine.execMovhM g hd ha s
  | .mergeW g hd ha hb => Sys2Proof.Machine.execMergeW g hd ha hb s
  | .allocT g hd imm => Sys2Proof.Machine.execAllocT g hd imm s
  | .allocM g hd imm => Sys2Proof.Machine.execAllocM g hd imm s
  | .isunqL g ha sr => Sys2Proof.Machine.execIsunqL g ha sr s
  | .isunqX g ha sr => Sys2Proof.Machine.execIsunqX g ha sr s
  | .updT g hd ha => Sys2Proof.Machine.execUpdT g hd ha s
  | .updM g hd ha => Sys2Proof.Machine.execUpdM g hd ha s
  | .sealT g hd ha imm => Sys2Proof.Machine.execSealT g hd ha imm s
  | .gsetL g gr lit => Sys2Proof.Machine.execGsetL g gr lit s
  | .gsetR g ha gr lit => Sys2Proof.Machine.execGsetR g ha gr lit s
  | .csetI g d imm => Sys2Proof.Machine.execCsetI g d imm s
  | .csetS g d a => Sys2Proof.Machine.execCsetS g d a s
  | .caddI g d a imm => Sys2Proof.Machine.execCaddI g d a imm s
  | .caddS g d a => Sys2Proof.Machine.execCaddS g d a s
  | .tldR g hd ha gr f cnt post clip perm stamp imm => Sys2Proof.Machine.execTldR g hd ha gr f cnt post clip perm stamp imm s
  | .tldW g hd ha stamp => Sys2Proof.Machine.execTldW g hd ha stamp s
  | .tcopyR g hd ha gr f cnt sr post clip perm stamp imm => Sys2Proof.Machine.execTcopyR g hd ha gr f cnt sr post clip perm stamp imm s
  | .tcopyW g hd ha sr stamp => Sys2Proof.Machine.execTcopyW g hd ha sr stamp s
  | .tcopyS g hd ha gr f cnt sr post clip perm stamp => Sys2Proof.Machine.execTcopyS g hd ha gr f cnt sr post clip perm stamp s
  | .tcopyHi g hd ha sr stamp imm => Sys2Proof.Machine.execTcopyHi g hd ha sr stamp imm s
  | .tcopyHo g hd ha sr stamp imm => Sys2Proof.Machine.execTcopyHo g hd ha sr stamp imm s
  | .gatherK g hd ha sr stamp => Sys2Proof.Machine.execGatherK g hd ha sr stamp s
  | .gatherV g hd ha sr stamp => Sys2Proof.Machine.execGatherV g hd ha sr stamp s
  | .appendKv g hd ha sr => Sys2Proof.Machine.execAppendKv g hd ha sr s
  | .claimS g hd => Sys2Proof.Machine.execClaimS g hd s
  | .releaseS g hd => Sys2Proof.Machine.execReleaseS g hd s
  | .mmaT g stamp sa sb col k acc ta pre => Sys2Proof.Machine.execMmaT g stamp sa sb col k acc ta pre s
  | .mdrainT g stamp rm hb col k sr => Sys2Proof.Machine.execMdrainT g stamp rm hb col k sr s
  | .mzeroT g stamp col k => Sys2Proof.Machine.execMzeroT g stamp col k s
  | .maccR g stamp row col k acc int sr => Sys2Proof.Machine.execMaccR g stamp row col k acc int sr s
  | .tstatR g d a => Sys2Proof.Machine.execTstatR g d a s
  | .valuAdd g vd va vb ty rm sat masked => Sys2Proof.Machine.execValuAdd g vd va vb ty rm sat masked s
  | .valuSub g vd va vb ty rm sat masked => Sys2Proof.Machine.execValuSub g vd va vb ty rm sat masked s
  | .valuAnd g vd va vb ty rm sat masked => Sys2Proof.Machine.execValuAnd g vd va vb ty rm sat masked s
  | .valuOr g vd va vb ty rm sat masked => Sys2Proof.Machine.execValuOr g vd va vb ty rm sat masked s
  | .valuXor g vd va vb ty rm sat masked => Sys2Proof.Machine.execValuXor g vd va vb ty rm sat masked s
  | .valuAndn g vd va vb ty rm sat masked => Sys2Proof.Machine.execValuAndn g vd va vb ty rm sat masked s
  | .valuShl g vd va vb ty rm sat masked => Sys2Proof.Machine.execValuShl g vd va vb ty rm sat masked s
  | .valuShr g vd va vb ty rm sat masked => Sys2Proof.Machine.execValuShr g vd va vb ty rm sat masked s
  | .valuSar g vd va vb ty rm sat masked => Sys2Proof.Machine.execValuSar g vd va vb ty rm sat masked s
  | .valuMin g vd va vb ty rm sat masked => Sys2Proof.Machine.execValuMin g vd va vb ty rm sat masked s
  | .valuMax g vd va vb ty rm sat masked => Sys2Proof.Machine.execValuMax g vd va vb ty rm sat masked s
  | .valuAbs g vd va ty rm sat masked => Sys2Proof.Machine.execValuAbs g vd va ty rm sat masked s
  | .valuMul g vd va vb ty rm sat masked => Sys2Proof.Machine.execValuMul g vd va vb ty rm sat masked s
  | .valuMulh g vd va vb ty rm sat masked => Sys2Proof.Machine.execValuMulh g vd va vb ty rm sat masked s
  | .vfmaFma g vd va vb vc ty rm sat masked => Sys2Proof.Machine.execVfmaFma g vd va vb vc ty rm sat masked s
  | .vfmaFms g vd va vb vc ty rm sat masked => Sys2Proof.Machine.execVfmaFms g vd va vb vc ty rm sat masked s
  | .vfmaFnma g vd va vb vc ty rm sat masked => Sys2Proof.Machine.execVfmaFnma g vd va vb vc ty rm sat masked s
  | .vcmpEq g vd va vb ty masked => Sys2Proof.Machine.execVcmpEq g vd va vb ty masked s
  | .vcmpNe g vd va vb ty masked => Sys2Proof.Machine.execVcmpNe g vd va vb ty masked s
  | .vcmpLt g vd va vb ty masked => Sys2Proof.Machine.execVcmpLt g vd va vb ty masked s
  | .vcmpGe g vd va vb ty masked => Sys2Proof.Machine.execVcmpGe g vd va vb ty masked s
  | .vcvtCvt g vd va ty rm sat masked imm => Sys2Proof.Machine.execVcvtCvt g vd va ty rm sat masked imm s
  | .vlt3Lut g vd va vb vc ty masked imm => Sys2Proof.Machine.execVlt3Lut g vd va vb vc ty masked imm s
  | .vfshL g vd va vb ty masked imm => Sys2Proof.Machine.execVfshL g vd va vb ty masked imm s
  | .vfshR g vd va vb ty masked imm => Sys2Proof.Machine.execVfshR g vd va vb ty masked imm s
  | .vlrotRot g vd va ty masked imm => Sys2Proof.Machine.execVlrotRot g vd va ty masked imm s
  | .vlrotRots g vd va ty masked sr => Sys2Proof.Machine.execVlrotRots g vd va ty masked sr s
  | .vpermIdx g vd va vb ty masked => Sys2Proof.Machine.execVpermIdx g vd va vb ty masked s
  | .vpermIdx2 g vd va vb vc ty masked => Sys2Proof.Machine.execVpermIdx2 g vd va vb vc ty masked s
  | .vbcastS g vd ty masked sr => Sys2Proof.Machine.execVbcastS g vd ty masked sr s
  | .vbcastLane g vd va ty masked imm => Sys2Proof.Machine.execVbcastLane g vd va ty masked imm s
  | .vbcastImm g vd ty masked imm => Sys2Proof.Machine.execVbcastImm g vd ty masked imm s
  | .vredAdd g vd va ty rm sat masked => Sys2Proof.Machine.execVredAdd g vd va ty rm sat masked s
  | .vredAnd g vd va ty rm sat masked => Sys2Proof.Machine.execVredAnd g vd va ty rm sat masked s
  | .vredOr g vd va ty rm sat masked => Sys2Proof.Machine.execVredOr g vd va ty rm sat masked s
  | .vredXor g vd va ty rm sat masked => Sys2Proof.Machine.execVredXor g vd va ty rm sat masked s
  | .vredMin g vd va ty rm sat masked => Sys2Proof.Machine.execVredMin g vd va ty rm sat masked s
  | .vredMax g vd va ty rm sat masked => Sys2Proof.Machine.execVredMax g vd va ty rm sat masked s
  | .vfunExp g vd va ty rm sat masked => Sys2Proof.Machine.execVfunExp g vd va ty rm sat masked s
  | .vfunExp2 g vd va ty rm sat masked => Sys2Proof.Machine.execVfunExp2 g vd va ty rm sat masked s
  | .vfunLog g vd va ty rm sat masked => Sys2Proof.Machine.execVfunLog g vd va ty rm sat masked s
  | .vfunLog2 g vd va ty rm sat masked => Sys2Proof.Machine.execVfunLog2 g vd va ty rm sat masked s
  | .vfunRcp g vd va ty rm sat masked => Sys2Proof.Machine.execVfunRcp g vd va ty rm sat masked s
  | .vfunSqrt g vd va ty rm sat masked => Sys2Proof.Machine.execVfunSqrt g vd va ty rm sat masked s
  | .vfunRsqrt g vd va ty rm sat masked => Sys2Proof.Machine.execVfunRsqrt g vd va ty rm sat masked s
  | .vfunTanh g vd va ty rm sat masked => Sys2Proof.Machine.execVfunTanh g vd va ty rm sat masked s
  | .vfunSigm g vd va ty rm sat masked => Sys2Proof.Machine.execVfunSigm g vd va ty rm sat masked s
  | .vtopkVal g vd va vb ty masked imm => Sys2Proof.Machine.execVtopkVal g vd va vb ty masked imm s
  | .vtopkIdx g vd va vb ty masked sr imm => Sys2Proof.Machine.execVtopkIdx g vd va vb ty masked sr imm s
  | .vldMod g vd ty masked sr imm => Sys2Proof.Machine.execVldMod g vd ty masked sr imm s
  | .vldRow g vd vb ty masked sr => Sys2Proof.Machine.execVldRow g vd vb ty masked sr s
  | .vldStr g vd vb vc ty masked sr imm => Sys2Proof.Machine.execVldStr g vd vb vc ty masked sr imm s
  | .vstMod g va ty masked sr imm => Sys2Proof.Machine.execVstMod g va ty masked sr imm s
  | .vstRow g va vb ty masked sr => Sys2Proof.Machine.execVstRow g va vb ty masked sr s
  | .vstStr g va vb vc ty masked sr imm => Sys2Proof.Machine.execVstStr g va vb vc ty masked sr imm s
  | .vmovsLane g va ty sr imm => Sys2Proof.Machine.execVmovsLane g va ty sr imm s
  | .vmovsPair g va ty sr imm => Sys2Proof.Machine.execVmovsPair g va ty sr imm s
  | .vselBit g vd va vb vc ty masked => Sys2Proof.Machine.execVselBit g vd va vb vc ty masked s
  | .vselMask g vd va vb ty => Sys2Proof.Machine.execVselMask g vd va vb ty s
  | .mpushEq g va vb ty => Sys2Proof.Machine.execMpushEq g va vb ty s
  | .mpushNe g va vb ty => Sys2Proof.Machine.execMpushNe g va vb ty s
  | .mpushLt g va vb ty => Sys2Proof.Machine.execMpushLt g va vb ty s
  | .mpushGe g va vb ty => Sys2Proof.Machine.execMpushGe g va vb ty s
  | .minv g ty => Sys2Proof.Machine.execMinv g ty s
  | .mpop g ty => Sys2Proof.Machine.execMpop g ty s
  | .mgetM g vd ty => Sys2Proof.Machine.execMgetM g vd ty s
  | .mgetV g vd ty => Sys2Proof.Machine.execMgetV g vd ty s
  | .msetM g va ty => Sys2Proof.Machine.execMsetM g va ty s
  | .msetV g va ty => Sys2Proof.Machine.execMsetV g va ty s
  | .vparkP g va vc ty imm => Sys2Proof.Machine.execVparkP g va vc ty imm s
  | .vunparkU g vd ty => Sys2Proof.Machine.execVunparkU g vd ty s
  | .astartGo g d a imm => Sys2Proof.Machine.execAstartGo g d a imm s
  | .aloadW g h a b => Sys2Proof.Machine.execAloadW g h a b s
  | .astatRd g d a => Sys2Proof.Machine.execAstatRd g d a s
  | .astatWait g d a => Sys2Proof.Machine.execAstatWait g d a s
  | .pamoAdd g h a b scope order cell => Sys2Proof.Machine.execPamoAdd g h a b scope order cell s
  | .pamoMin g h a b scope order cell => Sys2Proof.Machine.execPamoMin g h a b scope order cell s
  | .pamoMax g h a b scope order cell => Sys2Proof.Machine.execPamoMax g h a b scope order cell s
  | .pamoSwap g h a b scope order cell => Sys2Proof.Machine.execPamoSwap g h a b scope order cell s
  | .pamoCas g h a b c scope order cell => Sys2Proof.Machine.execPamoCas g h a b c scope order cell s
  | .pamoCas2 g h a b c scope order cell => Sys2Proof.Machine.execPamoCas2 g h a b c scope order cell s
  | .pamoEnq g h a b scope order cell => Sys2Proof.Machine.execPamoEnq g h a b scope order cell s
  | .pamoChase g h a scope order links cell => Sys2Proof.Machine.execPamoChase g h a scope order links cell s
  | .pamoRedAdd g h b scope order cell => Sys2Proof.Machine.execPamoRedAdd g h b scope order cell s
  | .pamoRedMin g h b scope order cell => Sys2Proof.Machine.execPamoRedMin g h b scope order cell s
  | .pamoRedMax g h b scope order cell => Sys2Proof.Machine.execPamoRedMax g h b scope order cell s
  | .pamoHxch g h scope order cell => Sys2Proof.Machine.execPamoHxch g h scope order cell s
  | .pldC g h a scope order cell => Sys2Proof.Machine.execPldC g h a scope order cell s
  | .pstC g h b scope order cell => Sys2Proof.Machine.execPstC g h b scope order cell s
  | .bcntP g h b scope order cell => Sys2Proof.Machine.execBcntP g h b scope order cell s
  | .lsendH g h c peer relay rot slot berth => Sys2Proof.Machine.execLsendH g h c peer relay rot slot berth s
  | .lsendD g h b c peer relay rot slot berth => Sys2Proof.Machine.execLsendD g h b c peer relay rot slot berth s
  | .lsendV g b c peer relay rot slot berth => Sys2Proof.Machine.execLsendV g b c peer relay rot slot berth s
  | .lsendRld g h a peer relay => Sys2Proof.Machine.execLsendRld g h a peer relay s
  | .lsendRst g h b peer relay => Sys2Proof.Machine.execLsendRst g h b peer relay s
  | .lsendRadd g h a b peer relay => Sys2Proof.Machine.execLsendRadd g h a b peer relay s
  | .lsendRcas g h a b c peer relay => Sys2Proof.Machine.execLsendRcas g h a b c peer relay s
  | .ltakeM g h a => Sys2Proof.Machine.execLtakeM g h a s
  | .ltakeP g h a => Sys2Proof.Machine.execLtakeP g h a s
  | .lcalW g h b => Sys2Proof.Machine.execLcalW g h b s
  | .lmarkD g b => Sys2Proof.Machine.execLmarkD g b s
  | .lstatRd g a b => Sys2Proof.Machine.execLstatRd g a b s
  | .shsendT g h imm => Sys2Proof.Machine.execShsendT g h imm s
  | .shtakeT g h ch => Sys2Proof.Machine.execShtakeT g h ch s
  | .shretOpen g a ch n k => Sys2Proof.Machine.execShretOpen g a ch n k s
  | .shretT g h ch => Sys2Proof.Machine.execShretT g h ch s
  | .shretClose g ch => Sys2Proof.Machine.execShretClose g ch s
  | .sbputR g b pipe cls => Sys2Proof.Machine.execSbputR g b pipe cls s
  | .sbgetQ g a b => Sys2Proof.Machine.execSbgetQ g a b s
  | .sbgetX g a b => Sys2Proof.Machine.execSbgetX g a b s
  | .sbtblW g b lit => Sys2Proof.Machine.execSbtblW g b lit s
  | .sbcommitG g b => Sys2Proof.Machine.execSbcommitG g b s
  | .sbstatRd g a b => Sys2Proof.Machine.execSbstatRd g a b s
  | .sbstatMark g b => Sys2Proof.Machine.execSbstatMark g b s
  | .microEnd => Sys2Proof.Machine.execMicroEnd s
  | .microQk q k col dim fmt => Sys2Proof.Machine.execMicroQk q k col dim fmt s
  | .microSmax col => Sys2Proof.Machine.execMicroSmax col s
  | .microExpp p col pf => Sys2Proof.Machine.execMicroExpp p col pf s
  | .microDen => Sys2Proof.Machine.execMicroDen s
  | .microResc col dim => Sys2Proof.Machine.execMicroResc col dim s
  | .microPv p v col dim fmt => Sys2Proof.Machine.execMicroPv p v col dim fmt s
  | .microWalk => Sys2Proof.Machine.execMicroWalk s
  | .microGath k v => Sys2Proof.Machine.execMicroGath k v s
  | .microNorm col dim of row => Sys2Proof.Machine.execMicroNorm col dim of row s
  | .microLoop k fromAp ap n => Sys2Proof.Machine.execMicroLoop k fromAp ap n s
  | .microBnz k mode target => Sys2Proof.Machine.execMicroBnz k mode target s
  | .microJmp target => Sys2Proof.Machine.execMicroJmp target s
  | .microSig t => Sys2Proof.Machine.execMicroSig t s
  | .microWaitt t => Sys2Proof.Machine.execMicroWaitt t s
  | .microSetp ap mode imm => Sys2Proof.Machine.execMicroSetp ap mode imm s
  | .attentionEntryStart core => Sys2Proof.Machine.execAttentionEntryStart core s
  | .shadowBankWrite core => Sys2Proof.Machine.execShadowBankWrite core s
  | .recordIngress core pipe => Sys2Proof.Machine.execRecordIngress core pipe s
  | .recordPass id => Sys2Proof.Machine.execRecordPass id s
  | .launchPacket => Sys2Proof.Machine.execLaunchPacket s
  | .doorbell vf value => Sys2Proof.Machine.execDoorbell vf value s
  | .queueBaseWrite vf value => Sys2Proof.Machine.execQueueBaseWrite vf value s
  | .hostNotification vf value => Sys2Proof.Machine.execHostNotification vf value s
  | .resume vf value => Sys2Proof.Machine.execResume vf value s
  | .coresOffered part => Sys2Proof.Machine.execCoresOffered part s
  | .carComplete consist => Sys2Proof.Machine.execCarComplete consist s
  | .partitionDescriptorWrite part value => Sys2Proof.Machine.execPartitionDescriptorWrite part value s
  | .serviceWindowEnd => Sys2Proof.Machine.execServiceWindowEnd s
  | .scrubComplete core => Sys2Proof.Machine.execScrubComplete core s
  | .holdRelease consist => Sys2Proof.Machine.execHoldRelease consist s
  | .holdLimit consist => Sys2Proof.Machine.execHoldLimit consist s
  | .refreshWindowOpen => Sys2Proof.Machine.execRefreshWindowOpen s
  | .refreshWindowClose => Sys2Proof.Machine.execRefreshWindowClose s
  | .engineEntryComplete core queue => Sys2Proof.Machine.execEngineEntryComplete core queue s
  | .porterOperation porter => Sys2Proof.Machine.execPorterOperation porter s
  | .waitvPoll core => Sys2Proof.Machine.execWaitvPoll core s
  | .barrierArrival porter => Sys2Proof.Machine.execBarrierArrival porter s
  | .weightReturn id => Sys2Proof.Machine.execWeightReturn id s
  | .extension id => Sys2Proof.Machine.execExtension id s
  | .uniquenessQuery id => Sys2Proof.Machine.execUniquenessQuery id s
  | .sealRecord id => Sys2Proof.Machine.execSealRecord id s
  | .conversionToBlank id => Sys2Proof.Machine.execConversionToBlank id s
  | .allocRequest id => Sys2Proof.Machine.execAllocRequest id s
  | .storageFreed key => Sys2Proof.Machine.execStorageFreed key s
  | .checkFailure addr secondPasses die unit => Sys2Proof.Machine.execCheckFailure addr secondPasses die unit s
  | .shadowWalkComplete core => Sys2Proof.Machine.execShadowWalkComplete core s
  | .majorFaultSave consist => Sys2Proof.Machine.execMajorFaultSave consist s
  | .contextRestore part train car => Sys2Proof.Machine.execContextRestore part train car s
  | .timerCompare core => Sys2Proof.Machine.execTimerCompare core s
  | .interruptTaken consist => Sys2Proof.Machine.execInterruptTaken consist s
  | .abortTimer consist => Sys2Proof.Machine.execAbortTimer consist s
  | .revive consist => Sys2Proof.Machine.execRevive consist s
  | .haltResume consist => Sys2Proof.Machine.execHaltResume consist s
  | .invalidationRequest part va log2 => Sys2Proof.Machine.execInvalidationRequest part va log2 s
  | .invalidationAck die => Sys2Proof.Machine.execInvalidationAck die s
  | .pageMigration old new log2 => Sys2Proof.Machine.execPageMigration old new log2 s
  | .migrationLineCopy => Sys2Proof.Machine.execMigrationLineCopy s
  | .dieResetRequest die => Sys2Proof.Machine.execDieResetRequest die s
  | .resetAssert die => Sys2Proof.Machine.execResetAssert die s
  | .dieResetRelease die => Sys2Proof.Machine.execDieResetRelease die s
  | .frequencyRequest point => Sys2Proof.Machine.execFrequencyRequest point s
  | .frequencyStallStart => Sys2Proof.Machine.execFrequencyStallStart s
  | .frequencyStallEnd => Sys2Proof.Machine.execFrequencyStallEnd s
  | .retimeRelease consist => Sys2Proof.Machine.execRetimeRelease consist s
  | .retimeSlipFault consist => Sys2Proof.Machine.execRetimeSlipFault consist s
  | .sstepDrainPoint core => Sys2Proof.Machine.execSstepDrainPoint core s
  | .markComplete core id => Sys2Proof.Machine.execMarkComplete core id s
  | .kvQueueDrain stack => Sys2Proof.Machine.execKvQueueDrain stack s
  | .tabletArrival core ch => Sys2Proof.Machine.execTabletArrival core ch s
  | .shuttleDelivery core => Sys2Proof.Machine.execShuttleDelivery core s
  | .slotOccurrence checks => Sys2Proof.Machine.execSlotOccurrence checks s
  | .lateReturn id => Sys2Proof.Machine.execLateReturn id s
  | .messageArrival m => Sys2Proof.Machine.execMessageArrival m s
  | .serviceItemArrival peer seq item cumAck arrCredits relayCredits => Sys2Proof.Machine.execServiceItemArrival peer seq item cumAck arrCredits relayCredits s
  | .remoteOperation op => Sys2Proof.Machine.execRemoteOperation op s
  | .freezeNotice peer seq n => Sys2Proof.Machine.execFreezeNotice peer seq n s
  | .peerUnreachable peer accepted => Sys2Proof.Machine.execPeerUnreachable peer accepted s
  | .sequenceExchangeTimeout peer => Sys2Proof.Machine.execSequenceExchangeTimeout peer s
  | .drainMarker peer seq => Sys2Proof.Machine.execDrainMarker peer seq s
  | .calendarDark => Sys2Proof.Machine.execCalendarDark s
  | .calendarTakeover relocked => Sys2Proof.Machine.execCalendarTakeover relocked s
  | .berthTableWrite index value => Sys2Proof.Machine.execBerthTableWrite index value s
  | .grantChange part grant => Sys2Proof.Machine.execGrantChange part grant s
  | .registerWrite reg value => Sys2Proof.Machine.execRegisterWrite reg value s
  | .loadOverlay part number image => Sys2Proof.Machine.execLoadOverlay part number image s
  | .unloadOverlay part number => Sys2Proof.Machine.execUnloadOverlay part number s
  | .powerOn image => Sys2Proof.Machine.execPowerOn image s
  | .imageAccept => Sys2Proof.Machine.execImageAccept s
  | .bootRetry image => Sys2Proof.Machine.execBootRetry image s
  | .measurementExtend mr digest => Sys2Proof.Machine.execMeasurementExtend mr digest s
  | .quote nonce => Sys2Proof.Machine.execQuote nonce s
  | .powerState die state => Sys2Proof.Machine.execPowerState die state s
  | .temperatureSample temps => Sys2Proof.Machine.execTemperatureSample temps s
  | .slipStall die lag => Sys2Proof.Machine.execSlipStall die lag s
  | .managementInterrupt core => Sys2Proof.Machine.execManagementInterrupt core s
  | .poisonedStorageRelease key => Sys2Proof.Machine.execPoisonedStorageRelease key s
  | .haltAbort consist => Sys2Proof.Machine.execHaltAbort consist s
  | .illegalWord sub => Sys2Proof.Machine.execIllegalWord sub s
  | .hostPagingCopyResume part => Sys2Proof.Machine.execHostPagingCopyResume part s

end Sys2Proof.Machine
end

