-- ==== Sys2Proof/Machine/Schedule.lean ====
section
/-! DEFINITION. What the machine does next (log 4): one deterministic choice among what the spec lets happen at one instant. Events
from outside come first, then what units have due, then words, then time goes on by one cycle of package time. -/
namespace Sys2Proof.Machine
open Sys2Proof

/-- The next move: an instruction, micro-operation or event with the state it meets, or a state reached without one. -/
inductive Move where
  | run (i : Instr) (s : State)
  | move (s : State)

/-! ## Words of a cycle -/

/-- Where a word stands, for its decoding (R114, R120, R122, R366). -/
def ctxAt (s : State) (core : Nat) (q : SeqId) : Ctx :=
  let p := (s.seq core q).at_
  { seq := q, cls := classOf core, left := (p.secEnd - p.pc) / 3 - 1, word := fun i => s.mem.iword (p.pc + 3 + 3 * i) }

/-- The word at a sequencer's place, decoded (R122); the event ILLEGAL_WORD stands for what raises a fault in its place. -/
noncomputable def decodeAt (s : State) (core : Nat) (q : SeqId) : Instr :=
  let p := (s.seq core q).at_
  match p.pend with
  | some (sub, _) => .illegalWord sub
  | none =>
    match decode (ctxAt s core q) (s.mem.iword p.pc) (s.mem.iword (p.pc + 3)) with
    | .ok i => i
    | .error sub => .illegalWord sub

/-- The sequencers of a consist, on cores that run its car, whose word's cycle has come, in position order, the AS before the XS (R107). -/
def dueWords (s : State) (k : Nat) : List (Nat × SeqId) :=
  let c := s.cons k
  c.seqs.filter fun cq =>
    let p := (s.seq cq.1 cq.2).at_
    s.consistOf cq.1 == some k && !p.start && (match s.dueAt p with | some u => decide (u ≤ c.ttc) | none => false)

/-- What came of a word tried on a state that is thrown away. -/
structure Try where
  w      : Nat × SeqId
  i      : Instr
  note   : Note
  causes : BitVec 16

/-- Tries the words of a cycle one after another, so that what one takes is gone for the next (R38, R179). -/
noncomputable def tryWords (k : Nat) : List (Nat × SeqId) → State → List Try
  | [], _ => []
  | w :: ws, s =>
    let i := decodeAt s w.1 w.2
    match exec i { s with cur := w, note := .none } with
    | .next s' =>
      match s'.note with
      | .issued => ⟨w, i, .issued, 0⟩ :: tryWords k ws s'
      | n => ⟨w, i, n, match (s'.cons k).mode with | .hold h => h.causes | _ => 0⟩ :: tryWords k ws s
    | _ => ⟨w, i, .none, 0⟩ :: tryWords k ws s

/-- What is late at the current TTC, by core, with its cause bits: results (R430), walks that make the consist hold (R214), and what a
superstep waits for at its drain point (R396). -/
def lateItems (s : State) (k : Nat) : List (Nat × BitVec 16) :=
  let c := s.cons k
  (lateLatches c).map (fun l => (l.core, l.cause.getD 0)) ++
  c.cores.flatMap fun x =>
    (if (s.core x).walkHolds then [(x, causeBit 8)] else []) ++ (if sstepOut s x then [(x, causeBit 2)] else [])

def causesIn (l : List (Nat × BitVec 16)) : BitVec 16 := l.foldl (fun b p => b ||| p.2) 0

/-- Faults that units report at the current TTC for words issued earlier (R205). -/
def detected (s : State) (k : Nat) : List FaultRec := ((performDue s k).cons k).faults

noncomputable def noteOf (i : Instr) (s : State) : Note :=
  match exec i s with
  | .next s' => s'.note
  | _ => .none

/-- A word that has to wait makes the consist hold, or joins its hold (R48, R50). -/
noncomputable def holdOn (s : State) (k : Nat) (t : Try) : Move :=
  let s0 := { s with cur := t.w, note := .none }
  if noteOf t.i s0 = .held then .run t.i s0 else .move (holdFor s k t.causes [t.w] [t.w.1])

/-- The word whose fault is taken (R205, R206). -/
noncomputable def faultOn (s : State) (k : Nat) (t : Try) (f : FaultRec) : Move :=
  let s0 := { s with cur := t.w, note := .none }
  if noteOf t.i s0 = .faulted f then .run t.i s0 else .move (raise s k f)

def Try.faultOf (t : Try) : Option FaultRec := match t.note with | .faulted f => some f | _ => none
def Try.held (t : Try) : Bool := match t.note with | .held => true | _ => false
def Try.stuck (t : Try) : Bool := match t.note with | .none => true | _ => false

/-! ## Consists -/

/-- Whether the slip stall stops a consist: one of its dies lags 16 ticks (R238). -/
def slipStalled (s : State) (c : Consist) : Bool := c.cores.any fun x => decide (16 ≤ (s.die (dieOf x)).lag)

/-- A consist that runs, in one TTC cycle. Items that are late come first: no word issues while the TTC stands (R48), but a fault
that a unit reports is taken at once (R431). Then faults by their rank (R205), interrupts (R213), and the words. -/
noncomputable def runMove (s : State) (k : Nat) : Option Move :=
  let c := s.cons k
  let tries := tryWords k (dueWords s k) s
  let det := detected s k
  let late := lateItems s k
  match tries.find? Try.stuck with
  | some t => some (.run t.i { s with cur := t.w, note := .none })
  | none =>
    if !late.isEmpty || tries.any Try.held then
      match c.best det with
      | some f => some (.move (raise s k f))
      | none =>
        match tries.find? Try.held with
        | some t => some (holdOn s k t)
        | none => some (.move (holdFor s k (causesIn late) [] (late.map Prod.fst)))
    else
      match c.best (det ++ tries.filterMap Try.faultOf) with
      | some f =>
        match tries.find? fun t => t.note == .faulted f with
        | some t => some (faultOn s k t f)
        | none => some (.move (raise s k f))
      | none =>
        if takeable s k then some (.run (.interruptTaken k) s)
        else match tries with
          | t :: _ => some (.run t.i { s with cur := t.w, note := .none })
          | [] => none

/-- The other queues that a boundary still waits for (R44). -/
def boundaryWaits (s : State) (k : Nat) : Option Mode → Bool
  | some (.boundary ..) => !queuesDrained s k (s.consMask k)
  | _ => false

/-- A consist that holds (R48-R51, R431). What becomes late while it holds, its 4 cycles of release included, joins the hold (R50). -/
noncomputable def holdMove (s : State) (k : Nat) (h : Hold) : Option Move :=
  let c := s.cons k
  let boundary := match c.next with | some (.boundary ..) => true | _ => false
  let tries := if boundary then [] else tryWords k (dueWords s k) s
  let late := lateItems s k
  match c.best (detected s k) with
  | some f => some (.move (raise s k f))
  | none =>
    match tries.find? fun t => t.held && !h.words.contains t.w, tries.find? fun t => h.words.contains t.w && t.faultOf.isSome with
    | some t, _ => some (holdOn s k t)
    | none, some t => t.faultOf.map fun f => faultOn s k t f
    | none, none =>
      let present := late.isEmpty && !tries.any Try.held && !boundaryWaits s k c.next
      if late.any fun l => !h.late.contains l.1 || (l.2 &&& ~~~h.causes) != 0 then
        some (.move (holdFor s k (causesIn late) [] (late.map Prod.fst)))
      else if h.from_ + 2 ^ 30 ≤ s.clk then some (.run (.holdLimit k) s)
      else match h.ready, present with
        | some r, true => if r ≤ s.clk then some (.run (.holdRelease k) s) else none
        | some _, false => some (.move (s.setCons k { c with mode := .hold { h with ready := none } }))
        | none, true => some (.move (s.setCons k { c with mode := .hold { h with ready := some (s.clk + 4) } }))
        | none, false => none

/-- The wait of a task boundary (R44, R346). -/
noncomputable def boundaryMove (s : State) (k : Nat) (ov : Option (BitVec 16)) : Option Move :=
  let c := s.cons k
  match c.best (detected s k) with
  | some f => some (.move (raise s k f))
  | none =>
    let late := lateItems s k
    if !late.isEmpty then
      let h := holdFor s k (causesIn late) [] (late.map Prod.fst)
      some (.move ({ h with note := .none }.setCons k { h.cons k with next := some c.mode }))
    else if !boundaryRun s k ov then none
    else if !queuesDrained s k (s.consMask k) then
      let h := holdFor s k (causeBit 9) [] (c.cores.filter fun x => !coreDrained (s.consMask k) (s.core x))
      some (.move (h.setCons k { h.cons k with next := some c.mode }))
    else match ov with
      | none => some (.run (.carComplete k) s)
      | some n => some (.move (switchOverlay s k n))

/-- RFT's cycle z: the entries that are still listed, in order; replays hold as their accesses do (R212). -/
noncomputable def reentryMove (s : State) (k : Nat) (h : Option Hold) : Option Move :=
  let c := s.cons k
  match c.relist with
  | [] => match h with
    | none => some (.move (resumeRun (s.setCons k { c with mode := .run }) k))
    | some h => match h.ready with
      | some r => if r ≤ s.clk then some (.run (.holdRelease k) s) else none
      | none => some (.move (s.setCons k { c with mode := .reentry (some { h with ready := some (s.clk + 4) }) }))
  | (core, q, f) :: rest =>
    let pop := s.setCons k { c with relist := rest }
    if f.cls ≠ .minorTrans then some (.move (raise s k f))
    else
      match c.latches.find? fun l => l.core == core && l.seq == q && l.syll == f.syll && (l.pend || l.replay) with
      | none => some (.move pop)
      | some l =>
        if !l.replay then some (.move (replay s k l))
        else match l.err, l.cause with
          | some g, _ => some (.move (raise s k g))
          | none, none => some (.move (pop.setCons k ((pop.cons k).modLatch l.id fun l => { l with replay := false })))
          | none, some b =>
            let old := h.getD { causes := 0, from_ := s.clk, words := [], late := [], ready := none }
            let new := { old with causes := old.causes ||| b, late := if old.late.contains core then old.late else old.late ++ [core] }
            if h ≠ some new then some (.move (s.setCons k { c with mode := .reentry (some new) }))
            else if new.from_ + 2 ^ 30 ≤ s.clk then some (.run (.holdLimit k) s)
            else none

/-- PTC cycles in 1 ms: the abort timer of a frozen consist (R219, R231). -/
def abortTime : Nat := 1300000

/-! ## Units -/

/-- Whether the die of the sequencers runs (R241, log 102). -/
def State.sequencers (s : State) : Bool := (s.die cDie).state == .run

/-- Whether a frequency stall is in progress (R239). -/
def State.stalled (s : State) : Bool := match s.sys.wanted with | some (_, _, b) => b | none => false

/-- What units do in each cycle of package time without an event of their own. -/
def unitTick (s : State) : State :=
  let s := (coreIds s).foldl startEngines s
  let s := (coreIds s).foldl tickH s
  settleGrants (refreshCells (tickTurntable (tickAttention (tickSync (tickHomes (tickEgress s))))))

/-- The message a home takes next, or storage that is free (R65). -/
noncomputable def homeEvent : HomeReq ⊕ Nat → Instr
  | .inr key => .storageFreed key
  | .inl r =>
    match r.msg with
    | .weight _ | .later => .weightReturn r.id
    | .extend => .extension r.id
    | .query _ => .uniquenessQuery r.id
    | .seal .. => .sealRecord r.id
    | .toBlank => .conversionToBlank r.id
    | .alloc .. => .allocRequest r.id

/-- What the H-die has due; ports' checks and relocks are free values (log 5). -/
noncomputable def turntableEvent (s : State) : TtDue → Instr
  | .late id => .lateReturn id
  | .slot => .slotOccurrence (Config.slotChecks s.tt.nextSlot)
  | .dark => .calendarDark
  | .takeover => .calendarTakeover (Config.relocked s.tt.rot)
  | .unreachable p => .peerUnreachable (BitVec.ofNat 6 p) none
  | .timeout p => .sequenceExchangeTimeout (BitVec.ofNat 6 p)

/-- Events that the dispatcher and the management side have due. Launches, offers and service windows need a dispatcher that boot has
started (R320), on a die that runs (R241, log 102). -/
noncomputable def dispatcherEvent (s : State) : Option Instr :=
  if s.sys.boot = .fetched then some .imageAccept
  else if refreshOpen s.ptc && !s.sys.window then some .refreshWindowOpen
  else if !refreshOpen s.ptc && s.sys.window then some .refreshWindowClose
  else match dueStall s with
  | some false => some .frequencyStallStart
  | some true => some .frequencyStallEnd
  | none =>
  match dueReset s with
  | some d => some (.resetAssert d)
  | none =>
  match dueSample s with
  | some l => some (.temperatureSample l)
  | none =>
  match dueAck s with
  | some d => some (.invalidationAck d)
  | none =>
  if s.stores.migrations.any fun m => m.due s.clk && s.lineFree m then some .migrationLineCopy
  else match duePaging s with
  | some p => some (.hostPagingCopyResume p)
  | none =>
  match dueScrub s with
  | some x => some (.scrubComplete x)
  | none =>
  if !s.disp.started || (s.die hDie).state != .run then none
  else if s.disp.window ≤ s.ptc then some .serviceWindowEnd
  else if (nextLaunch s).isSome then some .launchPacket
  else match dueOffer s with
  | some (.restore v) => some (.contextRestore v.consist.part v.consist.train v.consist.car)
  | some (.offer p) => some (.coresOffered p)
  | none => none

/-- Events that cores' units, homes and porters have due. -/
noncomputable def unitEvent (s : State) : Option Instr :=
  match dueTimer s with
  | some x => some (.timerCompare x)
  | none =>
  match dueHome s with
  | some h => some (homeEvent h)
  | none =>
  match duePorter s with
  | some (.inl (p, true)) => some (.barrierArrival (BitVec.ofNat 10 p))
  | some (.inl (p, false)) => some (.porterOperation (BitVec.ofNat 10 p))
  | some (.inr x) => some (.waitvPoll x)
  | none =>
  match dueWalk s with
  | some x => some (.shadowWalkComplete x)
  | none =>
  match dueEngine s with
  | some (x, q) => some (.engineEntryComplete x (BitVec.ofNat 3 q))
  | none =>
  match dueShuttle s with
  | some (.inl (x, ch)) => some (.tabletArrival x (BitVec.ofNat 4 ch))
  | some (.inr x) => some (.shuttleDelivery x)
  | none =>
  match dueKv s with
  | some st => some (.kvQueueDrain st)
  | none =>
  match dueAttention s with
  | some x => some (.attentionEntryStart x)
  | none =>
  match dueSync s with
  | some (x, some id) => some (.markComplete x id)
  | some (x, none) => some (.sstepDrainPoint x)
  | none => (dueTurntable s).map (turntableEvent s)

/-- What the Signal Box has due; a commit at the head of its queue is the end of its SBCOMMIT (R280). -/
noncomputable def sboxMove (s : State) : Option Move :=
  match dueSbox s with
  | some (.ingress x p) => some (.run (.recordIngress x p) s)
  | some (.shadow x) => some (.run (.shadowBankWrite x) s)
  | some (.pass id) => some (.run (.recordPass id) s)
  | some (.commit x) =>
    match (s.core x).queue qSbox with
    | e :: _ => match e.op with
      | .sbcommit m => some (.move (sbCommit s x e m))
      | _ => none
    | [] => none
  | none => none

/-- The next micro-operation of an attention sequencer (R250, R251). -/
noncomputable def microMove (s : State) : Option Move :=
  match dueMicro s with
  | some (x, some w) =>
    match decodeMicro w with
    | some i => some (.run i { s with cur := (x, .xs) })
    | none => some (.move (microReserved s x))
  | some (x, none) => some (.move (microReserved s x))
  | none => none

/-- A RETIME wait (R240); a fault that a unit reports is taken at once. -/
noncomputable def retimeMove (s : State) (k : Nat) (r : Retime) : Option Move :=
  match (s.cons k).best (s.cons k).faults with
  | some f => some (.move (raise (s.setCons k { s.cons k with mode := .run }) k f))
  | none =>
    if s.stalled then none
    else if r.target + r.slack < r.notice then
      (if r.target + r.slack + 1 ≤ s.ptc then some (.run (.retimeSlipFault k) s) else none)
    else if max r.target r.notice ≤ s.ptc then some (.run (.retimeRelease k) s)
    else none

/-- Whether a section starts in this cycle that has not been entered: a handler's, after a trap (R208). -/
def mustEnter (s : State) (k : Nat) : Bool :=
  let c := s.cons k
  c.seqs.any fun cq =>
    let p := (s.seq cq.1 cq.2).at_
    p.start && p.stop == .none && p.pend.all (fun x => !x.2) && decide (p.base ≤ c.ttc)

/-- The next move of one consist. -/
noncomputable def consMove (s : State) (k : Nat) : Option Move :=
  let c := s.cons k
  match c.mode with
  | .run => if slipStalled s c || s.stalled || !s.sequencers then none
    else if mustEnter s k then some (.move (enterSections s k)) else runMove s k
  | .hold h => holdMove s k h
  | .boundary ov _ => if slipStalled s c || s.stalled || !s.sequencers then none else boundaryMove s k ov
  | .retime r => retimeMove s k r
  | .reentry h => reentryMove s k h
  | .saving => if dueSave s k then some (.run (.majorFaultSave k) s) else none
  | .frozen since => if since + abortTime ≤ s.ptc then some (.run (.abortTimer k) s) else none
  | .halted => none

/-! ## Time -/

/-- A consist whose TTC may advance finishes its cycle and begins the next (R7, R41, R232). -/
def nextCycle (s : State) (k : Nat) : State :=
  let c := s.cons k
  let go := match c.mode with | .run => true | .boundary .. => true | _ => false
  if !go || slipStalled s c || !s.sequencers then s
  else
    let s := performDue s k
    let c := s.cons k
    let s := s.setCons k { c with ttc := c.ttc + 1 }
    let all := fun (x : SeqStop) => c.seqs.all fun cq => (s.seq cq.1 cq.2).at_.stop == x
    let s :=
      if c.trapT.isSome && all .rft then resumeAt (performDue s k) k
      else match c.next with
        | some m => s.setCons k { s.cons k with mode := m, next := none }
        | none =>
          match c.mode with
          | .run => if all .cardone then s.setCons k { s.cons k with mode := .boundary none c.ttc } else s
          | _ => s
    let s := match (s.cons k).mode with | .run => enterSections s k | _ => s
    lookLatches (fences s k) k

def consIds (s : State) : List Nat := s.consists.map Prod.fst

/-- One cycle of package time; the arithmetic clocks run with it but for a frequency stall and the lower operating points (R231,
R237, R239, log 10). -/
def tick (s : State) : State :=
  let ph := s.sys.phase + s.rate
  let run := !s.stalled && decide (26 ≤ ph)
  let s := if run then countGated ((consIds s).foldl nextCycle s) else s
  let s := { s with sys := { s.sys with
    ptc := s.sys.ptc + 1, clk := s.sys.clk + (if run then 1 else 0), phase := if s.stalled then s.sys.phase else ph % 26 } }
  let s := performTokens ((consIds s).foldl arriveLatches s)
  unitTick s

/-- The machine's next move. -/
noncomputable def pick (s : State) : Move :=
  match s.inputs with
  | i :: rest => .run i { s with inputs := rest }
  | [] =>
    match dispatcherEvent s, unitEvent s with
    | some i, _ => .run i s
    | none, some i => .run i s
    | none, none =>
      match (sboxMove s).orElse fun _ => microMove s with
      | some m => m
      | none =>
        match (consIds s).find? (fencesStale s) with
        | some k => .move (fences s k)
        | none =>
          match (consIds s).findSome? (consMove s) with
          | some m => m
          | none => .move (tick s)

end Sys2Proof.Machine
end

