-- ==== Sys2Proof/Machine/Fetch.lean ====
section
/-! DEFINITION. A running consist of one core whose next word is a given one (log 3): what stands for the load of a program. -/
namespace Sys2Proof.Machine
open Sys2Proof

/-- Where a word is placed: the first place of Decode's `decodeTableWord` that decodes it. -/
noncomputable def fetchPlace (iw lit : Word96) : Nat × SeqId :=
  let ok := fun (q : SeqId) (c : CoreClass) => match decode (Ctx.alone q c) iw lit with | .ok _ => true | .error _ => false
  if ok .xs .attention then (96, .xs)
  else if ok .as .array then (0, .as)
  else if ok .as .attention then (96, .as)
  else (0, .xs)

/-- A place at syllable 2 of a section of 4,096 words whose next word issues at TTC t. -/
def fetchAt (t gap : Nat) : Place :=
  { pc := 2, start := false, base := t - gap, first := false, pend := none, hdr := 0, secNum := 0, secEnd := 2 + 3 * 4096
    secFrom := 0, retired := [], loops := [], rep := none, stop := .none, req := none }

/-- A consist of one core in the cycle in which the word at its sequencer's place issues. -/
def runningConsist (core : Nat) (t : Nat) : Consist :=
  { Consist.reset with cores := [core], cls := classOf core, ttc := t }

/-- The word, and the literal above it, in instruction memory, and a consist whose next word it is. -/
noncomputable def placeWord (s : State) (w : Nat) : State :=
  let iw := BitVec.ofNat 96 w
  let lit := BitVec.ofNat 96 (w / 2 ^ 96)
  let p := fetchPlace iw lit
  let gap := (iw.extractLsb' 76 7).toNat
  let m := s.mem.setBytes (syllAt 2) (toBytes 12 iw.toNat ++ toBytes 12 lit.toNat)
  let k := s.core p.1
  let run := fun (q : SeqId) (sq : Seq) =>
    { sq with at_ := if q = p.2 then fetchAt 1000 gap else { Place.idle with stop := .cardone }, streamLo := 0
              streamHi := 2 + 3 * 4096 + 2 }
  let k := { k with as := run .as k.as, xs := run .xs k.xs, part := some 0, consist := some 0 }
  { s with inputs := [], mem := m, cores := Tbl.set s.cores p.1 k, consists := [(0, runningConsist p.1 1000)]
           sys := { s.sys with window := refreshOpen s.sys.ptc } }

/-- A micro-operation at the place of a running attention entry of core 96 (R247). -/
def placeMicro (s : State) (w : Word64) : State :=
  let k := s.core 96
  let e : EngEntry :=
    { id := 0, seq := .xs, syll := 0, issued := 0, ptc := 0, op := .astart nullCap 0 0, borrows := [], writes := [], popped := []
      barrier := none, bytes := 0, due := none, latches := [], ready := 0, started := true, done := 0 }
  let a := { Attn.reset with store := [(0, w)], entry := some 0 }
  { s with inputs := [], cores := Tbl.set s.cores 96 ({ k with attn := a, part := some 0 }.setQueue 6 [e])
           sys := { s.sys with window := refreshOpen s.sys.ptc } }

end Sys2Proof.Machine
end

