-- ==== Sys2Proof/Machine/Step.lean ====
section
/-! DEFINITION. One step of the machine. -/
namespace Sys2Proof.Machine
open Sys2Proof

/-- The machine's next move (log 4): an instruction, micro-operation or event, or a state it reaches without one. -/
noncomputable def step (s : State) : Host.Outcome State Fault Refusal :=
  match pick s with
  | .run i s' => exec i s'
  | .move s' => .next s'

/-- The state with an instruction stored where the next step fetches it (log 3). -/
noncomputable def State.withFetchWord (s : State) (nbits w : Nat) : State :=
  if nbits ≤ 64 then placeMicro s (BitVec.ofNat 64 w) else placeWord s w

end Sys2Proof.Machine
end

