-- ==== Sys2Proof/Safety.lean ====
section
/-! DEFINITION. What a safe run is, and the terms in which claims speak of a word that issues: the state it issues on, the operands it
reads, the results it puts in flight, where control goes, and what it leaves as it was. -/
namespace Sys2Proof
open Sys2Proof.Machine

/-! ## Safe runs

No fault of the spec stops this machine (each one traps, saves, holds or freezes), so a run is safe as long as every step answers a
next state. -/

/-- The state answers n steps. -/
def SafeFor (n : Nat) (s : State) : Prop := ∃ s', Host.Core.run core n s = .next s'

/-- Every number of steps. -/
def Safe (s : State) : Prop := ∀ n, SafeFor n s

end Sys2Proof

namespace Sys2Proof.Machine

/-! ## A word that issues -/

/-- The sequencer `s.cur` runs a car; `v` is the state in which its word issues, everything of the cycle having performed (R7,
R206); no check of a section's first word fails (R42, R43); the guard is on (R108). -/
structure Issuing (g : Guard) (s v : State) : Prop where
  running : s.consistOf s.cur.1 = some s.curCons
  due     : v = performDue s s.curCons
  checks  : firstFaults v = []
  on      : guardOn (v.seq v.cur.1 v.cur.2) g = true

/-- Reading a scalar source gives x and leaves v' (R125, R126). -/
abbrev ReadsS (v : State) (r : BitVec 6) (x : Word64) (v' : State) : Prop := (readS r).run v = .ok (x, v')

/-- Reading a handle source gives c and leaves v'. -/
abbrev ReadsH (v : State) (r : BitVec 5) (c : Cap) (v' : State) : Prop := (readH r).run v = .ok (c, v')

/-- A scalar destination takes x by the effect e, any queue entry reserved in v' (R126). -/
abbrev TakesS (v : State) (r : BitVec 6) (x : Word64) (e : Effect) (v' : State) : Prop := (dstS r x).run v = .ok (e, v')

/-- A handle destination takes c by the effect e. -/
abbrev TakesH (v : State) (r : BitVec 5) (c : Cap) (e : Effect) (v' : State) : Prop := (dstH r c).run v = .ok (e, v')

/-- The latch that the issuing word puts in flight, due `lat` cycles on (R128, R206). -/
def newLatch (s : State) (lat : Nat) (e : Effect) (cause : Option (BitVec 16)) (d : Option Deferred) : Latch :=
  { id := s.nextId, core := s.cur.1, seq := s.cur.2, syll := BitVec.ofNat 25 (s.seq s.cur.1 s.cur.2).at_.pc
    ptc := s.ptc, due := s.ttc + lat, eff := e, cause := cause, defer := d, arrive := none, back := none, err := none, missAt := none
    pend := false, replay := false, place := none }

/-- The state with a latch put in flight. -/
def withLatch (s : State) (l : Latch) : State :=
  { s with nextId := s.nextId + 1 }.setCons s.curCons { s.cons s.curCons with latches := (s.cons s.curCons).latches ++ [l] }

/-- The state with an effect in flight. -/
def flying (s : State) (lat : Nat) (e : Effect) : State := withLatch s (newLatch s lat e none none)

/-- The state with a result in flight that a unit brings, late with the hold cause (R430). -/
def awaiting (s : State) (lat bit : Nat) (e : Effect) : State := withLatch s (newLatch s lat e (some (causeBit bit)) none)

/-- The state with an effect in flight, or the fault its latch reports in its place (R87). -/
def flyingOr (s : State) (lat : Nat) (e : Effect) (f : Option FaultRec) : State :=
  (flying s lat e).setCons (flying s lat e).curCons { (flying s lat e).cons (flying s lat e).curCons with
    latches := ((flying s lat e).cons (flying s lat e).curCons).latches.map fun l =>
      if l.id = s.nextId then { l with err := f.map fun f => { f with latch := some s.nextId } } else l }

/-- The state with a read of translated storage in flight (R225, R361). -/
def readingHbm (s : State) (lat : Nat) (op : DeferOp) (e : Effect) : State :=
  match (readHbm lat op e).run s with
  | .ok r => r.2
  | .error _ => s

/-- The state with a write of translated storage in flight. -/
def writingHbm (s : State) (lat : Nat) (c : Cap) (segs : List Seg) : State :=
  withLatch s (newLatch s lat (.store c segs) (some (causeBit 1))
    (some { op := .write, got := false, look := s.ttc + 2, bankAt := s.bankTime s.cur.1 }))

/-- A handle popped from hq is dropped when its command retires (R435); one of a register is borrowed until then (R83, log 92). -/
def droppingPopped (s : State) (r : BitVec 5) (c : Cap) (lat : Nat) : State :=
  if r = 31 then flying s lat (.drop c) else if c.counted = true then flying s lat (.borrow c) else s

/-- An engine queue of the issuing core has room (R40). -/
def RoomIn (v : State) (q : Nat) : Prop := ((v.core v.cur.1).queue q).length < engDepth q

/-- The entry that the issuing word appends to an engine queue (R40). -/
def newEntry (s : State) (op : EngOp) (borrows writes popped : List Cap) (barrier : Option Nat) (bytes : Nat) (due : Option Nat)
    (latches : List Nat) : EngEntry :=
  { id := s.nextId, seq := s.cur.2, syll := BitVec.ofNat 25 (s.seq s.cur.1 s.cur.2).at_.pc, issued := s.ttc, ptc := s.ptc, op := op
    borrows := borrows, writes := writes, popped := popped, barrier := barrier, bytes := bytes, due := due.map (s.ttc + ·)
    latches := latches, ready := s.clk + s.dC s.cur.1 + (s.die (dieOf s.cur.1)).lag + 2, started := false, done := 0 }

/-- The state with an entry appended to an engine queue. -/
def entering (s : State) (q : Nat) (e : EngEntry) : State :=
  { s with nextId := s.nextId + 1 }.setCore s.cur.1 ((s.core s.cur.1).setQueue q ((s.core s.cur.1).queue q ++ [e]))

/-- A capability that the issuing core's words may use as one of these kinds: tag, partition, kind, no reserved value (R66, R67,
R72, R149). -/
def CapOk (v : State) (c : Cap) (kinds : List (BitVec 4)) : Prop :=
  c.tag = true ∧ (c.space.toNat < 8 ∧ c.kind.toNat < 4) ∧ (c.isNull = true ∨ some c.part = (v.core v.cur.1).part) ∧
    c.kind ∈ kinds ∧ (c.kind = kPointer → c.pointerOk = true)

/-- The state with a move's source becoming null (R68): nothing more for hq, whose entry is gone. -/
def nulling (v : State) (r : BitVec 5) : State := if r = 31 then v else flying v 1 (.setH r nullCap)

/-- The state once a counted handle that a word popped from hq and hands nowhere goes home (R69, R358). -/
def givingUp (v : State) (r : BitVec 5) (c : Cap) : State := if r = 31 then v.dropWeight v.cur.1 c else v

/-- A pointer into cells that names cell n, or the pair at n (R172, R173). -/
def CellOk (v : State) (c : Cap) (cell : BitVec 32) (wide : Bool) (n : Nat) : Prop :=
  CapOk v c [kPointer] ∧ c.has pC = true ∧ c.space = 3 ∧
    (let a := (c.addr + 8 * cell.setWidth 64).toNat
     a = 8 * n ∧ n < 640 * 2 ^ 22 ∧ c.bounds.1 ≤ a ∧ a + (if wide then 16 else 8) ≤ c.bounds.2 ∧ (wide = true → n % 2 = 0))

/-- The state with an operation entered in the porter interface (R40, R173): it is at its porter at issue + dc + 6; bit 0 of `order`
acquires, bit 1 releases (R181). -/
def operating (v : State) (h : BitVec 5) (c hc : Cap) (n : Nat) (order : BitVec 2) (op : CellOp) (links : Nat)
    (x x2 y y2 : Word64) (ids : List Nat) : State :=
  let r : PorterReq :=
    { id := v.nextId, core := v.cur.1, seq := v.cur.2, syll := BitVec.ofNat 25 (v.seq v.cur.1 v.cur.2).at_.pc
      part := (v.core v.cur.1).part.getD 0, op := op, cell := n, v := x, v2 := x2, w := y, w2 := y2, cap := hc, links := links
      arrival := none, latches := ids, entry := some v.nextId, at_ := v.clk + v.dP n + 6 }
  let u := entering v qPorter (newEntry v (.porter r (order.getLsbD 1)) [c] [] (if h = 31 then [c] else []) none 0 none ids)
  match ids with
  | id :: _ => if order.getLsbD 0 then u.setCore u.cur.1 { u.core u.cur.1 with gates := (u.core u.cur.1).gates ++ [⟨id, none⟩] } else u
  | [] => u

/-- The markers of a MARK, one in each of some queues: their entries' numbers and the state with them in. -/
def marking (id : Nat) : List Nat → State → List Nat × State
  | [], v => ([], v)
  | q :: qs, v =>
    let r := marking id qs (entering v q (newEntry v (.mark id) [] [] [] none 0 none []))
    (v.nextId :: r.1, r.2)

/-- A handle of one of these kinds, with a permission, in one of these spaces (R67, R72). -/
def UseOk (v : State) (c : Cap) (kinds : List (BitVec 4)) (perm : Nat) (spaces : List Nat) : Prop :=
  CapOk v c kinds ∧ c.has perm = true ∧ c.space.toNat ∈ spaces

/-- A counted handle at its home: away from it few uses are allowed (R295). -/
def NearOk (v : State) (c : Cap) : Prop := c.counted = true → v.remoteHome c = false

/-- An access of n bytes from a pointer's cursor (R151). -/
def CursorOk (c : Cap) (n : Nat) : Prop := c.bounds.1 ≤ c.addr.toNat ∧ c.addr.toNat + n ≤ c.bounds.2

/-- A region that may be accessed (R157-R159, R356, R402): a record of some rank and no CB4, bases that a bank permutation can skew,
every inside element within the bounds, and with clip none outside. -/
def RegionOk (v : State) (r : Region) : Prop :=
  r.geom.rank ≠ 0 ∧ r.geom.fmt ≠ 6 ∧
    (r.perm = true → r.cap.space = 1 → (v.baseBounds r.cap).1 % 4096 = 0 ∧ (v.baseBounds r.cap).2 % 4096 = 0) ∧
    ∀ i j, i < r.rows → j < r.cols → if outside r i j = true then r.clip = false else
      (v.baseBounds r.cap).1 ≤ elementAddr r i j ∧ elementAddr r i j + r.width ≤ (v.baseBounds r.cap).2

/-- A slot that may be filled (R153, R404): claimed, and for a TLD fed to no MMA any more where it is filled. -/
def SlotOk (v : State) (n : BitVec 4) (tld : Bool) : Prop :=
  ((v.core v.cur.1).slot n).state ≠ .free ∧
    (tld = true → ((v.core v.cur.1).slot n).state = .claimedFilled → (v.core v.cur.1).fedAfter n v.ttc = false)

/-- The latch of a nonzero stamp (R112, R269), and the state with it in flight. -/
def stamping (v : State) (stamp : BitVec 20) (e : Effect) : List Nat × State :=
  if stamp = 0 then ([], v) else ([v.nextId], awaiting v stamp.toNat 1 e)

/-- The state with a command of the copy engine entered. -/
def copying (v : State) (stamp : BitVec 20) (e : Effect) (op : EngOp) (borrows writes popped : List Cap)
    (barrier : Option Nat) (bytes : Nat) : State :=
  entering (stamping v stamp e).2 qCopy (newEntry (stamping v stamp e).2 op borrows writes popped barrier bytes
    (if stamp = 0 then none else some stamp.toNat) (stamping v stamp e).1)

/-- The barrier that an s field names (R201): s0 means no arrival. -/
def BarrierAt (v : State) (sr : BitVec 6) (b : Option Nat) (w : State) : Prop :=
  ∃ x, ReadsS v sr x w ∧ if sr = 0 then b = none else x.toNat < 640 * 2 ^ 22 ∧ b = some x.toNat

/-- Handles that a word popped from hq (R435). -/
def pops1 (h : BitVec 5) (c : Cap) : List Cap := if h = 31 then [c] else []

/-- The state with a post-increment of a first coordinate in flight (R157, R402). -/
def stepping (v : State) (post : BitVec 1) (f : BitVec 4) (n : Nat) : State :=
  if post = 1 then flying v 1 (.addX f (BitVec.ofNat 32 n)) else v

/-- The command that the issuing word appends to the matrix queue (R40, R112). -/
def newMat (s : State) (stamp : Nat) (op : MatOp) : MatCmd :=
  { id := s.nextId, seq := s.cur.2, syll := BitVec.ofNat 25 (s.seq s.cur.1 s.cur.2).at_.pc, issued := s.ttc, ptc := s.ptc
    stamp := s.ttc + stamp, op := op, m := 0, n := 0, checked := false, passed := false, acols := 0, brows := 0, a := [], b := []
    done := 0, popped := [], flags := [] }

/-- The state with a matrix command appended. -/
def multiplying (s : State) (stamp : Nat) (op : MatOp) : State :=
  { s with nextId := s.nextId + 1 }.setCore s.cur.1 { s.core s.cur.1 with mat := (s.core s.cur.1).mat ++ [newMat s stamp op] }

/-- No handler runs on the consist of the issuing sequencer (R208). -/
def NoHandler (v : State) : Prop := (v.cons v.curCons).trapT = none

/-- The matrix queue takes a command (R40, R208, R247): room in it, no attention entry running, and no handler. -/
def MatrixOpen (v : State) : Prop :=
  NoHandler v ∧ (v.core v.cur.1).attn.entry = none ∧ (v.core v.cur.1).room qMatrix = true

/-- The rows of an MDRAIN in flight: row i performs at issue + 6 + i (R130, R311). -/
def draining (d : Drain) : Nat → State → State
  | 0, s => s
  | i + 1, s => flying (draining d i s) (6 + i) (.drainRow d i)

/-- The lanes a vector word writes (R399). -/
def maskFor (v : State) (masked : BitVec 1) : LaneMask := if masked = 1 then (v.core v.cur.1).top else BitVec.allOnes 128

/-- The state with a vector result in flight, lane by lane; where a written lane saturates, status entry 16 learns it with the result
(R105, R399). -/
def lanesOut (v : State) (vd : BitVec 6) (masked : BitVec 1) (lat : Nat) (out : Nat → BitVec 32 × Bool) : State :=
  let w := flying v lat (.setV vd (maskFor v masked) (ofLanes ((List.range 128).map fun i => (out i).1)))
  if (List.range 128).any fun i => (maskFor v masked).getLsbD i && (out i).2 then flying w lat .satFlag else w

/-- A lane whose elements come of one element each of two lanes (R123). -/
def zipLane (ty : Nat) (f : Nat → Nat → Nat × Bool) (a b : BitVec 32) : BitVec 32 × Bool :=
  let r := List.zipWith f (elemsOf ty a) (elemsOf ty b)
  (packElems ty (r.map Prod.fst), r.any Prod.snd)

/-- A vector load of the words at some addresses has been put in flight (R225, R266, R417, R434): from the core's own tile store, or
from translated storage. -/
def VecLoads (v : State) (vd : BitVec 6) (masked : BitVec 1) (h : BitVec 5) (c : Cap) (as : List Nat) (t : State) : Prop :=
  if c.space = 1 then ∃ ps : List Nat, as.map (fun a => tileRange a 4) = ps.map (fun p => some (v.cur.1, p)) ∧
    t = droppingPopped (flyingOr v 8 (.setV vd (maskFor v masked) (ofLanes (ps.map v.mem.read32)))
      ((ps.zip as).findSome? fun p => poisonOf v p.1 4 p.2)) h c 8
  else t = droppingPopped (readingHbm v 96 (.lanes ((List.range as.length).zip as)) (.setV vd (maskFor v masked) 0)) h c 96

/-- A vector store of the lanes that are on has been put in flight (R83, R200, R417): the core has not borrowed the storage, and
where lanes meet the highest one's word stands. -/
def VecStores (v : State) (va : BitVec 6) (masked : BitVec 1) (h : BitVec 5) (c : Cap) (as : List Nat) (t : State) : Prop :=
  let runs := wordRuns (lastWords (maskFor v masked) c.addr ((v.core v.cur.1).vreg va) 0 as [])
  (c.counted = true → (v.core v.cur.1).borrowed c.key = false) ∧
    if c.space = 1 then (∃ ps : List Nat, as.map (fun a => tileRange a 4) = ps.map (fun p => some (v.cur.1, p))) ∧
      t = droppingPopped (flying v 6 (.store c (runs.map fun r => ⟨r.1, tileAt v.cur.1 ((c.addr.toNat + r.1) % 2 ^ 32), r.2⟩))) h c 6
    else t = droppingPopped (writingHbm v 96 c (runs.map fun r => ⟨r.1, c.addr.toNat + r.1, r.2⟩)) h c 96

/-- Engine work that answers, with the state after it. -/
abbrev Works {α : Type} (x : Eng α) (s : State) (a : α) (t : State) : Prop := x.run.run s = (.ok a, t)

/-- The live query rows that micro-operations work on (R244, R251). -/
def RowsOk (k : Core) : Prop := 1 ≤ k.attn.live ∧ k.attn.live ≤ 128

/-- Accumulator columns that a micro-operation may name (R154, R155, R251). -/
def ColsOk (k : Core) (col n : Nat) : Prop := col + n ≤ 512 ∧ k.parkedIn col n = false

/-- The operands of QK and PV: filled slots of these formats that hold the rows × inner and inner × n elements (R152, R153, R247,
R251). -/
def ProductOk (k : Core) (a b : BitVec 4) (col inner n fa fb : Nat) : Prop :=
  RowsOk k ∧ ColsOk k col n ∧ (k.slot a).state = .claimedFilled ∧ (k.slot b).state = .claimedFilled ∧
    (k.slot a).fmt = fa ∧ (k.slot b).fmt = fb ∧ fb < 8 ∧
    k.attn.live ≤ (k.slot a).rows ∧ inner ≤ (k.slot a).cols ∧ inner ≤ (k.slot b).rows ∧ n ≤ (k.slot b).cols

/-- A berth that the issuing core may send in (R288, R295). -/
def BerthOk (v : State) (port slot berth : Nat) : Prop :=
  let e := Tbl.get (0 : BitVec 16) v.tt.berths (1024 * port + 64 * slot + berth)
  e.getLsbD 15 = true ∧ e.extractLsb' 8 2 = 0 ∧ some (e.extractLsb' 10 5) = (v.core v.cur.1).part ∧ (e.extractLsb' 0 8).toNat = v.cur.1

/-- The path of an LSEND (R286, R287, R289, R295, R359): no LCAL.W of the core is unsettled; the first-hop port and the rotation. -/
def PathOk (v : State) (d : Dep) (port r : Nat) : Prop :=
  (v.core v.cur.1).calling = false ∧ r = expandRot v.tt.rot d.rot ∧ d.peer ≠ v.tt.pkg ∧ d.relay ≠ v.tt.pkg ∧
    d.slot < (v.tt.calFor r).2 ∧ firstPort (v.tt.calFor r).1 d.slot d.relay = some port ∧ BerthOk v port d.slot d.berth

/-- The flits of an LSEND (R290, R295): berths enough from the first one on, free flits in them, and allowances, which it takes. -/
def FlitsOk (v : State) (d : Dep) (port r f : Nat) (w : State) : Prop :=
  let nb := (f + 45) / 46
  let key := berthKey r port d.slot d.berth
  d.berth + nb ≤ 64 ∧ (∀ i < nb, BerthOk v port d.slot (d.berth + i)) ∧ f ≤ 1984 ∧ (d.relay ≠ d.peer → f ≤ 1024) ∧
    f ≤ (List.range nb).foldl (fun m i => m + v.berthFree (key + i)) 0 ∧
    f ≤ (v.peer d.peer).arrival ∧ (d.relay ≠ d.peer → f ≤ (v.peer d.relay).relay) ∧
    (let u := v.setPeer d.peer { v.peer d.peer with arrival := (v.peer d.peer).arrival - f }
     let u := if d.relay = d.peer then u else u.setPeer d.relay { u.peer d.relay with relay := (u.peer d.relay).relay - f }
     w = { u with tt := { u.tt with filled := takeFlits u.tt.filled nb key f } })

/-- The place of a message's first flit in its berth: behind those of the core's earlier messages (R292, R295). -/
def flitAt (v : State) (d : Dep) (port r : Nat) : Nat := 46 - v.berthFree (berthKey r port d.slot d.berth)

/-- The state with a message entered in the link queue (R40, R295). -/
def sending (v : State) (d : Dep) (port r f off : Nat) (route : Word64) (p : Payload) (src : Option (Cap × Nat)) (borrows popped : List Cap) :
    State :=
  entering v qLink (newEntry v (.lsend
    { src := v.tt.pkg, dst := d.peer, core := v.cur.1, part := (v.core v.cur.1).part.getD 0, seq := 0, route := route, payload := p
      flits := f, relay := if d.relay = d.peer then none else some d.relay } port r d.slot d.berth off src) borrows [] popped none 0 none [])

/-- The capability of a remote form (R151, R299). -/
def RemoteOk (v : State) (c : Cap) (perm : Nat) (peer : BitVec 6) : Prop :=
  UseOk v c [kPointer] perm [6] ∧ CursorOk c 8 ∧ c.addr.extractLsb' 58 6 = peer ∧ c.addr.extractLsb' 52 5 = 0 ∧ c.addr.extractLsb' 0 3 = 0

/-- The state with a request in the Signal Box queue, at the H-die from issue + dH + 4 on (R40, R282, R283). -/
def boxAsk (v : State) (op : HOp) (latches : List Nat) : State :=
  entering v qSbox (newEntry v (.sbask op (v.clk + v.dist cDie hDie + 4)) [] [] [] none 0 none latches)

/-- The state with a request sent to the H-die (R17, R296). -/
def asking (v : State) (op : HOp) (latches : List Nat) : State :=
  v.setCore v.cur.1 { v.core v.cur.1 with
    hReqs := (v.core v.cur.1).hReqs ++ [⟨op, latches, v.clk + v.dist cDie hDie + 4⟩] }

/-- What the H-die answers comes back this long after the word's issue (R283, R296, R298). -/
def backAt (v : State) : Nat := 2 * v.dist cDie hDie + 8

/-- A private-memory access of n bytes (R156, R227). -/
def PrivateOk (a : Word64) (n : Nat) : Prop := a.toNat % n = 0 ∧ a.toNat + n ≤ 0x100000

/-- The state once control has passed on from a word of n words (R41, R107, R366-R369). -/
def movedOn (n : Nat) (ctl : Ctl) (v : State) : State :=
  match (advance n ctl).run v with
  | .ok r => r.2
  | .error _ => v

/-- The word has issued. -/
def issued (n : Nat) (ctl : Ctl) (v : State) : State := { movedOn n ctl v with note := .issued }

/-! ## What stays as it was -/

/-- A sequencer but for its place in its stream. -/
def Seq.storage (q : Seq) : Seq := { q with at_ := Place.idle }

/-- A core but for its sequencers' places. -/
def Core.storage (c : Core) : Core := { c with as := c.as.storage, xs := c.xs.storage }

/-- A core but for its sequencers' places and its inter-sequencer queues. -/
def Core.storageQ (c : Core) : Core := { c.storage with dq := [], hq := [] }

/-- A consist but for its latches. -/
def Consist.still (c : Consist) : Consist := { c with latches := [] }

/-- Nothing but the places of sequencers, the inter-sequencer queues, the latches in flight and the model's own counters differs. -/
structure OnlyInFlight (v t : State) : Prop where
  mem     : t.mem = v.mem
  cores   : ∀ c, (t.core c).storageQ = (v.core c).storageQ
  cons    : ∀ k, (t.cons k).still = (v.cons k).still
  stores  : t.stores = v.stores
  disp    : t.disp = v.disp
  sbox    : t.sbox = v.sbox
  tt      : t.tt = v.tt
  sys     : t.sys = v.sys
  inputs  : t.inputs = v.inputs

end Sys2Proof.Machine
end

