-- ==== Sys2Proof/Certificates/Slice0/Obligations.lean ====
section
/-! DEFINITION. What is claimed of the machine. A word is spoken of on the state `v` in which it issues (`Issuing`), and by what it
puts in flight from there; what results then do when they perform stands in statements of their own. -/
namespace Sys2Proof.Claims
open Sys2Proof Sys2Proof.Machine

/-! ## Tables -/

/-- SALU's two-source forms (R124): the SALU word, the SALUI word of the same fn, the latency (R128), the result. -/
def saluTable : List ((Guard → BitVec 6 → BitVec 6 → BitVec 6 → Instr) × (Guard → BitVec 6 → BitVec 6 → BitVec 48 → Instr) × Nat ×
    (Word64 → Word64 → Word64)) :=
  [ (.saluAdd, .saluiAdd, 1, fun a b => a + b),
    (.saluSub, .saluiSub, 1, fun a b => a - b),
    (.saluAnd, .saluiAnd, 1, fun a b => a &&& b),
    (.saluOr, .saluiOr, 1, fun a b => a ||| b),
    (.saluXor, .saluiXor, 1, fun a b => a ^^^ b),
    (.saluAndn, .saluiAndn, 1, fun a b => a &&& ~~~b),
    (.saluShl, .saluiShl, 1, fun a b => a <<< (b.toNat % 64)),
    (.saluShr, .saluiShr, 1, fun a b => a >>> (b.toNat % 64)),
    (.saluSar, .saluiSar, 1, fun a b => BitVec.ofInt 64 (a.toInt >>> (b.toNat % 64))),
    (.saluRol, .saluiRol, 1, fun a b => (a <<< (b.toNat % 64)) ||| (a >>> (64 - b.toNat % 64))),
    (.saluMin, .saluiMin, 1, fun a b => if a.toInt ≤ b.toInt then a else b),
    (.saluMax, .saluiMax, 1, fun a b => if a.toInt ≤ b.toInt then b else a),
    (.saluMinu, .saluiMinu, 1, fun a b => if a.toNat ≤ b.toNat then a else b),
    (.saluMaxu, .saluiMaxu, 1, fun a b => if a.toNat ≤ b.toNat then b else a),
    (.saluMul, .saluiMul, 3, fun a b => a * b),
    (.saluMulh, .saluiMulh, 3, fun a b => BitVec.ofInt 64 (a.toInt * b.toInt / 2 ^ 64)),
    (.saluMulhu, .saluiMulhu, 3, fun a b => BitVec.ofNat 64 (a.toNat * b.toNat / 2 ^ 64)),
    (.saluSeq, .saluiSeq, 1, fun a b => if a = b then 1 else 0),
    (.saluSne, .saluiSne, 1, fun a b => if a = b then 0 else 1),
    (.saluSlt, .saluiSlt, 1, fun a b => if a.toInt < b.toInt then 1 else 0),
    (.saluSltu, .saluiSltu, 1, fun a b => if a.toNat < b.toNat then 1 else 0) ]

/-- SDIV (R390) and SFP's two-source forms (R392), with their latencies. -/
def scalar2Table : List ((Guard → BitVec 6 → BitVec 6 → BitVec 6 → Instr) × Nat × (Word64 → Word64 → Word64)) :=
  [ (.sdivDiv, 18, fun a b => if b = 0 then -1 else BitVec.ofInt 64 (a.toInt.tdiv b.toInt)),
    (.sdivDivu, 18, fun a b => if b = 0 then -1 else BitVec.ofNat 64 (a.toNat / b.toNat)),
    (.sdivRem, 18, fun a b => if b = 0 then a else BitVec.ofInt 64 (a.toInt - b.toInt * a.toInt.tdiv b.toInt)),
    (.sdivRemu, 18, fun a b => BitVec.ofNat 64 (a.toNat % b.toNat)),
    (.sfpAdd, 4, fun a b => fpOut ((fpIn a).add 0 (fpIn b))),
    (.sfpSub, 4, fun a b => fpOut ((fpIn a).add 0 (fpIn b).neg)),
    (.sfpMul, 4, fun a b => fpOut ((fpIn a).mul (fpIn b))),
    (.sfpDiv, 4, fun a b => fpOut ((fpIn a).div (fpIn b))),
    (.sfpMin, 4, fun a b => fpOut ((fpIn a).min (fpIn b))),
    (.sfpMax, 4, fun a b => fpOut ((fpIn a).max (fpIn b))),
    (.sfpEq, 4, fun a b => if (fpIn a).cmp (fpIn b) = some 0 then 1 else 0),
    (.sfpLt, 4, fun a b => match (fpIn a).cmp (fpIn b) with | some c => if c < 0 then 1 else 0 | none => 0),
    (.sfpLe, 4, fun a b => match (fpIn a).cmp (fpIn b) with | some c => if c ≤ 0 then 1 else 0 | none => 0) ]

/-- The one-source scalar forms (R124, R392). -/
def scalar1Table : List ((Guard → BitVec 6 → BitVec 6 → Instr) × Nat × (Word64 → Word64)) :=
  [ (.saluClz, 1, fun a => BitVec.ofNat 64 (if a = 0 then 64 else 63 - a.toNat.log2)),
    (.saluCtz, 1, fun a => BitVec.ofNat 64 (((List.range 64).find? fun i => a.getLsbD i).getD 64)),
    (.saluPop, 1, fun a => BitVec.ofNat 64 ((List.range 64).countP fun i => a.getLsbD i)),
    (.sfpSqrt, 4, fun a => fpOut (fpIn a).sqrt),
    (.sfpCvti, 4, fun a => BitVec.ofInt 64 ((fpIn a).toRange 0 (-(2 ^ 63)) (2 ^ 63 - 1)).1),
    (.sfpCvtf, 4, fun a => fpOut (XNum.ofInt a.toInt)) ]

/-- The three-source scalar forms (R124, R392). -/
def scalar3Table : List ((Guard → BitVec 6 → BitVec 6 → BitVec 6 → BitVec 6 → Instr) × Nat × (Word64 → Word64 → Word64 → Word64)) :=
  [ (.saluSel, 1, fun a b c => if c = 0 then b else a),
    (.sfpFma, 4, fun a b c => fpOut (((fpIn a).mul (fpIn b)).add 0 (fpIn c))) ]

/-- PSET's forms of two predicates (R382). -/
def psetPredTable : List ((Guard → BitVec 6 → BitVec 6 → BitVec 6 → BitVec 6 → Instr) × (Bool → Bool → Bool)) :=
  [ (.psetAnd, fun x y => x && y), (.psetOr, fun x y => x || y), (.psetXor, fun x y => x != y), (.psetAndn, fun x y => x && !y) ]

/-- PSET's comparisons of two scalars. -/
def psetCmpTable : List ((Guard → BitVec 6 → BitVec 6 → BitVec 6 → BitVec 6 → Instr) × (Word64 → Word64 → Bool)) :=
  [ (.psetEq, fun a b => decide (a = b)), (.psetNe, fun a b => decide (a ≠ b)),
    (.psetLt, fun a b => decide (a.toInt < b.toInt)), (.psetLtu, fun a b => decide (a.toNat < b.toNat)),
    (.psetGe, fun a b => decide (b.toInt ≤ a.toInt)), (.psetGeu, fun a b => decide (b.toNat ≤ a.toNat)) ]

/-- The branch-outcome queue whose push end the issuing sequencer owns: bq1 from the AS, bq0 from the XS (R382). -/
def bqOut (v : State) : Nat := if v.cur.2 = .as then 5 else 4

/-- The state in which PSET has set a predicate to r and, with push, pushed it. -/
def PsetEnds (v : State) (d c : BitVec 6) (r : Bool) (t : State) : Prop :=
  let w := flying v 1 (if d.setWidth 4 = (0 : BitVec 4) then .mark else .setP (d.setWidth 4) r)
  if c.getLsbD 0 then
    ∃ id u, (pushQ (bqOut v)).run w = .ok (id, u) ∧ t = flying u 1 (.fill (bqOut v) id (.val (if r then 1 else 0)))
  else t = w

end Sys2Proof.Claims

open Sys2Proof Sys2Proof.Machine Sys2Proof.Claims

/-! ## Scalar words -/

/-- SALU (R124, R128): every two-source form puts its table's result in flight for its destination, whatever register or queue that is,
with its latency; control falls to the next word. -/
def Sys2Proof.Claims.SaluResult : Prop :=
  ∀ row ∈ saluTable, ∀ (g : Guard) (d a b : BitVec 6) (s v v1 v2 v3 : State) (x y : Word64) (e : Effect),
    Issuing g s v → ReadsS v a x v1 → ReadsS v1 b y v2 → TakesS v2 d (row.2.2.2 x y) e v3 →
    exec (row.1 g d a b) s = .next (issued 1 .fall (flying v3 row.2.2.1 e))

/-- SALUI (R124, R388): the same with the immediate, sign-extended, as its second operand. -/
def Sys2Proof.Claims.SaluiResult : Prop :=
  ∀ row ∈ saluTable, ∀ (g : Guard) (d a : BitVec 6) (imm : BitVec 48) (s v v1 v2 : State) (x : Word64) (e : Effect),
    Issuing g s v → ReadsS v a x v1 → TakesS v1 d (row.2.2.2 x (imm.signExtend 64)) e v2 →
    exec (row.2.1 g d a imm) s = .next (issued 1 .fall (flying v2 row.2.2.1 e))

/-- SDIV (R390) and SFP's two-source forms (R392): no operand stops them. -/
def Sys2Proof.Claims.DivideAndFloatResult : Prop :=
  ∀ row ∈ scalar2Table, ∀ (g : Guard) (d a b : BitVec 6) (s v v1 v2 v3 : State) (x y : Word64) (e : Effect),
    Issuing g s v → ReadsS v a x v1 → ReadsS v1 b y v2 → TakesS v2 d (row.2.2 x y) e v3 →
    exec (row.1 g d a b) s = .next (issued 1 .fall (flying v3 row.2.1 e))

/-- The scalar forms of one source and of three (R124, R392). -/
def Sys2Proof.Claims.OneAndThreeSourceResult : Prop :=
  (∀ row ∈ scalar1Table, ∀ (g : Guard) (d a : BitVec 6) (s v v1 v2 : State) (x : Word64) (e : Effect),
    Issuing g s v → ReadsS v a x v1 → TakesS v1 d (row.2.2 x) e v2 →
    exec (row.1 g d a) s = .next (issued 1 .fall (flying v2 row.2.1 e))) ∧
  (∀ row ∈ scalar3Table, ∀ (g : Guard) (d a b c : BitVec 6) (s v v1 v2 v3 v4 : State) (x y z : Word64) (e : Effect),
    Issuing g s v → ReadsS v a x v1 → ReadsS v1 b y v2 → ReadsS v2 c z v3 → TakesS v3 d (row.2.2 x y z) e v4 →
    exec (row.1 g d a b c) s = .next (issued 1 .fall (flying v4 row.2.1 e)))

/-- PSET (R382): the predicate at issue + 1, p0 discarding, and with push the bit in the sequencer's branch-outcome queue. -/
def Sys2Proof.Claims.PsetResult : Prop :=
  (∀ row ∈ psetPredTable, ∀ (g : Guard) (d a b c : BitVec 6) (s v t : State),
    Issuing g s v →
    PsetEnds v d c (row.2 ((v.seq v.cur.1 v.cur.2).pred (a.setWidth 4)) ((v.seq v.cur.1 v.cur.2).pred (b.setWidth 4))) t →
    exec (row.1 g d a b c) s = .next (issued 1 .fall t)) ∧
  (∀ row ∈ psetCmpTable, ∀ (g : Guard) (d a b c : BitVec 6) (s v v1 v2 t : State) (x y : Word64),
    Issuing g s v → ReadsS v a x v1 → ReadsS v1 b y v2 → PsetEnds v2 d c (row.2 x y) t →
    exec (row.1 g d a b c) s = .next (issued 1 .fall t))

/-- The scalar words' results: SALU, SALUI, SDIV, SFP and PSET, in every form. -/
def Obligations.ScalarResults : Prop :=
  SaluResult ∧ SaluiResult ∧ DivideAndFloatResult ∧ OneAndThreeSourceResult ∧ PsetResult


/-! ## Control and system words -/

/-- NOP, TRACE, HALT, RFT and CARDONE (R376, R406, R357, R387, R345), each where it has its own effect. -/
def Sys2Proof.Claims.ControlWords : Prop :=
  ∀ (g : Guard) (s v : State) (c : Consist), Issuing g s v → c = v.cons v.curCons →
    exec (.nop g) s = .next (issued 1 .fall v) ∧
    exec (.traceTs g) s = .next (issued 1 .fall (traceEvent v v.cur.1 0 0 v.ttc v.ttc)) ∧
    exec (.traceBr g) s = .next (issued 1 .fall
      (if trOn (v.core v.cur.1).trcctl && trBranches (v.core v.cur.1).trcctl then traceFlush v v.cur.1 else v)) ∧
    (c.trapT = none → c.next = none → exec (.halt g) s = .next (issued 1 .fall
      (c.cores.foldl (fun w core => traceEvent w core 2 0
          (FaultClass.software.code * 2 ^ 32 + (v.seq v.cur.1 v.cur.2).at_.pc % 2 ^ 25) c.ttc)
        (v.setCons v.curCons { c with next := some .halted })))) ∧
    (c.trapT.isSome → exec (.rft g) s = .next (issued 1 (.stop .rft) v)) ∧
    (c.trapT = none → queuesEmpty (v.core v.cur.1) = true →
      exec (.cardone g) s = .next (issued 1 (.stop .cardone) (traceFlush v v.cur.1)))

/-- TRAP.SW (R309): the word counts as issued, and the software trap with its immediate as tinfo is taken in its cycle. -/
def Obligations.SoftwareTrap : Prop :=
  ∀ (g : Guard) (imm : BitVec 48) (s v : State) (f : FaultRec), Issuing g s v → f = v.mkFault .software 0 (imm.signExtend 64) →
    exec (.trapSw g imm) s =
      .next { raise (countIssued s s.curCons (movedOn 1 (.trap f) v)) s.curCons f with note := .faulted f }

/-- OVLY (R44, R377) at a word where every other sequencer of the consist agrees on an overlay that fits, outside a handler: the consist
comes to a task boundary at the next cycle. DLAUNCH (R348): the packet is read at issue + d + 4, and the answer awaited. -/
def Sys2Proof.Claims.OverlayAndLaunch : Prop :=
  ∀ (g : Guard) (s v : State), Issuing g s v →
    let ends := fun (w : State) (n : BitVec 16) => issued 1 (.stop (.ovly n)) (traceFlush (w.setCons w.curCons
      { w.cons w.curCons with next := some (.boundary (some n) (w.cons w.curCons).ttc) }) w.cur.1)
    let may := fun (w : State) (n : Word64) => (w.cons w.curCons).trapT = none ∧ n.toNat < 65536 ∧ othersAgree w n = true ∧
      ∃ o, w.overlay? (w.cons w.curCons).part (n.setWidth 16) = some o ∧ overlayFits w (w.cons w.curCons) o = true
    (∀ imm : BitVec 48, may v (imm.setWidth 64) → exec (.ovlyN g imm) s = .next (ends v (imm.setWidth 16))) ∧
    (∀ (a : BitVec 6) (n : Word64) (w : State), ReadsS v a n w → may w n → exec (.ovlyS g a) s = .next (ends w (n.setWidth 16))) ∧
    (∀ (d a : BitVec 6) (x : Word64) (e : Effect) (v1 v2 : State), ReadsS v a x v1 → x.toNat % 64 = 0 → x.toNat + 128 ≤ 0x100000 →
      TakesS v1 d 0 e v2 →
      exec (.dlaunchP g d a) s = .next (issued 1 .fall
        (flying (awaiting v2 (2 * v1.dist cDie hDie + 24) 2 e) (v1.dC v1.cur.1 + 4) (.launch x.toNat v2.nextId))))

/-- The control and system words, each where it has its own effect. -/
def Obligations.SystemWords : Prop := ControlWords ∧ OverlayAndLaunch

/-- The words that put a register's new value in flight: LIT (R114, R365), SYSR and SYSW (R226, R397), CSET and CADD (R340), TOKSET
(R405), TSTAT (R407). -/
def Obligations.RegisterWords : Prop :=
  ∀ (g : Guard) (s v : State), Issuing g s v →
    (∀ d lit e w, TakesS v d (lit.setWidth 64) e w → exec (.lit g d lit) s = .next (issued 2 .fall (flying w 1 e))) ∧
    (∀ d reg e w, TakesS v d (sysReg v v.cur.1 v.cur.2 reg) e w → exec (.sysr g d reg) s = .next (issued 1 .fall (flying w 2 e))) ∧
    (∀ a reg x w, ReadsS v a x w → exec (.sysw g a reg) s = .next (issued 1 .fall (flying w 1 (.setSys reg x)))) ∧
    (∀ d imm, exec (.csetI g d imm) s = .next (issued 1 .fall (flying v 1 (.setX (d.setWidth 4) (imm.setWidth 32))))) ∧
    (∀ d a x w, ReadsS v a x w →
      exec (.csetS g d a) s = .next (issued 1 .fall (flying w 1 (.setX (d.setWidth 4) (x.setWidth 32))))) ∧
    (∀ d a imm, exec (.caddI g d a imm) s = .next (issued 1 .fall (flying v 1
      (.setX (d.setWidth 4) ((v.core v.cur.1).xreg (a.toNat % 16) + imm.setWidth 32))))) ∧
    (∀ d a x w, ReadsS v a x w → exec (.caddS g d a) s = .next (issued 1 .fall (flying w 1
      (.setX (d.setWidth 4) ((w.core w.cur.1).xreg (d.toNat % 16) + x.setWidth 32))))) ∧
    (∀ a imm, exec (.toksetI g a imm) s = .next (issued 1 .fall (flying v 1 (.tokSet (a.setWidth 5) (imm.setWidth 16))))) ∧
    (∀ d a imm e w, TakesS v d (((v.core v.cur.1).token (a.setWidth 5)).setWidth 64) e w →
      exec (.toksetX g d a imm) s = .next (issued 1 .fall (flying (flying w 1 e) 1 (.tokSet (a.setWidth 5) (imm.setWidth 16))))) ∧
    (∀ d a e w, a.toNat ≠ 16 → TakesS v d (Tbl.get 0 (v.core v.cur.1).status a.toNat) e w →
      exec (.tstatR g d a) s = .next (issued 1 .fall (flying w 2 e))) ∧
    (∀ d a e w, a.toNat = 16 → TakesS v d ((v.core v.cur.1).readSat v.ttc).1 e w →
      exec (.tstatR g d a) s = .next (issued 1 .fall ((flying w 2 e).setCore w.cur.1 (((flying w 2 e).core w.cur.1).readSat v.ttc).2)))

/-! ## Loads, stores and stack frames -/

/-- LD.P, ST.P, LD.CAP and ST.CAP (R227, R361, R362): the address is sa plus the signed offset; the bytes are those of the core's
private memory at issue, and a store's are in flight for its write. A counted handle loaded leaves a null handle in its granule. -/
def Obligations.PrivateLoadStore : Prop :=
  ∀ (g : Guard) (a : BitVec 6) (imm : BitVec 48) (s v v1 : State) (x at_ : Word64) (p : Nat), Issuing g s v → ReadsS v a x v1 →
    at_ = x + imm.signExtend 64 → p = privAt v1.cur.1 at_.toNat →
    (∀ d e w, PrivateOk at_ 8 → TakesS v1 d (v1.mem.read64 p) e w →
      exec (.ldP g d a imm) s = .next (issued 1 .fall
        (flyingOr w (2 * v1.dC v1.cur.1 + 4) e (poisonOf v1 p 8 at_.toNat)))) ∧
    (∀ d y w, PrivateOk at_ 8 → ReadsS v1 d y w →
      exec (.stP g d a imm) s = .next (issued 1 .fall (flying w (w.dC w.cur.1 + 4)
        (.store (privateCap ((w.core w.cur.1).part.getD 0)) [⟨at_.toNat, privAt w.cur.1 at_.toNat, toBytes 8 y.toNat⟩])))) ∧
    (∀ (d : BitVec 6) e w, PrivateOk at_ 16 → TakesH v1 (d.setWidth 5) (v1.mem.readCap p) e w →
      exec (.ldCap g d a imm) s =
        let u := flyingOr w (2 * v1.dC v1.cur.1 + 4) e (poisonOf v1 p 16 at_.toNat)
        .next (issued 1 .fall (if (v1.mem.readCap p).counted && (poisonOf v1 p 16 at_.toNat).isNone then
          { u with mem := u.mem.writeCap p nullCap } else u))) ∧
    (∀ (d : BitVec 6) c w, PrivateOk at_ 16 → ReadsH v1 (d.setWidth 5) c w →
      (c.tag = true → CapOk w c [kPointer, kTile, kBlank, kNull] ∧ (c.isNull = true ∨ c.has pL = true) ∧ NearOk w c) →
      (c.counted = true → c.kind = kBlank → w.writesOut w.cur.1 c.key = false) →
      exec (.stCap g d a imm) s =
        let u := if c.counted = true ∧ d.setWidth 5 ≠ (31 : BitVec 5) then flying w 1 (.setH (d.setWidth 5) nullCap) else w
        .next (issued 1 .fall (flying u (u.dC u.cur.1 + 4) (.storeCap (privateCap ((u.core u.cur.1).part.getD 0)) at_.toNat
          (privAt u.cur.1 at_.toNat) c))))

/-- What an access of 8 bytes through a handle asks of it (R361, R433): kind, permission, space, alignment, extent, element width. -/
def Sys2Proof.Claims.Access8Ok (v : State) (c : Cap) (kinds : List (BitVec 4)) (perm : Nat) (spaces : List Nat) (a : Word64) : Prop :=
  CapOk v c kinds ∧ c.has perm = true ∧ c.space.toNat ∈ spaces ∧
    (a.toNat % 8 = 0 ∧ (v.baseBounds c).1 ≤ a.toNat ∧ a.toNat + 8 ≤ (v.baseBounds c).2) ∧
    (c.space = 2 → a.toNat + 8 ≤ 0x100000) ∧ (c.kind = kTile → fmtBytes (v.tileEntry c.key).fmt = some 4)

/-- LD.H and ST.H (R361): through a handle, from HBM by translation, from the core's own tile store or from private memory. A store
faults while the core has borrowed the storage (R83), so it is claimed where it has not. -/
def Obligations.HandleLoadStore : Prop :=
  ∀ (g : Guard) (d a : BitVec 6) (imm : BitVec 48) (s v v1 : State) (c : Cap) (at_ : Word64), Issuing g s v →
    ReadsH v (a.setWidth 5) c v1 → at_ = c.addr + imm.signExtend 64 →
    (Access8Ok v1 c [kTile, kBlank, kPointer] pR [0, 1, 2] at_ →
      (∀ e w, c.space = 0 → TakesS v1 d 0 e w → exec (.ldH g d a imm) s = .next (issued 1 .fall (droppingPopped
        (readingHbm w (2 * v1.dC v1.cur.1 + 96) (.read8 at_.toNat) e) (a.setWidth 5) c (2 * v1.dC v1.cur.1 + 96)))) ∧
      (∀ e w p, c.space ≠ 0 →
        (c.space = 1 ∧ tileRange at_.toNat 8 = some (v1.cur.1, p) ∨ c.space ≠ 1 ∧ p = privAt v1.cur.1 at_.toNat) →
        TakesS v1 d (v1.mem.read64 p) e w → exec (.ldH g d a imm) s = .next (issued 1 .fall (droppingPopped
          (flyingOr w (2 * v1.dC v1.cur.1 + 4) e (poisonOf v1 p 8 at_.toNat)) (a.setWidth 5) c (2 * v1.dC v1.cur.1 + 4))))) ∧
    (∀ x w, ReadsS v1 d x w → Access8Ok w c [kBlank, kPointer] pW (if c.kind = kPointer then [2] else [0, 1]) at_ →
      (c.counted = true → (w.core w.cur.1).borrowed c.key = false) →
      (c.space = 0 → exec (.stH g d a imm) s = .next (issued 1 .fall (droppingPopped
        (writingHbm w 96 c [⟨(at_ - c.addr).toNat, at_.toNat, toBytes 8 x.toNat⟩]) (a.setWidth 5) c 96))) ∧
      (∀ p, c.space ≠ 0 →
        (c.space = 1 ∧ tileRange at_.toNat 8 = some (w.cur.1, p) ∨ c.space ≠ 1 ∧ p = privAt w.cur.1 at_.toNat) →
        exec (.stH g d a imm) s = .next (issued 1 .fall (droppingPopped
          (flying w (w.dC w.cur.1 + 4) (.store c [⟨(at_ - c.addr).toNat, p, toBytes 8 x.toNat⟩]))
          (a.setWidth 5) c (w.dC w.cur.1 + 4)))))

/-- ENTER and LEAVE (R352, R364, R156): the frame record at sp − 16 holds the caller's fp, fp becomes its address, sp drops by 16 + n;
LEAVE takes both back. -/
def Obligations.StackFrames : Prop :=
  ∀ (g : Guard) (s v : State) (q : Seq) (sp fp : Word64), Issuing g s v → q = v.seq v.cur.1 v.cur.2 →
    sp = Tbl.get 0 q.s 63 → fp = Tbl.get 0 q.s 62 → q.stlimit.toNat ≤ q.stbase.toNat →
    (∀ n : BitVec 48, sp.toNat % 16 = 0 → q.stlimit.toNat + 16 + n.toNat ≤ sp.toNat → PrivateOk (sp - 16) 16 →
      exec (.enterF g n) s = .next (issued 1 .fall
        (flying (flying (flying v 1 (.setS 62 (sp - 16))) 1 (.setS 63 (sp - 16 - n.setWidth 64))) (v.dC v.cur.1 + 4)
          (.store (privateCap ((v.core v.cur.1).part.getD 0))
            [⟨(sp - 16).toNat, privAt v.cur.1 (sp - 16).toNat, toBytes 8 fp.toNat ++ toBytes 8 0⟩])))) ∧
    (fp.toNat % 16 = 0 → fp.toNat + 16 ≤ q.stbase.toNat → PrivateOk fp 16 →
      exec (.leaveF g) s = .next (issued 1 .fall
        (flyingOr (flying v 1 (.setS 63 (fp + 16))) (2 * v.dC v.cur.1 + 4) (.setS 62 (v.mem.read64 (privAt v.cur.1 fp.toNat)))
          (poisonOf v (privAt v.cur.1 fp.toNat) 8 fp.toNat))))

/-! ## Control flow -/

/-- Control after a word of n words at syllable p.pc that issues at t, outside any loop's end word (R41, R107, R336, R366, R369): it falls to
the next word or, at the section's end, to the next section, whose base is t + 1; a taken branch starts the target section there; a
word in REPEAT issues again until its count is out. -/
def Sys2Proof.Claims.ControlPasses : Prop :=
  ∀ (n : Nat) (v : State) (p : Place), p = (v.seq v.cur.1 v.cur.2).at_ → p.start = false →
    let place := fun ctl => ((movedOn n ctl v).seq v.cur.1 v.cur.2).at_
    let next := p.pc + 3 * n
    (∀ hdr, place (.goto hdr) = { p with
      pc := hdr, start := true, base := v.ttc + 1, first := false, pend := none, loops := [], rep := none, stop := .none, req := none
      retired := (p.secNum, v.ttc) :: p.retired.take 1 }) ∧
    (∀ m, p.rep = some (m + 2) →
      place .fall = { p with base := v.ttc + 1, first := false, rep := some (m + 1), req := none }) ∧
    (p.rep = none ∨ p.rep = some 1 → (∀ l ∈ p.loops, l.last ≠ next) →
      (next < p.secEnd → place .fall = { p with pc := next, base := v.ttc + 1, first := false, rep := none, req := none }) ∧
      (p.secEnd ≤ next → place .fall = { p with
        pc := next, start := true, base := v.ttc + 1, first := false, rep := none, req := none
        retired := (p.secNum, v.ttc) :: p.retired.take 1 }) ∧
      (∀ m, next + 3 * m < p.secEnd →
        place (.skip m) = { p with pc := next + 3 * m, base := v.ttc + 1, first := false, rep := none, req := none }) ∧
      (∀ m, place (.times m) = { p with pc := next, base := v.ttc + 1, first := false, rep := some m, req := none }))

/-- The back edge of a loop at its end word (R367): with the counter not zero the body's first word is next, and the counter minus one is
in flight, due in the next cycle. -/
def Sys2Proof.Claims.LoopGoesRound : Prop :=
  ∀ (n : Nat) (v : State) (q : Seq) (l : Loop) (ls : List Loop), q = v.seq v.cur.1 v.cur.2 → q.at_.loops = l :: ls →
    l.last = q.at_.pc + 3 * n → Tbl.get 0 q.lc l.counter ≠ 0 → (q.at_.rep = none ∨ q.at_.rep = some 1) →
    ((movedOn n .fall v).seq v.cur.1 v.cur.2).at_.pc = l.first ∧
    ((movedOn n .fall v).seq v.cur.1 v.cur.2).at_.base = v.ttc + 1 ∧
    ((movedOn n .fall v).seq v.cur.1 v.cur.2).at_.loops = l :: ls ∧
    ∃ x ∈ ((movedOn n .fall v).cons v.curCons).latches,
      x.eff = .setLc l.counter (Tbl.get 0 q.lc l.counter - 1) ∧ x.due = v.ttc + 1 ∧ x.core = v.cur.1 ∧ x.seq = v.cur.2

/-- Where control stands after a word. -/
def Obligations.ControlFlow : Prop := ControlPasses ∧ LoopGoesRound

/-- PBR (R380, R381): the target register at issue + 1, bad where the target is no section header of the stream whose checks pass. -/
def Obligations.BranchTargets : Prop :=
  ∀ (g : Guard) (b : BitVec 3) (s v : State), Issuing g s v →
    (∀ (imm : BitVec 48) (a : Nat), ((v.seq v.cur.1 v.cur.2).at_.pc : Int) + imm.toInt = a → a < 2 ^ 25 →
      exec (.pbrO g b imm) s = .next (issued 1 .fall
        (flying v 1 (.setB b ⟨true, !v.targetOk (v.seq v.cur.1 v.cur.2) a, BitVec.ofNat 25 a, v.ttc⟩)))) ∧
    (∀ imm : BitVec 48, ¬ (0 ≤ ((v.seq v.cur.1 v.cur.2).at_.pc : Int) + imm.toInt ∧
        ((v.seq v.cur.1 v.cur.2).at_.pc : Int) + imm.toInt < 2 ^ 25) →
      ∃ syll, exec (.pbrO g b imm) s = .next (issued 1 .fall (flying v 1 (.setB b ⟨true, true, syll, v.ttc⟩)))) ∧
    (∀ (a : BitVec 6) (x : Word64) (w : State), ReadsS v a x w →
      exec (.pbrR g b a) s = .next (issued 1 .fall (flying w 1 (.setB b
        ⟨true, !(x.extractLsb' 25 39 == 0 && w.targetOk (w.seq w.cur.1 w.cur.2) (x.toNat % 2 ^ 25)), x.setWidth 25, w.ttc⟩))))

/-- BR, BRQ and BRMZ (R336-R339): through a register that is valid, four cycles old and not bad a taken branch starts its section; the
outcome goes to the trace. -/
def Obligations.Branches : Prop :=
  ∀ (g : Guard) (s v : State), Issuing g s v →
    (∀ (b : BitVec 3) (r : BReg), r = (v.seq v.cur.1 v.cur.2).breg b → r.ready v.ttc = true →
      v.branchOk (v.seq v.cur.1 v.cur.2) r = true →
      exec (.brGo g b) s = .next (issued 1 (.goto r.syll.toNat) (traceBranch v v.cur.1 true v.ttc))) ∧
    (∀ (b : BitVec 3) (want : Bool) (r : BReg) (x : Word64) (w : State),
      (popQ (match v.cur.2 with | .as => 4 | .xs => 5)).run v = .ok (some x, w) →
      r = (w.seq w.cur.1 w.cur.2).breg b → r.ready w.ttc = true →
      (x.getLsbD 0 = want → w.branchOk (w.seq w.cur.1 w.cur.2) r = true →
        exec (if want then .brqT g b else .brqF g b) s =
          .next (issued 1 (.goto r.syll.toNat) (traceBranch w w.cur.1 true w.ttc))) ∧
      (x.getLsbD 0 ≠ want →
        exec (if want then .brqT g b else .brqF g b) s = .next (issued 1 .fall (traceBranch w w.cur.1 false w.ttc)))) ∧
    (∀ imm : BitVec 48,
      ((v.core v.cur.1).top = 0 →
        (∀ l ∈ (v.seq v.cur.1 v.cur.2).at_.loops, ¬ ((v.seq v.cur.1 v.cur.2).at_.pc + 3 < l.last ∧
          l.last ≤ (v.seq v.cur.1 v.cur.2).at_.pc + 3 + 3 * imm.toNat)) →
        exec (.brmzSkip g imm) s = .next (issued 1 (.skip imm.toNat) (traceBranch v v.cur.1 true v.ttc))) ∧
      ((v.core v.cur.1).top ≠ 0 →
        exec (.brmzSkip g imm) s = .next (issued 1 .fall (traceBranch v v.cur.1 false v.ttc))))

/-- CALL and RET (R341, R385, R386): CALL lowers sp by 16 and writes the return record there; RET with a copy of the record at sp raises
sp by 16 and goes where the record says. -/
def Obligations.CallAndReturn : Prop :=
  ∀ (g : Guard) (s v : State) (q : Seq) (sp : Word64), Issuing g s v → q = v.seq v.cur.1 v.cur.2 → sp = Tbl.get 0 q.s 63 →
    sp.toNat % 16 = 0 → q.stlimit.toNat ≤ q.stbase.toNat →
    (∀ (b : BitVec 3) (r : BReg), r = q.breg b → r.ready v.ttc = true → v.branchOk q r = true → q.stlimit.toNat + 16 ≤ sp.toNat →
      PrivateOk (sp - 16) 16 →
      let w := flying (flying v 1 (.setS 63 (sp - 16))) (v.dC v.cur.1 + 4) (.store (privateCap ((v.core v.cur.1).part.getD 0))
        [⟨(sp - 16).toNat, privAt v.cur.1 (sp - 16).toNat,
          toBytes 8 (returnWord q.at_.secNum (q.at_.pc + 3)).toNat ++ toBytes 8 0⟩])
      let u := w.setSeq w.cur.1 w.cur.2 { w.seq w.cur.1 w.cur.2 with
        retRecs := ((sp - 16).toNat :: q.retRecs.filter (· != (sp - 16).toNat)).take 16 }
      exec (.callGo g b) s = .next (issued 1 (.goto r.syll.toNat) (traceBranch u u.cur.1 true u.ttc))) ∧
    (∀ (hdr a : Nat) (isHdr : Bool) (sec : BitVec 14), sp.toNat + 16 ≤ q.stbase.toNat → PrivateOk sp 16 → sp.toNat ∈ q.retRecs →
      a < 2 ^ 25 → returnRecord v v.cur.1 v.cur.2 sp.toNat = toBytes 8 (returnWord sec a).toNat ++ toBytes 8 0 →
      findSection v q a (q.streamHi - q.streamLo) q.streamLo = some (hdr, isHdr) →
      (isHdr = true ∨ hdrNum (v.mem.header hdr) = sec) →
      exec (.retGo g) s = .next (issued 1 (if isHdr then .goto hdr else .back hdr a) (flying v 1 (.setS 63 (sp + 16)))))

/-- LOOP and REPEAT (R367, R369), outside a handler: N = 0 skips the body, else N − 1 goes to the counter and the loop is active;
REPEAT's word issues m times, or is skipped with its literal. -/
def Obligations.LoopsAndRepeats : Prop :=
  ∀ (g : Guard) (s v : State), Issuing g s v → (v.cons v.curCons).trapT = none →
    let fits := fun (w : State) (counter n count : Nat) => count ≤ 65536 ∧
      ∀ l ∈ (w.seq w.cur.1 w.cur.2).at_.loops, l.counter ≠ counter ∧
        ¬ (l.first ≤ (w.seq w.cur.1 w.cur.2).at_.pc ∧ (w.seq w.cur.1 w.cur.2).at_.pc < l.last ∧
          l.last < (w.seq w.cur.1 w.cur.2).at_.pc + 3 + 3 * n)
    let starts := fun (w : State) (counter n : Nat) (level : Option Nat) => w.setSeq w.cur.1 w.cur.2 { w.seq w.cur.1 w.cur.2 with
      at_ := { (w.seq w.cur.1 w.cur.2).at_ with loops :=
        ⟨counter, level, (w.seq w.cur.1 w.cur.2).at_.pc + 3, (w.seq w.cur.1 w.cur.2).at_.pc + 3 + 3 * n⟩ ::
          (w.seq w.cur.1 w.cur.2).at_.loops } }
    (∀ (a : BitVec 6) (imm : BitVec 48) (k count start : Nat), k = a.toNat % 4 → loopLevel v v.cur.1 k = some (count, start) →
      fits v k imm.toNat count →
      exec (.loopL g a imm) s = .next (if count = 0 then issued 1 (.skip imm.toNat) v else issued 1 .fall
        (starts (flying (flying v 1 (.setLc k (BitVec.ofNat 16 (count - 1)))) 1 (.setLvl k (BitVec.ofNat 32 start)))
          k imm.toNat (some k)))) ∧
    (∀ (t : BitVec 3) (a : BitVec 6) (imm : BitVec 48) (k : Nat) (x : Word64) (w : State), k = t.toNat % 4 → ReadsS v a x w →
      fits w k imm.toNat x.toNat →
      exec (.loopS g t a imm) s = .next (if x = 0 then issued 1 (.skip imm.toNat) w else issued 1 .fall
        (starts (flying w 1 (.setLc k (BitVec.ofNat 16 (x.toNat - 1)))) k imm.toNat none))) ∧
    (∀ (w : State) (m : Nat) (i : Instr), m ≤ 65536 →
      ((∃ imm : BitVec 48, i = .repeatN g imm ∧ m = imm.toNat ∧ w = v) ∨
        (∃ (a : BitVec 6) (x : Word64), i = .repeatS g a ∧ ReadsS v a x w ∧ m = x.toNat ∧ (w.cons w.curCons).trapT = none)) →
      exec i s = .next (issued 1 (if m = 0 then
        .skip (if opHasLit (opcodeOf (w.mem.iword ((w.seq w.cur.1 w.cur.2).at_.pc + 3))) then 2 else 1) else .times m) w))
/-! ## Synchronisation -/

/-- SIGNAL and WAIT (R179, R427), FENCE (R315, R353), RETIME (R240), MARK (R184, R372) and SSTEP (R185, R396). A WAIT whose token has
too few counts holds with cause bit 0. -/
def Obligations.SynchronisationWords : Prop :=
  ∀ (g : Guard) (s v : State), Issuing g s v →
    (∀ a imm, (v.core imm.toNat).part = (v.core v.cur.1).part →
      exec (.signalT g a imm) s = .next (issued 1 .fall (flying v 4 (.signal imm.toNat (a.setWidth 5))))) ∧
    (∀ d a x w, ReadsS v d x w → x.toNat < 160 → (w.core x.toNat).part = (w.core w.cur.1).part →
      exec (.signalS g d a) s = .next (issued 1 .fall (flying w 4 (.signal x.toNat (a.setWidth 5))))) ∧
    (∀ (i : Instr) (a : BitVec 6) (imm : BitVec 48) (t : BitVec 5) (n : Nat), t = a.setWidth 5 →
      i = .waitT g a ∧ n = 1 ∨ i = .waitN g a imm ∧ n = imm.toNat →
      let req := (v.seq v.cur.1 v.cur.2).at_.req
      (n ≤ tokenLeft v v.cur.1 t → req = none → exec i s = .next (issued 1 .fall (flying v 1 (.tokDec t n)))) ∧
      (n ≤ tokenLeft v v.cur.1 t → req ≠ none → exec i s = .next (issued 1 .fall (v.setCore v.cur.1 { v.core v.cur.1 with
        tok := Tbl.set (v.core v.cur.1).tok t.toNat (BitVec.ofNat 16 (((v.core v.cur.1).token t).toNat - n)) }))) ∧
      (tokenLeft v v.cur.1 t < n →
        exec i s = .next (beginHold s s.curCons (causeBit 0) (if req.isSome then none else some .token)))) ∧
    (∀ (d : BitVec 6) (imm : BitVec 48) (e : Effect) (w : State), TakesS v d 0 e w →
      let u := awaiting w (2 * v.dC v.cur.1 + 4) 2 e
      exec (.fenceS g d imm) s = .next (issued 1 .fall (u.setCore u.cur.1 { u.core u.cur.1 with
        gates := (u.core u.cur.1).gates ++ [⟨w.nextId, some (imm.setWidth 3)⟩] }))) ∧
    (∀ (a : BitVec 6) (imm : BitVec 48) (x : Word64) (w : State), (v.cons v.curCons).trapT = none → ReadsS v a x w →
      let c := w.cons w.curCons
      let n := lastNotice w w.ptc c.dies
      exec (.retimeAt g a imm) s = .next (issued 1 .fall (if c.next.isSome then w else w.setCons w.curCons { c with
        next := some (.retime ⟨x.toNat, imm.toNat, n.2, n.1, w.cur.1, w.cur.2, BitVec.ofNat 25 (w.seq w.cur.1 w.cur.2).at_.pc⟩) }))) ∧
    (∀ (a : BitVec 6) (imm : BitVec 48) (qs : List Nat), qs = (List.range 8).filter (fun q => (imm.setWidth 8).getLsbD q) →
      (∀ q ∈ qs, (v.core v.cur.1).room q = true) → (0 ∈ qs ∨ 6 ∈ qs → NoHandler v) →
      (0 ∈ qs → v.cur.2 = .xs → (v.core v.cur.1).attn.entry = none) →
      let r := marking v.nextId qs { v with nextId := v.nextId + 1 }
      exec (.markQ g a imm) s = .next (issued 1 .fall (r.2.setCore r.2.cur.1 { r.2.core r.2.cur.1 with
        marks := (r.2.core r.2.cur.1).marks ++ [⟨v.nextId, a.setWidth 5, r.1, none⟩] }))) ∧
    (∀ (a : BitVec 6) (imm : BitVec 48) (x : Word64) (w : State), ReadsS v a x w → w.ptc < x.toNat + imm.toNat →
      (∀ p, (w.core w.cur.1).sstep = some p → p.drain ≤ w.ptc) →
      exec (.sstepS g a imm) s = .next (issued 1 .fall (w.setCore w.cur.1 { w.core w.cur.1 with
        sstep := some ⟨max x.toNat w.ptc, x.toNat + imm.toNat, x.toNat + imm.toNat + 2 * w.dMax + 8⟩ })))

/-! ## Porter cells -/

/-- The words of one operand and one result, with what the porter does: PAMO (R171, R174) and WAITV (R176, R333). -/
noncomputable def Sys2Proof.Claims.porterTable :
    List ((Guard → BitVec 5 → BitVec 6 → BitVec 6 → BitVec 3 → BitVec 2 → BitVec 32 → Instr) × CellOp) :=
  [ (.pamoAdd, .add), (.pamoMin, .min), (.pamoMax, .max), (.pamoSwap, .swap), (.pamoEnq, .enq),
    (.waitvEq, .waitv 0 false), (.waitvNe, .waitv 1 false), (.waitvGe, .waitv 2 false), (.waitvLt, .waitv 3 false),
    (.waitvAny, .waitv 4 false), (.waitvNone, .waitv 5 false) ]

/-- The words of one operand and no result: PAMO.RED, PST and BCNT (R171, R178). -/
noncomputable def Sys2Proof.Claims.porterTable0 : List ((Guard → BitVec 5 → BitVec 6 → BitVec 3 → BitVec 2 → BitVec 32 → Instr) × CellOp) :=
  [ (.pamoRedAdd, .redAdd), (.pamoRedMin, .redMin), (.pamoRedMax, .redMax), (.pstC, .st), (.bcntP, .bcnt) ]

/-- The words at porters: what each enters, and the results it awaits at issue + 2dc + 12. -/
def Obligations.PorterWords : Prop :=
  ∀ (g : Guard) (s v v1 : State) (h : BitVec 5) (c : Cap) (scope : BitVec 3) (order : BitVec 2) (cell : BitVec 32) (n : Nat),
    Issuing g s v → ReadsH v h c v1 →
    let await1 := fun (w w' : State) (e : Effect) => awaiting w' (2 * w.dP n + 12) 2 e
    (∀ row ∈ porterTable, ∀ a b x e w w', ReadsS v1 b x w → CellOk w c cell false n → TakesS w a 0 e w' →
      RoomIn (await1 w w' e) qPorter →
      exec (row.1 g h a b scope order cell) s =
        .next (issued 1 .fall (operating (await1 w w' e) h c c n order row.2 0 x 0 0 0 [w'.nextId]))) ∧
    (∀ row ∈ porterTable0, ∀ b x w, ReadsS v1 b x w → CellOk w c cell row.2.wide n → RoomIn w qPorter →
      exec (row.1 g h b scope order cell) s = .next (issued 1 .fall (operating w h c c n order row.2 0 x 0 0 0 []))) ∧
    (∀ a e w', CellOk v1 c cell false n → TakesS v1 a 0 e w' → RoomIn (await1 v1 w' e) qPorter →
      exec (.pldC g h a scope order cell) s =
        .next (issued 1 .fall (operating (await1 v1 w' e) h c c n order .ld 0 0 0 0 0 [w'.nextId])) ∧
      ∀ links, exec (.pamoChase g h a scope order links cell) s =
        .next (issued 1 .fall (operating (await1 v1 w' e) h c c n order .chase links.toNat 0 0 0 0 [w'.nextId]))) ∧
    (∀ a b b' x y e w1 w w', ReadsS v1 b x w1 → ReadsS w1 b' y w → CellOk w c cell false n → TakesS w a 0 e w' →
      RoomIn (await1 w w' e) qPorter →
      exec (.pamoCas g h a b b' scope order cell) s =
        .next (issued 1 .fall (operating (await1 w w' e) h c c n order .cas 0 x 0 y 0 [w'.nextId]))) ∧
    (∀ a b b' x x2 y y2 e e2 w1 w2 w3 w w' w'', ReadsS v1 b x w1 → ReadsS w1 (b + 1) x2 w2 → ReadsS w2 b' y w3 →
      ReadsS w3 (b' + 1) y2 w → CellOk w c cell true n → TakesS w a 0 e w' → TakesS (await1 w w' e) (a + 1) 0 e2 w'' →
      RoomIn (await1 w w'' e2) qPorter →
      exec (.pamoCas2 g h a b b' scope order cell) s =
        .next (issued 1 .fall (operating (await1 w w'' e2) h c c n order .cas2 0 x x2 y y2 [w'.nextId, w''.nextId]))) ∧
    (∀ hc e w w', ReadsH v1 31 hc w → CellOk w c cell true n → (hc.tag = true → (hc.isNull = true ∨ hc.has pL = true) ∧ NearOk w hc) →
      TakesH w 31 nullCap e w' → RoomIn (await1 w w' e) qPorter →
      exec (.pamoHxch g h scope order cell) s =
        .next (issued 1 .fall (operating (await1 w w' e) h c hc n order .hxch 0 0 0 0 0 [w'.nextId])))

/-- What an operation on one cell leaves in it (R171, R174). -/
def Sys2Proof.Claims.cellNew (op : CellOp) (old x y : Word64) : Word64 :=
  match op with
  | .add | .redAdd => old + x
  | .min | .redMin => if old.toInt ≤ x.toInt then old else x
  | .max | .redMax => if old.toInt ≤ x.toInt then x else old
  | .swap | .st => x
  | .cas => if old = x then y else old
  | _ => old

/-- A porter takes an operation (R170, R173): its die is up, the cells are the partition's, none of them is poisoned. -/
def Sys2Proof.Claims.Takes (s : State) (p : BitVec 10) (r : PorterReq) (arrival : Bool) : Prop :=
  s.porterHead p.toNat arrival = some r ∧ (s.die (dieOfPorter (porterOf r.cell))).state ≠ .reset ∧
    porterRefuses (takeRequest s r) r = none ∧ s.cellPoisoned r.cell = false

/-- What porters do with the cells (R171, R174, R175, R178): the new value, every byte outside the cells as it was. -/
def Obligations.PorterOperations : Prop :=
  ∀ (s : State) (p : BitVec 10) (r : PorterReq), Takes s p r false →
    let apart := fun (t : State) (n k : Nat) => ∀ a, ¬ (cellAt n ≤ a ∧ a < cellAt n + k) → t.mem.byte a = s.mem.byte a
    (r.op ∈ [CellOp.add, .min, .max, .swap, .cas, .redAdd, .redMin, .redMax, .st] → ∃ t, exec (.porterOperation p) s = .next t ∧
      t.cell r.cell = cellNew r.op (s.cell r.cell) r.v r.w ∧ apart t r.cell 8) ∧
    ((r.op ∈ [CellOp.ld, .chase] ∨ ∃ c b, r.op = .waitv c b) →
      ∃ t, exec (.porterOperation p) s = .next t ∧ t.mem = s.mem) ∧
    (r.op = .cas2 → ∃ t, exec (.porterOperation p) s = .next t ∧
      (if s.cell r.cell = r.v ∧ s.cell (r.cell + 1) = r.v2 then
        t.cell r.cell = r.w ∧ t.cell (r.cell + 1) = r.w2 ∧ apart t r.cell 16 else t.mem = s.mem)) ∧
    (r.op = .hxch → ∃ t, exec (.porterOperation p) s = .next t ∧ t.mem.readCap (cellAt r.cell) = r.cap ∧ apart t r.cell 16) ∧
    (r.op = .enq → ∃ t, exec (.porterOperation p) s = .next t ∧ t.cell r.cell = r.v) ∧
    (r.op = .bcnt → ∃ t, exec (.porterOperation p) s = .next t ∧ t.barrier r.cell = (s.barrier r.cell).post r.v ∧ apart t r.cell 16)

/-- Arrivals at barriers (R178) and polls (R176). -/
def Obligations.BarrierArrivalsAndPolls : Prop :=
  (∀ (s : State) (p : BitVec 10) (r : PorterReq), Takes s p r true → ∃ t, exec (.barrierArrival p) s = .next t ∧
    t.barrier r.cell = (s.barrier r.cell).arrive (r.arrival.getD 0) ∧
    ∀ a, ¬ (cellAt r.cell ≤ a ∧ a < cellAt r.cell + 16) → t.mem.byte a = s.mem.byte a) ∧
  (∀ (s : State) (core : Nat) (r : PorterReq) (t0 delay : Nat),
    (s.core core).polls.find? (fun p => decide (p.2.1 ≤ s.clk)) = some (r, t0, delay) →
    ∃ t, exec (.waitvPoll core) s = .next t ∧ t.mem = s.mem ∧
      (r.holds (s.cell r.cell) = false → (t.core core).polls =
        ((s.core core).polls.filter fun p => p.1.id != r.id) ++ [(r, s.clk + delay, min (2 * delay) 65536)]))

/-! ## Capabilities and handles -/

/-- CAPGET's fields of a capability (R268, R342), with the kinds it accepts. -/
def Sys2Proof.Claims.capgetTable : List ((Guard → BitVec 5 → BitVec 6 → Instr) × List (BitVec 4) × (Cap → Word64)) :=
  [ (.capgetA, [kPointer, kTile, kBlank, kNull], fun c => c.bits.extractLsb' 0 64),
    (.capgetHi, [kPointer, kTile, kBlank, kNull], fun c => c.bits.extractLsb' 64 64),
    (.capgetBase, [kPointer], fun c => BitVec.ofNat 64 c.bounds.1),
    (.capgetLen, [kPointer], fun c => BitVec.ofNat 64 (min (c.bounds.2 - c.bounds.1) (2 ^ 64 - 1))) ]

/-- CAPSET, CAPPERM, CAPOFF, CAPGET and CAPTEST (R201, R268, R314, R342-R344): the capability or the word that goes to the
destination. -/
def Obligations.CapabilityWords : Prop :=
  ∀ (g : Guard) (s v : State) (hd ha : BitVec 5) (sr : BitVec 6), Issuing g s v →
    let part := ((v.core v.cur.1).part).getD 0
    (∀ (exact : Bool) (c r : Cap) (n : Word64) (e : Effect) (v1 v2 w : State), ReadsH v ha c v1 → CapOk v1 c [kPointer] →
      ReadsS v1 sr n v2 → capset c n exact = some r → TakesH v2 hd r e w →
      exec (if exact then .capsetE g hd ha sr else .capsetB g hd ha sr) s = .next (issued 1 .fall (flying w 1 e))) ∧
    (∀ (imm : BitVec 32) (c : Cap) (e : Effect) (v1 w : State), ReadsH v ha c v1 →
      CapOk v1 c [kPointer, kTile, kBlank, kNull] → NearOk v1 c →
      TakesH (if c.counted && ha != hd then nulling v1 ha else v1) hd (c.restrict (imm.setWidth 8)) e w →
      exec (.cappermAnd g hd ha imm) s = .next (issued 1 .fall (flying w 1 e))) ∧
    (∀ (c : Cap) (x : Word64) (v1 v2 : State), ReadsH v ha c v1 → CapOk v1 c [kPointer] → ReadsS v1 sr x v2 →
      (∀ e w, TakesH v2 hd (c.setCursor (c.addr + x)) e w →
        exec (.capoffAdd g hd ha sr) s = .next (issued 1 .fall (flying w 1 e))) ∧
      (∀ e w, TakesH v2 hd (c.setCursor x) e w → exec (.capoffSet g hd ha sr) s = .next (issued 1 .fall (flying w 1 e)))) ∧
    (∀ row ∈ capgetTable, ∀ (c : Cap) (e : Effect) (v1 w : State), ReadsH v ha c v1 → CapOk v1 c row.2.1 → NearOk v1 c →
      TakesS v1 sr (row.2.2 c) e w → exec (row.1 g ha sr) s = .next (issued 1 .fall (givingUp (flying w 1 e) ha c))) ∧
    (∀ e w, TakesH v hd (pointerCap true 3 0x4D 18 0 0x20000 part 0) e w →
      exec (.capgetCells g hd) s = .next (issued 1 .fall (flying w 1 e))) ∧
    (∀ e w, TakesH v hd (match (v.part part).grant.kv with | some (b, n) => boundedCap 5 0x4B part b n b | none => nullCap) e w →
      exec (.capgetKv g hd) s = .next (issued 1 .fall (flying w 1 e))) ∧
    (∀ (x : Word64) (e : Effect) (v1 w : State), ReadsS v sr x v1 → x.extractLsb' 52 5 = 0 →
      TakesH v1 hd (pointerCap true 6 0x47 35 0 0x20000 (((v1.core v1.cur.1).part).getD 0) x) e w →
      exec (.capgetPeer g hd sr) s = .next (issued 1 .fall (flying w 1 e))) ∧
    (∀ e w, TakesH v hd (if (v.part part).grant.system then pointerCap true 2 0x81 0 0 0 part 0 else nullCap) e w →
      exec (.capgetSys g hd) s = .next (issued 1 .fall (flying w 1 e))) ∧
    (∀ (c : Cap) (v1 : State), ReadsH v ha c v1 →
      (∀ e w, TakesS v1 sr (if c.tag then 1 else 0) e w →
        exec (.captestTag g ha sr) s = .next (issued 1 .fall (givingUp (flying w 1 e) ha c))) ∧
      (∀ (imm : BitVec 32) e w, TakesS v1 sr
          (if c.tag = true ∧ c.kind = kPointer ∧ (v1.core v1.cur.1).part = some c.part ∧ c.bounds.1 ≤ c.addr.toNat ∧
              c.addr.toNat + imm.toNat ≤ c.bounds.2 then 1 else 0) e w →
        exec (.captestIn g ha sr imm) s = .next (issued 1 .fall (givingUp (flying w 1 e) ha c))))

/-- CAPSET's bounds (R343) and CAPOFF's cursor (R150): no capability word widens a pointer; CAPPERM keeps only permissions it
had. -/
def Obligations.CapabilitiesNarrow : Prop :=
  (∀ (c r : Cap) (n : Word64) (exact : Bool), c.kind = kPointer → capset c n exact = some r →
    r.tag = true ∧ r.kind = kPointer ∧ r.space = c.space ∧ r.perms = c.perms ∧ r.part = c.part ∧ r.addr = c.addr ∧
    c.bounds.1 ≤ r.bounds.1 ∧ r.bounds.1 ≤ c.addr.toNat ∧ c.addr.toNat + n.toNat ≤ r.bounds.2 ∧ r.bounds.2 ≤ c.bounds.2 ∧
    (exact = true → r.bounds = (c.addr.toNat, c.addr.toNat + n.toNat))) ∧
  (∀ (c : Cap) (a : Word64), (c.setCursor a).addr = a ∧ (c.setCursor a).hi = c.hi ∧
    ((c.setCursor a).tag = true → c.tag = true ∧ (c.setCursor a).bounds = c.bounds)) ∧
  (∀ (c : Cap) (m : BitVec 8), (c.restrict m).perms = c.perms &&& m ∧ (c.restrict m).tag = c.tag ∧ (c.restrict m).addr = c.addr ∧
    (c.restrict m).kind = c.kind ∧ (c.restrict m).space = c.space ∧ (c.restrict m).bits.extractLsb' 64 48 = c.bits.extractLsb' 64 48)

/-- DUP, MERGE, DROP and MOVH (R73-R76, R80): weight is split, joined, sent home or moved. DUP extends a weight that is too small,
once the home has answered (R74). -/
def Obligations.WeightWords : Prop :=
  ∀ (g : Guard) (s v : State) (hd ha hb : BitVec 5), Issuing g s v →
    (∀ (imm : BitVec 32) (c d : Cap) (n k : Nat) (e : Effect) (v1 v2 w : State), n = (imm.setWidth 20).toNat → ReadsH v ha c v1 →
      CapOk v1 c [kTile] → c.has pD = true →
      (c.weight ≠ 1 ∧ (n = 0 ∨ n < c.weight) ∧ d = c ∧ v2 = v1 ∨
        (c.weight = 1 ∨ n ≠ 0 ∧ c.weight ≤ n) ∧ ∃ id a t xg, (v1.seq v1.cur.1 v1.cur.2).at_.req = some id ∧
          v1.stores.answers.find? (fun a => a.1 == id) = some (a, t, .extended xg) ∧ t ≤ v1.clk ∧
          d = c.withWeight (c.weight + 2 ^ 20) xg ∧
          v2 = { v1 with stores := { v1.stores with answers := v1.stores.answers.filter fun a => a.1 != id } }) →
      k = (if n = 0 then d.weight / 2 else n) →
      TakesH (flying v2 1 (.setH ha (d.withWeight (d.weight - k) d.xg))) hd (d.withWeight k d.xg) e w →
      exec (.dupN g hd ha imm) s = .next (issued 1 .fall (flying w 1 e))) ∧
    (∀ (c : Cap) (v1 : State), ReadsH v ha c v1 → CapOk v1 c [kPointer, kTile, kBlank, kNull] →
      let u := nulling v1 ha
      exec (.dropW g ha) s = .next (issued 1 .fall (u.dropWeight u.cur.1 c)) ∧
      (∀ e w, TakesH (if c.counted && ha != hd then u else v1) hd c e w →
        exec (.movhM g hd ha) s = .next (issued 1 .fall (flying w 1 e))) ∧
      (∀ (sr : BitVec 6) e w, c.kind = kBlank → TakesH u hd c e w → exec (.dropB g hd ha sr) s = .next (issued 1 .fall
        (flying (flying w 1 e) 1 (if sr.setWidth 4 = (0 : BitVec 4) then .mark else .setP (sr.setWidth 4) true)))) ∧
      (∀ (sr : BitVec 6) e w, c.kind = kTile → c.weight = 2 ^ 20 → c.xg = 0 → TakesH u hd c.asBlank e w →
        let t := flying (flying w 1 e) 1 (if sr.setWidth 4 = (0 : BitVec 4) then .mark else .setP (sr.setWidth 4) true)
        exec (.dropB g hd ha sr) s = .next (issued 1 .fall (t.sendBlank t.cur.1 c))) ∧
      (∀ (sr : BitVec 6) e w, c.kind ≠ kBlank → ¬ (c.kind = kTile ∧ c.weight = 2 ^ 20 ∧ c.xg = 0) →
        TakesH (u.dropWeight u.cur.1 c) hd nullCap e w → exec (.dropB g hd ha sr) s = .next (issued 1 .fall
          (flying (flying w 1 e) 1 (if sr.setWidth 4 = (0 : BitVec 4) then .mark else .setP (sr.setWidth 4) false))))) ∧
    (∀ (a b : Cap) (e : Effect) (v1 v2 w : State), ReadsH v ha a v1 → ReadsH v1 hb b v2 → CapOk v2 a [kTile] → CapOk v2 b [kTile] →
      a.space = b.space → a.addr = b.addr → a.part = b.part →
      TakesH (nulling (nulling v2 ha) hb) hd (a.withWeight (a.weight + b.weight) (max a.xg b.xg)) e w →
      exec (.mergeW g hd ha hb) s = .next (issued 1 .fall (flying w 1 e)))

/-- ISUNQ (R78, R358), ALLOC (R79), UPD (R81) and SEAL (R82, R391): what goes to the destination, and the message to the home. -/
def Obligations.StorageWords : Prop :=
  ∀ (g : Guard) (s v : State) (hd ha : BitVec 5) (sr : BitVec 6), Issuing g s v →
    let unique := fun c : Cap => c.weight = 2 ^ 20 ∧ c.xg = 0
    let query := fun (c : Cap) (id : Nat) (w : State) =>
      let item : OutItem :=
        { id := id, peer := c.addr.toNat / 2 ^ 58, seq := none, item := .inr (.query c.part (c.addr.toNat % 2 ^ 52) id)
          cap := nullCap, core := w.cur.1, rot := w.tt.rot }
      item
    let ask := fun (c : Cap) (id : Nat) (w : State) => if w.remoteHome c then
        { w with tt := { w.tt with
            items := w.tt.items ++ [query c id w]
            queries := w.tt.queries ++ [(id, c.addr.toNat / 2 ^ 58)] } }
      else w.homeMsg w.cur.1 c.key (.query c.weight) id
    (∀ (c : Cap) (v1 : State), ReadsH v ha c v1 → CapOk v1 c [kTile] →
      (∀ e w, TakesS v1 sr (if unique c then 1 else 0) e w →
        exec (.isunqL g ha sr) s = .next (issued 1 .fall (givingUp (flying w 1 e) ha c)) ∧
        (unique c → exec (.isunqX g ha sr) s = .next (issued 1 .fall (givingUp (flying w 1 e) ha c)))) ∧
      (∀ e w, ¬ unique c → TakesS v1 sr (BitVec.ofNat 64 c.weight) e w →
        exec (.isunqX g ha sr) s = .next (issued 1 .fall (givingUp (ask c w.nextId
          (awaiting w (if v1.remoteHome c then 572 else 2 * v1.dH v1.cur.1 c + 8) (if v1.remoteHome c then 3 else 2) e)) ha c)))) ∧
    (∀ (imm : BitVec 32) (e : Effect) (w : State), TakesH v hd nullCap e w →
      let part := ((w.core w.cur.1).part).getD 0
      let asks := fun (lead cls place : Nat) => (awaiting w (2 * lead) 2 e).sendHome w.cur.1 (listKey w.cur.1 place part)
        (.alloc cls place lead) w.nextId
      exec (.allocT g hd imm) s = .next (issued 1 .fall (asks 2 imm.toNat w.cur.1)) ∧
      exec (.allocM g hd imm) s = .next (issued 1 .fall
        (asks 6 (imm.setWidth 4).toNat (stackPlace w.cur.1 (imm.toNat / 256))))) ∧
    (∀ (m : Bool) (c : Cap) (v1 u : State), ReadsH v ha c v1 → CapOk v1 c [kTile] → c.space.toNat ∈ [0, 1] →
      u = (if ha = 31 then (nulling v1 ha).setCore v1.cur.1
        { (nulling v1 ha).core v1.cur.1 with hqHeld := ((nulling v1 ha).core v1.cur.1).hqHeld + 1 } else nulling v1 ha) →
      let i := if m then Instr.updM g hd ha else Instr.updT g hd ha
      (∀ e w, unique c → TakesH u hd c.asBlank e w →
        let t := if ha = 31 then flying (flying w 1 e) 1 .releasePlace else flying w 1 e
        exec i s = .next (issued 1 .fall (t.sendBlank t.cur.1 c))) ∧
      (∀ e w, ¬ unique c → TakesH u hd nullCap e w →
        let t : State := ask c w.nextId (awaiting w (2 * (nulling v1 ha).dH (nulling v1 ha).cur.1 c + 8) 2 e)
        exec i s = .next (issued 1 .fall ({ t with nextId := t.nextId + 1 }.setCore t.cur.1 { t.core t.cur.1 with
          upds := (t.core t.cur.1).upds ++ [(⟨w.nextId, c, ha, m, w.nextId, none, t.nextId⟩ : Upd)]
          kept := (t.core t.cur.1).kept ++ [(⟨t.nextId, c.key, .later, [w.nextId]⟩ : Kept)] })))) ∧
    (∀ (imm : BitVec 32) (c : Cap) (rows cols fmt : Nat) (e : Effect) (v1 w : State), ReadsH v ha c v1 →
      rows = (imm.extractLsb' 24 8).toNat + 1 → cols = (imm.extractLsb' 16 8).toNat + 1 → fmt = (imm.extractLsb' 12 4).toNat →
      CapOk v1 c [kBlank] → c.has pS = true → c.space.toNat ∈ [0, 1] →
      tileBytes rows cols fmt ≤ classSize (v1.dirEntry c.key).cls → (fmt = 6 → rows % 64 = 0) →
      v1.writesOut v1.cur.1 c.key = false →
      TakesH (if ha = hd then v1 else nulling v1 ha) hd (c.withKind kTile (c.perms &&& 0xED) (2 ^ 20) 0) e w →
      exec (.sealT g hd ha imm) s = .next (issued 1 .fall
        ({ flying w 1 e with nextId := w.nextId + 2 }.homeMsg w.cur.1 c.key (.seal rows cols fmt) (w.nextId + 1))))

/-! ## Tensor words -/

/-- GSET (R354, R355), CLAIM and RELEASE (R152, R347, R384), TLD (R269, R404) and GATHER and APPEND (R257, R332). -/
def Obligations.SlotAndGeometryWords : Prop :=
  ∀ (g : Guard) (s v : State), Issuing g s v →
    (∀ (gr : BitVec 5) (lit : Word96) (o : Overlay), v.activeOverlay = some o → o.geomLo ≤ lit.toNat % 2 ^ 48 →
      lit.toNat % 2 ^ 48 < o.geomHi →
      exec (.gsetL g gr lit) s = .next (issued 2 .fall (readingHbm v 96 (.geom (lit.toNat % 2 ^ 48)) (.setG gr Geom.reset)))) ∧
    (∀ (ha gr : BitVec 5) (lit : Word96) (c : Cap) (a : Word64) (v1 : State), ReadsH v ha c v1 →
      UseOk v1 c [kPointer] pR [0, 5] → a = c.addr + (lit.setWidth 48).signExtend 64 → c.bounds.1 ≤ a.toNat →
      a.toNat + 96 ≤ c.bounds.2 →
      exec (.gsetR g ha gr lit) s = .next (issued 2 .fall (readingHbm v1 96 (.geom a.toNat) (.setG gr Geom.reset)))) ∧
    (∀ (hd : BitVec 5), ((v.core v.cur.1).slot (hd.setWidth 4)).state = .free →
      exec (.claimS g hd) s = .next (issued 1 .fall (flying v 1 (.slot (hd.setWidth 4) .claimedEmpty)))) ∧
    (∀ (hd : BitVec 5), ((v.core v.cur.1).slot (hd.setWidth 4)).state ≠ .free → v.slotBusy v.cur.1 (hd.setWidth 4) = false →
      (v.core v.cur.1).fedAfter (hd.setWidth 4) v.ttc = false →
      exec (.releaseS g hd) s = .next (issued 1 .fall (flying v 1 (.slot (hd.setWidth 4) .free)))) ∧
    (∀ (hd ha : BitVec 5) (stamp : BitVec 20) (c : Cap) (v1 : State), ReadsH v ha c v1 →
      let n := hd.setWidth 4
      let e := v1.tileEntry c.key
      UseOk v1 c [kTile] pR [0, 1] → SlotOk v1 n true → tileBytes e.rows e.cols e.fmt ≤ slotSize v1.cur.1 →
      RoomIn (stamping v1 stamp (.slot n .claimedFilled)).2 qCopy →
      exec (.tldW g hd ha stamp) s = .next (issued 1 .fall (copying v1 stamp (.slot n .claimedFilled)
        (.tldTile n c (tileBytes e.rows e.cols e.fmt) e.rows e.cols e.fmt) [c] [] (pops1 ha c) none 0))) ∧
    (∀ (hd ha gr : BitVec 5) (f : BitVec 4) (cnt : BitVec 3) (post clip perm : BitVec 1) (stamp imm : BitVec 20) (rows cols : Nat)
        (c : Cap) (r : Region) (v1 : State), ReadsH v ha c v1 →
      rows = (imm.extractLsb' 12 8).toNat + 1 → cols = (imm.extractLsb' 4 8).toNat + 1 →
      r = (v1.core v1.cur.1).region c gr f cnt rows cols clip perm →
      let n := hd.setWidth 4
      UseOk v1 c [kPointer, kTile] pR [0, 1] → RegionOk v1 r → SlotOk v1 n true → rows * cols * r.width ≤ slotSize v1.cur.1 →
      RoomIn (stamping v1 stamp (.slot n .claimedFilled)).2 qCopy →
      exec (.tldR g hd ha gr f cnt post clip perm stamp imm) s = .next (issued 1 .fall (stepping (copying v1 stamp
        (.slot n .claimedFilled) (.tldRegion n r) [c] [] (pops1 ha c) none 0) post f cols))) ∧
    (∀ (values : Bool) (hd ha : BitVec 5) (sr : BitVec 6) (stamp : BitVec 20) (c : Cap) (x : Word64) (v1 v2 : State), ReadsH v ha c v1 →
      ReadsS v1 sr x v2 →
      let n := hd.setWidth 4
      UseOk v2 c [kPointer] pR [5] → CursorOk c 64 → SlotOk v2 n false → RoomIn (stamping v2 stamp (.slot n .claimedFilled)).2 qCopy →
      exec (if values then .gatherV g hd ha sr stamp else .gatherK g hd ha sr stamp) s =
        .next (issued 1 .fall (copying v2 stamp (.slot n .claimedFilled)
          (.gather n c (x.toNat / 2 ^ 24) (x.toNat % 2 ^ 24) values) [c] [] (pops1 ha c) none 0))) ∧
    (∀ (hd ha : BitVec 5) (sr : BitVec 6) (t c : Cap) (x : Word64) (v1 v2 v3 : State), ReadsH v hd t v1 → ReadsH v1 ha c v2 →
      ReadsS v2 sr x v3 → UseOk v3 t [kTile] pR [0, 1] → UseOk v3 c [kPointer] pW [5] → CursorOk c 64 → RoomIn v3 qCopy →
      exec (.appendKv g hd ha sr) s = .next (issued 1 .fall (entering v3 qCopy
        (newEntry v3 (.append t c x) [t] [] (pops1 hd t ++ pops1 ha c) none 0 none []))))

/-- TCOPY (R201, R401, R402): the destination and the source are read in that order, the barrier last. -/
def Obligations.CopyWords : Prop :=
  ∀ (g : Guard) (s v v1 v2 v3 : State) (hd ha gr : BitVec 5) (sr : BitVec 6) (stamp imm : BitVec 20) (d c : Cap) (b : Option Nat),
    Issuing g s v → ReadsH v hd d v1 → ReadsH v1 ha c v2 → BarrierAt v2 sr b v3 → RoomIn (stamping v3 stamp .mark).2 qCopy →
    let e := v2.tileEntry c.key
    let room := classSize (v2.dirEntry d.key).cls
    let copy := fun op bytes => copying v3 stamp .mark op [c] [d] (pops1 hd d ++ pops1 ha c) b bytes
    let blank := UseOk v2 d [kBlank] pW [0, 1]
    let tile := UseOk v2 c [kTile] pR [0, 1]
    let host := 256 * ((imm.extractLsb' 10 10).toNat + 1)
    (tile → blank → tileBytes e.rows e.cols e.fmt ≤ room →
      exec (.tcopyW g hd ha sr stamp) s = .next (issued 1 .fall
        (copy (.copyTile c d (tileBytes e.rows e.cols e.fmt)) (tileBytes e.rows e.cols e.fmt)))) ∧
    (∀ (f : BitVec 4) (cnt : BitVec 3) (post clip perm : BitVec 1) (rows cols : Nat) (r : Region),
      rows = (imm.extractLsb' 12 8).toNat + 1 → cols = (imm.extractLsb' 4 8).toNat + 1 →
      r = (v2.core v2.cur.1).region c gr f cnt rows cols clip perm →
      UseOk v2 c [kPointer, kTile] pR [0, 1] → blank → RegionOk v2 r → rows * cols * r.width ≤ room →
      exec (.tcopyR g hd ha gr f cnt sr post clip perm stamp imm) s = .next (issued 1 .fall
        (stepping (copy (.copyRegion r d) (rows * cols * r.width)) post f cols))) ∧
    (∀ (f : BitVec 4) (cnt : BitVec 3) (post clip perm : BitVec 1) (r : Region),
      r = (v2.core v2.cur.1).region d gr f cnt e.rows e.cols clip perm → tile → blank → e.fmt = r.geom.fmt → RegionOk v2 r →
      exec (.tcopyS g hd ha gr f cnt sr post clip perm stamp) s = .next (issued 1 .fall
        (stepping (copy (.copyInto c r) (e.rows * e.cols * r.width)) post f e.cols))) ∧
    (blank → UseOk v2 c [kPointer] pR [7] → CursorOk c host → host ≤ room →
      exec (.tcopyHi g hd ha sr stamp imm) s = .next (issued 1 .fall (copy (.hostIn c d host) host))) ∧
    (tile → UseOk v2 d [kPointer] pW [7] → CursorOk d host → host ≤ tileBytes e.rows e.cols e.fmt →
      exec (.tcopyHo g hd ha sr stamp imm) s = .next (issued 1 .fall (copy (.hostOut c d host) host)))

/-! ## Matrix words -/

/-- MMA, MDRAIN, MZERO and MACC (R97, R98, R310, R311, R370): the command enters the matrix queue, MDRAIN's rows go in flight. -/
def Sys2Proof.Claims.MatrixWords : Prop :=
  ∀ (g : Guard) (s v : State), Issuing g s v →
    (∀ (stamp : BitVec 20) (sa sb : BitVec 4) (col : BitVec 10) (k : BitVec 8) (acc ta pre : BitVec 1) (f : Word64) (w : State),
      (popQ 7 0x03).run v = .ok (some f, w) → formatWordOk (isAttention w.cur.1) f = true → MatrixOpen w →
      exec (.mmaT g stamp sa sb col k acc ta pre) s = .next (issued 1 .fall (multiplying w stamp.toNat
        (.mma sa sb col.toNat (k.toNat + 1) (acc == 1) (ta == 1) (pre == 1) f)))) ∧
    (∀ (stamp : BitVec 20) (rm : BitVec 3) (hb : BitVec 5) (col : BitVec 10) (k : BitVec 8) (sr : BitVec 6) (c : Cap) (p : Word64)
        (v1 w : State) (r q n fmt base : Nat) (d : Drain), ReadsH v hb c v1 → ReadsS v1 sr p w →
      n = k.toNat + 1 → r = p.toNat % 256 + 1 → q = p.toNat / 256 % 256 → fmt = p.toNat / 65536 % 16 → p.toNat < 2 ^ 21 →
      fmt ≠ 6 → fmt ≤ 7 → UseOk w c [kBlank] pW [1] → q + r ≤ arraySide w.cur.1 → col.toNat + n ≤ columnCount w.cur.1 →
      (w.core w.cur.1).parkedIn col.toNat n = false → tileBytes r n fmt ≤ classSize (w.dirEntry c.key).cls →
      (c.counted = true → (w.core w.cur.1).borrowed c.key = false) →
      tileRange c.addr.toNat (tileBytes r n fmt) = some (w.cur.1, base) → MatrixOpen w →
      d = { cmd := w.nextId, cap := c, base := base, col := col.toNat, n := n, r := r, q := q, fmt := fmt, rm := rm, sat := p.getLsbD 20 } →
      exec (.mdrainT g stamp rm hb col k sr) s =
        .next (issued 1 .fall (droppingPopped (draining d r (multiplying w 6 (.mdrain d))) hb c (5 + r)))) ∧
    (∀ (stamp : BitVec 20) (col : BitVec 10) (k : BitVec 8), MatrixOpen v →
      exec (.mzeroT g stamp col k) s =
        .next (issued 1 .fall (multiplying v stamp.toNat (.mzero col.toNat (k.toNat + 1))))) ∧
    (∀ (stamp : BitVec 20) (row : BitVec 8) (col : BitVec 10) (k : BitVec 8) (acc int : BitVec 1) (sr : BitVec 6), MatrixOpen v →
      exec (.maccR g stamp row col k acc int sr) s =
        .next (issued 1 .fall (multiplying v stamp.toNat (.macc row.toNat col.toNat (k.toNat + 1) (acc == 1) (int == 1) sr))))

/-- What matrix commands write (R130, R310, R370): row i of an MMA fills columns col to col + n − 1 of accumulator row i, MZERO clears
its columns, MACC updates its row; no other accumulator element changes. -/
def Sys2Proof.Claims.MatrixRowsPerform : Prop :=
  ∀ (k : Core) (core : Nat) (c : MatCmd) (i : Nat),
    (∀ sa sb col ks acc ta pre fw, c.op = .mma sa sb col ks acc ta pre fw → col + c.n ≤ 1024 →
      let row := mmaRow core fw c ks ta i (if acc then k.accRow i col c.n else List.replicate c.n 0#32)
      ∀ r x, x < 1024 → (matRow k core c i).accAt r x = if r = i ∧ col ≤ x ∧ x < col + c.n then row.getD (x - col) 0 else k.accAt r x) ∧
    (∀ col n, c.op = .mzero col n →
      ∀ r x, x < 1024 → (matRow k core c i).accAt r x = if col ≤ x ∧ x < col + n then 0 else k.accAt r x) ∧
    (∀ row col n acc int vs, c.op = .macc row col n acc int vs → col + n ≤ 1024 →
      let x' := fun x => maccElement acc int (k.accAt row x) (BitVec.ofNat 32 (elemAt c.a 4 (x - col)))
      ∀ r x, x < 1024 → (matRow k core c i).accAt r x = if r = row ∧ col ≤ x ∧ x < col + n then x' x else k.accAt r x)

/-- The words of the matrix unit and the rows it then works off. -/
def Obligations.MatrixUnit : Prop := MatrixWords ∧ MatrixRowsPerform
/-! ## Vector words -/

/-- VALU's two-source forms (R410): the result of two elements, by lane type, rounding mode and saturate bit. -/
def Sys2Proof.Claims.valuTable : List ((Guard → BitVec 6 → BitVec 6 → BitVec 6 → BitVec 4 → BitVec 3 → BitVec 1 → BitVec 1 → Instr) ×
    (Nat → Nat → Bool → Nat → Nat → Nat × Bool)) :=
  [ (.valuAdd, fun ty rm sat => arith ty rm sat (XNum.add rm) (fun a b => a + b)),
    (.valuSub, fun ty rm sat => arith ty rm sat (fun a b => XNum.add rm a b.neg) (fun a b => a - b)),
    (.valuMul, fun ty rm sat => arith ty rm sat XNum.mul (fun a b => a * b)),
    (.valuMin, fun ty _ _ => arith ty 0 false XNum.min (fun a b => min a b)),
    (.valuMax, fun ty _ _ => arith ty 0 false XNum.max (fun a b => max a b)),
    (.valuMulh, fun ty _ _ a b => ((elemInt ty a * elemInt ty b / 2 ^ elemBits ty % 2 ^ elemBits ty).toNat, false)),
    (.valuShl, fun ty _ _ a b => (a * 2 ^ (b % elemBits ty) % 2 ^ elemBits ty, false)),
    (.valuShr, fun ty _ _ a b => (a / 2 ^ (b % elemBits ty), false)),
    (.valuSar, fun ty _ _ a b => ((elemInt ty a / 2 ^ (b % elemBits ty) % 2 ^ elemBits ty).toNat, false)),
    (.valuAnd, fun _ _ _ a b => (a &&& b, false)), (.valuOr, fun _ _ _ a b => (a ||| b, false)),
    (.valuXor, fun _ _ _ a b => (a ^^^ b, false)), (.valuAndn, fun _ _ _ a b => (a &&& (2 ^ 32 - 1 - b), false)) ]

/-- VFMA's forms (R414). -/
def Sys2Proof.Claims.vfmaTable :
    List ((Guard → BitVec 6 → BitVec 6 → BitVec 6 → BitVec 6 → BitVec 4 → BitVec 3 → BitVec 1 → BitVec 1 → Instr) ×
      (Nat → XNum → XNum → XNum → XNum)) :=
  [ (.vfmaFma, fun rm a b c => (a.mul b).add rm c), (.vfmaFms, fun rm a b c => (a.mul b).add rm c.neg),
    (.vfmaFnma, fun rm a b c => c.add rm (a.mul b).neg) ]

/-- VCMP's conditions (R412), of the order of two elements where they have one. -/
def Sys2Proof.Claims.vcmpTable : List ((Guard → BitVec 6 → BitVec 6 → BitVec 6 → BitVec 4 → BitVec 1 → Instr) × Cond) :=
  [ (.vcmpEq, .eq), (.vcmpNe, .ne), (.vcmpLt, .lt), (.vcmpGe, .ge) ]

/-- VFUN's functions (R416). -/
def Sys2Proof.Claims.vfunTable : List ((Guard → BitVec 6 → BitVec 6 → BitVec 4 → BitVec 3 → BitVec 1 → BitVec 1 → Instr) × (XNum → XNum)) :=
  [ (.vfunExp, XNum.exp), (.vfunExp2, XNum.exp2), (.vfunLog, XNum.log), (.vfunLog2, XNum.log2), (.vfunRcp, XNum.rcp),
    (.vfunSqrt, XNum.sqrt), (.vfunRsqrt, XNum.rsqrt), (.vfunTanh, XNum.tanh), (.vfunSigm, XNum.sigm) ]

/-- VRED's forms (R424). -/
def Sys2Proof.Claims.vredTable :
    List ((Guard → BitVec 6 → BitVec 6 → BitVec 4 → BitVec 3 → BitVec 1 → BitVec 1 → Instr) × (Nat → Nat → Bool → Red)) :=
  [ (.vredAdd, redAdd), (.vredAnd, fun _ _ _ => redBits (fun a b => a &&& b) (BitVec.allOnes 32)),
    (.vredOr, fun _ _ _ => redBits (fun a b => a ||| b) 0), (.vredXor, fun _ _ _ => redBits (fun a b => a ^^^ b) 0),
    (.vredMin, fun ty _ _ => redMin ty), (.vredMax, fun ty _ _ => redMax ty) ]

/-- VALU, VCMP, VFUN, VFMA and VCVT (R410, R412-R414, R416): element by element. -/
def Sys2Proof.Claims.ElementWords : Prop :=
  ∀ (g : Guard) (s v : State) (vd va vb vc : BitVec 6) (ty : BitVec 4) (rm : BitVec 3) (sat masked : BitVec 1), Issuing g s v →
    let x := fun (r : BitVec 6) (i : Nat) => lane ((v.core v.cur.1).vreg r) i
    let t := ty.toNat
    (∀ row ∈ valuTable, exec (row.1 g vd va vb ty rm sat masked) s = .next (issued 1 .fall
      (lanesOut v vd masked 2 fun i => zipLane t (row.2 t rm.toNat (sat == 1)) (x va i) (x vb i)))) ∧
    exec (.valuAbs g vd va ty rm sat masked) s = .next (issued 1 .fall (lanesOut v vd masked 2 fun i =>
      zipLane t (fun a _ => arith t rm.toNat (sat == 1) (fun y _ => y.abs) (fun y _ => (y.natAbs : Int)) a a) (x va i) (x va i))) ∧
    (∀ row ∈ vcmpTable, exec (row.1 g vd va vb ty masked) s = .next (issued 1 .fall (lanesOut v vd masked 2 fun i =>
      zipLane t (fun a b => (if row.2.ofSign (elemCmp t a b) then 2 ^ elemBits t - 1 else 0, false)) (x va i) (x vb i)))) ∧
    (∀ row ∈ vfunTable, exec (row.1 g vd va ty rm sat masked) s = .next (issued 1 .fall (lanesOut v vd masked 8 fun i =>
      zipLane t (fun a _ => fp32.round rm.toNat (sat == 1) (row.2 (fp32.decode a))) (x va i) (x va i)))) ∧
    (∀ row ∈ vfmaTable, exec (row.1 g vd va vb vc ty rm sat masked) s = .next (issued 1 .fall (lanesOut v vd masked 4 fun i =>
      let fmt := (laneFmt t).getD fp32
      let r := (((elemsOf t (x va i)).zip (elemsOf t (x vb i))).zip (elemsOf t (x vc i))).map fun p =>
        fmt.round rm.toNat (sat == 1) (row.2 rm.toNat (fmt.decode p.1.1) (fmt.decode p.1.2) (fmt.decode p.2))
      (packElems t (r.map Prod.fst), r.any Prod.snd)))) ∧
    (∀ imm : BitVec 8,
      let out := fun i => cvtLane t (imm.toNat % 16) (imm.toNat / 16 % 4) rm.toNat (sat == 1) (x va i)
      let y := ofLanes ((List.range 128).map fun i => (out i).1)
      let bits := cvtBits t (imm.toNat % 16) (imm.toNat / 16 % 4)
      let w := flying v 3 (if bits = BitVec.allOnes 32 then .setV vd (maskFor v masked) y else .setVPart vd (maskFor v masked) bits y)
      exec (.vcvtCvt g vd va ty rm sat masked imm) s = .next (issued 1 .fall
        (if (List.range 128).any fun i => (maskFor v masked).getLsbD i && (out i).2 then flying w 3 .satFlag else w)))

/-- Lanes moved, selected and reduced: VLT3, VFSH, VLROT, VPERM, VBCAST, VSEL, VMOVS (R200, R411, R415, R419, R420, R423, R425), VRED
(R424) and VTOPK (R267, R426). -/
def Sys2Proof.Claims.LaneWords : Prop :=
  ∀ (g : Guard) (s v : State) (vd va vb vc sr : BitVec 6) (ty : BitVec 4) (masked : BitVec 1) (imm : BitVec 8), Issuing g s v →
    let x := fun (r : BitVec 6) (i : Nat) => lane ((v.core v.cur.1).vreg r) i
    let ends := fun (w : State) (lat : Nat) (f : Nat → BitVec 32) =>
      (Host.Outcome.next · : State → Host.Outcome State Fault Refusal) (issued 1 .fall (lanesOut w vd masked lat fun i => (f i, false)))
    exec (.vlt3Lut g vd va vb vc ty masked imm) s = ends v 2 (fun i => lutLane imm (x va i) (x vb i) (x vc i)) ∧
    exec (.vfshL g vd va vb ty masked imm) s = ends v 2 (fun i => ((x va i ++ x vb i) <<< imm.toNat).extractLsb' 32 32) ∧
    exec (.vfshR g vd va vb ty masked imm) s = ends v 2 (fun i => ((x va i ++ x vb i) >>> imm.toNat).extractLsb' 0 32) ∧
    exec (.vlrotRot g vd va ty masked imm) s = ends v 3 (fun i => x va ((i + imm.toNat) % 128)) ∧
    (∀ n w, ReadsS v sr n w → exec (.vlrotRots g vd va ty masked sr) s =
      ends w 3 (fun i => lane ((w.core w.cur.1).vreg va) ((i + n.toNat % 128) % 128))) ∧
    exec (.vpermIdx g vd va vb ty masked) s = ends v 4 (fun i => x va ((x vb i).toNat % 128)) ∧
    exec (.vpermIdx2 g vd va vb vc ty masked) s = ends v 4 (fun i =>
      if (x vb i).toNat % 256 < 128 then x va ((x vb i).toNat % 256) else x vc ((x vb i).toNat % 256 - 128)) ∧
    (∀ y w, ReadsS v sr y w → exec (.vbcastS g vd ty masked sr) s = ends w 2 (fun _ => y.setWidth 32)) ∧
    exec (.vbcastLane g vd va ty masked imm) s = ends v 2 (fun _ => x va imm.toNat) ∧
    exec (.vbcastImm g vd ty masked imm) s = ends v 2 (fun _ => imm.signExtend 32) ∧
    exec (.vselBit g vd va vb vc ty masked) s = ends v 2 (fun i => (x va i &&& x vc i) ||| (x vb i &&& ~~~(x vc i))) ∧
    exec (.vselMask g vd va vb ty) s = .next (issued 1 .fall (lanesOut v vd 0 2 fun i =>
      (if (v.core v.cur.1).top.getLsbD i then x va i else x vb i, false))) ∧
    (∀ e w, TakesS v sr (0#32 ++ x va imm.toNat) e w →
      exec (.vmovsLane g va ty sr imm) s = .next (issued 1 .fall (flying w (2 * v.dC v.cur.1 + 3) e))) ∧
    (∀ e w, TakesS v sr (x va (imm.toNat + 1) ++ x va imm.toNat) e w →
      exec (.vmovsPair g va ty sr imm) s = .next (issued 1 .fall (flying w (2 * v.dC v.cur.1 + 3) e))) ∧
    (∀ row ∈ vredTable, ∀ (rm : BitVec 3) (sat : BitVec 1),
      let r := row.2 ty.toNat rm.toNat (sat == 1)
      exec (row.1 g vd va ty rm sat masked) s = .next (issued 1 .fall (lanesOut v vd 0 6 fun i => if i = 0 then
        redTree r 8 ((List.range 128).map fun j => if (maskFor v masked).getLsbD j then x va j else r.unit) else (0, false)))) ∧
    (∀ n w, ReadsS v vb n w → 1 ≤ n.toNat → n.toNat ≤ 128 → imm.toNat ≤ n.toNat →
      let y := fun i => lane ((w.core w.cur.1).vreg va) i
      let ranks := (ranking (fun i => fp32.decode (y i).toNat) n.toNat).take imm.toNat
      exec (.vtopkVal g vd va vb ty masked imm) s = ends w 12 (fun i => match ranks[i]? with
        | some l => BitVec.ofNat 32 (fp32.round 0 false (fp32.decode (y l).toNat)).1
        | none => 0) ∧
      (∀ o w', ReadsS w sr o w' →
        let at_ := fun i => match ranks[i]? with | some l => (l + o.toNat) % 2 ^ 16 | none => 0
        exec (.vtopkIdx g vd va vb ty masked sr imm) s = ends w' 12 (fun i => BitVec.ofNat 32 (at_ (2 * i) + at_ (2 * i + 1) * 2 ^ 16))))

/-- The mask stack (R373, R374) and parking (R421, R422). A push at depth 8 and a pop at depth 1 fault. -/
def Sys2Proof.Claims.MaskWords : Prop :=
  ∀ (g : Guard) (s v : State) (vd va vb vc : BitVec 6) (ty : BitVec 4) (imm : BitVec 8), Issuing g s v →
    let k := v.core v.cur.1
    let x := fun (r : BitVec 6) (i : Nat) => lane (k.vreg r) i
    let ends := fun (e : Effect) => (Host.Outcome.next · : State → Host.Outcome State Fault Refusal) (issued 1 .fall (flying v 1 e))
    (k.masks.length < 8 → ∀ row ∈ [(Instr.mpushEq, Cond.eq), (Instr.mpushNe, Cond.ne), (Instr.mpushLt, Cond.lt), (Instr.mpushGe, Cond.ge)],
      exec (row.1 g va vb ty) s =
        ends (.masks ((k.top &&& maskOf fun i => row.2.ofSign (elemCmp ty.toNat (x va i).toNat (x vb i).toNat)) :: k.masks))) ∧
    (∀ i ∈ [Instr.mpushEq g va vb ty, Instr.mpushNe g va vb ty, Instr.mpushLt g va vb ty, Instr.mpushGe g va vb ty],
      8 ≤ k.masks.length → ∃ t f, exec i s = .next t ∧ t.note = .faulted f ∧ f.cls = .resource) ∧
    exec (.minv g ty) s = ends (.masks (((match k.masks with | _ :: p :: _ => p | _ => BitVec.allOnes 128) &&& ~~~k.top) :: k.masks.tail)) ∧
    (1 < k.masks.length → exec (.mpop g ty) s = ends (.masks k.masks.tail)) ∧
    (k.masks.length ≤ 1 → ∃ t f, exec (.mpop g ty) s = .next t ∧ t.note = .faulted f ∧ f.cls = .resource) ∧
    exec (.mgetM g vd ty) s = ends (.setM (vd.setWidth 3) k.top) ∧
    exec (.mgetV g vd ty) s =
      ends (.setV vd (BitVec.allOnes 128) (ofLanes ((List.range 128).map fun i => if k.top.getLsbD i then 0xFFFFFFFF else 0))) ∧
    exec (.msetM g va ty) s = ends (.masks (k.mreg (va.setWidth 3) :: k.masks.tail)) ∧
    exec (.msetV g va ty) s = ends (.masks (maskOf (fun i => x va i != 0) :: k.masks.tail)) ∧
    (∀ col, col = imm.toNat + 256 * (vc.toNat % 4) → (∀ p ∈ k.spill, p.2 ≠ col ∧ p.1 ≠ va.toNat) →
      k.writesColumn col (v.ttc + 4) = false → exec (.vparkP g va vc ty imm) s =
        .next (issued 1 .fall (flying (flying v 1 (.park va col)) 4 (.accCol col (k.vreg va))))) ∧
    (∀ p, k.spill.find? (fun p => decide (p.1 = vd.toNat)) = some p → exec (.vunparkU g vd ty) s =
      .next (issued 1 .fall (flying (flying v 4 (.setV vd (BitVec.allOnes 128) 0)) 1 (.unpark vd p.2 v.nextId))))

/-- The vector words that work element by element, those that move lanes, and those of masks. -/
def Obligations.VectorWords : Prop := ElementWords ∧ LaneWords ∧ MaskWords

/-- VLD and VST (R200, R225, R266, R307, R417, R418): which words the lanes name, MOD by wrapping over the storage's words, ROW in order
from a row's element, STR by a stride. -/
def Obligations.VectorMemory : Prop :=
  ∀ (g : Guard) (s v v1 : State) (r vb vc sr : BitVec 6) (ty : BitVec 4) (masked : BitVec 1) (imm : BitVec 8) (h : BitVec 5) (c : Cap),
    Issuing g s v → h = sr.setWidth 5 → ReadsH v h c v1 →
    let wide := fun (w : State) (t : Nat) => c.kind = kTile → if t = 3 then fmtBytes (w.tileEntry c.key).fmt = some 2 ∧
      (w.tileEntry c.key).rows * (w.tileEntry c.key).cols % 2 = 0 else fmtBytes (w.tileEntry c.key).fmt = some 4
    let mods := (List.range 128).map fun (l : Nat) =>
      c.addr.toNat + 4 * (((l : Int) - imm.toNat) % (v1.wordCount c ty.toNat : Nat)).toNat
    let row := fun (e : Nat) => (List.range 128).map fun i => c.addr.toNat + 4 * (e + i)
    let str := fun (o t : Word64) => (List.range (imm.toNat + 1)).map fun i => (c.addr + o + BitVec.ofNat 64 i * t).toNat
    let inside := fun (w : State) (as : List Nat) => ∀ a ∈ as, a % 4 = 0 ∧ (w.baseBounds c).1 ≤ a ∧ a + 4 ≤ (w.baseBounds c).2
    (∀ t, UseOk v1 c [kTile, kBlank] pR [1] → wide v1 ty.toNat → VecLoads v1 r masked h c mods t →
      exec (.vldMod g r ty masked sr imm) s = .next (issued 1 .fall t)) ∧
    (∀ t, UseOk v1 c [kBlank] pW [1] → VecStores v1 r masked h c mods t →
      exec (.vstMod g r ty masked sr imm) s = .next (issued 1 .fall t)) ∧
    (∀ e w, ReadsS v1 vb e w → e.toNat + 128 ≤ w.wordCount c 9 →
      (∀ t, UseOk w c [kTile, kBlank] pR [0, 1] → wide w 9 → VecLoads w r masked h c (row e.toNat) t →
        exec (.vldRow g r vb ty masked sr) s = .next (issued 1 .fall t)) ∧
      (∀ t, UseOk w c [kBlank] pW [0, 1] → VecStores w r masked h c (row e.toNat) t →
        exec (.vstRow g r vb ty masked sr) s = .next (issued 1 .fall t))) ∧
    (∀ o n w' w, ReadsS v1 vb o w' → ReadsS w' vc n w → inside w (str o n) →
      (∀ t, UseOk w c [kPointer, kTile, kBlank] pR [0, 1, 5] → wide w 9 → VecLoads w r masked h c (str o n) t →
        exec (.vldStr g r vb vc ty masked sr imm) s = .next (issued 1 .fall t)) ∧
      (∀ t, UseOk w c [kBlank] pW [0, 1] → VecStores w r masked h c (str o n) t →
        exec (.vstStr g r vb vc ty masked sr imm) s = .next (issued 1 .fall t)))

/-! ## The attention sequencer -/

/-- ASTART, ALOAD and ASTAT (R246, R248, R330), and an entry's start (R244, R246): the parameters are read, the state of R244 is at its
start values, the control store is kept. -/
def Obligations.AttentionWords : Prop :=
  (∀ (g : Guard) (s v : State), Issuing g s v →
    (∀ (d a : BitVec 6) (imm : BitVec 48) (hb : BitVec 5) (c : Cap) (p : Word64) (v1 w : State), NoHandler v → hb = d.setWidth 5 →
      ReadsH v hb c v1 → ReadsS v1 a p w → CapOk w c [kNull, kBlank] → (c.isNull = true ∨ UseOk w c [kBlank] pW [0, 1]) →
      p.toNat % 8 = 0 → p.toNat + 128 ≤ 0x100000 → RoomIn w qAttention →
      exec (.astartGo g d a imm) s = .next (issued 1 .fall
        (entering w qAttention (newEntry w (.astart c p.toNat (imm.setWidth 12)) [c] [c] (pops1 hb c) none 0 none [])))) ∧
    (∀ (h : BitVec 5) (a b : BitVec 6) (c : Cap) (i n : Word64) (v1 v2 w : State), NoHandler v →
      ReadsH v h c v1 → ReadsS v1 a i v2 → ReadsS v2 b n w → i.toNat + n.toNat ≤ 4096 →
      UseOk w c [kPointer] pR [0, 1, 2, 5] → CursorOk c (8 * n.toNat) → RoomIn w qAttention →
      exec (.aloadW g h a b) s = .next (issued 1 .fall
        (entering w qAttention (newEntry w (.aload c i.toNat n.toNat) [c] [] (pops1 h c) none 0 none [])))) ∧
    (∀ (d a : BitVec 6) (x : Word64) (e : Effect) (v1 w : State), ReadsS v a x v1 → TakesS v1 d 0 e w →
      ((v1.core v1.cur.1).attn.item x.toNat).isSome = true →
      let u := awaiting w (2 * v1.dC v1.cur.1 + 4) 5 e
      let sent := fun (wait : Bool) => u.setCore u.cur.1 { u.core u.cur.1 with
        astats := (u.core u.cur.1).astats ++ [⟨w.nextId, x.toNat, wait, u.clk + v1.dC v1.cur.1 + 2⟩] }
      exec (.astatRd g d a) s = .next (issued 1 .fall (sent false)) ∧ exec (.astatWait g d a) s = .next (issued 1 .fall (sent true)))) ∧
  ∀ (s : State) (core : Nat) (e : EngEntry) (es : List EngEntry) (c : Cap) (p : Nat) (upc : BitVec 12),
    (s.core core).queue qAttention = e :: es → e.op = .astart c p upc → s.mem.firstPoison (privAt core p) 128 = none →
    ∃ t, exec (.attentionEntryStart core) s = .next t ∧
      let a := (t.core core).attn
      a.entry = some e.id ∧ a.blank = c ∧ a.upc = upc.toNat ∧ (∀ i < 16, a.par i = s.mem.read64 (privAt core p + 8 * i)) ∧
      (∀ k, Tbl.get 0 a.lk k = (0 : BitVec 24)) ∧ a.block = none ∧ a.finished = false ∧
      (∀ r, a.row r = ⟨0xFF800000, 0, 0, 0, (a.row r).alpha⟩) ∧ a.store = (s.core core).attn.store ∧ t.mem = s.mem

/-- The micro-operations that steer (R179, R251): END, LOOP, BNZ, JMP, SIG, WAITT, SETP. -/
def Obligations.MicroControl : Prop :=
  ∀ (s : State) (e : EngEntry), (s.core s.cur.1).attnEntry = some e →
    let c := s.cur.1
    let a := (s.core c).attn
    let on := fun (t : State) => Host.Outcome.next (microGo t c (a.upc + 1)) (φ := Fault) (ρ := Refusal)
    let goes := fun (t : State) (b : Bool) (n : BitVec 12) => if b then .next (microGo t c n.toNat) else on t
    let lk := fun (k : BitVec 2) => Tbl.get (0 : BitVec 24) a.lk k.toNat
    exec .microEnd s = .next (attnFinish s c a.upc 0) ∧
    (∀ k ap n, exec (.microLoop k 0 ap n) s = on (s.modAttn c fun a => { a with lk := Tbl.set a.lk k.toNat n }) ∧
      exec (.microLoop k 1 ap n) s =
        on (s.modAttn c fun a => { a with lk := Tbl.set a.lk k.toNat ((a.par ap.toNat).setWidth 24) })) ∧
    (∀ k n, lk k = 0 → exec (.microBnz k 0 n) s = on s) ∧
    (∀ k n, lk k ≠ 0 → exec (.microBnz k 0 n) s =
      goes (s.modAttn c fun a => { a with lk := Tbl.set a.lk k.toNat (lk k - 1) }) (lk k != 1) n) ∧
    (∀ k n, exec (.microBnz k 1 n) s = goes s a.block.isSome n ∧ exec (.microBnz k 2 n) s = goes s a.finished n) ∧
    (∀ n, exec (.microJmp n) s = goes s true n) ∧
    (∀ t, exec (.microSig t) s = on { s.modCoreAt c fun k => { k with marks := k.marks ++ [⟨s.nextId, t, [], some (s.clk + 4)⟩] } with
      nextId := s.nextId + 1 }) ∧
    (∀ t, tokenLeft { s with cur := (c, .xs) } c t ≠ 0 → exec (.microWaitt t) s =
      on (s.modCoreAt c fun k => { k with tok := Tbl.set k.tok t.toNat (k.token t - 1) })) ∧
    (∀ t, tokenLeft { s with cur := (c, .xs) } c t = 0 → exec (.microWaitt t) s =
      .next (s.modAttn c fun a => { a with busyTill := s.clk + 1 })) ∧
    (∀ ap (imm : BitVec 48),
      exec (.microSetp ap 0 imm) s = on (s.modAttn c fun a => { a with ap := Tbl.set a.ap ap.toNat (imm.signExtend 64) }) ∧
      exec (.microSetp ap 1 imm) s =
        on (s.modAttn c fun a' => { a' with ap := Tbl.set a'.ap ap.toNat (a.par ap.toNat + imm.signExtend 64) }))

/-- The micro-operations over rows (R251, R252): which accumulators and row state they leave, by the row arithmetic of R252. -/
def Sys2Proof.Claims.MicroRows : Prop :=
  ∀ (s : State) (e : EngEntry) (k : Core), k = s.core s.cur.1 → k.attnEntry = some e → RowsOk k →
    let c := s.cur.1
    let n := k.attn.live
    let inBlock := fun (col w r x : Nat) => r < n ∧ col ≤ x ∧ x < col + w
    (∀ (q kk : BitVec 4) (col : BitVec 9) (dim : BitVec 7) (fmt : BitVec 4), fmt ∈ [1, 3, 4] →
      ProductOk k q kk col.toNat (dim.toNat + 1) 64 fmt.toNat fmt.toNat →
      ∃ t, exec (.microQk q kk col dim fmt) s = .next t ∧
        (∀ r x, x < 1024 → (t.core c).accAt r x = if inBlock col.toNat 64 r x then
          mmaElement (fmtWord fmt.toNat fmt.toNat 0) (rowOf fmt.toNat (s.slotBytes c q) (k.slot q).cols r (dim.toNat + 1) false)
            (colOf fmt.toNat (s.slotBytes c kk) (k.slot kk).cols (x - col.toNat) (dim.toNat + 1)) [] none 0
          else k.accAt r x) ∧
        (t.core c).attn.mask = BitVec.ofNat 64 (bytesAt (s.slotBytes c kk) (slotSize c - 8) 8)) ∧
    (∀ (p v : BitVec 4) (col : BitVec 9) (dim : BitVec 7) (fmt : BitVec 4) (pf : Nat), pf = (k.slot p).fmt →
      pf = 3 ∧ (fmt = 3 ∨ fmt = 4) ∨ pf = 1 ∧ fmt = 1 → ProductOk k p v col.toNat 64 (dim.toNat + 1) pf fmt.toNat →
      ∃ t, exec (.microPv p v col dim fmt) s = .next t ∧
        ∀ r x, x < 1024 → (t.core c).accAt r x = if inBlock col.toNat (dim.toNat + 1) r x then
          (pvElement (fmtWord pf fmt.toNat (if pf = 3 then 2 else 0)) (rowOf pf (s.slotBytes c p) (k.slot p).cols r 64 false)
            (colOf fmt.toNat (s.slotBytes c v) (k.slot v).cols (x - col.toNat) 64)
            (if pf = 3 then some (fp32.decode (bytesAt (s.slotBytes c p) (slotSize c - 512 + 4 * r) 4)) else none) (k.accAt r x)).1
          else k.accAt r x) ∧
    (∀ (col : BitVec 9) (dim : BitVec 7), ColsOk k col.toNat (dim.toNat + 1) →
      ∃ t, exec (.microResc col dim) s = .next t ∧
        ∀ r x, x < 1024 → (t.core c).accAt r x = if inBlock col.toNat (dim.toNat + 1) r x then
          (rescElement (k.attn.row r).alpha (k.accAt r x)).1 else k.accAt r x) ∧
    (∀ col : BitVec 9, ColsOk k col.toNat 64 →
      exec (.microSmax col) s = .next (microGo (s.modAttn c fun a => a.mapRows n fun r w =>
        smaxRow a.scale (scoresOf k r col.toNat) w) c (k.attn.upc + 1))) ∧
    exec .microDen s = .next (microGo (s.modAttn c fun a => a.mapRows n fun r w =>
      denRow ((List.range 64).map fun j => Tbl.get 0 a.probs (64 * r + j)) w) c (k.attn.upc + 1)) ∧
    (∀ (p : BitVec 4) (col : BitVec 9) (pf : BitVec 2), pf.toNat < 2 → (k.slot p).state ≠ .free → ColsOk k col.toNat 64 →
      let out := fun r => exppRow (pf = 0) (probsOf k r col.toNat) (k.attn.row r)
      ∃ t, exec (.microExpp p col pf) s = .next t ∧
        (∀ r, (t.core c).attn.row r = if r < n then { k.attn.row r with lam := (out r).lam } else k.attn.row r) ∧
        ((t.core c).slot p).state = .claimedFilled ∧ ((t.core c).slot p).rows = n ∧ ((t.core c).slot p).cols = 64 ∧
        ((t.core c).slot p).fmt = (if pf = 0 then 3 else 1) ∧
        ∃ bytes, bytes = (List.range n).flatMap (fun r => (out r).q.flatMap fun v => toBytes (if pf = 0 then 1 else 2) v) ∧
          t.mem = if pf = 0 then (s.mem.setBytes (slotAt c p.toNat 0) bytes).setBytes (slotAt c p.toNat (slotSize c - 512))
            ((List.range n).flatMap fun r => toBytes 4 (out r).pm.toNat) else s.mem.setBytes (slotAt c p.toNat 0) bytes)

/-- A micro-operation over rows stops its entry with kind 4 where ap4 is no row count (R251). -/
def Sys2Proof.Claims.MicroRowCount : Prop :=
  ∀ (s : State) (e : EngEntry) (p q : BitVec 4) (col : BitVec 9) (dim row : BitVec 7) (fmt : BitVec 4) (f : BitVec 2),
    (s.core s.cur.1).attnEntry = some e → ((s.core s.cur.1).attn.live = 0 ∨ 128 < (s.core s.cur.1).attn.live) →
    ∀ i ∈ [Instr.microQk p q col dim fmt, .microSmax col, .microExpp p col f, .microDen, .microResc col dim, .microPv p q col dim fmt,
      .microNorm col dim f row],
      exec i s = .next (attnFinish s s.cur.1 (s.core s.cur.1).attn.upc 4)

/-- The micro-operations that work on rows (R251, R252), and where they stop for want of a row count. -/
def Obligations.MicroRowWork : Prop := MicroRows ∧ MicroRowCount

/-- The micro-operations that reach storage (R251, R254, R255): NORM writes the blank, after what
words before its ASTART store in the cycle (R418), WALK moves the walker, GATH fills the slots. -/
def Obligations.MicroStorage : Prop :=
  ∀ (s w : State) (e : EngEntry) (k : Core), k = s.core s.cur.1 → k.attnEntry = some e →
    let c := s.cur.1
    let x := EngCtx.attention c e
    let on := fun (t : State) => Host.Outcome.next (microGo t c (k.attn.upc + 1)) (φ := Fault) (ρ := Refusal)
    (∀ (col : BitVec 9) (dim : BitVec 7) (f : BitVec 2) (row : BitVec 7) (ps : List Part), RowsOk k → f.toNat < 2 →
      let d := dim.toNat + 1
      let size := if f = 0 then 4 else 2
      k.attn.blank.isNull = false → ColsOk k col.toNat d → (row.toNat + k.attn.live) * d * size ≤ classSize (s.dirEntry k.attn.blank.key).cls →
      Works (engRange x k.attn.blank.space (k.attn.blank.addr.toNat + row.toNat * d * size) (k.attn.live * d * size) true) s ps w →
      let out := (List.range k.attn.live).flatMap fun r =>
        (k.accRow r col.toNat d).map (normElement (if f = 0 then fp32 else bf16) (k.attn.row r).hi (k.attn.row r).lo)
      exec (.microNorm col dim f row) s = on ({ storesBefore w c with mem := writeParts (storesBefore w c).mem ps (out.flatMap fun (v : Nat × Bool) => toBytes size v.1) }.modAttn c
        fun a => a.saturated (out.any fun (v : Nat × Bool) => v.2))) ∧
    (∀ (t : SeqTable) (ps : List (Nat × Bool)), Works (walkPages x) s (.list t ps) w →
      (ps[k.attn.pos]? = none → exec .microWalk s = on (w.modAttn c fun a => { a with block := none, finished := true })) ∧
      (∀ p, ps[k.attn.pos]? = some (p, true) → p < t.pages →
        exec .microWalk s = on (w.modAttn c fun a => { a with block := some p, pos := a.pos + 1 }))) ∧
    (∀ (n m : BitVec 4), k.attn.block = none → exec (.microGath n m) s = .next (attnFinish s c k.attn.upc 2)) ∧
    (∀ (n m : BitVec 4) (page : Nat) (t : SeqTable) (u : State) (g : Gathered), k.attn.block = some page →
      (k.slot n).state ≠ .free → (k.slot m).state ≠ .free → Works (readSeqTable x (k.attn.par 0).toNat) s (some t, none) u →
      page < t.pages → Works (gatherPage x t (k.attn.par 3).toNat page) u (g, none) w →
      exec (.microGath n m) s = on ((((w.slotKeys c n t g).setSlot c n .claimedFilled).slotValues c m t g).setSlot c m .claimedFilled))

/-! ## The link, the shuttle and the Signal Box -/

/-- LSEND's messages (R287-R295, R359). A counted handle leaves its register null. -/
def Obligations.MessageWords : Prop :=
  ∀ (g : Guard) (s v : State) (h : BitVec 5) (b c peer relay : BitVec 6) (rot : BitVec 12) (slot : BitVec 4) (berth : BitVec 6)
    (route : Word64) (port r : Nat), Issuing g s v → routeOk route = true →
    let d := depOf peer relay rot slot berth
    (∀ x v1 u w, ReadsS v b x v1 → ReadsS v1 c route u → PathOk u d port r → FlitsOk u d port r 1 w → RoomIn w qLink →
      exec (.lsendV g b c peer relay rot slot berth) s =
        .next (issued 1 .fall (sending w d port r 1 (flitAt u d port r) route (.value x) none [] []))) ∧
    (∀ k v1 u w, ReadsH v h k v1 → ReadsS v1 c route u → PathOk u d port r → CapOk u k [kPointer, kTile, kBlank] →
      k.has pG = true → (k.counted = true → k.has pD = true ∧ k.space.toNat ∈ [0, 6]) → FlitsOk u d port r 1 w →
      let w' := if k.counted then nulling w h else w
      RoomIn w' qLink →
      exec (.lsendH g h c peer relay rot slot berth) s =
        .next (issued 1 .fall (sending w' d port r 1 (flitAt u d port r) route (.handle k) none [] []))) ∧
    (∀ k n v1 v2 u w, ReadsH v h k v1 → ReadsS v1 b n v2 → ReadsS v2 c route u → PathOk u d port r →
      UseOk u k [kTile] pR [0, 1] → k.has pG = true → n.toNat % 256 = 0 → 256 ≤ n.toNat → n.toNat ≤ 2 ^ 20 →
      FlitsOk u d port r (1 + n.toNat / 256) w → RoomIn w qLink →
      exec (.lsendD g h b c peer relay rot slot berth) s = .next (issued 1 .fall
        (sending w d port r (1 + n.toNat / 256) (flitAt u d port r) route (.data [] [] 0 0 0) (some (k, n.toNat)) [k] (pops1 h k))))

/-- The remote forms of LSEND (R299, R359): the entry, and a result awaited at issue + 572. -/
def Obligations.RemoteWords : Prop :=
  ∀ (g : Guard) (s v v1 : State) (h : BitVec 5) (a b c peer relay : BitVec 6) (k : Cap), Issuing g s v → ReadsH v h k v1 →
    let put := fun (w : State) (kind : RemoteKind) (x y : Word64) (ids : List Nat) =>
      Host.Outcome.next (φ := Fault) (ρ := Refusal) (issued 1 .fall
        (entering w qLink (newEntry w (.remote kind peer.toNat k x y) [k] [] (pops1 h k) none 0 none ids)))
    (∀ e w, RemoteOk v1 k pR peer → TakesS v1 a 0 e w → RoomIn (awaiting w 572 3 e) qLink →
      exec (.lsendRld g h a peer relay) s = put (awaiting w 572 3 e) .rld 0 0 [w.nextId]) ∧
    (∀ x w, ReadsS v1 b x w → RemoteOk w k pW peer → RoomIn w qLink → exec (.lsendRst g h b peer relay) s = put w .rst x 0 []) ∧
    (∀ x e v2 w, ReadsS v1 b x v2 → RemoteOk v2 k pC peer → TakesS v2 a 0 e w → RoomIn (awaiting w 572 3 e) qLink →
      exec (.lsendRadd g h a b peer relay) s = put (awaiting w 572 3 e) .radd x 0 [w.nextId]) ∧
    (∀ x y e v2 v3 w, ReadsS v1 b x v2 → ReadsS v2 c y v3 → RemoteOk v3 k pC peer → TakesS v3 a 0 e w →
      RoomIn (awaiting w 572 3 e) qLink →
      exec (.lsendRcas g h a b c peer relay) s = put (awaiting w 572 3 e) .rcas x y [w.nextId])

/-- LTAKE, LCAL, LMARK and LSTAT (R296, R298, R303, R359). -/
def Obligations.LinkWords : Prop :=
  ∀ (g : Guard) (s v : State), Issuing g s v →
    (∀ h a e1 e2 e3 w1 w2 w3, TakesS v a 0 e1 w1 →
      let lat := backAt v
      TakesS (awaiting w1 lat 3 e1) (a + 1) 0 e2 w2 → TakesH (awaiting w2 lat 3 e2) h nullCap e3 w3 →
      let ends := fun (wait : Bool) => Host.Outcome.next (φ := Fault) (ρ := Refusal) (issued 1 .fall
        (asking (awaiting w3 lat 3 e3) (.ltake wait) [w1.nextId, w2.nextId, w3.nextId]))
      exec (.ltakeM g h a) s = ends true ∧ exec (.ltakeP g h a) s = ends false) ∧
    (∀ h b c x v1 w, ReadsH v h c v1 → ReadsS v1 b x w → CapOk w c [c.kind] → c.has pP = true →
      x.toNat % 8 = 0 → x.toNat + 272 ≤ 0x100000 → RoomIn w qLink →
      exec (.lcalW g h b) s =
        .next (issued 1 .fall (entering w qLink (newEntry w (.lcal x.toNat) [c] [] (pops1 h c) none 0 none [])))) ∧
    (∀ b x w, ReadsS v b x w → RoomIn w qLink →
      exec (.lmarkD g b) s = .next (issued 1 .fall (entering w qLink (newEntry w (.lmark (x.setWidth 6)) [] [] [] none 0 none [])))) ∧
    (∀ a b x e w w', ReadsS v b x w → (w.lstat x.toNat).isSome = true → TakesS w a 0 e w' →
      exec (.lstatRd g a b) s = .next (issued 1 .fall (asking (awaiting w' (backAt w) 3 e) (.lstat x.toNat) [w'.nextId])))

/-- SHSEND, SHTAKE and SHRET (R260-R263, R394). An SHSEND without a tablet and an SHTAKE without a tile hold with cause bit 4. -/
def Obligations.ShuttleWords : Prop :=
  ∀ (g : Guard) (s v : State), Issuing g s v →
    let c := v.cur.1
    (∀ (h : BitVec 5) (imm : BitVec 45) (k : Cap) (w : State) (t : ShTx), ReadsH v h k w → w.shTx w.cur.1 (imm.setWidth 4) = some t →
      UseOk w k [kTile] pR [0, 1] → k.has pD = true →
      let n := tileBytes (w.tileEntry k.key).rows (w.tileEntry k.key).cols (w.tileEntry k.key).fmt
      n ≤ classSize t.cls → (∀ b, shBarrier imm = some b → b < 640 * 2 ^ 22) →
      (t.tablets = [] → exec (.shsendT g h imm) s = .next (beginHold s s.curCons (causeBit 4) none)) ∧
      (∀ b rest, t.tablets = b :: rest →
        let u := (nulling w h).modTx w.cur.1 (imm.setWidth 4) fun t => { t with tablets := rest, flight := t.flight + 1 }
        RoomIn u qShuttle → exec (.shsendT g h imm) s = .next (issued 1 .fall
          (entering u qShuttle (newEntry u (.shsend k b n t.rx t.ch) [k] [b] [k] (shBarrier imm) n none []))))) ∧
    (∀ (h : BitVec 5) (ch : BitVec 4) (x : ShRx), v.shRx c ch = some x →
      (x.fifo = [] → exec (.shtakeT g h ch) s = .next (beginHold s s.curCons (causeBit 4) none)) ∧
      (∀ k rest e w, x.fifo = k :: rest → RoomIn v qShuttle → TakesH v h k e w → exec (.shtakeT g h ch) s = .next (issued 1 .fall
        ((flying w 1 e).modRx w.cur.1 ch fun x => { x with fifo := rest })))) ∧
    (∀ (h : BitVec 5) (ch : BitVec 4) (k : Cap) (w : State) (x : ShRx), ReadsH v h k w → CapOk w k [kBlank] →
      w.shRx w.cur.1 ch = some x → k.space = 1 → k.addr.toNat / 2 ^ 32 = w.cur.1 → (w.dirEntry k.key).cls = x.cls →
      k.weight = fullWeight → w.lent x < x.n → RoomIn w qShuttle →
      exec (.shretT g h ch) s = .next (issued 1 .fall ((nulling w h).modRx w.cur.1 ch fun x =>
        { x with coming := x.coming ++ [(k, w.clk + 4)] }))) ∧
    (∀ (ch : BitVec 4) (x : ShRx), v.shRx c ch = some x → x.fifo = [] → (∀ t, v.shTx x.tx x.ch = some t → t.flight = 0) →
      RoomIn v qShuttle → exec (.shretClose g ch) s = .next (issued 1 .fall (v.closeRx c ch))) ∧
    (∀ (a : BitVec 6) (ch : BitVec 4) (n : BitVec 3) (cls : BitVec 4) (x : Word64) (w u : State) (cs : List Cap) (count : Nat),
      ReadsS v a x w → x.toNat < 2 ^ 12 →
      let tx := x.toNat % 256
      let tch := x.extractLsb' 8 4
      tx < 160 → (w.core tx).part = (w.core w.cur.1).part → w.shRx w.cur.1 ch = none → w.shTx tx tch = none → RoomIn w qShuttle →
      count = (if n = 0 then 2 else n.toNat) →
      takeBlanks w.cur.1 ((w.core w.cur.1).part.getD 0) cls.toNat count w = some (cs, u) →
      let rx : ShRx := ⟨tx, tch, cls.toNat, count, ((u.core w.cur.1).part.getD 0, (u.cons u.curCons).train), [],
        cs.map fun c => (c, u.clk + 8)⟩
      exec (.shretOpen g a ch n cls) s = .next (issued 1 .fall
        ((u.modCoreAt u.cur.1 fun e => { e with shRx := Tbl.set e.shRx ch.toNat rx }).modCoreAt tx fun e =>
          { e with shTx := Tbl.set e.shTx tch.toNat ⟨w.cur.1, ch, cls.toNat, [], 0⟩ })))

/-- The Signal Box words (R272, R280-R283): each takes its place in the queue, SBGET and SBSTAT with the results they await. -/
def Obligations.SignalBoxWords : Prop :=
  ∀ (g : Guard) (s v w : State) (b : BitVec 6) (x : Word64), Issuing g s v → ReadsS v b x w →
    let entry := fun (op : EngOp) => entering w qSbox (newEntry w op [] [] [] none 0 none [])
    (∀ pipe cls, PrivateOk x 64 → w.sbox.owns w.cur.1 pipe = true → RoomIn w qSbox →
      exec (.sbputR g b pipe cls) s = .next (issued 1 .fall (entry (.sbput x.toNat pipe cls)))) ∧
    (RoomIn w qSbox → exec (.sbcommitG g b) s = .next (issued 1 .fall (entry (.sbcommit (x.setWidth 32))))) ∧
    (∀ lit : Word96, let l : Word64 := lit.setWidth 64
      x.toNat % 8 = 0 → x.toNat + imageSize (w.sbox.kind (litTable l)) l ≤ 0x100000 →
      (l.extractLsb' 62 2 = 0 → litIndex l < (w.sbox.window ((w.core w.cur.1).part.getD 0) (litTable l)).2) → RoomIn w qSbox →
      exec (.sbtblW g b lit) s = .next (issued 2 .fall (entry (.sbtbl x.toNat l)))) ∧
    (∀ a e w', PrivateOk x 64 → TakesS w a 0 e w' →
      let u := awaiting w' (backAt w) 3 e
      let q := awaiting u (u.dist cDie hDie + u.dist hDie (dieOf u.cur.1) + 8) 3 (.store nullCap [])
      RoomIn q qSbox →
      exec (.sbgetQ g a b) s = .next (issued 1 .fall (boxAsk q (.sbget false x.toNat) [w'.nextId, u.nextId])) ∧
      exec (.sbgetX g a b) s = .next (issued 1 .fall (boxAsk q (.sbget true x.toNat) [w'.nextId, u.nextId]))) ∧
    (∀ a e w', x.toNat ≤ 5 → TakesS w a 0 e w' → RoomIn (awaiting w' (backAt w) 3 e) qSbox →
      exec (.sbstatRd g a b) s = .next (issued 1 .fall (boxAsk (awaiting w' (backAt w) 3 e) (.sbstat x.toNat) [w'.nextId]))) ∧
    (RoomIn w qSbox → exec (.sbstatMark g b) s = .next (issued 1 .fall (boxAsk w (.sbmark (x.getLsbD 0)) [])))


/-! ## Events -/

namespace Sys2Proof.Claims

/-- The event that brings a message to its home (R65). -/
def HomeEvent (id : Nat) (m : HomeMsg) (i : Instr) : Prop :=
  match m with
  | .weight _ => i = .weightReturn id
  | .extend => i = .extension id
  | .query _ => i = .uniquenessQuery id
  | .seal .. => i = .sealRecord id
  | .toBlank => i = .conversionToBlank id
  | .alloc .. => i = .allocRequest id
  | .later => False

end Sys2Proof.Claims

/-- A home porter that takes a message from its queue (R65): a weight return (R76, R325), an extension (R74), a uniqueness query of ISUNQ.X
(R78) or UPD (R81), a seal (R82), a conversion to blank (R80), an allocation (R79); and storage that is free again (R62). Answers are
back at the core after the way and a free delay (log 5). A home on a die in reset discards the message (R241, R302). -/
def Obligations.HomeEvents : Prop :=
  (∀ (s : State) (id : Nat) (r : HomeReq) (e : DirEntry) (u : State),
    s.stores.inbox.find? (fun q => q.id == id) = some r → e = s.dirEntry r.key →
    u = { s with stores := { s.stores with inbox := s.stores.inbox.filter fun q => q.id != id } } →
    let d := porterDie r.porter
    let n := Config.extraDelay s.freeCtr
    let way := s.clk + s.dist (dieOf r.core) d + 4 + n
    let replied := fun (w : State) (t : Nat) => ({ w with freeCtr := s.freeCtr + 1 } : State).outbound d t
    ((s.die d).state = .reset → ∀ i, HomeEvent id r.msg i → exec i s = .next (u.markDies r.core [d])) ∧
    ((s.die d).state ≠ .reset →
      (∀ w, r.msg = .weight w →
        let left := { e with total := e.total - w }
        exec (.weightReturn id) s = .next (
          if e.state = .free ∨ e.state = .beingFreed then u
          else if e.total - w ≠ 0 then u.setDir r.key left
          else if e.state = .poisoned then (u.setDir r.key { left with kept := true }).logErr 3 (u.homeDie 0 r.key)
            (if keySpace r.key = 1 then 2 else 0) (BitVec.ofNat 64 (keyBase r.key)) (keyPart r.key)
          else u.setDir r.key { left with state := .beingFreed, freeAt := s.clk + 8 })) ∧
      (r.msg = .extend → exec (.extension id) s = .next (
        if e.xg < 254 then
          (replied (u.setDir r.key { e with total := e.total + 2 ^ 20, xg := e.xg + 1 }) way).answer r.id way (.extended (e.xg + 1))
        else (replied u way).answer r.id way .xgFull)) ∧
      (∀ w, r.msg = .query w → exec (.uniquenessQuery id) s = .next (
        if isUpd s r.core r.id then (replied u way).answer r.id way (.total e.total (e.state == .poisoned))
        else (replied u way).modLatch r.core r.id fun l =>
          { l with eff := l.eff.withWord (if e.total = w then 1 else 0), back := some way })) ∧
      (∀ rows cols fmt, r.msg = .seal rows cols fmt → exec (.sealRecord id) s = .next (
        if e.state = .blank then u.setDir r.key { e with state := .live, rows := rows, cols := cols, fmt := fmt } else u)) ∧
      (r.msg = .toBlank → exec (.conversionToBlank id) s = .next (
        if e.state = .live then u.setDir r.key { e with state := .blank, total := 2 ^ 20, xg := 0 }
        else if e.state = .poisoned then u.setDir r.key { e with total := 2 ^ 20, xg := 0 }
        else u)) ∧
      (∀ cls place lead, r.msg = .alloc cls place lead →
        let t := s.clk + lead + n
        let part := keyPart r.key
        let space : BitVec 4 := if place < 256 then 1 else 0
        (∀ base free, takeBlock s.stores.free part place cls = some (base, free) →
          let pa := if place < 256 then 0 else (s.physical part base).getD ((place - 256) * 2 ^ 37)
          let blank : DirEntry :=
            { DirEntry.reset with state := .blank, cls := cls, part := part, total := 2 ^ 20, base := base, space := space, pa := pa }
          let w := { u with stores := { u.stores with free := free } }.setDir (dirKey space part (BitVec.ofNat 64 base)) blank
          exec (.allocRequest id) s = .next (
            if isUpd s r.core r.id then (replied w t).answer r.id t (.block base)
            else (replied w t).modLatch r.core r.id fun l =>
              { l with eff := l.eff.withCap (newBlank place part base 0x7B), back := some t })) ∧
        (takeBlock s.stores.free part place cls = none → exec (.allocRequest id) s = .next (
          if isUpd s r.core r.id then (replied u t).answer r.id t .none
          else (replied u t).modLatch r.core r.id fun l => { l with
            err := some { FaultRec.zero with
              cls := .resource, tinfo := BitVec.ofNat 64 cls, core := l.core, seq := l.seq, syll := l.syll }
            back := some t }))))) ∧
  (∀ (s : State) key d, d = s.dirEntry key → d.state = .beingFreed → exec (.storageFreed key) s = .next
    ({ s with stores := { s.stores with
        free := joinBlock s.stores.free ⟨d.part, s.placeOfKey key, d.cls, d.base⟩ 11 } }.setDir key { d with state := .free }))

/-- Events at a core's units: the entry that an engine works on is done (R40, R199-R201, R280, R303), a delivery and a tablet of the
shuttle (R261, R262), a walk of the shadow scalar context (R162, R167, R214), an append that reaches DRAM (R258), a MARK (R184), and a
drain point (R396). -/
def Obligations.UnitEvents : Prop :=
  ∀ (s : State) (core : Nat),
    (∀ e es, (s.core core).queue qCopy = e :: es → e.started = true →
      (∀ w, Works (copyWork (EngCtx.copy core e) e.latches e.op) s .done w →
        exec (.engineEntryComplete core 1) s = .next (copyFinish core e (w.retireEntry core qCopy e))) ∧
      (∀ w, Works (copyWork (EngCtx.copy core e) e.latches e.op) s .again w → exec (.engineEntryComplete core 1) s =
        .next (w.modCoreAt core fun k => k.modEntry qCopy e.id fun e => { e with done := w.clk + 1 })) ∧
      (∀ x w, (copyWork (EngCtx.copy core e) e.latches e.op).run.run s = (.error x, w) →
        exec (.engineEntryComplete core 1) s = .next (w.stopEntry core qCopy e x)) ∧
      -- one line from tile store to tile store
      (∀ src dst n c a c' b, e.op = .copyTile src dst n → 1 ≤ n → n ≤ 256 → e.moved = 0 → e.latches = [] → e.barrier = none → e.popped = [] →
        src.space = 1 → dst.space = 1 → tileRange src.addr.toNat n = some (c, a) → tileRange dst.addr.toNat n = some (c', b) →
        s.downAt a = none → s.downAt b = none → (∀ i < n, s.mem.poisoned (a + i) = false ∧ s.downAt (b + i) = none) →
        ∃ t, exec (.engineEntryComplete core 1) s = .next t ∧
          t.mem = s.mem.write b ((List.range n).map fun i => s.hbmByte (a + i)))) ∧
    (∀ e, (s.core core).linkHead = some e → e.started = true → exec (.engineEntryComplete core 3) s = .next (linkComplete s core e)) ∧
    (∀ e es mask p, (s.core core).queue qSbox = e :: es → e.started = true → e.op = .sbcommit mask → (s.core core).part = some p →
      let u := s.retireEntry core qSbox e
      exec (.engineEntryComplete core 5) s = .next { u with sbox := { u.sbox with
        active := Tbl.set u.sbox.active p.toNat (Tbl.get 0 u.sbox.active p.toNat ^^^ mask) } }) ∧
    (∀ e es c b n rx ch, (s.core core).queue qShuttle = e :: es → e.op = .shsend c b n rx ch → e.started = true →
      let finished := fun (w : State) => match w.shRx rx ch with
        | some x => ((w.modRx rx ch fun y => { y with fifo := y.fifo ++ [b.withKind kTile c.perms fullWeight 0] }).modTx core x.ch fun y =>
            { y with flight := y.flight - 1 }).arriveBarrier core e
        | none => w.arriveBarrier core e
      (∀ w, Works (shuttleWork (EngCtx.ofEntry core qShuttle e none) c b n) s .done w →
        exec (.shuttleDelivery core) s = .next (finished (w.retireEntry core qShuttle e)) ∧
        exec (.engineEntryComplete core 4) s = .next (finished (w.retireEntry core qShuttle e))) ∧
      (∀ x w, (shuttleWork (EngCtx.ofEntry core qShuttle e none) c b n).run.run s = (.error x, w) →
        exec (.shuttleDelivery core) s = .next (w.stopEntry core qShuttle e x)) ∧
      -- one line, within tile store
      (∀ c1 a c2 a', 1 ≤ n → n ≤ 256 → e.moved = 0 → e.popped = [] → e.barrier = none → c.space = 1 → b.space = 1 →
        tileRange c.addr.toNat n = some (c1, a) → tileRange b.addr.toNat n = some (c2, a') → s.downAt a = none → s.downAt a' = none →
        (∀ i < n, s.mem.poisoned (a + i) = false ∧ s.downAt (a' + i) = none) →
        ∃ t, exec (.shuttleDelivery core) s = .next t ∧
          t.mem = s.mem.write a' ((List.range n).map fun i => s.hbmByte (a + i)))) ∧
    (∀ w ws, (s.core core).walks = w :: ws → w.cas = none →
      let part := (s.core core).part.getD 0
      (∀ log2 pa r wr dirty entry, s.walk part w.va = .leaf log2 pa r wr dirty entry → (if w.write then wr else r) = true →
        ((w.write = false ∨ dirty = true) →
          exec (.shadowWalkComplete core) s = .next (walkFills s core w (leafEntry w.va log2 pa r wr dirty))) ∧
        (w.write = true → dirty = false → exec (.shadowWalkComplete core) s = .next
          (let u := { s with freeCtr := s.freeCtr + 1 }
           u.setCore core { u.core core with walks := { w with
             ends := some (s.clk + (1 + Config.extraDelay s.freeCtr))
             cas := some (entry, s.pte entry, leafEntry w.va log2 pa r wr true) } :: ws }))) ∧
      (∀ bad, walkFault s core w.va w.write = some bad → exec (.shadowWalkComplete core) s = .next
        (serveWalk (dropWalks (s.setCore core { s.core core with walks := ws }) core fun _ => false) core (some bad) w))) ∧
    (∀ w ws entry was x, (s.core core).walks = w :: ws → w.cas = some (entry, was, x) →
      (s.pte entry = was → exec (.shadowWalkComplete core) s =
        .next (walkFills { s with mem := s.mem.write64 (hbmAt (s.forward entry)) (was ||| 0x20) } core w x)) ∧
      (s.pte entry ≠ was → exec (.shadowWalkComplete core) s = .next
        (s.setCore core { s.core core with walks := { w with ends := some (s.clk + w.len), cas := none } :: ws }))) ∧
    (∀ stack e es, s.kvQueue stack = e :: es → exec (.kvQueueDrain stack) s = .next { s with
      mem := e.bytes.foldl (fun m p => m.setBytes (hbmAt p.1) p.2) s.mem
      stores := { s.stores with kvq := Tbl.set s.stores.kvq stack es } }) ∧
    (∀ ch t x c k rest, s.shTx core ch = some t → s.shRx t.rx t.ch = some x → x.coming = (c, k) :: rest → k ≤ s.clk →
      s.writesOut t.rx c.key = false →
      exec (.tabletArrival core ch) s = .next ((s.modRx t.rx t.ch fun y => { y with coming := y.coming.drop 1 }).modTx core ch fun y =>
        { y with tablets := y.tablets ++ [c] })) ∧
    (∀ id m, (s.core core).marks.find? (fun m => m.id == id) = some m → exec (.markComplete core id) s =
      .next ((s.setCore core { s.core core with marks := (s.core core).marks.filter fun m => m.id != id }).signalTok core m.token)) ∧
    (sstepOut s core = false → exec (.sstepDrainPoint core) s = .next (s.setCore core { s.core core with sstep := none })) ∧
    (∀ k, sstepOut s core = true → s.consistOf core = some k →
      exec (.sstepDrainPoint core) s = .next (holdFor s k (causeBit 2) [] [core]))

/-- Events of the Signal Box: an image goes into the bank that is not active (R281-R283), a record enters (R272, R281), a pass ends and
the record goes round, or on to its egress (R273, R278, R279). -/
def Obligations.SignalBoxEvents : Prop :=
  ∀ (s : State) (core : Nat) (p : BitVec 5), (s.core core).part = some p →
    (∀ e es img lit, (s.core core).queue qSbox = e :: es → e.op = .sbimage img lit →
      let b := !s.sbox.bank p (litTable lit)
      let u := s.retireEntry core qSbox e
      let bad := imageBadFor (u.sbox.kind (litTable lit)) (u.sbox.keyFields p (litTable lit) b) lit img
      s.sbox.stamped p (litTable lit) b = false →
      (bad = false → exec (.shadowBankWrite core) s = .next { u with sbox := u.sbox.putImage p b lit img }) ∧
      (bad = true → exec (.shadowBankWrite core) s = .next (u.setPart p
        { u.part p with refused := (u.part p).refused + 1, sticky := true }))) ∧
    (∀ pipe e f cls fail, (s.core core).ingressHead pipe = some e → e.op = .sbrec f pipe cls fail →
      let r : Record := { f := f, cls := cls, pipe := pipe, src := core, part := p, recirc := 0, egress := 0, target := 0, data := 0
                          banks := Tbl.get 0 s.sbox.active p.toNat, reason := 0 }
      let u := s.retireEntry core qSbox e
      ((fail && !s.sbox.owns core pipe) = false → exec (.recordIngress core pipe) s = .next { u with
        nextId := u.nextId + 1, sbox := { u.sbox with inside := u.sbox.inside ++ [(u.nextId, s.clk + 32, r)] } }) ∧
      ((fail && !s.sbox.owns core pipe) = true → exec (.recordIngress core pipe) s = .next (u.exception r 7))) ∧
    (∀ id i t r0 r, s.sbox.inside.find? (fun e => e.1 == id) = some (i, t, r0) → r = sbPass s.sbox r0 →
      let out := s.sbox.inside.filter fun e => e.1 != id
      let u : State := { s with sbox := { s.sbox with inside := out } }
      ((r.egress ≠ 6 ∨ r.reason = 5) → exec (.recordPass id) s =
        .next { u with sbox := { u.sbox with out := s.sbox.out ++ [(t + egressTime u r, r)] } }) ∧
      (r.egress ≠ 3 → egressTime u r = 2) ∧
      (r.egress = 6 → r.reason ≠ 5 → r.recirc < 3 → exec (.recordPass id) s = .next { s with sbox := { s.sbox with
        inside := out ++ [(id, t + 32, { r with recirc := r.recirc + 1, egress := 0 })] } }) ∧
      (r.egress = 6 → r.reason ≠ 5 → 3 ≤ r.recirc → exec (.recordPass id) s =
        .next { u with sbox := { u.sbox with out := s.sbox.out ++ [(t + 2, { r with reason := 2 })] } }))

/-- How holds and waits end, and interrupts: HOLD_RELEASE and HOLD_LIMIT (R47-R52), RETIME's end (R240), HALT_RESUME (R357), and the
five sources of R213. -/
def Obligations.HoldEvents : Prop :=
  ∀ (s : State) (k : Nat) (c : Consist), c = s.cons k →
    (∀ h, c.holding = some h → c.cores.find? (fun x => traceFull (s.core x)) = none →
      let u := traceHolds s k h
      let run := u.setCons k { u.cons k with mode := .run }
      (c.mode = .hold h → c.next = none → exec (.holdRelease k) s = .next run) ∧
      (c.mode = .reentry (some h) → exec (.holdRelease k) s = .next (resumeRun run k)) ∧
      (∀ o t, c.mode = .hold h → c.next = some (.boundary o t) →
        exec (.holdRelease k) s = .next (u.setCons k { u.cons k with mode := .boundary o t, next := none }))) ∧
    (∀ h x, c.mode = .hold h → c.cores.find? (fun x => traceFull (s.core x)) = some x → ∃ u f,
      exec (.holdRelease k) s = .next (raise u k f) ∧ f.cls = .schedule ∧ f.sub = 0x0A ∧ f.core = x) ∧
    (∀ h w, c.holding = some h → w = h.words.headD (h.late.headD c.lead, .as) → ∃ u f, exec (.holdLimit k) s = .next (raise u k f) ∧
      u.mem = s.mem ∧ f.cls = .schedule ∧ f.sub = 0x0B ∧ f.core = w.1 ∧ f.seq = w.2) ∧
    (∀ r, c.mode = .retime r →
      let slip := r.notice - r.target
      let u := if slip = 0 then s
        else c.cores.foldl (fun s x => traceEvent s x 6 0 (r.die * 2 ^ 34 + min slip (2 ^ 34 - 1)) c.ttc) s
      exec (.retimeRelease k) s = .next (resumeRun (c.dies.foldl (fun s d => s.setDie d { s.die d with lag := 0 }) u) k)) ∧
    (∀ r, c.mode = .retime r → exec (.retimeSlipFault k) s = .next (raise (s.setCons k { c with mode := .run }) k
      { FaultRec.zero with cls := .schedule, sub := 0x06, core := r.core, seq := r.seq, syll := r.syll })) ∧
    (c.mode = .halted → exec (.haltResume k) s = .next (resumeRun s k)) ∧
    (∀ src x, takeable s k = true → irqNext s k = some (src, x) →
      let u := s.setCore x { s.core x with irq := (s.core x).irq.filter fun p => p.1 != src }
      (src = 1 → ∃ t, exec (.interruptTaken k) s = .next t ∧ t.cores = u.cores ∧ t.mem = u.mem ∧
        t.cons k = { c with preempt := false, mode := .saving, saveFor := none, next := none }) ∧
      (src ≠ 1 → exec (.interruptTaken k) s = .next (raise u k { FaultRec.zero with
        cls := .interrupt, core := c.lead, seq := .xs, source := src, syll := BitVec.ofNat 25 (u.seq c.lead .xs).at_.wordAt }))) ∧
    (∀ x v, v = s.core x → v.armed = true → v.timer.toNat ≤ s.ptc → exec (.timerCompare x) s = .next (s.setCore x { v with
      armed := false, irq := if v.irq.any (fun p => p.1 == 0) then v.irq else v.irq ++ [(0, s.clk)] })) ∧
    (∀ x v, v = s.core x → x < 160 → exec (.managementInterrupt x) s =
      .next (if v.irq.any (fun p => p.1 == 4) then s else s.setCore x { v with irq := v.irq ++ [(4, s.clk + s.dist hDie cDie)] })) ∧
    (∀ vf value x v, x = (value.extractLsb' 0 8).toNat → v = s.core x →
      (x < 160 → v.part = some vf → exec (.hostNotification vf value) s =
        .next (if v.irq.any (fun p => p.1 == 3) then s else s.setCore x { v with irq := v.irq ++ [(3, s.clk + s.dist hDie cDie)] })) ∧
      ((160 ≤ x ∨ v.part ≠ some vf) → exec (.hostNotification vf value) s = .next (s.logErr 4 hDie 4 0x18 vf)))

namespace Sys2Proof.Claims

/-- The state with a launch packet accepted (R27, R28): the youngest of its partition's trains is the packet's, under a number of its
own, with no car handed out; its cores are to be offered. -/
def Accepts (u : State) (p : List Word64) (w : State) (num : BitVec 15) : Prop :=
  (∃ t, w.disp.trains = u.disp.trains ++ [t] ∧ t.num = num ∧ t.part = pktPart p ∧ t.prio = ((pkt p 0).extractLsb' 53 3).toNat ∧
    t.cls = pktClass p ∧ t.c = pktC p ∧ t.e = pktE p ∧ t.tag = (pkt p 0).extractLsb' 0 32 ∧ t.overlay = pktOverlay p ∧ t.first = pktFirst p ∧
    t.count = pktCount p ∧ t.arg = pkt p 4 ∧ t.cell = pkt p 5 ∧ t.vec = pktVec p ∧ t.taken = 0 ∧ t.done = 0 ∧ t.aborted = false ∧
    t.preds = (pktPreds p).filter fun n => (u.train? (pktPart p) n).isSome) ∧
    w.disp.offer.contains (pktPart p) = true ∧ w.cores = u.cores ∧ w.consists = u.consists ∧ w.mem = u.mem

/-- Where a launch queue of a virtual function has entry i (R316, R317). -/
def launchEntry (s : State) (vf : BitVec 5) (i : Nat) : Nat :=
  hostAt vf.toNat (((s.part vf).qbase.extractLsb' 12 52).toNat * 2 ^ 12 + 256 * i)

/-- A consist goes on with its train's next car (R35): no core of it moves, no saved car waits for its cores, its dies are open, and free
cores would go to its train. -/
def GoesOn (u : State) (c : Consist) (t : Train) (gone : State) : Prop :=
  (∀ x ∈ c.cores, (u.core x).joins = none ∧ u.dieOpen (dieOf x) = true) ∧ restorable gone c.part = none ∧
    ∃ v p, chooseTrain gone c.part = some (v, p) ∧ v.num = t.num

end Sys2Proof.Claims

/-- The dispatcher: a launch packet is checked, and its submitter is answered (R25-R31, R317, R348, R349); a queue's doorbell and base
(R316); free cores take a car, or pre-empt (R32, R53, R54); a car is over (R35, R36); cars are aborted (R219-R221, R357), saved, restored
and resumed (R215-R218); the loader answers (R144-R146). -/
def Obligations.DispatcherEvents : Prop :=
  ∀ (s : State),
    (∀ r core latch u code, nextLaunch s = some r → r.by_ = .core core latch →
      u = { s with disp := { s.disp with launches := removeFirst r s.disp.launches } } → code = launchCode u r.by_ r.packet →
      let answer := fun (w : State) (st : Word64) => w.modLatch core latch fun l => { l with eff := l.eff.withWord st, back := some w.clk }
      (code ≠ 0 → exec .launchPacket s = .next (answer u (code.setWidth 64 <<< 56))) ∧
      (code = 0 → ∃ w num, Accepts u r.packet w num ∧ exec .launchPacket s = .next (answer w (num.setWidth 64)))) ∧
    (∀ r vf i old u a p code, nextLaunch s = some r → r.by_ = .host vf i old → a = launchEntry s vf i →
      p = (List.range 16).map (fun j => s.mem.read64 (a + 8 * j)) →
      u = State.setPart { s with disp := { s.disp with launches := removeFirst r s.disp.launches } } vf
        { s.part vf with head := (i + 1) % queueSize (s.part vf).qbase } →
      code = launchCode u (.host vf i ((s.mem.read64 (a + 0x88)).getLsbD 0)) p →
      let answer := fun (w : State) (st : Word64) => { w with mem := (w.mem.write64 (a + 0x80) st).write64 (a + 0x88) 1 }
      (code ≠ 0 → exec .launchPacket s = .next (answer u (code.setWidth 64 <<< 56))) ∧
      (code = 0 → ∃ w num, Accepts u p w num ∧ exec .launchPacket s = .next (answer w (num.setWidth 64)))) ∧
    (∀ r q u code, nextLaunch s = some r → r.by_ = .record q →
      u = { s with disp := { s.disp with launches := removeFirst r s.disp.launches } } → code = launchCode u r.by_ r.packet →
      (code ≠ 0 → exec .launchPacket s = .next (u.exception
        { q with f := q.f.set 15 ((q.f.getD 15 0 &&& 0xFFFFFF00) ||| code.setWidth 32) } 6)) ∧
      (code = 0 → ∃ w num, Accepts u r.packet w num ∧ exec .launchPacket s = .next w)) ∧
    (∀ vf value p tail, p = s.part vf → tail = (value.extractLsb' 0 16).toNat →
      let size := 2 ^ (p.qbase.extractLsb' 0 4).toNat
      (descEnabled p.desc = true → 16 ≤ size → tail < size → ∃ t, exec (.doorbell vf value) s = .next t ∧
        t.part vf = { p with tail := tail } ∧ t.disp.launches = s.disp.launches ++ (ringFrom size tail size p.tail).map
          fun i => { by_ := .host vf i false, packet := [], at_ := s.clk }) ∧
      ((descEnabled p.desc = false ∨ size < 16 ∨ size ≤ tail) → exec (.doorbell vf value) s = .next (s.logErr 4 hDie 4 0 vf))) ∧
    (∀ vf value, ((s.part vf).head = (s.part vf).tail → exec (.queueBaseWrite vf value) s =
        .next (s.setPart vf { s.part vf with qbase := value &&& 0xFFFFFFFFFFFFF00F })) ∧
      ((s.part vf).head ≠ (s.part vf).tail → exec (.queueBaseWrite vf value) s = .next (s.logErr 4 hDie 4 8 vf))) ∧
    (∀ part u, u = logMismatch s part →
      (∀ t cores lane, awaitedTrain u part = some (t, cores, lane) → exec (.coresOffered part) s = .next (formConsist u t cores lane)) ∧
      (∀ t cores lane, awaitedTrain u part = none → chooseTrain u part = some (t, cores, lane) →
        exec (.coresOffered part) s = .next (formConsist u t cores lane)) ∧
      (awaitedTrain u part = none → chooseTrain u part = none → exec (.coresOffered part) s =
        .next (preemptAll { u with disp := { u.disp with offer := u.disp.offer.filter fun p => p != part } }
          ((readyTrains u part).2.filter u.fits)))) ∧
    (∀ k c u left gone, c = s.cons k → carEnds s k = (u, left) → gone = (dissolve u k).offer c.part →
      (left = none → exec (.carComplete k) s = .next gone) ∧
      (∀ t, left = some t →
        (GoesOn u c t gone → exec (.carComplete k) s = .next
          (let r := takeCar (u.offer c.part) t
           startCar (r.1.setCore c.lead { r.1.core c.lead with irq := (r.1.core c.lead).irq.filter fun p => p.1 != 1 }) k t r.2 false)) ∧
        (¬ GoesOn u c t gone → exec (.carComplete k) s = .next gone))) ∧
    (∀ k since f, (s.cons k).mode = .frozen since → f = (s.cons k).faults.headD FaultRec.zero →
      exec (.abortTimer k) s = .next (abortTrain s (s.cons k).part (s.cons k).train f.code f.sub)) ∧
    (∀ k, (s.cons k).mode = .halted →
      exec (.haltAbort k) s = .next (abortTrain s (s.cons k).part (s.cons k).train FaultClass.software.code 0)) ∧
    (∀ k since, (s.cons k).mode = .frozen since → ∃ t, exec (.revive k) s = .next t ∧
      t.cons k = { s.cons k with mode := .saving, faults := [], saveFor := none, next := none } ∧ t.mem = s.mem) ∧
    (∀ k c, c = s.cons k → c.mode = .saving →
      (saveWatched s k = true → exec (.majorFaultSave k) s = .next (s.loseWatches fun r => c.cores.contains r.core)) ∧
      (∀ w frames, saveWatched s k = false → saveFrames s k (fun _ => false) = (w, frames) →
        let v : Saved := { consist := { c with mode := .run, next := none, lane := none }, image := c.cores.map w.core, major := c.saveFor
                           resumed := false, yields := c.preemptFor, ptc := w.ptc, frames := frames
                           mems := c.cores.map fun x => w.mem.part (savedRanges x) }
        let w := c.cores.foldl (fun w x => w.setCore x (savedCore (w.core x))) w
        let u := (dissolve { w with disp := { w.disp with saved := w.disp.saved ++ [v] } } k).offer c.part
        (c.saveFor = none → exec (.majorFaultSave k) s = .next u) ∧
        (∀ f, c.saveFor = some f → exec (.majorFaultSave k) s = .next (giveNotice u c.part
          [BitVec.ofNat 64 (2 ^ 63 + c.train.toNat * 2 ^ 32 + c.car.toNat), f.tinfo, BitVec.ofNat 64 (bit f.write 1 + bit f.kv 0),
           BitVec.ofNat 64 u.ptc])))) ∧
    (∀ part train car v, s.disp.saved.find? (fun v => v.consist.part == part && v.consist.train == train && v.consist.car == car &&
      v.restorable s) = some v → exec (.contextRestore part train car) s = .next (restore s v)) ∧
    (∀ vf value found,
      let named := fun (v : Saved) => v.consist.part == vf && v.consist.train == value.extractLsb' 32 15 &&
        v.consist.car == value.extractLsb' 0 32 && v.major.isSome
      s.disp.saved.find? named = found →
      (found = none → exec (.resume vf value) s = .next (s.logErr 4 hDie 4 0x20 vf)) ∧
      (∀ v f, found = some v → v.major = some f →
        (∀ log2 pa r w d e, s.walk vf f.tinfo.toNat = .leaf log2 pa r w d e → exec (.resume vf value) s =
          .next (State.offer { s with disp := { s.disp with
            saved := s.disp.saved.map fun x => if named x then { x with resumed := true } else x } } vf)) ∧
        ((∀ log2 pa r w d e, s.walk vf f.tinfo.toNat ≠ .leaf log2 pa r w d e) → exec (.resume vf value) s =
          .next (giveNotice s vf [BitVec.ofNat 64 (2 ^ 63 + v.consist.train.toNat * 2 ^ 32 + v.consist.car.toNat), f.tinfo,
            BitVec.ofNat 64 (bit f.write 1 + bit f.kv 0), BitVec.ofNat 64 v.ptc])))) ∧
    (∀ part n rest, (s.part part).held = n :: rest → ringFull s part = false → exec (.hostPagingCopyResume part) s =
      .next (writeNotice (s.setPart part { s.part part with held := rest }) part n)) ∧
    (∀ part n i, (∀ t, loadSteps s part n i = .ok t →
        exec (.loadOverlay part n i) s = .next { t with disp := { t.disp with loadStatus := 0 } }) ∧
      (∀ code, loadSteps s part n i = .error code →
        exec (.loadOverlay part n i) s = .next { s with disp := { s.disp with loadStatus := code } })) ∧
    (∀ part n o, s.overlay? part n = some o →
      ((∀ t ∈ s.disp.trains, t.part = part → t.overlay ≠ n) → exec (.unloadOverlay part n) s =
        .next (let u := unload s o
               { u with disp := { u.disp with loadStatus := 0 } })) ∧
      ((∃ t ∈ s.disp.trains, t.part = part ∧ t.overlay = n) →
        exec (.unloadOverlay part n) s = .next { s with disp := { s.disp with loadStatus := 0x0A } }))

/-- Partitions, storage and dies as the management cores have them (R55-R58, R164-R166, R241-R243, R322-R326). -/
def Sys2Proof.Claims.PartitionEvents : Prop :=
  ∀ (s : State),
    let logged := fun (a : Word64) (p : BitVec 5) => s.logErr 4 hDie 4 a p
    (∀ part d, descOk s part d = true → exec (.partitionDescriptorWrite part d) s =
      .next ((s.setPart part { s.part part with desc := d, mismatch := false }).offer part)) ∧
    (∀ part d, descOk s part d = false → exec (.partitionDescriptorWrite part d) s = .next (logged d part)) ∧
    (∀ part g, exec (.grantChange part g) s = .next { s with disp := { s.disp with grants := s.disp.grants ++ [(part, g)] } }) ∧
    (∀ part g, s.trainsOf part = [] → s.disp.launches = [] → grantOk s part g = true →
      settleGrant s (part, g) = s.setPart part { s.part part with grant := g }) ∧
    (∀ part g, (s.trainsOf part ≠ [] ∨ grantOk s part g = false) → settleGrant s (part, g) = logged 0 part) ∧
    (receiver s = none → exec .serviceWindowEnd s = .next { s with disp := { s.disp with
      window := s.disp.window + 130000, parts := s.disp.parts.map fun p => (p.1, { p.2 with counted := 0 }) } }) ∧
    (∀ core p, (s.core core).joins = some p → ∃ t, exec (.scrubComplete core) s = .next t ∧
      (t.core core).part = some p ∧ (t.core core).joins = none ∧ (t.core core).scrub = none ∧ (t.core core).slots = [] ∧
      (t.core core).acc = [] ∧ (t.core core).v = [] ∧ (t.core core).spill = [] ∧ (t.core core).npd = 0 ∧ (t.core core).trcctl = 0 ∧
      (t.core core).tlb = [] ∧ (t.core core).walks = []) ∧
    (∀ v value, exec (.registerWrite (.pagingBase v) value) s =
      .next (s.setPart v { s.part v with paging := value &&& 0xFFFFFFFFFFFFF000, ring := 0 })) ∧
    (∀ v, exec (.registerWrite (.headIndex v) 0) s = .next s) ∧
    (∀ key, (s.dirEntry key).state = .poisoned → (s.dirEntry key).kept = true → (s.dirEntry key).total = 0 → ∃ t,
      exec (.poisonedStorageRelease key) s = .next t ∧ (t.dirEntry key).state = .free) ∧
    (∀ a die unit, exec (.checkFailure a true die unit) s =
      .next (s.logErr 1 die unit.toNat (BitVec.ofNat 64 (plainAddr a)) (partOfAddr s a))) ∧
    (∀ a die unit, s.stores.dir.filter (fun e => e.2.holds && entryHolds s e.2 a) = [] → exec (.checkFailure a false die unit) s =
      .next (({ s with mem := s.mem.setPoison (a / 16) true } : State).logErr 2 die unit.toNat (BitVec.ofNat 64 (plainAddr a)) (partOfAddr s a))) ∧
    (∀ part va log2, s.disp.invalid = none → 16 ≤ log2 → log2 ≤ 52 → va.toNat % 2 ^ 16 = 0 → ∃ u,
      exec (.invalidationRequest part va log2) s = .next (finishInvalid u) ∧ u.disp.invalid = some (part, va.toNat, log2)) ∧
    (∀ die i, s.disp.invalid = some i → s.disp.acked.contains die = false →
      exec (.invalidationAck die) s = .next (finishInvalid { s with disp := { s.disp with acked := s.disp.acked ++ [die] } })) ∧
    (∀ old new log2, log2 ∈ [16, 21, 30, 36] → old % 2 ^ log2 = 0 → new % 2 ^ log2 = 0 → old ≠ new → s.stores.migrations = [] →
      ∃ t, exec (.pageMigration old new log2) s = .next t ∧
        ∃ ms, t.stores.migrations = ms ++ [⟨old, new, log2, 0, s.clk + 1⟩]) ∧
    (∀ m, s.stores.migrations.find? (fun m => m.due s.clk && s.lineFree m) = some m → ∃ t, exec .migrationLineCopy s = .next t ∧
      t.mem = copyLine s (m.old + m.copied) (m.new + m.copied) ∧
      t.stores.migrations = s.stores.migrations.map fun x => if x = m then
        { m with copied := m.copied + 256, at_ := s.clk + 1 + Config.extraDelay s.freeCtr } else x) ∧
    (∀ die, die < 34 → (s.die die).state = .run →
      exec (.dieResetRequest die) s = .next (s.setDie die { s.die die with state := .stopping })) ∧
    (∀ die, (s.die die).state = .stopping → ∃ t, exec (.resetAssert die) s = .next t ∧ (t.die die).state = .reset) ∧
    (∀ die, (s.die die).state = .reset → ∃ t, exec (.dieResetRelease die) s = .next t ∧
      (t.die die).state = .run ∧ (t.die die).station = s.clk ∧ (t.die die).missed = 0)

/-- Clock, boot, measurement, power and heat (R20, R230-R240, R319-R321, R327). -/
def Sys2Proof.Claims.ModuleEvents : Prop :=
  ∀ (s : State),
    exec .refreshWindowOpen s = .next { s with sys := { s.sys with window := true } } ∧
    exec .refreshWindowClose s = .next { s with sys := { s.sys with window := false } } ∧
    (∀ p, s.sys.slack = false → (∀ w, s.sys.wanted = some w → w.2.2 = false) → ∃ at_, exec (.frequencyRequest p) s =
      .next { s with sys := { s.sys with wanted := some (p, at_, false) } } ∧
      at_ % 1300 = 0 ∧ s.ptc + 1300 ≤ at_ ∧ at_ < s.ptc + 2600) ∧
    (∀ p t b, s.sys.wanted = some (p, t, b) → exec .frequencyStallStart s =
      .next { s with sys := { s.sys with wanted := some (p, t, true), stalls := s.sys.stalls ++ [(t, t + 2600)] } }) ∧
    (∀ p at_, s.sys.wanted = some (p, at_, true) → ∃ t, exec .frequencyStallEnd s = .next t ∧
      t.sys.point = p ∧ t.sys.wanted = none ∧ t.cores = s.cores ∧ t.mem = s.mem) ∧
    (∀ die lag d n, d = s.die die → n = (if s.sys.slack then min lag 16 else 0) → exec (.slipStall die lag) s =
      .next (s.setDie die { d with lag := n, missed := d.missed + (n - d.lag) })) ∧
    (∀ i : BootImage, s.sys.boot = .off →
      exec (.powerOn i) s = .next { s with sys := { s.sys with image := i.bytes, boot := .fetched } }) ∧
    (∀ (i : BootImage) t, s.sys.boot = .failed t → t + 1300000000 ≤ s.ptc →
      exec (.bootRetry i) s = .next { s with sys := { s.sys with image := i.bytes, boot := .fetched } }) ∧
    (s.sys.boot = .fetched → imageOk s s.sys.image = true → ∃ t, exec .imageAccept s = .next t ∧
      t.sys.boot = .done ∧ t.sys.ptc = 0 ∧ t.disp.started = true ∧ t.disp.table = s.sys.fused ∧
      Tbl.get 0 t.sys.mr 0 = sha3_512 (bytes64 (Tbl.get 0 s.sys.mr 0) ++
        bytes64 (sha3_512 (s.sys.image.take (0xA60 + bytesAt s.sys.image 8 8))))) ∧
    (s.sys.boot = .fetched → imageOk s s.sys.image = false → exec .imageAccept s = .next { s with sys := { s.sys with
      image := [], failures := s.sys.failures + 1, boot := .failed s.ptc } }) ∧
    (∀ r d, r ≠ 0 → exec (.measurementExtend r d) s = .next { s with sys := { s.sys with
      mr := Tbl.set s.sys.mr r.toNat (sha3_512 (bytes64 (Tbl.get 0 s.sys.mr r.toNat) ++ bytes64 d)) } }) ∧
    (∀ n, exec (.quote n) s = .next { s with sys := { s.sys with quotes := s.sys.quotes ++ [Config.mlDsaSign (bytes64 n ++
      ((List.range 8).flatMap fun i => bytes64 (Tbl.get 0 s.sys.mr i)) ++ toBytes 8 s.sys.serial.toNat)] } }) ∧
    (∀ die st, s.consists.any (fun e => e.2.cores.any fun x => dieOf x == die) = false →
      ∃ t, exec (.powerState die st) s = .next t ∧ (t.die die).power = st) ∧
    (∀ temps : List (Nat × Int), (∀ p ∈ temps, p.2 < 105) → exec (.temperatureSample temps) s = .next
      (coolStep (temps.foldl heatDie { s with sys := { s.sys with tempAt := s.sys.tempAt + 1300000 } })))

/-- What the management cores and the boot ROM do to the partitions and to the module. -/
def Obligations.ManagementEvents : Prop := PartitionEvents ∧ ModuleEvents

/-- The Turntable at the H-die: slots and rotations (R287, R301), returned messages (R295, R297), what a peer sends under its numbers
(R289, R292, R293, R299, R300, R303), unreachable peers (R301), the calendar's change (R304), and the berth table (R288, R322). -/
def Obligations.TurntableEvents : Prop :=
  ∀ (s : State),
    let next := fun (w : State) (peer seq : Nat) (h : State → State) =>
      h (w.setPeer peer { w.peer peer with inSeq := seq + 1, waiting := [] })
    let awaited := fun (peer seq : Nat) => (s.peer peer).inSeq = seq ∧ (s.peer peer).waiting = []
    let hopAcked := fun (w : State) (m : Message) (to_ : Nat) => w.sendItem to_ 160 (.hopAck m.src m.dst m.seq)
    (s.tt.state ≠ .dark → ∀ checks,
      (s.tt.slot + 1 < s.tt.count →
        exec (.slotOccurrence checks) s = .next (beginSlot s (s.tt.slot + 1) (s.tt.slotAt + slotUnits) checks)) ∧
      (s.tt.count ≤ s.tt.slot + 1 →
        exec (.slotOccurrence checks) s = .next (beginSlot (endRotation s) 0 (s.tt.slotAt + slotUnits) checks))) ∧
    (∀ id m, s.tt.staged.find? (fun m => m.id == id && m.sent.isNone) = some m → ∃ u : State, exec (.lateReturn id) s = .next (u.retireStaged m) ∧
      u.tt.returns = s.tt.returns ++ [(m.msg, true)] ∧ u.tt.late = s.tt.late + 1 ∧
      u.tt.staged = s.tt.staged.filter fun x => x.id != m.id) ∧
    (∀ m, m.dst = s.tt.pkg → awaited m.src m.seq →
      (m.relay = none → exec (.messageArrival m) s = .next (next s m.src m.seq fun w => messageIn w m)) ∧
      (∀ r, m.relay = some r →
        exec (.messageArrival m) s = .next (hopAcked (next s m.src m.seq fun w => messageIn w m) m r))) ∧
    (∀ m, m.dst = s.tt.pkg → m.seq < (s.peer m.src).inSeq → m.relay = none → exec (.messageArrival m) s = .next s) ∧
    (∀ m, m.dst ≠ s.tt.pkg →
      (s.tt.hasRelayed m = true → exec (.messageArrival m) s = .next (hopAcked s m m.src)) ∧
      (s.tt.hasRelayed m = false → ∃ u x, exec (.messageArrival m) s = .next (hopAcked u m m.src) ∧ u.tt.relays = s.tt.relays ++ [x] ∧
        x.msg = m ∧ x.hop = m.dst ∧ x.whole = s.ptc ∧ x.sent = none)) ∧
    (∀ (peer : BitVec 6) seq item ack arr rel, item ≠ .ackOnly → (∀ a b c, item ≠ .hopAck a b c) → ack ≤ (s.peer peer.toNat).acked →
      awaited peer.toNat seq → exec (.serviceItemArrival peer seq item ack arr rel) s =
        .next (next (s.credit peer.toNat arr rel) peer.toNat seq fun w => itemIn w peer.toNat item)) ∧
    (∀ (peer : BitVec 6) seq src dst n ack arr rel, ack ≤ (s.peer peer.toNat).acked →
      exec (.serviceItemArrival peer seq (.hopAck src dst n) ack arr rel) s = .next (hopAckIn (s.credit peer.toNat arr rel) src dst n)) ∧
    (∀ op, awaited op.src op.seq → exec (.remoteOperation op) s = .next (next s op.src op.seq fun w => remotePerform w op)) ∧
    (∀ (peer : BitVec 6) seq n, awaited peer.toNat seq →
      exec (.freezeNotice peer seq n) s = .next (next s peer.toNat seq fun w => w.noticeIn n)) ∧
    (∀ (peer : BitVec 6) seq, awaited peer.toNat seq →
      exec (.drainMarker peer seq) s = .next (next s peer.toNat seq fun w => w.markerIn peer.toNat)) ∧
    (∀ (peer : BitVec 6), exec (.peerUnreachable peer none) s =
      .next (s.setPeer peer.toNat { s.peer peer.toNat with dead := true, exchange := some s.ptc })) ∧
    (∀ (peer : BitVec 6) n, (s.peer peer.toNat).exchange.isSome = true →
      exec (.peerUnreachable peer (some n)) s = .next (s.settle peer.toNat n) ∧
      exec (.sequenceExchangeTimeout peer) s = .next (s.settle peer.toNat (s.peer peer.toNat).acked)) ∧
    (∃ t, exec .calendarDark s = .next t ∧ t.tt.state = .dark ∧ t.tt.up = 0 ∧ t.tt.lit = 0) ∧
    (∀ relocked, ∃ t, exec (.calendarTakeover relocked) s = .next t ∧ t.tt.cal = s.tt.shadow ∧ t.tt.count = s.tt.shCount ∧
      t.tt.state = .run ∧ t.tt.rot = s.tt.takeover - 1 ∧ t.tt.slotAt = s.tt.darkAt + darkUnits - slotUnits) ∧
    (∀ i v old new, old = berthPart (Tbl.get 0 s.tt.berths i.toNat) → new = berthPart v →
      let refused := v.getLsbD 9 = true ∨ (∃ p, old = some p ∧ (engaged s p = true ∨ ∃ q, new = some q ∧ p ≠ q)) ∨
        ∃ p, new = some p ∧ engaged s p = true
      (refused → exec (.berthTableWrite i v) s = .next (s.logErr 4 hDie 4 (BitVec.ofNat 64 i.toNat) (v.extractLsb' 10 5))) ∧
      (¬ refused → exec (.berthTableWrite i v) s =
        .next { s with tt := { s.tt with berths := Tbl.set s.tt.berths i.toNat v } }))

/-! ## Exceptions -/

/-- A word that fails a decode check raises the illegal-instruction fault with its subcode (R122, R204, R309). -/
def Obligations.IllegalWordFaults : Prop :=
  ∀ (s v : State) (sub : BitVec 8), s.consistOf s.cur.1 = some s.curCons → v = performDue s s.curCons → firstFaults v = [] →
    ∃ f, exec (.illegalWord sub) s = .next { raise s s.curCons f with note := .faulted f } ∧
      f.cls = .illegal ∧ f.sub = sub ∧ f.tinfo = 0 ∧ f.core = v.cur.1 ∧ f.seq = v.cur.2

/-- Taking an exception that traps (R204-R208), where no other fault is found: every sequencer of the consist saves its place, has cause
and tinfo, and begins its handler at the boundary; nothing else of it changes. A hold in progress is over first (R50). -/
def Obligations.TrapEntry : Prop :=
  ∀ (s u : State) (k : Nat) (f : FaultRec) (c : Consist), u = endHold s k → c = u.cons k →
    f.cls.prio ≠ 1 → f.cls ≠ .majorTrans → c.trapT = none → (∀ g ∈ ((performDue u k).cons k).faults, g = f) →
    c.relist = [] → (∀ l ∈ c.latches, shadowMinor c.ttc l = none) → c.cores.Nodup → (∀ cq ∈ c.seqs, handlerOk u cq.1 cq.2 = true) →
    let t := raise s k f
    (t.cons k).mode = .run ∧ (t.cons k).trapT = some c.ttc ∧ (t.cons k).ttc = c.ttc ∧
    ∀ cq ∈ c.seqs, ∃ x : Word64,
      (let q := u.seq cq.1 cq.2
       t.seq cq.1 cq.2 = { q with
        tcause := x, tinfo := f.tinfo, saved := some q.at_, at_ := q.at_.begin (q.tvec.extractLsb' 0 25).toNat c.ttc }) ∧
      x.extractLsb' 56 8 = BitVec.ofNat 8 f.code ∧ x.extractLsb' 48 8 = f.sub ∧ x.extractLsb' 43 5 = BitVec.ofNat 5 (c.pos f.core) ∧
      x.getLsbD 42 = (f.seq == .xs) ∧ x.getLsbD 41 = (f.core == cq.1 && f.seq == cq.2) ∧ x.extractLsb' 38 3 = f.source ∧
      x.extractLsb' 0 38 = 0

/-- Faults that freeze: a violation or a double fault, and any other fault while a handler runs (R208, R219, R220); and a major
translation fault, which stops the consist for a context save (R216). A hold in progress is over first (R50). -/
def Obligations.Freezes : Prop :=
  ∀ (s u : State) (k : Nat) (f : FaultRec) (c : Consist), u = endHold s k → c = u.cons k →
    (∀ g ∈ ((performDue u k).cons k).faults, g = f) →
    let t := raise s k f
    let frozenBy := fun (g : FaultRec) => (t.cons k).mode = .frozen u.ptc ∧ (t.cons k).faults = [g] ∧ t.mem = u.mem ∧
      ∀ x ∈ c.cores, t.core x = { u.core x with
        frozen := some (if x = g.core then ⟨g.cls, g.sub, g.tinfo, g.syll⟩ else ⟨.aborted, 0, 0, g.syll⟩) }
    (f.cls.prio = 1 → frozenBy f) ∧
    (f.cls.prio ≠ 1 → c.trapT.isSome = true →
      frozenBy { f with cls := .doubleFault, sub := 0, tinfo := 0, latch := none }) ∧
    (f.cls = .majorTrans → c.trapT = none → (t.cons k).mode = .saving ∧ (t.cons k).saveFor = some f ∧ t.mem = u.mem ∧
      t.cores = u.cores)

/-- The return from an exception (R212): each sequencer's registers are what its frame holds, its place is the one it saved, and its
next word issues at z plus the frame's cycles. -/
def Obligations.TrapReturn : Prop :=
  ∀ (s : State) (k : Nat) (c : Consist) (T : Nat), c = s.cons k → c.trapT = some T → c.cores.Nodup →
    let t := resumeAt s k
    (t.cons k).trapT = none ∧ (t.cons k).parked = [] ∧ (t.cons k).ttc = c.ttc ∧
    ∀ cq ∈ c.seqs, ∀ base, base = privAt cq.1 (s.seq cq.1 cq.2).tframe.toNat →
      let q := t.seq cq.1 cq.2
      (∀ i, 0 < i → i < 64 → ¬ (56 ≤ i ∧ i ≤ 61) → Tbl.get 0 q.s i = s.mem.read64 (base + 0x40 + 8 * i)) ∧
      q.p = (s.mem.read64 (base + 0x240)).setWidth 16 ∧
      (∀ i < 31, Tbl.get nullCap q.h i = s.mem.readCap (base + 0x300 + 16 * i)) ∧
      (∀ i < 4, (Tbl.get 0 q.lc i).toNat = leNat (s.mem.read (base + 0x288 + 2 * i) 2)) ∧ q.saved = none ∧
      q.tvec = (s.seq cq.1 cq.2).tvec ∧ q.tframe = (s.seq cq.1 cq.2).tframe ∧
      (∀ p, (s.seq cq.1 cq.2).saved = some p → p.stop = .none → p.pend = none →
        ((s.mem.read64 (base + 8)).extractLsb' 0 25).toNat = p.wordAt % 2 ^ 25 →
        s.gapAt p.wordAt ≤ c.ttc + ((s.mem.read64 (base + 8)).extractLsb' 32 32).toNat →
        q.at_.pc = p.pc ∧ s.dueAt q.at_ = some (c.ttc + ((s.mem.read64 (base + 8)).extractLsb' 32 32).toNat))

/-- The trap frame of a sequencer (R209): cause, the next word's cycles and place, the TTC, tinfo, the scalar registers, predicates, branch
target registers and handles, each at its place in private memory at tframe; nothing outside its 40 KiB changes. -/
def Obligations.TrapFrame : Prop :=
  ∀ (s : State) (core : Nat) (q : SeqId) (t : Nat) (ls : List Latch) (list : List FaultRec) (sq : Seq) (base : Nat) (u : State),
    sq = s.seq core q → base = privAt core sq.tframe.toNat → u = (writeFrame s core q t ls list).1 →
    sq.tframe.toNat % 64 = 0 → list.length ≤ 16 →
    u.mem.read64 base = sq.tcause ∧
    (∀ due, s.dueAt sq.at_ = some due →
      u.mem.read64 (base + 0x8) = BitVec.ofNat 64 ((due - t) * 2 ^ 32 + sq.at_.wordAt % 2 ^ 25)) ∧
    u.mem.read64 (base + 0x10) = BitVec.ofNat 64 t ∧ u.mem.read64 (base + 0x18) = sq.tinfo ∧
    (∀ i < 64, u.mem.read64 (base + 0x40 + 8 * i) = if i = 0 ∨ (56 ≤ i ∧ i ≤ 61) then 0 else Tbl.get 0 sq.s i) ∧
    u.mem.read64 (base + 0x240) = (sq.p ||| 1).setWidth 64 ∧
    (∀ i < 8, u.mem.read64 (base + 0x248 + 8 * i) = BitVec.ofNat 64 (bregWord t (sq.breg (BitVec.ofNat 3 i)))) ∧
    (∀ i < 4, leNat (u.mem.read (base + 0x288 + 2 * i) 2) = (Tbl.get 0 sq.lc i).toNat) ∧
    (∀ i < 31, u.mem.readCap (base + 0x300 + 16 * i) = Tbl.get nullCap sq.h i) ∧
    (∀ a, a < base ∨ base + 0xA000 ≤ a → u.mem.byte a = s.mem.byte a) ∧
    u = { s with mem := u.mem }

/-! ## Encodings -/

/-- Words as the spec's own examples print them, and what they say there: SALU (R109), NOP (R376) and the reference entries. -/
noncomputable def Sys2Proof.Claims.sampleWords : List (SeqId × CoreClass × Word96 × Instr) :=
  let g : Guard := ⟨0, 0, 0⟩
  [ (.xs, .array, 0x103021461C00000000000000, .saluAdd ⟨3, 0, 2⟩ 5 6 7),
    (.as, .array, 0x0007F0000000000000000000, .nop ⟨0, 0, 127⟩),
    (.as, .array, 0x040003401800000000000000, .sysr g 13 0x18),
    (.as, .array, 0x020010000000000000000700, .trapSw ⟨0, 0, 1⟩ 7),
    (.xs, .array, 0x120001461C00000000000000, .sdivDiv g 5 6 7),
    (.xs, .array, 0x130001461C80300000000000, .sfpFma g 5 6 7 8),
    (.xs, .array, 0x140000D40011900000000000, .psetNe g 3 20 0 1),
    (.xs, .array, 0x160001430100000000001000, .ldH g 5 3 16),
    (.xs, .array, 0x2000000000FFFFFFFFFFA000, .pbrO g 0 (-0x60)),
    (.as, .array, 0x213030000000000000000000, .brGo ⟨3, 0, 3⟩ 0),
    (.xs, .array, 0x260002050100000000000200, .loopS g 1 5 2),
    (.xs, .array, 0x300000030000000000000800, .signalT g 3 8),
    (.as, .array, 0x460002040100800000000000, .dropB g 4 1 2),
    (.as, .array, 0x4C00008400004F8038000000, .sealT g 1 1 0x9F007000),
    (.as, .array, 0x5400030C488C0000000031F0, .tcopyR g 6 3 2 4 2 12 0 0 0 0 0x31F0),
    (.xs, .array, 0x630000000A03101FC2070000, .maccR g 10 3 64 127 1 0 7),
    (.xs, .array, 0x700000C10800051000000000, .valuAdd g 3 1 2 5 0 1 0),
    (.xs, .attention, 0x7E00000300000900E0A00000, .vmovsLane g 3 9 7 5),
    (.xs, .attention, 0x900001870000000000000000, .astartGo g 6 7 0),
    (.as, .array, 0xA000010A30E08F0000000040, .pamoCas g 2 5 6 7 3 3 0x40) ]

/-- Micro-operations of the decode program of R252. -/
noncomputable def Sys2Proof.Claims.sampleMicro : List (Word64 × Instr) :=
  [ (0x1C00000000000000, .microWalk), (0x2C80280000000000, .microBnz 0 2 10), (0x2048000000000000, .microGath 1 2),
    (0x040401FCC0000000, .microQk 0 1 0 127 3), (0x18C881FCC0000000, .microPv 3 2 64 127 3), (0x2481FD0000000000, .microNorm 64 127 1 0) ]

/-- The words of the examples decode to what they stand for. -/
def Obligations.WordsDecode : Prop :=
  (∀ row ∈ sampleWords, decode (Ctx.alone row.1 row.2.1) row.2.2.1 0 = .ok row.2.2.2) ∧
  (∀ row ∈ sampleMicro, decodeMicro row.1 = some row.2)

/-- Decoding gives back every instruction from its encoding (R106, R109, R110, R120, R250): a word wherever its fields pass the checks
of R122 and its opcode may be issued, with its literal after it, and a micro-operation. -/
def Obligations.DecodeEncode : Prop :=
  (∀ (cx : Ctx) (i : Instr) (g : Guard) (lit : Word96), guardField i = some g → WellFormed cx i →
    mayIssue cx (opcodeOf (encodeWord i)).toNat = true → literalOf i = none ∨ literalOf i = some lit →
    decode cx (encodeWord i) lit = .ok i) ∧
  (∀ i : Instr, isMicro i = true → decodeMicro (encodeMicro i) = some i)

/-- Nothing of a word is dropped (R106, R109, R114, R250): what decodes is exactly the encoding of what it decodes to, its guard and gap as
they stand in the word, its literal the word after it, its fields within the checks of R122. -/
def Obligations.DecodedWordsAreExact : Prop :=
  (∀ (cx : Ctx) (w lit : Word96) (i : Instr), decode cx w lit = .ok i →
    encodeWord i = w ∧ guardField i = some (guardOf w) ∧ WellFormed cx i ∧ mayIssue cx (opcodeOf w).toNat = true ∧
      (literalOf i = none ∨ literalOf i = some lit)) ∧
  (∀ (w : Word64) (i : Instr), decodeMicro w = some i → encodeMicro i = w ∧ isMicro i = true)

/-- The reserved opcodes of R121. -/
def Sys2Proof.Claims.reservedOpcode (op : Nat) : Prop :=
  (0x0A ≤ op ∧ op ≤ 0x0F) ∨ (0x1A ≤ op ∧ op ≤ 0x1F) ∨ (0x28 ≤ op ∧ op ≤ 0x2F) ∨ (0x38 ≤ op ∧ op ≤ 0x3F) ∨ (0x4D ≤ op ∧ op ≤ 0x4F) ∨
  (0x59 ≤ op ∧ op ≤ 0x5F) ∨ (0x65 ≤ op ∧ op ≤ 0x6F) ∨ (0x87 ≤ op ∧ op ≤ 0x8F) ∨ (0x93 ≤ op ∧ op ≤ 0x9F) ∨ (0xA4 ≤ op ∧ op ≤ 0xAF) ∨
  (0xBD ≤ op ∧ op ≤ 0xFD)

/-- R121: the opcodes it lists, and no others but the markers of sections, are reserved, wherever the word stands; such a word stands as the
event that raises the illegal-instruction fault with subcode 0x01 in its place. -/
def Obligations.ReservedOpcodes : Prop :=
  (∀ (cx : Ctx) (w lit : Word96), reservedOpcode (opcodeOf w).toNat ↔ decode cx w lit = .error 0x01) ∧
  (∀ (s : State) (core : Nat) (q : SeqId) (p : Place), p = (s.seq core q).at_ → p.pend = none →
    reservedOpcode (opcodeOf (s.mem.iword p.pc)).toNat → decodeAt s core q = .illegalWord 0x01) ∧
  (∀ (s v : State), s.consistOf s.cur.1 = some s.curCons → v = performDue s s.curCons → firstFaults v = [] →
    exec (.illegalWord 0x01) s = .next { raise s s.curCons (v.mkFault .illegal 0x01 0) with note := .faulted (v.mkFault .illegal 0x01 0) })

/-! ## Steps -/

/-- A step runs the decoded instruction (R107, R122): of the consist whose move it is, one sequencer's word has come, and nothing is late,
failed or interrupts; of an attention sequencer, its micro-operation; of the outside, the first event. -/
def Obligations.StepRunsDecoded : Prop :=
  (∀ (s : State) (i : Instr) (l : List Instr), s.inputs = i :: l → step s = exec i { s with inputs := l }) ∧
  (∀ s : State, s.inputs = [] → dispatcherEvent s = none → unitEvent s = none → sboxMove s = none →
    (∀ (x : Nat) (w : Word64) (i : Instr), dueMicro s = some (x, some w) → decodeMicro w = some i →
      step s = exec i { s with cur := (x, .xs) }) ∧
    (∀ (k core : Nat) (q : SeqId) (p : Place) (before after : List Nat), dueMicro s = none →
      (∀ j ∈ consIds s, fencesStale s j = false) →
      consIds s = before ++ k :: after → (∀ j ∈ before, consMove s j = none) → s.sequencers = true →
      (s.cons k).mode = .run → slipStalled s (s.cons k) = false → s.stalled = false → mustEnter s k = false →
      dueWords s k = [(core, q)] → detected s k = [] → lateItems s k = [] → takeable s k = false →
      p = (s.seq core q).at_ → p.pend = none →
      (∀ i : Instr, decode (ctxAt s core q) (s.mem.iword p.pc) (s.mem.iword (p.pc + 3)) = .ok i →
        step s = exec i { s with cur := (core, q), note := .none }) ∧
      (∀ sub : BitVec 8, decode (ctxAt s core q) (s.mem.iword p.pc) (s.mem.iword (p.pc + 3)) = .error sub →
        step s = exec (.illegalWord sub) { s with cur := (core, q), note := .none })))

/-- Nothing stops the machine: a word answers a next state on every core that runs a car, a micro-operation on every core whose
attention sequencer runs an entry, an event always; and a step always, whatever the state, with events alone waiting outside. -/
def Obligations.NothingStops : Prop :=
  (∀ (i : Instr) (s : State),
    ((guardField i).isSome ∨ (∃ sub, i = .illegalWord sub) → (s.consistOf s.cur.1).isSome) →
    (isMicro i = true → (s.core s.cur.1).attnEntry.isSome) → ∃ t, exec i s = .next t) ∧
  (∀ s : State, (∀ i ∈ s.inputs, guardField i = none ∧ isMicro i = false ∧ ∀ sub, i ≠ .illegalWord sub) → ∃ t, step s = .next t)

/-- Every step keeps the canonical form of memory: whatever the state and whatever moves next, word, micro-operation, event, unit or time
alone, what is written is listed once, in rising order, with no byte, tag or poison mark that an unlisted place reads as (log 2). -/
def Obligations.MemoryStaysCanonical : Prop :=
  ∀ s t : State, s.mem.wf = true → step s = .next t → t.mem.wf = true

/-! ## Results and frames -/

/-- What a due latch puts into a scalar register: nothing where it reports a fault or is held for replay (R206, R212). -/
def Sys2Proof.Claims.givesS (core : Nat) (q : SeqId) (r : BitVec 6) (l : Latch) : Option Word64 :=
  match l.eff with
  | .setS d x => if l.core = core ∧ l.seq = q ∧ d = r ∧ l.err = none ∧ l.pend = false then some x else none
  | _ => none

/-- What a due latch puts into a handle register. -/
def Sys2Proof.Claims.givesH (core : Nat) (q : SeqId) (r : BitVec 5) (l : Latch) : Option Cap :=
  match l.eff with
  | .setH d x => if l.core = core ∧ l.seq = q ∧ d = r ∧ l.err = none ∧ l.pend = false then some x else none
  | _ => none

/-- What a due latch puts into a predicate register. -/
def Sys2Proof.Claims.givesP (core : Nat) (q : SeqId) (r : BitVec 4) (l : Latch) : Option Bool :=
  match l.eff with
  | .setP d x => if l.core = core ∧ l.seq = q ∧ d = r ∧ l.err = none ∧ l.pend = false then some x else none
  | _ => none

/-- Whether a due latch stores to the byte at an address: a store's bytes and a capability's sixteen, where a page that migrates has them
now (R166); a row of a drain; what a TLD or GATHER puts into an operand slot. -/
def Sys2Proof.Claims.storesTo (s : State) (a : Nat) (l : Latch) : Prop :=
  match l.eff with
  | .store _ segs => ∃ g ∈ s.segsNow segs, g.at_ ≤ a ∧ a < g.at_ + g.bytes.length
  | .storeCap _ _ b _ => s.forward b ≤ a ∧ a < s.forward b + 16
  | .drainRow d i => let w := (fmtBytes d.fmt).getD 1
    d.base + i * d.n * w ≤ a ∧ a < d.base + i * d.n * w + d.n * w
  | .load n x => ∃ g ∈ x.segs, slotAt l.core n.toNat g.1 ≤ a ∧ a < slotAt l.core n.toNat g.1 + g.2.length
  | _ => False

/-- What one result does where it goes (R59, R128, R154, R156, R160, R163, R207, R209, R213, R340, R374, R397, R405): a vector register by
its lanes or by bits of them (R413), coordinates, records, branch registers, loop counters and masks, a special register with the bits
that are forced, a token, a slot, a column of the accumulators, a status entry, the queue entry that was reserved for it, and the map of
parked registers (R421, R422), with no byte of memory changed; a store, a capability, an operand slot's bytes (R112), a row of a drain
(R130); a handle that is given up (R435) or goes back to hq (R408); and DLAUNCH's packet (R348). -/
def Sys2Proof.Claims.EffectsPerform : Prop :=
  ∀ (s t : State) (k c : Nat) (l : Latch), t = perform s k l → c = l.core →
    (∀ r m x, l.eff = .setV r m x → t.mem = s.mem ∧ (∀ r', r' ≠ r → (t.core c).vreg r' = (s.core c).vreg r') ∧
      ∀ i < 128, lane ((t.core c).vreg r) i = if m.getLsbD i then lane x i else lane ((s.core c).vreg r) i) ∧
    (∀ r x, l.eff = .setX r x → t.mem = s.mem ∧ ∀ n, (t.core c).xreg n = if n = r.toNat then x else (s.core c).xreg n) ∧
    (∀ r x, l.eff = .addX r x →
      t.mem = s.mem ∧ ∀ n, (t.core c).xreg n = if n = r.toNat then (s.core c).xreg n + x else (s.core c).xreg n) ∧
    (∀ r g, l.eff = .setG r g → t.mem = s.mem ∧ ∀ n, (t.core c).geom n = if n = r then g else (s.core c).geom n) ∧
    (∀ r b, l.eff = .setB r b → t.mem = s.mem ∧ ∀ n, (t.seq c l.seq).breg n = if n = r then b else (s.seq c l.seq).breg n) ∧
    (∀ j n, l.eff = .setLc j n → t.mem = s.mem ∧
      ∀ i, Tbl.get 0 (t.seq c l.seq).lc i = if i = j then n else Tbl.get 0 (s.seq c l.seq).lc i) ∧
    (∀ n x, l.eff = .setSys n x → t.mem = s.mem ∧
      let q := s.seq c l.seq
      let e := s.core c
      let put := fun (m : Nat) (mask old : Word64) => if n.toNat = m then x &&& mask else old
      (t.seq c l.seq).tvec = put 0x08 0xC000000001FFFFFF q.tvec ∧ (t.seq c l.seq).tframe = put 0x0A 0xFFFC0 q.tframe ∧
      (t.seq c l.seq).stbase = put 0x10 (~~~15) q.stbase ∧ (t.seq c l.seq).stlimit = put 0x11 (~~~15) q.stlimit ∧
      (t.core c).heapbase = put 0x12 (~~~0xFFFF) e.heapbase ∧ (t.core c).heaplimit = put 0x13 (~~~0xFFFF) e.heaplimit ∧
      (t.core c).heapoffset = put 0x14 (~~~0xFFFF) e.heapoffset ∧ (t.core c).npd = put 0x15 0xFFFFFF00 e.npd ∧
      (t.core c).timer = put 0x18 (-1) e.timer ∧ (t.core c).armed = (if n.toNat = 0x18 then x != 0 else e.armed) ∧
      (t.core c).trcctl = put 0x1A (~~~0xF8) e.trcctl) ∧
    (∀ n x, l.eff = .tokSet n x → t.mem = s.mem ∧ ∀ m, (t.core c).token m = if m = n then x else (s.core c).token m) ∧
    (∀ n m, l.eff = .tokDec n m → t.mem = s.mem ∧ ∀ i, ((t.core c).token i).toNat =
      if i = n then ((s.core c).token i).toNat - m else ((s.core c).token i).toNat) ∧
    (∀ d n, l.eff = .signal d n → (s.core d).deaf.contains n.toNat = false → t.mem = s.mem ∧
      ∀ m, ((t.core d).token m).toNat = if m = n then min (((s.core d).token m).toNat + 1) 0xFFFF else ((s.core d).token m).toNat) ∧
    (∀ n x, l.eff = .slot n x → t.mem = s.mem ∧ ((t.core c).slot n).state = x ∧ ∀ m, m ≠ n → (t.core c).slot m = (s.core c).slot m) ∧
    (∀ ms, l.eff = .masks ms → t.mem = s.mem ∧ (t.core c).masks = ms) ∧
    (∀ r m, l.eff = .setM r m → t.mem = s.mem ∧ ∀ n, (t.core c).mreg n = if n = r then m else (s.core c).mreg n) ∧
    (∀ col x, l.eff = .accCol col x → col < 1024 → t.mem = s.mem ∧
      ∀ i j, j < 1024 → (t.core c).accAt i j = if j = col ∧ i < 128 then lane x i else (s.core c).accAt i j) ∧
    (∀ n x, l.eff = .status n x → t.mem = s.mem ∧ ∀ m, Tbl.get 0 (t.core c).status m = if m = n then x else Tbl.get 0 (s.core c).status m) ∧
    (l.eff = .satFlag → t.mem = s.mem ∧ (Tbl.get 0 (t.core c).status 16).getLsbD 2 = true) ∧
    (∀ q id x, l.eff = .fill q id x → t.mem = s.mem ∧ ∀ p, (t.core c).dqs p = if p = q then
      ((s.core c).dqs q).map fun e => if e.id = id then { e with v := x } else e else (s.core c).dqs p) ∧
    (∀ id x, l.eff = .fillH id x → t.mem = s.mem ∧
      (t.core c).hq = (s.core c).hq.map fun e => if e.id = id then { e with v := x } else e) ∧
    (∀ r m b x, l.eff = .setVPart r m b x → t.mem = s.mem ∧ (∀ r', r' ≠ r → (t.core c).vreg r' = (s.core c).vreg r') ∧
      ∀ i < 128, lane ((t.core c).vreg r) i = if m.getLsbD i then (lane ((s.core c).vreg r) i &&& ~~~b) ||| (lane x i &&& b)
        else lane ((s.core c).vreg r) i) ∧
    (∀ x segs, l.eff = .store x segs → t.cores = s.cores ∧ t.mem = (s.segsNow segs).foldl (fun m g => m.write g.at_ g.bytes) s.mem) ∧
    (∀ x off b h, l.eff = .storeCap x off b h → t.cores = s.cores ∧ t.mem = s.mem.writeCap (s.forward b) h) ∧
    (∀ n x, l.eff = .load n x → t.mem = x.segs.foldl (fun m g => m.setBytes (slotAt c n.toNat g.1) g.2) s.mem ∧
      ∃ o, (t.core c).slot n = o ∧ o.state = .claimedFilled ∧ o.rows = x.rows ∧ o.cols = x.cols ∧ o.fmt = x.fmt ∧
        ∀ m, m ≠ n → (t.core c).slot m = (s.core c).slot m) ∧
    (∀ d i, l.eff = .drainRow d i → let w := (fmtBytes d.fmt).getD 1
      t.mem = s.mem.write (d.base + i * d.n * w) (((s.core c).accRow (d.q + i) d.col d.n).flatMap fun v =>
        toBytes w (convertAcc d.fmt d.rm.toNat d.sat v).1)) ∧
    (∀ v col, l.eff = .park v col → t.mem = s.mem ∧ (t.core c).spill = (s.core c).spill ++ [(v.toNat, col)]) ∧
    (∀ v col n, l.eff = .unpark v col n → t.mem = s.mem ∧
      (t.core c).spill = (s.core c).spill.filter fun p => !decide (p.1 = v.toNat)) ∧
    (∀ h, l.eff = .returnHq h → t.mem = s.mem ∧ (t.core c).hqHeld = (s.core c).hqHeld - 1 ∧ (t.core c).hq = ⟨l.id, .val h⟩ :: (s.core c).hq) ∧
    (∀ h, l.eff = .drop h → t = s.dropWeight c h) ∧
    (∀ a n, l.eff = .launch a n → s.mem.firstPoison (privAt c a) 128 = none → t.mem = s.mem ∧ t.cores = s.cores ∧
      t.disp.launches = s.disp.launches ++ [{ by_ := .core c n, at_ := s.clk + s.dist cDie hDie
                                              packet := (List.range 16).map fun i => s.mem.read64 (privAt c (a + 8 * i)) }])

/-- What performs in a cycle (R7, R128): each scalar, handle and predicate register takes the value of the last due latch of its own
sequencer that names it, and else stands as it was; a byte of memory to which no due latch stores is as it was; every other kind of
result, by itself. -/
def Obligations.DueResultsPerform : Prop :=
  EffectsPerform ∧ ∀ (s : State) (k : Nat) (due : List Latch), due = (s.cons k).latches.filter (Latch.ripe (s.cons k).ttc) →
    (∀ (c : Nat) (q : SeqId) (r : BitVec 6), Tbl.get 0 ((performDue s k).seq c q).s r.toNat =
      ((due.filterMap (givesS c q r)).getLast?).getD (Tbl.get 0 (s.seq c q).s r.toNat)) ∧
    (∀ (c : Nat) (q : SeqId) (r : BitVec 5), Tbl.get nullCap ((performDue s k).seq c q).h r.toNat =
      ((due.filterMap (givesH c q r)).getLast?).getD (Tbl.get nullCap (s.seq c q).h r.toNat)) ∧
    (∀ (c : Nat) (q : SeqId) (r : BitVec 4), ((performDue s k).seq c q).p.getLsbD r.toNat =
      ((due.filterMap (givesP c q r)).getLast?).getD ((s.seq c q).p.getLsbD r.toNat)) ∧
    (∀ a : Nat, (∀ l ∈ due, ¬ storesTo s a l) → (performDue s k).mem.byte a = s.mem.byte a)

/-- Opcodes of words that put results into registers, coordinates, records, tokens' counts or masks and store nothing: SYSR and SYSW;
SALU to LIT; PBR; LOOP and REPEAT; TOKSET; CAPSET, CAPPERM and CAPOFF; MOVH and MERGE; GSET to CADD; TSTAT; the vector words but VLD and
VST; the mask words. -/
def Sys2Proof.Claims.registerOps : List Nat :=
  [0x04, 0x05, 0x10, 0x11, 0x12, 0x13, 0x14, 0x15, 0x20, 0x26, 0x27, 0x32, 0x40, 0x41, 0x42, 0x47, 0x48, 0x50, 0x51, 0x52, 0x70, 0x71,
   0x72, 0x73, 0x74, 0x75, 0x76, 0x77, 0x78, 0x79, 0x7A, 0x7B, 0x7E, 0x7F, 0x80, 0x81, 0x82, 0x83, 0x84]

/-- The frame of a word that stores nothing (R125, R126, R128): where it issues, guarded on, memory, every register, every flag and every
special register of every core, and all storage behind them, stand as they were; what the word writes is in flight, and the queues it
names have moved. -/
def Obligations.RegisterWordsFrame : Prop :=
  ∀ (i : Instr) (g : Guard) (s v t : State), guardField i = some g → (opcodeOf (encodeWord i)).toNat ∈ registerOps → Issuing g s v →
    exec i s = .next t → t.note = .issued → OnlyInFlight v t

/-! ## Guards and queues -/

/-- A register that stands for no queue (R37, R125). -/
def Sys2Proof.Claims.noQueue (q : SeqId) : Role → Bool
  | .sSrc r => (srcQueue r).isNone
  | .sDst r => (dstQueue q r).isNone
  | .hSrc r => r != 31
  | .hDst r => r != 31
  | .fqPop => false
  | .bqPop => false
  | .bqPush => false

/-- BR, BRMZ and CALL, whose outcomes the trace takes, guarded on or off (R336). -/
def Sys2Proof.Claims.tracedBranch : Instr → Bool
  | .brGo _ _ => true
  | .brmzSkip _ _ => true
  | .callGo _ _ => true
  | _ => false

/-- A guarded-off word that names no queue (R108, R127, R336): it takes its issue cycle, its literal with it, and does nothing else,
whichever word it is; a branch is traced as not taken. -/
def Obligations.GuardedOff : Prop :=
  ∀ (i : Instr) (g : Guard) (s v : State), guardField i = some g → s.consistOf s.cur.1 = some s.curCons → v = performDue s s.curCons →
    firstFaults v = [] → guardOn (v.seq v.cur.1 v.cur.2) g = false → (∀ r ∈ roles i, noQueue v.cur.2 r = true) →
    exec i s = .next (issued (if (literalOf i).isSome then 2 else 1) .fall
      (if tracedBranch i = true then traceBranch v v.cur.1 false v.ttc else v))

/-- Register operands that name no queue (R33, R68, R108, R125, R382): s0 reads 0 and discards, s61 reads the TTC, p0 is true; any other
register reads what it holds, and takes what is written to it. -/
def Sys2Proof.Claims.PlainRegisters : Prop :=
  ∀ v : State, let q := v.seq v.cur.1 v.cur.2
    ReadsS v 0 0 v ∧ ReadsS v 61 (BitVec.ofNat 64 (v.cons v.curCons).ttc) v ∧ q.pred 0 = true ∧
    (∀ r, srcQueue r = none → r ≠ 0 → r ≠ 61 → ReadsS v r (Tbl.get 0 q.s r.toNat) v) ∧
    (∀ r x, dstQueue v.cur.2 r = none → TakesS v r x (if r = 0 then .mark else .setS r x) v) ∧
    (∀ r, r ≠ 31 → ReadsH v r (Tbl.get nullCap q.h r.toNat) v ∧ ∀ c, TakesH v r c (.setH r c) v)

/-- The handle queue (R37, R86, R126, R358): h31 pops its head entry and reserves one at its tail, eight deep with the places that UPD
holds; an empty or full queue raises the schedule fault 0x07, a void the queue-void fault. -/
def Sys2Proof.Claims.HandleQueue : Prop :=
  ∀ v : State, let e := v.core v.cur.1
    (∀ id c rest, e.hq = ⟨id, .val c⟩ :: rest → ReadsH v 31 c (v.setCore v.cur.1 { e with hq := rest })) ∧
    (∀ id rest, e.hq = ⟨id, .void⟩ :: rest → ∃ f : FaultRec, f.cls = .queueVoid ∧ (readH 31).run v = .error (.fault f)) ∧
    ((e.hq = [] ∨ ∃ id rest, e.hq = ⟨id, .due⟩ :: rest) → (readH 31).run v = .error (.fault (v.mkFault .schedule 0x07 0))) ∧
    (∀ c, (e.hq.length + e.hqHeld < 8 → TakesH v 31 c (.fillH v.nextId (.val c))
        ({ v with nextId := v.nextId + 1 }.setCore v.cur.1 { e with hq := e.hq ++ [(⟨v.nextId, .due⟩ : QEnt Cap)] })) ∧
      (8 ≤ e.hq.length + e.hqHeld → (dstH 31 c).run v = .error (.fault (v.mkFault .schedule 0x07 0))))

/-- Data queues (R37-R39, R125-R127, R383): a pop takes the head entry that is present, and else raises the schedule fault 0x07 or, of a
void, the queue-void fault; a push reserves an entry at the tail, which the result fills, bq0 and bq1 taking bit 0 alone, and into a
full queue raises the schedule fault 0x07; registers that are no queue, and hq; SALU and SALUI words raise what their operands raise, and
have no other effect. -/
def Obligations.DataQueues : Prop :=
  PlainRegisters ∧ HandleQueue ∧
  (∀ (v : State) (r : BitVec 6) (q : Nat), srcQueue r = some q →
    (∀ (id : Nat) (x : Word64) (rest : List (QEnt Word64)), (v.core v.cur.1).dqs q = ⟨id, .val x⟩ :: rest →
      ReadsS v r x (v.setCore v.cur.1 { v.core v.cur.1 with dq := Tbl.set (v.core v.cur.1).dq q rest })) ∧
    (∀ (id : Nat) (rest : List (QEnt Word64)), (v.core v.cur.1).dqs q = ⟨id, .void⟩ :: rest →
      ∃ f : FaultRec, f.cls = .queueVoid ∧ (readS r).run v = .error (.fault f)) ∧
    ((v.core v.cur.1).dqs q = [] ∨ (∃ (id : Nat) (rest : List (QEnt Word64)), (v.core v.cur.1).dqs q = ⟨id, .due⟩ :: rest) →
      (readS r).run v = .error (.fault (v.mkFault .schedule 0x07 0)))) ∧
  (∀ (v : State) (r : BitVec 6) (x : Word64) (q : Nat), dstQueue v.cur.2 r = some q →
    (((v.core v.cur.1).dqs q).length < queueDepth q →
      TakesS v r x (.fill q v.nextId (.val (if q = 4 ∨ q = 5 then x &&& 1 else x)))
        ({ v with nextId := v.nextId + 1 }.setCore v.cur.1 { v.core v.cur.1 with
          dq := Tbl.set (v.core v.cur.1).dq q ((v.core v.cur.1).dqs q ++ [(⟨v.nextId, .due⟩ : QEnt Word64)]) })) ∧
    (queueDepth q ≤ ((v.core v.cur.1).dqs q).length → (dstS r x).run v = .error (.fault (v.mkFault .schedule 0x07 0)))) ∧
  (∀ row ∈ saluTable, ∀ (g : Guard) (d a b : BitVec 6) (imm : BitVec 48) (s v : State) (f : FaultRec), Issuing g s v →
    ((readS a).run v = .error (.fault f) →
      exec (row.1 g d a b) s = .next { raise s s.curCons f with note := .faulted f } ∧
      exec (row.2.1 g d a imm) s = .next { raise s s.curCons f with note := .faulted f }) ∧
    (∀ (v1 : State) (x : Word64), ReadsS v a x v1 → (readS b).run v1 = .error (.fault f) →
      exec (row.1 g d a b) s = .next { raise s s.curCons f with note := .faulted f }) ∧
    (∀ (v1 v2 : State) (x y : Word64), ReadsS v a x v1 → ReadsS v1 b y v2 → (dstS d (row.2.2.2 x y)).run v2 = .error (.fault f) →
      exec (row.1 g d a b) s = .next { raise s s.curCons f with note := .faulted f }))

/-- R376: NOP's words are those with opcode 0 and no body; NOP issues, guarded on or off, and does nothing else. -/
def Obligations.NopDoesNothing : Prop :=
  (∀ (cx : Ctx) (w lit : Word96), opcodeOf w = 0x00 → (decode cx w lit = .ok (.nop (guardOf w)) ↔ w.extractLsb' 0 76 = 0)) ∧
  encodeWord (.nop ⟨0, 0, 0⟩) = 0x000000000000000000000000 ∧ encodeWord (.nop ⟨0, 0, 127⟩) = 0x0007F0000000000000000000 ∧
  (∀ (g : Guard) (s v : State), s.consistOf s.cur.1 = some s.curCons → v = performDue s s.curCons → firstFaults v = [] →
    exec (.nop g) s = .next (issued 1 .fall v))

/-! ## Memory and reset -/

/-- Memory (R3, R67, R87): what is written is read, the byte at the lowest address lowest; every other byte stands; a write clears the tag of
each granule it touches and the poison of each it covers, and no other; a capability write sets its own tag; a memory in canonical form
stays so, and two that read alike are equal. -/
def Obligations.MemoryLaws : Prop :=
  (∀ (m : Memory) (a c : Nat) (bs : List Byte),
    (m.write a bs).byte c = (if a ≤ c ∧ c < a + bs.length then bs.getD (c - a) 0 else m.byte c) ∧
    (m.write a bs).tagAt c = (m.tagAt c && !decide (bs ≠ [] ∧ a < 16 * (c / 16) + 16 ∧ 16 * (c / 16) < a + bs.length)) ∧
    (m.write a bs).poisoned c = (m.poisoned c && !decide (bs ≠ [] ∧ a ≤ 16 * (c / 16) ∧ 16 * (c / 16) + 16 ≤ a + bs.length))) ∧
  (∀ (m : Memory) (a : Nat) (x : Word64),
    (m.write64 a x).read64 a = x ∧ ∀ i < 8, (m.write64 a x).byte (a + i) = x.extractLsb' (8 * i) 8) ∧
  (∀ (m : Memory) (a : Nat) (c : Cap), (m.writeCap a c).readCap a = c ∧
    ∀ (b : Nat) (bs : List Byte), bs ≠ [] → b < 16 * (a / 16) + 16 → 16 * (a / 16) < b + bs.length →
      (((m.writeCap a c).write b bs).readCap a).tag = false) ∧
  (∀ m : Memory, m.wf = true → (∀ a bs, (m.write a bs).wf = true) ∧ (∀ a c, (m.writeCap a c).wf = true) ∧
    (∀ a n, (m.zero a n).wf = true) ∧ (∀ g b, (m.setPoison g b).wf = true)) ∧
  (∀ m m' : Memory, m.wf = true → m'.wf = true → (∀ a, m.byte a = m'.byte a) → (∀ a, m.tagAt a = m'.tagAt a) →
    (∀ a, m.poisoned a = m'.poisoned a) → m = m')

/-- The machine right after reset: memory lists nothing and is in canonical form; no consist runs and nothing waits outside; no partition is
enabled; every core is free and has the values of R33, R34 and R374 that a train's first car finds, handles null and the other registers
0 (log 1); the measurement registers are zero (R321); the boot has not begun (R319). -/
def Obligations.ResetState : Prop :=
  State.reset.mem.wf = true ∧ State.reset.mem.cells = [] ∧ consIds State.reset = [] ∧ State.reset.inputs = [] ∧
  (∀ p, (State.reset.part p).desc.getLsbD 63 = false) ∧
  (∀ (c : Nat) (q : SeqId), (State.reset.core c).consist = none ∧ (State.reset.core c).part = none ∧
    (State.reset.core c).masks = [BitVec.allOnes 128] ∧ (State.reset.core c).heapbase = 0 ∧ (State.reset.core c).heaplimit = 0 ∧
    (State.reset.core c).heapoffset = 0 ∧ (State.reset.core c).npd = 0 ∧ (State.reset.core c).trcctl = 0 ∧
    (State.reset.core c).timer = 0 ∧ (State.reset.seq c q).tvec = 0 ∧ (State.reset.seq c q).tframe = 0 ∧
    (State.reset.seq c q).stbase = (match q with | .as => 0x100000 | .xs => 0xF8000) ∧
    (State.reset.seq c q).stlimit = (match q with | .as => 0xF8000 | .xs => 0xF0000) ∧
    (∀ r, Tbl.get nullCap (State.reset.seq c q).h r = nullCap) ∧ (State.reset.seq c q).p = 0 ∧
    (∀ r < 56, Tbl.get 0 (State.reset.seq c q).s r = 0) ∧
    Tbl.get 0 (State.reset.seq c q).s 62 = (State.reset.seq c q).stbase ∧
    Tbl.get 0 (State.reset.seq c q).s 63 = (State.reset.seq c q).stbase) ∧
  (∀ n : Nat, Tbl.get 0 State.reset.sys.mr n = 0) ∧ State.reset.sys.boot = .off ∧ State.reset.ptc = 0
end

