-- ==== Sys2Proof/Laws/Act.lean ====
section
/-! SUPPORT. How the work of a word runs: the laws of `Act`, of results put in flight, and of control passing on. -/
namespace Sys2Proof.Laws
open Sys2Proof Sys2Proof.Machine

variable {α β : Type}

/-! ## Running -/

theorem run_bind (x : Act α) (f : α → Act β) (s : State) :
    (x >>= f).run s = (match x.run s with | .ok (a, s') => (f a).run s' | .error e => .error e) := by
  show (x.run s).bind _ = _
  cases x.run s <;> rfl

/-- A part that succeeds goes first. -/
theorem run_bind_ok {x : Act α} {s s' : State} {a : α} (h : x.run s = .ok (a, s')) (f : α → Act β) :
    (x >>= f).run s = (f a).run s' := by rw [run_bind, h]

/-- A part that stops stops all. -/
theorem run_bind_error {x : Act α} {s : State} {e : Stop} (h : x.run s = .error e) (f : α → Act β) :
    (x >>= f).run s = .error e := by rw [run_bind, h]

@[simp] theorem run_pure (a : α) (s : State) : (pure a : Act α).run s = .ok (a, s) := rfl

@[simp] theorem run_get (s : State) : (get : Act State).run s = .ok (s, s) := rfl

@[simp] theorem run_set (s t : State) : (set t : Act PUnit).run s = .ok (⟨⟩, t) := rfl

@[simp] theorem run_modify (f : State → State) (s : State) : (modify f : Act PUnit).run s = .ok (⟨⟩, f s) := rfl

@[simp] theorem run_throw (e : Stop) (s : State) : (throw e : Act α).run s = .error e := rfl

@[simp] theorem run_getTtc (s : State) : getTtc.run s = .ok (s.ttc, s) := rfl

@[simp] theorem run_getCore (s : State) : getCore.run s = .ok (s.core s.cur.1, s) := rfl

@[simp] theorem run_getSeq (s : State) : getSeq.run s = .ok (s.seq s.cur.1 s.cur.2, s) := rfl

@[simp] theorem run_getD (s : State) : getD.run s = .ok (s.dC s.cur.1, s) := rfl

@[simp] theorem run_inHandler (s : State) : inHandler.run s = .ok ((s.cons s.curCons).trapT.isSome, s) := rfl

@[simp] theorem run_modCore (f : Core → Core) (s : State) :
    (modCore f).run s = .ok (⟨⟩, s.setCore s.cur.1 (f (s.core s.cur.1))) := rfl

@[simp] theorem run_modSeq (f : Seq → Seq) (s : State) :
    (modSeq f).run s = .ok (⟨⟩, s.setSeq s.cur.1 s.cur.2 (f (s.seq s.cur.1 s.cur.2))) := rfl

@[simp] theorem run_need_true (cls : FaultClass) (sub : BitVec 8) (i : Word64) (s : State) :
    (need true cls sub i).run s = .ok ((), s) := rfl

@[simp] theorem run_need_false (cls : FaultClass) (sub : BitVec 8) (i : Word64) (s : State) :
    (need false cls sub i).run s = .error (.fault (s.mkFault cls sub i)) := rfl

@[simp] theorem run_hold (bit : Nat) (req : Option HoldReq) (s : State) :
    (hold bit req).run s = .error (.hold (causeBit bit) req) := rfl

@[simp] theorem run_fault (cls : FaultClass) (sub : BitVec 8) (i : Word64) (s : State) :
    (fault cls sub i : Act α).run s = .error (.fault (s.mkFault cls sub i)) := rfl

/-! ## Results -/

@[simp] theorem run_addLatch (lat : Nat) (e : Effect) (c : Option (BitVec 16)) (d : Option Deferred) (s : State) :
    (addLatch lat e c d).run s = .ok (s.nextId, withLatch s (newLatch s lat e c d)) := rfl

@[simp] theorem run_result (lat : Nat) (e : Effect) (s : State) :
    (result lat e).run s = .ok ((), flying s lat e) := rfl

@[simp] theorem run_await (lat bit : Nat) (e : Effect) (s : State) :
    (await lat bit e).run s = .ok (s.nextId, awaiting s lat bit e) := rfl

@[simp] theorem run_resultOr (lat : Nat) (e : Effect) (f : Option FaultRec) (s : State) :
    (resultOr lat e f).run s = .ok ((), flyingOr s lat e f) := rfl

@[simp] theorem run_writeHbm (lat : Nat) (c : Cap) (segs : List Seg) (s : State) :
    (writeHbm lat c segs).run s = .ok ((), writingHbm s lat c segs) := rfl

/-- A read of translated storage always goes in flight. -/
@[simp] theorem run_readHbm (lat : Nat) (op : DeferOp) (e : Effect) (s : State) :
    (readHbm lat op e).run s = .ok ((), readingHbm s lat op e) := by
  have h : ∃ t, (readHbm lat op e).run s = .ok ((), t) := by
    simp only [readHbm, run_bind, run_addLatch, run_get]
    split <;> exact ⟨_, rfl⟩
  obtain ⟨t, ht⟩ := h
  simp only [readingHbm, ht]

@[simp] theorem run_dropPopped (r : BitVec 5) (c : Cap) (lat : Nat) (s : State) :
    (dropPopped r c lat).run s = .ok ((), droppingPopped s r c lat) := by
  simp only [dropPopped, droppingPopped]
  split
  · rfl
  · split <;> rfl

@[simp] theorem run_nullH (r : BitVec 5) (lat : Nat) (s : State) :
    (nullH r lat).run s = .ok ((), if r = 31 then s else flying s lat (.setH r nullCap)) := by
  simp only [nullH]
  split <;> rfl

/-! ## Checks -/

/-- A check that holds. -/
theorem run_need {ok : Bool} (h : ok = true) (cls : FaultClass) (sub : BitVec 8) (i : Word64) (s : State) :
    (need ok cls sub i).run s = .ok ((), s) := by rw [h]; rfl

/-- Outside a handler a word may enter the matrix and the attention queue (R208). -/
theorem run_notQueuedInHandler {v : State} (h : NoHandler v) : notQueuedInHandler.run v = .ok ((), v) := by
  have h' : (!(v.cons v.curCons).trapT.isSome) = true := by rw [show (v.cons v.curCons).trapT = none from h]; rfl
  simp only [notQueuedInHandler, run_bind, run_inHandler, h', run_need_true]

/-- A handle at its home may be used in every way (R295). -/
theorem run_checkNear {v : State} {c : Cap} (h : NearOk v c) : (checkNear c).run v = .ok ((), v) := by
  have h' : (!(c.counted && v.remoteHome c)) = true := by
    cases hc : c.counted with
    | false => rfl
    | true => rw [h hc]; rfl
  simp only [checkNear, run_bind, run_get, h', run_need_true]

theorem run_checkCap {v : State} {c : Cap} {kinds : List (BitVec 4)} (h : CapOk v c kinds) :
    (checkCap c).run v = .ok ((), v) := by
  obtain ⟨ht, hs, hp, -, -⟩ := h
  have h2 : (decide (c.space.toNat < 8) && decide (c.kind.toNat < 4)) = true := by simp [hs]
  have h3 : (c.isNull || some c.part == (v.core v.cur.1).part) = true := by
    rcases hp with hp | hp <;> simp [hp]
  simp only [checkCap, run_bind, run_getCore, ht, h2, h3, run_need_true]

theorem run_checkOwn {v : State} {c : Cap} {kinds : List (BitVec 4)} (h : CapOk v c kinds) :
    (checkOwn c).run v = .ok ((), v) := by
  obtain ⟨ht, hs, hp, -, -⟩ := h
  have h2 : (true && decide (c.space.toNat < 8) && decide (c.kind.toNat < 4)) = true := by simp [hs]
  have h3 : (c.isNull || some c.part == (v.core v.cur.1).part) = true := by
    rcases hp with hp | hp <;> simp [hp]
  simp only [checkOwn, run_bind, run_getCore, ht, h2, h3, Bool.and_self, run_need_true]

theorem run_checkKind {v : State} {c : Cap} {kinds : List (BitVec 4)} (h : CapOk v c kinds) :
    (checkKind c kinds).run v = .ok ((), v) := by
  have h1 : kinds.contains c.kind = true := by simpa using h.2.2.2.1
  have h2 : (c.kind != kPointer || c.pointerOk) = true := by
    by_cases hk : c.kind = kPointer
    · simp [h.2.2.2.2 hk]
    · simp [bne_iff_ne, hk]
  simp only [checkKind, run_bind, run_checkCap h, h1, h2, run_need_true]

theorem run_checkPrivate {v : State} {a : Word64} {n : Nat} (h : PrivateOk a n) : (checkPrivate a n).run v = .ok ((), v) := by
  simp only [checkPrivate, h.1, h.2, decide_true, Bool.and_self, run_need_true]

/-! ## Issue -/

/-- Control always passes on. -/
theorem run_advance (n : Nat) (ctl : Ctl) (v : State) : (advance n ctl).run v = .ok ((), movedOn n ctl v) := by
  have h : ∃ t, (advance n ctl).run v = .ok ((), t) := by
    unfold advance
    simp only [run_bind, run_getTtc, run_getSeq]
    split
    · exact ⟨_, rfl⟩
    · exact ⟨_, rfl⟩
    · exact ⟨_, rfl⟩
    all_goals
      split
      · exact ⟨_, rfl⟩
      · split
        · simp only [run_bind, run_modSeq, run_result]
          split
          · exact ⟨_, rfl⟩
          · exact ⟨_, rfl⟩
        · exact ⟨_, rfl⟩
  obtain ⟨t, ht⟩ := h
  simp only [movedOn, ht]

/-- A word whose work succeeds issues (R206). -/
theorem issueN_completes {n : Nat} {g : Guard} {off : Act Unit} {body : Act Ctl} {s v v' : State} {ctl : Ctl}
    (h : Issuing g s v) (hb : body.run v = .ok (ctl, v')) (hc : ∀ f, ctl ≠ .trap f) :
    issueN n g off body s = .next (issued n ctl v') := by
  obtain ⟨hk, hv, hf, hg⟩ := h
  have hw : (wordAct n g off body).run v = .ok (none, movedOn n ctl v') := by
    simp only [wordAct, run_bind, run_getSeq, hg, if_true, hb, run_advance]
    cases ctl with
    | trap f => exact absurd rfl (hc f)
    | _ => rfl
  simp only [issueN, hk, issueOn, ← hv, hf, hw, Consist.best]
  rfl

theorem issue_completes {g : Guard} {off : Act Unit} {body : Act Ctl} {s v v' : State} {ctl : Ctl}
    (h : Issuing g s v) (hb : body.run v = .ok (ctl, v')) (hc : ∀ f, ctl ≠ .trap f) :
    issue g off body s = .next (issued 1 ctl v') := issueN_completes h hb hc

theorem issueFall_completes {g : Guard} {off body : Act Unit} {s v v' : State}
    (h : Issuing g s v) (hb : body.run v = .ok ((), v')) :
    issueFall g off body s = .next (issued 1 .fall v') :=
  issue_completes h (by simp only [run_bind, hb, run_pure]) (fun _ => by simp)

/-- A word that faults has no effect: its exception is taken (R206). -/
theorem issueN_faults {n : Nat} {g : Guard} {off : Act Unit} {body : Act Ctl} {s v : State} {f : FaultRec}
    (h : Issuing g s v) (hb : body.run v = .error (.fault f)) :
    issueN n g off body s = .next { raise s s.curCons f with note := .faulted f } := by
  obtain ⟨hk, hv, hf, hg⟩ := h
  have hw : (wordAct n g off body).run v = .error (.fault f) := by
    simp only [wordAct, run_bind, run_getSeq, hg, if_true, hb]
  simp only [issueN, hk, issueOn, ← hv, hf, hw, Consist.best]

/-- A word that has to wait makes the consist hold (R48). -/
theorem issueN_holds {n : Nat} {g : Guard} {off : Act Unit} {body : Act Ctl} {s v : State} {c : BitVec 16} {r : Option HoldReq}
    (h : Issuing g s v) (hb : body.run v = .error (.hold c r)) :
    issueN n g off body s = .next (beginHold s s.curCons c r) := by
  obtain ⟨hk, hv, hf, hg⟩ := h
  have hw : (wordAct n g off body).run v = .error (.hold c r) := by
    simp only [wordAct, run_bind, run_getSeq, hg, if_true, hb]
  simp only [issueN, hk, issueOn, ← hv, hf, hw, Consist.best]

end Sys2Proof.Laws
end

