-- ==== Sys2Proof/Laws/Memory.lean ====
section
/-! SUPPORT. Laws of memory: reading what has been written, what a write leaves alone, and the canonical form. -/
namespace Sys2Proof.Laws
open Sys2Proof Sys2Proof.Machine

/-! ## Bytes and numbers -/

@[simp] theorem length_toBytes (n v : Nat) : (toBytes n v).length = n := by
  induction n generalizing v with
  | zero => rfl
  | succ n ih => simp [toBytes, ih]

@[simp] theorem length_read (m : Memory) (a n : Nat) : (m.read a n).length = n := by
  induction n generalizing a with
  | zero => rfl
  | succ n ih => simp [Memory.read, ih]

theorem leNat_toBytes (n v : Nat) : leNat (toBytes n v) = v % 256 ^ n := by
  induction n generalizing v with
  | zero => simp [toBytes, leNat, Nat.mod_one]
  | succ n ih =>
    show (BitVec.ofNat 8 v).toNat + 256 * leNat (toBytes n (v / 256)) = v % 256 ^ (n + 1)
    rw [ih, BitVec.toNat_ofNat, show (256 : Nat) ^ (n + 1) = 256 * 256 ^ n by rw [Nat.pow_succ, Nat.mul_comm], Nat.mod_mul]

/-- A word's bytes hold the word. -/
theorem leNat_toBytes_word {n w : Nat} (x : BitVec w) (h : 2 ^ w ≤ 256 ^ n) : leNat (toBytes n x.toNat) = x.toNat := by
  rw [leNat_toBytes, Nat.mod_eq_of_lt (Nat.lt_of_lt_of_le x.isLt h)]

/-! ## Cells -/

theorem cellsGet_filter (t : List Host.Cell) (p : Host.Cell → Bool) (a : Nat) (h : ∀ b, p (a, b) = true) :
    cellsGet (t.filter p) a = cellsGet t a := by
  induction t with
  | nil => rfl
  | cons c t ih =>
    obtain ⟨a', b'⟩ := c
    by_cases e : a = a'
    · subst e; simp [h, cellsGet]
    · by_cases hp : p (a', b') = true <;> simp [hp, cellsGet, e, ih]

theorem cellsGet_filter_out (t : List Host.Cell) (p : Host.Cell → Bool) (a : Nat) (h : ∀ b, p (a, b) = false) :
    cellsGet (t.filter p) a = emptyByte := by
  induction t with
  | nil => rfl
  | cons c t ih =>
    obtain ⟨a', b'⟩ := c
    by_cases e : a = a'
    · subst e; simp [h, ih]
    · by_cases hp : p (a', b') = true <;> simp [hp, cellsGet, e, ih]

theorem cellsGet_put (t : List Host.Cell) (a c : Nat) (b : Byte) : cellsGet (cellsPut t a b) c = if c = a then b else cellsGet t c := by
  induction t with
  | nil => simp [cellsPut, cellsGet]
  | cons d t ih =>
    obtain ⟨a', b'⟩ := d
    simp only [cellsPut]
    split
    · simp [cellsGet]
    · split
      · rename_i h; subst h; by_cases e : c = a <;> simp [cellsGet, e]
      · simp only [cellsGet, ih]
        by_cases e : c = a' <;> by_cases e2 : c = a <;> simp_all

theorem cellsGet_set (t : List Host.Cell) (a c : Nat) (b : Byte) : cellsGet (cellsSet t a b) c = if c = a then b else cellsGet t c := by
  unfold cellsSet
  split
  · rename_i hb
    by_cases e : c = a
    · subst e; rw [if_pos rfl, hb]; exact cellsGet_filter_out _ _ _ (by simp)
    · rw [if_neg e]; exact cellsGet_filter _ _ _ (by simp [e])
  · exact cellsGet_put _ _ _ _

theorem cellsWf_weaken {t : List Host.Cell} {lo lo' : Option Nat} (h : cellsWf lo t = true)
    (hl : ∀ l', lo' = some l' → ∃ l, lo = some l ∧ l' ≤ l) : cellsWf lo' t = true := by
  cases t with
  | nil => cases lo' <;> rfl
  | cons c t =>
    obtain ⟨a, b⟩ := c
    simp only [cellsWf, Bool.and_eq_true, decide_eq_true_eq] at h ⊢
    refine ⟨⟨?_, h.1.2⟩, h.2⟩
    cases lo' with
    | none => rfl
    | some l' =>
      obtain ⟨l, rfl, hle⟩ := hl l' rfl
      have := h.1.1
      simp only [decide_eq_true_eq] at this ⊢
      omega

theorem cellsWf_filter {t : List Host.Cell} (p : Host.Cell → Bool) {lo : Option Nat} (h : cellsWf lo t = true) :
    cellsWf lo (t.filter p) = true := by
  induction t generalizing lo with
  | nil => cases lo <;> rfl
  | cons c t ih =>
    obtain ⟨a, b⟩ := c
    have h' := h
    simp only [cellsWf, Bool.and_eq_true, decide_eq_true_eq] at h'
    by_cases hp : p (a, b) = true
    · simp only [List.filter_cons, hp, if_true, cellsWf, Bool.and_eq_true, decide_eq_true_eq]
      exact ⟨h'.1, ih h'.2⟩
    · simp only [List.filter_cons, hp]
      refine ih (cellsWf_weaken h'.2 ?_)
      intro l' hl'
      subst hl'
      have := h'.1.1
      simp only [decide_eq_true_eq] at this
      exact ⟨a, rfl, this.le⟩

theorem cellsWf_put {t : List Host.Cell} {a : Nat} {b : Byte} (hb : b ≠ emptyByte) {lo : Option Nat} (h : cellsWf lo t = true)
    (hl : ∀ l, lo = some l → l < a) : cellsWf lo (cellsPut t a b) = true := by
  induction t generalizing lo with
  | nil => cases lo with
    | none => simp [cellsPut, cellsWf, hb]
    | some l => simp [cellsPut, cellsWf, hb, hl l rfl]
  | cons c t ih =>
    obtain ⟨a', b'⟩ := c
    simp only [cellsWf, Bool.and_eq_true, decide_eq_true_eq] at h
    have hlo : (match (generalizing := false) lo with | none => true | some l => decide (l < a)) = true := by
      cases lo with
      | none => rfl
      | some l => simpa using hl l rfl
    simp only [cellsPut]
    split
    · rename_i hlt
      simp only [cellsWf, Bool.and_eq_true, decide_eq_true_eq]
      exact ⟨⟨hlo, hb⟩, ⟨hlt, h.1.2⟩, h.2⟩
    · split
      · rename_i he
        subst he
        simp only [cellsWf, Bool.and_eq_true, decide_eq_true_eq]
        exact ⟨⟨hlo, hb⟩, h.2⟩
      · simp only [cellsWf, Bool.and_eq_true, decide_eq_true_eq]
        refine ⟨h.1, ih h.2 ?_⟩
        intro l hl
        cases hl
        omega

theorem cellsWf_set {t : List Host.Cell} (a : Nat) (b : Byte) (h : cellsWf none t = true) : cellsWf none (cellsSet t a b) = true := by
  unfold cellsSet
  split
  · exact cellsWf_filter _ h
  · rename_i hb; exact cellsWf_put hb h (by simp)

/-! ## Granules -/

theorem granGet_put (t : List Nat) (g k : Nat) : granGet (granPut t g) k = (decide (k = g) || granGet t k) := by
  induction t with
  | nil => simp [granPut, granGet]
  | cons g' t ih =>
    simp only [granGet, List.contains_eq_mem] at ih ⊢
    simp only [granPut]
    split
    · simp
    · split
      · rename_i h; subst h; by_cases e : k = g <;> simp [e]
      · simp only [List.mem_cons, Bool.decide_or, ih]
        rw [← Bool.or_assoc, Bool.or_comm (decide (k = g')), Bool.or_assoc]

@[simp] theorem granGet_set (t : List Nat) (g k : Nat) (v : Bool) :
    granGet (granSet t g v) k = if k = g then v else granGet t k := by
  unfold granSet
  cases v with
  | true => simp only [if_true, granGet_put]; by_cases e : k = g <;> simp [e]
  | false => by_cases e : k = g <;> simp [granGet, e]

theorem granGet_filter (t : List Nat) (p : Nat → Bool) (k : Nat) : granGet (t.filter p) k = (granGet t k && p k) := by
  simp [granGet, List.mem_filter]

theorem granWf_weaken {t : List Nat} {lo lo' : Option Nat} (h : granWf lo t = true)
    (hl : ∀ l', lo' = some l' → ∃ l, lo = some l ∧ l' ≤ l) : granWf lo' t = true := by
  cases t with
  | nil => cases lo' <;> rfl
  | cons a t =>
    simp only [granWf, Bool.and_eq_true] at h ⊢
    refine ⟨?_, h.2⟩
    cases lo' with
    | none => rfl
    | some l' =>
      obtain ⟨l, rfl, hle⟩ := hl l' rfl
      have := h.1
      simp only [decide_eq_true_eq] at this ⊢
      omega

theorem granWf_filter {t : List Nat} (p : Nat → Bool) {lo : Option Nat} (h : granWf lo t = true) : granWf lo (t.filter p) = true := by
  induction t generalizing lo with
  | nil => cases lo <;> rfl
  | cons a t ih =>
    have h' := h
    simp only [granWf, Bool.and_eq_true] at h'
    by_cases hp : p a = true
    · simp only [List.filter_cons, hp, if_true, granWf, Bool.and_eq_true]
      exact ⟨h'.1, ih h'.2⟩
    · simp only [List.filter_cons, hp]
      refine ih (granWf_weaken h'.2 ?_)
      intro l' hl'
      subst hl'
      have := h'.1
      simp only [decide_eq_true_eq] at this
      exact ⟨a, rfl, this.le⟩

theorem granWf_put {t : List Nat} {g : Nat} {lo : Option Nat} (h : granWf lo t = true) (hl : ∀ l, lo = some l → l < g) :
    granWf lo (granPut t g) = true := by
  induction t generalizing lo with
  | nil => cases lo with
    | none => rfl
    | some l => simp [granPut, granWf, hl l rfl]
  | cons g' t ih =>
    simp only [granWf, Bool.and_eq_true] at h
    have hlo : (match (generalizing := false) lo with | none => true | some l => decide (l < g)) = true := by
      cases lo with
      | none => rfl
      | some l => simpa using hl l rfl
    simp only [granPut]
    split
    · rename_i hlt
      simp only [granWf, Bool.and_eq_true, decide_eq_true_eq]
      exact ⟨hlo, hlt, h.2⟩
    · split
      · simp only [granWf, Bool.and_eq_true]; exact h
      · simp only [granWf, Bool.and_eq_true]
        refine ⟨h.1, ih h.2 ?_⟩
        intro l hl
        cases hl
        omega

theorem granWf_set {t : List Nat} (g : Nat) (v : Bool) (h : granWf none t = true) : granWf none (granSet t g v) = true := by
  unfold granSet
  split
  · exact granWf_put h (by simp)
  · exact granWf_filter _ h

/-! ## Memory -/

@[simp] theorem byte_setByte (m : Memory) (a c : Nat) (b : Byte) : (m.setByte a b).byte c = if c = a then b else m.byte c :=
  cellsGet_set _ _ _ _
@[simp] theorem tagAt_setByte (m : Memory) (a c : Nat) (b : Byte) : (m.setByte a b).tagAt c = m.tagAt c := rfl
@[simp] theorem poisoned_setByte (m : Memory) (a c : Nat) (b : Byte) : (m.setByte a b).poisoned c = m.poisoned c := rfl
@[simp] theorem byte_setTag (m : Memory) (g c : Nat) (v : Bool) : (m.setTag g v).byte c = m.byte c := rfl
@[simp] theorem tagAt_setTag (m : Memory) (g c : Nat) (v : Bool) : (m.setTag g v).tagAt c = if c / 16 = g then v else m.tagAt c :=
  granGet_set _ _ _ _
@[simp] theorem poisoned_setTag (m : Memory) (g c : Nat) (v : Bool) : (m.setTag g v).poisoned c = m.poisoned c := rfl
@[simp] theorem byte_setPoison (m : Memory) (g c : Nat) (v : Bool) : (m.setPoison g v).byte c = m.byte c := rfl
@[simp] theorem tagAt_setPoison (m : Memory) (g c : Nat) (v : Bool) : (m.setPoison g v).tagAt c = m.tagAt c := rfl
@[simp] theorem poisoned_setPoison (m : Memory) (g c : Nat) (v : Bool) :
    (m.setPoison g v).poisoned c = if c / 16 = g then v else m.poisoned c := granGet_set _ _ _ _

/-- A byte after bytes have been set. -/
theorem byte_setBytes (m : Memory) (a c : Nat) (bs : List Byte) :
    (m.setBytes a bs).byte c = if a ≤ c ∧ c < a + bs.length then bs.getD (c - a) 0 else m.byte c := by
  induction bs generalizing m a with
  | nil => rw [if_neg (by simp)]; rfl
  | cons b bs ih =>
    simp only [Memory.setBytes, ih, byte_setByte, List.length_cons]
    by_cases e : c = a
    · subst e; simp
    · by_cases h : a + 1 ≤ c ∧ c < a + 1 + bs.length
      · rw [if_pos h, if_pos (by omega)]
        obtain ⟨k, hk⟩ : ∃ k, c - a = k + 1 := ⟨c - a - 1, by omega⟩
        rw [hk, show c - (a + 1) = k by omega]
        rfl
      · rw [if_neg h, if_neg e, if_neg (by omega)]

@[simp] theorem tagAt_setBytes (m : Memory) (a c : Nat) (bs : List Byte) : (m.setBytes a bs).tagAt c = m.tagAt c := by
  induction bs generalizing m a with
  | nil => rfl
  | cons b bs ih => simp [Memory.setBytes, ih]

@[simp] theorem poisoned_setBytes (m : Memory) (a c : Nat) (bs : List Byte) : (m.setBytes a bs).poisoned c = m.poisoned c := by
  induction bs generalizing m a with
  | nil => rfl
  | cons b bs ih => simp [Memory.setBytes, ih]

@[simp] theorem byte_clearTags (m : Memory) (gs : List Nat) (c : Nat) : (m.clearTags gs).byte c = m.byte c := by
  induction gs generalizing m with
  | nil => rfl
  | cons g gs ih => simp [Memory.clearTags, ih]

@[simp] theorem tagAt_clearTags (m : Memory) (gs : List Nat) (c : Nat) :
    (m.clearTags gs).tagAt c = (m.tagAt c && !gs.contains (c / 16)) := by
  induction gs generalizing m with
  | nil => simp [Memory.clearTags]
  | cons g gs ih =>
    rw [Memory.clearTags, ih, tagAt_setTag, List.contains_cons]
    by_cases e : c / 16 = g <;> simp [e, beq_false_of_ne]

@[simp] theorem poisoned_clearTags (m : Memory) (gs : List Nat) (c : Nat) : (m.clearTags gs).poisoned c = m.poisoned c := by
  induction gs generalizing m with
  | nil => rfl
  | cons g gs ih => simp [Memory.clearTags, ih]

@[simp] theorem byte_clearPoison (m : Memory) (gs : List Nat) (c : Nat) : (m.clearPoison gs).byte c = m.byte c := by
  induction gs generalizing m with
  | nil => rfl
  | cons g gs ih => simp [Memory.clearPoison, ih]

@[simp] theorem tagAt_clearPoison (m : Memory) (gs : List Nat) (c : Nat) : (m.clearPoison gs).tagAt c = m.tagAt c := by
  induction gs generalizing m with
  | nil => rfl
  | cons g gs ih => simp [Memory.clearPoison, ih]

@[simp] theorem poisoned_clearPoison (m : Memory) (gs : List Nat) (c : Nat) :
    (m.clearPoison gs).poisoned c = (m.poisoned c && !gs.contains (c / 16)) := by
  induction gs generalizing m with
  | nil => simp [Memory.clearPoison]
  | cons g gs ih =>
    rw [Memory.clearPoison, ih, poisoned_setPoison, List.contains_cons]
    by_cases e : c / 16 = g <;> simp [e, beq_false_of_ne]

/-- A byte after a write (R3). -/
theorem byte_write (m : Memory) (a c : Nat) (bs : List Byte) :
    (m.write a bs).byte c = if a ≤ c ∧ c < a + bs.length then bs.getD (c - a) 0 else m.byte c := by
  simp [Memory.write, byte_setBytes]

theorem mem_granules (a n g : Nat) : g ∈ granules a n ↔ n ≠ 0 ∧ a < 16 * g + 16 ∧ 16 * g < a + n := by
  unfold granules
  split
  · rename_i h; simp [h]
  · rename_i h
    simp only [List.mem_map, List.mem_range]
    constructor
    · rintro ⟨k, hk, rfl⟩
      omega
    · rintro ⟨-, h1, h2⟩
      exact ⟨g - a / 16, by omega, by omega⟩

theorem mem_wholeGranules (a n g : Nat) : g ∈ wholeGranules a n ↔ n ≠ 0 ∧ a ≤ 16 * g ∧ 16 * g + 16 ≤ a + n := by
  simp only [wholeGranules, List.mem_filter, mem_granules, decide_eq_true_eq]
  omega

/-- A granule's tag after a write (R67). -/
theorem tagAt_write (m : Memory) (a c : Nat) (bs : List Byte) :
    (m.write a bs).tagAt c = (m.tagAt c && !decide (bs ≠ [] ∧ a < 16 * (c / 16) + 16 ∧ 16 * (c / 16) < a + bs.length)) := by
  simp only [Memory.write, tagAt_clearPoison, tagAt_clearTags, tagAt_setBytes, List.contains_eq_mem, mem_granules]
  congr 3
  simp

/-- A granule's poison after a write (R87). -/
theorem poisoned_write (m : Memory) (a c : Nat) (bs : List Byte) :
    (m.write a bs).poisoned c =
      (m.poisoned c && !decide (bs ≠ [] ∧ a ≤ 16 * (c / 16) ∧ 16 * (c / 16) + 16 ≤ a + bs.length)) := by
  simp only [Memory.write, poisoned_clearPoison, poisoned_clearTags, poisoned_setBytes, List.contains_eq_mem, mem_wholeGranules]
  congr 3
  simp

theorem read_congr {m m' : Memory} {a : Nat} (n : Nat) (h : ∀ c, a ≤ c → c < a + n → m.byte c = m'.byte c) : m.read a n = m'.read a n := by
  induction n generalizing a with
  | zero => rfl
  | succ n ih =>
    simp only [Memory.read]
    rw [h a (Nat.le_refl a) (by omega), ih fun c h1 h2 => h c (by omega) (by omega)]

theorem read_setBytes (m : Memory) (a : Nat) (bs : List Byte) : (m.setBytes a bs).read a bs.length = bs := by
  induction bs generalizing m a with
  | nil => rfl
  | cons b bs ih =>
    simp only [Memory.setBytes, List.length_cons, Memory.read, ih]
    rw [byte_setBytes, if_neg (by omega)]
    simp

/-- What has been written is read. -/
theorem read_write (m : Memory) (a : Nat) (bs : List Byte) : (m.write a bs).read a bs.length = bs := by
  rw [read_congr (m' := m.setBytes a bs) _ fun c _ _ => by simp [Memory.write], read_setBytes]

/-- Elsewhere a write changes nothing. -/
theorem read_write_apart (m : Memory) (a c n : Nat) (bs : List Byte) (h : c + n ≤ a ∨ a + bs.length ≤ c) :
    (m.write a bs).read c n = m.read c n := by
  refine read_congr _ fun d h1 h2 => ?_
  rw [byte_write, if_neg (by omega)]

@[simp] theorem read64_write64 (m : Memory) (a : Nat) (x : Word64) : (m.write64 a x).read64 a = x := by
  have h := read_write m a (toBytes 8 x.toNat)
  rw [length_toBytes] at h
  simp only [Memory.read64, Memory.write64, h, leNat_toBytes_word x (by norm_num : 2 ^ 64 ≤ 256 ^ 8), BitVec.ofNat_toNat,
    BitVec.setWidth_eq]

/-- A capability written is the capability read, with its tag (R67). -/
@[simp] theorem readCap_writeCap (m : Memory) (a : Nat) (c : Cap) : (m.writeCap a c).readCap a = c := by
  have h := read_write m a (toBytes 16 c.bits.toNat)
  rw [length_toBytes] at h
  have h2 : (m.writeCap a c).read a 16 = (m.write a (toBytes 16 c.bits.toNat)).read a 16 := read_congr _ fun _ _ _ => rfl
  rw [Memory.readCap, h2, h, leNat_toBytes_word c.bits (by norm_num : 2 ^ 128 ≤ 256 ^ 16)]
  simp [Memory.writeCap]

/-- A byte after a range has been set to zero. -/
theorem byte_zero (m : Memory) (a n c : Nat) : (m.zero a n).byte c = if a ≤ c ∧ c < a + n then 0 else m.byte c := by
  show cellsGet (m.cells.filter _) c = _
  split
  · rename_i h; exact cellsGet_filter_out _ _ _ (by simp [h])
  · rename_i h; exact cellsGet_filter _ _ _ (by simp [h])

/-! ## The canonical form -/

theorem wf_iff (m : Memory) : m.wf = true ↔ cellsWf none m.cells = true ∧ granWf none m.tags = true ∧ granWf none m.poison = true := by
  simp [Memory.wf, and_assoc]

@[simp] theorem wf_setByte {m : Memory} (h : m.wf = true) (a : Nat) (b : Byte) : (m.setByte a b).wf = true := by
  rw [wf_iff] at h ⊢; exact ⟨cellsWf_set _ _ h.1, h.2⟩

@[simp] theorem wf_setTag {m : Memory} (h : m.wf = true) (g : Nat) (v : Bool) : (m.setTag g v).wf = true := by
  rw [wf_iff] at h ⊢; exact ⟨h.1, granWf_set _ _ h.2.1, h.2.2⟩

@[simp] theorem wf_setPoison {m : Memory} (h : m.wf = true) (g : Nat) (v : Bool) : (m.setPoison g v).wf = true := by
  rw [wf_iff] at h ⊢; exact ⟨h.1, h.2.1, granWf_set _ _ h.2.2⟩

@[simp] theorem wf_setBytes {m : Memory} (h : m.wf = true) (a : Nat) (bs : List Byte) : (m.setBytes a bs).wf = true := by
  induction bs generalizing m a with
  | nil => exact h
  | cons b bs ih => exact ih (wf_setByte h a b) _

@[simp] theorem wf_clearTags {m : Memory} (h : m.wf = true) (gs : List Nat) : (m.clearTags gs).wf = true := by
  induction gs generalizing m with
  | nil => exact h
  | cons g gs ih => exact ih (wf_setTag h g false)

@[simp] theorem wf_clearPoison {m : Memory} (h : m.wf = true) (gs : List Nat) : (m.clearPoison gs).wf = true := by
  induction gs generalizing m with
  | nil => exact h
  | cons g gs ih => exact ih (wf_setPoison h g false)

@[simp] theorem wf_write {m : Memory} (h : m.wf = true) (a : Nat) (bs : List Byte) : (m.write a bs).wf = true :=
  wf_clearPoison (wf_clearTags (wf_setBytes h a bs) _) _

@[simp] theorem wf_write32 {m : Memory} (h : m.wf = true) (a : Nat) (v : BitVec 32) : (m.write32 a v).wf = true := wf_write h _ _

@[simp] theorem wf_write64 {m : Memory} (h : m.wf = true) (a : Nat) (v : Word64) : (m.write64 a v).wf = true := wf_write h _ _

@[simp] theorem wf_writeCap {m : Memory} (h : m.wf = true) (a : Nat) (c : Cap) : (m.writeCap a c).wf = true := wf_setTag (wf_write h _ _) _ _

@[simp] theorem wf_zero {m : Memory} (h : m.wf = true) (a n : Nat) : (m.zero a n).wf = true := by
  rw [wf_iff] at h ⊢; exact ⟨cellsWf_filter _ h.1, granWf_filter _ h.2.1, granWf_filter _ h.2.2⟩

end Sys2Proof.Laws
end

