-- ==== Sys2Proof/Laws/Canonical.lean ====
section
/-! SUPPORT. Every operation over memory keeps its canonical form (log 2): the writes of units, frames, saves, the loader and the
management cores, each built of the writes of Laws/Memory. -/
namespace Sys2Proof.Laws
open Sys2Proof Sys2Proof.Machine

/-- A fold whose every step keeps the form keeps it. -/
theorem wf_foldl {β : Type} {f : Memory → β → Memory} (hf : ∀ m b, m.wf = true → (f m b).wf = true) (l : List β) {m : Memory}
    (h : m.wf = true) : (l.foldl f m).wf = true := by
  induction l generalizing m with
  | nil => exact h
  | cons b l ih => exact ih (hf m b h)

/-! ## Runs of bytes -/

@[simp] theorem wf_writeSegs {m : Memory} (h : m.wf = true) (gs : List Seg) : (writeSegs m gs).wf = true := by
  induction gs generalizing m with
  | nil => exact h
  | cons g gs ih => exact ih (wf_write h _ _)

@[simp] theorem wf_fillSlot {m : Memory} (h : m.wf = true) (core : Nat) (n : BitVec 4) (gs : List (Nat × List Byte)) :
    (fillSlot m core n gs).wf = true := by
  induction gs generalizing m with
  | nil => exact h
  | cons g gs ih => exact ih (wf_setBytes h _ _)

@[simp] theorem wf_writeRuns {m : Memory} (h : m.wf = true) (rs : List (Nat × List Byte)) : (writeRuns m rs).wf = true := by
  induction rs generalizing m with
  | nil => exact h
  | cons r rs ih => exact ih (wf_write h _ _)

@[simp] theorem wf_poisonAll {m : Memory} (h : m.wf = true) (l : List Nat) : (poisonAll m l).wf = true := by
  induction l generalizing m with
  | nil => exact h
  | cons a l ih => exact ih (wf_setPoison h _ _)

@[simp] theorem wf_writeParts {m : Memory} (h : m.wf = true) (ps : List Part) (bs : List Byte) : (writeParts m ps bs).wf = true := by
  induction ps generalizing m bs with
  | nil => exact h
  | cons p ps ih => exact ih (wf_write h _ _) _

@[simp] theorem wf_moveBytes {s : State} (h : s.mem.wf = true) (pairs : List (Option Nat × Nat)) : (moveBytes s pairs).1.mem.wf = true :=
  wf_poisonAll (wf_writeRuns h _) _

/-! ## Frames (R209, R210) -/

@[simp] theorem wf_writeChunks {m : Memory} (h : m.wf = true) (a : Nat) (cs : List Chunk) : (writeChunks m a cs).wf = true := by
  induction cs generalizing m a with
  | nil => exact h
  | cons c cs ih =>
    cases c with
    | raw bs => exact ih (wf_write h _ _) _
    | cap c => exact ih (wf_writeCap h _ _) _

@[simp] theorem wf_writeParts0 {m : Memory} (h : m.wf = true) (base : Nat) (ps : List (Nat × Chunk)) : (writeParts0 m base ps).wf = true := by
  induction ps generalizing m with
  | nil => exact h
  | cons p ps ih => exact ih (wf_writeChunks h _ _)

@[simp] theorem wf_writeRecords {m : Memory} (h : m.wf = true) (base : Nat) (rs : List (Latch × Option (List Chunk))) :
    (writeRecords m base rs).wf = true := by
  induction rs generalizing m with
  | nil => exact h
  | cons r rs ih =>
    obtain ⟨l, _ | cs⟩ := r
    · exact ih h
    · exact ih (wf_writeChunks h _ _)

@[simp] theorem wf_writeFrameAt {s : State} (h : s.mem.wf = true) (c : Nat) (q : SeqId) (t : Nat) (ls : List Latch) (list : List FaultRec)
    (base : Nat) : (writeFrameAt s c q t ls list base).1.wf = true :=
  wf_writeRecords (wf_writeParts0 (wf_zero h _ _) _ _) _ _

@[simp] theorem wf_leaveFrame {s : State} (h : s.mem.wf = true) (cq : Nat × SeqId) : (leaveFrame s cq).mem.wf = true := by
  rw [wf_iff] at h
  exact (wf_iff _).2 ⟨h.1, granWf_filter _ h.2.1, h.2.2⟩

/-! ## Saves (R216, R217) -/

@[simp] theorem wf_putCells {m : Memory} (h : m.wf = true) (l : List Host.Cell) : (m.putCells l).wf = true := by
  induction l generalizing m with
  | nil => exact h
  | cons c l ih => exact ih (wf_setByte h _ _)

@[simp] theorem wf_putTags {m : Memory} (h : m.wf = true) (l : List Nat) : (m.putTags l).wf = true := by
  induction l generalizing m with
  | nil => exact h
  | cons g l ih => exact ih (wf_setTag h _ _)

@[simp] theorem wf_putPoison {m : Memory} (h : m.wf = true) (l : List Nat) : (m.putPoison l).wf = true := by
  induction l generalizing m with
  | nil => exact h
  | cons g l ih => exact ih (wf_setPoison h _ _)

/-- Whatever is laid over a canonical memory leaves a canonical one. -/
@[simp] theorem wf_lay {m : Memory} (h : m.wf = true) (part : Memory) : (m.lay part).wf = true := wf_putPoison (wf_putTags (wf_putCells h _) _) _

@[simp] theorem wf_copy {m : Memory} (h : m.wf = true) (src dst n : Nat) : (m.copy src dst n).wf = true := wf_lay (wf_zero h _ _) _

@[simp] theorem wf_part {m : Memory} (h : m.wf = true) (rs : List (Nat × Nat)) : (m.part rs).wf = true := by
  rw [wf_iff] at h
  exact (wf_iff _).2 ⟨cellsWf_filter _ h.1, granWf_filter _ h.2.1, granWf_filter _ h.2.2⟩

@[simp] theorem wf_untag {m : Memory} (h : m.wf = true) (a n : Nat) : (m.untag a n).wf = true := by
  rw [wf_iff] at h
  exact (wf_iff _).2 ⟨h.1, granWf_filter _ h.2.1, h.2.2⟩

@[simp] theorem wf_putBack {m : Memory} (h : m.wf = true) (core : Nat) (old : Memory) : (m.putBack core old).wf = true :=
  wf_lay (wf_foldl (fun _ _ h => wf_zero h _ _) _ h) _

@[simp] theorem wf_freePart {m : Memory} (h : m.wf = true) (a n ctr : Nat) : (freePart m a n ctr).wf = true := wf_write h _ _

@[simp] theorem wf_saveFrame {s : State} (h : s.mem.wf = true) (k core base : Nat) : (saveFrame s k core base).mem.wf = true :=
  wf_freePart (wf_foldl (fun _ _ h => wf_copy h _ _ _) _ (wf_write (wf_freePart (wf_freePart (wf_write (wf_freePart (wf_freePart
    (wf_writeFrameAt (s := { s with mem := _ }) (wf_writeFrameAt h _ _ _ _ _ _) _ _ _ _ _ _) _ _ _) _ _ _) _ _) _ _ _) _ _ _) _ _)) _ _ _

@[simp] theorem wf_clearFrames {s : State} (h : s.mem.wf = true) (v : Saved) : (v.clearFrames s).mem.wf = true :=
  wf_foldl (fun _ _ h => wf_untag h _ _) _ h

/-! ## The loader and the management cores -/

/-- Bytes that go to virtual addresses (R144). -/
theorem wf_writeVirtual (part : BitVec 5) (fuel : Nat) {s t : State} (va : Nat) (bs : List Byte) (h : s.mem.wf = true)
    (ht : writeVirtual part fuel s va bs = some t) : t.mem.wf = true := by
  induction fuel generalizing s va bs with
  | zero =>
    cases bs with
    | nil => cases ht; exact h
    | cons b bs => cases ht
  | succ fuel ih =>
    cases bs with
    | nil => cases ht; exact h
    | cons b bs =>
      simp only [writeVirtual] at ht
      split at ht
      · split at ht
        · exact ih _ _ (wf_write h _ _) ht
        · cases ht
      · cases ht

/-- A line of a page that migrates (R165). -/
@[simp] theorem wf_copyLine {s : State} (h : s.mem.wf = true) (from_ to_ : Nat) : (copyLine s from_ to_).wf = true :=
  wf_foldl (fun _ _ h => wf_setPoison (wf_setTag h _ _) _ _) _ (wf_write h _ _)

/-- What an append wrote reaches DRAM (R258). -/
@[simp] theorem wf_kvDrain {s : State} (h : s.mem.wf = true) (stack : Nat) : (kvDrain s stack).mem.wf = true := by
  unfold kvDrain
  split
  · exact h
  · exact wf_foldl (fun _ _ h => wf_setBytes h _ _) _ h

end Sys2Proof.Laws
end

