-- ==== Sys2Proof/Laws/PerInstr.lean ====
section
/-! SUPPORT. Laws of the fields of a word, and what every constructor's encoding decodes to. -/
set_option linter.unusedSimpArgs false
namespace Sys2Proof.Laws
open Sys2Proof Sys2Proof.Machine

/-! ## Fields -/

theorem extract_put_same {n : Nat} (w : Word96) (lo : Nat) (v : BitVec n) (h : lo + n ≤ 96) :
    (put w lo v).extractLsb' lo n = v := by
  apply BitVec.eq_of_getLsbD_eq
  intro i hi
  have h1 : lo + i < 96 := by omega
  simp [put, hi, h1]

theorem extract_put_other {n : Nat} (w : Word96) (lo : Nat) (v : BitVec n) (l m : Nat)
    (h : l + m ≤ lo ∨ lo + n ≤ l) : (put w lo v).extractLsb' l m = w.extractLsb' l m := by
  apply BitVec.eq_of_getLsbD_eq
  intro i hi
  simp only [put, BitVec.getLsbD_extractLsb', hi, decide_true, Bool.true_and, BitVec.getLsbD_or,
    BitVec.getLsbD_and, BitVec.getLsbD_not, BitVec.getLsbD_shiftLeft, BitVec.getLsbD_setWidth, BitVec.getLsbD_allOnes]
  by_cases hx : l + i < 96
  · rcases h with h | h
    · have : l + i < lo := by omega
      simp [this, hx]
    · have h1 : ¬ (l + i - lo < n) := by omega
      simp [h1, hx, BitVec.getLsbD_of_ge v _ (Nat.le_of_not_lt h1)]
  · simp [hx, BitVec.getLsbD_of_ge w (l + i) (by omega)]

theorem extract_put64_same {n : Nat} (w : Word64) (lo : Nat) (v : BitVec n) (h : lo + n ≤ 64) :
    (put64 w lo v).extractLsb' lo n = v := by
  apply BitVec.eq_of_getLsbD_eq
  intro i hi
  have h1 : lo + i < 64 := by omega
  simp [put64, hi, h1]

theorem extract_put64_other {n : Nat} (w : Word64) (lo : Nat) (v : BitVec n) (l m : Nat)
    (h : l + m ≤ lo ∨ lo + n ≤ l) : (put64 w lo v).extractLsb' l m = w.extractLsb' l m := by
  apply BitVec.eq_of_getLsbD_eq
  intro i hi
  simp only [put64, BitVec.getLsbD_extractLsb', hi, decide_true, Bool.true_and, BitVec.getLsbD_or,
    BitVec.getLsbD_and, BitVec.getLsbD_not, BitVec.getLsbD_shiftLeft, BitVec.getLsbD_setWidth, BitVec.getLsbD_allOnes]
  by_cases hx : l + i < 64
  · rcases h with h | h
    · have : l + i < lo := by omega
      simp [this, hx]
    · have h1 : ¬ (l + i - lo < n) := by omega
      simp [h1, hx, BitVec.getLsbD_of_ge v _ (Nat.le_of_not_lt h1)]
  · simp [hx, BitVec.getLsbD_of_ge w (l + i) (by omega)]

theorem opcode_put {n : Nat} (w : Word96) (lo : Nat) (v : BitVec n) (h : lo + n ≤ 88) :
    opcodeOf (put w lo v) = opcodeOf w := extract_put_other w lo v 88 8 (.inr h)

theorem opcode_word (op : BitVec 8) (g : Guard) : opcodeOf (word op g) = op := by
  simp only [word]
  rw [opcode_put _ _ _ (by decide), opcode_put _ _ _ (by decide), opcode_put _ _ _ (by decide)]
  exact extract_put_same _ _ _ (by decide)

theorem guard_put {n : Nat} (w : Word96) (lo : Nat) (v : BitVec n) (h : lo + n ≤ 76) :
    guardOf (put w lo v) = guardOf w := by
  simp only [guardOf]
  rw [extract_put_other _ _ _ _ _ (.inr (by omega)), extract_put_other _ _ _ _ _ (.inr (by omega)),
    extract_put_other _ _ _ _ _ (.inr (by omega))]

theorem guard_word (op : BitVec 8) (g : Guard) : guardOf (word op g) = g := by
  simp only [word, guardOf]
  simp (disch := decide) only [extract_put_same, extract_put_other]

/-- A word's body is zero until its fields are put. -/
theorem fn_word (op : BitVec 8) (g : Guard) (l m : Nat) (h : l + m ≤ 76) : (word op g).extractLsb' l m = 0 := by
  simp only [word]
  rw [extract_put_other _ _ _ _ _ (.inl (by omega)), extract_put_other _ _ _ _ _ (.inl (by omega)),
    extract_put_other _ _ _ _ _ (.inl (by omega)), extract_put_other _ _ _ _ _ (.inl (by omega))]
  apply BitVec.eq_of_getLsbD_eq
  intro i hi
  simp

theorem code_word (code : BitVec 6) : (microWord code).extractLsb' 58 6 = code :=
  extract_put64_same _ _ _ (by decide)

/-! ## Round trip -/

/-- What an instruction's encoding gives back: a word's opcode, fn and fields, where its fields pass the checks of R122; a
micro-operation's; an event has no encoding. -/
def RoundTrip.Statement (i : Instr) : Prop :=
  match guardField i, isMicro i with
  | some _, _ => ∀ (cx : Ctx) (lit : Word96), WellFormed cx i → literalOf i = none ∨ literalOf i = some lit →
      build (encodeWord i) lit = some i
  | none, true => buildMicro (encodeMicro i) = some i
  | none, false => encodeWord i = 0

/-- A field check of a well-formed instruction holds. -/
theorem limits_of_wf {cx : Ctx} {i : Instr} (h : WellFormed cx i) : limits cx i = true := by
  unfold WellFormed subcode at h
  split at h
  · cases h
  · split at h
    · cases h
    · split at h
      · cases h
      · split at h
        · cases h
        · simp_all

theorem sysReg_of_sysr {cx : Ctx} {g : Guard} {d : BitVec 6} {r : BitVec 8} (h : WellFormed cx (.sysr g d r)) :
    sysRegs.contains r.toNat = true := limits_of_wf h

theorem sysReg_of_sysw {cx : Ctx} {g : Guard} {a : BitVec 6} {r : BitVec 8} (h : WellFormed cx (.sysw g a r)) :
    sysRegs.contains r.toNat = true := by
  have hl : (sysRegs.contains r.toNat && sysWritable.contains r.toNat) = true := limits_of_wf h
  exact (Bool.and_eq_true_iff.mp hl).1

theorem build_00 (w lit : Word96) (h : opcodeOf w = 0x00) : build w lit = build00 w lit := by
  unfold build; rw [h]; rfl

theorem build_01 (w lit : Word96) (h : opcodeOf w = 0x01) : build w lit = build01 w lit := by
  unfold build; rw [h]; rfl

theorem build_02 (w lit : Word96) (h : opcodeOf w = 0x02) : build w lit = build02 w lit := by
  unfold build; rw [h]; rfl

theorem build_03 (w lit : Word96) (h : opcodeOf w = 0x03) : build w lit = build03 w lit := by
  unfold build; rw [h]; rfl

theorem build_04 (w lit : Word96) (h : opcodeOf w = 0x04) : build w lit = build04 w lit := by
  unfold build; rw [h]; rfl

theorem build_05 (w lit : Word96) (h : opcodeOf w = 0x05) : build w lit = build05 w lit := by
  unfold build; rw [h]; rfl

theorem build_06 (w lit : Word96) (h : opcodeOf w = 0x06) : build w lit = build06 w lit := by
  unfold build; rw [h]; rfl

theorem build_07 (w lit : Word96) (h : opcodeOf w = 0x07) : build w lit = build07 w lit := by
  unfold build; rw [h]; rfl

theorem build_08 (w lit : Word96) (h : opcodeOf w = 0x08) : build w lit = build08 w lit := by
  unfold build; rw [h]; rfl

theorem build_09 (w lit : Word96) (h : opcodeOf w = 0x09) : build w lit = build09 w lit := by
  unfold build; rw [h]; rfl

theorem build_10 (w lit : Word96) (h : opcodeOf w = 0x10) : build w lit = build10 w lit := by
  unfold build; rw [h]; rfl

theorem build_11 (w lit : Word96) (h : opcodeOf w = 0x11) : build w lit = build11 w lit := by
  unfold build; rw [h]; rfl

theorem build_12 (w lit : Word96) (h : opcodeOf w = 0x12) : build w lit = build12 w lit := by
  unfold build; rw [h]; rfl

theorem build_13 (w lit : Word96) (h : opcodeOf w = 0x13) : build w lit = build13 w lit := by
  unfold build; rw [h]; rfl

theorem build_14 (w lit : Word96) (h : opcodeOf w = 0x14) : build w lit = build14 w lit := by
  unfold build; rw [h]; rfl

theorem build_15 (w lit : Word96) (h : opcodeOf w = 0x15) : build w lit = build15 w lit := by
  unfold build; rw [h]; rfl

theorem build_16 (w lit : Word96) (h : opcodeOf w = 0x16) : build w lit = build16 w lit := by
  unfold build; rw [h]; rfl

theorem build_17 (w lit : Word96) (h : opcodeOf w = 0x17) : build w lit = build17 w lit := by
  unfold build; rw [h]; rfl

theorem build_18 (w lit : Word96) (h : opcodeOf w = 0x18) : build w lit = build18 w lit := by
  unfold build; rw [h]; rfl

theorem build_19 (w lit : Word96) (h : opcodeOf w = 0x19) : build w lit = build19 w lit := by
  unfold build; rw [h]; rfl

theorem build_20 (w lit : Word96) (h : opcodeOf w = 0x20) : build w lit = build20 w lit := by
  unfold build; rw [h]; rfl

theorem build_21 (w lit : Word96) (h : opcodeOf w = 0x21) : build w lit = build21 w lit := by
  unfold build; rw [h]; rfl

theorem build_22 (w lit : Word96) (h : opcodeOf w = 0x22) : build w lit = build22 w lit := by
  unfold build; rw [h]; rfl

theorem build_23 (w lit : Word96) (h : opcodeOf w = 0x23) : build w lit = build23 w lit := by
  unfold build; rw [h]; rfl

theorem build_24 (w lit : Word96) (h : opcodeOf w = 0x24) : build w lit = build24 w lit := by
  unfold build; rw [h]; rfl

theorem build_25 (w lit : Word96) (h : opcodeOf w = 0x25) : build w lit = build25 w lit := by
  unfold build; rw [h]; rfl

theorem build_26 (w lit : Word96) (h : opcodeOf w = 0x26) : build w lit = build26 w lit := by
  unfold build; rw [h]; rfl

theorem build_27 (w lit : Word96) (h : opcodeOf w = 0x27) : build w lit = build27 w lit := by
  unfold build; rw [h]; rfl

theorem build_30 (w lit : Word96) (h : opcodeOf w = 0x30) : build w lit = build30 w lit := by
  unfold build; rw [h]; rfl

theorem build_31 (w lit : Word96) (h : opcodeOf w = 0x31) : build w lit = build31 w lit := by
  unfold build; rw [h]; rfl

theorem build_32 (w lit : Word96) (h : opcodeOf w = 0x32) : build w lit = build32 w lit := by
  unfold build; rw [h]; rfl

theorem build_33 (w lit : Word96) (h : opcodeOf w = 0x33) : build w lit = build33 w lit := by
  unfold build; rw [h]; rfl

theorem build_34 (w lit : Word96) (h : opcodeOf w = 0x34) : build w lit = build34 w lit := by
  unfold build; rw [h]; rfl

theorem build_35 (w lit : Word96) (h : opcodeOf w = 0x35) : build w lit = build35 w lit := by
  unfold build; rw [h]; rfl

theorem build_36 (w lit : Word96) (h : opcodeOf w = 0x36) : build w lit = build36 w lit := by
  unfold build; rw [h]; rfl

theorem build_37 (w lit : Word96) (h : opcodeOf w = 0x37) : build w lit = build37 w lit := by
  unfold build; rw [h]; rfl

theorem build_40 (w lit : Word96) (h : opcodeOf w = 0x40) : build w lit = build40 w lit := by
  unfold build; rw [h]; rfl

theorem build_41 (w lit : Word96) (h : opcodeOf w = 0x41) : build w lit = build41 w lit := by
  unfold build; rw [h]; rfl

theorem build_42 (w lit : Word96) (h : opcodeOf w = 0x42) : build w lit = build42 w lit := by
  unfold build; rw [h]; rfl

theorem build_43 (w lit : Word96) (h : opcodeOf w = 0x43) : build w lit = build43 w lit := by
  unfold build; rw [h]; rfl

theorem build_44 (w lit : Word96) (h : opcodeOf w = 0x44) : build w lit = build44 w lit := by
  unfold build; rw [h]; rfl

theorem build_45 (w lit : Word96) (h : opcodeOf w = 0x45) : build w lit = build45 w lit := by
  unfold build; rw [h]; rfl

theorem build_46 (w lit : Word96) (h : opcodeOf w = 0x46) : build w lit = build46 w lit := by
  unfold build; rw [h]; rfl

theorem build_47 (w lit : Word96) (h : opcodeOf w = 0x47) : build w lit = build47 w lit := by
  unfold build; rw [h]; rfl

theorem build_48 (w lit : Word96) (h : opcodeOf w = 0x48) : build w lit = build48 w lit := by
  unfold build; rw [h]; rfl

theorem build_49 (w lit : Word96) (h : opcodeOf w = 0x49) : build w lit = build49 w lit := by
  unfold build; rw [h]; rfl

theorem build_4A (w lit : Word96) (h : opcodeOf w = 0x4A) : build w lit = build4A w lit := by
  unfold build; rw [h]; rfl

theorem build_4B (w lit : Word96) (h : opcodeOf w = 0x4B) : build w lit = build4B w lit := by
  unfold build; rw [h]; rfl

theorem build_4C (w lit : Word96) (h : opcodeOf w = 0x4C) : build w lit = build4C w lit := by
  unfold build; rw [h]; rfl

theorem build_50 (w lit : Word96) (h : opcodeOf w = 0x50) : build w lit = build50 w lit := by
  unfold build; rw [h]; rfl

theorem build_51 (w lit : Word96) (h : opcodeOf w = 0x51) : build w lit = build51 w lit := by
  unfold build; rw [h]; rfl

theorem build_52 (w lit : Word96) (h : opcodeOf w = 0x52) : build w lit = build52 w lit := by
  unfold build; rw [h]; rfl

theorem build_53 (w lit : Word96) (h : opcodeOf w = 0x53) : build w lit = build53 w lit := by
  unfold build; rw [h]; rfl

theorem build_54 (w lit : Word96) (h : opcodeOf w = 0x54) : build w lit = build54 w lit := by
  unfold build; rw [h]; rfl

theorem build_55 (w lit : Word96) (h : opcodeOf w = 0x55) : build w lit = build55 w lit := by
  unfold build; rw [h]; rfl

theorem build_56 (w lit : Word96) (h : opcodeOf w = 0x56) : build w lit = build56 w lit := by
  unfold build; rw [h]; rfl

theorem build_57 (w lit : Word96) (h : opcodeOf w = 0x57) : build w lit = build57 w lit := by
  unfold build; rw [h]; rfl

theorem build_58 (w lit : Word96) (h : opcodeOf w = 0x58) : build w lit = build58 w lit := by
  unfold build; rw [h]; rfl

theorem build_60 (w lit : Word96) (h : opcodeOf w = 0x60) : build w lit = build60 w lit := by
  unfold build; rw [h]; rfl

theorem build_61 (w lit : Word96) (h : opcodeOf w = 0x61) : build w lit = build61 w lit := by
  unfold build; rw [h]; rfl

theorem build_62 (w lit : Word96) (h : opcodeOf w = 0x62) : build w lit = build62 w lit := by
  unfold build; rw [h]; rfl

theorem build_63 (w lit : Word96) (h : opcodeOf w = 0x63) : build w lit = build63 w lit := by
  unfold build; rw [h]; rfl

theorem build_64 (w lit : Word96) (h : opcodeOf w = 0x64) : build w lit = build64 w lit := by
  unfold build; rw [h]; rfl

theorem build_70 (w lit : Word96) (h : opcodeOf w = 0x70) : build w lit = build70 w lit := by
  unfold build; rw [h]; rfl

theorem build_71 (w lit : Word96) (h : opcodeOf w = 0x71) : build w lit = build71 w lit := by
  unfold build; rw [h]; rfl

theorem build_72 (w lit : Word96) (h : opcodeOf w = 0x72) : build w lit = build72 w lit := by
  unfold build; rw [h]; rfl

theorem build_73 (w lit : Word96) (h : opcodeOf w = 0x73) : build w lit = build73 w lit := by
  unfold build; rw [h]; rfl

theorem build_74 (w lit : Word96) (h : opcodeOf w = 0x74) : build w lit = build74 w lit := by
  unfold build; rw [h]; rfl

theorem build_75 (w lit : Word96) (h : opcodeOf w = 0x75) : build w lit = build75 w lit := by
  unfold build; rw [h]; rfl

theorem build_76 (w lit : Word96) (h : opcodeOf w = 0x76) : build w lit = build76 w lit := by
  unfold build; rw [h]; rfl

theorem build_77 (w lit : Word96) (h : opcodeOf w = 0x77) : build w lit = build77 w lit := by
  unfold build; rw [h]; rfl

theorem build_78 (w lit : Word96) (h : opcodeOf w = 0x78) : build w lit = build78 w lit := by
  unfold build; rw [h]; rfl

theorem build_79 (w lit : Word96) (h : opcodeOf w = 0x79) : build w lit = build79 w lit := by
  unfold build; rw [h]; rfl

theorem build_7A (w lit : Word96) (h : opcodeOf w = 0x7A) : build w lit = build7A w lit := by
  unfold build; rw [h]; rfl

theorem build_7B (w lit : Word96) (h : opcodeOf w = 0x7B) : build w lit = build7B w lit := by
  unfold build; rw [h]; rfl

theorem build_7C (w lit : Word96) (h : opcodeOf w = 0x7C) : build w lit = build7C w lit := by
  unfold build; rw [h]; rfl

theorem build_7D (w lit : Word96) (h : opcodeOf w = 0x7D) : build w lit = build7D w lit := by
  unfold build; rw [h]; rfl

theorem build_7E (w lit : Word96) (h : opcodeOf w = 0x7E) : build w lit = build7E w lit := by
  unfold build; rw [h]; rfl

theorem build_7F (w lit : Word96) (h : opcodeOf w = 0x7F) : build w lit = build7F w lit := by
  unfold build; rw [h]; rfl

theorem build_80 (w lit : Word96) (h : opcodeOf w = 0x80) : build w lit = build80 w lit := by
  unfold build; rw [h]; rfl

theorem build_81 (w lit : Word96) (h : opcodeOf w = 0x81) : build w lit = build81 w lit := by
  unfold build; rw [h]; rfl

theorem build_82 (w lit : Word96) (h : opcodeOf w = 0x82) : build w lit = build82 w lit := by
  unfold build; rw [h]; rfl

theorem build_83 (w lit : Word96) (h : opcodeOf w = 0x83) : build w lit = build83 w lit := by
  unfold build; rw [h]; rfl

theorem build_84 (w lit : Word96) (h : opcodeOf w = 0x84) : build w lit = build84 w lit := by
  unfold build; rw [h]; rfl

theorem build_85 (w lit : Word96) (h : opcodeOf w = 0x85) : build w lit = build85 w lit := by
  unfold build; rw [h]; rfl

theorem build_86 (w lit : Word96) (h : opcodeOf w = 0x86) : build w lit = build86 w lit := by
  unfold build; rw [h]; rfl

theorem build_90 (w lit : Word96) (h : opcodeOf w = 0x90) : build w lit = build90 w lit := by
  unfold build; rw [h]; rfl

theorem build_91 (w lit : Word96) (h : opcodeOf w = 0x91) : build w lit = build91 w lit := by
  unfold build; rw [h]; rfl

theorem build_92 (w lit : Word96) (h : opcodeOf w = 0x92) : build w lit = build92 w lit := by
  unfold build; rw [h]; rfl

theorem build_A0 (w lit : Word96) (h : opcodeOf w = 0xA0) : build w lit = buildA0 w lit := by
  unfold build; rw [h]; rfl

theorem build_A1 (w lit : Word96) (h : opcodeOf w = 0xA1) : build w lit = buildA1 w lit := by
  unfold build; rw [h]; rfl

theorem build_A2 (w lit : Word96) (h : opcodeOf w = 0xA2) : build w lit = buildA2 w lit := by
  unfold build; rw [h]; rfl

theorem build_A3 (w lit : Word96) (h : opcodeOf w = 0xA3) : build w lit = buildA3 w lit := by
  unfold build; rw [h]; rfl

theorem build_B0 (w lit : Word96) (h : opcodeOf w = 0xB0) : build w lit = buildB0 w lit := by
  unfold build; rw [h]; rfl

theorem build_B1 (w lit : Word96) (h : opcodeOf w = 0xB1) : build w lit = buildB1 w lit := by
  unfold build; rw [h]; rfl

theorem build_B2 (w lit : Word96) (h : opcodeOf w = 0xB2) : build w lit = buildB2 w lit := by
  unfold build; rw [h]; rfl

theorem build_B3 (w lit : Word96) (h : opcodeOf w = 0xB3) : build w lit = buildB3 w lit := by
  unfold build; rw [h]; rfl

theorem build_B4 (w lit : Word96) (h : opcodeOf w = 0xB4) : build w lit = buildB4 w lit := by
  unfold build; rw [h]; rfl

theorem build_B5 (w lit : Word96) (h : opcodeOf w = 0xB5) : build w lit = buildB5 w lit := by
  unfold build; rw [h]; rfl

theorem build_B6 (w lit : Word96) (h : opcodeOf w = 0xB6) : build w lit = buildB6 w lit := by
  unfold build; rw [h]; rfl

theorem build_B7 (w lit : Word96) (h : opcodeOf w = 0xB7) : build w lit = buildB7 w lit := by
  unfold build; rw [h]; rfl

theorem build_B8 (w lit : Word96) (h : opcodeOf w = 0xB8) : build w lit = buildB8 w lit := by
  unfold build; rw [h]; rfl

theorem build_B9 (w lit : Word96) (h : opcodeOf w = 0xB9) : build w lit = buildB9 w lit := by
  unfold build; rw [h]; rfl

theorem build_BA (w lit : Word96) (h : opcodeOf w = 0xBA) : build w lit = buildBA w lit := by
  unfold build; rw [h]; rfl

theorem build_BB (w lit : Word96) (h : opcodeOf w = 0xBB) : build w lit = buildBB w lit := by
  unfold build; rw [h]; rfl

theorem build_BC (w lit : Word96) (h : opcodeOf w = 0xBC) : build w lit = buildBC w lit := by
  unfold build; rw [h]; rfl

namespace RoundTrip

theorem nop (g : Guard) : Statement (.nop g) := by
  intro cx lit hwf hlit
  show build (word 0x00 g) lit = _
  rw [build_00 _ _ (by simp (disch := decide) only [opcode_put, opcode_word])]
  unfold build00
  simp (disch := decide) only [guard_put, guard_word, extract_put_same, extract_put_other]

theorem halt (g : Guard) : Statement (.halt g) := by
  intro cx lit hwf hlit
  show build (word 0x01 g) lit = _
  rw [build_01 _ _ (by simp (disch := decide) only [opcode_put, opcode_word])]
  unfold build01
  simp (disch := decide) only [guard_put, guard_word, extract_put_same, extract_put_other]

theorem trapSw (g : Guard) (imm : BitVec 48) : Statement (.trapSw g imm) := by
  intro cx lit hwf hlit
  show build (put (word 0x02 g) 8 imm) lit = _
  rw [build_02 _ _ (by simp (disch := decide) only [opcode_put, opcode_word])]
  have hf : (put (word 0x02 g) 8 imm).extractLsb' 56 8 = 0x00 := by simp (disch := decide) only [extract_put_same, extract_put_other, fn_word]
  unfold build02; rw [hf]
  show some _ = _
  simp (disch := decide) only [guard_put, guard_word, extract_put_same, extract_put_other]

theorem rft (g : Guard) : Statement (.rft g) := by
  intro cx lit hwf hlit
  show build (word 0x03 g) lit = _
  rw [build_03 _ _ (by simp (disch := decide) only [opcode_put, opcode_word])]
  unfold build03
  simp (disch := decide) only [guard_put, guard_word, extract_put_same, extract_put_other]

theorem sysr (g : Guard) (d : BitVec 6) (reg : BitVec 8) : Statement (.sysr g d reg) := by
  intro cx lit hwf hlit
  show build (put (put (word 0x04 g) 70 d) 56 reg) lit = _
  rw [build_04 _ _ (by simp (disch := decide) only [opcode_put, opcode_word])]
  have hr := sysReg_of_sysr hwf
  simp (disch := decide) only [build04, guard_put, guard_word, extract_put_same, extract_put_other, hr, if_true]

theorem sysw (g : Guard) (a : BitVec 6) (reg : BitVec 8) : Statement (.sysw g a reg) := by
  intro cx lit hwf hlit
  show build (put (put (word 0x05 g) 64 a) 56 reg) lit = _
  rw [build_05 _ _ (by simp (disch := decide) only [opcode_put, opcode_word])]
  have hr := sysReg_of_sysw hwf
  simp (disch := decide) only [build05, guard_put, guard_word, extract_put_same, extract_put_other, hr, if_true]

theorem ovlyN (g : Guard) (imm : BitVec 48) : Statement (.ovlyN g imm) := by
  intro cx lit hwf hlit
  show build (put (word 0x06 g) 8 imm) lit = _
  rw [build_06 _ _ (by simp (disch := decide) only [opcode_put, opcode_word])]
  have hf : (put (word 0x06 g) 8 imm).extractLsb' 56 8 = 0x00 := by simp (disch := decide) only [extract_put_same, extract_put_other, fn_word]
  unfold build06; rw [hf]
  show some _ = _
  simp (disch := decide) only [guard_put, guard_word, extract_put_same, extract_put_other]

theorem ovlyS (g : Guard) (a : BitVec 6) : Statement (.ovlyS g a) := by
  intro cx lit hwf hlit
  show build (put (put (word 0x06 g) 56 (0x01 : BitVec 8)) 64 a) lit = _
  rw [build_06 _ _ (by simp (disch := decide) only [opcode_put, opcode_word])]
  have hf : (put (put (word 0x06 g) 56 (0x01 : BitVec 8)) 64 a).extractLsb' 56 8 = 0x01 := by simp (disch := decide) only [extract_put_same, extract_put_other, fn_word]
  unfold build06; rw [hf]
  show some _ = _
  simp (disch := decide) only [guard_put, guard_word, extract_put_same, extract_put_other]

theorem cardone (g : Guard) : Statement (.cardone g) := by
  intro cx lit hwf hlit
  show build (word 0x07 g) lit = _
  rw [build_07 _ _ (by simp (disch := decide) only [opcode_put, opcode_word])]
  unfold build07
  simp (disch := decide) only [guard_put, guard_word, extract_put_same, extract_put_other]

theorem dlaunchP (g : Guard) (d : BitVec 6) (a : BitVec 6) : Statement (.dlaunchP g d a) := by
  intro cx lit hwf hlit
  show build (put (put (word 0x08 g) 70 d) 64 a) lit = _
  rw [build_08 _ _ (by simp (disch := decide) only [opcode_put, opcode_word])]
  have hf : (put (put (word 0x08 g) 70 d) 64 a).extractLsb' 44 8 = 0x00 := by simp (disch := decide) only [extract_put_same, extract_put_other, fn_word]
  unfold build08; rw [hf]
  show some _ = _
  simp (disch := decide) only [guard_put, guard_word, extract_put_same, extract_put_other]

theorem traceTs (g : Guard) : Statement (.traceTs g) := by
  intro cx lit hwf hlit
  show build (word 0x09 g) lit = _
  rw [build_09 _ _ (by simp (disch := decide) only [opcode_put, opcode_word])]
  have hf : (word 0x09 g).extractLsb' 56 8 = 0x00 := by simp (disch := decide) only [extract_put_same, extract_put_other, fn_word]
  unfold build09; rw [hf]
  show some _ = _
  simp (disch := decide) only [guard_put, guard_word, extract_put_same, extract_put_other]

theorem traceBr (g : Guard) : Statement (.traceBr g) := by
  intro cx lit hwf hlit
  show build (put (word 0x09 g) 56 (0x01 : BitVec 8)) lit = _
  rw [build_09 _ _ (by simp (disch := decide) only [opcode_put, opcode_word])]
  have hf : (put (word 0x09 g) 56 (0x01 : BitVec 8)).extractLsb' 56 8 = 0x01 := by simp (disch := decide) only [extract_put_same, extract_put_other, fn_word]
  unfold build09; rw [hf]
  show some _ = _
  simp (disch := decide) only [guard_put, guard_word, extract_put_same, extract_put_other]

theorem saluAdd (g : Guard) (d : BitVec 6) (a : BitVec 6) (b : BitVec 6) : Statement (.saluAdd g d a b) := by
  intro cx lit hwf hlit
  show build (put (put (put (word 0x10 g) 70 d) 64 a) 58 b) lit = _
  rw [build_10 _ _ (by simp (disch := decide) only [opcode_put, opcode_word])]
  have hf : (put (put (put (word 0x10 g) 70 d) 64 a) 58 b).extractLsb' 44 8 = 0x00 := by simp (disch := decide) only [extract_put_same, extract_put_other, fn_word]
  unfold build10; rw [hf]
  show some _ = _
  simp (disch := decide) only [guard_put, guard_word, extract_put_same, extract_put_other]

theorem saluSub (g : Guard) (d : BitVec 6) (a : BitVec 6) (b : BitVec 6) : Statement (.saluSub g d a b) := by
  intro cx lit hwf hlit
  show build (put (put (put (put (word 0x10 g) 44 (0x01 : BitVec 8)) 70 d) 64 a) 58 b) lit = _
  rw [build_10 _ _ (by simp (disch := decide) only [opcode_put, opcode_word])]
  have hf : (put (put (put (put (word 0x10 g) 44 (0x01 : BitVec 8)) 70 d) 64 a) 58 b).extractLsb' 44 8 = 0x01 := by simp (disch := decide) only [extract_put_same, extract_put_other, fn_word]
  unfold build10; rw [hf]
  show some _ = _
  simp (disch := decide) only [guard_put, guard_word, extract_put_same, extract_put_other]

theorem saluAnd (g : Guard) (d : BitVec 6) (a : BitVec 6) (b : BitVec 6) : Statement (.saluAnd g d a b) := by
  intro cx lit hwf hlit
  show build (put (put (put (put (word 0x10 g) 44 (0x02 : BitVec 8)) 70 d) 64 a) 58 b) lit = _
  rw [build_10 _ _ (by simp (disch := decide) only [opcode_put, opcode_word])]
  have hf : (put (put (put (put (word 0x10 g) 44 (0x02 : BitVec 8)) 70 d) 64 a) 58 b).extractLsb' 44 8 = 0x02 := by simp (disch := decide) only [extract_put_same, extract_put_other, fn_word]
  unfold build10; rw [hf]
  show some _ = _
  simp (disch := decide) only [guard_put, guard_word, extract_put_same, extract_put_other]

theorem saluOr (g : Guard) (d : BitVec 6) (a : BitVec 6) (b : BitVec 6) : Statement (.saluOr g d a b) := by
  intro cx lit hwf hlit
  show build (put (put (put (put (word 0x10 g) 44 (0x03 : BitVec 8)) 70 d) 64 a) 58 b) lit = _
  rw [build_10 _ _ (by simp (disch := decide) only [opcode_put, opcode_word])]
  have hf : (put (put (put (put (word 0x10 g) 44 (0x03 : BitVec 8)) 70 d) 64 a) 58 b).extractLsb' 44 8 = 0x03 := by simp (disch := decide) only [extract_put_same, extract_put_other, fn_word]
  unfold build10; rw [hf]
  show some _ = _
  simp (disch := decide) only [guard_put, guard_word, extract_put_same, extract_put_other]

theorem saluXor (g : Guard) (d : BitVec 6) (a : BitVec 6) (b : BitVec 6) : Statement (.saluXor g d a b) := by
  intro cx lit hwf hlit
  show build (put (put (put (put (word 0x10 g) 44 (0x04 : BitVec 8)) 70 d) 64 a) 58 b) lit = _
  rw [build_10 _ _ (by simp (disch := decide) only [opcode_put, opcode_word])]
  have hf : (put (put (put (put (word 0x10 g) 44 (0x04 : BitVec 8)) 70 d) 64 a) 58 b).extractLsb' 44 8 = 0x04 := by simp (disch := decide) only [extract_put_same, extract_put_other, fn_word]
  unfold build10; rw [hf]
  show some _ = _
  simp (disch := decide) only [guard_put, guard_word, extract_put_same, extract_put_other]

theorem saluAndn (g : Guard) (d : BitVec 6) (a : BitVec 6) (b : BitVec 6) : Statement (.saluAndn g d a b) := by
  intro cx lit hwf hlit
  show build (put (put (put (put (word 0x10 g) 44 (0x05 : BitVec 8)) 70 d) 64 a) 58 b) lit = _
  rw [build_10 _ _ (by simp (disch := decide) only [opcode_put, opcode_word])]
  have hf : (put (put (put (put (word 0x10 g) 44 (0x05 : BitVec 8)) 70 d) 64 a) 58 b).extractLsb' 44 8 = 0x05 := by simp (disch := decide) only [extract_put_same, extract_put_other, fn_word]
  unfold build10; rw [hf]
  show some _ = _
  simp (disch := decide) only [guard_put, guard_word, extract_put_same, extract_put_other]

theorem saluShl (g : Guard) (d : BitVec 6) (a : BitVec 6) (b : BitVec 6) : Statement (.saluShl g d a b) := by
  intro cx lit hwf hlit
  show build (put (put (put (put (word 0x10 g) 44 (0x06 : BitVec 8)) 70 d) 64 a) 58 b) lit = _
  rw [build_10 _ _ (by simp (disch := decide) only [opcode_put, opcode_word])]
  have hf : (put (put (put (put (word 0x10 g) 44 (0x06 : BitVec 8)) 70 d) 64 a) 58 b).extractLsb' 44 8 = 0x06 := by simp (disch := decide) only [extract_put_same, extract_put_other, fn_word]
  unfold build10; rw [hf]
  show some _ = _
  simp (disch := decide) only [guard_put, guard_word, extract_put_same, extract_put_other]

theorem saluShr (g : Guard) (d : BitVec 6) (a : BitVec 6) (b : BitVec 6) : Statement (.saluShr g d a b) := by
  intro cx lit hwf hlit
  show build (put (put (put (put (word 0x10 g) 44 (0x07 : BitVec 8)) 70 d) 64 a) 58 b) lit = _
  rw [build_10 _ _ (by simp (disch := decide) only [opcode_put, opcode_word])]
  have hf : (put (put (put (put (word 0x10 g) 44 (0x07 : BitVec 8)) 70 d) 64 a) 58 b).extractLsb' 44 8 = 0x07 := by simp (disch := decide) only [extract_put_same, extract_put_other, fn_word]
  unfold build10; rw [hf]
  show some _ = _
  simp (disch := decide) only [guard_put, guard_word, extract_put_same, extract_put_other]

theorem saluSar (g : Guard) (d : BitVec 6) (a : BitVec 6) (b : BitVec 6) : Statement (.saluSar g d a b) := by
  intro cx lit hwf hlit
  show build (put (put (put (put (word 0x10 g) 44 (0x08 : BitVec 8)) 70 d) 64 a) 58 b) lit = _
  rw [build_10 _ _ (by simp (disch := decide) only [opcode_put, opcode_word])]
  have hf : (put (put (put (put (word 0x10 g) 44 (0x08 : BitVec 8)) 70 d) 64 a) 58 b).extractLsb' 44 8 = 0x08 := by simp (disch := decide) only [extract_put_same, extract_put_other, fn_word]
  unfold build10; rw [hf]
  show some _ = _
  simp (disch := decide) only [guard_put, guard_word, extract_put_same, extract_put_other]

theorem saluRol (g : Guard) (d : BitVec 6) (a : BitVec 6) (b : BitVec 6) : Statement (.saluRol g d a b) := by
  intro cx lit hwf hlit
  show build (put (put (put (put (word 0x10 g) 44 (0x09 : BitVec 8)) 70 d) 64 a) 58 b) lit = _
  rw [build_10 _ _ (by simp (disch := decide) only [opcode_put, opcode_word])]
  have hf : (put (put (put (put (word 0x10 g) 44 (0x09 : BitVec 8)) 70 d) 64 a) 58 b).extractLsb' 44 8 = 0x09 := by simp (disch := decide) only [extract_put_same, extract_put_other, fn_word]
  unfold build10; rw [hf]
  show some _ = _
  simp (disch := decide) only [guard_put, guard_word, extract_put_same, extract_put_other]

theorem saluMin (g : Guard) (d : BitVec 6) (a : BitVec 6) (b : BitVec 6) : Statement (.saluMin g d a b) := by
  intro cx lit hwf hlit
  show build (put (put (put (put (word 0x10 g) 44 (0x0A : BitVec 8)) 70 d) 64 a) 58 b) lit = _
  rw [build_10 _ _ (by simp (disch := decide) only [opcode_put, opcode_word])]
  have hf : (put (put (put (put (word 0x10 g) 44 (0x0A : BitVec 8)) 70 d) 64 a) 58 b).extractLsb' 44 8 = 0x0A := by simp (disch := decide) only [extract_put_same, extract_put_other, fn_word]
  unfold build10; rw [hf]
  show some _ = _
  simp (disch := decide) only [guard_put, guard_word, extract_put_same, extract_put_other]

theorem saluMax (g : Guard) (d : BitVec 6) (a : BitVec 6) (b : BitVec 6) : Statement (.saluMax g d a b) := by
  intro cx lit hwf hlit
  show build (put (put (put (put (word 0x10 g) 44 (0x0B : BitVec 8)) 70 d) 64 a) 58 b) lit = _
  rw [build_10 _ _ (by simp (disch := decide) only [opcode_put, opcode_word])]
  have hf : (put (put (put (put (word 0x10 g) 44 (0x0B : BitVec 8)) 70 d) 64 a) 58 b).extractLsb' 44 8 = 0x0B := by simp (disch := decide) only [extract_put_same, extract_put_other, fn_word]
  unfold build10; rw [hf]
  show some _ = _
  simp (disch := decide) only [guard_put, guard_word, extract_put_same, extract_put_other]

theorem saluMinu (g : Guard) (d : BitVec 6) (a : BitVec 6) (b : BitVec 6) : Statement (.saluMinu g d a b) := by
  intro cx lit hwf hlit
  show build (put (put (put (put (word 0x10 g) 44 (0x0C : BitVec 8)) 70 d) 64 a) 58 b) lit = _
  rw [build_10 _ _ (by simp (disch := decide) only [opcode_put, opcode_word])]
  have hf : (put (put (put (put (word 0x10 g) 44 (0x0C : BitVec 8)) 70 d) 64 a) 58 b).extractLsb' 44 8 = 0x0C := by simp (disch := decide) only [extract_put_same, extract_put_other, fn_word]
  unfold build10; rw [hf]
  show some _ = _
  simp (disch := decide) only [guard_put, guard_word, extract_put_same, extract_put_other]

theorem saluMaxu (g : Guard) (d : BitVec 6) (a : BitVec 6) (b : BitVec 6) : Statement (.saluMaxu g d a b) := by
  intro cx lit hwf hlit
  show build (put (put (put (put (word 0x10 g) 44 (0x0D : BitVec 8)) 70 d) 64 a) 58 b) lit = _
  rw [build_10 _ _ (by simp (disch := decide) only [opcode_put, opcode_word])]
  have hf : (put (put (put (put (word 0x10 g) 44 (0x0D : BitVec 8)) 70 d) 64 a) 58 b).extractLsb' 44 8 = 0x0D := by simp (disch := decide) only [extract_put_same, extract_put_other, fn_word]
  unfold build10; rw [hf]
  show some _ = _
  simp (disch := decide) only [guard_put, guard_word, extract_put_same, extract_put_other]

theorem saluMul (g : Guard) (d : BitVec 6) (a : BitVec 6) (b : BitVec 6) : Statement (.saluMul g d a b) := by
  intro cx lit hwf hlit
  show build (put (put (put (put (word 0x10 g) 44 (0x10 : BitVec 8)) 70 d) 64 a) 58 b) lit = _
  rw [build_10 _ _ (by simp (disch := decide) only [opcode_put, opcode_word])]
  have hf : (put (put (put (put (word 0x10 g) 44 (0x10 : BitVec 8)) 70 d) 64 a) 58 b).extractLsb' 44 8 = 0x10 := by simp (disch := decide) only [extract_put_same, extract_put_other, fn_word]
  unfold build10; rw [hf]
  show some _ = _
  simp (disch := decide) only [guard_put, guard_word, extract_put_same, extract_put_other]

theorem saluMulh (g : Guard) (d : BitVec 6) (a : BitVec 6) (b : BitVec 6) : Statement (.saluMulh g d a b) := by
  intro cx lit hwf hlit
  show build (put (put (put (put (word 0x10 g) 44 (0x11 : BitVec 8)) 70 d) 64 a) 58 b) lit = _
  rw [build_10 _ _ (by simp (disch := decide) only [opcode_put, opcode_word])]
  have hf : (put (put (put (put (word 0x10 g) 44 (0x11 : BitVec 8)) 70 d) 64 a) 58 b).extractLsb' 44 8 = 0x11 := by simp (disch := decide) only [extract_put_same, extract_put_other, fn_word]
  unfold build10; rw [hf]
  show some _ = _
  simp (disch := decide) only [guard_put, guard_word, extract_put_same, extract_put_other]

theorem saluMulhu (g : Guard) (d : BitVec 6) (a : BitVec 6) (b : BitVec 6) : Statement (.saluMulhu g d a b) := by
  intro cx lit hwf hlit
  show build (put (put (put (put (word 0x10 g) 44 (0x12 : BitVec 8)) 70 d) 64 a) 58 b) lit = _
  rw [build_10 _ _ (by simp (disch := decide) only [opcode_put, opcode_word])]
  have hf : (put (put (put (put (word 0x10 g) 44 (0x12 : BitVec 8)) 70 d) 64 a) 58 b).extractLsb' 44 8 = 0x12 := by simp (disch := decide) only [extract_put_same, extract_put_other, fn_word]
  unfold build10; rw [hf]
  show some _ = _
  simp (disch := decide) only [guard_put, guard_word, extract_put_same, extract_put_other]

theorem saluSeq (g : Guard) (d : BitVec 6) (a : BitVec 6) (b : BitVec 6) : Statement (.saluSeq g d a b) := by
  intro cx lit hwf hlit
  show build (put (put (put (put (word 0x10 g) 44 (0x18 : BitVec 8)) 70 d) 64 a) 58 b) lit = _
  rw [build_10 _ _ (by simp (disch := decide) only [opcode_put, opcode_word])]
  have hf : (put (put (put (put (word 0x10 g) 44 (0x18 : BitVec 8)) 70 d) 64 a) 58 b).extractLsb' 44 8 = 0x18 := by simp (disch := decide) only [extract_put_same, extract_put_other, fn_word]
  unfold build10; rw [hf]
  show some _ = _
  simp (disch := decide) only [guard_put, guard_word, extract_put_same, extract_put_other]

theorem saluSne (g : Guard) (d : BitVec 6) (a : BitVec 6) (b : BitVec 6) : Statement (.saluSne g d a b) := by
  intro cx lit hwf hlit
  show build (put (put (put (put (word 0x10 g) 44 (0x19 : BitVec 8)) 70 d) 64 a) 58 b) lit = _
  rw [build_10 _ _ (by simp (disch := decide) only [opcode_put, opcode_word])]
  have hf : (put (put (put (put (word 0x10 g) 44 (0x19 : BitVec 8)) 70 d) 64 a) 58 b).extractLsb' 44 8 = 0x19 := by simp (disch := decide) only [extract_put_same, extract_put_other, fn_word]
  unfold build10; rw [hf]
  show some _ = _
  simp (disch := decide) only [guard_put, guard_word, extract_put_same, extract_put_other]

theorem saluSlt (g : Guard) (d : BitVec 6) (a : BitVec 6) (b : BitVec 6) : Statement (.saluSlt g d a b) := by
  intro cx lit hwf hlit
  show build (put (put (put (put (word 0x10 g) 44 (0x1A : BitVec 8)) 70 d) 64 a) 58 b) lit = _
  rw [build_10 _ _ (by simp (disch := decide) only [opcode_put, opcode_word])]
  have hf : (put (put (put (put (word 0x10 g) 44 (0x1A : BitVec 8)) 70 d) 64 a) 58 b).extractLsb' 44 8 = 0x1A := by simp (disch := decide) only [extract_put_same, extract_put_other, fn_word]
  unfold build10; rw [hf]
  show some _ = _
  simp (disch := decide) only [guard_put, guard_word, extract_put_same, extract_put_other]

theorem saluSltu (g : Guard) (d : BitVec 6) (a : BitVec 6) (b : BitVec 6) : Statement (.saluSltu g d a b) := by
  intro cx lit hwf hlit
  show build (put (put (put (put (word 0x10 g) 44 (0x1B : BitVec 8)) 70 d) 64 a) 58 b) lit = _
  rw [build_10 _ _ (by simp (disch := decide) only [opcode_put, opcode_word])]
  have hf : (put (put (put (put (word 0x10 g) 44 (0x1B : BitVec 8)) 70 d) 64 a) 58 b).extractLsb' 44 8 = 0x1B := by simp (disch := decide) only [extract_put_same, extract_put_other, fn_word]
  unfold build10; rw [hf]
  show some _ = _
  simp (disch := decide) only [guard_put, guard_word, extract_put_same, extract_put_other]

theorem saluSel (g : Guard) (d : BitVec 6) (a : BitVec 6) (b : BitVec 6) (c : BitVec 6) : Statement (.saluSel g d a b c) := by
  intro cx lit hwf hlit
  show build (put (put (put (put (put (word 0x10 g) 44 (0x1C : BitVec 8)) 70 d) 64 a) 58 b) 52 c) lit = _
  rw [build_10 _ _ (by simp (disch := decide) only [opcode_put, opcode_word])]
  have hf : (put (put (put (put (put (word 0x10 g) 44 (0x1C : BitVec 8)) 70 d) 64 a) 58 b) 52 c).extractLsb' 44 8 = 0x1C := by simp (disch := decide) only [extract_put_same, extract_put_other, fn_word]
  unfold build10; rw [hf]
  show some _ = _
  simp (disch := decide) only [guard_put, guard_word, extract_put_same, extract_put_other]

theorem saluClz (g : Guard) (d : BitVec 6) (a : BitVec 6) : Statement (.saluClz g d a) := by
  intro cx lit hwf hlit
  show build (put (put (put (word 0x10 g) 44 (0x20 : BitVec 8)) 70 d) 64 a) lit = _
  rw [build_10 _ _ (by simp (disch := decide) only [opcode_put, opcode_word])]
  have hf : (put (put (put (word 0x10 g) 44 (0x20 : BitVec 8)) 70 d) 64 a).extractLsb' 44 8 = 0x20 := by simp (disch := decide) only [extract_put_same, extract_put_other, fn_word]
  unfold build10; rw [hf]
  show some _ = _
  simp (disch := decide) only [guard_put, guard_word, extract_put_same, extract_put_other]

theorem saluCtz (g : Guard) (d : BitVec 6) (a : BitVec 6) : Statement (.saluCtz g d a) := by
  intro cx lit hwf hlit
  show build (put (put (put (word 0x10 g) 44 (0x21 : BitVec 8)) 70 d) 64 a) lit = _
  rw [build_10 _ _ (by simp (disch := decide) only [opcode_put, opcode_word])]
  have hf : (put (put (put (word 0x10 g) 44 (0x21 : BitVec 8)) 70 d) 64 a).extractLsb' 44 8 = 0x21 := by simp (disch := decide) only [extract_put_same, extract_put_other, fn_word]
  unfold build10; rw [hf]
  show some _ = _
  simp (disch := decide) only [guard_put, guard_word, extract_put_same, extract_put_other]

theorem saluPop (g : Guard) (d : BitVec 6) (a : BitVec 6) : Statement (.saluPop g d a) := by
  intro cx lit hwf hlit
  show build (put (put (put (word 0x10 g) 44 (0x22 : BitVec 8)) 70 d) 64 a) lit = _
  rw [build_10 _ _ (by simp (disch := decide) only [opcode_put, opcode_word])]
  have hf : (put (put (put (word 0x10 g) 44 (0x22 : BitVec 8)) 70 d) 64 a).extractLsb' 44 8 = 0x22 := by simp (disch := decide) only [extract_put_same, extract_put_other, fn_word]
  unfold build10; rw [hf]
  show some _ = _
  simp (disch := decide) only [guard_put, guard_word, extract_put_same, extract_put_other]

theorem saluiAdd (g : Guard) (d : BitVec 6) (a : BitVec 6) (imm : BitVec 48) : Statement (.saluiAdd g d a imm) := by
  intro cx lit hwf hlit
  show build (put (put (put (word 0x11 g) 70 d) 64 a) 8 imm) lit = _
  rw [build_11 _ _ (by simp (disch := decide) only [opcode_put, opcode_word])]
  have hf : (put (put (put (word 0x11 g) 70 d) 64 a) 8 imm).extractLsb' 56 8 = 0x00 := by simp (disch := decide) only [extract_put_same, extract_put_other, fn_word]
  unfold build11; rw [hf]
  show some _ = _
  simp (disch := decide) only [guard_put, guard_word, extract_put_same, extract_put_other]

theorem saluiSub (g : Guard) (d : BitVec 6) (a : BitVec 6) (imm : BitVec 48) : Statement (.saluiSub g d a imm) := by
  intro cx lit hwf hlit
  show build (put (put (put (put (word 0x11 g) 56 (0x01 : BitVec 8)) 70 d) 64 a) 8 imm) lit = _
  rw [build_11 _ _ (by simp (disch := decide) only [opcode_put, opcode_word])]
  have hf : (put (put (put (put (word 0x11 g) 56 (0x01 : BitVec 8)) 70 d) 64 a) 8 imm).extractLsb' 56 8 = 0x01 := by simp (disch := decide) only [extract_put_same, extract_put_other, fn_word]
  unfold build11; rw [hf]
  show some _ = _
  simp (disch := decide) only [guard_put, guard_word, extract_put_same, extract_put_other]

theorem saluiAnd (g : Guard) (d : BitVec 6) (a : BitVec 6) (imm : BitVec 48) : Statement (.saluiAnd g d a imm) := by
  intro cx lit hwf hlit
  show build (put (put (put (put (word 0x11 g) 56 (0x02 : BitVec 8)) 70 d) 64 a) 8 imm) lit = _
  rw [build_11 _ _ (by simp (disch := decide) only [opcode_put, opcode_word])]
  have hf : (put (put (put (put (word 0x11 g) 56 (0x02 : BitVec 8)) 70 d) 64 a) 8 imm).extractLsb' 56 8 = 0x02 := by simp (disch := decide) only [extract_put_same, extract_put_other, fn_word]
  unfold build11; rw [hf]
  show some _ = _
  simp (disch := decide) only [guard_put, guard_word, extract_put_same, extract_put_other]

theorem saluiOr (g : Guard) (d : BitVec 6) (a : BitVec 6) (imm : BitVec 48) : Statement (.saluiOr g d a imm) := by
  intro cx lit hwf hlit
  show build (put (put (put (put (word 0x11 g) 56 (0x03 : BitVec 8)) 70 d) 64 a) 8 imm) lit = _
  rw [build_11 _ _ (by simp (disch := decide) only [opcode_put, opcode_word])]
  have hf : (put (put (put (put (word 0x11 g) 56 (0x03 : BitVec 8)) 70 d) 64 a) 8 imm).extractLsb' 56 8 = 0x03 := by simp (disch := decide) only [extract_put_same, extract_put_other, fn_word]
  unfold build11; rw [hf]
  show some _ = _
  simp (disch := decide) only [guard_put, guard_word, extract_put_same, extract_put_other]

theorem saluiXor (g : Guard) (d : BitVec 6) (a : BitVec 6) (imm : BitVec 48) : Statement (.saluiXor g d a imm) := by
  intro cx lit hwf hlit
  show build (put (put (put (put (word 0x11 g) 56 (0x04 : BitVec 8)) 70 d) 64 a) 8 imm) lit = _
  rw [build_11 _ _ (by simp (disch := decide) only [opcode_put, opcode_word])]
  have hf : (put (put (put (put (word 0x11 g) 56 (0x04 : BitVec 8)) 70 d) 64 a) 8 imm).extractLsb' 56 8 = 0x04 := by simp (disch := decide) only [extract_put_same, extract_put_other, fn_word]
  unfold build11; rw [hf]
  show some _ = _
  simp (disch := decide) only [guard_put, guard_word, extract_put_same, extract_put_other]

theorem saluiAndn (g : Guard) (d : BitVec 6) (a : BitVec 6) (imm : BitVec 48) : Statement (.saluiAndn g d a imm) := by
  intro cx lit hwf hlit
  show build (put (put (put (put (word 0x11 g) 56 (0x05 : BitVec 8)) 70 d) 64 a) 8 imm) lit = _
  rw [build_11 _ _ (by simp (disch := decide) only [opcode_put, opcode_word])]
  have hf : (put (put (put (put (word 0x11 g) 56 (0x05 : BitVec 8)) 70 d) 64 a) 8 imm).extractLsb' 56 8 = 0x05 := by simp (disch := decide) only [extract_put_same, extract_put_other, fn_word]
  unfold build11; rw [hf]
  show some _ = _
  simp (disch := decide) only [guard_put, guard_word, extract_put_same, extract_put_other]

theorem saluiShl (g : Guard) (d : BitVec 6) (a : BitVec 6) (imm : BitVec 48) : Statement (.saluiShl g d a imm) := by
  intro cx lit hwf hlit
  show build (put (put (put (put (word 0x11 g) 56 (0x06 : BitVec 8)) 70 d) 64 a) 8 imm) lit = _
  rw [build_11 _ _ (by simp (disch := decide) only [opcode_put, opcode_word])]
  have hf : (put (put (put (put (word 0x11 g) 56 (0x06 : BitVec 8)) 70 d) 64 a) 8 imm).extractLsb' 56 8 = 0x06 := by simp (disch := decide) only [extract_put_same, extract_put_other, fn_word]
  unfold build11; rw [hf]
  show some _ = _
  simp (disch := decide) only [guard_put, guard_word, extract_put_same, extract_put_other]

theorem saluiShr (g : Guard) (d : BitVec 6) (a : BitVec 6) (imm : BitVec 48) : Statement (.saluiShr g d a imm) := by
  intro cx lit hwf hlit
  show build (put (put (put (put (word 0x11 g) 56 (0x07 : BitVec 8)) 70 d) 64 a) 8 imm) lit = _
  rw [build_11 _ _ (by simp (disch := decide) only [opcode_put, opcode_word])]
  have hf : (put (put (put (put (word 0x11 g) 56 (0x07 : BitVec 8)) 70 d) 64 a) 8 imm).extractLsb' 56 8 = 0x07 := by simp (disch := decide) only [extract_put_same, extract_put_other, fn_word]
  unfold build11; rw [hf]
  show some _ = _
  simp (disch := decide) only [guard_put, guard_word, extract_put_same, extract_put_other]

theorem saluiSar (g : Guard) (d : BitVec 6) (a : BitVec 6) (imm : BitVec 48) : Statement (.saluiSar g d a imm) := by
  intro cx lit hwf hlit
  show build (put (put (put (put (word 0x11 g) 56 (0x08 : BitVec 8)) 70 d) 64 a) 8 imm) lit = _
  rw [build_11 _ _ (by simp (disch := decide) only [opcode_put, opcode_word])]
  have hf : (put (put (put (put (word 0x11 g) 56 (0x08 : BitVec 8)) 70 d) 64 a) 8 imm).extractLsb' 56 8 = 0x08 := by simp (disch := decide) only [extract_put_same, extract_put_other, fn_word]
  unfold build11; rw [hf]
  show some _ = _
  simp (disch := decide) only [guard_put, guard_word, extract_put_same, extract_put_other]

theorem saluiRol (g : Guard) (d : BitVec 6) (a : BitVec 6) (imm : BitVec 48) : Statement (.saluiRol g d a imm) := by
  intro cx lit hwf hlit
  show build (put (put (put (put (word 0x11 g) 56 (0x09 : BitVec 8)) 70 d) 64 a) 8 imm) lit = _
  rw [build_11 _ _ (by simp (disch := decide) only [opcode_put, opcode_word])]
  have hf : (put (put (put (put (word 0x11 g) 56 (0x09 : BitVec 8)) 70 d) 64 a) 8 imm).extractLsb' 56 8 = 0x09 := by simp (disch := decide) only [extract_put_same, extract_put_other, fn_word]
  unfold build11; rw [hf]
  show some _ = _
  simp (disch := decide) only [guard_put, guard_word, extract_put_same, extract_put_other]

theorem saluiMin (g : Guard) (d : BitVec 6) (a : BitVec 6) (imm : BitVec 48) : Statement (.saluiMin g d a imm) := by
  intro cx lit hwf hlit
  show build (put (put (put (put (word 0x11 g) 56 (0x0A : BitVec 8)) 70 d) 64 a) 8 imm) lit = _
  rw [build_11 _ _ (by simp (disch := decide) only [opcode_put, opcode_word])]
  have hf : (put (put (put (put (word 0x11 g) 56 (0x0A : BitVec 8)) 70 d) 64 a) 8 imm).extractLsb' 56 8 = 0x0A := by simp (disch := decide) only [extract_put_same, extract_put_other, fn_word]
  unfold build11; rw [hf]
  show some _ = _
  simp (disch := decide) only [guard_put, guard_word, extract_put_same, extract_put_other]

theorem saluiMax (g : Guard) (d : BitVec 6) (a : BitVec 6) (imm : BitVec 48) : Statement (.saluiMax g d a imm) := by
  intro cx lit hwf hlit
  show build (put (put (put (put (word 0x11 g) 56 (0x0B : BitVec 8)) 70 d) 64 a) 8 imm) lit = _
  rw [build_11 _ _ (by simp (disch := decide) only [opcode_put, opcode_word])]
  have hf : (put (put (put (put (word 0x11 g) 56 (0x0B : BitVec 8)) 70 d) 64 a) 8 imm).extractLsb' 56 8 = 0x0B := by simp (disch := decide) only [extract_put_same, extract_put_other, fn_word]
  unfold build11; rw [hf]
  show some _ = _
  simp (disch := decide) only [guard_put, guard_word, extract_put_same, extract_put_other]

theorem saluiMinu (g : Guard) (d : BitVec 6) (a : BitVec 6) (imm : BitVec 48) : Statement (.saluiMinu g d a imm) := by
  intro cx lit hwf hlit
  show build (put (put (put (put (word 0x11 g) 56 (0x0C : BitVec 8)) 70 d) 64 a) 8 imm) lit = _
  rw [build_11 _ _ (by simp (disch := decide) only [opcode_put, opcode_word])]
  have hf : (put (put (put (put (word 0x11 g) 56 (0x0C : BitVec 8)) 70 d) 64 a) 8 imm).extractLsb' 56 8 = 0x0C := by simp (disch := decide) only [extract_put_same, extract_put_other, fn_word]
  unfold build11; rw [hf]
  show some _ = _
  simp (disch := decide) only [guard_put, guard_word, extract_put_same, extract_put_other]

theorem saluiMaxu (g : Guard) (d : BitVec 6) (a : BitVec 6) (imm : BitVec 48) : Statement (.saluiMaxu g d a imm) := by
  intro cx lit hwf hlit
  show build (put (put (put (put (word 0x11 g) 56 (0x0D : BitVec 8)) 70 d) 64 a) 8 imm) lit = _
  rw [build_11 _ _ (by simp (disch := decide) only [opcode_put, opcode_word])]
  have hf : (put (put (put (put (word 0x11 g) 56 (0x0D : BitVec 8)) 70 d) 64 a) 8 imm).extractLsb' 56 8 = 0x0D := by simp (disch := decide) only [extract_put_same, extract_put_other, fn_word]
  unfold build11; rw [hf]
  show some _ = _
  simp (disch := decide) only [guard_put, guard_word, extract_put_same, extract_put_other]

theorem saluiMul (g : Guard) (d : BitVec 6) (a : BitVec 6) (imm : BitVec 48) : Statement (.saluiMul g d a imm) := by
  intro cx lit hwf hlit
  show build (put (put (put (put (word 0x11 g) 56 (0x10 : BitVec 8)) 70 d) 64 a) 8 imm) lit = _
  rw [build_11 _ _ (by simp (disch := decide) only [opcode_put, opcode_word])]
  have hf : (put (put (put (put (word 0x11 g) 56 (0x10 : BitVec 8)) 70 d) 64 a) 8 imm).extractLsb' 56 8 = 0x10 := by simp (disch := decide) only [extract_put_same, extract_put_other, fn_word]
  unfold build11; rw [hf]
  show some _ = _
  simp (disch := decide) only [guard_put, guard_word, extract_put_same, extract_put_other]

theorem saluiMulh (g : Guard) (d : BitVec 6) (a : BitVec 6) (imm : BitVec 48) : Statement (.saluiMulh g d a imm) := by
  intro cx lit hwf hlit
  show build (put (put (put (put (word 0x11 g) 56 (0x11 : BitVec 8)) 70 d) 64 a) 8 imm) lit = _
  rw [build_11 _ _ (by simp (disch := decide) only [opcode_put, opcode_word])]
  have hf : (put (put (put (put (word 0x11 g) 56 (0x11 : BitVec 8)) 70 d) 64 a) 8 imm).extractLsb' 56 8 = 0x11 := by simp (disch := decide) only [extract_put_same, extract_put_other, fn_word]
  unfold build11; rw [hf]
  show some _ = _
  simp (disch := decide) only [guard_put, guard_word, extract_put_same, extract_put_other]

theorem saluiMulhu (g : Guard) (d : BitVec 6) (a : BitVec 6) (imm : BitVec 48) : Statement (.saluiMulhu g d a imm) := by
  intro cx lit hwf hlit
  show build (put (put (put (put (word 0x11 g) 56 (0x12 : BitVec 8)) 70 d) 64 a) 8 imm) lit = _
  rw [build_11 _ _ (by simp (disch := decide) only [opcode_put, opcode_word])]
  have hf : (put (put (put (put (word 0x11 g) 56 (0x12 : BitVec 8)) 70 d) 64 a) 8 imm).extractLsb' 56 8 = 0x12 := by simp (disch := decide) only [extract_put_same, extract_put_other, fn_word]
  unfold build11; rw [hf]
  show some _ = _
  simp (disch := decide) only [guard_put, guard_word, extract_put_same, extract_put_other]

theorem saluiSeq (g : Guard) (d : BitVec 6) (a : BitVec 6) (imm : BitVec 48) : Statement (.saluiSeq g d a imm) := by
  intro cx lit hwf hlit
  show build (put (put (put (put (word 0x11 g) 56 (0x18 : BitVec 8)) 70 d) 64 a) 8 imm) lit = _
  rw [build_11 _ _ (by simp (disch := decide) only [opcode_put, opcode_word])]
  have hf : (put (put (put (put (word 0x11 g) 56 (0x18 : BitVec 8)) 70 d) 64 a) 8 imm).extractLsb' 56 8 = 0x18 := by simp (disch := decide) only [extract_put_same, extract_put_other, fn_word]
  unfold build11; rw [hf]
  show some _ = _
  simp (disch := decide) only [guard_put, guard_word, extract_put_same, extract_put_other]

theorem saluiSne (g : Guard) (d : BitVec 6) (a : BitVec 6) (imm : BitVec 48) : Statement (.saluiSne g d a imm) := by
  intro cx lit hwf hlit
  show build (put (put (put (put (word 0x11 g) 56 (0x19 : BitVec 8)) 70 d) 64 a) 8 imm) lit = _
  rw [build_11 _ _ (by simp (disch := decide) only [opcode_put, opcode_word])]
  have hf : (put (put (put (put (word 0x11 g) 56 (0x19 : BitVec 8)) 70 d) 64 a) 8 imm).extractLsb' 56 8 = 0x19 := by simp (disch := decide) only [extract_put_same, extract_put_other, fn_word]
  unfold build11; rw [hf]
  show some _ = _
  simp (disch := decide) only [guard_put, guard_word, extract_put_same, extract_put_other]

theorem saluiSlt (g : Guard) (d : BitVec 6) (a : BitVec 6) (imm : BitVec 48) : Statement (.saluiSlt g d a imm) := by
  intro cx lit hwf hlit
  show build (put (put (put (put (word 0x11 g) 56 (0x1A : BitVec 8)) 70 d) 64 a) 8 imm) lit = _
  rw [build_11 _ _ (by simp (disch := decide) only [opcode_put, opcode_word])]
  have hf : (put (put (put (put (word 0x11 g) 56 (0x1A : BitVec 8)) 70 d) 64 a) 8 imm).extractLsb' 56 8 = 0x1A := by simp (disch := decide) only [extract_put_same, extract_put_other, fn_word]
  unfold build11; rw [hf]
  show some _ = _
  simp (disch := decide) only [guard_put, guard_word, extract_put_same, extract_put_other]

theorem saluiSltu (g : Guard) (d : BitVec 6) (a : BitVec 6) (imm : BitVec 48) : Statement (.saluiSltu g d a imm) := by
  intro cx lit hwf hlit
  show build (put (put (put (put (word 0x11 g) 56 (0x1B : BitVec 8)) 70 d) 64 a) 8 imm) lit = _
  rw [build_11 _ _ (by simp (disch := decide) only [opcode_put, opcode_word])]
  have hf : (put (put (put (put (word 0x11 g) 56 (0x1B : BitVec 8)) 70 d) 64 a) 8 imm).extractLsb' 56 8 = 0x1B := by simp (disch := decide) only [extract_put_same, extract_put_other, fn_word]
  unfold build11; rw [hf]
  show some _ = _
  simp (disch := decide) only [guard_put, guard_word, extract_put_same, extract_put_other]

theorem sdivDiv (g : Guard) (d : BitVec 6) (a : BitVec 6) (b : BitVec 6) : Statement (.sdivDiv g d a b) := by
  intro cx lit hwf hlit
  show build (put (put (put (word 0x12 g) 70 d) 64 a) 58 b) lit = _
  rw [build_12 _ _ (by simp (disch := decide) only [opcode_put, opcode_word])]
  have hf : (put (put (put (word 0x12 g) 70 d) 64 a) 58 b).extractLsb' 44 8 = 0x00 := by simp (disch := decide) only [extract_put_same, extract_put_other, fn_word]
  unfold build12; rw [hf]
  show some _ = _
  simp (disch := decide) only [guard_put, guard_word, extract_put_same, extract_put_other]

theorem sdivDivu (g : Guard) (d : BitVec 6) (a : BitVec 6) (b : BitVec 6) : Statement (.sdivDivu g d a b) := by
  intro cx lit hwf hlit
  show build (put (put (put (put (word 0x12 g) 44 (0x01 : BitVec 8)) 70 d) 64 a) 58 b) lit = _
  rw [build_12 _ _ (by simp (disch := decide) only [opcode_put, opcode_word])]
  have hf : (put (put (put (put (word 0x12 g) 44 (0x01 : BitVec 8)) 70 d) 64 a) 58 b).extractLsb' 44 8 = 0x01 := by simp (disch := decide) only [extract_put_same, extract_put_other, fn_word]
  unfold build12; rw [hf]
  show some _ = _
  simp (disch := decide) only [guard_put, guard_word, extract_put_same, extract_put_other]

theorem sdivRem (g : Guard) (d : BitVec 6) (a : BitVec 6) (b : BitVec 6) : Statement (.sdivRem g d a b) := by
  intro cx lit hwf hlit
  show build (put (put (put (put (word 0x12 g) 44 (0x02 : BitVec 8)) 70 d) 64 a) 58 b) lit = _
  rw [build_12 _ _ (by simp (disch := decide) only [opcode_put, opcode_word])]
  have hf : (put (put (put (put (word 0x12 g) 44 (0x02 : BitVec 8)) 70 d) 64 a) 58 b).extractLsb' 44 8 = 0x02 := by simp (disch := decide) only [extract_put_same, extract_put_other, fn_word]
  unfold build12; rw [hf]
  show some _ = _
  simp (disch := decide) only [guard_put, guard_word, extract_put_same, extract_put_other]

theorem sdivRemu (g : Guard) (d : BitVec 6) (a : BitVec 6) (b : BitVec 6) : Statement (.sdivRemu g d a b) := by
  intro cx lit hwf hlit
  show build (put (put (put (put (word 0x12 g) 44 (0x03 : BitVec 8)) 70 d) 64 a) 58 b) lit = _
  rw [build_12 _ _ (by simp (disch := decide) only [opcode_put, opcode_word])]
  have hf : (put (put (put (put (word 0x12 g) 44 (0x03 : BitVec 8)) 70 d) 64 a) 58 b).extractLsb' 44 8 = 0x03 := by simp (disch := decide) only [extract_put_same, extract_put_other, fn_word]
  unfold build12; rw [hf]
  show some _ = _
  simp (disch := decide) only [guard_put, guard_word, extract_put_same, extract_put_other]

theorem sfpAdd (g : Guard) (d : BitVec 6) (a : BitVec 6) (b : BitVec 6) : Statement (.sfpAdd g d a b) := by
  intro cx lit hwf hlit
  show build (put (put (put (word 0x13 g) 70 d) 64 a) 58 b) lit = _
  rw [build_13 _ _ (by simp (disch := decide) only [opcode_put, opcode_word])]
  have hf : (put (put (put (word 0x13 g) 70 d) 64 a) 58 b).extractLsb' 44 8 = 0x00 := by simp (disch := decide) only [extract_put_same, extract_put_other, fn_word]
  unfold build13; rw [hf]
  show some _ = _
  simp (disch := decide) only [guard_put, guard_word, extract_put_same, extract_put_other]

theorem sfpSub (g : Guard) (d : BitVec 6) (a : BitVec 6) (b : BitVec 6) : Statement (.sfpSub g d a b) := by
  intro cx lit hwf hlit
  show build (put (put (put (put (word 0x13 g) 44 (0x01 : BitVec 8)) 70 d) 64 a) 58 b) lit = _
  rw [build_13 _ _ (by simp (disch := decide) only [opcode_put, opcode_word])]
  have hf : (put (put (put (put (word 0x13 g) 44 (0x01 : BitVec 8)) 70 d) 64 a) 58 b).extractLsb' 44 8 = 0x01 := by simp (disch := decide) only [extract_put_same, extract_put_other, fn_word]
  unfold build13; rw [hf]
  show some _ = _
  simp (disch := decide) only [guard_put, guard_word, extract_put_same, extract_put_other]

theorem sfpMul (g : Guard) (d : BitVec 6) (a : BitVec 6) (b : BitVec 6) : Statement (.sfpMul g d a b) := by
  intro cx lit hwf hlit
  show build (put (put (put (put (word 0x13 g) 44 (0x02 : BitVec 8)) 70 d) 64 a) 58 b) lit = _
  rw [build_13 _ _ (by simp (disch := decide) only [opcode_put, opcode_word])]
  have hf : (put (put (put (put (word 0x13 g) 44 (0x02 : BitVec 8)) 70 d) 64 a) 58 b).extractLsb' 44 8 = 0x02 := by simp (disch := decide) only [extract_put_same, extract_put_other, fn_word]
  unfold build13; rw [hf]
  show some _ = _
  simp (disch := decide) only [guard_put, guard_word, extract_put_same, extract_put_other]

theorem sfpFma (g : Guard) (d : BitVec 6) (a : BitVec 6) (b : BitVec 6) (c : BitVec 6) : Statement (.sfpFma g d a b c) := by
  intro cx lit hwf hlit
  show build (put (put (put (put (put (word 0x13 g) 44 (0x03 : BitVec 8)) 70 d) 64 a) 58 b) 52 c) lit = _
  rw [build_13 _ _ (by simp (disch := decide) only [opcode_put, opcode_word])]
  have hf : (put (put (put (put (put (word 0x13 g) 44 (0x03 : BitVec 8)) 70 d) 64 a) 58 b) 52 c).extractLsb' 44 8 = 0x03 := by simp (disch := decide) only [extract_put_same, extract_put_other, fn_word]
  unfold build13; rw [hf]
  show some _ = _
  simp (disch := decide) only [guard_put, guard_word, extract_put_same, extract_put_other]

theorem sfpDiv (g : Guard) (d : BitVec 6) (a : BitVec 6) (b : BitVec 6) : Statement (.sfpDiv g d a b) := by
  intro cx lit hwf hlit
  show build (put (put (put (put (word 0x13 g) 44 (0x04 : BitVec 8)) 70 d) 64 a) 58 b) lit = _
  rw [build_13 _ _ (by simp (disch := decide) only [opcode_put, opcode_word])]
  have hf : (put (put (put (put (word 0x13 g) 44 (0x04 : BitVec 8)) 70 d) 64 a) 58 b).extractLsb' 44 8 = 0x04 := by simp (disch := decide) only [extract_put_same, extract_put_other, fn_word]
  unfold build13; rw [hf]
  show some _ = _
  simp (disch := decide) only [guard_put, guard_word, extract_put_same, extract_put_other]

theorem sfpSqrt (g : Guard) (d : BitVec 6) (a : BitVec 6) : Statement (.sfpSqrt g d a) := by
  intro cx lit hwf hlit
  show build (put (put (put (word 0x13 g) 44 (0x05 : BitVec 8)) 70 d) 64 a) lit = _
  rw [build_13 _ _ (by simp (disch := decide) only [opcode_put, opcode_word])]
  have hf : (put (put (put (word 0x13 g) 44 (0x05 : BitVec 8)) 70 d) 64 a).extractLsb' 44 8 = 0x05 := by simp (disch := decide) only [extract_put_same, extract_put_other, fn_word]
  unfold build13; rw [hf]
  show some _ = _
  simp (disch := decide) only [guard_put, guard_word, extract_put_same, extract_put_other]

theorem sfpMin (g : Guard) (d : BitVec 6) (a : BitVec 6) (b : BitVec 6) : Statement (.sfpMin g d a b) := by
  intro cx lit hwf hlit
  show build (put (put (put (put (word 0x13 g) 44 (0x06 : BitVec 8)) 70 d) 64 a) 58 b) lit = _
  rw [build_13 _ _ (by simp (disch := decide) only [opcode_put, opcode_word])]
  have hf : (put (put (put (put (word 0x13 g) 44 (0x06 : BitVec 8)) 70 d) 64 a) 58 b).extractLsb' 44 8 = 0x06 := by simp (disch := decide) only [extract_put_same, extract_put_other, fn_word]
  unfold build13; rw [hf]
  show some _ = _
  simp (disch := decide) only [guard_put, guard_word, extract_put_same, extract_put_other]

theorem sfpMax (g : Guard) (d : BitVec 6) (a : BitVec 6) (b : BitVec 6) : Statement (.sfpMax g d a b) := by
  intro cx lit hwf hlit
  show build (put (put (put (put (word 0x13 g) 44 (0x07 : BitVec 8)) 70 d) 64 a) 58 b) lit = _
  rw [build_13 _ _ (by simp (disch := decide) only [opcode_put, opcode_word])]
  have hf : (put (put (put (put (word 0x13 g) 44 (0x07 : BitVec 8)) 70 d) 64 a) 58 b).extractLsb' 44 8 = 0x07 := by simp (disch := decide) only [extract_put_same, extract_put_other, fn_word]
  unfold build13; rw [hf]
  show some _ = _
  simp (disch := decide) only [guard_put, guard_word, extract_put_same, extract_put_other]

theorem sfpCvti (g : Guard) (d : BitVec 6) (a : BitVec 6) : Statement (.sfpCvti g d a) := by
  intro cx lit hwf hlit
  show build (put (put (put (word 0x13 g) 44 (0x08 : BitVec 8)) 70 d) 64 a) lit = _
  rw [build_13 _ _ (by simp (disch := decide) only [opcode_put, opcode_word])]
  have hf : (put (put (put (word 0x13 g) 44 (0x08 : BitVec 8)) 70 d) 64 a).extractLsb' 44 8 = 0x08 := by simp (disch := decide) only [extract_put_same, extract_put_other, fn_word]
  unfold build13; rw [hf]
  show some _ = _
  simp (disch := decide) only [guard_put, guard_word, extract_put_same, extract_put_other]

theorem sfpCvtf (g : Guard) (d : BitVec 6) (a : BitVec 6) : Statement (.sfpCvtf g d a) := by
  intro cx lit hwf hlit
  show build (put (put (put (word 0x13 g) 44 (0x09 : BitVec 8)) 70 d) 64 a) lit = _
  rw [build_13 _ _ (by simp (disch := decide) only [opcode_put, opcode_word])]
  have hf : (put (put (put (word 0x13 g) 44 (0x09 : BitVec 8)) 70 d) 64 a).extractLsb' 44 8 = 0x09 := by simp (disch := decide) only [extract_put_same, extract_put_other, fn_word]
  unfold build13; rw [hf]
  show some _ = _
  simp (disch := decide) only [guard_put, guard_word, extract_put_same, extract_put_other]

theorem sfpEq (g : Guard) (d : BitVec 6) (a : BitVec 6) (b : BitVec 6) : Statement (.sfpEq g d a b) := by
  intro cx lit hwf hlit
  show build (put (put (put (put (word 0x13 g) 44 (0x0A : BitVec 8)) 70 d) 64 a) 58 b) lit = _
  rw [build_13 _ _ (by simp (disch := decide) only [opcode_put, opcode_word])]
  have hf : (put (put (put (put (word 0x13 g) 44 (0x0A : BitVec 8)) 70 d) 64 a) 58 b).extractLsb' 44 8 = 0x0A := by simp (disch := decide) only [extract_put_same, extract_put_other, fn_word]
  unfold build13; rw [hf]
  show some _ = _
  simp (disch := decide) only [guard_put, guard_word, extract_put_same, extract_put_other]

theorem sfpLt (g : Guard) (d : BitVec 6) (a : BitVec 6) (b : BitVec 6) : Statement (.sfpLt g d a b) := by
  intro cx lit hwf hlit
  show build (put (put (put (put (word 0x13 g) 44 (0x0B : BitVec 8)) 70 d) 64 a) 58 b) lit = _
  rw [build_13 _ _ (by simp (disch := decide) only [opcode_put, opcode_word])]
  have hf : (put (put (put (put (word 0x13 g) 44 (0x0B : BitVec 8)) 70 d) 64 a) 58 b).extractLsb' 44 8 = 0x0B := by simp (disch := decide) only [extract_put_same, extract_put_other, fn_word]
  unfold build13; rw [hf]
  show some _ = _
  simp (disch := decide) only [guard_put, guard_word, extract_put_same, extract_put_other]

theorem sfpLe (g : Guard) (d : BitVec 6) (a : BitVec 6) (b : BitVec 6) : Statement (.sfpLe g d a b) := by
  intro cx lit hwf hlit
  show build (put (put (put (put (word 0x13 g) 44 (0x0C : BitVec 8)) 70 d) 64 a) 58 b) lit = _
  rw [build_13 _ _ (by simp (disch := decide) only [opcode_put, opcode_word])]
  have hf : (put (put (put (put (word 0x13 g) 44 (0x0C : BitVec 8)) 70 d) 64 a) 58 b).extractLsb' 44 8 = 0x0C := by simp (disch := decide) only [extract_put_same, extract_put_other, fn_word]
  unfold build13; rw [hf]
  show some _ = _
  simp (disch := decide) only [guard_put, guard_word, extract_put_same, extract_put_other]

theorem psetAnd (g : Guard) (d : BitVec 6) (a : BitVec 6) (b : BitVec 6) (c : BitVec 6) : Statement (.psetAnd g d a b c) := by
  intro cx lit hwf hlit
  show build (put (put (put (put (put (word 0x14 g) 44 (0x02 : BitVec 8)) 70 d) 64 a) 58 b) 52 c) lit = _
  rw [build_14 _ _ (by simp (disch := decide) only [opcode_put, opcode_word])]
  have hf : (put (put (put (put (put (word 0x14 g) 44 (0x02 : BitVec 8)) 70 d) 64 a) 58 b) 52 c).extractLsb' 44 8 = 0x02 := by simp (disch := decide) only [extract_put_same, extract_put_other, fn_word]
  unfold build14; rw [hf]
  show some _ = _
  simp (disch := decide) only [guard_put, guard_word, extract_put_same, extract_put_other]

theorem psetOr (g : Guard) (d : BitVec 6) (a : BitVec 6) (b : BitVec 6) (c : BitVec 6) : Statement (.psetOr g d a b c) := by
  intro cx lit hwf hlit
  show build (put (put (put (put (put (word 0x14 g) 44 (0x03 : BitVec 8)) 70 d) 64 a) 58 b) 52 c) lit = _
  rw [build_14 _ _ (by simp (disch := decide) only [opcode_put, opcode_word])]
  have hf : (put (put (put (put (put (word 0x14 g) 44 (0x03 : BitVec 8)) 70 d) 64 a) 58 b) 52 c).extractLsb' 44 8 = 0x03 := by simp (disch := decide) only [extract_put_same, extract_put_other, fn_word]
  unfold build14; rw [hf]
  show some _ = _
  simp (disch := decide) only [guard_put, guard_word, extract_put_same, extract_put_other]

theorem psetXor (g : Guard) (d : BitVec 6) (a : BitVec 6) (b : BitVec 6) (c : BitVec 6) : Statement (.psetXor g d a b c) := by
  intro cx lit hwf hlit
  show build (put (put (put (put (put (word 0x14 g) 44 (0x04 : BitVec 8)) 70 d) 64 a) 58 b) 52 c) lit = _
  rw [build_14 _ _ (by simp (disch := decide) only [opcode_put, opcode_word])]
  have hf : (put (put (put (put (put (word 0x14 g) 44 (0x04 : BitVec 8)) 70 d) 64 a) 58 b) 52 c).extractLsb' 44 8 = 0x04 := by simp (disch := decide) only [extract_put_same, extract_put_other, fn_word]
  unfold build14; rw [hf]
  show some _ = _
  simp (disch := decide) only [guard_put, guard_word, extract_put_same, extract_put_other]

theorem psetAndn (g : Guard) (d : BitVec 6) (a : BitVec 6) (b : BitVec 6) (c : BitVec 6) : Statement (.psetAndn g d a b c) := by
  intro cx lit hwf hlit
  show build (put (put (put (put (put (word 0x14 g) 44 (0x05 : BitVec 8)) 70 d) 64 a) 58 b) 52 c) lit = _
  rw [build_14 _ _ (by simp (disch := decide) only [opcode_put, opcode_word])]
  have hf : (put (put (put (put (put (word 0x14 g) 44 (0x05 : BitVec 8)) 70 d) 64 a) 58 b) 52 c).extractLsb' 44 8 = 0x05 := by simp (disch := decide) only [extract_put_same, extract_put_other, fn_word]
  unfold build14; rw [hf]
  show some _ = _
  simp (disch := decide) only [guard_put, guard_word, extract_put_same, extract_put_other]

theorem psetEq (g : Guard) (d : BitVec 6) (a : BitVec 6) (b : BitVec 6) (c : BitVec 6) : Statement (.psetEq g d a b c) := by
  intro cx lit hwf hlit
  show build (put (put (put (put (put (word 0x14 g) 44 (0x18 : BitVec 8)) 70 d) 64 a) 58 b) 52 c) lit = _
  rw [build_14 _ _ (by simp (disch := decide) only [opcode_put, opcode_word])]
  have hf : (put (put (put (put (put (word 0x14 g) 44 (0x18 : BitVec 8)) 70 d) 64 a) 58 b) 52 c).extractLsb' 44 8 = 0x18 := by simp (disch := decide) only [extract_put_same, extract_put_other, fn_word]
  unfold build14; rw [hf]
  show some _ = _
  simp (disch := decide) only [guard_put, guard_word, extract_put_same, extract_put_other]

theorem psetNe (g : Guard) (d : BitVec 6) (a : BitVec 6) (b : BitVec 6) (c : BitVec 6) : Statement (.psetNe g d a b c) := by
  intro cx lit hwf hlit
  show build (put (put (put (put (put (word 0x14 g) 44 (0x19 : BitVec 8)) 70 d) 64 a) 58 b) 52 c) lit = _
  rw [build_14 _ _ (by simp (disch := decide) only [opcode_put, opcode_word])]
  have hf : (put (put (put (put (put (word 0x14 g) 44 (0x19 : BitVec 8)) 70 d) 64 a) 58 b) 52 c).extractLsb' 44 8 = 0x19 := by simp (disch := decide) only [extract_put_same, extract_put_other, fn_word]
  unfold build14; rw [hf]
  show some _ = _
  simp (disch := decide) only [guard_put, guard_word, extract_put_same, extract_put_other]

theorem psetLt (g : Guard) (d : BitVec 6) (a : BitVec 6) (b : BitVec 6) (c : BitVec 6) : Statement (.psetLt g d a b c) := by
  intro cx lit hwf hlit
  show build (put (put (put (put (put (word 0x14 g) 44 (0x1A : BitVec 8)) 70 d) 64 a) 58 b) 52 c) lit = _
  rw [build_14 _ _ (by simp (disch := decide) only [opcode_put, opcode_word])]
  have hf : (put (put (put (put (put (word 0x14 g) 44 (0x1A : BitVec 8)) 70 d) 64 a) 58 b) 52 c).extractLsb' 44 8 = 0x1A := by simp (disch := decide) only [extract_put_same, extract_put_other, fn_word]
  unfold build14; rw [hf]
  show some _ = _
  simp (disch := decide) only [guard_put, guard_word, extract_put_same, extract_put_other]

theorem psetLtu (g : Guard) (d : BitVec 6) (a : BitVec 6) (b : BitVec 6) (c : BitVec 6) : Statement (.psetLtu g d a b c) := by
  intro cx lit hwf hlit
  show build (put (put (put (put (put (word 0x14 g) 44 (0x1B : BitVec 8)) 70 d) 64 a) 58 b) 52 c) lit = _
  rw [build_14 _ _ (by simp (disch := decide) only [opcode_put, opcode_word])]
  have hf : (put (put (put (put (put (word 0x14 g) 44 (0x1B : BitVec 8)) 70 d) 64 a) 58 b) 52 c).extractLsb' 44 8 = 0x1B := by simp (disch := decide) only [extract_put_same, extract_put_other, fn_word]
  unfold build14; rw [hf]
  show some _ = _
  simp (disch := decide) only [guard_put, guard_word, extract_put_same, extract_put_other]

theorem psetGe (g : Guard) (d : BitVec 6) (a : BitVec 6) (b : BitVec 6) (c : BitVec 6) : Statement (.psetGe g d a b c) := by
  intro cx lit hwf hlit
  show build (put (put (put (put (put (word 0x14 g) 44 (0x1D : BitVec 8)) 70 d) 64 a) 58 b) 52 c) lit = _
  rw [build_14 _ _ (by simp (disch := decide) only [opcode_put, opcode_word])]
  have hf : (put (put (put (put (put (word 0x14 g) 44 (0x1D : BitVec 8)) 70 d) 64 a) 58 b) 52 c).extractLsb' 44 8 = 0x1D := by simp (disch := decide) only [extract_put_same, extract_put_other, fn_word]
  unfold build14; rw [hf]
  show some _ = _
  simp (disch := decide) only [guard_put, guard_word, extract_put_same, extract_put_other]

theorem psetGeu (g : Guard) (d : BitVec 6) (a : BitVec 6) (b : BitVec 6) (c : BitVec 6) : Statement (.psetGeu g d a b c) := by
  intro cx lit hwf hlit
  show build (put (put (put (put (put (word 0x14 g) 44 (0x1E : BitVec 8)) 70 d) 64 a) 58 b) 52 c) lit = _
  rw [build_14 _ _ (by simp (disch := decide) only [opcode_put, opcode_word])]
  have hf : (put (put (put (put (put (word 0x14 g) 44 (0x1E : BitVec 8)) 70 d) 64 a) 58 b) 52 c).extractLsb' 44 8 = 0x1E := by simp (disch := decide) only [extract_put_same, extract_put_other, fn_word]
  unfold build14; rw [hf]
  show some _ = _
  simp (disch := decide) only [guard_put, guard_word, extract_put_same, extract_put_other]

theorem lit (g : Guard) (d : BitVec 6) (l : Word96) : Statement (.lit g d l) := by
  intro cx lit hwf hlit
  obtain rfl : l = lit := hlit.elim (fun h => nomatch h) Option.some.inj
  show build (put (word 0x15 g) 70 d) l = _
  rw [build_15 _ _ (by simp (disch := decide) only [opcode_put, opcode_word])]
  have hf : (put (word 0x15 g) 70 d).extractLsb' 56 8 = 0x00 := by simp (disch := decide) only [extract_put_same, extract_put_other, fn_word]
  unfold build15; rw [hf]
  show some _ = _
  simp (disch := decide) only [guard_put, guard_word, extract_put_same, extract_put_other]

theorem ldP (g : Guard) (d : BitVec 6) (a : BitVec 6) (imm : BitVec 48) : Statement (.ldP g d a imm) := by
  intro cx lit hwf hlit
  show build (put (put (put (word 0x16 g) 70 d) 64 a) 8 imm) lit = _
  rw [build_16 _ _ (by simp (disch := decide) only [opcode_put, opcode_word])]
  have hf : (put (put (put (word 0x16 g) 70 d) 64 a) 8 imm).extractLsb' 56 8 = 0x00 := by simp (disch := decide) only [extract_put_same, extract_put_other, fn_word]
  unfold build16; rw [hf]
  show some _ = _
  simp (disch := decide) only [guard_put, guard_word, extract_put_same, extract_put_other]

theorem ldH (g : Guard) (d : BitVec 6) (a : BitVec 6) (imm : BitVec 48) : Statement (.ldH g d a imm) := by
  intro cx lit hwf hlit
  show build (put (put (put (put (word 0x16 g) 56 (0x01 : BitVec 8)) 70 d) 64 a) 8 imm) lit = _
  rw [build_16 _ _ (by simp (disch := decide) only [opcode_put, opcode_word])]
  have hf : (put (put (put (put (word 0x16 g) 56 (0x01 : BitVec 8)) 70 d) 64 a) 8 imm).extractLsb' 56 8 = 0x01 := by simp (disch := decide) only [extract_put_same, extract_put_other, fn_word]
  unfold build16; rw [hf]
  show some _ = _
  simp (disch := decide) only [guard_put, guard_word, extract_put_same, extract_put_other]

theorem ldCap (g : Guard) (d : BitVec 6) (a : BitVec 6) (imm : BitVec 48) : Statement (.ldCap g d a imm) := by
  intro cx lit hwf hlit
  show build (put (put (put (put (word 0x16 g) 56 (0x02 : BitVec 8)) 70 d) 64 a) 8 imm) lit = _
  rw [build_16 _ _ (by simp (disch := decide) only [opcode_put, opcode_word])]
  have hf : (put (put (put (put (word 0x16 g) 56 (0x02 : BitVec 8)) 70 d) 64 a) 8 imm).extractLsb' 56 8 = 0x02 := by simp (disch := decide) only [extract_put_same, extract_put_other, fn_word]
  unfold build16; rw [hf]
  show some _ = _
  simp (disch := decide) only [guard_put, guard_word, extract_put_same, extract_put_other]

theorem stP (g : Guard) (d : BitVec 6) (a : BitVec 6) (imm : BitVec 48) : Statement (.stP g d a imm) := by
  intro cx lit hwf hlit
  show build (put (put (put (word 0x17 g) 70 d) 64 a) 8 imm) lit = _
  rw [build_17 _ _ (by simp (disch := decide) only [opcode_put, opcode_word])]
  have hf : (put (put (put (word 0x17 g) 70 d) 64 a) 8 imm).extractLsb' 56 8 = 0x00 := by simp (disch := decide) only [extract_put_same, extract_put_other, fn_word]
  unfold build17; rw [hf]
  show some _ = _
  simp (disch := decide) only [guard_put, guard_word, extract_put_same, extract_put_other]

theorem stH (g : Guard) (d : BitVec 6) (a : BitVec 6) (imm : BitVec 48) : Statement (.stH g d a imm) := by
  intro cx lit hwf hlit
  show build (put (put (put (put (word 0x17 g) 56 (0x01 : BitVec 8)) 70 d) 64 a) 8 imm) lit = _
  rw [build_17 _ _ (by simp (disch := decide) only [opcode_put, opcode_word])]
  have hf : (put (put (put (put (word 0x17 g) 56 (0x01 : BitVec 8)) 70 d) 64 a) 8 imm).extractLsb' 56 8 = 0x01 := by simp (disch := decide) only [extract_put_same, extract_put_other, fn_word]
  unfold build17; rw [hf]
  show some _ = _
  simp (disch := decide) only [guard_put, guard_word, extract_put_same, extract_put_other]

theorem stCap (g : Guard) (d : BitVec 6) (a : BitVec 6) (imm : BitVec 48) : Statement (.stCap g d a imm) := by
  intro cx lit hwf hlit
  show build (put (put (put (put (word 0x17 g) 56 (0x02 : BitVec 8)) 70 d) 64 a) 8 imm) lit = _
  rw [build_17 _ _ (by simp (disch := decide) only [opcode_put, opcode_word])]
  have hf : (put (put (put (put (word 0x17 g) 56 (0x02 : BitVec 8)) 70 d) 64 a) 8 imm).extractLsb' 56 8 = 0x02 := by simp (disch := decide) only [extract_put_same, extract_put_other, fn_word]
  unfold build17; rw [hf]
  show some _ = _
  simp (disch := decide) only [guard_put, guard_word, extract_put_same, extract_put_other]

theorem enterF (g : Guard) (imm : BitVec 48) : Statement (.enterF g imm) := by
  intro cx lit hwf hlit
  show build (put (word 0x18 g) 8 imm) lit = _
  rw [build_18 _ _ (by simp (disch := decide) only [opcode_put, opcode_word])]
  have hf : (put (word 0x18 g) 8 imm).extractLsb' 56 8 = 0x00 := by simp (disch := decide) only [extract_put_same, extract_put_other, fn_word]
  unfold build18; rw [hf]
  show some _ = _
  simp (disch := decide) only [guard_put, guard_word, extract_put_same, extract_put_other]

theorem leaveF (g : Guard) : Statement (.leaveF g) := by
  intro cx lit hwf hlit
  show build (word 0x19 g) lit = _
  rw [build_19 _ _ (by simp (disch := decide) only [opcode_put, opcode_word])]
  have hf : (word 0x19 g).extractLsb' 56 8 = 0x00 := by simp (disch := decide) only [extract_put_same, extract_put_other, fn_word]
  unfold build19; rw [hf]
  show some _ = _
  simp (disch := decide) only [guard_put, guard_word, extract_put_same, extract_put_other]

theorem pbrO (g : Guard) (t : BitVec 3) (imm : BitVec 48) : Statement (.pbrO g t imm) := by
  intro cx lit hwf hlit
  show build (put (put (word 0x20 g) 73 t) 8 imm) lit = _
  rw [build_20 _ _ (by simp (disch := decide) only [opcode_put, opcode_word])]
  have hf : (put (put (word 0x20 g) 73 t) 8 imm).extractLsb' 56 8 = 0x00 := by simp (disch := decide) only [extract_put_same, extract_put_other, fn_word]
  unfold build20; rw [hf]
  show some _ = _
  simp (disch := decide) only [guard_put, guard_word, extract_put_same, extract_put_other]

theorem pbrR (g : Guard) (t : BitVec 3) (a : BitVec 6) : Statement (.pbrR g t a) := by
  intro cx lit hwf hlit
  show build (put (put (put (word 0x20 g) 56 (0x01 : BitVec 8)) 73 t) 64 a) lit = _
  rw [build_20 _ _ (by simp (disch := decide) only [opcode_put, opcode_word])]
  have hf : (put (put (put (word 0x20 g) 56 (0x01 : BitVec 8)) 73 t) 64 a).extractLsb' 56 8 = 0x01 := by simp (disch := decide) only [extract_put_same, extract_put_other, fn_word]
  unfold build20; rw [hf]
  show some _ = _
  simp (disch := decide) only [guard_put, guard_word, extract_put_same, extract_put_other]

theorem brGo (g : Guard) (t : BitVec 3) : Statement (.brGo g t) := by
  intro cx lit hwf hlit
  show build (put (word 0x21 g) 73 t) lit = _
  rw [build_21 _ _ (by simp (disch := decide) only [opcode_put, opcode_word])]
  have hf : (put (word 0x21 g) 73 t).extractLsb' 56 8 = 0x00 := by simp (disch := decide) only [extract_put_same, extract_put_other, fn_word]
  unfold build21; rw [hf]
  show some _ = _
  simp (disch := decide) only [guard_put, guard_word, extract_put_same, extract_put_other]

theorem brqT (g : Guard) (t : BitVec 3) : Statement (.brqT g t) := by
  intro cx lit hwf hlit
  show build (put (word 0x22 g) 73 t) lit = _
  rw [build_22 _ _ (by simp (disch := decide) only [opcode_put, opcode_word])]
  have hf : (put (word 0x22 g) 73 t).extractLsb' 56 8 = 0x00 := by simp (disch := decide) only [extract_put_same, extract_put_other, fn_word]
  unfold build22; rw [hf]
  show some _ = _
  simp (disch := decide) only [guard_put, guard_word, extract_put_same, extract_put_other]

theorem brqF (g : Guard) (t : BitVec 3) : Statement (.brqF g t) := by
  intro cx lit hwf hlit
  show build (put (put (word 0x22 g) 56 (0x01 : BitVec 8)) 73 t) lit = _
  rw [build_22 _ _ (by simp (disch := decide) only [opcode_put, opcode_word])]
  have hf : (put (put (word 0x22 g) 56 (0x01 : BitVec 8)) 73 t).extractLsb' 56 8 = 0x01 := by simp (disch := decide) only [extract_put_same, extract_put_other, fn_word]
  unfold build22; rw [hf]
  show some _ = _
  simp (disch := decide) only [guard_put, guard_word, extract_put_same, extract_put_other]

theorem brmzSkip (g : Guard) (imm : BitVec 48) : Statement (.brmzSkip g imm) := by
  intro cx lit hwf hlit
  show build (put (word 0x23 g) 8 imm) lit = _
  rw [build_23 _ _ (by simp (disch := decide) only [opcode_put, opcode_word])]
  have hf : (put (word 0x23 g) 8 imm).extractLsb' 56 8 = 0x00 := by simp (disch := decide) only [extract_put_same, extract_put_other, fn_word]
  unfold build23; rw [hf]
  show some _ = _
  simp (disch := decide) only [guard_put, guard_word, extract_put_same, extract_put_other]

theorem callGo (g : Guard) (t : BitVec 3) : Statement (.callGo g t) := by
  intro cx lit hwf hlit
  show build (put (word 0x24 g) 73 t) lit = _
  rw [build_24 _ _ (by simp (disch := decide) only [opcode_put, opcode_word])]
  have hf : (put (word 0x24 g) 73 t).extractLsb' 56 8 = 0x00 := by simp (disch := decide) only [extract_put_same, extract_put_other, fn_word]
  unfold build24; rw [hf]
  show some _ = _
  simp (disch := decide) only [guard_put, guard_word, extract_put_same, extract_put_other]

theorem retGo (g : Guard) : Statement (.retGo g) := by
  intro cx lit hwf hlit
  show build (word 0x25 g) lit = _
  rw [build_25 _ _ (by simp (disch := decide) only [opcode_put, opcode_word])]
  have hf : (word 0x25 g).extractLsb' 56 8 = 0x00 := by simp (disch := decide) only [extract_put_same, extract_put_other, fn_word]
  unfold build25; rw [hf]
  show some _ = _
  simp (disch := decide) only [guard_put, guard_word, extract_put_same, extract_put_other]

theorem loopL (g : Guard) (a : BitVec 6) (imm : BitVec 48) : Statement (.loopL g a imm) := by
  intro cx lit hwf hlit
  show build (put (put (word 0x26 g) 64 a) 8 imm) lit = _
  rw [build_26 _ _ (by simp (disch := decide) only [opcode_put, opcode_word])]
  have hf : (put (put (word 0x26 g) 64 a) 8 imm).extractLsb' 56 8 = 0x00 := by simp (disch := decide) only [extract_put_same, extract_put_other, fn_word]
  unfold build26; rw [hf]
  show some _ = _
  simp (disch := decide) only [guard_put, guard_word, extract_put_same, extract_put_other]

theorem loopS (g : Guard) (t : BitVec 3) (a : BitVec 6) (imm : BitVec 48) : Statement (.loopS g t a imm) := by
  intro cx lit hwf hlit
  show build (put (put (put (put (word 0x26 g) 56 (0x01 : BitVec 8)) 73 t) 64 a) 8 imm) lit = _
  rw [build_26 _ _ (by simp (disch := decide) only [opcode_put, opcode_word])]
  have hf : (put (put (put (put (word 0x26 g) 56 (0x01 : BitVec 8)) 73 t) 64 a) 8 imm).extractLsb' 56 8 = 0x01 := by simp (disch := decide) only [extract_put_same, extract_put_other, fn_word]
  unfold build26; rw [hf]
  show some _ = _
  simp (disch := decide) only [guard_put, guard_word, extract_put_same, extract_put_other]

theorem repeatN (g : Guard) (imm : BitVec 48) : Statement (.repeatN g imm) := by
  intro cx lit hwf hlit
  show build (put (word 0x27 g) 8 imm) lit = _
  rw [build_27 _ _ (by simp (disch := decide) only [opcode_put, opcode_word])]
  have hf : (put (word 0x27 g) 8 imm).extractLsb' 56 8 = 0x00 := by simp (disch := decide) only [extract_put_same, extract_put_other, fn_word]
  unfold build27; rw [hf]
  show some _ = _
  simp (disch := decide) only [guard_put, guard_word, extract_put_same, extract_put_other]

theorem repeatS (g : Guard) (a : BitVec 6) : Statement (.repeatS g a) := by
  intro cx lit hwf hlit
  show build (put (put (word 0x27 g) 56 (0x01 : BitVec 8)) 64 a) lit = _
  rw [build_27 _ _ (by simp (disch := decide) only [opcode_put, opcode_word])]
  have hf : (put (put (word 0x27 g) 56 (0x01 : BitVec 8)) 64 a).extractLsb' 56 8 = 0x01 := by simp (disch := decide) only [extract_put_same, extract_put_other, fn_word]
  unfold build27; rw [hf]
  show some _ = _
  simp (disch := decide) only [guard_put, guard_word, extract_put_same, extract_put_other]

theorem signalT (g : Guard) (a : BitVec 6) (imm : BitVec 48) : Statement (.signalT g a imm) := by
  intro cx lit hwf hlit
  show build (put (put (word 0x30 g) 64 a) 8 imm) lit = _
  rw [build_30 _ _ (by simp (disch := decide) only [opcode_put, opcode_word])]
  have hf : (put (put (word 0x30 g) 64 a) 8 imm).extractLsb' 56 8 = 0x00 := by simp (disch := decide) only [extract_put_same, extract_put_other, fn_word]
  unfold build30; rw [hf]
  show some _ = _
  simp (disch := decide) only [guard_put, guard_word, extract_put_same, extract_put_other]

theorem signalS (g : Guard) (d : BitVec 6) (a : BitVec 6) : Statement (.signalS g d a) := by
  intro cx lit hwf hlit
  show build (put (put (put (word 0x30 g) 56 (0x01 : BitVec 8)) 70 d) 64 a) lit = _
  rw [build_30 _ _ (by simp (disch := decide) only [opcode_put, opcode_word])]
  have hf : (put (put (put (word 0x30 g) 56 (0x01 : BitVec 8)) 70 d) 64 a).extractLsb' 56 8 = 0x01 := by simp (disch := decide) only [extract_put_same, extract_put_other, fn_word]
  unfold build30; rw [hf]
  show some _ = _
  simp (disch := decide) only [guard_put, guard_word, extract_put_same, extract_put_other]

theorem waitT (g : Guard) (a : BitVec 6) : Statement (.waitT g a) := by
  intro cx lit hwf hlit
  show build (put (word 0x31 g) 64 a) lit = _
  rw [build_31 _ _ (by simp (disch := decide) only [opcode_put, opcode_word])]
  have hf : (put (word 0x31 g) 64 a).extractLsb' 56 8 = 0x00 := by simp (disch := decide) only [extract_put_same, extract_put_other, fn_word]
  unfold build31; rw [hf]
  show some _ = _
  simp (disch := decide) only [guard_put, guard_word, extract_put_same, extract_put_other]

theorem waitN (g : Guard) (a : BitVec 6) (imm : BitVec 48) : Statement (.waitN g a imm) := by
  intro cx lit hwf hlit
  show build (put (put (put (word 0x31 g) 56 (0x01 : BitVec 8)) 64 a) 8 imm) lit = _
  rw [build_31 _ _ (by simp (disch := decide) only [opcode_put, opcode_word])]
  have hf : (put (put (put (word 0x31 g) 56 (0x01 : BitVec 8)) 64 a) 8 imm).extractLsb' 56 8 = 0x01 := by simp (disch := decide) only [extract_put_same, extract_put_other, fn_word]
  unfold build31; rw [hf]
  show some _ = _
  simp (disch := decide) only [guard_put, guard_word, extract_put_same, extract_put_other]

theorem toksetI (g : Guard) (a : BitVec 6) (imm : BitVec 48) : Statement (.toksetI g a imm) := by
  intro cx lit hwf hlit
  show build (put (put (word 0x32 g) 64 a) 8 imm) lit = _
  rw [build_32 _ _ (by simp (disch := decide) only [opcode_put, opcode_word])]
  have hf : (put (put (word 0x32 g) 64 a) 8 imm).extractLsb' 56 8 = 0x00 := by simp (disch := decide) only [extract_put_same, extract_put_other, fn_word]
  unfold build32; rw [hf]
  show some _ = _
  simp (disch := decide) only [guard_put, guard_word, extract_put_same, extract_put_other]

theorem toksetX (g : Guard) (d : BitVec 6) (a : BitVec 6) (imm : BitVec 48) : Statement (.toksetX g d a imm) := by
  intro cx lit hwf hlit
  show build (put (put (put (put (word 0x32 g) 56 (0x01 : BitVec 8)) 70 d) 64 a) 8 imm) lit = _
  rw [build_32 _ _ (by simp (disch := decide) only [opcode_put, opcode_word])]
  have hf : (put (put (put (put (word 0x32 g) 56 (0x01 : BitVec 8)) 70 d) 64 a) 8 imm).extractLsb' 56 8 = 0x01 := by simp (disch := decide) only [extract_put_same, extract_put_other, fn_word]
  unfold build32; rw [hf]
  show some _ = _
  simp (disch := decide) only [guard_put, guard_word, extract_put_same, extract_put_other]

theorem fenceS (g : Guard) (d : BitVec 6) (imm : BitVec 48) : Statement (.fenceS g d imm) := by
  intro cx lit hwf hlit
  show build (put (put (word 0x33 g) 70 d) 8 imm) lit = _
  rw [build_33 _ _ (by simp (disch := decide) only [opcode_put, opcode_word])]
  have hf : (put (put (word 0x33 g) 70 d) 8 imm).extractLsb' 56 8 = 0x00 := by simp (disch := decide) only [extract_put_same, extract_put_other, fn_word]
  unfold build33; rw [hf]
  show some _ = _
  simp (disch := decide) only [guard_put, guard_word, extract_put_same, extract_put_other]

theorem retimeAt (g : Guard) (a : BitVec 6) (imm : BitVec 48) : Statement (.retimeAt g a imm) := by
  intro cx lit hwf hlit
  show build (put (put (word 0x34 g) 64 a) 8 imm) lit = _
  rw [build_34 _ _ (by simp (disch := decide) only [opcode_put, opcode_word])]
  have hf : (put (put (word 0x34 g) 64 a) 8 imm).extractLsb' 56 8 = 0x00 := by simp (disch := decide) only [extract_put_same, extract_put_other, fn_word]
  unfold build34; rw [hf]
  show some _ = _
  simp (disch := decide) only [guard_put, guard_word, extract_put_same, extract_put_other]

theorem waitvEq (g : Guard) (h : BitVec 5) (a : BitVec 6) (b : BitVec 6) (scope : BitVec 3) (order : BitVec 2) (cell : BitVec 32) : Statement (.waitvEq g h a b scope order cell) := by
  intro cx lit hwf hlit
  show build (put (put (put (put (put (put (word 0x35 g) 71 h) 65 a) 59 b) 42 scope) 40 order) 0 cell) lit = _
  rw [build_35 _ _ (by simp (disch := decide) only [opcode_put, opcode_word])]
  have hf : (put (put (put (put (put (put (word 0x35 g) 71 h) 65 a) 59 b) 42 scope) 40 order) 0 cell).extractLsb' 45 8 = 0x00 := by simp (disch := decide) only [extract_put_same, extract_put_other, fn_word]
  unfold build35; rw [hf]
  show some _ = _
  simp (disch := decide) only [guard_put, guard_word, extract_put_same, extract_put_other]

theorem waitvNe (g : Guard) (h : BitVec 5) (a : BitVec 6) (b : BitVec 6) (scope : BitVec 3) (order : BitVec 2) (cell : BitVec 32) : Statement (.waitvNe g h a b scope order cell) := by
  intro cx lit hwf hlit
  show build (put (put (put (put (put (put (put (word 0x35 g) 45 (0x01 : BitVec 8)) 71 h) 65 a) 59 b) 42 scope) 40 order) 0 cell) lit = _
  rw [build_35 _ _ (by simp (disch := decide) only [opcode_put, opcode_word])]
  have hf : (put (put (put (put (put (put (put (word 0x35 g) 45 (0x01 : BitVec 8)) 71 h) 65 a) 59 b) 42 scope) 40 order) 0 cell).extractLsb' 45 8 = 0x01 := by simp (disch := decide) only [extract_put_same, extract_put_other, fn_word]
  unfold build35; rw [hf]
  show some _ = _
  simp (disch := decide) only [guard_put, guard_word, extract_put_same, extract_put_other]

theorem waitvGe (g : Guard) (h : BitVec 5) (a : BitVec 6) (b : BitVec 6) (scope : BitVec 3) (order : BitVec 2) (cell : BitVec 32) : Statement (.waitvGe g h a b scope order cell) := by
  intro cx lit hwf hlit
  show build (put (put (put (put (put (put (put (word 0x35 g) 45 (0x02 : BitVec 8)) 71 h) 65 a) 59 b) 42 scope) 40 order) 0 cell) lit = _
  rw [build_35 _ _ (by simp (disch := decide) only [opcode_put, opcode_word])]
  have hf : (put (put (put (put (put (put (put (word 0x35 g) 45 (0x02 : BitVec 8)) 71 h) 65 a) 59 b) 42 scope) 40 order) 0 cell).extractLsb' 45 8 = 0x02 := by simp (disch := decide) only [extract_put_same, extract_put_other, fn_word]
  unfold build35; rw [hf]
  show some _ = _
  simp (disch := decide) only [guard_put, guard_word, extract_put_same, extract_put_other]

theorem waitvLt (g : Guard) (h : BitVec 5) (a : BitVec 6) (b : BitVec 6) (scope : BitVec 3) (order : BitVec 2) (cell : BitVec 32) : Statement (.waitvLt g h a b scope order cell) := by
  intro cx lit hwf hlit
  show build (put (put (put (put (put (put (put (word 0x35 g) 45 (0x03 : BitVec 8)) 71 h) 65 a) 59 b) 42 scope) 40 order) 0 cell) lit = _
  rw [build_35 _ _ (by simp (disch := decide) only [opcode_put, opcode_word])]
  have hf : (put (put (put (put (put (put (put (word 0x35 g) 45 (0x03 : BitVec 8)) 71 h) 65 a) 59 b) 42 scope) 40 order) 0 cell).extractLsb' 45 8 = 0x03 := by simp (disch := decide) only [extract_put_same, extract_put_other, fn_word]
  unfold build35; rw [hf]
  show some _ = _
  simp (disch := decide) only [guard_put, guard_word, extract_put_same, extract_put_other]

theorem waitvAny (g : Guard) (h : BitVec 5) (a : BitVec 6) (b : BitVec 6) (scope : BitVec 3) (order : BitVec 2) (cell : BitVec 32) : Statement (.waitvAny g h a b scope order cell) := by
  intro cx lit hwf hlit
  show build (put (put (put (put (put (put (put (word 0x35 g) 45 (0x04 : BitVec 8)) 71 h) 65 a) 59 b) 42 scope) 40 order) 0 cell) lit = _
  rw [build_35 _ _ (by simp (disch := decide) only [opcode_put, opcode_word])]
  have hf : (put (put (put (put (put (put (put (word 0x35 g) 45 (0x04 : BitVec 8)) 71 h) 65 a) 59 b) 42 scope) 40 order) 0 cell).extractLsb' 45 8 = 0x04 := by simp (disch := decide) only [extract_put_same, extract_put_other, fn_word]
  unfold build35; rw [hf]
  show some _ = _
  simp (disch := decide) only [guard_put, guard_word, extract_put_same, extract_put_other]

theorem waitvNone (g : Guard) (h : BitVec 5) (a : BitVec 6) (b : BitVec 6) (scope : BitVec 3) (order : BitVec 2) (cell : BitVec 32) : Statement (.waitvNone g h a b scope order cell) := by
  intro cx lit hwf hlit
  show build (put (put (put (put (put (put (put (word 0x35 g) 45 (0x05 : BitVec 8)) 71 h) 65 a) 59 b) 42 scope) 40 order) 0 cell) lit = _
  rw [build_35 _ _ (by simp (disch := decide) only [opcode_put, opcode_word])]
  have hf : (put (put (put (put (put (put (put (word 0x35 g) 45 (0x05 : BitVec 8)) 71 h) 65 a) 59 b) 42 scope) 40 order) 0 cell).extractLsb' 45 8 = 0x05 := by simp (disch := decide) only [extract_put_same, extract_put_other, fn_word]
  unfold build35; rw [hf]
  show some _ = _
  simp (disch := decide) only [guard_put, guard_word, extract_put_same, extract_put_other]

theorem markQ (g : Guard) (a : BitVec 6) (imm : BitVec 48) : Statement (.markQ g a imm) := by
  intro cx lit hwf hlit
  show build (put (put (word 0x36 g) 64 a) 8 imm) lit = _
  rw [build_36 _ _ (by simp (disch := decide) only [opcode_put, opcode_word])]
  have hf : (put (put (word 0x36 g) 64 a) 8 imm).extractLsb' 56 8 = 0x00 := by simp (disch := decide) only [extract_put_same, extract_put_other, fn_word]
  unfold build36; rw [hf]
  show some _ = _
  simp (disch := decide) only [guard_put, guard_word, extract_put_same, extract_put_other]

theorem sstepS (g : Guard) (a : BitVec 6) (imm : BitVec 48) : Statement (.sstepS g a imm) := by
  intro cx lit hwf hlit
  show build (put (put (word 0x37 g) 64 a) 8 imm) lit = _
  rw [build_37 _ _ (by simp (disch := decide) only [opcode_put, opcode_word])]
  have hf : (put (put (word 0x37 g) 64 a) 8 imm).extractLsb' 56 8 = 0x00 := by simp (disch := decide) only [extract_put_same, extract_put_other, fn_word]
  unfold build37; rw [hf]
  show some _ = _
  simp (disch := decide) only [guard_put, guard_word, extract_put_same, extract_put_other]

theorem capsetB (g : Guard) (hd : BitVec 5) (ha : BitVec 5) (sr : BitVec 6) : Statement (.capsetB g hd ha sr) := by
  intro cx lit hwf hlit
  show build (put (put (put (word 0x40 g) 71 hd) 66 ha) 55 sr) lit = _
  rw [build_40 _ _ (by simp (disch := decide) only [opcode_put, opcode_word])]
  have hf : (put (put (put (word 0x40 g) 71 hd) 66 ha) 55 sr).extractLsb' 47 8 = 0x00 := by simp (disch := decide) only [extract_put_same, extract_put_other, fn_word]
  unfold build40; rw [hf]
  show some _ = _
  simp (disch := decide) only [guard_put, guard_word, extract_put_same, extract_put_other]

theorem capsetE (g : Guard) (hd : BitVec 5) (ha : BitVec 5) (sr : BitVec 6) : Statement (.capsetE g hd ha sr) := by
  intro cx lit hwf hlit
  show build (put (put (put (put (word 0x40 g) 47 (0x01 : BitVec 8)) 71 hd) 66 ha) 55 sr) lit = _
  rw [build_40 _ _ (by simp (disch := decide) only [opcode_put, opcode_word])]
  have hf : (put (put (put (put (word 0x40 g) 47 (0x01 : BitVec 8)) 71 hd) 66 ha) 55 sr).extractLsb' 47 8 = 0x01 := by simp (disch := decide) only [extract_put_same, extract_put_other, fn_word]
  unfold build40; rw [hf]
  show some _ = _
  simp (disch := decide) only [guard_put, guard_word, extract_put_same, extract_put_other]

theorem cappermAnd (g : Guard) (hd : BitVec 5) (ha : BitVec 5) (imm : BitVec 32) : Statement (.cappermAnd g hd ha imm) := by
  intro cx lit hwf hlit
  show build (put (put (put (word 0x41 g) 71 hd) 66 ha) 15 imm) lit = _
  rw [build_41 _ _ (by simp (disch := decide) only [opcode_put, opcode_word])]
  have hf : (put (put (put (word 0x41 g) 71 hd) 66 ha) 15 imm).extractLsb' 47 8 = 0x00 := by simp (disch := decide) only [extract_put_same, extract_put_other, fn_word]
  unfold build41; rw [hf]
  show some _ = _
  simp (disch := decide) only [guard_put, guard_word, extract_put_same, extract_put_other]

theorem capoffAdd (g : Guard) (hd : BitVec 5) (ha : BitVec 5) (sr : BitVec 6) : Statement (.capoffAdd g hd ha sr) := by
  intro cx lit hwf hlit
  show build (put (put (put (word 0x42 g) 71 hd) 66 ha) 55 sr) lit = _
  rw [build_42 _ _ (by simp (disch := decide) only [opcode_put, opcode_word])]
  have hf : (put (put (put (word 0x42 g) 71 hd) 66 ha) 55 sr).extractLsb' 47 8 = 0x00 := by simp (disch := decide) only [extract_put_same, extract_put_other, fn_word]
  unfold build42; rw [hf]
  show some _ = _
  simp (disch := decide) only [guard_put, guard_word, extract_put_same, extract_put_other]

theorem capoffSet (g : Guard) (hd : BitVec 5) (ha : BitVec 5) (sr : BitVec 6) : Statement (.capoffSet g hd ha sr) := by
  intro cx lit hwf hlit
  show build (put (put (put (put (word 0x42 g) 47 (0x01 : BitVec 8)) 71 hd) 66 ha) 55 sr) lit = _
  rw [build_42 _ _ (by simp (disch := decide) only [opcode_put, opcode_word])]
  have hf : (put (put (put (put (word 0x42 g) 47 (0x01 : BitVec 8)) 71 hd) 66 ha) 55 sr).extractLsb' 47 8 = 0x01 := by simp (disch := decide) only [extract_put_same, extract_put_other, fn_word]
  unfold build42; rw [hf]
  show some _ = _
  simp (disch := decide) only [guard_put, guard_word, extract_put_same, extract_put_other]

theorem capgetA (g : Guard) (ha : BitVec 5) (sr : BitVec 6) : Statement (.capgetA g ha sr) := by
  intro cx lit hwf hlit
  show build (put (put (word 0x43 g) 66 ha) 55 sr) lit = _
  rw [build_43 _ _ (by simp (disch := decide) only [opcode_put, opcode_word])]
  have hf : (put (put (word 0x43 g) 66 ha) 55 sr).extractLsb' 47 8 = 0x00 := by simp (disch := decide) only [extract_put_same, extract_put_other, fn_word]
  unfold build43; rw [hf]
  show some _ = _
  simp (disch := decide) only [guard_put, guard_word, extract_put_same, extract_put_other]

theorem capgetCells (g : Guard) (hd : BitVec 5) : Statement (.capgetCells g hd) := by
  intro cx lit hwf hlit
  show build (put (put (word 0x43 g) 47 (0x01 : BitVec 8)) 71 hd) lit = _
  rw [build_43 _ _ (by simp (disch := decide) only [opcode_put, opcode_word])]
  have hf : (put (put (word 0x43 g) 47 (0x01 : BitVec 8)) 71 hd).extractLsb' 47 8 = 0x01 := by simp (disch := decide) only [extract_put_same, extract_put_other, fn_word]
  unfold build43; rw [hf]
  show some _ = _
  simp (disch := decide) only [guard_put, guard_word, extract_put_same, extract_put_other]

theorem capgetKv (g : Guard) (hd : BitVec 5) : Statement (.capgetKv g hd) := by
  intro cx lit hwf hlit
  show build (put (put (word 0x43 g) 47 (0x02 : BitVec 8)) 71 hd) lit = _
  rw [build_43 _ _ (by simp (disch := decide) only [opcode_put, opcode_word])]
  have hf : (put (put (word 0x43 g) 47 (0x02 : BitVec 8)) 71 hd).extractLsb' 47 8 = 0x02 := by simp (disch := decide) only [extract_put_same, extract_put_other, fn_word]
  unfold build43; rw [hf]
  show some _ = _
  simp (disch := decide) only [guard_put, guard_word, extract_put_same, extract_put_other]

theorem capgetPeer (g : Guard) (hd : BitVec 5) (sr : BitVec 6) : Statement (.capgetPeer g hd sr) := by
  intro cx lit hwf hlit
  show build (put (put (put (word 0x43 g) 47 (0x03 : BitVec 8)) 71 hd) 55 sr) lit = _
  rw [build_43 _ _ (by simp (disch := decide) only [opcode_put, opcode_word])]
  have hf : (put (put (put (word 0x43 g) 47 (0x03 : BitVec 8)) 71 hd) 55 sr).extractLsb' 47 8 = 0x03 := by simp (disch := decide) only [extract_put_same, extract_put_other, fn_word]
  unfold build43; rw [hf]
  show some _ = _
  simp (disch := decide) only [guard_put, guard_word, extract_put_same, extract_put_other]

theorem capgetSys (g : Guard) (hd : BitVec 5) : Statement (.capgetSys g hd) := by
  intro cx lit hwf hlit
  show build (put (put (word 0x43 g) 47 (0x04 : BitVec 8)) 71 hd) lit = _
  rw [build_43 _ _ (by simp (disch := decide) only [opcode_put, opcode_word])]
  have hf : (put (put (word 0x43 g) 47 (0x04 : BitVec 8)) 71 hd).extractLsb' 47 8 = 0x04 := by simp (disch := decide) only [extract_put_same, extract_put_other, fn_word]
  unfold build43; rw [hf]
  show some _ = _
  simp (disch := decide) only [guard_put, guard_word, extract_put_same, extract_put_other]

theorem capgetBase (g : Guard) (ha : BitVec 5) (sr : BitVec 6) : Statement (.capgetBase g ha sr) := by
  intro cx lit hwf hlit
  show build (put (put (put (word 0x43 g) 47 (0x05 : BitVec 8)) 66 ha) 55 sr) lit = _
  rw [build_43 _ _ (by simp (disch := decide) only [opcode_put, opcode_word])]
  have hf : (put (put (put (word 0x43 g) 47 (0x05 : BitVec 8)) 66 ha) 55 sr).extractLsb' 47 8 = 0x05 := by simp (disch := decide) only [extract_put_same, extract_put_other, fn_word]
  unfold build43; rw [hf]
  show some _ = _
  simp (disch := decide) only [guard_put, guard_word, extract_put_same, extract_put_other]

theorem capgetLen (g : Guard) (ha : BitVec 5) (sr : BitVec 6) : Statement (.capgetLen g ha sr) := by
  intro cx lit hwf hlit
  show build (put (put (put (word 0x43 g) 47 (0x06 : BitVec 8)) 66 ha) 55 sr) lit = _
  rw [build_43 _ _ (by simp (disch := decide) only [opcode_put, opcode_word])]
  have hf : (put (put (put (word 0x43 g) 47 (0x06 : BitVec 8)) 66 ha) 55 sr).extractLsb' 47 8 = 0x06 := by simp (disch := decide) only [extract_put_same, extract_put_other, fn_word]
  unfold build43; rw [hf]
  show some _ = _
  simp (disch := decide) only [guard_put, guard_word, extract_put_same, extract_put_other]

theorem capgetHi (g : Guard) (ha : BitVec 5) (sr : BitVec 6) : Statement (.capgetHi g ha sr) := by
  intro cx lit hwf hlit
  show build (put (put (put (word 0x43 g) 47 (0x07 : BitVec 8)) 66 ha) 55 sr) lit = _
  rw [build_43 _ _ (by simp (disch := decide) only [opcode_put, opcode_word])]
  have hf : (put (put (put (word 0x43 g) 47 (0x07 : BitVec 8)) 66 ha) 55 sr).extractLsb' 47 8 = 0x07 := by simp (disch := decide) only [extract_put_same, extract_put_other, fn_word]
  unfold build43; rw [hf]
  show some _ = _
  simp (disch := decide) only [guard_put, guard_word, extract_put_same, extract_put_other]

theorem captestTag (g : Guard) (ha : BitVec 5) (sr : BitVec 6) : Statement (.captestTag g ha sr) := by
  intro cx lit hwf hlit
  show build (put (put (word 0x44 g) 66 ha) 55 sr) lit = _
  rw [build_44 _ _ (by simp (disch := decide) only [opcode_put, opcode_word])]
  have hf : (put (put (word 0x44 g) 66 ha) 55 sr).extractLsb' 47 8 = 0x00 := by simp (disch := decide) only [extract_put_same, extract_put_other, fn_word]
  unfold build44; rw [hf]
  show some _ = _
  simp (disch := decide) only [guard_put, guard_word, extract_put_same, extract_put_other]

theorem captestIn (g : Guard) (ha : BitVec 5) (sr : BitVec 6) (imm : BitVec 32) : Statement (.captestIn g ha sr imm) := by
  intro cx lit hwf hlit
  show build (put (put (put (put (word 0x44 g) 47 (0x01 : BitVec 8)) 66 ha) 55 sr) 15 imm) lit = _
  rw [build_44 _ _ (by simp (disch := decide) only [opcode_put, opcode_word])]
  have hf : (put (put (put (put (word 0x44 g) 47 (0x01 : BitVec 8)) 66 ha) 55 sr) 15 imm).extractLsb' 47 8 = 0x01 := by simp (disch := decide) only [extract_put_same, extract_put_other, fn_word]
  unfold build44; rw [hf]
  show some _ = _
  simp (disch := decide) only [guard_put, guard_word, extract_put_same, extract_put_other]

theorem dupN (g : Guard) (hd : BitVec 5) (ha : BitVec 5) (imm : BitVec 32) : Statement (.dupN g hd ha imm) := by
  intro cx lit hwf hlit
  show build (put (put (put (word 0x45 g) 71 hd) 66 ha) 15 imm) lit = _
  rw [build_45 _ _ (by simp (disch := decide) only [opcode_put, opcode_word])]
  have hf : (put (put (put (word 0x45 g) 71 hd) 66 ha) 15 imm).extractLsb' 47 8 = 0x00 := by simp (disch := decide) only [extract_put_same, extract_put_other, fn_word]
  unfold build45; rw [hf]
  show some _ = _
  simp (disch := decide) only [guard_put, guard_word, extract_put_same, extract_put_other]

theorem dropW (g : Guard) (ha : BitVec 5) : Statement (.dropW g ha) := by
  intro cx lit hwf hlit
  show build (put (word 0x46 g) 66 ha) lit = _
  rw [build_46 _ _ (by simp (disch := decide) only [opcode_put, opcode_word])]
  have hf : (put (word 0x46 g) 66 ha).extractLsb' 47 8 = 0x00 := by simp (disch := decide) only [extract_put_same, extract_put_other, fn_word]
  unfold build46; rw [hf]
  show some _ = _
  simp (disch := decide) only [guard_put, guard_word, extract_put_same, extract_put_other]

theorem dropB (g : Guard) (hd : BitVec 5) (ha : BitVec 5) (sr : BitVec 6) : Statement (.dropB g hd ha sr) := by
  intro cx lit hwf hlit
  show build (put (put (put (put (word 0x46 g) 47 (0x01 : BitVec 8)) 71 hd) 66 ha) 55 sr) lit = _
  rw [build_46 _ _ (by simp (disch := decide) only [opcode_put, opcode_word])]
  have hf : (put (put (put (put (word 0x46 g) 47 (0x01 : BitVec 8)) 71 hd) 66 ha) 55 sr).extractLsb' 47 8 = 0x01 := by simp (disch := decide) only [extract_put_same, extract_put_other, fn_word]
  unfold build46; rw [hf]
  show some _ = _
  simp (disch := decide) only [guard_put, guard_word, extract_put_same, extract_put_other]

theorem movhM (g : Guard) (hd : BitVec 5) (ha : BitVec 5) : Statement (.movhM g hd ha) := by
  intro cx lit hwf hlit
  show build (put (put (word 0x47 g) 71 hd) 66 ha) lit = _
  rw [build_47 _ _ (by simp (disch := decide) only [opcode_put, opcode_word])]
  have hf : (put (put (word 0x47 g) 71 hd) 66 ha).extractLsb' 47 8 = 0x00 := by simp (disch := decide) only [extract_put_same, extract_put_other, fn_word]
  unfold build47; rw [hf]
  show some _ = _
  simp (disch := decide) only [guard_put, guard_word, extract_put_same, extract_put_other]

theorem mergeW (g : Guard) (hd : BitVec 5) (ha : BitVec 5) (hb : BitVec 5) : Statement (.mergeW g hd ha hb) := by
  intro cx lit hwf hlit
  show build (put (put (put (word 0x48 g) 71 hd) 66 ha) 61 hb) lit = _
  rw [build_48 _ _ (by simp (disch := decide) only [opcode_put, opcode_word])]
  have hf : (put (put (put (word 0x48 g) 71 hd) 66 ha) 61 hb).extractLsb' 47 8 = 0x00 := by simp (disch := decide) only [extract_put_same, extract_put_other, fn_word]
  unfold build48; rw [hf]
  show some _ = _
  simp (disch := decide) only [guard_put, guard_word, extract_put_same, extract_put_other]

theorem allocT (g : Guard) (hd : BitVec 5) (imm : BitVec 32) : Statement (.allocT g hd imm) := by
  intro cx lit hwf hlit
  show build (put (put (word 0x49 g) 71 hd) 15 imm) lit = _
  rw [build_49 _ _ (by simp (disch := decide) only [opcode_put, opcode_word])]
  have hf : (put (put (word 0x49 g) 71 hd) 15 imm).extractLsb' 47 8 = 0x00 := by simp (disch := decide) only [extract_put_same, extract_put_other, fn_word]
  unfold build49; rw [hf]
  show some _ = _
  simp (disch := decide) only [guard_put, guard_word, extract_put_same, extract_put_other]

theorem allocM (g : Guard) (hd : BitVec 5) (imm : BitVec 32) : Statement (.allocM g hd imm) := by
  intro cx lit hwf hlit
  show build (put (put (put (word 0x49 g) 47 (0x01 : BitVec 8)) 71 hd) 15 imm) lit = _
  rw [build_49 _ _ (by simp (disch := decide) only [opcode_put, opcode_word])]
  have hf : (put (put (put (word 0x49 g) 47 (0x01 : BitVec 8)) 71 hd) 15 imm).extractLsb' 47 8 = 0x01 := by simp (disch := decide) only [extract_put_same, extract_put_other, fn_word]
  unfold build49; rw [hf]
  show some _ = _
  simp (disch := decide) only [guard_put, guard_word, extract_put_same, extract_put_other]

theorem isunqL (g : Guard) (ha : BitVec 5) (sr : BitVec 6) : Statement (.isunqL g ha sr) := by
  intro cx lit hwf hlit
  show build (put (put (word 0x4A g) 66 ha) 55 sr) lit = _
  rw [build_4A _ _ (by simp (disch := decide) only [opcode_put, opcode_word])]
  have hf : (put (put (word 0x4A g) 66 ha) 55 sr).extractLsb' 47 8 = 0x00 := by simp (disch := decide) only [extract_put_same, extract_put_other, fn_word]
  unfold build4A; rw [hf]
  show some _ = _
  simp (disch := decide) only [guard_put, guard_word, extract_put_same, extract_put_other]

theorem isunqX (g : Guard) (ha : BitVec 5) (sr : BitVec 6) : Statement (.isunqX g ha sr) := by
  intro cx lit hwf hlit
  show build (put (put (put (word 0x4A g) 47 (0x01 : BitVec 8)) 66 ha) 55 sr) lit = _
  rw [build_4A _ _ (by simp (disch := decide) only [opcode_put, opcode_word])]
  have hf : (put (put (put (word 0x4A g) 47 (0x01 : BitVec 8)) 66 ha) 55 sr).extractLsb' 47 8 = 0x01 := by simp (disch := decide) only [extract_put_same, extract_put_other, fn_word]
  unfold build4A; rw [hf]
  show some _ = _
  simp (disch := decide) only [guard_put, guard_word, extract_put_same, extract_put_other]

theorem updT (g : Guard) (hd : BitVec 5) (ha : BitVec 5) : Statement (.updT g hd ha) := by
  intro cx lit hwf hlit
  show build (put (put (word 0x4B g) 71 hd) 66 ha) lit = _
  rw [build_4B _ _ (by simp (disch := decide) only [opcode_put, opcode_word])]
  have hf : (put (put (word 0x4B g) 71 hd) 66 ha).extractLsb' 47 8 = 0x00 := by simp (disch := decide) only [extract_put_same, extract_put_other, fn_word]
  unfold build4B; rw [hf]
  show some _ = _
  simp (disch := decide) only [guard_put, guard_word, extract_put_same, extract_put_other]

theorem updM (g : Guard) (hd : BitVec 5) (ha : BitVec 5) : Statement (.updM g hd ha) := by
  intro cx lit hwf hlit
  show build (put (put (put (word 0x4B g) 47 (0x01 : BitVec 8)) 71 hd) 66 ha) lit = _
  rw [build_4B _ _ (by simp (disch := decide) only [opcode_put, opcode_word])]
  have hf : (put (put (put (word 0x4B g) 47 (0x01 : BitVec 8)) 71 hd) 66 ha).extractLsb' 47 8 = 0x01 := by simp (disch := decide) only [extract_put_same, extract_put_other, fn_word]
  unfold build4B; rw [hf]
  show some _ = _
  simp (disch := decide) only [guard_put, guard_word, extract_put_same, extract_put_other]

theorem sealT (g : Guard) (hd : BitVec 5) (ha : BitVec 5) (imm : BitVec 32) : Statement (.sealT g hd ha imm) := by
  intro cx lit hwf hlit
  show build (put (put (put (word 0x4C g) 71 hd) 66 ha) 15 imm) lit = _
  rw [build_4C _ _ (by simp (disch := decide) only [opcode_put, opcode_word])]
  have hf : (put (put (put (word 0x4C g) 71 hd) 66 ha) 15 imm).extractLsb' 47 8 = 0x00 := by simp (disch := decide) only [extract_put_same, extract_put_other, fn_word]
  unfold build4C; rw [hf]
  show some _ = _
  simp (disch := decide) only [guard_put, guard_word, extract_put_same, extract_put_other]

theorem gsetL (g : Guard) (gr : BitVec 5) (l : Word96) : Statement (.gsetL g gr l) := by
  intro cx lit hwf hlit
  obtain rfl : l = lit := hlit.elim (fun h => nomatch h) Option.some.inj
  show build (put (word 0x50 g) 61 gr) l = _
  rw [build_50 _ _ (by simp (disch := decide) only [opcode_put, opcode_word])]
  have hf : (put (word 0x50 g) 61 gr).extractLsb' 44 4 = 0x00 := by simp (disch := decide) only [extract_put_same, extract_put_other, fn_word]
  unfold build50; rw [hf]
  show some _ = _
  simp (disch := decide) only [guard_put, guard_word, extract_put_same, extract_put_other]

theorem gsetR (g : Guard) (ha : BitVec 5) (gr : BitVec 5) (l : Word96) : Statement (.gsetR g ha gr l) := by
  intro cx lit hwf hlit
  obtain rfl : l = lit := hlit.elim (fun h => nomatch h) Option.some.inj
  show build (put (put (put (word 0x50 g) 44 (0x01 : BitVec 4)) 66 ha) 61 gr) l = _
  rw [build_50 _ _ (by simp (disch := decide) only [opcode_put, opcode_word])]
  have hf : (put (put (put (word 0x50 g) 44 (0x01 : BitVec 4)) 66 ha) 61 gr).extractLsb' 44 4 = 0x01 := by simp (disch := decide) only [extract_put_same, extract_put_other, fn_word]
  unfold build50; rw [hf]
  show some _ = _
  simp (disch := decide) only [guard_put, guard_word, extract_put_same, extract_put_other]

theorem csetI (g : Guard) (d : BitVec 6) (imm : BitVec 48) : Statement (.csetI g d imm) := by
  intro cx lit hwf hlit
  show build (put (put (word 0x51 g) 70 d) 8 imm) lit = _
  rw [build_51 _ _ (by simp (disch := decide) only [opcode_put, opcode_word])]
  have hf : (put (put (word 0x51 g) 70 d) 8 imm).extractLsb' 56 8 = 0x00 := by simp (disch := decide) only [extract_put_same, extract_put_other, fn_word]
  unfold build51; rw [hf]
  show some _ = _
  simp (disch := decide) only [guard_put, guard_word, extract_put_same, extract_put_other]

theorem csetS (g : Guard) (d : BitVec 6) (a : BitVec 6) : Statement (.csetS g d a) := by
  intro cx lit hwf hlit
  show build (put (put (put (word 0x51 g) 56 (0x01 : BitVec 8)) 70 d) 64 a) lit = _
  rw [build_51 _ _ (by simp (disch := decide) only [opcode_put, opcode_word])]
  have hf : (put (put (put (word 0x51 g) 56 (0x01 : BitVec 8)) 70 d) 64 a).extractLsb' 56 8 = 0x01 := by simp (disch := decide) only [extract_put_same, extract_put_other, fn_word]
  unfold build51; rw [hf]
  show some _ = _
  simp (disch := decide) only [guard_put, guard_word, extract_put_same, extract_put_other]

theorem caddI (g : Guard) (d : BitVec 6) (a : BitVec 6) (imm : BitVec 48) : Statement (.caddI g d a imm) := by
  intro cx lit hwf hlit
  show build (put (put (put (word 0x52 g) 70 d) 64 a) 8 imm) lit = _
  rw [build_52 _ _ (by simp (disch := decide) only [opcode_put, opcode_word])]
  have hf : (put (put (put (word 0x52 g) 70 d) 64 a) 8 imm).extractLsb' 56 8 = 0x00 := by simp (disch := decide) only [extract_put_same, extract_put_other, fn_word]
  unfold build52; rw [hf]
  show some _ = _
  simp (disch := decide) only [guard_put, guard_word, extract_put_same, extract_put_other]

theorem caddS (g : Guard) (d : BitVec 6) (a : BitVec 6) : Statement (.caddS g d a) := by
  intro cx lit hwf hlit
  show build (put (put (put (word 0x52 g) 56 (0x01 : BitVec 8)) 70 d) 64 a) lit = _
  rw [build_52 _ _ (by simp (disch := decide) only [opcode_put, opcode_word])]
  have hf : (put (put (put (word 0x52 g) 56 (0x01 : BitVec 8)) 70 d) 64 a).extractLsb' 56 8 = 0x01 := by simp (disch := decide) only [extract_put_same, extract_put_other, fn_word]
  unfold build52; rw [hf]
  show some _ = _
  simp (disch := decide) only [guard_put, guard_word, extract_put_same, extract_put_other]

theorem tldR (g : Guard) (hd : BitVec 5) (ha : BitVec 5) (gr : BitVec 5) (f : BitVec 4) (cnt : BitVec 3) (post : BitVec 1) (clip : BitVec 1) (perm : BitVec 1) (stamp : BitVec 20) (imm : BitVec 20) : Statement (.tldR g hd ha gr f cnt post clip perm stamp imm) := by
  intro cx lit hwf hlit
  show build (put (put (put (put (put (put (put (put (put (put (word 0x53 g) 71 hd) 66 ha) 61 gr) 57 f) 54 cnt) 43 post) 42 clip) 41 perm) 20 stamp) 0 imm) lit = _
  rw [build_53 _ _ (by simp (disch := decide) only [opcode_put, opcode_word])]
  have hf : (put (put (put (put (put (put (put (put (put (put (word 0x53 g) 71 hd) 66 ha) 61 gr) 57 f) 54 cnt) 43 post) 42 clip) 41 perm) 20 stamp) 0 imm).extractLsb' 44 4 = 0x00 := by simp (disch := decide) only [extract_put_same, extract_put_other, fn_word]
  unfold build53; rw [hf]
  show some _ = _
  simp (disch := decide) only [guard_put, guard_word, extract_put_same, extract_put_other]

theorem tldW (g : Guard) (hd : BitVec 5) (ha : BitVec 5) (stamp : BitVec 20) : Statement (.tldW g hd ha stamp) := by
  intro cx lit hwf hlit
  show build (put (put (put (put (word 0x53 g) 44 (0x01 : BitVec 4)) 71 hd) 66 ha) 20 stamp) lit = _
  rw [build_53 _ _ (by simp (disch := decide) only [opcode_put, opcode_word])]
  have hf : (put (put (put (put (word 0x53 g) 44 (0x01 : BitVec 4)) 71 hd) 66 ha) 20 stamp).extractLsb' 44 4 = 0x01 := by simp (disch := decide) only [extract_put_same, extract_put_other, fn_word]
  unfold build53; rw [hf]
  show some _ = _
  simp (disch := decide) only [guard_put, guard_word, extract_put_same, extract_put_other]

theorem tcopyR (g : Guard) (hd : BitVec 5) (ha : BitVec 5) (gr : BitVec 5) (f : BitVec 4) (cnt : BitVec 3) (sr : BitVec 6) (post : BitVec 1) (clip : BitVec 1) (perm : BitVec 1) (stamp : BitVec 20) (imm : BitVec 20) : Statement (.tcopyR g hd ha gr f cnt sr post clip perm stamp imm) := by
  intro cx lit hwf hlit
  show build (put (put (put (put (put (put (put (put (put (put (put (word 0x54 g) 71 hd) 66 ha) 61 gr) 57 f) 54 cnt) 48 sr) 43 post) 42 clip) 41 perm) 20 stamp) 0 imm) lit = _
  rw [build_54 _ _ (by simp (disch := decide) only [opcode_put, opcode_word])]
  have hf : (put (put (put (put (put (put (put (put (put (put (put (word 0x54 g) 71 hd) 66 ha) 61 gr) 57 f) 54 cnt) 48 sr) 43 post) 42 clip) 41 perm) 20 stamp) 0 imm).extractLsb' 44 4 = 0x00 := by simp (disch := decide) only [extract_put_same, extract_put_other, fn_word]
  unfold build54; rw [hf]
  show some _ = _
  simp (disch := decide) only [guard_put, guard_word, extract_put_same, extract_put_other]

theorem tcopyW (g : Guard) (hd : BitVec 5) (ha : BitVec 5) (sr : BitVec 6) (stamp : BitVec 20) : Statement (.tcopyW g hd ha sr stamp) := by
  intro cx lit hwf hlit
  show build (put (put (put (put (put (word 0x54 g) 44 (0x01 : BitVec 4)) 71 hd) 66 ha) 48 sr) 20 stamp) lit = _
  rw [build_54 _ _ (by simp (disch := decide) only [opcode_put, opcode_word])]
  have hf : (put (put (put (put (put (word 0x54 g) 44 (0x01 : BitVec 4)) 71 hd) 66 ha) 48 sr) 20 stamp).extractLsb' 44 4 = 0x01 := by simp (disch := decide) only [extract_put_same, extract_put_other, fn_word]
  unfold build54; rw [hf]
  show some _ = _
  simp (disch := decide) only [guard_put, guard_word, extract_put_same, extract_put_other]

theorem tcopyS (g : Guard) (hd : BitVec 5) (ha : BitVec 5) (gr : BitVec 5) (f : BitVec 4) (cnt : BitVec 3) (sr : BitVec 6) (post : BitVec 1) (clip : BitVec 1) (perm : BitVec 1) (stamp : BitVec 20) : Statement (.tcopyS g hd ha gr f cnt sr post clip perm stamp) := by
  intro cx lit hwf hlit
  show build (put (put (put (put (put (put (put (put (put (put (put (word 0x54 g) 44 (0x02 : BitVec 4)) 71 hd) 66 ha) 61 gr) 57 f) 54 cnt) 48 sr) 43 post) 42 clip) 41 perm) 20 stamp) lit = _
  rw [build_54 _ _ (by simp (disch := decide) only [opcode_put, opcode_word])]
  have hf : (put (put (put (put (put (put (put (put (put (put (put (word 0x54 g) 44 (0x02 : BitVec 4)) 71 hd) 66 ha) 61 gr) 57 f) 54 cnt) 48 sr) 43 post) 42 clip) 41 perm) 20 stamp).extractLsb' 44 4 = 0x02 := by simp (disch := decide) only [extract_put_same, extract_put_other, fn_word]
  unfold build54; rw [hf]
  show some _ = _
  simp (disch := decide) only [guard_put, guard_word, extract_put_same, extract_put_other]

theorem tcopyHi (g : Guard) (hd : BitVec 5) (ha : BitVec 5) (sr : BitVec 6) (stamp : BitVec 20) (imm : BitVec 20) : Statement (.tcopyHi g hd ha sr stamp imm) := by
  intro cx lit hwf hlit
  show build (put (put (put (put (put (put (word 0x54 g) 44 (0x03 : BitVec 4)) 71 hd) 66 ha) 48 sr) 20 stamp) 0 imm) lit = _
  rw [build_54 _ _ (by simp (disch := decide) only [opcode_put, opcode_word])]
  have hf : (put (put (put (put (put (put (word 0x54 g) 44 (0x03 : BitVec 4)) 71 hd) 66 ha) 48 sr) 20 stamp) 0 imm).extractLsb' 44 4 = 0x03 := by simp (disch := decide) only [extract_put_same, extract_put_other, fn_word]
  unfold build54; rw [hf]
  show some _ = _
  simp (disch := decide) only [guard_put, guard_word, extract_put_same, extract_put_other]

theorem tcopyHo (g : Guard) (hd : BitVec 5) (ha : BitVec 5) (sr : BitVec 6) (stamp : BitVec 20) (imm : BitVec 20) : Statement (.tcopyHo g hd ha sr stamp imm) := by
  intro cx lit hwf hlit
  show build (put (put (put (put (put (put (word 0x54 g) 44 (0x04 : BitVec 4)) 71 hd) 66 ha) 48 sr) 20 stamp) 0 imm) lit = _
  rw [build_54 _ _ (by simp (disch := decide) only [opcode_put, opcode_word])]
  have hf : (put (put (put (put (put (put (word 0x54 g) 44 (0x04 : BitVec 4)) 71 hd) 66 ha) 48 sr) 20 stamp) 0 imm).extractLsb' 44 4 = 0x04 := by simp (disch := decide) only [extract_put_same, extract_put_other, fn_word]
  unfold build54; rw [hf]
  show some _ = _
  simp (disch := decide) only [guard_put, guard_word, extract_put_same, extract_put_other]

theorem gatherK (g : Guard) (hd : BitVec 5) (ha : BitVec 5) (sr : BitVec 6) (stamp : BitVec 20) : Statement (.gatherK g hd ha sr stamp) := by
  intro cx lit hwf hlit
  show build (put (put (put (put (word 0x55 g) 71 hd) 66 ha) 48 sr) 20 stamp) lit = _
  rw [build_55 _ _ (by simp (disch := decide) only [opcode_put, opcode_word])]
  have hf : (put (put (put (put (word 0x55 g) 71 hd) 66 ha) 48 sr) 20 stamp).extractLsb' 44 4 = 0x00 := by simp (disch := decide) only [extract_put_same, extract_put_other, fn_word]
  unfold build55; rw [hf]
  show some _ = _
  simp (disch := decide) only [guard_put, guard_word, extract_put_same, extract_put_other]

theorem gatherV (g : Guard) (hd : BitVec 5) (ha : BitVec 5) (sr : BitVec 6) (stamp : BitVec 20) : Statement (.gatherV g hd ha sr stamp) := by
  intro cx lit hwf hlit
  show build (put (put (put (put (put (word 0x55 g) 44 (0x01 : BitVec 4)) 71 hd) 66 ha) 48 sr) 20 stamp) lit = _
  rw [build_55 _ _ (by simp (disch := decide) only [opcode_put, opcode_word])]
  have hf : (put (put (put (put (put (word 0x55 g) 44 (0x01 : BitVec 4)) 71 hd) 66 ha) 48 sr) 20 stamp).extractLsb' 44 4 = 0x01 := by simp (disch := decide) only [extract_put_same, extract_put_other, fn_word]
  unfold build55; rw [hf]
  show some _ = _
  simp (disch := decide) only [guard_put, guard_word, extract_put_same, extract_put_other]

theorem appendKv (g : Guard) (hd : BitVec 5) (ha : BitVec 5) (sr : BitVec 6) : Statement (.appendKv g hd ha sr) := by
  intro cx lit hwf hlit
  show build (put (put (put (word 0x56 g) 71 hd) 66 ha) 48 sr) lit = _
  rw [build_56 _ _ (by simp (disch := decide) only [opcode_put, opcode_word])]
  have hf : (put (put (put (word 0x56 g) 71 hd) 66 ha) 48 sr).extractLsb' 44 4 = 0x00 := by simp (disch := decide) only [extract_put_same, extract_put_other, fn_word]
  unfold build56; rw [hf]
  show some _ = _
  simp (disch := decide) only [guard_put, guard_word, extract_put_same, extract_put_other]

theorem claimS (g : Guard) (hd : BitVec 5) : Statement (.claimS g hd) := by
  intro cx lit hwf hlit
  show build (put (word 0x57 g) 71 hd) lit = _
  rw [build_57 _ _ (by simp (disch := decide) only [opcode_put, opcode_word])]
  have hf : (put (word 0x57 g) 71 hd).extractLsb' 44 4 = 0x00 := by simp (disch := decide) only [extract_put_same, extract_put_other, fn_word]
  unfold build57; rw [hf]
  show some _ = _
  simp (disch := decide) only [guard_put, guard_word, extract_put_same, extract_put_other]

theorem releaseS (g : Guard) (hd : BitVec 5) : Statement (.releaseS g hd) := by
  intro cx lit hwf hlit
  show build (put (word 0x58 g) 71 hd) lit = _
  rw [build_58 _ _ (by simp (disch := decide) only [opcode_put, opcode_word])]
  have hf : (put (word 0x58 g) 71 hd).extractLsb' 44 4 = 0x00 := by simp (disch := decide) only [extract_put_same, extract_put_other, fn_word]
  unfold build58; rw [hf]
  show some _ = _
  simp (disch := decide) only [guard_put, guard_word, extract_put_same, extract_put_other]

theorem mmaT (g : Guard) (stamp : BitVec 20) (sa : BitVec 4) (sb : BitVec 4) (col : BitVec 10) (k : BitVec 8) (acc : BitVec 1) (ta : BitVec 1) (pre : BitVec 1) : Statement (.mmaT g stamp sa sb col k acc ta pre) := by
  intro cx lit hwf hlit
  show build (put (put (put (put (put (put (put (put (word 0x60 g) 56 stamp) 52 sa) 48 sb) 38 col) 30 k) 25 acc) 24 ta) 23 pre) lit = _
  rw [build_60 _ _ (by simp (disch := decide) only [opcode_put, opcode_word])]
  have hf : (put (put (put (put (put (put (put (put (word 0x60 g) 56 stamp) 52 sa) 48 sb) 38 col) 30 k) 25 acc) 24 ta) 23 pre).extractLsb' 26 4 = 0x00 := by simp (disch := decide) only [extract_put_same, extract_put_other, fn_word]
  unfold build60; rw [hf]
  show some _ = _
  simp (disch := decide) only [guard_put, guard_word, extract_put_same, extract_put_other]

theorem mdrainT (g : Guard) (stamp : BitVec 20) (rm : BitVec 3) (hb : BitVec 5) (col : BitVec 10) (k : BitVec 8) (sr : BitVec 6) : Statement (.mdrainT g stamp rm hb col k sr) := by
  intro cx lit hwf hlit
  show build (put (put (put (put (put (put (word 0x61 g) 56 stamp) 53 rm) 48 hb) 38 col) 30 k) 16 sr) lit = _
  rw [build_61 _ _ (by simp (disch := decide) only [opcode_put, opcode_word])]
  have hf : (put (put (put (put (put (put (word 0x61 g) 56 stamp) 53 rm) 48 hb) 38 col) 30 k) 16 sr).extractLsb' 26 4 = 0x00 := by simp (disch := decide) only [extract_put_same, extract_put_other, fn_word]
  unfold build61; rw [hf]
  show some _ = _
  simp (disch := decide) only [guard_put, guard_word, extract_put_same, extract_put_other]

theorem mzeroT (g : Guard) (stamp : BitVec 20) (col : BitVec 10) (k : BitVec 8) : Statement (.mzeroT g stamp col k) := by
  intro cx lit hwf hlit
  show build (put (put (put (word 0x62 g) 56 stamp) 38 col) 30 k) lit = _
  rw [build_62 _ _ (by simp (disch := decide) only [opcode_put, opcode_word])]
  have hf : (put (put (put (word 0x62 g) 56 stamp) 38 col) 30 k).extractLsb' 26 4 = 0x00 := by simp (disch := decide) only [extract_put_same, extract_put_other, fn_word]
  unfold build62; rw [hf]
  show some _ = _
  simp (disch := decide) only [guard_put, guard_word, extract_put_same, extract_put_other]

theorem maccR (g : Guard) (stamp : BitVec 20) (row : BitVec 8) (col : BitVec 10) (k : BitVec 8) (acc : BitVec 1) (int : BitVec 1) (sr : BitVec 6) : Statement (.maccR g stamp row col k acc int sr) := by
  intro cx lit hwf hlit
  show build (put (put (put (put (put (put (put (word 0x63 g) 56 stamp) 48 row) 38 col) 30 k) 25 acc) 24 int) 16 sr) lit = _
  rw [build_63 _ _ (by simp (disch := decide) only [opcode_put, opcode_word])]
  have hf : (put (put (put (put (put (put (put (word 0x63 g) 56 stamp) 48 row) 38 col) 30 k) 25 acc) 24 int) 16 sr).extractLsb' 26 4 = 0x00 := by simp (disch := decide) only [extract_put_same, extract_put_other, fn_word]
  unfold build63; rw [hf]
  show some _ = _
  simp (disch := decide) only [guard_put, guard_word, extract_put_same, extract_put_other]

theorem tstatR (g : Guard) (d : BitVec 6) (a : BitVec 6) : Statement (.tstatR g d a) := by
  intro cx lit hwf hlit
  show build (put (put (word 0x64 g) 70 d) 64 a) lit = _
  rw [build_64 _ _ (by simp (disch := decide) only [opcode_put, opcode_word])]
  have hf : (put (put (word 0x64 g) 70 d) 64 a).extractLsb' 44 8 = 0x00 := by simp (disch := decide) only [extract_put_same, extract_put_other, fn_word]
  unfold build64; rw [hf]
  show some _ = _
  simp (disch := decide) only [guard_put, guard_word, extract_put_same, extract_put_other]

theorem valuAdd (g : Guard) (vd : BitVec 6) (va : BitVec 6) (vb : BitVec 6) (ty : BitVec 4) (rm : BitVec 3) (sat : BitVec 1) (masked : BitVec 1) : Statement (.valuAdd g vd va vb ty rm sat masked) := by
  intro cx lit hwf hlit
  show build (put (put (put (put (put (put (put (word 0x70 g) 70 vd) 64 va) 58 vb) 40 ty) 37 rm) 36 sat) 35 masked) lit = _
  rw [build_70 _ _ (by simp (disch := decide) only [opcode_put, opcode_word])]
  have hf : (put (put (put (put (put (put (put (word 0x70 g) 70 vd) 64 va) 58 vb) 40 ty) 37 rm) 36 sat) 35 masked).extractLsb' 44 8 = 0x00 := by simp (disch := decide) only [extract_put_same, extract_put_other, fn_word]
  unfold build70; rw [hf]
  show some _ = _
  simp (disch := decide) only [guard_put, guard_word, extract_put_same, extract_put_other]

theorem valuSub (g : Guard) (vd : BitVec 6) (va : BitVec 6) (vb : BitVec 6) (ty : BitVec 4) (rm : BitVec 3) (sat : BitVec 1) (masked : BitVec 1) : Statement (.valuSub g vd va vb ty rm sat masked) := by
  intro cx lit hwf hlit
  show build (put (put (put (put (put (put (put (put (word 0x70 g) 44 (0x01 : BitVec 8)) 70 vd) 64 va) 58 vb) 40 ty) 37 rm) 36 sat) 35 masked) lit = _
  rw [build_70 _ _ (by simp (disch := decide) only [opcode_put, opcode_word])]
  have hf : (put (put (put (put (put (put (put (put (word 0x70 g) 44 (0x01 : BitVec 8)) 70 vd) 64 va) 58 vb) 40 ty) 37 rm) 36 sat) 35 masked).extractLsb' 44 8 = 0x01 := by simp (disch := decide) only [extract_put_same, extract_put_other, fn_word]
  unfold build70; rw [hf]
  show some _ = _
  simp (disch := decide) only [guard_put, guard_word, extract_put_same, extract_put_other]

theorem valuAnd (g : Guard) (vd : BitVec 6) (va : BitVec 6) (vb : BitVec 6) (ty : BitVec 4) (rm : BitVec 3) (sat : BitVec 1) (masked : BitVec 1) : Statement (.valuAnd g vd va vb ty rm sat masked) := by
  intro cx lit hwf hlit
  show build (put (put (put (put (put (put (put (put (word 0x70 g) 44 (0x02 : BitVec 8)) 70 vd) 64 va) 58 vb) 40 ty) 37 rm) 36 sat) 35 masked) lit = _
  rw [build_70 _ _ (by simp (disch := decide) only [opcode_put, opcode_word])]
  have hf : (put (put (put (put (put (put (put (put (word 0x70 g) 44 (0x02 : BitVec 8)) 70 vd) 64 va) 58 vb) 40 ty) 37 rm) 36 sat) 35 masked).extractLsb' 44 8 = 0x02 := by simp (disch := decide) only [extract_put_same, extract_put_other, fn_word]
  unfold build70; rw [hf]
  show some _ = _
  simp (disch := decide) only [guard_put, guard_word, extract_put_same, extract_put_other]

theorem valuOr (g : Guard) (vd : BitVec 6) (va : BitVec 6) (vb : BitVec 6) (ty : BitVec 4) (rm : BitVec 3) (sat : BitVec 1) (masked : BitVec 1) : Statement (.valuOr g vd va vb ty rm sat masked) := by
  intro cx lit hwf hlit
  show build (put (put (put (put (put (put (put (put (word 0x70 g) 44 (0x03 : BitVec 8)) 70 vd) 64 va) 58 vb) 40 ty) 37 rm) 36 sat) 35 masked) lit = _
  rw [build_70 _ _ (by simp (disch := decide) only [opcode_put, opcode_word])]
  have hf : (put (put (put (put (put (put (put (put (word 0x70 g) 44 (0x03 : BitVec 8)) 70 vd) 64 va) 58 vb) 40 ty) 37 rm) 36 sat) 35 masked).extractLsb' 44 8 = 0x03 := by simp (disch := decide) only [extract_put_same, extract_put_other, fn_word]
  unfold build70; rw [hf]
  show some _ = _
  simp (disch := decide) only [guard_put, guard_word, extract_put_same, extract_put_other]

theorem valuXor (g : Guard) (vd : BitVec 6) (va : BitVec 6) (vb : BitVec 6) (ty : BitVec 4) (rm : BitVec 3) (sat : BitVec 1) (masked : BitVec 1) : Statement (.valuXor g vd va vb ty rm sat masked) := by
  intro cx lit hwf hlit
  show build (put (put (put (put (put (put (put (put (word 0x70 g) 44 (0x04 : BitVec 8)) 70 vd) 64 va) 58 vb) 40 ty) 37 rm) 36 sat) 35 masked) lit = _
  rw [build_70 _ _ (by simp (disch := decide) only [opcode_put, opcode_word])]
  have hf : (put (put (put (put (put (put (put (put (word 0x70 g) 44 (0x04 : BitVec 8)) 70 vd) 64 va) 58 vb) 40 ty) 37 rm) 36 sat) 35 masked).extractLsb' 44 8 = 0x04 := by simp (disch := decide) only [extract_put_same, extract_put_other, fn_word]
  unfold build70; rw [hf]
  show some _ = _
  simp (disch := decide) only [guard_put, guard_word, extract_put_same, extract_put_other]

theorem valuAndn (g : Guard) (vd : BitVec 6) (va : BitVec 6) (vb : BitVec 6) (ty : BitVec 4) (rm : BitVec 3) (sat : BitVec 1) (masked : BitVec 1) : Statement (.valuAndn g vd va vb ty rm sat masked) := by
  intro cx lit hwf hlit
  show build (put (put (put (put (put (put (put (put (word 0x70 g) 44 (0x05 : BitVec 8)) 70 vd) 64 va) 58 vb) 40 ty) 37 rm) 36 sat) 35 masked) lit = _
  rw [build_70 _ _ (by simp (disch := decide) only [opcode_put, opcode_word])]
  have hf : (put (put (put (put (put (put (put (put (word 0x70 g) 44 (0x05 : BitVec 8)) 70 vd) 64 va) 58 vb) 40 ty) 37 rm) 36 sat) 35 masked).extractLsb' 44 8 = 0x05 := by simp (disch := decide) only [extract_put_same, extract_put_other, fn_word]
  unfold build70; rw [hf]
  show some _ = _
  simp (disch := decide) only [guard_put, guard_word, extract_put_same, extract_put_other]

theorem valuShl (g : Guard) (vd : BitVec 6) (va : BitVec 6) (vb : BitVec 6) (ty : BitVec 4) (rm : BitVec 3) (sat : BitVec 1) (masked : BitVec 1) : Statement (.valuShl g vd va vb ty rm sat masked) := by
  intro cx lit hwf hlit
  show build (put (put (put (put (put (put (put (put (word 0x70 g) 44 (0x06 : BitVec 8)) 70 vd) 64 va) 58 vb) 40 ty) 37 rm) 36 sat) 35 masked) lit = _
  rw [build_70 _ _ (by simp (disch := decide) only [opcode_put, opcode_word])]
  have hf : (put (put (put (put (put (put (put (put (word 0x70 g) 44 (0x06 : BitVec 8)) 70 vd) 64 va) 58 vb) 40 ty) 37 rm) 36 sat) 35 masked).extractLsb' 44 8 = 0x06 := by simp (disch := decide) only [extract_put_same, extract_put_other, fn_word]
  unfold build70; rw [hf]
  show some _ = _
  simp (disch := decide) only [guard_put, guard_word, extract_put_same, extract_put_other]

theorem valuShr (g : Guard) (vd : BitVec 6) (va : BitVec 6) (vb : BitVec 6) (ty : BitVec 4) (rm : BitVec 3) (sat : BitVec 1) (masked : BitVec 1) : Statement (.valuShr g vd va vb ty rm sat masked) := by
  intro cx lit hwf hlit
  show build (put (put (put (put (put (put (put (put (word 0x70 g) 44 (0x07 : BitVec 8)) 70 vd) 64 va) 58 vb) 40 ty) 37 rm) 36 sat) 35 masked) lit = _
  rw [build_70 _ _ (by simp (disch := decide) only [opcode_put, opcode_word])]
  have hf : (put (put (put (put (put (put (put (put (word 0x70 g) 44 (0x07 : BitVec 8)) 70 vd) 64 va) 58 vb) 40 ty) 37 rm) 36 sat) 35 masked).extractLsb' 44 8 = 0x07 := by simp (disch := decide) only [extract_put_same, extract_put_other, fn_word]
  unfold build70; rw [hf]
  show some _ = _
  simp (disch := decide) only [guard_put, guard_word, extract_put_same, extract_put_other]

theorem valuSar (g : Guard) (vd : BitVec 6) (va : BitVec 6) (vb : BitVec 6) (ty : BitVec 4) (rm : BitVec 3) (sat : BitVec 1) (masked : BitVec 1) : Statement (.valuSar g vd va vb ty rm sat masked) := by
  intro cx lit hwf hlit
  show build (put (put (put (put (put (put (put (put (word 0x70 g) 44 (0x08 : BitVec 8)) 70 vd) 64 va) 58 vb) 40 ty) 37 rm) 36 sat) 35 masked) lit = _
  rw [build_70 _ _ (by simp (disch := decide) only [opcode_put, opcode_word])]
  have hf : (put (put (put (put (put (put (put (put (word 0x70 g) 44 (0x08 : BitVec 8)) 70 vd) 64 va) 58 vb) 40 ty) 37 rm) 36 sat) 35 masked).extractLsb' 44 8 = 0x08 := by simp (disch := decide) only [extract_put_same, extract_put_other, fn_word]
  unfold build70; rw [hf]
  show some _ = _
  simp (disch := decide) only [guard_put, guard_word, extract_put_same, extract_put_other]

theorem valuMin (g : Guard) (vd : BitVec 6) (va : BitVec 6) (vb : BitVec 6) (ty : BitVec 4) (rm : BitVec 3) (sat : BitVec 1) (masked : BitVec 1) : Statement (.valuMin g vd va vb ty rm sat masked) := by
  intro cx lit hwf hlit
  show build (put (put (put (put (put (put (put (put (word 0x70 g) 44 (0x0A : BitVec 8)) 70 vd) 64 va) 58 vb) 40 ty) 37 rm) 36 sat) 35 masked) lit = _
  rw [build_70 _ _ (by simp (disch := decide) only [opcode_put, opcode_word])]
  have hf : (put (put (put (put (put (put (put (put (word 0x70 g) 44 (0x0A : BitVec 8)) 70 vd) 64 va) 58 vb) 40 ty) 37 rm) 36 sat) 35 masked).extractLsb' 44 8 = 0x0A := by simp (disch := decide) only [extract_put_same, extract_put_other, fn_word]
  unfold build70; rw [hf]
  show some _ = _
  simp (disch := decide) only [guard_put, guard_word, extract_put_same, extract_put_other]

theorem valuMax (g : Guard) (vd : BitVec 6) (va : BitVec 6) (vb : BitVec 6) (ty : BitVec 4) (rm : BitVec 3) (sat : BitVec 1) (masked : BitVec 1) : Statement (.valuMax g vd va vb ty rm sat masked) := by
  intro cx lit hwf hlit
  show build (put (put (put (put (put (put (put (put (word 0x70 g) 44 (0x0B : BitVec 8)) 70 vd) 64 va) 58 vb) 40 ty) 37 rm) 36 sat) 35 masked) lit = _
  rw [build_70 _ _ (by simp (disch := decide) only [opcode_put, opcode_word])]
  have hf : (put (put (put (put (put (put (put (put (word 0x70 g) 44 (0x0B : BitVec 8)) 70 vd) 64 va) 58 vb) 40 ty) 37 rm) 36 sat) 35 masked).extractLsb' 44 8 = 0x0B := by simp (disch := decide) only [extract_put_same, extract_put_other, fn_word]
  unfold build70; rw [hf]
  show some _ = _
  simp (disch := decide) only [guard_put, guard_word, extract_put_same, extract_put_other]

theorem valuAbs (g : Guard) (vd : BitVec 6) (va : BitVec 6) (ty : BitVec 4) (rm : BitVec 3) (sat : BitVec 1) (masked : BitVec 1) : Statement (.valuAbs g vd va ty rm sat masked) := by
  intro cx lit hwf hlit
  show build (put (put (put (put (put (put (put (word 0x70 g) 44 (0x0C : BitVec 8)) 70 vd) 64 va) 40 ty) 37 rm) 36 sat) 35 masked) lit = _
  rw [build_70 _ _ (by simp (disch := decide) only [opcode_put, opcode_word])]
  have hf : (put (put (put (put (put (put (put (word 0x70 g) 44 (0x0C : BitVec 8)) 70 vd) 64 va) 40 ty) 37 rm) 36 sat) 35 masked).extractLsb' 44 8 = 0x0C := by simp (disch := decide) only [extract_put_same, extract_put_other, fn_word]
  unfold build70; rw [hf]
  show some _ = _
  simp (disch := decide) only [guard_put, guard_word, extract_put_same, extract_put_other]

theorem valuMul (g : Guard) (vd : BitVec 6) (va : BitVec 6) (vb : BitVec 6) (ty : BitVec 4) (rm : BitVec 3) (sat : BitVec 1) (masked : BitVec 1) : Statement (.valuMul g vd va vb ty rm sat masked) := by
  intro cx lit hwf hlit
  show build (put (put (put (put (put (put (put (put (word 0x70 g) 44 (0x10 : BitVec 8)) 70 vd) 64 va) 58 vb) 40 ty) 37 rm) 36 sat) 35 masked) lit = _
  rw [build_70 _ _ (by simp (disch := decide) only [opcode_put, opcode_word])]
  have hf : (put (put (put (put (put (put (put (put (word 0x70 g) 44 (0x10 : BitVec 8)) 70 vd) 64 va) 58 vb) 40 ty) 37 rm) 36 sat) 35 masked).extractLsb' 44 8 = 0x10 := by simp (disch := decide) only [extract_put_same, extract_put_other, fn_word]
  unfold build70; rw [hf]
  show some _ = _
  simp (disch := decide) only [guard_put, guard_word, extract_put_same, extract_put_other]

theorem valuMulh (g : Guard) (vd : BitVec 6) (va : BitVec 6) (vb : BitVec 6) (ty : BitVec 4) (rm : BitVec 3) (sat : BitVec 1) (masked : BitVec 1) : Statement (.valuMulh g vd va vb ty rm sat masked) := by
  intro cx lit hwf hlit
  show build (put (put (put (put (put (put (put (put (word 0x70 g) 44 (0x11 : BitVec 8)) 70 vd) 64 va) 58 vb) 40 ty) 37 rm) 36 sat) 35 masked) lit = _
  rw [build_70 _ _ (by simp (disch := decide) only [opcode_put, opcode_word])]
  have hf : (put (put (put (put (put (put (put (put (word 0x70 g) 44 (0x11 : BitVec 8)) 70 vd) 64 va) 58 vb) 40 ty) 37 rm) 36 sat) 35 masked).extractLsb' 44 8 = 0x11 := by simp (disch := decide) only [extract_put_same, extract_put_other, fn_word]
  unfold build70; rw [hf]
  show some _ = _
  simp (disch := decide) only [guard_put, guard_word, extract_put_same, extract_put_other]

theorem vfmaFma (g : Guard) (vd : BitVec 6) (va : BitVec 6) (vb : BitVec 6) (vc : BitVec 6) (ty : BitVec 4) (rm : BitVec 3) (sat : BitVec 1) (masked : BitVec 1) : Statement (.vfmaFma g vd va vb vc ty rm sat masked) := by
  intro cx lit hwf hlit
  show build (put (put (put (put (put (put (put (put (word 0x71 g) 70 vd) 64 va) 58 vb) 52 vc) 40 ty) 37 rm) 36 sat) 35 masked) lit = _
  rw [build_71 _ _ (by simp (disch := decide) only [opcode_put, opcode_word])]
  have hf : (put (put (put (put (put (put (put (put (word 0x71 g) 70 vd) 64 va) 58 vb) 52 vc) 40 ty) 37 rm) 36 sat) 35 masked).extractLsb' 44 8 = 0x00 := by simp (disch := decide) only [extract_put_same, extract_put_other, fn_word]
  unfold build71; rw [hf]
  show some _ = _
  simp (disch := decide) only [guard_put, guard_word, extract_put_same, extract_put_other]

theorem vfmaFms (g : Guard) (vd : BitVec 6) (va : BitVec 6) (vb : BitVec 6) (vc : BitVec 6) (ty : BitVec 4) (rm : BitVec 3) (sat : BitVec 1) (masked : BitVec 1) : Statement (.vfmaFms g vd va vb vc ty rm sat masked) := by
  intro cx lit hwf hlit
  show build (put (put (put (put (put (put (put (put (put (word 0x71 g) 44 (0x01 : BitVec 8)) 70 vd) 64 va) 58 vb) 52 vc) 40 ty) 37 rm) 36 sat) 35 masked) lit = _
  rw [build_71 _ _ (by simp (disch := decide) only [opcode_put, opcode_word])]
  have hf : (put (put (put (put (put (put (put (put (put (word 0x71 g) 44 (0x01 : BitVec 8)) 70 vd) 64 va) 58 vb) 52 vc) 40 ty) 37 rm) 36 sat) 35 masked).extractLsb' 44 8 = 0x01 := by simp (disch := decide) only [extract_put_same, extract_put_other, fn_word]
  unfold build71; rw [hf]
  show some _ = _
  simp (disch := decide) only [guard_put, guard_word, extract_put_same, extract_put_other]

theorem vfmaFnma (g : Guard) (vd : BitVec 6) (va : BitVec 6) (vb : BitVec 6) (vc : BitVec 6) (ty : BitVec 4) (rm : BitVec 3) (sat : BitVec 1) (masked : BitVec 1) : Statement (.vfmaFnma g vd va vb vc ty rm sat masked) := by
  intro cx lit hwf hlit
  show build (put (put (put (put (put (put (put (put (put (word 0x71 g) 44 (0x02 : BitVec 8)) 70 vd) 64 va) 58 vb) 52 vc) 40 ty) 37 rm) 36 sat) 35 masked) lit = _
  rw [build_71 _ _ (by simp (disch := decide) only [opcode_put, opcode_word])]
  have hf : (put (put (put (put (put (put (put (put (put (word 0x71 g) 44 (0x02 : BitVec 8)) 70 vd) 64 va) 58 vb) 52 vc) 40 ty) 37 rm) 36 sat) 35 masked).extractLsb' 44 8 = 0x02 := by simp (disch := decide) only [extract_put_same, extract_put_other, fn_word]
  unfold build71; rw [hf]
  show some _ = _
  simp (disch := decide) only [guard_put, guard_word, extract_put_same, extract_put_other]

theorem vcmpEq (g : Guard) (vd : BitVec 6) (va : BitVec 6) (vb : BitVec 6) (ty : BitVec 4) (masked : BitVec 1) : Statement (.vcmpEq g vd va vb ty masked) := by
  intro cx lit hwf hlit
  show build (put (put (put (put (put (put (word 0x72 g) 44 (0x18 : BitVec 8)) 70 vd) 64 va) 58 vb) 40 ty) 35 masked) lit = _
  rw [build_72 _ _ (by simp (disch := decide) only [opcode_put, opcode_word])]
  have hf : (put (put (put (put (put (put (word 0x72 g) 44 (0x18 : BitVec 8)) 70 vd) 64 va) 58 vb) 40 ty) 35 masked).extractLsb' 44 8 = 0x18 := by simp (disch := decide) only [extract_put_same, extract_put_other, fn_word]
  unfold build72; rw [hf]
  show some _ = _
  simp (disch := decide) only [guard_put, guard_word, extract_put_same, extract_put_other]

theorem vcmpNe (g : Guard) (vd : BitVec 6) (va : BitVec 6) (vb : BitVec 6) (ty : BitVec 4) (masked : BitVec 1) : Statement (.vcmpNe g vd va vb ty masked) := by
  intro cx lit hwf hlit
  show build (put (put (put (put (put (put (word 0x72 g) 44 (0x19 : BitVec 8)) 70 vd) 64 va) 58 vb) 40 ty) 35 masked) lit = _
  rw [build_72 _ _ (by simp (disch := decide) only [opcode_put, opcode_word])]
  have hf : (put (put (put (put (put (put (word 0x72 g) 44 (0x19 : BitVec 8)) 70 vd) 64 va) 58 vb) 40 ty) 35 masked).extractLsb' 44 8 = 0x19 := by simp (disch := decide) only [extract_put_same, extract_put_other, fn_word]
  unfold build72; rw [hf]
  show some _ = _
  simp (disch := decide) only [guard_put, guard_word, extract_put_same, extract_put_other]

theorem vcmpLt (g : Guard) (vd : BitVec 6) (va : BitVec 6) (vb : BitVec 6) (ty : BitVec 4) (masked : BitVec 1) : Statement (.vcmpLt g vd va vb ty masked) := by
  intro cx lit hwf hlit
  show build (put (put (put (put (put (put (word 0x72 g) 44 (0x1A : BitVec 8)) 70 vd) 64 va) 58 vb) 40 ty) 35 masked) lit = _
  rw [build_72 _ _ (by simp (disch := decide) only [opcode_put, opcode_word])]
  have hf : (put (put (put (put (put (put (word 0x72 g) 44 (0x1A : BitVec 8)) 70 vd) 64 va) 58 vb) 40 ty) 35 masked).extractLsb' 44 8 = 0x1A := by simp (disch := decide) only [extract_put_same, extract_put_other, fn_word]
  unfold build72; rw [hf]
  show some _ = _
  simp (disch := decide) only [guard_put, guard_word, extract_put_same, extract_put_other]

theorem vcmpGe (g : Guard) (vd : BitVec 6) (va : BitVec 6) (vb : BitVec 6) (ty : BitVec 4) (masked : BitVec 1) : Statement (.vcmpGe g vd va vb ty masked) := by
  intro cx lit hwf hlit
  show build (put (put (put (put (put (put (word 0x72 g) 44 (0x1D : BitVec 8)) 70 vd) 64 va) 58 vb) 40 ty) 35 masked) lit = _
  rw [build_72 _ _ (by simp (disch := decide) only [opcode_put, opcode_word])]
  have hf : (put (put (put (put (put (put (word 0x72 g) 44 (0x1D : BitVec 8)) 70 vd) 64 va) 58 vb) 40 ty) 35 masked).extractLsb' 44 8 = 0x1D := by simp (disch := decide) only [extract_put_same, extract_put_other, fn_word]
  unfold build72; rw [hf]
  show some _ = _
  simp (disch := decide) only [guard_put, guard_word, extract_put_same, extract_put_other]

theorem vcvtCvt (g : Guard) (vd : BitVec 6) (va : BitVec 6) (ty : BitVec 4) (rm : BitVec 3) (sat : BitVec 1) (masked : BitVec 1) (imm : BitVec 8) : Statement (.vcvtCvt g vd va ty rm sat masked imm) := by
  intro cx lit hwf hlit
  show build (put (put (put (put (put (put (put (word 0x73 g) 70 vd) 64 va) 40 ty) 37 rm) 36 sat) 35 masked) 21 imm) lit = _
  rw [build_73 _ _ (by simp (disch := decide) only [opcode_put, opcode_word])]
  have hf : (put (put (put (put (put (put (put (word 0x73 g) 70 vd) 64 va) 40 ty) 37 rm) 36 sat) 35 masked) 21 imm).extractLsb' 44 8 = 0x00 := by simp (disch := decide) only [extract_put_same, extract_put_other, fn_word]
  unfold build73; rw [hf]
  show some _ = _
  simp (disch := decide) only [guard_put, guard_word, extract_put_same, extract_put_other]

theorem vlt3Lut (g : Guard) (vd : BitVec 6) (va : BitVec 6) (vb : BitVec 6) (vc : BitVec 6) (ty : BitVec 4) (masked : BitVec 1) (imm : BitVec 8) : Statement (.vlt3Lut g vd va vb vc ty masked imm) := by
  intro cx lit hwf hlit
  show build (put (put (put (put (put (put (put (word 0x74 g) 70 vd) 64 va) 58 vb) 52 vc) 40 ty) 35 masked) 21 imm) lit = _
  rw [build_74 _ _ (by simp (disch := decide) only [opcode_put, opcode_word])]
  have hf : (put (put (put (put (put (put (put (word 0x74 g) 70 vd) 64 va) 58 vb) 52 vc) 40 ty) 35 masked) 21 imm).extractLsb' 44 8 = 0x00 := by simp (disch := decide) only [extract_put_same, extract_put_other, fn_word]
  unfold build74; rw [hf]
  show some _ = _
  simp (disch := decide) only [guard_put, guard_word, extract_put_same, extract_put_other]

theorem vfshL (g : Guard) (vd : BitVec 6) (va : BitVec 6) (vb : BitVec 6) (ty : BitVec 4) (masked : BitVec 1) (imm : BitVec 8) : Statement (.vfshL g vd va vb ty masked imm) := by
  intro cx lit hwf hlit
  show build (put (put (put (put (put (put (word 0x75 g) 70 vd) 64 va) 58 vb) 40 ty) 35 masked) 21 imm) lit = _
  rw [build_75 _ _ (by simp (disch := decide) only [opcode_put, opcode_word])]
  have hf : (put (put (put (put (put (put (word 0x75 g) 70 vd) 64 va) 58 vb) 40 ty) 35 masked) 21 imm).extractLsb' 44 8 = 0x00 := by simp (disch := decide) only [extract_put_same, extract_put_other, fn_word]
  unfold build75; rw [hf]
  show some _ = _
  simp (disch := decide) only [guard_put, guard_word, extract_put_same, extract_put_other]

theorem vfshR (g : Guard) (vd : BitVec 6) (va : BitVec 6) (vb : BitVec 6) (ty : BitVec 4) (masked : BitVec 1) (imm : BitVec 8) : Statement (.vfshR g vd va vb ty masked imm) := by
  intro cx lit hwf hlit
  show build (put (put (put (put (put (put (put (word 0x75 g) 44 (0x01 : BitVec 8)) 70 vd) 64 va) 58 vb) 40 ty) 35 masked) 21 imm) lit = _
  rw [build_75 _ _ (by simp (disch := decide) only [opcode_put, opcode_word])]
  have hf : (put (put (put (put (put (put (put (word 0x75 g) 44 (0x01 : BitVec 8)) 70 vd) 64 va) 58 vb) 40 ty) 35 masked) 21 imm).extractLsb' 44 8 = 0x01 := by simp (disch := decide) only [extract_put_same, extract_put_other, fn_word]
  unfold build75; rw [hf]
  show some _ = _
  simp (disch := decide) only [guard_put, guard_word, extract_put_same, extract_put_other]

theorem vlrotRot (g : Guard) (vd : BitVec 6) (va : BitVec 6) (ty : BitVec 4) (masked : BitVec 1) (imm : BitVec 8) : Statement (.vlrotRot g vd va ty masked imm) := by
  intro cx lit hwf hlit
  show build (put (put (put (put (put (word 0x76 g) 70 vd) 64 va) 40 ty) 35 masked) 21 imm) lit = _
  rw [build_76 _ _ (by simp (disch := decide) only [opcode_put, opcode_word])]
  have hf : (put (put (put (put (put (word 0x76 g) 70 vd) 64 va) 40 ty) 35 masked) 21 imm).extractLsb' 44 8 = 0x00 := by simp (disch := decide) only [extract_put_same, extract_put_other, fn_word]
  unfold build76; rw [hf]
  show some _ = _
  simp (disch := decide) only [guard_put, guard_word, extract_put_same, extract_put_other]

theorem vlrotRots (g : Guard) (vd : BitVec 6) (va : BitVec 6) (ty : BitVec 4) (masked : BitVec 1) (sr : BitVec 6) : Statement (.vlrotRots g vd va ty masked sr) := by
  intro cx lit hwf hlit
  show build (put (put (put (put (put (put (word 0x76 g) 44 (0x01 : BitVec 8)) 70 vd) 64 va) 40 ty) 35 masked) 29 sr) lit = _
  rw [build_76 _ _ (by simp (disch := decide) only [opcode_put, opcode_word])]
  have hf : (put (put (put (put (put (put (word 0x76 g) 44 (0x01 : BitVec 8)) 70 vd) 64 va) 40 ty) 35 masked) 29 sr).extractLsb' 44 8 = 0x01 := by simp (disch := decide) only [extract_put_same, extract_put_other, fn_word]
  unfold build76; rw [hf]
  show some _ = _
  simp (disch := decide) only [guard_put, guard_word, extract_put_same, extract_put_other]

theorem vpermIdx (g : Guard) (vd : BitVec 6) (va : BitVec 6) (vb : BitVec 6) (ty : BitVec 4) (masked : BitVec 1) : Statement (.vpermIdx g vd va vb ty masked) := by
  intro cx lit hwf hlit
  show build (put (put (put (put (put (word 0x77 g) 70 vd) 64 va) 58 vb) 40 ty) 35 masked) lit = _
  rw [build_77 _ _ (by simp (disch := decide) only [opcode_put, opcode_word])]
  have hf : (put (put (put (put (put (word 0x77 g) 70 vd) 64 va) 58 vb) 40 ty) 35 masked).extractLsb' 44 8 = 0x00 := by simp (disch := decide) only [extract_put_same, extract_put_other, fn_word]
  unfold build77; rw [hf]
  show some _ = _
  simp (disch := decide) only [guard_put, guard_word, extract_put_same, extract_put_other]

theorem vpermIdx2 (g : Guard) (vd : BitVec 6) (va : BitVec 6) (vb : BitVec 6) (vc : BitVec 6) (ty : BitVec 4) (masked : BitVec 1) : Statement (.vpermIdx2 g vd va vb vc ty masked) := by
  intro cx lit hwf hlit
  show build (put (put (put (put (put (put (put (word 0x77 g) 44 (0x01 : BitVec 8)) 70 vd) 64 va) 58 vb) 52 vc) 40 ty) 35 masked) lit = _
  rw [build_77 _ _ (by simp (disch := decide) only [opcode_put, opcode_word])]
  have hf : (put (put (put (put (put (put (put (word 0x77 g) 44 (0x01 : BitVec 8)) 70 vd) 64 va) 58 vb) 52 vc) 40 ty) 35 masked).extractLsb' 44 8 = 0x01 := by simp (disch := decide) only [extract_put_same, extract_put_other, fn_word]
  unfold build77; rw [hf]
  show some _ = _
  simp (disch := decide) only [guard_put, guard_word, extract_put_same, extract_put_other]

theorem vbcastS (g : Guard) (vd : BitVec 6) (ty : BitVec 4) (masked : BitVec 1) (sr : BitVec 6) : Statement (.vbcastS g vd ty masked sr) := by
  intro cx lit hwf hlit
  show build (put (put (put (put (word 0x78 g) 70 vd) 40 ty) 35 masked) 29 sr) lit = _
  rw [build_78 _ _ (by simp (disch := decide) only [opcode_put, opcode_word])]
  have hf : (put (put (put (put (word 0x78 g) 70 vd) 40 ty) 35 masked) 29 sr).extractLsb' 44 8 = 0x00 := by simp (disch := decide) only [extract_put_same, extract_put_other, fn_word]
  unfold build78; rw [hf]
  show some _ = _
  simp (disch := decide) only [guard_put, guard_word, extract_put_same, extract_put_other]

theorem vbcastLane (g : Guard) (vd : BitVec 6) (va : BitVec 6) (ty : BitVec 4) (masked : BitVec 1) (imm : BitVec 8) : Statement (.vbcastLane g vd va ty masked imm) := by
  intro cx lit hwf hlit
  show build (put (put (put (put (put (put (word 0x78 g) 44 (0x01 : BitVec 8)) 70 vd) 64 va) 40 ty) 35 masked) 21 imm) lit = _
  rw [build_78 _ _ (by simp (disch := decide) only [opcode_put, opcode_word])]
  have hf : (put (put (put (put (put (put (word 0x78 g) 44 (0x01 : BitVec 8)) 70 vd) 64 va) 40 ty) 35 masked) 21 imm).extractLsb' 44 8 = 0x01 := by simp (disch := decide) only [extract_put_same, extract_put_other, fn_word]
  unfold build78; rw [hf]
  show some _ = _
  simp (disch := decide) only [guard_put, guard_word, extract_put_same, extract_put_other]

theorem vbcastImm (g : Guard) (vd : BitVec 6) (ty : BitVec 4) (masked : BitVec 1) (imm : BitVec 8) : Statement (.vbcastImm g vd ty masked imm) := by
  intro cx lit hwf hlit
  show build (put (put (put (put (put (word 0x78 g) 44 (0x02 : BitVec 8)) 70 vd) 40 ty) 35 masked) 21 imm) lit = _
  rw [build_78 _ _ (by simp (disch := decide) only [opcode_put, opcode_word])]
  have hf : (put (put (put (put (put (word 0x78 g) 44 (0x02 : BitVec 8)) 70 vd) 40 ty) 35 masked) 21 imm).extractLsb' 44 8 = 0x02 := by simp (disch := decide) only [extract_put_same, extract_put_other, fn_word]
  unfold build78; rw [hf]
  show some _ = _
  simp (disch := decide) only [guard_put, guard_word, extract_put_same, extract_put_other]

theorem vredAdd (g : Guard) (vd : BitVec 6) (va : BitVec 6) (ty : BitVec 4) (rm : BitVec 3) (sat : BitVec 1) (masked : BitVec 1) : Statement (.vredAdd g vd va ty rm sat masked) := by
  intro cx lit hwf hlit
  show build (put (put (put (put (put (put (word 0x79 g) 70 vd) 64 va) 40 ty) 37 rm) 36 sat) 35 masked) lit = _
  rw [build_79 _ _ (by simp (disch := decide) only [opcode_put, opcode_word])]
  have hf : (put (put (put (put (put (put (word 0x79 g) 70 vd) 64 va) 40 ty) 37 rm) 36 sat) 35 masked).extractLsb' 44 8 = 0x00 := by simp (disch := decide) only [extract_put_same, extract_put_other, fn_word]
  unfold build79; rw [hf]
  show some _ = _
  simp (disch := decide) only [guard_put, guard_word, extract_put_same, extract_put_other]

theorem vredAnd (g : Guard) (vd : BitVec 6) (va : BitVec 6) (ty : BitVec 4) (rm : BitVec 3) (sat : BitVec 1) (masked : BitVec 1) : Statement (.vredAnd g vd va ty rm sat masked) := by
  intro cx lit hwf hlit
  show build (put (put (put (put (put (put (put (word 0x79 g) 44 (0x02 : BitVec 8)) 70 vd) 64 va) 40 ty) 37 rm) 36 sat) 35 masked) lit = _
  rw [build_79 _ _ (by simp (disch := decide) only [opcode_put, opcode_word])]
  have hf : (put (put (put (put (put (put (put (word 0x79 g) 44 (0x02 : BitVec 8)) 70 vd) 64 va) 40 ty) 37 rm) 36 sat) 35 masked).extractLsb' 44 8 = 0x02 := by simp (disch := decide) only [extract_put_same, extract_put_other, fn_word]
  unfold build79; rw [hf]
  show some _ = _
  simp (disch := decide) only [guard_put, guard_word, extract_put_same, extract_put_other]

theorem vredOr (g : Guard) (vd : BitVec 6) (va : BitVec 6) (ty : BitVec 4) (rm : BitVec 3) (sat : BitVec 1) (masked : BitVec 1) : Statement (.vredOr g vd va ty rm sat masked) := by
  intro cx lit hwf hlit
  show build (put (put (put (put (put (put (put (word 0x79 g) 44 (0x03 : BitVec 8)) 70 vd) 64 va) 40 ty) 37 rm) 36 sat) 35 masked) lit = _
  rw [build_79 _ _ (by simp (disch := decide) only [opcode_put, opcode_word])]
  have hf : (put (put (put (put (put (put (put (word 0x79 g) 44 (0x03 : BitVec 8)) 70 vd) 64 va) 40 ty) 37 rm) 36 sat) 35 masked).extractLsb' 44 8 = 0x03 := by simp (disch := decide) only [extract_put_same, extract_put_other, fn_word]
  unfold build79; rw [hf]
  show some _ = _
  simp (disch := decide) only [guard_put, guard_word, extract_put_same, extract_put_other]

theorem vredXor (g : Guard) (vd : BitVec 6) (va : BitVec 6) (ty : BitVec 4) (rm : BitVec 3) (sat : BitVec 1) (masked : BitVec 1) : Statement (.vredXor g vd va ty rm sat masked) := by
  intro cx lit hwf hlit
  show build (put (put (put (put (put (put (put (word 0x79 g) 44 (0x04 : BitVec 8)) 70 vd) 64 va) 40 ty) 37 rm) 36 sat) 35 masked) lit = _
  rw [build_79 _ _ (by simp (disch := decide) only [opcode_put, opcode_word])]
  have hf : (put (put (put (put (put (put (put (word 0x79 g) 44 (0x04 : BitVec 8)) 70 vd) 64 va) 40 ty) 37 rm) 36 sat) 35 masked).extractLsb' 44 8 = 0x04 := by simp (disch := decide) only [extract_put_same, extract_put_other, fn_word]
  unfold build79; rw [hf]
  show some _ = _
  simp (disch := decide) only [guard_put, guard_word, extract_put_same, extract_put_other]

theorem vredMin (g : Guard) (vd : BitVec 6) (va : BitVec 6) (ty : BitVec 4) (rm : BitVec 3) (sat : BitVec 1) (masked : BitVec 1) : Statement (.vredMin g vd va ty rm sat masked) := by
  intro cx lit hwf hlit
  show build (put (put (put (put (put (put (put (word 0x79 g) 44 (0x0A : BitVec 8)) 70 vd) 64 va) 40 ty) 37 rm) 36 sat) 35 masked) lit = _
  rw [build_79 _ _ (by simp (disch := decide) only [opcode_put, opcode_word])]
  have hf : (put (put (put (put (put (put (put (word 0x79 g) 44 (0x0A : BitVec 8)) 70 vd) 64 va) 40 ty) 37 rm) 36 sat) 35 masked).extractLsb' 44 8 = 0x0A := by simp (disch := decide) only [extract_put_same, extract_put_other, fn_word]
  unfold build79; rw [hf]
  show some _ = _
  simp (disch := decide) only [guard_put, guard_word, extract_put_same, extract_put_other]

theorem vredMax (g : Guard) (vd : BitVec 6) (va : BitVec 6) (ty : BitVec 4) (rm : BitVec 3) (sat : BitVec 1) (masked : BitVec 1) : Statement (.vredMax g vd va ty rm sat masked) := by
  intro cx lit hwf hlit
  show build (put (put (put (put (put (put (put (word 0x79 g) 44 (0x0B : BitVec 8)) 70 vd) 64 va) 40 ty) 37 rm) 36 sat) 35 masked) lit = _
  rw [build_79 _ _ (by simp (disch := decide) only [opcode_put, opcode_word])]
  have hf : (put (put (put (put (put (put (put (word 0x79 g) 44 (0x0B : BitVec 8)) 70 vd) 64 va) 40 ty) 37 rm) 36 sat) 35 masked).extractLsb' 44 8 = 0x0B := by simp (disch := decide) only [extract_put_same, extract_put_other, fn_word]
  unfold build79; rw [hf]
  show some _ = _
  simp (disch := decide) only [guard_put, guard_word, extract_put_same, extract_put_other]

theorem vfunExp (g : Guard) (vd : BitVec 6) (va : BitVec 6) (ty : BitVec 4) (rm : BitVec 3) (sat : BitVec 1) (masked : BitVec 1) : Statement (.vfunExp g vd va ty rm sat masked) := by
  intro cx lit hwf hlit
  show build (put (put (put (put (put (put (word 0x7A g) 70 vd) 64 va) 40 ty) 37 rm) 36 sat) 35 masked) lit = _
  rw [build_7A _ _ (by simp (disch := decide) only [opcode_put, opcode_word])]
  have hf : (put (put (put (put (put (put (word 0x7A g) 70 vd) 64 va) 40 ty) 37 rm) 36 sat) 35 masked).extractLsb' 44 8 = 0x00 := by simp (disch := decide) only [extract_put_same, extract_put_other, fn_word]
  unfold build7A; rw [hf]
  show some _ = _
  simp (disch := decide) only [guard_put, guard_word, extract_put_same, extract_put_other]

theorem vfunExp2 (g : Guard) (vd : BitVec 6) (va : BitVec 6) (ty : BitVec 4) (rm : BitVec 3) (sat : BitVec 1) (masked : BitVec 1) : Statement (.vfunExp2 g vd va ty rm sat masked) := by
  intro cx lit hwf hlit
  show build (put (put (put (put (put (put (put (word 0x7A g) 44 (0x01 : BitVec 8)) 70 vd) 64 va) 40 ty) 37 rm) 36 sat) 35 masked) lit = _
  rw [build_7A _ _ (by simp (disch := decide) only [opcode_put, opcode_word])]
  have hf : (put (put (put (put (put (put (put (word 0x7A g) 44 (0x01 : BitVec 8)) 70 vd) 64 va) 40 ty) 37 rm) 36 sat) 35 masked).extractLsb' 44 8 = 0x01 := by simp (disch := decide) only [extract_put_same, extract_put_other, fn_word]
  unfold build7A; rw [hf]
  show some _ = _
  simp (disch := decide) only [guard_put, guard_word, extract_put_same, extract_put_other]

theorem vfunLog (g : Guard) (vd : BitVec 6) (va : BitVec 6) (ty : BitVec 4) (rm : BitVec 3) (sat : BitVec 1) (masked : BitVec 1) : Statement (.vfunLog g vd va ty rm sat masked) := by
  intro cx lit hwf hlit
  show build (put (put (put (put (put (put (put (word 0x7A g) 44 (0x02 : BitVec 8)) 70 vd) 64 va) 40 ty) 37 rm) 36 sat) 35 masked) lit = _
  rw [build_7A _ _ (by simp (disch := decide) only [opcode_put, opcode_word])]
  have hf : (put (put (put (put (put (put (put (word 0x7A g) 44 (0x02 : BitVec 8)) 70 vd) 64 va) 40 ty) 37 rm) 36 sat) 35 masked).extractLsb' 44 8 = 0x02 := by simp (disch := decide) only [extract_put_same, extract_put_other, fn_word]
  unfold build7A; rw [hf]
  show some _ = _
  simp (disch := decide) only [guard_put, guard_word, extract_put_same, extract_put_other]

theorem vfunLog2 (g : Guard) (vd : BitVec 6) (va : BitVec 6) (ty : BitVec 4) (rm : BitVec 3) (sat : BitVec 1) (masked : BitVec 1) : Statement (.vfunLog2 g vd va ty rm sat masked) := by
  intro cx lit hwf hlit
  show build (put (put (put (put (put (put (put (word 0x7A g) 44 (0x03 : BitVec 8)) 70 vd) 64 va) 40 ty) 37 rm) 36 sat) 35 masked) lit = _
  rw [build_7A _ _ (by simp (disch := decide) only [opcode_put, opcode_word])]
  have hf : (put (put (put (put (put (put (put (word 0x7A g) 44 (0x03 : BitVec 8)) 70 vd) 64 va) 40 ty) 37 rm) 36 sat) 35 masked).extractLsb' 44 8 = 0x03 := by simp (disch := decide) only [extract_put_same, extract_put_other, fn_word]
  unfold build7A; rw [hf]
  show some _ = _
  simp (disch := decide) only [guard_put, guard_word, extract_put_same, extract_put_other]

theorem vfunRcp (g : Guard) (vd : BitVec 6) (va : BitVec 6) (ty : BitVec 4) (rm : BitVec 3) (sat : BitVec 1) (masked : BitVec 1) : Statement (.vfunRcp g vd va ty rm sat masked) := by
  intro cx lit hwf hlit
  show build (put (put (put (put (put (put (put (word 0x7A g) 44 (0x04 : BitVec 8)) 70 vd) 64 va) 40 ty) 37 rm) 36 sat) 35 masked) lit = _
  rw [build_7A _ _ (by simp (disch := decide) only [opcode_put, opcode_word])]
  have hf : (put (put (put (put (put (put (put (word 0x7A g) 44 (0x04 : BitVec 8)) 70 vd) 64 va) 40 ty) 37 rm) 36 sat) 35 masked).extractLsb' 44 8 = 0x04 := by simp (disch := decide) only [extract_put_same, extract_put_other, fn_word]
  unfold build7A; rw [hf]
  show some _ = _
  simp (disch := decide) only [guard_put, guard_word, extract_put_same, extract_put_other]

theorem vfunSqrt (g : Guard) (vd : BitVec 6) (va : BitVec 6) (ty : BitVec 4) (rm : BitVec 3) (sat : BitVec 1) (masked : BitVec 1) : Statement (.vfunSqrt g vd va ty rm sat masked) := by
  intro cx lit hwf hlit
  show build (put (put (put (put (put (put (put (word 0x7A g) 44 (0x05 : BitVec 8)) 70 vd) 64 va) 40 ty) 37 rm) 36 sat) 35 masked) lit = _
  rw [build_7A _ _ (by simp (disch := decide) only [opcode_put, opcode_word])]
  have hf : (put (put (put (put (put (put (put (word 0x7A g) 44 (0x05 : BitVec 8)) 70 vd) 64 va) 40 ty) 37 rm) 36 sat) 35 masked).extractLsb' 44 8 = 0x05 := by simp (disch := decide) only [extract_put_same, extract_put_other, fn_word]
  unfold build7A; rw [hf]
  show some _ = _
  simp (disch := decide) only [guard_put, guard_word, extract_put_same, extract_put_other]

theorem vfunRsqrt (g : Guard) (vd : BitVec 6) (va : BitVec 6) (ty : BitVec 4) (rm : BitVec 3) (sat : BitVec 1) (masked : BitVec 1) : Statement (.vfunRsqrt g vd va ty rm sat masked) := by
  intro cx lit hwf hlit
  show build (put (put (put (put (put (put (put (word 0x7A g) 44 (0x06 : BitVec 8)) 70 vd) 64 va) 40 ty) 37 rm) 36 sat) 35 masked) lit = _
  rw [build_7A _ _ (by simp (disch := decide) only [opcode_put, opcode_word])]
  have hf : (put (put (put (put (put (put (put (word 0x7A g) 44 (0x06 : BitVec 8)) 70 vd) 64 va) 40 ty) 37 rm) 36 sat) 35 masked).extractLsb' 44 8 = 0x06 := by simp (disch := decide) only [extract_put_same, extract_put_other, fn_word]
  unfold build7A; rw [hf]
  show some _ = _
  simp (disch := decide) only [guard_put, guard_word, extract_put_same, extract_put_other]

theorem vfunTanh (g : Guard) (vd : BitVec 6) (va : BitVec 6) (ty : BitVec 4) (rm : BitVec 3) (sat : BitVec 1) (masked : BitVec 1) : Statement (.vfunTanh g vd va ty rm sat masked) := by
  intro cx lit hwf hlit
  show build (put (put (put (put (put (put (put (word 0x7A g) 44 (0x07 : BitVec 8)) 70 vd) 64 va) 40 ty) 37 rm) 36 sat) 35 masked) lit = _
  rw [build_7A _ _ (by simp (disch := decide) only [opcode_put, opcode_word])]
  have hf : (put (put (put (put (put (put (put (word 0x7A g) 44 (0x07 : BitVec 8)) 70 vd) 64 va) 40 ty) 37 rm) 36 sat) 35 masked).extractLsb' 44 8 = 0x07 := by simp (disch := decide) only [extract_put_same, extract_put_other, fn_word]
  unfold build7A; rw [hf]
  show some _ = _
  simp (disch := decide) only [guard_put, guard_word, extract_put_same, extract_put_other]

theorem vfunSigm (g : Guard) (vd : BitVec 6) (va : BitVec 6) (ty : BitVec 4) (rm : BitVec 3) (sat : BitVec 1) (masked : BitVec 1) : Statement (.vfunSigm g vd va ty rm sat masked) := by
  intro cx lit hwf hlit
  show build (put (put (put (put (put (put (put (word 0x7A g) 44 (0x08 : BitVec 8)) 70 vd) 64 va) 40 ty) 37 rm) 36 sat) 35 masked) lit = _
  rw [build_7A _ _ (by simp (disch := decide) only [opcode_put, opcode_word])]
  have hf : (put (put (put (put (put (put (put (word 0x7A g) 44 (0x08 : BitVec 8)) 70 vd) 64 va) 40 ty) 37 rm) 36 sat) 35 masked).extractLsb' 44 8 = 0x08 := by simp (disch := decide) only [extract_put_same, extract_put_other, fn_word]
  unfold build7A; rw [hf]
  show some _ = _
  simp (disch := decide) only [guard_put, guard_word, extract_put_same, extract_put_other]

theorem vtopkVal (g : Guard) (vd : BitVec 6) (va : BitVec 6) (vb : BitVec 6) (ty : BitVec 4) (masked : BitVec 1) (imm : BitVec 8) : Statement (.vtopkVal g vd va vb ty masked imm) := by
  intro cx lit hwf hlit
  show build (put (put (put (put (put (put (word 0x7B g) 70 vd) 64 va) 58 vb) 40 ty) 35 masked) 21 imm) lit = _
  rw [build_7B _ _ (by simp (disch := decide) only [opcode_put, opcode_word])]
  have hf : (put (put (put (put (put (put (word 0x7B g) 70 vd) 64 va) 58 vb) 40 ty) 35 masked) 21 imm).extractLsb' 44 8 = 0x00 := by simp (disch := decide) only [extract_put_same, extract_put_other, fn_word]
  unfold build7B; rw [hf]
  show some _ = _
  simp (disch := decide) only [guard_put, guard_word, extract_put_same, extract_put_other]

theorem vtopkIdx (g : Guard) (vd : BitVec 6) (va : BitVec 6) (vb : BitVec 6) (ty : BitVec 4) (masked : BitVec 1) (sr : BitVec 6) (imm : BitVec 8) : Statement (.vtopkIdx g vd va vb ty masked sr imm) := by
  intro cx lit hwf hlit
  show build (put (put (put (put (put (put (put (put (word 0x7B g) 44 (0x01 : BitVec 8)) 70 vd) 64 va) 58 vb) 40 ty) 35 masked) 29 sr) 21 imm) lit = _
  rw [build_7B _ _ (by simp (disch := decide) only [opcode_put, opcode_word])]
  have hf : (put (put (put (put (put (put (put (put (word 0x7B g) 44 (0x01 : BitVec 8)) 70 vd) 64 va) 58 vb) 40 ty) 35 masked) 29 sr) 21 imm).extractLsb' 44 8 = 0x01 := by simp (disch := decide) only [extract_put_same, extract_put_other, fn_word]
  unfold build7B; rw [hf]
  show some _ = _
  simp (disch := decide) only [guard_put, guard_word, extract_put_same, extract_put_other]

theorem vldMod (g : Guard) (vd : BitVec 6) (ty : BitVec 4) (masked : BitVec 1) (sr : BitVec 6) (imm : BitVec 8) : Statement (.vldMod g vd ty masked sr imm) := by
  intro cx lit hwf hlit
  show build (put (put (put (put (put (put (word 0x7C g) 44 (0x01 : BitVec 8)) 70 vd) 40 ty) 35 masked) 29 sr) 21 imm) lit = _
  rw [build_7C _ _ (by simp (disch := decide) only [opcode_put, opcode_word])]
  have hf : (put (put (put (put (put (put (word 0x7C g) 44 (0x01 : BitVec 8)) 70 vd) 40 ty) 35 masked) 29 sr) 21 imm).extractLsb' 44 8 = 0x01 := by simp (disch := decide) only [extract_put_same, extract_put_other, fn_word]
  unfold build7C; rw [hf]
  show some _ = _
  simp (disch := decide) only [guard_put, guard_word, extract_put_same, extract_put_other]

theorem vldRow (g : Guard) (vd : BitVec 6) (vb : BitVec 6) (ty : BitVec 4) (masked : BitVec 1) (sr : BitVec 6) : Statement (.vldRow g vd vb ty masked sr) := by
  intro cx lit hwf hlit
  show build (put (put (put (put (put (put (word 0x7C g) 44 (0x02 : BitVec 8)) 70 vd) 58 vb) 40 ty) 35 masked) 29 sr) lit = _
  rw [build_7C _ _ (by simp (disch := decide) only [opcode_put, opcode_word])]
  have hf : (put (put (put (put (put (put (word 0x7C g) 44 (0x02 : BitVec 8)) 70 vd) 58 vb) 40 ty) 35 masked) 29 sr).extractLsb' 44 8 = 0x02 := by simp (disch := decide) only [extract_put_same, extract_put_other, fn_word]
  unfold build7C; rw [hf]
  show some _ = _
  simp (disch := decide) only [guard_put, guard_word, extract_put_same, extract_put_other]

theorem vldStr (g : Guard) (vd : BitVec 6) (vb : BitVec 6) (vc : BitVec 6) (ty : BitVec 4) (masked : BitVec 1) (sr : BitVec 6) (imm : BitVec 8) : Statement (.vldStr g vd vb vc ty masked sr imm) := by
  intro cx lit hwf hlit
  show build (put (put (put (put (put (put (put (put (word 0x7C g) 44 (0x03 : BitVec 8)) 70 vd) 58 vb) 52 vc) 40 ty) 35 masked) 29 sr) 21 imm) lit = _
  rw [build_7C _ _ (by simp (disch := decide) only [opcode_put, opcode_word])]
  have hf : (put (put (put (put (put (put (put (put (word 0x7C g) 44 (0x03 : BitVec 8)) 70 vd) 58 vb) 52 vc) 40 ty) 35 masked) 29 sr) 21 imm).extractLsb' 44 8 = 0x03 := by simp (disch := decide) only [extract_put_same, extract_put_other, fn_word]
  unfold build7C; rw [hf]
  show some _ = _
  simp (disch := decide) only [guard_put, guard_word, extract_put_same, extract_put_other]

theorem vstMod (g : Guard) (va : BitVec 6) (ty : BitVec 4) (masked : BitVec 1) (sr : BitVec 6) (imm : BitVec 8) : Statement (.vstMod g va ty masked sr imm) := by
  intro cx lit hwf hlit
  show build (put (put (put (put (put (put (word 0x7D g) 44 (0x01 : BitVec 8)) 64 va) 40 ty) 35 masked) 29 sr) 21 imm) lit = _
  rw [build_7D _ _ (by simp (disch := decide) only [opcode_put, opcode_word])]
  have hf : (put (put (put (put (put (put (word 0x7D g) 44 (0x01 : BitVec 8)) 64 va) 40 ty) 35 masked) 29 sr) 21 imm).extractLsb' 44 8 = 0x01 := by simp (disch := decide) only [extract_put_same, extract_put_other, fn_word]
  unfold build7D; rw [hf]
  show some _ = _
  simp (disch := decide) only [guard_put, guard_word, extract_put_same, extract_put_other]

theorem vstRow (g : Guard) (va : BitVec 6) (vb : BitVec 6) (ty : BitVec 4) (masked : BitVec 1) (sr : BitVec 6) : Statement (.vstRow g va vb ty masked sr) := by
  intro cx lit hwf hlit
  show build (put (put (put (put (put (put (word 0x7D g) 44 (0x02 : BitVec 8)) 64 va) 58 vb) 40 ty) 35 masked) 29 sr) lit = _
  rw [build_7D _ _ (by simp (disch := decide) only [opcode_put, opcode_word])]
  have hf : (put (put (put (put (put (put (word 0x7D g) 44 (0x02 : BitVec 8)) 64 va) 58 vb) 40 ty) 35 masked) 29 sr).extractLsb' 44 8 = 0x02 := by simp (disch := decide) only [extract_put_same, extract_put_other, fn_word]
  unfold build7D; rw [hf]
  show some _ = _
  simp (disch := decide) only [guard_put, guard_word, extract_put_same, extract_put_other]

theorem vstStr (g : Guard) (va : BitVec 6) (vb : BitVec 6) (vc : BitVec 6) (ty : BitVec 4) (masked : BitVec 1) (sr : BitVec 6) (imm : BitVec 8) : Statement (.vstStr g va vb vc ty masked sr imm) := by
  intro cx lit hwf hlit
  show build (put (put (put (put (put (put (put (put (word 0x7D g) 44 (0x03 : BitVec 8)) 64 va) 58 vb) 52 vc) 40 ty) 35 masked) 29 sr) 21 imm) lit = _
  rw [build_7D _ _ (by simp (disch := decide) only [opcode_put, opcode_word])]
  have hf : (put (put (put (put (put (put (put (put (word 0x7D g) 44 (0x03 : BitVec 8)) 64 va) 58 vb) 52 vc) 40 ty) 35 masked) 29 sr) 21 imm).extractLsb' 44 8 = 0x03 := by simp (disch := decide) only [extract_put_same, extract_put_other, fn_word]
  unfold build7D; rw [hf]
  show some _ = _
  simp (disch := decide) only [guard_put, guard_word, extract_put_same, extract_put_other]

theorem vmovsLane (g : Guard) (va : BitVec 6) (ty : BitVec 4) (sr : BitVec 6) (imm : BitVec 8) : Statement (.vmovsLane g va ty sr imm) := by
  intro cx lit hwf hlit
  show build (put (put (put (put (word 0x7E g) 64 va) 40 ty) 29 sr) 21 imm) lit = _
  rw [build_7E _ _ (by simp (disch := decide) only [opcode_put, opcode_word])]
  have hf : (put (put (put (put (word 0x7E g) 64 va) 40 ty) 29 sr) 21 imm).extractLsb' 44 8 = 0x00 := by simp (disch := decide) only [extract_put_same, extract_put_other, fn_word]
  unfold build7E; rw [hf]
  show some _ = _
  simp (disch := decide) only [guard_put, guard_word, extract_put_same, extract_put_other]

theorem vmovsPair (g : Guard) (va : BitVec 6) (ty : BitVec 4) (sr : BitVec 6) (imm : BitVec 8) : Statement (.vmovsPair g va ty sr imm) := by
  intro cx lit hwf hlit
  show build (put (put (put (put (put (word 0x7E g) 44 (0x01 : BitVec 8)) 64 va) 40 ty) 29 sr) 21 imm) lit = _
  rw [build_7E _ _ (by simp (disch := decide) only [opcode_put, opcode_word])]
  have hf : (put (put (put (put (put (word 0x7E g) 44 (0x01 : BitVec 8)) 64 va) 40 ty) 29 sr) 21 imm).extractLsb' 44 8 = 0x01 := by simp (disch := decide) only [extract_put_same, extract_put_other, fn_word]
  unfold build7E; rw [hf]
  show some _ = _
  simp (disch := decide) only [guard_put, guard_word, extract_put_same, extract_put_other]

theorem vselBit (g : Guard) (vd : BitVec 6) (va : BitVec 6) (vb : BitVec 6) (vc : BitVec 6) (ty : BitVec 4) (masked : BitVec 1) : Statement (.vselBit g vd va vb vc ty masked) := by
  intro cx lit hwf hlit
  show build (put (put (put (put (put (put (word 0x7F g) 70 vd) 64 va) 58 vb) 52 vc) 40 ty) 35 masked) lit = _
  rw [build_7F _ _ (by simp (disch := decide) only [opcode_put, opcode_word])]
  have hf : (put (put (put (put (put (put (word 0x7F g) 70 vd) 64 va) 58 vb) 52 vc) 40 ty) 35 masked).extractLsb' 44 8 = 0x00 := by simp (disch := decide) only [extract_put_same, extract_put_other, fn_word]
  unfold build7F; rw [hf]
  show some _ = _
  simp (disch := decide) only [guard_put, guard_word, extract_put_same, extract_put_other]

theorem vselMask (g : Guard) (vd : BitVec 6) (va : BitVec 6) (vb : BitVec 6) (ty : BitVec 4) : Statement (.vselMask g vd va vb ty) := by
  intro cx lit hwf hlit
  show build (put (put (put (put (put (word 0x7F g) 44 (0x01 : BitVec 8)) 70 vd) 64 va) 58 vb) 40 ty) lit = _
  rw [build_7F _ _ (by simp (disch := decide) only [opcode_put, opcode_word])]
  have hf : (put (put (put (put (put (word 0x7F g) 44 (0x01 : BitVec 8)) 70 vd) 64 va) 58 vb) 40 ty).extractLsb' 44 8 = 0x01 := by simp (disch := decide) only [extract_put_same, extract_put_other, fn_word]
  unfold build7F; rw [hf]
  show some _ = _
  simp (disch := decide) only [guard_put, guard_word, extract_put_same, extract_put_other]

theorem mpushEq (g : Guard) (va : BitVec 6) (vb : BitVec 6) (ty : BitVec 4) : Statement (.mpushEq g va vb ty) := by
  intro cx lit hwf hlit
  show build (put (put (put (put (word 0x80 g) 44 (0x18 : BitVec 8)) 64 va) 58 vb) 40 ty) lit = _
  rw [build_80 _ _ (by simp (disch := decide) only [opcode_put, opcode_word])]
  have hf : (put (put (put (put (word 0x80 g) 44 (0x18 : BitVec 8)) 64 va) 58 vb) 40 ty).extractLsb' 44 8 = 0x18 := by simp (disch := decide) only [extract_put_same, extract_put_other, fn_word]
  unfold build80; rw [hf]
  show some _ = _
  simp (disch := decide) only [guard_put, guard_word, extract_put_same, extract_put_other]

theorem mpushNe (g : Guard) (va : BitVec 6) (vb : BitVec 6) (ty : BitVec 4) : Statement (.mpushNe g va vb ty) := by
  intro cx lit hwf hlit
  show build (put (put (put (put (word 0x80 g) 44 (0x19 : BitVec 8)) 64 va) 58 vb) 40 ty) lit = _
  rw [build_80 _ _ (by simp (disch := decide) only [opcode_put, opcode_word])]
  have hf : (put (put (put (put (word 0x80 g) 44 (0x19 : BitVec 8)) 64 va) 58 vb) 40 ty).extractLsb' 44 8 = 0x19 := by simp (disch := decide) only [extract_put_same, extract_put_other, fn_word]
  unfold build80; rw [hf]
  show some _ = _
  simp (disch := decide) only [guard_put, guard_word, extract_put_same, extract_put_other]

theorem mpushLt (g : Guard) (va : BitVec 6) (vb : BitVec 6) (ty : BitVec 4) : Statement (.mpushLt g va vb ty) := by
  intro cx lit hwf hlit
  show build (put (put (put (put (word 0x80 g) 44 (0x1A : BitVec 8)) 64 va) 58 vb) 40 ty) lit = _
  rw [build_80 _ _ (by simp (disch := decide) only [opcode_put, opcode_word])]
  have hf : (put (put (put (put (word 0x80 g) 44 (0x1A : BitVec 8)) 64 va) 58 vb) 40 ty).extractLsb' 44 8 = 0x1A := by simp (disch := decide) only [extract_put_same, extract_put_other, fn_word]
  unfold build80; rw [hf]
  show some _ = _
  simp (disch := decide) only [guard_put, guard_word, extract_put_same, extract_put_other]

theorem mpushGe (g : Guard) (va : BitVec 6) (vb : BitVec 6) (ty : BitVec 4) : Statement (.mpushGe g va vb ty) := by
  intro cx lit hwf hlit
  show build (put (put (put (put (word 0x80 g) 44 (0x1D : BitVec 8)) 64 va) 58 vb) 40 ty) lit = _
  rw [build_80 _ _ (by simp (disch := decide) only [opcode_put, opcode_word])]
  have hf : (put (put (put (put (word 0x80 g) 44 (0x1D : BitVec 8)) 64 va) 58 vb) 40 ty).extractLsb' 44 8 = 0x1D := by simp (disch := decide) only [extract_put_same, extract_put_other, fn_word]
  unfold build80; rw [hf]
  show some _ = _
  simp (disch := decide) only [guard_put, guard_word, extract_put_same, extract_put_other]

theorem minv (g : Guard) (ty : BitVec 4) : Statement (.minv g ty) := by
  intro cx lit hwf hlit
  show build (put (word 0x81 g) 40 ty) lit = _
  rw [build_81 _ _ (by simp (disch := decide) only [opcode_put, opcode_word])]
  have hf : (put (word 0x81 g) 40 ty).extractLsb' 44 8 = 0x00 := by simp (disch := decide) only [extract_put_same, extract_put_other, fn_word]
  unfold build81; rw [hf]
  show some _ = _
  simp (disch := decide) only [guard_put, guard_word, extract_put_same, extract_put_other]

theorem mpop (g : Guard) (ty : BitVec 4) : Statement (.mpop g ty) := by
  intro cx lit hwf hlit
  show build (put (word 0x82 g) 40 ty) lit = _
  rw [build_82 _ _ (by simp (disch := decide) only [opcode_put, opcode_word])]
  have hf : (put (word 0x82 g) 40 ty).extractLsb' 44 8 = 0x00 := by simp (disch := decide) only [extract_put_same, extract_put_other, fn_word]
  unfold build82; rw [hf]
  show some _ = _
  simp (disch := decide) only [guard_put, guard_word, extract_put_same, extract_put_other]

theorem mgetM (g : Guard) (vd : BitVec 6) (ty : BitVec 4) : Statement (.mgetM g vd ty) := by
  intro cx lit hwf hlit
  show build (put (put (word 0x83 g) 70 vd) 40 ty) lit = _
  rw [build_83 _ _ (by simp (disch := decide) only [opcode_put, opcode_word])]
  have hf : (put (put (word 0x83 g) 70 vd) 40 ty).extractLsb' 44 8 = 0x00 := by simp (disch := decide) only [extract_put_same, extract_put_other, fn_word]
  unfold build83; rw [hf]
  show some _ = _
  simp (disch := decide) only [guard_put, guard_word, extract_put_same, extract_put_other]

theorem mgetV (g : Guard) (vd : BitVec 6) (ty : BitVec 4) : Statement (.mgetV g vd ty) := by
  intro cx lit hwf hlit
  show build (put (put (put (word 0x83 g) 44 (0x01 : BitVec 8)) 70 vd) 40 ty) lit = _
  rw [build_83 _ _ (by simp (disch := decide) only [opcode_put, opcode_word])]
  have hf : (put (put (put (word 0x83 g) 44 (0x01 : BitVec 8)) 70 vd) 40 ty).extractLsb' 44 8 = 0x01 := by simp (disch := decide) only [extract_put_same, extract_put_other, fn_word]
  unfold build83; rw [hf]
  show some _ = _
  simp (disch := decide) only [guard_put, guard_word, extract_put_same, extract_put_other]

theorem msetM (g : Guard) (va : BitVec 6) (ty : BitVec 4) : Statement (.msetM g va ty) := by
  intro cx lit hwf hlit
  show build (put (put (word 0x84 g) 64 va) 40 ty) lit = _
  rw [build_84 _ _ (by simp (disch := decide) only [opcode_put, opcode_word])]
  have hf : (put (put (word 0x84 g) 64 va) 40 ty).extractLsb' 44 8 = 0x00 := by simp (disch := decide) only [extract_put_same, extract_put_other, fn_word]
  unfold build84; rw [hf]
  show some _ = _
  simp (disch := decide) only [guard_put, guard_word, extract_put_same, extract_put_other]

theorem msetV (g : Guard) (va : BitVec 6) (ty : BitVec 4) : Statement (.msetV g va ty) := by
  intro cx lit hwf hlit
  show build (put (put (put (word 0x84 g) 44 (0x01 : BitVec 8)) 64 va) 40 ty) lit = _
  rw [build_84 _ _ (by simp (disch := decide) only [opcode_put, opcode_word])]
  have hf : (put (put (put (word 0x84 g) 44 (0x01 : BitVec 8)) 64 va) 40 ty).extractLsb' 44 8 = 0x01 := by simp (disch := decide) only [extract_put_same, extract_put_other, fn_word]
  unfold build84; rw [hf]
  show some _ = _
  simp (disch := decide) only [guard_put, guard_word, extract_put_same, extract_put_other]

theorem vparkP (g : Guard) (va : BitVec 6) (vc : BitVec 6) (ty : BitVec 4) (imm : BitVec 8) : Statement (.vparkP g va vc ty imm) := by
  intro cx lit hwf hlit
  show build (put (put (put (put (word 0x85 g) 64 va) 52 vc) 40 ty) 21 imm) lit = _
  rw [build_85 _ _ (by simp (disch := decide) only [opcode_put, opcode_word])]
  have hf : (put (put (put (put (word 0x85 g) 64 va) 52 vc) 40 ty) 21 imm).extractLsb' 44 8 = 0x00 := by simp (disch := decide) only [extract_put_same, extract_put_other, fn_word]
  unfold build85; rw [hf]
  show some _ = _
  simp (disch := decide) only [guard_put, guard_word, extract_put_same, extract_put_other]

theorem vunparkU (g : Guard) (vd : BitVec 6) (ty : BitVec 4) : Statement (.vunparkU g vd ty) := by
  intro cx lit hwf hlit
  show build (put (put (word 0x86 g) 70 vd) 40 ty) lit = _
  rw [build_86 _ _ (by simp (disch := decide) only [opcode_put, opcode_word])]
  have hf : (put (put (word 0x86 g) 70 vd) 40 ty).extractLsb' 44 8 = 0x00 := by simp (disch := decide) only [extract_put_same, extract_put_other, fn_word]
  unfold build86; rw [hf]
  show some _ = _
  simp (disch := decide) only [guard_put, guard_word, extract_put_same, extract_put_other]

theorem astartGo (g : Guard) (d : BitVec 6) (a : BitVec 6) (imm : BitVec 48) : Statement (.astartGo g d a imm) := by
  intro cx lit hwf hlit
  show build (put (put (put (word 0x90 g) 70 d) 64 a) 8 imm) lit = _
  rw [build_90 _ _ (by simp (disch := decide) only [opcode_put, opcode_word])]
  have hf : (put (put (put (word 0x90 g) 70 d) 64 a) 8 imm).extractLsb' 56 8 = 0x00 := by simp (disch := decide) only [extract_put_same, extract_put_other, fn_word]
  unfold build90; rw [hf]
  show some _ = _
  simp (disch := decide) only [guard_put, guard_word, extract_put_same, extract_put_other]

theorem aloadW (g : Guard) (h : BitVec 5) (a : BitVec 6) (b : BitVec 6) : Statement (.aloadW g h a b) := by
  intro cx lit hwf hlit
  show build (put (put (put (word 0x91 g) 71 h) 65 a) 59 b) lit = _
  rw [build_91 _ _ (by simp (disch := decide) only [opcode_put, opcode_word])]
  have hf : (put (put (put (word 0x91 g) 71 h) 65 a) 59 b).extractLsb' 45 8 = 0x00 := by simp (disch := decide) only [extract_put_same, extract_put_other, fn_word]
  unfold build91; rw [hf]
  show some _ = _
  simp (disch := decide) only [guard_put, guard_word, extract_put_same, extract_put_other]

theorem astatRd (g : Guard) (d : BitVec 6) (a : BitVec 6) : Statement (.astatRd g d a) := by
  intro cx lit hwf hlit
  show build (put (put (word 0x92 g) 70 d) 64 a) lit = _
  rw [build_92 _ _ (by simp (disch := decide) only [opcode_put, opcode_word])]
  have hf : (put (put (word 0x92 g) 70 d) 64 a).extractLsb' 44 8 = 0x00 := by simp (disch := decide) only [extract_put_same, extract_put_other, fn_word]
  unfold build92; rw [hf]
  show some _ = _
  simp (disch := decide) only [guard_put, guard_word, extract_put_same, extract_put_other]

theorem astatWait (g : Guard) (d : BitVec 6) (a : BitVec 6) : Statement (.astatWait g d a) := by
  intro cx lit hwf hlit
  show build (put (put (put (word 0x92 g) 44 (0x01 : BitVec 8)) 70 d) 64 a) lit = _
  rw [build_92 _ _ (by simp (disch := decide) only [opcode_put, opcode_word])]
  have hf : (put (put (put (word 0x92 g) 44 (0x01 : BitVec 8)) 70 d) 64 a).extractLsb' 44 8 = 0x01 := by simp (disch := decide) only [extract_put_same, extract_put_other, fn_word]
  unfold build92; rw [hf]
  show some _ = _
  simp (disch := decide) only [guard_put, guard_word, extract_put_same, extract_put_other]

theorem pamoAdd (g : Guard) (h : BitVec 5) (a : BitVec 6) (b : BitVec 6) (scope : BitVec 3) (order : BitVec 2) (cell : BitVec 32) : Statement (.pamoAdd g h a b scope order cell) := by
  intro cx lit hwf hlit
  show build (put (put (put (put (put (put (word 0xA0 g) 71 h) 65 a) 59 b) 42 scope) 40 order) 0 cell) lit = _
  rw [build_A0 _ _ (by simp (disch := decide) only [opcode_put, opcode_word])]
  have hf : (put (put (put (put (put (put (word 0xA0 g) 71 h) 65 a) 59 b) 42 scope) 40 order) 0 cell).extractLsb' 45 8 = 0x00 := by simp (disch := decide) only [extract_put_same, extract_put_other, fn_word]
  unfold buildA0; rw [hf]
  show some _ = _
  simp (disch := decide) only [guard_put, guard_word, extract_put_same, extract_put_other]

theorem pamoMin (g : Guard) (h : BitVec 5) (a : BitVec 6) (b : BitVec 6) (scope : BitVec 3) (order : BitVec 2) (cell : BitVec 32) : Statement (.pamoMin g h a b scope order cell) := by
  intro cx lit hwf hlit
  show build (put (put (put (put (put (put (put (word 0xA0 g) 45 (0x01 : BitVec 8)) 71 h) 65 a) 59 b) 42 scope) 40 order) 0 cell) lit = _
  rw [build_A0 _ _ (by simp (disch := decide) only [opcode_put, opcode_word])]
  have hf : (put (put (put (put (put (put (put (word 0xA0 g) 45 (0x01 : BitVec 8)) 71 h) 65 a) 59 b) 42 scope) 40 order) 0 cell).extractLsb' 45 8 = 0x01 := by simp (disch := decide) only [extract_put_same, extract_put_other, fn_word]
  unfold buildA0; rw [hf]
  show some _ = _
  simp (disch := decide) only [guard_put, guard_word, extract_put_same, extract_put_other]

theorem pamoMax (g : Guard) (h : BitVec 5) (a : BitVec 6) (b : BitVec 6) (scope : BitVec 3) (order : BitVec 2) (cell : BitVec 32) : Statement (.pamoMax g h a b scope order cell) := by
  intro cx lit hwf hlit
  show build (put (put (put (put (put (put (put (word 0xA0 g) 45 (0x02 : BitVec 8)) 71 h) 65 a) 59 b) 42 scope) 40 order) 0 cell) lit = _
  rw [build_A0 _ _ (by simp (disch := decide) only [opcode_put, opcode_word])]
  have hf : (put (put (put (put (put (put (put (word 0xA0 g) 45 (0x02 : BitVec 8)) 71 h) 65 a) 59 b) 42 scope) 40 order) 0 cell).extractLsb' 45 8 = 0x02 := by simp (disch := decide) only [extract_put_same, extract_put_other, fn_word]
  unfold buildA0; rw [hf]
  show some _ = _
  simp (disch := decide) only [guard_put, guard_word, extract_put_same, extract_put_other]

theorem pamoSwap (g : Guard) (h : BitVec 5) (a : BitVec 6) (b : BitVec 6) (scope : BitVec 3) (order : BitVec 2) (cell : BitVec 32) : Statement (.pamoSwap g h a b scope order cell) := by
  intro cx lit hwf hlit
  show build (put (put (put (put (put (put (put (word 0xA0 g) 45 (0x03 : BitVec 8)) 71 h) 65 a) 59 b) 42 scope) 40 order) 0 cell) lit = _
  rw [build_A0 _ _ (by simp (disch := decide) only [opcode_put, opcode_word])]
  have hf : (put (put (put (put (put (put (put (word 0xA0 g) 45 (0x03 : BitVec 8)) 71 h) 65 a) 59 b) 42 scope) 40 order) 0 cell).extractLsb' 45 8 = 0x03 := by simp (disch := decide) only [extract_put_same, extract_put_other, fn_word]
  unfold buildA0; rw [hf]
  show some _ = _
  simp (disch := decide) only [guard_put, guard_word, extract_put_same, extract_put_other]

theorem pamoCas (g : Guard) (h : BitVec 5) (a : BitVec 6) (b : BitVec 6) (c : BitVec 6) (scope : BitVec 3) (order : BitVec 2) (cell : BitVec 32) : Statement (.pamoCas g h a b c scope order cell) := by
  intro cx lit hwf hlit
  show build (put (put (put (put (put (put (put (put (word 0xA0 g) 45 (0x04 : BitVec 8)) 71 h) 65 a) 59 b) 53 c) 42 scope) 40 order) 0 cell) lit = _
  rw [build_A0 _ _ (by simp (disch := decide) only [opcode_put, opcode_word])]
  have hf : (put (put (put (put (put (put (put (put (word 0xA0 g) 45 (0x04 : BitVec 8)) 71 h) 65 a) 59 b) 53 c) 42 scope) 40 order) 0 cell).extractLsb' 45 8 = 0x04 := by simp (disch := decide) only [extract_put_same, extract_put_other, fn_word]
  unfold buildA0; rw [hf]
  show some _ = _
  simp (disch := decide) only [guard_put, guard_word, extract_put_same, extract_put_other]

theorem pamoCas2 (g : Guard) (h : BitVec 5) (a : BitVec 6) (b : BitVec 6) (c : BitVec 6) (scope : BitVec 3) (order : BitVec 2) (cell : BitVec 32) : Statement (.pamoCas2 g h a b c scope order cell) := by
  intro cx lit hwf hlit
  show build (put (put (put (put (put (put (put (put (word 0xA0 g) 45 (0x05 : BitVec 8)) 71 h) 65 a) 59 b) 53 c) 42 scope) 40 order) 0 cell) lit = _
  rw [build_A0 _ _ (by simp (disch := decide) only [opcode_put, opcode_word])]
  have hf : (put (put (put (put (put (put (put (put (word 0xA0 g) 45 (0x05 : BitVec 8)) 71 h) 65 a) 59 b) 53 c) 42 scope) 40 order) 0 cell).extractLsb' 45 8 = 0x05 := by simp (disch := decide) only [extract_put_same, extract_put_other, fn_word]
  unfold buildA0; rw [hf]
  show some _ = _
  simp (disch := decide) only [guard_put, guard_word, extract_put_same, extract_put_other]

theorem pamoEnq (g : Guard) (h : BitVec 5) (a : BitVec 6) (b : BitVec 6) (scope : BitVec 3) (order : BitVec 2) (cell : BitVec 32) : Statement (.pamoEnq g h a b scope order cell) := by
  intro cx lit hwf hlit
  show build (put (put (put (put (put (put (put (word 0xA0 g) 45 (0x06 : BitVec 8)) 71 h) 65 a) 59 b) 42 scope) 40 order) 0 cell) lit = _
  rw [build_A0 _ _ (by simp (disch := decide) only [opcode_put, opcode_word])]
  have hf : (put (put (put (put (put (put (put (word 0xA0 g) 45 (0x06 : BitVec 8)) 71 h) 65 a) 59 b) 42 scope) 40 order) 0 cell).extractLsb' 45 8 = 0x06 := by simp (disch := decide) only [extract_put_same, extract_put_other, fn_word]
  unfold buildA0; rw [hf]
  show some _ = _
  simp (disch := decide) only [guard_put, guard_word, extract_put_same, extract_put_other]

theorem pamoChase (g : Guard) (h : BitVec 5) (a : BitVec 6) (scope : BitVec 3) (order : BitVec 2) (links : BitVec 3) (cell : BitVec 32) : Statement (.pamoChase g h a scope order links cell) := by
  intro cx lit hwf hlit
  show build (put (put (put (put (put (put (put (word 0xA0 g) 45 (0x07 : BitVec 8)) 71 h) 65 a) 42 scope) 40 order) 32 links) 0 cell) lit = _
  rw [build_A0 _ _ (by simp (disch := decide) only [opcode_put, opcode_word])]
  have hf : (put (put (put (put (put (put (put (word 0xA0 g) 45 (0x07 : BitVec 8)) 71 h) 65 a) 42 scope) 40 order) 32 links) 0 cell).extractLsb' 45 8 = 0x07 := by simp (disch := decide) only [extract_put_same, extract_put_other, fn_word]
  unfold buildA0; rw [hf]
  show some _ = _
  simp (disch := decide) only [guard_put, guard_word, extract_put_same, extract_put_other]

theorem pamoRedAdd (g : Guard) (h : BitVec 5) (b : BitVec 6) (scope : BitVec 3) (order : BitVec 2) (cell : BitVec 32) : Statement (.pamoRedAdd g h b scope order cell) := by
  intro cx lit hwf hlit
  show build (put (put (put (put (put (put (word 0xA0 g) 45 (0x08 : BitVec 8)) 71 h) 59 b) 42 scope) 40 order) 0 cell) lit = _
  rw [build_A0 _ _ (by simp (disch := decide) only [opcode_put, opcode_word])]
  have hf : (put (put (put (put (put (put (word 0xA0 g) 45 (0x08 : BitVec 8)) 71 h) 59 b) 42 scope) 40 order) 0 cell).extractLsb' 45 8 = 0x08 := by simp (disch := decide) only [extract_put_same, extract_put_other, fn_word]
  unfold buildA0; rw [hf]
  show some _ = _
  simp (disch := decide) only [guard_put, guard_word, extract_put_same, extract_put_other]

theorem pamoRedMin (g : Guard) (h : BitVec 5) (b : BitVec 6) (scope : BitVec 3) (order : BitVec 2) (cell : BitVec 32) : Statement (.pamoRedMin g h b scope order cell) := by
  intro cx lit hwf hlit
  show build (put (put (put (put (put (put (word 0xA0 g) 45 (0x09 : BitVec 8)) 71 h) 59 b) 42 scope) 40 order) 0 cell) lit = _
  rw [build_A0 _ _ (by simp (disch := decide) only [opcode_put, opcode_word])]
  have hf : (put (put (put (put (put (put (word 0xA0 g) 45 (0x09 : BitVec 8)) 71 h) 59 b) 42 scope) 40 order) 0 cell).extractLsb' 45 8 = 0x09 := by simp (disch := decide) only [extract_put_same, extract_put_other, fn_word]
  unfold buildA0; rw [hf]
  show some _ = _
  simp (disch := decide) only [guard_put, guard_word, extract_put_same, extract_put_other]

theorem pamoRedMax (g : Guard) (h : BitVec 5) (b : BitVec 6) (scope : BitVec 3) (order : BitVec 2) (cell : BitVec 32) : Statement (.pamoRedMax g h b scope order cell) := by
  intro cx lit hwf hlit
  show build (put (put (put (put (put (put (word 0xA0 g) 45 (0x0A : BitVec 8)) 71 h) 59 b) 42 scope) 40 order) 0 cell) lit = _
  rw [build_A0 _ _ (by simp (disch := decide) only [opcode_put, opcode_word])]
  have hf : (put (put (put (put (put (put (word 0xA0 g) 45 (0x0A : BitVec 8)) 71 h) 59 b) 42 scope) 40 order) 0 cell).extractLsb' 45 8 = 0x0A := by simp (disch := decide) only [extract_put_same, extract_put_other, fn_word]
  unfold buildA0; rw [hf]
  show some _ = _
  simp (disch := decide) only [guard_put, guard_word, extract_put_same, extract_put_other]

theorem pamoHxch (g : Guard) (h : BitVec 5) (scope : BitVec 3) (order : BitVec 2) (cell : BitVec 32) : Statement (.pamoHxch g h scope order cell) := by
  intro cx lit hwf hlit
  show build (put (put (put (put (put (word 0xA0 g) 45 (0x0B : BitVec 8)) 71 h) 42 scope) 40 order) 0 cell) lit = _
  rw [build_A0 _ _ (by simp (disch := decide) only [opcode_put, opcode_word])]
  have hf : (put (put (put (put (put (word 0xA0 g) 45 (0x0B : BitVec 8)) 71 h) 42 scope) 40 order) 0 cell).extractLsb' 45 8 = 0x0B := by simp (disch := decide) only [extract_put_same, extract_put_other, fn_word]
  unfold buildA0; rw [hf]
  show some _ = _
  simp (disch := decide) only [guard_put, guard_word, extract_put_same, extract_put_other]

theorem pldC (g : Guard) (h : BitVec 5) (a : BitVec 6) (scope : BitVec 3) (order : BitVec 2) (cell : BitVec 32) : Statement (.pldC g h a scope order cell) := by
  intro cx lit hwf hlit
  show build (put (put (put (put (put (word 0xA1 g) 71 h) 65 a) 42 scope) 40 order) 0 cell) lit = _
  rw [build_A1 _ _ (by simp (disch := decide) only [opcode_put, opcode_word])]
  have hf : (put (put (put (put (put (word 0xA1 g) 71 h) 65 a) 42 scope) 40 order) 0 cell).extractLsb' 45 8 = 0x00 := by simp (disch := decide) only [extract_put_same, extract_put_other, fn_word]
  unfold buildA1; rw [hf]
  show some _ = _
  simp (disch := decide) only [guard_put, guard_word, extract_put_same, extract_put_other]

theorem pstC (g : Guard) (h : BitVec 5) (b : BitVec 6) (scope : BitVec 3) (order : BitVec 2) (cell : BitVec 32) : Statement (.pstC g h b scope order cell) := by
  intro cx lit hwf hlit
  show build (put (put (put (put (put (word 0xA2 g) 71 h) 59 b) 42 scope) 40 order) 0 cell) lit = _
  rw [build_A2 _ _ (by simp (disch := decide) only [opcode_put, opcode_word])]
  have hf : (put (put (put (put (put (word 0xA2 g) 71 h) 59 b) 42 scope) 40 order) 0 cell).extractLsb' 45 8 = 0x00 := by simp (disch := decide) only [extract_put_same, extract_put_other, fn_word]
  unfold buildA2; rw [hf]
  show some _ = _
  simp (disch := decide) only [guard_put, guard_word, extract_put_same, extract_put_other]

theorem bcntP (g : Guard) (h : BitVec 5) (b : BitVec 6) (scope : BitVec 3) (order : BitVec 2) (cell : BitVec 32) : Statement (.bcntP g h b scope order cell) := by
  intro cx lit hwf hlit
  show build (put (put (put (put (put (word 0xA3 g) 71 h) 59 b) 42 scope) 40 order) 0 cell) lit = _
  rw [build_A3 _ _ (by simp (disch := decide) only [opcode_put, opcode_word])]
  have hf : (put (put (put (put (put (word 0xA3 g) 71 h) 59 b) 42 scope) 40 order) 0 cell).extractLsb' 45 8 = 0x00 := by simp (disch := decide) only [extract_put_same, extract_put_other, fn_word]
  unfold buildA3; rw [hf]
  show some _ = _
  simp (disch := decide) only [guard_put, guard_word, extract_put_same, extract_put_other]

theorem lsendH (g : Guard) (h : BitVec 5) (c : BitVec 6) (peer : BitVec 6) (relay : BitVec 6) (rot : BitVec 12) (slot : BitVec 4) (berth : BitVec 6) : Statement (.lsendH g h c peer relay rot slot berth) := by
  intro cx lit hwf hlit
  show build (put (put (put (put (put (put (put (word 0xB0 g) 71 h) 53 c) 39 peer) 33 relay) 21 rot) 17 slot) 11 berth) lit = _
  rw [build_B0 _ _ (by simp (disch := decide) only [opcode_put, opcode_word])]
  have hf : (put (put (put (put (put (put (put (word 0xB0 g) 71 h) 53 c) 39 peer) 33 relay) 21 rot) 17 slot) 11 berth).extractLsb' 45 8 = 0x00 := by simp (disch := decide) only [extract_put_same, extract_put_other, fn_word]
  unfold buildB0; rw [hf]
  show some _ = _
  simp (disch := decide) only [guard_put, guard_word, extract_put_same, extract_put_other]

theorem lsendD (g : Guard) (h : BitVec 5) (b : BitVec 6) (c : BitVec 6) (peer : BitVec 6) (relay : BitVec 6) (rot : BitVec 12) (slot : BitVec 4) (berth : BitVec 6) : Statement (.lsendD g h b c peer relay rot slot berth) := by
  intro cx lit hwf hlit
  show build (put (put (put (put (put (put (put (put (put (word 0xB0 g) 45 (0x01 : BitVec 8)) 71 h) 59 b) 53 c) 39 peer) 33 relay) 21 rot) 17 slot) 11 berth) lit = _
  rw [build_B0 _ _ (by simp (disch := decide) only [opcode_put, opcode_word])]
  have hf : (put (put (put (put (put (put (put (put (put (word 0xB0 g) 45 (0x01 : BitVec 8)) 71 h) 59 b) 53 c) 39 peer) 33 relay) 21 rot) 17 slot) 11 berth).extractLsb' 45 8 = 0x01 := by simp (disch := decide) only [extract_put_same, extract_put_other, fn_word]
  unfold buildB0; rw [hf]
  show some _ = _
  simp (disch := decide) only [guard_put, guard_word, extract_put_same, extract_put_other]

theorem lsendV (g : Guard) (b : BitVec 6) (c : BitVec 6) (peer : BitVec 6) (relay : BitVec 6) (rot : BitVec 12) (slot : BitVec 4) (berth : BitVec 6) : Statement (.lsendV g b c peer relay rot slot berth) := by
  intro cx lit hwf hlit
  show build (put (put (put (put (put (put (put (put (word 0xB0 g) 45 (0x02 : BitVec 8)) 59 b) 53 c) 39 peer) 33 relay) 21 rot) 17 slot) 11 berth) lit = _
  rw [build_B0 _ _ (by simp (disch := decide) only [opcode_put, opcode_word])]
  have hf : (put (put (put (put (put (put (put (put (word 0xB0 g) 45 (0x02 : BitVec 8)) 59 b) 53 c) 39 peer) 33 relay) 21 rot) 17 slot) 11 berth).extractLsb' 45 8 = 0x02 := by simp (disch := decide) only [extract_put_same, extract_put_other, fn_word]
  unfold buildB0; rw [hf]
  show some _ = _
  simp (disch := decide) only [guard_put, guard_word, extract_put_same, extract_put_other]

theorem lsendRld (g : Guard) (h : BitVec 5) (a : BitVec 6) (peer : BitVec 6) (relay : BitVec 6) : Statement (.lsendRld g h a peer relay) := by
  intro cx lit hwf hlit
  show build (put (put (put (put (put (word 0xB0 g) 45 (0x03 : BitVec 8)) 71 h) 65 a) 39 peer) 33 relay) lit = _
  rw [build_B0 _ _ (by simp (disch := decide) only [opcode_put, opcode_word])]
  have hf : (put (put (put (put (put (word 0xB0 g) 45 (0x03 : BitVec 8)) 71 h) 65 a) 39 peer) 33 relay).extractLsb' 45 8 = 0x03 := by simp (disch := decide) only [extract_put_same, extract_put_other, fn_word]
  unfold buildB0; rw [hf]
  show some _ = _
  simp (disch := decide) only [guard_put, guard_word, extract_put_same, extract_put_other]

theorem lsendRst (g : Guard) (h : BitVec 5) (b : BitVec 6) (peer : BitVec 6) (relay : BitVec 6) : Statement (.lsendRst g h b peer relay) := by
  intro cx lit hwf hlit
  show build (put (put (put (put (put (word 0xB0 g) 45 (0x04 : BitVec 8)) 71 h) 59 b) 39 peer) 33 relay) lit = _
  rw [build_B0 _ _ (by simp (disch := decide) only [opcode_put, opcode_word])]
  have hf : (put (put (put (put (put (word 0xB0 g) 45 (0x04 : BitVec 8)) 71 h) 59 b) 39 peer) 33 relay).extractLsb' 45 8 = 0x04 := by simp (disch := decide) only [extract_put_same, extract_put_other, fn_word]
  unfold buildB0; rw [hf]
  show some _ = _
  simp (disch := decide) only [guard_put, guard_word, extract_put_same, extract_put_other]

theorem lsendRadd (g : Guard) (h : BitVec 5) (a : BitVec 6) (b : BitVec 6) (peer : BitVec 6) (relay : BitVec 6) : Statement (.lsendRadd g h a b peer relay) := by
  intro cx lit hwf hlit
  show build (put (put (put (put (put (put (word 0xB0 g) 45 (0x05 : BitVec 8)) 71 h) 65 a) 59 b) 39 peer) 33 relay) lit = _
  rw [build_B0 _ _ (by simp (disch := decide) only [opcode_put, opcode_word])]
  have hf : (put (put (put (put (put (put (word 0xB0 g) 45 (0x05 : BitVec 8)) 71 h) 65 a) 59 b) 39 peer) 33 relay).extractLsb' 45 8 = 0x05 := by simp (disch := decide) only [extract_put_same, extract_put_other, fn_word]
  unfold buildB0; rw [hf]
  show some _ = _
  simp (disch := decide) only [guard_put, guard_word, extract_put_same, extract_put_other]

theorem lsendRcas (g : Guard) (h : BitVec 5) (a : BitVec 6) (b : BitVec 6) (c : BitVec 6) (peer : BitVec 6) (relay : BitVec 6) : Statement (.lsendRcas g h a b c peer relay) := by
  intro cx lit hwf hlit
  show build (put (put (put (put (put (put (put (word 0xB0 g) 45 (0x06 : BitVec 8)) 71 h) 65 a) 59 b) 53 c) 39 peer) 33 relay) lit = _
  rw [build_B0 _ _ (by simp (disch := decide) only [opcode_put, opcode_word])]
  have hf : (put (put (put (put (put (put (put (word 0xB0 g) 45 (0x06 : BitVec 8)) 71 h) 65 a) 59 b) 53 c) 39 peer) 33 relay).extractLsb' 45 8 = 0x06 := by simp (disch := decide) only [extract_put_same, extract_put_other, fn_word]
  unfold buildB0; rw [hf]
  show some _ = _
  simp (disch := decide) only [guard_put, guard_word, extract_put_same, extract_put_other]

theorem ltakeM (g : Guard) (h : BitVec 5) (a : BitVec 6) : Statement (.ltakeM g h a) := by
  intro cx lit hwf hlit
  show build (put (put (word 0xB1 g) 71 h) 65 a) lit = _
  rw [build_B1 _ _ (by simp (disch := decide) only [opcode_put, opcode_word])]
  have hf : (put (put (word 0xB1 g) 71 h) 65 a).extractLsb' 45 8 = 0x00 := by simp (disch := decide) only [extract_put_same, extract_put_other, fn_word]
  unfold buildB1; rw [hf]
  show some _ = _
  simp (disch := decide) only [guard_put, guard_word, extract_put_same, extract_put_other]

theorem ltakeP (g : Guard) (h : BitVec 5) (a : BitVec 6) : Statement (.ltakeP g h a) := by
  intro cx lit hwf hlit
  show build (put (put (put (word 0xB1 g) 45 (0x01 : BitVec 8)) 71 h) 65 a) lit = _
  rw [build_B1 _ _ (by simp (disch := decide) only [opcode_put, opcode_word])]
  have hf : (put (put (put (word 0xB1 g) 45 (0x01 : BitVec 8)) 71 h) 65 a).extractLsb' 45 8 = 0x01 := by simp (disch := decide) only [extract_put_same, extract_put_other, fn_word]
  unfold buildB1; rw [hf]
  show some _ = _
  simp (disch := decide) only [guard_put, guard_word, extract_put_same, extract_put_other]

theorem lcalW (g : Guard) (h : BitVec 5) (b : BitVec 6) : Statement (.lcalW g h b) := by
  intro cx lit hwf hlit
  show build (put (put (word 0xB2 g) 71 h) 59 b) lit = _
  rw [build_B2 _ _ (by simp (disch := decide) only [opcode_put, opcode_word])]
  have hf : (put (put (word 0xB2 g) 71 h) 59 b).extractLsb' 45 8 = 0x00 := by simp (disch := decide) only [extract_put_same, extract_put_other, fn_word]
  unfold buildB2; rw [hf]
  show some _ = _
  simp (disch := decide) only [guard_put, guard_word, extract_put_same, extract_put_other]

theorem lmarkD (g : Guard) (b : BitVec 6) : Statement (.lmarkD g b) := by
  intro cx lit hwf hlit
  show build (put (word 0xB3 g) 59 b) lit = _
  rw [build_B3 _ _ (by simp (disch := decide) only [opcode_put, opcode_word])]
  have hf : (put (word 0xB3 g) 59 b).extractLsb' 45 8 = 0x00 := by simp (disch := decide) only [extract_put_same, extract_put_other, fn_word]
  unfold buildB3; rw [hf]
  show some _ = _
  simp (disch := decide) only [guard_put, guard_word, extract_put_same, extract_put_other]

theorem lstatRd (g : Guard) (a : BitVec 6) (b : BitVec 6) : Statement (.lstatRd g a b) := by
  intro cx lit hwf hlit
  show build (put (put (word 0xB4 g) 65 a) 59 b) lit = _
  rw [build_B4 _ _ (by simp (disch := decide) only [opcode_put, opcode_word])]
  have hf : (put (put (word 0xB4 g) 65 a) 59 b).extractLsb' 45 8 = 0x00 := by simp (disch := decide) only [extract_put_same, extract_put_other, fn_word]
  unfold buildB4; rw [hf]
  show some _ = _
  simp (disch := decide) only [guard_put, guard_word, extract_put_same, extract_put_other]

theorem shsendT (g : Guard) (h : BitVec 5) (imm : BitVec 45) : Statement (.shsendT g h imm) := by
  intro cx lit hwf hlit
  show build (put (put (word 0xB5 g) 71 h) 0 imm) lit = _
  rw [build_B5 _ _ (by simp (disch := decide) only [opcode_put, opcode_word])]
  have hf : (put (put (word 0xB5 g) 71 h) 0 imm).extractLsb' 45 8 = 0x00 := by simp (disch := decide) only [extract_put_same, extract_put_other, fn_word]
  unfold buildB5; rw [hf]
  show some _ = _
  simp (disch := decide) only [guard_put, guard_word, extract_put_same, extract_put_other]

theorem shtakeT (g : Guard) (h : BitVec 5) (ch : BitVec 4) : Statement (.shtakeT g h ch) := by
  intro cx lit hwf hlit
  show build (put (put (word 0xB6 g) 71 h) 0 ch) lit = _
  rw [build_B6 _ _ (by simp (disch := decide) only [opcode_put, opcode_word])]
  have hf : (put (put (word 0xB6 g) 71 h) 0 ch).extractLsb' 45 8 = 0x00 := by simp (disch := decide) only [extract_put_same, extract_put_other, fn_word]
  unfold buildB6; rw [hf]
  show some _ = _
  simp (disch := decide) only [guard_put, guard_word, extract_put_same, extract_put_other]

theorem shretOpen (g : Guard) (a : BitVec 6) (ch : BitVec 4) (n : BitVec 3) (k : BitVec 4) : Statement (.shretOpen g a ch n k) := by
  intro cx lit hwf hlit
  show build (put (put (put (put (word 0xB7 g) 65 a) 0 ch) 4 n) 7 k) lit = _
  rw [build_B7 _ _ (by simp (disch := decide) only [opcode_put, opcode_word])]
  have hf : (put (put (put (put (word 0xB7 g) 65 a) 0 ch) 4 n) 7 k).extractLsb' 45 8 = 0x00 := by simp (disch := decide) only [extract_put_same, extract_put_other, fn_word]
  unfold buildB7; rw [hf]
  show some _ = _
  simp (disch := decide) only [guard_put, guard_word, extract_put_same, extract_put_other]

theorem shretT (g : Guard) (h : BitVec 5) (ch : BitVec 4) : Statement (.shretT g h ch) := by
  intro cx lit hwf hlit
  show build (put (put (put (word 0xB7 g) 45 (0x01 : BitVec 8)) 71 h) 0 ch) lit = _
  rw [build_B7 _ _ (by simp (disch := decide) only [opcode_put, opcode_word])]
  have hf : (put (put (put (word 0xB7 g) 45 (0x01 : BitVec 8)) 71 h) 0 ch).extractLsb' 45 8 = 0x01 := by simp (disch := decide) only [extract_put_same, extract_put_other, fn_word]
  unfold buildB7; rw [hf]
  show some _ = _
  simp (disch := decide) only [guard_put, guard_word, extract_put_same, extract_put_other]

theorem shretClose (g : Guard) (ch : BitVec 4) : Statement (.shretClose g ch) := by
  intro cx lit hwf hlit
  show build (put (put (word 0xB7 g) 45 (0x02 : BitVec 8)) 0 ch) lit = _
  rw [build_B7 _ _ (by simp (disch := decide) only [opcode_put, opcode_word])]
  have hf : (put (put (word 0xB7 g) 45 (0x02 : BitVec 8)) 0 ch).extractLsb' 45 8 = 0x02 := by simp (disch := decide) only [extract_put_same, extract_put_other, fn_word]
  unfold buildB7; rw [hf]
  show some _ = _
  simp (disch := decide) only [guard_put, guard_word, extract_put_same, extract_put_other]

theorem sbputR (g : Guard) (b : BitVec 6) (pipe : BitVec 1) (cls : BitVec 4) : Statement (.sbputR g b pipe cls) := by
  intro cx lit hwf hlit
  show build (put (put (put (word 0xB8 g) 59 b) 4 pipe) 0 cls) lit = _
  rw [build_B8 _ _ (by simp (disch := decide) only [opcode_put, opcode_word])]
  have hf : (put (put (put (word 0xB8 g) 59 b) 4 pipe) 0 cls).extractLsb' 45 8 = 0x00 := by simp (disch := decide) only [extract_put_same, extract_put_other, fn_word]
  unfold buildB8; rw [hf]
  show some _ = _
  simp (disch := decide) only [guard_put, guard_word, extract_put_same, extract_put_other]

theorem sbgetQ (g : Guard) (a : BitVec 6) (b : BitVec 6) : Statement (.sbgetQ g a b) := by
  intro cx lit hwf hlit
  show build (put (put (word 0xB9 g) 65 a) 59 b) lit = _
  rw [build_B9 _ _ (by simp (disch := decide) only [opcode_put, opcode_word])]
  have hf : (put (put (word 0xB9 g) 65 a) 59 b).extractLsb' 45 8 = 0x00 := by simp (disch := decide) only [extract_put_same, extract_put_other, fn_word]
  unfold buildB9; rw [hf]
  show some _ = _
  simp (disch := decide) only [guard_put, guard_word, extract_put_same, extract_put_other]

theorem sbgetX (g : Guard) (a : BitVec 6) (b : BitVec 6) : Statement (.sbgetX g a b) := by
  intro cx lit hwf hlit
  show build (put (put (put (word 0xB9 g) 45 (0x01 : BitVec 8)) 65 a) 59 b) lit = _
  rw [build_B9 _ _ (by simp (disch := decide) only [opcode_put, opcode_word])]
  have hf : (put (put (put (word 0xB9 g) 45 (0x01 : BitVec 8)) 65 a) 59 b).extractLsb' 45 8 = 0x01 := by simp (disch := decide) only [extract_put_same, extract_put_other, fn_word]
  unfold buildB9; rw [hf]
  show some _ = _
  simp (disch := decide) only [guard_put, guard_word, extract_put_same, extract_put_other]

theorem sbtblW (g : Guard) (b : BitVec 6) (l : Word96) : Statement (.sbtblW g b l) := by
  intro cx lit hwf hlit
  obtain rfl : l = lit := hlit.elim (fun h => nomatch h) Option.some.inj
  show build (put (word 0xBA g) 59 b) l = _
  rw [build_BA _ _ (by simp (disch := decide) only [opcode_put, opcode_word])]
  have hf : (put (word 0xBA g) 59 b).extractLsb' 45 8 = 0x00 := by simp (disch := decide) only [extract_put_same, extract_put_other, fn_word]
  unfold buildBA; rw [hf]
  show some _ = _
  simp (disch := decide) only [guard_put, guard_word, extract_put_same, extract_put_other]

theorem sbcommitG (g : Guard) (b : BitVec 6) : Statement (.sbcommitG g b) := by
  intro cx lit hwf hlit
  show build (put (word 0xBB g) 59 b) lit = _
  rw [build_BB _ _ (by simp (disch := decide) only [opcode_put, opcode_word])]
  have hf : (put (word 0xBB g) 59 b).extractLsb' 45 8 = 0x00 := by simp (disch := decide) only [extract_put_same, extract_put_other, fn_word]
  unfold buildBB; rw [hf]
  show some _ = _
  simp (disch := decide) only [guard_put, guard_word, extract_put_same, extract_put_other]

theorem sbstatRd (g : Guard) (a : BitVec 6) (b : BitVec 6) : Statement (.sbstatRd g a b) := by
  intro cx lit hwf hlit
  show build (put (put (word 0xBC g) 65 a) 59 b) lit = _
  rw [build_BC _ _ (by simp (disch := decide) only [opcode_put, opcode_word])]
  have hf : (put (put (word 0xBC g) 65 a) 59 b).extractLsb' 45 8 = 0x00 := by simp (disch := decide) only [extract_put_same, extract_put_other, fn_word]
  unfold buildBC; rw [hf]
  show some _ = _
  simp (disch := decide) only [guard_put, guard_word, extract_put_same, extract_put_other]

theorem sbstatMark (g : Guard) (b : BitVec 6) : Statement (.sbstatMark g b) := by
  intro cx lit hwf hlit
  show build (put (put (word 0xBC g) 45 (0x01 : BitVec 8)) 59 b) lit = _
  rw [build_BC _ _ (by simp (disch := decide) only [opcode_put, opcode_word])]
  have hf : (put (put (word 0xBC g) 45 (0x01 : BitVec 8)) 59 b).extractLsb' 45 8 = 0x01 := by simp (disch := decide) only [extract_put_same, extract_put_other, fn_word]
  unfold buildBC; rw [hf]
  show some _ = _
  simp (disch := decide) only [guard_put, guard_word, extract_put_same, extract_put_other]

theorem microEnd : Statement (.microEnd) := by
  show buildMicro (microWord 0x00) = _
  have hc : (microWord 0x00).extractLsb' 58 6 = 0x00 := by simp (disch := decide) only [extract_put64_same, extract_put64_other, code_word]
  unfold buildMicro; rw [hc]
  rfl

theorem microQk (q : BitVec 4) (k : BitVec 4) (col : BitVec 9) (dim : BitVec 7) (fmt : BitVec 4) : Statement (.microQk q k col dim fmt) := by
  show buildMicro (put64 (put64 (put64 (put64 (put64 (microWord 0x01) 54 q) 50 k) 41 col) 34 dim) 30 fmt) = _
  have hc : (put64 (put64 (put64 (put64 (put64 (microWord 0x01) 54 q) 50 k) 41 col) 34 dim) 30 fmt).extractLsb' 58 6 = 0x01 := by simp (disch := decide) only [extract_put64_same, extract_put64_other, code_word]
  unfold buildMicro; rw [hc]
  show some _ = _
  simp (disch := decide) only [extract_put64_same, extract_put64_other]

theorem microSmax (col : BitVec 9) : Statement (.microSmax col) := by
  show buildMicro (put64 (microWord 0x02) 49 col) = _
  have hc : (put64 (microWord 0x02) 49 col).extractLsb' 58 6 = 0x02 := by simp (disch := decide) only [extract_put64_same, extract_put64_other, code_word]
  unfold buildMicro; rw [hc]
  show some _ = _
  simp (disch := decide) only [extract_put64_same, extract_put64_other]

theorem microExpp (p : BitVec 4) (col : BitVec 9) (pf : BitVec 2) : Statement (.microExpp p col pf) := by
  show buildMicro (put64 (put64 (put64 (microWord 0x03) 54 p) 45 col) 43 pf) = _
  have hc : (put64 (put64 (put64 (microWord 0x03) 54 p) 45 col) 43 pf).extractLsb' 58 6 = 0x03 := by simp (disch := decide) only [extract_put64_same, extract_put64_other, code_word]
  unfold buildMicro; rw [hc]
  show some _ = _
  simp (disch := decide) only [extract_put64_same, extract_put64_other]

theorem microDen : Statement (.microDen) := by
  show buildMicro (microWord 0x04) = _
  have hc : (microWord 0x04).extractLsb' 58 6 = 0x04 := by simp (disch := decide) only [extract_put64_same, extract_put64_other, code_word]
  unfold buildMicro; rw [hc]
  rfl

theorem microResc (col : BitVec 9) (dim : BitVec 7) : Statement (.microResc col dim) := by
  show buildMicro (put64 (put64 (microWord 0x05) 49 col) 42 dim) = _
  have hc : (put64 (put64 (microWord 0x05) 49 col) 42 dim).extractLsb' 58 6 = 0x05 := by simp (disch := decide) only [extract_put64_same, extract_put64_other, code_word]
  unfold buildMicro; rw [hc]
  show some _ = _
  simp (disch := decide) only [extract_put64_same, extract_put64_other]

theorem microPv (p : BitVec 4) (v : BitVec 4) (col : BitVec 9) (dim : BitVec 7) (fmt : BitVec 4) : Statement (.microPv p v col dim fmt) := by
  show buildMicro (put64 (put64 (put64 (put64 (put64 (microWord 0x06) 54 p) 50 v) 41 col) 34 dim) 30 fmt) = _
  have hc : (put64 (put64 (put64 (put64 (put64 (microWord 0x06) 54 p) 50 v) 41 col) 34 dim) 30 fmt).extractLsb' 58 6 = 0x06 := by simp (disch := decide) only [extract_put64_same, extract_put64_other, code_word]
  unfold buildMicro; rw [hc]
  show some _ = _
  simp (disch := decide) only [extract_put64_same, extract_put64_other]

theorem microWalk : Statement (.microWalk) := by
  show buildMicro (microWord 0x07) = _
  have hc : (microWord 0x07).extractLsb' 58 6 = 0x07 := by simp (disch := decide) only [extract_put64_same, extract_put64_other, code_word]
  unfold buildMicro; rw [hc]
  rfl

theorem microGath (k : BitVec 4) (v : BitVec 4) : Statement (.microGath k v) := by
  show buildMicro (put64 (put64 (microWord 0x08) 54 k) 50 v) = _
  have hc : (put64 (put64 (microWord 0x08) 54 k) 50 v).extractLsb' 58 6 = 0x08 := by simp (disch := decide) only [extract_put64_same, extract_put64_other, code_word]
  unfold buildMicro; rw [hc]
  show some _ = _
  simp (disch := decide) only [extract_put64_same, extract_put64_other]

theorem microNorm (col : BitVec 9) (dim : BitVec 7) (of : BitVec 2) (row : BitVec 7) : Statement (.microNorm col dim of row) := by
  show buildMicro (put64 (put64 (put64 (put64 (microWord 0x09) 49 col) 42 dim) 40 of) 33 row) = _
  have hc : (put64 (put64 (put64 (put64 (microWord 0x09) 49 col) 42 dim) 40 of) 33 row).extractLsb' 58 6 = 0x09 := by simp (disch := decide) only [extract_put64_same, extract_put64_other, code_word]
  unfold buildMicro; rw [hc]
  show some _ = _
  simp (disch := decide) only [extract_put64_same, extract_put64_other]

theorem microLoop (k : BitVec 2) (fromAp : BitVec 1) (ap : BitVec 4) (n : BitVec 24) : Statement (.microLoop k fromAp ap n) := by
  show buildMicro (put64 (put64 (put64 (put64 (microWord 0x0A) 56 k) 55 fromAp) 51 ap) 0 n) = _
  have hc : (put64 (put64 (put64 (put64 (microWord 0x0A) 56 k) 55 fromAp) 51 ap) 0 n).extractLsb' 58 6 = 0x0A := by simp (disch := decide) only [extract_put64_same, extract_put64_other, code_word]
  unfold buildMicro; rw [hc]
  show some _ = _
  simp (disch := decide) only [extract_put64_same, extract_put64_other]

theorem microBnz (k : BitVec 2) (mode : BitVec 2) (target : BitVec 12) : Statement (.microBnz k mode target) := by
  show buildMicro (put64 (put64 (put64 (microWord 0x0B) 56 k) 54 mode) 42 target) = _
  have hc : (put64 (put64 (put64 (microWord 0x0B) 56 k) 54 mode) 42 target).extractLsb' 58 6 = 0x0B := by simp (disch := decide) only [extract_put64_same, extract_put64_other, code_word]
  unfold buildMicro; rw [hc]
  show some _ = _
  simp (disch := decide) only [extract_put64_same, extract_put64_other]

theorem microJmp (target : BitVec 12) : Statement (.microJmp target) := by
  show buildMicro (put64 (microWord 0x0C) 46 target) = _
  have hc : (put64 (microWord 0x0C) 46 target).extractLsb' 58 6 = 0x0C := by simp (disch := decide) only [extract_put64_same, extract_put64_other, code_word]
  unfold buildMicro; rw [hc]
  show some _ = _
  simp (disch := decide) only [extract_put64_same, extract_put64_other]

theorem microSig (t : BitVec 5) : Statement (.microSig t) := by
  show buildMicro (put64 (microWord 0x0D) 53 t) = _
  have hc : (put64 (microWord 0x0D) 53 t).extractLsb' 58 6 = 0x0D := by simp (disch := decide) only [extract_put64_same, extract_put64_other, code_word]
  unfold buildMicro; rw [hc]
  show some _ = _
  simp (disch := decide) only [extract_put64_same, extract_put64_other]

theorem microWaitt (t : BitVec 5) : Statement (.microWaitt t) := by
  show buildMicro (put64 (microWord 0x0E) 53 t) = _
  have hc : (put64 (microWord 0x0E) 53 t).extractLsb' 58 6 = 0x0E := by simp (disch := decide) only [extract_put64_same, extract_put64_other, code_word]
  unfold buildMicro; rw [hc]
  show some _ = _
  simp (disch := decide) only [extract_put64_same, extract_put64_other]

theorem microSetp (ap : BitVec 4) (mode : BitVec 2) (imm : BitVec 48) : Statement (.microSetp ap mode imm) := by
  show buildMicro (put64 (put64 (put64 (microWord 0x0F) 54 ap) 52 mode) 0 imm) = _
  have hc : (put64 (put64 (put64 (microWord 0x0F) 54 ap) 52 mode) 0 imm).extractLsb' 58 6 = 0x0F := by simp (disch := decide) only [extract_put64_same, extract_put64_other, code_word]
  unfold buildMicro; rw [hc]
  show some _ = _
  simp (disch := decide) only [extract_put64_same, extract_put64_other]

theorem attentionEntryStart (core : Nat) : Statement (.attentionEntryStart core) := rfl

theorem shadowBankWrite (core : Nat) : Statement (.shadowBankWrite core) := rfl

theorem recordIngress (core : Nat) (pipe : BitVec 1) : Statement (.recordIngress core pipe) := rfl

theorem recordPass (id : Nat) : Statement (.recordPass id) := rfl

theorem launchPacket : Statement (.launchPacket) := rfl

theorem doorbell (vf : BitVec 5) (value : BitVec 64) : Statement (.doorbell vf value) := rfl

theorem queueBaseWrite (vf : BitVec 5) (value : BitVec 64) : Statement (.queueBaseWrite vf value) := rfl

theorem hostNotification (vf : BitVec 5) (value : BitVec 64) : Statement (.hostNotification vf value) := rfl

theorem resume (vf : BitVec 5) (value : BitVec 64) : Statement (.resume vf value) := rfl

theorem coresOffered (part : BitVec 5) : Statement (.coresOffered part) := rfl

theorem carComplete (consist : Nat) : Statement (.carComplete consist) := rfl

theorem partitionDescriptorWrite (part : BitVec 5) (value : BitVec 64) : Statement (.partitionDescriptorWrite part value) := rfl

theorem serviceWindowEnd : Statement (.serviceWindowEnd) := rfl

theorem scrubComplete (core : Nat) : Statement (.scrubComplete core) := rfl

theorem holdRelease (consist : Nat) : Statement (.holdRelease consist) := rfl

theorem holdLimit (consist : Nat) : Statement (.holdLimit consist) := rfl

theorem refreshWindowOpen : Statement (.refreshWindowOpen) := rfl

theorem refreshWindowClose : Statement (.refreshWindowClose) := rfl

theorem engineEntryComplete (core : Nat) (queue : BitVec 3) : Statement (.engineEntryComplete core queue) := rfl

theorem porterOperation (porter : BitVec 10) : Statement (.porterOperation porter) := rfl

theorem waitvPoll (core : Nat) : Statement (.waitvPoll core) := rfl

theorem barrierArrival (porter : BitVec 10) : Statement (.barrierArrival porter) := rfl

theorem weightReturn (id : Nat) : Statement (.weightReturn id) := rfl

theorem extension (id : Nat) : Statement (.extension id) := rfl

theorem uniquenessQuery (id : Nat) : Statement (.uniquenessQuery id) := rfl

theorem sealRecord (id : Nat) : Statement (.sealRecord id) := rfl

theorem conversionToBlank (id : Nat) : Statement (.conversionToBlank id) := rfl

theorem allocRequest (id : Nat) : Statement (.allocRequest id) := rfl

theorem storageFreed (key : Nat) : Statement (.storageFreed key) := rfl

theorem checkFailure (addr : Nat) (secondPasses : Bool) (die : Nat) (unit : BitVec 8) : Statement (.checkFailure addr secondPasses die unit) := rfl

theorem shadowWalkComplete (core : Nat) : Statement (.shadowWalkComplete core) := rfl

theorem majorFaultSave (consist : Nat) : Statement (.majorFaultSave consist) := rfl

theorem contextRestore (part : BitVec 5) (train : BitVec 15) (car : BitVec 32) : Statement (.contextRestore part train car) := rfl

theorem timerCompare (core : Nat) : Statement (.timerCompare core) := rfl

theorem interruptTaken (consist : Nat) : Statement (.interruptTaken consist) := rfl

theorem abortTimer (consist : Nat) : Statement (.abortTimer consist) := rfl

theorem revive (consist : Nat) : Statement (.revive consist) := rfl

theorem haltResume (consist : Nat) : Statement (.haltResume consist) := rfl

theorem invalidationRequest (part : BitVec 5) (va : BitVec 64) (log2 : Nat) : Statement (.invalidationRequest part va log2) := rfl

theorem invalidationAck (die : Nat) : Statement (.invalidationAck die) := rfl

theorem pageMigration (old : Nat) (new : Nat) (log2 : Nat) : Statement (.pageMigration old new log2) := rfl

theorem migrationLineCopy : Statement (.migrationLineCopy) := rfl

theorem dieResetRequest (die : Nat) : Statement (.dieResetRequest die) := rfl

theorem resetAssert (die : Nat) : Statement (.resetAssert die) := rfl

theorem dieResetRelease (die : Nat) : Statement (.dieResetRelease die) := rfl

theorem frequencyRequest (point : BitVec 2) : Statement (.frequencyRequest point) := rfl

theorem frequencyStallStart : Statement (.frequencyStallStart) := rfl

theorem frequencyStallEnd : Statement (.frequencyStallEnd) := rfl

theorem retimeRelease (consist : Nat) : Statement (.retimeRelease consist) := rfl

theorem retimeSlipFault (consist : Nat) : Statement (.retimeSlipFault consist) := rfl

theorem sstepDrainPoint (core : Nat) : Statement (.sstepDrainPoint core) := rfl

theorem markComplete (core : Nat) (id : Nat) : Statement (.markComplete core id) := rfl

theorem kvQueueDrain (stack : Nat) : Statement (.kvQueueDrain stack) := rfl

theorem tabletArrival (core : Nat) (ch : BitVec 4) : Statement (.tabletArrival core ch) := rfl

theorem shuttleDelivery (core : Nat) : Statement (.shuttleDelivery core) := rfl

theorem slotOccurrence (checks : BitVec 8) : Statement (.slotOccurrence checks) := rfl

theorem lateReturn (id : Nat) : Statement (.lateReturn id) := rfl

theorem messageArrival (m : Message) : Statement (.messageArrival m) := rfl

theorem serviceItemArrival (peer : BitVec 6) (seq : Nat) (item : ServiceItem) (cumAck : Nat) (arrCredits : Nat) (relayCredits : Nat) : Statement (.serviceItemArrival peer seq item cumAck arrCredits relayCredits) := rfl

theorem remoteOperation (op : RemoteReq) : Statement (.remoteOperation op) := rfl

theorem freezeNotice (peer : BitVec 6) (seq : Nat) (n : Notice) : Statement (.freezeNotice peer seq n) := rfl

theorem peerUnreachable (peer : BitVec 6) (accepted : Option Nat) : Statement (.peerUnreachable peer accepted) := rfl

theorem sequenceExchangeTimeout (peer : BitVec 6) : Statement (.sequenceExchangeTimeout peer) := rfl

theorem drainMarker (peer : BitVec 6) (seq : Nat) : Statement (.drainMarker peer seq) := rfl

theorem calendarDark : Statement (.calendarDark) := rfl

theorem calendarTakeover (relocked : BitVec 8) : Statement (.calendarTakeover relocked) := rfl

theorem berthTableWrite (index : BitVec 13) (value : BitVec 16) : Statement (.berthTableWrite index value) := rfl

theorem grantChange (part : BitVec 5) (grant : GrantSet) : Statement (.grantChange part grant) := rfl

theorem registerWrite (reg : RegName) (value : BitVec 64) : Statement (.registerWrite reg value) := rfl

theorem loadOverlay (part : BitVec 5) (number : BitVec 16) (image : OverlayImage) : Statement (.loadOverlay part number image) := rfl

theorem unloadOverlay (part : BitVec 5) (number : BitVec 16) : Statement (.unloadOverlay part number) := rfl

theorem powerOn (image : BootImage) : Statement (.powerOn image) := rfl

theorem imageAccept : Statement (.imageAccept) := rfl

theorem bootRetry (image : BootImage) : Statement (.bootRetry image) := rfl

theorem measurementExtend (mr : BitVec 3) (digest : BitVec 512) : Statement (.measurementExtend mr digest) := rfl

theorem quote (nonce : BitVec 512) : Statement (.quote nonce) := rfl

theorem powerState (die : Nat) (state : BitVec 2) : Statement (.powerState die state) := rfl

theorem temperatureSample (temps : List (Nat × Int)) : Statement (.temperatureSample temps) := rfl

theorem slipStall (die : Nat) (lag : Nat) : Statement (.slipStall die lag) := rfl

theorem managementInterrupt (core : Nat) : Statement (.managementInterrupt core) := rfl

theorem poisonedStorageRelease (key : Nat) : Statement (.poisonedStorageRelease key) := rfl

theorem haltAbort (consist : Nat) : Statement (.haltAbort consist) := rfl

theorem illegalWord (sub : BitVec 8) : Statement (.illegalWord sub) := rfl

theorem hostPagingCopyResume (part : BitVec 5) : Statement (.hostPagingCopyResume part) := rfl

end RoundTrip

end Sys2Proof.Laws
end

