-- ==== Sys2Proof/Laws/Decoding.lean ====
section
/-! SUPPORT. What decoding answers: the instruction that a word's opcode and fn build, its guard as it stands in the word, its literal the
word after it. The round trip of the encoder, constructor by constructor, is the family RoundTrip of Laws/PerInstr.lean. -/
set_option linter.unusedTactic false
set_option linter.unreachableTactic false
namespace Sys2Proof.Laws
open Sys2Proof Sys2Proof.Machine

theorem facts_build00 (w lit : Word96) (i : Instr) (h : build00 w lit = some i) :
    guardField i = some (guardOf w) ∧ (literalOf i = none ∨ literalOf i = some lit) := by
  unfold build00 at h
  repeat' split at h
  all_goals first
    | (cases h; done)
    | (cases h; exact ⟨rfl, .inl rfl⟩)
    | (cases h; exact ⟨rfl, .inr rfl⟩)

theorem facts_build01 (w lit : Word96) (i : Instr) (h : build01 w lit = some i) :
    guardField i = some (guardOf w) ∧ (literalOf i = none ∨ literalOf i = some lit) := by
  unfold build01 at h
  repeat' split at h
  all_goals first
    | (cases h; done)
    | (cases h; exact ⟨rfl, .inl rfl⟩)
    | (cases h; exact ⟨rfl, .inr rfl⟩)

theorem facts_build02 (w lit : Word96) (i : Instr) (h : build02 w lit = some i) :
    guardField i = some (guardOf w) ∧ (literalOf i = none ∨ literalOf i = some lit) := by
  unfold build02 at h
  repeat' split at h
  all_goals first
    | (cases h; done)
    | (cases h; exact ⟨rfl, .inl rfl⟩)
    | (cases h; exact ⟨rfl, .inr rfl⟩)

theorem facts_build03 (w lit : Word96) (i : Instr) (h : build03 w lit = some i) :
    guardField i = some (guardOf w) ∧ (literalOf i = none ∨ literalOf i = some lit) := by
  unfold build03 at h
  repeat' split at h
  all_goals first
    | (cases h; done)
    | (cases h; exact ⟨rfl, .inl rfl⟩)
    | (cases h; exact ⟨rfl, .inr rfl⟩)

theorem facts_build04 (w lit : Word96) (i : Instr) (h : build04 w lit = some i) :
    guardField i = some (guardOf w) ∧ (literalOf i = none ∨ literalOf i = some lit) := by
  unfold build04 at h
  repeat' split at h
  all_goals first
    | (cases h; done)
    | (cases h; exact ⟨rfl, .inl rfl⟩)
    | (cases h; exact ⟨rfl, .inr rfl⟩)

theorem facts_build05 (w lit : Word96) (i : Instr) (h : build05 w lit = some i) :
    guardField i = some (guardOf w) ∧ (literalOf i = none ∨ literalOf i = some lit) := by
  unfold build05 at h
  repeat' split at h
  all_goals first
    | (cases h; done)
    | (cases h; exact ⟨rfl, .inl rfl⟩)
    | (cases h; exact ⟨rfl, .inr rfl⟩)

theorem facts_build06 (w lit : Word96) (i : Instr) (h : build06 w lit = some i) :
    guardField i = some (guardOf w) ∧ (literalOf i = none ∨ literalOf i = some lit) := by
  unfold build06 at h
  repeat' split at h
  all_goals first
    | (cases h; done)
    | (cases h; exact ⟨rfl, .inl rfl⟩)
    | (cases h; exact ⟨rfl, .inr rfl⟩)

theorem facts_build07 (w lit : Word96) (i : Instr) (h : build07 w lit = some i) :
    guardField i = some (guardOf w) ∧ (literalOf i = none ∨ literalOf i = some lit) := by
  unfold build07 at h
  repeat' split at h
  all_goals first
    | (cases h; done)
    | (cases h; exact ⟨rfl, .inl rfl⟩)
    | (cases h; exact ⟨rfl, .inr rfl⟩)

theorem facts_build08 (w lit : Word96) (i : Instr) (h : build08 w lit = some i) :
    guardField i = some (guardOf w) ∧ (literalOf i = none ∨ literalOf i = some lit) := by
  unfold build08 at h
  repeat' split at h
  all_goals first
    | (cases h; done)
    | (cases h; exact ⟨rfl, .inl rfl⟩)
    | (cases h; exact ⟨rfl, .inr rfl⟩)

theorem facts_build09 (w lit : Word96) (i : Instr) (h : build09 w lit = some i) :
    guardField i = some (guardOf w) ∧ (literalOf i = none ∨ literalOf i = some lit) := by
  unfold build09 at h
  repeat' split at h
  all_goals first
    | (cases h; done)
    | (cases h; exact ⟨rfl, .inl rfl⟩)
    | (cases h; exact ⟨rfl, .inr rfl⟩)

theorem facts_build10 (w lit : Word96) (i : Instr) (h : build10 w lit = some i) :
    guardField i = some (guardOf w) ∧ (literalOf i = none ∨ literalOf i = some lit) := by
  unfold build10 at h
  repeat' split at h
  all_goals first
    | (cases h; done)
    | (cases h; exact ⟨rfl, .inl rfl⟩)
    | (cases h; exact ⟨rfl, .inr rfl⟩)

theorem facts_build11 (w lit : Word96) (i : Instr) (h : build11 w lit = some i) :
    guardField i = some (guardOf w) ∧ (literalOf i = none ∨ literalOf i = some lit) := by
  unfold build11 at h
  repeat' split at h
  all_goals first
    | (cases h; done)
    | (cases h; exact ⟨rfl, .inl rfl⟩)
    | (cases h; exact ⟨rfl, .inr rfl⟩)

theorem facts_build12 (w lit : Word96) (i : Instr) (h : build12 w lit = some i) :
    guardField i = some (guardOf w) ∧ (literalOf i = none ∨ literalOf i = some lit) := by
  unfold build12 at h
  repeat' split at h
  all_goals first
    | (cases h; done)
    | (cases h; exact ⟨rfl, .inl rfl⟩)
    | (cases h; exact ⟨rfl, .inr rfl⟩)

theorem facts_build13 (w lit : Word96) (i : Instr) (h : build13 w lit = some i) :
    guardField i = some (guardOf w) ∧ (literalOf i = none ∨ literalOf i = some lit) := by
  unfold build13 at h
  repeat' split at h
  all_goals first
    | (cases h; done)
    | (cases h; exact ⟨rfl, .inl rfl⟩)
    | (cases h; exact ⟨rfl, .inr rfl⟩)

theorem facts_build14 (w lit : Word96) (i : Instr) (h : build14 w lit = some i) :
    guardField i = some (guardOf w) ∧ (literalOf i = none ∨ literalOf i = some lit) := by
  unfold build14 at h
  repeat' split at h
  all_goals first
    | (cases h; done)
    | (cases h; exact ⟨rfl, .inl rfl⟩)
    | (cases h; exact ⟨rfl, .inr rfl⟩)

theorem facts_build15 (w lit : Word96) (i : Instr) (h : build15 w lit = some i) :
    guardField i = some (guardOf w) ∧ (literalOf i = none ∨ literalOf i = some lit) := by
  unfold build15 at h
  repeat' split at h
  all_goals first
    | (cases h; done)
    | (cases h; exact ⟨rfl, .inl rfl⟩)
    | (cases h; exact ⟨rfl, .inr rfl⟩)

theorem facts_build16 (w lit : Word96) (i : Instr) (h : build16 w lit = some i) :
    guardField i = some (guardOf w) ∧ (literalOf i = none ∨ literalOf i = some lit) := by
  unfold build16 at h
  repeat' split at h
  all_goals first
    | (cases h; done)
    | (cases h; exact ⟨rfl, .inl rfl⟩)
    | (cases h; exact ⟨rfl, .inr rfl⟩)

theorem facts_build17 (w lit : Word96) (i : Instr) (h : build17 w lit = some i) :
    guardField i = some (guardOf w) ∧ (literalOf i = none ∨ literalOf i = some lit) := by
  unfold build17 at h
  repeat' split at h
  all_goals first
    | (cases h; done)
    | (cases h; exact ⟨rfl, .inl rfl⟩)
    | (cases h; exact ⟨rfl, .inr rfl⟩)

theorem facts_build18 (w lit : Word96) (i : Instr) (h : build18 w lit = some i) :
    guardField i = some (guardOf w) ∧ (literalOf i = none ∨ literalOf i = some lit) := by
  unfold build18 at h
  repeat' split at h
  all_goals first
    | (cases h; done)
    | (cases h; exact ⟨rfl, .inl rfl⟩)
    | (cases h; exact ⟨rfl, .inr rfl⟩)

theorem facts_build19 (w lit : Word96) (i : Instr) (h : build19 w lit = some i) :
    guardField i = some (guardOf w) ∧ (literalOf i = none ∨ literalOf i = some lit) := by
  unfold build19 at h
  repeat' split at h
  all_goals first
    | (cases h; done)
    | (cases h; exact ⟨rfl, .inl rfl⟩)
    | (cases h; exact ⟨rfl, .inr rfl⟩)

theorem facts_build20 (w lit : Word96) (i : Instr) (h : build20 w lit = some i) :
    guardField i = some (guardOf w) ∧ (literalOf i = none ∨ literalOf i = some lit) := by
  unfold build20 at h
  repeat' split at h
  all_goals first
    | (cases h; done)
    | (cases h; exact ⟨rfl, .inl rfl⟩)
    | (cases h; exact ⟨rfl, .inr rfl⟩)

theorem facts_build21 (w lit : Word96) (i : Instr) (h : build21 w lit = some i) :
    guardField i = some (guardOf w) ∧ (literalOf i = none ∨ literalOf i = some lit) := by
  unfold build21 at h
  repeat' split at h
  all_goals first
    | (cases h; done)
    | (cases h; exact ⟨rfl, .inl rfl⟩)
    | (cases h; exact ⟨rfl, .inr rfl⟩)

theorem facts_build22 (w lit : Word96) (i : Instr) (h : build22 w lit = some i) :
    guardField i = some (guardOf w) ∧ (literalOf i = none ∨ literalOf i = some lit) := by
  unfold build22 at h
  repeat' split at h
  all_goals first
    | (cases h; done)
    | (cases h; exact ⟨rfl, .inl rfl⟩)
    | (cases h; exact ⟨rfl, .inr rfl⟩)

theorem facts_build23 (w lit : Word96) (i : Instr) (h : build23 w lit = some i) :
    guardField i = some (guardOf w) ∧ (literalOf i = none ∨ literalOf i = some lit) := by
  unfold build23 at h
  repeat' split at h
  all_goals first
    | (cases h; done)
    | (cases h; exact ⟨rfl, .inl rfl⟩)
    | (cases h; exact ⟨rfl, .inr rfl⟩)

theorem facts_build24 (w lit : Word96) (i : Instr) (h : build24 w lit = some i) :
    guardField i = some (guardOf w) ∧ (literalOf i = none ∨ literalOf i = some lit) := by
  unfold build24 at h
  repeat' split at h
  all_goals first
    | (cases h; done)
    | (cases h; exact ⟨rfl, .inl rfl⟩)
    | (cases h; exact ⟨rfl, .inr rfl⟩)

theorem facts_build25 (w lit : Word96) (i : Instr) (h : build25 w lit = some i) :
    guardField i = some (guardOf w) ∧ (literalOf i = none ∨ literalOf i = some lit) := by
  unfold build25 at h
  repeat' split at h
  all_goals first
    | (cases h; done)
    | (cases h; exact ⟨rfl, .inl rfl⟩)
    | (cases h; exact ⟨rfl, .inr rfl⟩)

theorem facts_build26 (w lit : Word96) (i : Instr) (h : build26 w lit = some i) :
    guardField i = some (guardOf w) ∧ (literalOf i = none ∨ literalOf i = some lit) := by
  unfold build26 at h
  repeat' split at h
  all_goals first
    | (cases h; done)
    | (cases h; exact ⟨rfl, .inl rfl⟩)
    | (cases h; exact ⟨rfl, .inr rfl⟩)

theorem facts_build27 (w lit : Word96) (i : Instr) (h : build27 w lit = some i) :
    guardField i = some (guardOf w) ∧ (literalOf i = none ∨ literalOf i = some lit) := by
  unfold build27 at h
  repeat' split at h
  all_goals first
    | (cases h; done)
    | (cases h; exact ⟨rfl, .inl rfl⟩)
    | (cases h; exact ⟨rfl, .inr rfl⟩)

theorem facts_build30 (w lit : Word96) (i : Instr) (h : build30 w lit = some i) :
    guardField i = some (guardOf w) ∧ (literalOf i = none ∨ literalOf i = some lit) := by
  unfold build30 at h
  repeat' split at h
  all_goals first
    | (cases h; done)
    | (cases h; exact ⟨rfl, .inl rfl⟩)
    | (cases h; exact ⟨rfl, .inr rfl⟩)

theorem facts_build31 (w lit : Word96) (i : Instr) (h : build31 w lit = some i) :
    guardField i = some (guardOf w) ∧ (literalOf i = none ∨ literalOf i = some lit) := by
  unfold build31 at h
  repeat' split at h
  all_goals first
    | (cases h; done)
    | (cases h; exact ⟨rfl, .inl rfl⟩)
    | (cases h; exact ⟨rfl, .inr rfl⟩)

theorem facts_build32 (w lit : Word96) (i : Instr) (h : build32 w lit = some i) :
    guardField i = some (guardOf w) ∧ (literalOf i = none ∨ literalOf i = some lit) := by
  unfold build32 at h
  repeat' split at h
  all_goals first
    | (cases h; done)
    | (cases h; exact ⟨rfl, .inl rfl⟩)
    | (cases h; exact ⟨rfl, .inr rfl⟩)

theorem facts_build33 (w lit : Word96) (i : Instr) (h : build33 w lit = some i) :
    guardField i = some (guardOf w) ∧ (literalOf i = none ∨ literalOf i = some lit) := by
  unfold build33 at h
  repeat' split at h
  all_goals first
    | (cases h; done)
    | (cases h; exact ⟨rfl, .inl rfl⟩)
    | (cases h; exact ⟨rfl, .inr rfl⟩)

theorem facts_build34 (w lit : Word96) (i : Instr) (h : build34 w lit = some i) :
    guardField i = some (guardOf w) ∧ (literalOf i = none ∨ literalOf i = some lit) := by
  unfold build34 at h
  repeat' split at h
  all_goals first
    | (cases h; done)
    | (cases h; exact ⟨rfl, .inl rfl⟩)
    | (cases h; exact ⟨rfl, .inr rfl⟩)

theorem facts_build35 (w lit : Word96) (i : Instr) (h : build35 w lit = some i) :
    guardField i = some (guardOf w) ∧ (literalOf i = none ∨ literalOf i = some lit) := by
  unfold build35 at h
  repeat' split at h
  all_goals first
    | (cases h; done)
    | (cases h; exact ⟨rfl, .inl rfl⟩)
    | (cases h; exact ⟨rfl, .inr rfl⟩)

theorem facts_build36 (w lit : Word96) (i : Instr) (h : build36 w lit = some i) :
    guardField i = some (guardOf w) ∧ (literalOf i = none ∨ literalOf i = some lit) := by
  unfold build36 at h
  repeat' split at h
  all_goals first
    | (cases h; done)
    | (cases h; exact ⟨rfl, .inl rfl⟩)
    | (cases h; exact ⟨rfl, .inr rfl⟩)

theorem facts_build37 (w lit : Word96) (i : Instr) (h : build37 w lit = some i) :
    guardField i = some (guardOf w) ∧ (literalOf i = none ∨ literalOf i = some lit) := by
  unfold build37 at h
  repeat' split at h
  all_goals first
    | (cases h; done)
    | (cases h; exact ⟨rfl, .inl rfl⟩)
    | (cases h; exact ⟨rfl, .inr rfl⟩)

theorem facts_build40 (w lit : Word96) (i : Instr) (h : build40 w lit = some i) :
    guardField i = some (guardOf w) ∧ (literalOf i = none ∨ literalOf i = some lit) := by
  unfold build40 at h
  repeat' split at h
  all_goals first
    | (cases h; done)
    | (cases h; exact ⟨rfl, .inl rfl⟩)
    | (cases h; exact ⟨rfl, .inr rfl⟩)

theorem facts_build41 (w lit : Word96) (i : Instr) (h : build41 w lit = some i) :
    guardField i = some (guardOf w) ∧ (literalOf i = none ∨ literalOf i = some lit) := by
  unfold build41 at h
  repeat' split at h
  all_goals first
    | (cases h; done)
    | (cases h; exact ⟨rfl, .inl rfl⟩)
    | (cases h; exact ⟨rfl, .inr rfl⟩)

theorem facts_build42 (w lit : Word96) (i : Instr) (h : build42 w lit = some i) :
    guardField i = some (guardOf w) ∧ (literalOf i = none ∨ literalOf i = some lit) := by
  unfold build42 at h
  repeat' split at h
  all_goals first
    | (cases h; done)
    | (cases h; exact ⟨rfl, .inl rfl⟩)
    | (cases h; exact ⟨rfl, .inr rfl⟩)

theorem facts_build43 (w lit : Word96) (i : Instr) (h : build43 w lit = some i) :
    guardField i = some (guardOf w) ∧ (literalOf i = none ∨ literalOf i = some lit) := by
  unfold build43 at h
  repeat' split at h
  all_goals first
    | (cases h; done)
    | (cases h; exact ⟨rfl, .inl rfl⟩)
    | (cases h; exact ⟨rfl, .inr rfl⟩)

theorem facts_build44 (w lit : Word96) (i : Instr) (h : build44 w lit = some i) :
    guardField i = some (guardOf w) ∧ (literalOf i = none ∨ literalOf i = some lit) := by
  unfold build44 at h
  repeat' split at h
  all_goals first
    | (cases h; done)
    | (cases h; exact ⟨rfl, .inl rfl⟩)
    | (cases h; exact ⟨rfl, .inr rfl⟩)

theorem facts_build45 (w lit : Word96) (i : Instr) (h : build45 w lit = some i) :
    guardField i = some (guardOf w) ∧ (literalOf i = none ∨ literalOf i = some lit) := by
  unfold build45 at h
  repeat' split at h
  all_goals first
    | (cases h; done)
    | (cases h; exact ⟨rfl, .inl rfl⟩)
    | (cases h; exact ⟨rfl, .inr rfl⟩)

theorem facts_build46 (w lit : Word96) (i : Instr) (h : build46 w lit = some i) :
    guardField i = some (guardOf w) ∧ (literalOf i = none ∨ literalOf i = some lit) := by
  unfold build46 at h
  repeat' split at h
  all_goals first
    | (cases h; done)
    | (cases h; exact ⟨rfl, .inl rfl⟩)
    | (cases h; exact ⟨rfl, .inr rfl⟩)

theorem facts_build47 (w lit : Word96) (i : Instr) (h : build47 w lit = some i) :
    guardField i = some (guardOf w) ∧ (literalOf i = none ∨ literalOf i = some lit) := by
  unfold build47 at h
  repeat' split at h
  all_goals first
    | (cases h; done)
    | (cases h; exact ⟨rfl, .inl rfl⟩)
    | (cases h; exact ⟨rfl, .inr rfl⟩)

theorem facts_build48 (w lit : Word96) (i : Instr) (h : build48 w lit = some i) :
    guardField i = some (guardOf w) ∧ (literalOf i = none ∨ literalOf i = some lit) := by
  unfold build48 at h
  repeat' split at h
  all_goals first
    | (cases h; done)
    | (cases h; exact ⟨rfl, .inl rfl⟩)
    | (cases h; exact ⟨rfl, .inr rfl⟩)

theorem facts_build49 (w lit : Word96) (i : Instr) (h : build49 w lit = some i) :
    guardField i = some (guardOf w) ∧ (literalOf i = none ∨ literalOf i = some lit) := by
  unfold build49 at h
  repeat' split at h
  all_goals first
    | (cases h; done)
    | (cases h; exact ⟨rfl, .inl rfl⟩)
    | (cases h; exact ⟨rfl, .inr rfl⟩)

theorem facts_build4A (w lit : Word96) (i : Instr) (h : build4A w lit = some i) :
    guardField i = some (guardOf w) ∧ (literalOf i = none ∨ literalOf i = some lit) := by
  unfold build4A at h
  repeat' split at h
  all_goals first
    | (cases h; done)
    | (cases h; exact ⟨rfl, .inl rfl⟩)
    | (cases h; exact ⟨rfl, .inr rfl⟩)

theorem facts_build4B (w lit : Word96) (i : Instr) (h : build4B w lit = some i) :
    guardField i = some (guardOf w) ∧ (literalOf i = none ∨ literalOf i = some lit) := by
  unfold build4B at h
  repeat' split at h
  all_goals first
    | (cases h; done)
    | (cases h; exact ⟨rfl, .inl rfl⟩)
    | (cases h; exact ⟨rfl, .inr rfl⟩)

theorem facts_build4C (w lit : Word96) (i : Instr) (h : build4C w lit = some i) :
    guardField i = some (guardOf w) ∧ (literalOf i = none ∨ literalOf i = some lit) := by
  unfold build4C at h
  repeat' split at h
  all_goals first
    | (cases h; done)
    | (cases h; exact ⟨rfl, .inl rfl⟩)
    | (cases h; exact ⟨rfl, .inr rfl⟩)

theorem facts_build50 (w lit : Word96) (i : Instr) (h : build50 w lit = some i) :
    guardField i = some (guardOf w) ∧ (literalOf i = none ∨ literalOf i = some lit) := by
  unfold build50 at h
  repeat' split at h
  all_goals first
    | (cases h; done)
    | (cases h; exact ⟨rfl, .inl rfl⟩)
    | (cases h; exact ⟨rfl, .inr rfl⟩)

theorem facts_build51 (w lit : Word96) (i : Instr) (h : build51 w lit = some i) :
    guardField i = some (guardOf w) ∧ (literalOf i = none ∨ literalOf i = some lit) := by
  unfold build51 at h
  repeat' split at h
  all_goals first
    | (cases h; done)
    | (cases h; exact ⟨rfl, .inl rfl⟩)
    | (cases h; exact ⟨rfl, .inr rfl⟩)

theorem facts_build52 (w lit : Word96) (i : Instr) (h : build52 w lit = some i) :
    guardField i = some (guardOf w) ∧ (literalOf i = none ∨ literalOf i = some lit) := by
  unfold build52 at h
  repeat' split at h
  all_goals first
    | (cases h; done)
    | (cases h; exact ⟨rfl, .inl rfl⟩)
    | (cases h; exact ⟨rfl, .inr rfl⟩)

theorem facts_build53 (w lit : Word96) (i : Instr) (h : build53 w lit = some i) :
    guardField i = some (guardOf w) ∧ (literalOf i = none ∨ literalOf i = some lit) := by
  unfold build53 at h
  repeat' split at h
  all_goals first
    | (cases h; done)
    | (cases h; exact ⟨rfl, .inl rfl⟩)
    | (cases h; exact ⟨rfl, .inr rfl⟩)

theorem facts_build54 (w lit : Word96) (i : Instr) (h : build54 w lit = some i) :
    guardField i = some (guardOf w) ∧ (literalOf i = none ∨ literalOf i = some lit) := by
  unfold build54 at h
  repeat' split at h
  all_goals first
    | (cases h; done)
    | (cases h; exact ⟨rfl, .inl rfl⟩)
    | (cases h; exact ⟨rfl, .inr rfl⟩)

theorem facts_build55 (w lit : Word96) (i : Instr) (h : build55 w lit = some i) :
    guardField i = some (guardOf w) ∧ (literalOf i = none ∨ literalOf i = some lit) := by
  unfold build55 at h
  repeat' split at h
  all_goals first
    | (cases h; done)
    | (cases h; exact ⟨rfl, .inl rfl⟩)
    | (cases h; exact ⟨rfl, .inr rfl⟩)

theorem facts_build56 (w lit : Word96) (i : Instr) (h : build56 w lit = some i) :
    guardField i = some (guardOf w) ∧ (literalOf i = none ∨ literalOf i = some lit) := by
  unfold build56 at h
  repeat' split at h
  all_goals first
    | (cases h; done)
    | (cases h; exact ⟨rfl, .inl rfl⟩)
    | (cases h; exact ⟨rfl, .inr rfl⟩)

theorem facts_build57 (w lit : Word96) (i : Instr) (h : build57 w lit = some i) :
    guardField i = some (guardOf w) ∧ (literalOf i = none ∨ literalOf i = some lit) := by
  unfold build57 at h
  repeat' split at h
  all_goals first
    | (cases h; done)
    | (cases h; exact ⟨rfl, .inl rfl⟩)
    | (cases h; exact ⟨rfl, .inr rfl⟩)

theorem facts_build58 (w lit : Word96) (i : Instr) (h : build58 w lit = some i) :
    guardField i = some (guardOf w) ∧ (literalOf i = none ∨ literalOf i = some lit) := by
  unfold build58 at h
  repeat' split at h
  all_goals first
    | (cases h; done)
    | (cases h; exact ⟨rfl, .inl rfl⟩)
    | (cases h; exact ⟨rfl, .inr rfl⟩)

theorem facts_build60 (w lit : Word96) (i : Instr) (h : build60 w lit = some i) :
    guardField i = some (guardOf w) ∧ (literalOf i = none ∨ literalOf i = some lit) := by
  unfold build60 at h
  repeat' split at h
  all_goals first
    | (cases h; done)
    | (cases h; exact ⟨rfl, .inl rfl⟩)
    | (cases h; exact ⟨rfl, .inr rfl⟩)

theorem facts_build61 (w lit : Word96) (i : Instr) (h : build61 w lit = some i) :
    guardField i = some (guardOf w) ∧ (literalOf i = none ∨ literalOf i = some lit) := by
  unfold build61 at h
  repeat' split at h
  all_goals first
    | (cases h; done)
    | (cases h; exact ⟨rfl, .inl rfl⟩)
    | (cases h; exact ⟨rfl, .inr rfl⟩)

theorem facts_build62 (w lit : Word96) (i : Instr) (h : build62 w lit = some i) :
    guardField i = some (guardOf w) ∧ (literalOf i = none ∨ literalOf i = some lit) := by
  unfold build62 at h
  repeat' split at h
  all_goals first
    | (cases h; done)
    | (cases h; exact ⟨rfl, .inl rfl⟩)
    | (cases h; exact ⟨rfl, .inr rfl⟩)

theorem facts_build63 (w lit : Word96) (i : Instr) (h : build63 w lit = some i) :
    guardField i = some (guardOf w) ∧ (literalOf i = none ∨ literalOf i = some lit) := by
  unfold build63 at h
  repeat' split at h
  all_goals first
    | (cases h; done)
    | (cases h; exact ⟨rfl, .inl rfl⟩)
    | (cases h; exact ⟨rfl, .inr rfl⟩)

theorem facts_build64 (w lit : Word96) (i : Instr) (h : build64 w lit = some i) :
    guardField i = some (guardOf w) ∧ (literalOf i = none ∨ literalOf i = some lit) := by
  unfold build64 at h
  repeat' split at h
  all_goals first
    | (cases h; done)
    | (cases h; exact ⟨rfl, .inl rfl⟩)
    | (cases h; exact ⟨rfl, .inr rfl⟩)

theorem facts_build70 (w lit : Word96) (i : Instr) (h : build70 w lit = some i) :
    guardField i = some (guardOf w) ∧ (literalOf i = none ∨ literalOf i = some lit) := by
  unfold build70 at h
  repeat' split at h
  all_goals first
    | (cases h; done)
    | (cases h; exact ⟨rfl, .inl rfl⟩)
    | (cases h; exact ⟨rfl, .inr rfl⟩)

theorem facts_build71 (w lit : Word96) (i : Instr) (h : build71 w lit = some i) :
    guardField i = some (guardOf w) ∧ (literalOf i = none ∨ literalOf i = some lit) := by
  unfold build71 at h
  repeat' split at h
  all_goals first
    | (cases h; done)
    | (cases h; exact ⟨rfl, .inl rfl⟩)
    | (cases h; exact ⟨rfl, .inr rfl⟩)

theorem facts_build72 (w lit : Word96) (i : Instr) (h : build72 w lit = some i) :
    guardField i = some (guardOf w) ∧ (literalOf i = none ∨ literalOf i = some lit) := by
  unfold build72 at h
  repeat' split at h
  all_goals first
    | (cases h; done)
    | (cases h; exact ⟨rfl, .inl rfl⟩)
    | (cases h; exact ⟨rfl, .inr rfl⟩)

theorem facts_build73 (w lit : Word96) (i : Instr) (h : build73 w lit = some i) :
    guardField i = some (guardOf w) ∧ (literalOf i = none ∨ literalOf i = some lit) := by
  unfold build73 at h
  repeat' split at h
  all_goals first
    | (cases h; done)
    | (cases h; exact ⟨rfl, .inl rfl⟩)
    | (cases h; exact ⟨rfl, .inr rfl⟩)

theorem facts_build74 (w lit : Word96) (i : Instr) (h : build74 w lit = some i) :
    guardField i = some (guardOf w) ∧ (literalOf i = none ∨ literalOf i = some lit) := by
  unfold build74 at h
  repeat' split at h
  all_goals first
    | (cases h; done)
    | (cases h; exact ⟨rfl, .inl rfl⟩)
    | (cases h; exact ⟨rfl, .inr rfl⟩)

theorem facts_build75 (w lit : Word96) (i : Instr) (h : build75 w lit = some i) :
    guardField i = some (guardOf w) ∧ (literalOf i = none ∨ literalOf i = some lit) := by
  unfold build75 at h
  repeat' split at h
  all_goals first
    | (cases h; done)
    | (cases h; exact ⟨rfl, .inl rfl⟩)
    | (cases h; exact ⟨rfl, .inr rfl⟩)

theorem facts_build76 (w lit : Word96) (i : Instr) (h : build76 w lit = some i) :
    guardField i = some (guardOf w) ∧ (literalOf i = none ∨ literalOf i = some lit) := by
  unfold build76 at h
  repeat' split at h
  all_goals first
    | (cases h; done)
    | (cases h; exact ⟨rfl, .inl rfl⟩)
    | (cases h; exact ⟨rfl, .inr rfl⟩)

theorem facts_build77 (w lit : Word96) (i : Instr) (h : build77 w lit = some i) :
    guardField i = some (guardOf w) ∧ (literalOf i = none ∨ literalOf i = some lit) := by
  unfold build77 at h
  repeat' split at h
  all_goals first
    | (cases h; done)
    | (cases h; exact ⟨rfl, .inl rfl⟩)
    | (cases h; exact ⟨rfl, .inr rfl⟩)

theorem facts_build78 (w lit : Word96) (i : Instr) (h : build78 w lit = some i) :
    guardField i = some (guardOf w) ∧ (literalOf i = none ∨ literalOf i = some lit) := by
  unfold build78 at h
  repeat' split at h
  all_goals first
    | (cases h; done)
    | (cases h; exact ⟨rfl, .inl rfl⟩)
    | (cases h; exact ⟨rfl, .inr rfl⟩)

theorem facts_build79 (w lit : Word96) (i : Instr) (h : build79 w lit = some i) :
    guardField i = some (guardOf w) ∧ (literalOf i = none ∨ literalOf i = some lit) := by
  unfold build79 at h
  repeat' split at h
  all_goals first
    | (cases h; done)
    | (cases h; exact ⟨rfl, .inl rfl⟩)
    | (cases h; exact ⟨rfl, .inr rfl⟩)

theorem facts_build7A (w lit : Word96) (i : Instr) (h : build7A w lit = some i) :
    guardField i = some (guardOf w) ∧ (literalOf i = none ∨ literalOf i = some lit) := by
  unfold build7A at h
  repeat' split at h
  all_goals first
    | (cases h; done)
    | (cases h; exact ⟨rfl, .inl rfl⟩)
    | (cases h; exact ⟨rfl, .inr rfl⟩)

theorem facts_build7B (w lit : Word96) (i : Instr) (h : build7B w lit = some i) :
    guardField i = some (guardOf w) ∧ (literalOf i = none ∨ literalOf i = some lit) := by
  unfold build7B at h
  repeat' split at h
  all_goals first
    | (cases h; done)
    | (cases h; exact ⟨rfl, .inl rfl⟩)
    | (cases h; exact ⟨rfl, .inr rfl⟩)

theorem facts_build7C (w lit : Word96) (i : Instr) (h : build7C w lit = some i) :
    guardField i = some (guardOf w) ∧ (literalOf i = none ∨ literalOf i = some lit) := by
  unfold build7C at h
  repeat' split at h
  all_goals first
    | (cases h; done)
    | (cases h; exact ⟨rfl, .inl rfl⟩)
    | (cases h; exact ⟨rfl, .inr rfl⟩)

theorem facts_build7D (w lit : Word96) (i : Instr) (h : build7D w lit = some i) :
    guardField i = some (guardOf w) ∧ (literalOf i = none ∨ literalOf i = some lit) := by
  unfold build7D at h
  repeat' split at h
  all_goals first
    | (cases h; done)
    | (cases h; exact ⟨rfl, .inl rfl⟩)
    | (cases h; exact ⟨rfl, .inr rfl⟩)

theorem facts_build7E (w lit : Word96) (i : Instr) (h : build7E w lit = some i) :
    guardField i = some (guardOf w) ∧ (literalOf i = none ∨ literalOf i = some lit) := by
  unfold build7E at h
  repeat' split at h
  all_goals first
    | (cases h; done)
    | (cases h; exact ⟨rfl, .inl rfl⟩)
    | (cases h; exact ⟨rfl, .inr rfl⟩)

theorem facts_build7F (w lit : Word96) (i : Instr) (h : build7F w lit = some i) :
    guardField i = some (guardOf w) ∧ (literalOf i = none ∨ literalOf i = some lit) := by
  unfold build7F at h
  repeat' split at h
  all_goals first
    | (cases h; done)
    | (cases h; exact ⟨rfl, .inl rfl⟩)
    | (cases h; exact ⟨rfl, .inr rfl⟩)

theorem facts_build80 (w lit : Word96) (i : Instr) (h : build80 w lit = some i) :
    guardField i = some (guardOf w) ∧ (literalOf i = none ∨ literalOf i = some lit) := by
  unfold build80 at h
  repeat' split at h
  all_goals first
    | (cases h; done)
    | (cases h; exact ⟨rfl, .inl rfl⟩)
    | (cases h; exact ⟨rfl, .inr rfl⟩)

theorem facts_build81 (w lit : Word96) (i : Instr) (h : build81 w lit = some i) :
    guardField i = some (guardOf w) ∧ (literalOf i = none ∨ literalOf i = some lit) := by
  unfold build81 at h
  repeat' split at h
  all_goals first
    | (cases h; done)
    | (cases h; exact ⟨rfl, .inl rfl⟩)
    | (cases h; exact ⟨rfl, .inr rfl⟩)

theorem facts_build82 (w lit : Word96) (i : Instr) (h : build82 w lit = some i) :
    guardField i = some (guardOf w) ∧ (literalOf i = none ∨ literalOf i = some lit) := by
  unfold build82 at h
  repeat' split at h
  all_goals first
    | (cases h; done)
    | (cases h; exact ⟨rfl, .inl rfl⟩)
    | (cases h; exact ⟨rfl, .inr rfl⟩)

theorem facts_build83 (w lit : Word96) (i : Instr) (h : build83 w lit = some i) :
    guardField i = some (guardOf w) ∧ (literalOf i = none ∨ literalOf i = some lit) := by
  unfold build83 at h
  repeat' split at h
  all_goals first
    | (cases h; done)
    | (cases h; exact ⟨rfl, .inl rfl⟩)
    | (cases h; exact ⟨rfl, .inr rfl⟩)

theorem facts_build84 (w lit : Word96) (i : Instr) (h : build84 w lit = some i) :
    guardField i = some (guardOf w) ∧ (literalOf i = none ∨ literalOf i = some lit) := by
  unfold build84 at h
  repeat' split at h
  all_goals first
    | (cases h; done)
    | (cases h; exact ⟨rfl, .inl rfl⟩)
    | (cases h; exact ⟨rfl, .inr rfl⟩)

theorem facts_build85 (w lit : Word96) (i : Instr) (h : build85 w lit = some i) :
    guardField i = some (guardOf w) ∧ (literalOf i = none ∨ literalOf i = some lit) := by
  unfold build85 at h
  repeat' split at h
  all_goals first
    | (cases h; done)
    | (cases h; exact ⟨rfl, .inl rfl⟩)
    | (cases h; exact ⟨rfl, .inr rfl⟩)

theorem facts_build86 (w lit : Word96) (i : Instr) (h : build86 w lit = some i) :
    guardField i = some (guardOf w) ∧ (literalOf i = none ∨ literalOf i = some lit) := by
  unfold build86 at h
  repeat' split at h
  all_goals first
    | (cases h; done)
    | (cases h; exact ⟨rfl, .inl rfl⟩)
    | (cases h; exact ⟨rfl, .inr rfl⟩)

theorem facts_build90 (w lit : Word96) (i : Instr) (h : build90 w lit = some i) :
    guardField i = some (guardOf w) ∧ (literalOf i = none ∨ literalOf i = some lit) := by
  unfold build90 at h
  repeat' split at h
  all_goals first
    | (cases h; done)
    | (cases h; exact ⟨rfl, .inl rfl⟩)
    | (cases h; exact ⟨rfl, .inr rfl⟩)

theorem facts_build91 (w lit : Word96) (i : Instr) (h : build91 w lit = some i) :
    guardField i = some (guardOf w) ∧ (literalOf i = none ∨ literalOf i = some lit) := by
  unfold build91 at h
  repeat' split at h
  all_goals first
    | (cases h; done)
    | (cases h; exact ⟨rfl, .inl rfl⟩)
    | (cases h; exact ⟨rfl, .inr rfl⟩)

theorem facts_build92 (w lit : Word96) (i : Instr) (h : build92 w lit = some i) :
    guardField i = some (guardOf w) ∧ (literalOf i = none ∨ literalOf i = some lit) := by
  unfold build92 at h
  repeat' split at h
  all_goals first
    | (cases h; done)
    | (cases h; exact ⟨rfl, .inl rfl⟩)
    | (cases h; exact ⟨rfl, .inr rfl⟩)

theorem facts_buildA0 (w lit : Word96) (i : Instr) (h : buildA0 w lit = some i) :
    guardField i = some (guardOf w) ∧ (literalOf i = none ∨ literalOf i = some lit) := by
  unfold buildA0 at h
  repeat' split at h
  all_goals first
    | (cases h; done)
    | (cases h; exact ⟨rfl, .inl rfl⟩)
    | (cases h; exact ⟨rfl, .inr rfl⟩)

theorem facts_buildA1 (w lit : Word96) (i : Instr) (h : buildA1 w lit = some i) :
    guardField i = some (guardOf w) ∧ (literalOf i = none ∨ literalOf i = some lit) := by
  unfold buildA1 at h
  repeat' split at h
  all_goals first
    | (cases h; done)
    | (cases h; exact ⟨rfl, .inl rfl⟩)
    | (cases h; exact ⟨rfl, .inr rfl⟩)

theorem facts_buildA2 (w lit : Word96) (i : Instr) (h : buildA2 w lit = some i) :
    guardField i = some (guardOf w) ∧ (literalOf i = none ∨ literalOf i = some lit) := by
  unfold buildA2 at h
  repeat' split at h
  all_goals first
    | (cases h; done)
    | (cases h; exact ⟨rfl, .inl rfl⟩)
    | (cases h; exact ⟨rfl, .inr rfl⟩)

theorem facts_buildA3 (w lit : Word96) (i : Instr) (h : buildA3 w lit = some i) :
    guardField i = some (guardOf w) ∧ (literalOf i = none ∨ literalOf i = some lit) := by
  unfold buildA3 at h
  repeat' split at h
  all_goals first
    | (cases h; done)
    | (cases h; exact ⟨rfl, .inl rfl⟩)
    | (cases h; exact ⟨rfl, .inr rfl⟩)

theorem facts_buildB0 (w lit : Word96) (i : Instr) (h : buildB0 w lit = some i) :
    guardField i = some (guardOf w) ∧ (literalOf i = none ∨ literalOf i = some lit) := by
  unfold buildB0 at h
  repeat' split at h
  all_goals first
    | (cases h; done)
    | (cases h; exact ⟨rfl, .inl rfl⟩)
    | (cases h; exact ⟨rfl, .inr rfl⟩)

theorem facts_buildB1 (w lit : Word96) (i : Instr) (h : buildB1 w lit = some i) :
    guardField i = some (guardOf w) ∧ (literalOf i = none ∨ literalOf i = some lit) := by
  unfold buildB1 at h
  repeat' split at h
  all_goals first
    | (cases h; done)
    | (cases h; exact ⟨rfl, .inl rfl⟩)
    | (cases h; exact ⟨rfl, .inr rfl⟩)

theorem facts_buildB2 (w lit : Word96) (i : Instr) (h : buildB2 w lit = some i) :
    guardField i = some (guardOf w) ∧ (literalOf i = none ∨ literalOf i = some lit) := by
  unfold buildB2 at h
  repeat' split at h
  all_goals first
    | (cases h; done)
    | (cases h; exact ⟨rfl, .inl rfl⟩)
    | (cases h; exact ⟨rfl, .inr rfl⟩)

theorem facts_buildB3 (w lit : Word96) (i : Instr) (h : buildB3 w lit = some i) :
    guardField i = some (guardOf w) ∧ (literalOf i = none ∨ literalOf i = some lit) := by
  unfold buildB3 at h
  repeat' split at h
  all_goals first
    | (cases h; done)
    | (cases h; exact ⟨rfl, .inl rfl⟩)
    | (cases h; exact ⟨rfl, .inr rfl⟩)

theorem facts_buildB4 (w lit : Word96) (i : Instr) (h : buildB4 w lit = some i) :
    guardField i = some (guardOf w) ∧ (literalOf i = none ∨ literalOf i = some lit) := by
  unfold buildB4 at h
  repeat' split at h
  all_goals first
    | (cases h; done)
    | (cases h; exact ⟨rfl, .inl rfl⟩)
    | (cases h; exact ⟨rfl, .inr rfl⟩)

theorem facts_buildB5 (w lit : Word96) (i : Instr) (h : buildB5 w lit = some i) :
    guardField i = some (guardOf w) ∧ (literalOf i = none ∨ literalOf i = some lit) := by
  unfold buildB5 at h
  repeat' split at h
  all_goals first
    | (cases h; done)
    | (cases h; exact ⟨rfl, .inl rfl⟩)
    | (cases h; exact ⟨rfl, .inr rfl⟩)

theorem facts_buildB6 (w lit : Word96) (i : Instr) (h : buildB6 w lit = some i) :
    guardField i = some (guardOf w) ∧ (literalOf i = none ∨ literalOf i = some lit) := by
  unfold buildB6 at h
  repeat' split at h
  all_goals first
    | (cases h; done)
    | (cases h; exact ⟨rfl, .inl rfl⟩)
    | (cases h; exact ⟨rfl, .inr rfl⟩)

theorem facts_buildB7 (w lit : Word96) (i : Instr) (h : buildB7 w lit = some i) :
    guardField i = some (guardOf w) ∧ (literalOf i = none ∨ literalOf i = some lit) := by
  unfold buildB7 at h
  repeat' split at h
  all_goals first
    | (cases h; done)
    | (cases h; exact ⟨rfl, .inl rfl⟩)
    | (cases h; exact ⟨rfl, .inr rfl⟩)

theorem facts_buildB8 (w lit : Word96) (i : Instr) (h : buildB8 w lit = some i) :
    guardField i = some (guardOf w) ∧ (literalOf i = none ∨ literalOf i = some lit) := by
  unfold buildB8 at h
  repeat' split at h
  all_goals first
    | (cases h; done)
    | (cases h; exact ⟨rfl, .inl rfl⟩)
    | (cases h; exact ⟨rfl, .inr rfl⟩)

theorem facts_buildB9 (w lit : Word96) (i : Instr) (h : buildB9 w lit = some i) :
    guardField i = some (guardOf w) ∧ (literalOf i = none ∨ literalOf i = some lit) := by
  unfold buildB9 at h
  repeat' split at h
  all_goals first
    | (cases h; done)
    | (cases h; exact ⟨rfl, .inl rfl⟩)
    | (cases h; exact ⟨rfl, .inr rfl⟩)

theorem facts_buildBA (w lit : Word96) (i : Instr) (h : buildBA w lit = some i) :
    guardField i = some (guardOf w) ∧ (literalOf i = none ∨ literalOf i = some lit) := by
  unfold buildBA at h
  repeat' split at h
  all_goals first
    | (cases h; done)
    | (cases h; exact ⟨rfl, .inl rfl⟩)
    | (cases h; exact ⟨rfl, .inr rfl⟩)

theorem facts_buildBB (w lit : Word96) (i : Instr) (h : buildBB w lit = some i) :
    guardField i = some (guardOf w) ∧ (literalOf i = none ∨ literalOf i = some lit) := by
  unfold buildBB at h
  repeat' split at h
  all_goals first
    | (cases h; done)
    | (cases h; exact ⟨rfl, .inl rfl⟩)
    | (cases h; exact ⟨rfl, .inr rfl⟩)

theorem facts_buildBC (w lit : Word96) (i : Instr) (h : buildBC w lit = some i) :
    guardField i = some (guardOf w) ∧ (literalOf i = none ∨ literalOf i = some lit) := by
  unfold buildBC at h
  repeat' split at h
  all_goals first
    | (cases h; done)
    | (cases h; exact ⟨rfl, .inl rfl⟩)
    | (cases h; exact ⟨rfl, .inr rfl⟩)

theorem build_facts (w lit : Word96) (i : Instr) (h : build w lit = some i) :
    guardField i = some (guardOf w) ∧ (literalOf i = none ∨ literalOf i = some lit) := by
  unfold build at h
  split at h
  · exact facts_build00 w lit i h
  · exact facts_build01 w lit i h
  · exact facts_build02 w lit i h
  · exact facts_build03 w lit i h
  · exact facts_build04 w lit i h
  · exact facts_build05 w lit i h
  · exact facts_build06 w lit i h
  · exact facts_build07 w lit i h
  · exact facts_build08 w lit i h
  · exact facts_build09 w lit i h
  · exact facts_build10 w lit i h
  · exact facts_build11 w lit i h
  · exact facts_build12 w lit i h
  · exact facts_build13 w lit i h
  · exact facts_build14 w lit i h
  · exact facts_build15 w lit i h
  · exact facts_build16 w lit i h
  · exact facts_build17 w lit i h
  · exact facts_build18 w lit i h
  · exact facts_build19 w lit i h
  · exact facts_build20 w lit i h
  · exact facts_build21 w lit i h
  · exact facts_build22 w lit i h
  · exact facts_build23 w lit i h
  · exact facts_build24 w lit i h
  · exact facts_build25 w lit i h
  · exact facts_build26 w lit i h
  · exact facts_build27 w lit i h
  · exact facts_build30 w lit i h
  · exact facts_build31 w lit i h
  · exact facts_build32 w lit i h
  · exact facts_build33 w lit i h
  · exact facts_build34 w lit i h
  · exact facts_build35 w lit i h
  · exact facts_build36 w lit i h
  · exact facts_build37 w lit i h
  · exact facts_build40 w lit i h
  · exact facts_build41 w lit i h
  · exact facts_build42 w lit i h
  · exact facts_build43 w lit i h
  · exact facts_build44 w lit i h
  · exact facts_build45 w lit i h
  · exact facts_build46 w lit i h
  · exact facts_build47 w lit i h
  · exact facts_build48 w lit i h
  · exact facts_build49 w lit i h
  · exact facts_build4A w lit i h
  · exact facts_build4B w lit i h
  · exact facts_build4C w lit i h
  · exact facts_build50 w lit i h
  · exact facts_build51 w lit i h
  · exact facts_build52 w lit i h
  · exact facts_build53 w lit i h
  · exact facts_build54 w lit i h
  · exact facts_build55 w lit i h
  · exact facts_build56 w lit i h
  · exact facts_build57 w lit i h
  · exact facts_build58 w lit i h
  · exact facts_build60 w lit i h
  · exact facts_build61 w lit i h
  · exact facts_build62 w lit i h
  · exact facts_build63 w lit i h
  · exact facts_build64 w lit i h
  · exact facts_build70 w lit i h
  · exact facts_build71 w lit i h
  · exact facts_build72 w lit i h
  · exact facts_build73 w lit i h
  · exact facts_build74 w lit i h
  · exact facts_build75 w lit i h
  · exact facts_build76 w lit i h
  · exact facts_build77 w lit i h
  · exact facts_build78 w lit i h
  · exact facts_build79 w lit i h
  · exact facts_build7A w lit i h
  · exact facts_build7B w lit i h
  · exact facts_build7C w lit i h
  · exact facts_build7D w lit i h
  · exact facts_build7E w lit i h
  · exact facts_build7F w lit i h
  · exact facts_build80 w lit i h
  · exact facts_build81 w lit i h
  · exact facts_build82 w lit i h
  · exact facts_build83 w lit i h
  · exact facts_build84 w lit i h
  · exact facts_build85 w lit i h
  · exact facts_build86 w lit i h
  · exact facts_build90 w lit i h
  · exact facts_build91 w lit i h
  · exact facts_build92 w lit i h
  · exact facts_buildA0 w lit i h
  · exact facts_buildA1 w lit i h
  · exact facts_buildA2 w lit i h
  · exact facts_buildA3 w lit i h
  · exact facts_buildB0 w lit i h
  · exact facts_buildB1 w lit i h
  · exact facts_buildB2 w lit i h
  · exact facts_buildB3 w lit i h
  · exact facts_buildB4 w lit i h
  · exact facts_buildB5 w lit i h
  · exact facts_buildB6 w lit i h
  · exact facts_buildB7 w lit i h
  · exact facts_buildB8 w lit i h
  · exact facts_buildB9 w lit i h
  · exact facts_buildBA w lit i h
  · exact facts_buildBB w lit i h
  · exact facts_buildBC w lit i h
  · cases h

theorem micro_facts (w : Word64) (i : Instr) (h : buildMicro w = some i) : isMicro i = true := by
  unfold buildMicro at h
  split at h
  all_goals cases h
  all_goals rfl

/-- What decodes passes every check of R122. -/
theorem decode_ok {cx : Ctx} {w lit : Word96} {i : Instr} (h : decode cx w lit = .ok i) :
    mayIssue cx (opcodeOf w).toNat = true ∧ build w lit = some i ∧ encodeWord i = w ∧ subcode cx i = none := by
  unfold decode at h
  dsimp only at h
  cases h0 : issuerOf (opcodeOf w).toNat <;> simp only [h0] at h <;> first
    | (cases h; done)
    | (cases hm : mayIssue cx (opcodeOf w).toNat with
       | false => simp only [hm, Bool.not_false, if_true] at h; cases h
       | true =>
         simp only [hm, Bool.not_true, Bool.false_eq_true, if_false] at h
         cases hb : build w lit with
         | none => simp only [hb] at h; cases h
         | some j =>
           simp only [hb] at h
           by_cases he : encodeWord j = w
           · simp only [he, ne_eq, not_true_eq_false, if_false] at h
             cases hs : subcode cx j with
             | none => simp only [hs] at h; cases h; exact ⟨rfl, rfl, he, hs⟩
             | some c => simp only [hs] at h; cases h
           · simp only [he, ne_eq, not_false_eq_true, if_true] at h; cases h)

end Sys2Proof.Laws
end

