-- ==== Sys2Proof/Laws/State.lean ====
section
/-! SUPPORT. Laws of the state: one for each field and each update, and reading what has been written. -/
namespace Sys2Proof.Laws
open Sys2Proof Sys2Proof.Machine

/-! ## Tables -/

@[simp] theorem get_set_same {α : Type} (d : α) (t : Tbl α) (k : Nat) (v : α) : Tbl.get d (Tbl.set t k v) k = v := by
  induction t with
  | nil => simp [Tbl.set, Tbl.get]
  | cons p t ih =>
    obtain ⟨k', v'⟩ := p
    simp only [Tbl.set]
    split
    · simp [Tbl.get]
    · split
      · simp [Tbl.get]
      · rename_i h; simp [Tbl.get, h, ih]

theorem get_set_ne {α : Type} (d : α) (t : Tbl α) {k j : Nat} (v : α) (h : j ≠ k) : Tbl.get d (Tbl.set t k v) j = Tbl.get d t j := by
  induction t with
  | nil => simp [Tbl.set, Tbl.get, h]
  | cons p t ih =>
    obtain ⟨k', v'⟩ := p
    simp only [Tbl.set]
    split
    · simp [Tbl.get, h]
    · split
      · rename_i hk; subst hk; simp [Tbl.get, h]
      · simp [Tbl.get, ih]

/-! ## Fields of the state -/

@[simp] theorem setCore_cur (s : State) (c : Nat) (k : Core) : (s.setCore c k).cur = s.cur := rfl
@[simp] theorem setCore_inputs (s : State) (c : Nat) (k : Core) : (s.setCore c k).inputs = s.inputs := rfl
@[simp] theorem setCore_nextId (s : State) (c : Nat) (k : Core) : (s.setCore c k).nextId = s.nextId := rfl
@[simp] theorem setCore_freeCtr (s : State) (c : Nat) (k : Core) : (s.setCore c k).freeCtr = s.freeCtr := rfl
@[simp] theorem setCore_note (s : State) (c : Nat) (k : Core) : (s.setCore c k).note = s.note := rfl
@[simp] theorem setCore_mem (s : State) (c : Nat) (k : Core) : (s.setCore c k).mem = s.mem := rfl
@[simp] theorem setCore_consists (s : State) (c : Nat) (k : Core) : (s.setCore c k).consists = s.consists := rfl
@[simp] theorem setCore_stores (s : State) (c : Nat) (k : Core) : (s.setCore c k).stores = s.stores := rfl
@[simp] theorem setCore_disp (s : State) (c : Nat) (k : Core) : (s.setCore c k).disp = s.disp := rfl
@[simp] theorem setCore_sbox (s : State) (c : Nat) (k : Core) : (s.setCore c k).sbox = s.sbox := rfl
@[simp] theorem setCore_tt (s : State) (c : Nat) (k : Core) : (s.setCore c k).tt = s.tt := rfl
@[simp] theorem setCore_sys (s : State) (c : Nat) (k : Core) : (s.setCore c k).sys = s.sys := rfl

@[simp] theorem setCons_cur (s : State) (n : Nat) (c : Consist) : (s.setCons n c).cur = s.cur := rfl
@[simp] theorem setCons_inputs (s : State) (n : Nat) (c : Consist) : (s.setCons n c).inputs = s.inputs := rfl
@[simp] theorem setCons_nextId (s : State) (n : Nat) (c : Consist) : (s.setCons n c).nextId = s.nextId := rfl
@[simp] theorem setCons_freeCtr (s : State) (n : Nat) (c : Consist) : (s.setCons n c).freeCtr = s.freeCtr := rfl
@[simp] theorem setCons_note (s : State) (n : Nat) (c : Consist) : (s.setCons n c).note = s.note := rfl
@[simp] theorem setCons_mem (s : State) (n : Nat) (c : Consist) : (s.setCons n c).mem = s.mem := rfl
@[simp] theorem setCons_cores (s : State) (n : Nat) (c : Consist) : (s.setCons n c).cores = s.cores := rfl
@[simp] theorem setCons_stores (s : State) (n : Nat) (c : Consist) : (s.setCons n c).stores = s.stores := rfl
@[simp] theorem setCons_disp (s : State) (n : Nat) (c : Consist) : (s.setCons n c).disp = s.disp := rfl
@[simp] theorem setCons_sbox (s : State) (n : Nat) (c : Consist) : (s.setCons n c).sbox = s.sbox := rfl
@[simp] theorem setCons_tt (s : State) (n : Nat) (c : Consist) : (s.setCons n c).tt = s.tt := rfl
@[simp] theorem setCons_sys (s : State) (n : Nat) (c : Consist) : (s.setCons n c).sys = s.sys := rfl

@[simp] theorem setSeq_cur (s : State) (c : Nat) (q : SeqId) (v : Seq) : (s.setSeq c q v).cur = s.cur := rfl
@[simp] theorem setSeq_inputs (s : State) (c : Nat) (q : SeqId) (v : Seq) : (s.setSeq c q v).inputs = s.inputs := rfl
@[simp] theorem setSeq_nextId (s : State) (c : Nat) (q : SeqId) (v : Seq) : (s.setSeq c q v).nextId = s.nextId := rfl
@[simp] theorem setSeq_freeCtr (s : State) (c : Nat) (q : SeqId) (v : Seq) : (s.setSeq c q v).freeCtr = s.freeCtr := rfl
@[simp] theorem setSeq_note (s : State) (c : Nat) (q : SeqId) (v : Seq) : (s.setSeq c q v).note = s.note := rfl
@[simp] theorem setSeq_mem (s : State) (c : Nat) (q : SeqId) (v : Seq) : (s.setSeq c q v).mem = s.mem := rfl
@[simp] theorem setSeq_consists (s : State) (c : Nat) (q : SeqId) (v : Seq) : (s.setSeq c q v).consists = s.consists := rfl
@[simp] theorem setSeq_stores (s : State) (c : Nat) (q : SeqId) (v : Seq) : (s.setSeq c q v).stores = s.stores := rfl
@[simp] theorem setSeq_disp (s : State) (c : Nat) (q : SeqId) (v : Seq) : (s.setSeq c q v).disp = s.disp := rfl
@[simp] theorem setSeq_sbox (s : State) (c : Nat) (q : SeqId) (v : Seq) : (s.setSeq c q v).sbox = s.sbox := rfl
@[simp] theorem setSeq_tt (s : State) (c : Nat) (q : SeqId) (v : Seq) : (s.setSeq c q v).tt = s.tt := rfl
@[simp] theorem setSeq_sys (s : State) (c : Nat) (q : SeqId) (v : Seq) : (s.setSeq c q v).sys = s.sys := rfl

@[simp] theorem setPart_cur (s : State) (p : BitVec 5) (v : Partition) : (s.setPart p v).cur = s.cur := rfl
@[simp] theorem setPart_inputs (s : State) (p : BitVec 5) (v : Partition) : (s.setPart p v).inputs = s.inputs := rfl
@[simp] theorem setPart_nextId (s : State) (p : BitVec 5) (v : Partition) : (s.setPart p v).nextId = s.nextId := rfl
@[simp] theorem setPart_freeCtr (s : State) (p : BitVec 5) (v : Partition) : (s.setPart p v).freeCtr = s.freeCtr := rfl
@[simp] theorem setPart_note (s : State) (p : BitVec 5) (v : Partition) : (s.setPart p v).note = s.note := rfl
@[simp] theorem setPart_mem (s : State) (p : BitVec 5) (v : Partition) : (s.setPart p v).mem = s.mem := rfl
@[simp] theorem setPart_cores (s : State) (p : BitVec 5) (v : Partition) : (s.setPart p v).cores = s.cores := rfl
@[simp] theorem setPart_consists (s : State) (p : BitVec 5) (v : Partition) : (s.setPart p v).consists = s.consists := rfl
@[simp] theorem setPart_stores (s : State) (p : BitVec 5) (v : Partition) : (s.setPart p v).stores = s.stores := rfl
@[simp] theorem setPart_sbox (s : State) (p : BitVec 5) (v : Partition) : (s.setPart p v).sbox = s.sbox := rfl
@[simp] theorem setPart_tt (s : State) (p : BitVec 5) (v : Partition) : (s.setPart p v).tt = s.tt := rfl
@[simp] theorem setPart_sys (s : State) (p : BitVec 5) (v : Partition) : (s.setPart p v).sys = s.sys := rfl

@[simp] theorem setPeer_cur (s : State) (p : Nat) (v : Peer) : (s.setPeer p v).cur = s.cur := rfl
@[simp] theorem setPeer_inputs (s : State) (p : Nat) (v : Peer) : (s.setPeer p v).inputs = s.inputs := rfl
@[simp] theorem setPeer_nextId (s : State) (p : Nat) (v : Peer) : (s.setPeer p v).nextId = s.nextId := rfl
@[simp] theorem setPeer_freeCtr (s : State) (p : Nat) (v : Peer) : (s.setPeer p v).freeCtr = s.freeCtr := rfl
@[simp] theorem setPeer_note (s : State) (p : Nat) (v : Peer) : (s.setPeer p v).note = s.note := rfl
@[simp] theorem setPeer_mem (s : State) (p : Nat) (v : Peer) : (s.setPeer p v).mem = s.mem := rfl
@[simp] theorem setPeer_cores (s : State) (p : Nat) (v : Peer) : (s.setPeer p v).cores = s.cores := rfl
@[simp] theorem setPeer_consists (s : State) (p : Nat) (v : Peer) : (s.setPeer p v).consists = s.consists := rfl
@[simp] theorem setPeer_stores (s : State) (p : Nat) (v : Peer) : (s.setPeer p v).stores = s.stores := rfl
@[simp] theorem setPeer_disp (s : State) (p : Nat) (v : Peer) : (s.setPeer p v).disp = s.disp := rfl
@[simp] theorem setPeer_sbox (s : State) (p : Nat) (v : Peer) : (s.setPeer p v).sbox = s.sbox := rfl
@[simp] theorem setPeer_sys (s : State) (p : Nat) (v : Peer) : (s.setPeer p v).sys = s.sys := rfl

@[simp] theorem setDie_cur (s : State) (d : Nat) (v : Die) : (s.setDie d v).cur = s.cur := rfl
@[simp] theorem setDie_inputs (s : State) (d : Nat) (v : Die) : (s.setDie d v).inputs = s.inputs := rfl
@[simp] theorem setDie_nextId (s : State) (d : Nat) (v : Die) : (s.setDie d v).nextId = s.nextId := rfl
@[simp] theorem setDie_freeCtr (s : State) (d : Nat) (v : Die) : (s.setDie d v).freeCtr = s.freeCtr := rfl
@[simp] theorem setDie_note (s : State) (d : Nat) (v : Die) : (s.setDie d v).note = s.note := rfl
@[simp] theorem setDie_mem (s : State) (d : Nat) (v : Die) : (s.setDie d v).mem = s.mem := rfl
@[simp] theorem setDie_cores (s : State) (d : Nat) (v : Die) : (s.setDie d v).cores = s.cores := rfl
@[simp] theorem setDie_consists (s : State) (d : Nat) (v : Die) : (s.setDie d v).consists = s.consists := rfl
@[simp] theorem setDie_stores (s : State) (d : Nat) (v : Die) : (s.setDie d v).stores = s.stores := rfl
@[simp] theorem setDie_disp (s : State) (d : Nat) (v : Die) : (s.setDie d v).disp = s.disp := rfl
@[simp] theorem setDie_sbox (s : State) (d : Nat) (v : Die) : (s.setDie d v).sbox = s.sbox := rfl
@[simp] theorem setDie_tt (s : State) (d : Nat) (v : Die) : (s.setDie d v).tt = s.tt := rfl

@[simp] theorem setDir_cur (s : State) (key : Nat) (e : DirEntry) : (s.setDir key e).cur = s.cur := rfl
@[simp] theorem setDir_inputs (s : State) (key : Nat) (e : DirEntry) : (s.setDir key e).inputs = s.inputs := rfl
@[simp] theorem setDir_nextId (s : State) (key : Nat) (e : DirEntry) : (s.setDir key e).nextId = s.nextId := rfl
@[simp] theorem setDir_freeCtr (s : State) (key : Nat) (e : DirEntry) : (s.setDir key e).freeCtr = s.freeCtr := rfl
@[simp] theorem setDir_note (s : State) (key : Nat) (e : DirEntry) : (s.setDir key e).note = s.note := rfl
@[simp] theorem setDir_mem (s : State) (key : Nat) (e : DirEntry) : (s.setDir key e).mem = s.mem := rfl
@[simp] theorem setDir_cores (s : State) (key : Nat) (e : DirEntry) : (s.setDir key e).cores = s.cores := rfl
@[simp] theorem setDir_consists (s : State) (key : Nat) (e : DirEntry) : (s.setDir key e).consists = s.consists := rfl
@[simp] theorem setDir_disp (s : State) (key : Nat) (e : DirEntry) : (s.setDir key e).disp = s.disp := rfl
@[simp] theorem setDir_sbox (s : State) (key : Nat) (e : DirEntry) : (s.setDir key e).sbox = s.sbox := rfl
@[simp] theorem setDir_tt (s : State) (key : Nat) (e : DirEntry) : (s.setDir key e).tt = s.tt := rfl
@[simp] theorem setDir_sys (s : State) (key : Nat) (e : DirEntry) : (s.setDir key e).sys = s.sys := rfl

@[simp] theorem modCoreAt_cur (s : State) (c : Nat) (f : Core → Core) : (s.modCoreAt c f).cur = s.cur := rfl
@[simp] theorem modCoreAt_inputs (s : State) (c : Nat) (f : Core → Core) : (s.modCoreAt c f).inputs = s.inputs := rfl
@[simp] theorem modCoreAt_nextId (s : State) (c : Nat) (f : Core → Core) : (s.modCoreAt c f).nextId = s.nextId := rfl
@[simp] theorem modCoreAt_freeCtr (s : State) (c : Nat) (f : Core → Core) : (s.modCoreAt c f).freeCtr = s.freeCtr := rfl
@[simp] theorem modCoreAt_note (s : State) (c : Nat) (f : Core → Core) : (s.modCoreAt c f).note = s.note := rfl
@[simp] theorem modCoreAt_mem (s : State) (c : Nat) (f : Core → Core) : (s.modCoreAt c f).mem = s.mem := rfl
@[simp] theorem modCoreAt_consists (s : State) (c : Nat) (f : Core → Core) : (s.modCoreAt c f).consists = s.consists := rfl
@[simp] theorem modCoreAt_stores (s : State) (c : Nat) (f : Core → Core) : (s.modCoreAt c f).stores = s.stores := rfl
@[simp] theorem modCoreAt_disp (s : State) (c : Nat) (f : Core → Core) : (s.modCoreAt c f).disp = s.disp := rfl
@[simp] theorem modCoreAt_sbox (s : State) (c : Nat) (f : Core → Core) : (s.modCoreAt c f).sbox = s.sbox := rfl
@[simp] theorem modCoreAt_tt (s : State) (c : Nat) (f : Core → Core) : (s.modCoreAt c f).tt = s.tt := rfl
@[simp] theorem modCoreAt_sys (s : State) (c : Nat) (f : Core → Core) : (s.modCoreAt c f).sys = s.sys := rfl

@[simp] theorem modSeqAt_cur (s : State) (c : Nat) (q : SeqId) (f : Seq → Seq) : (s.modSeqAt c q f).cur = s.cur := rfl
@[simp] theorem modSeqAt_inputs (s : State) (c : Nat) (q : SeqId) (f : Seq → Seq) : (s.modSeqAt c q f).inputs = s.inputs := rfl
@[simp] theorem modSeqAt_nextId (s : State) (c : Nat) (q : SeqId) (f : Seq → Seq) : (s.modSeqAt c q f).nextId = s.nextId := rfl
@[simp] theorem modSeqAt_freeCtr (s : State) (c : Nat) (q : SeqId) (f : Seq → Seq) : (s.modSeqAt c q f).freeCtr = s.freeCtr := rfl
@[simp] theorem modSeqAt_note (s : State) (c : Nat) (q : SeqId) (f : Seq → Seq) : (s.modSeqAt c q f).note = s.note := rfl
@[simp] theorem modSeqAt_mem (s : State) (c : Nat) (q : SeqId) (f : Seq → Seq) : (s.modSeqAt c q f).mem = s.mem := rfl
@[simp] theorem modSeqAt_consists (s : State) (c : Nat) (q : SeqId) (f : Seq → Seq) : (s.modSeqAt c q f).consists = s.consists := rfl
@[simp] theorem modSeqAt_stores (s : State) (c : Nat) (q : SeqId) (f : Seq → Seq) : (s.modSeqAt c q f).stores = s.stores := rfl
@[simp] theorem modSeqAt_disp (s : State) (c : Nat) (q : SeqId) (f : Seq → Seq) : (s.modSeqAt c q f).disp = s.disp := rfl
@[simp] theorem modSeqAt_sbox (s : State) (c : Nat) (q : SeqId) (f : Seq → Seq) : (s.modSeqAt c q f).sbox = s.sbox := rfl
@[simp] theorem modSeqAt_tt (s : State) (c : Nat) (q : SeqId) (f : Seq → Seq) : (s.modSeqAt c q f).tt = s.tt := rfl
@[simp] theorem modSeqAt_sys (s : State) (c : Nat) (q : SeqId) (f : Seq → Seq) : (s.modSeqAt c q f).sys = s.sys := rfl

/-! ## Parts read back -/

@[simp] theorem core_setCore (s : State) (c : Nat) (k : Core) : (s.setCore c k).core c = k := get_set_same _ _ _ _

theorem core_setCore_ne (s : State) {c d : Nat} (k : Core) (h : d ≠ c) : (s.setCore c k).core d = s.core d := get_set_ne _ _ _ h

@[simp] theorem cons_setCons (s : State) (n : Nat) (c : Consist) : (s.setCons n c).cons n = c := get_set_same _ _ _ _

theorem cons_setCons_ne (s : State) {n m : Nat} (c : Consist) (h : m ≠ n) : (s.setCons n c).cons m = s.cons m := get_set_ne _ _ _ h

@[simp] theorem core_setCons (s : State) (n : Nat) (c : Consist) (d : Nat) : (s.setCons n c).core d = s.core d := rfl

@[simp] theorem cons_setCore (s : State) (c : Nat) (k : Core) (n : Nat) : (s.setCore c k).cons n = s.cons n := rfl

@[simp] theorem cons_setSeq (s : State) (c : Nat) (q : SeqId) (v : Seq) (n : Nat) : (s.setSeq c q v).cons n = s.cons n := rfl

@[simp] theorem seq_setSeq (s : State) (c : Nat) (q : SeqId) (v : Seq) : (s.setSeq c q v).seq c q = v := by
  simp only [State.seq, State.setSeq, core_setCore]
  cases q <;> rfl

theorem core_setSeq_ne (s : State) {c d : Nat} (q : SeqId) (v : Seq) (h : d ≠ c) : (s.setSeq c q v).core d = s.core d :=
  core_setCore_ne s _ h

/-- The other sequencer of a core is left alone. -/
theorem seq_setSeq_other (s : State) (c : Nat) {q r : SeqId} (v : Seq) (h : r ≠ q) : (s.setSeq c q v).seq c r = s.seq c r := by
  simp only [State.seq, State.setSeq, core_setCore]
  cases q <;> cases r <;> first | rfl | exact absurd rfl h

@[simp] theorem part_setPart (s : State) (p : BitVec 5) (v : Partition) : (s.setPart p v).part p = v := get_set_same _ _ _ _

@[simp] theorem peer_setPeer (s : State) (p : Nat) (v : Peer) : (s.setPeer p v).peer p = v := get_set_same _ _ _ _

@[simp] theorem die_setDie (s : State) (d : Nat) (v : Die) : (s.setDie d v).die d = v := get_set_same _ _ _ _

@[simp] theorem dirEntry_setDir (s : State) (key : Nat) (e : DirEntry) : (s.setDir key e).dirEntry key = e := get_set_same _ _ _ _

theorem dirEntry_setDir_ne (s : State) {key k : Nat} (e : DirEntry) (h : k ≠ key) : (s.setDir key e).dirEntry k = s.dirEntry k :=
  get_set_ne _ _ _ h

/-- The consist a core runs a car with does not change when one of its sequencers does. -/
@[simp] theorem consistOf_setSeq (s : State) (c : Nat) (q : SeqId) (v : Seq) (d : Nat) :
    (s.setSeq c q v).consistOf d = s.consistOf d := by
  by_cases h : d = c
  · subst h
    simp only [State.consistOf, State.setSeq, core_setCore]
    cases q <;> rfl
  · simp only [State.consistOf, core_setSeq_ne s q v h]

@[simp] theorem curCons_setSeq (s : State) (c : Nat) (q : SeqId) (v : Seq) : (s.setSeq c q v).curCons = s.curCons := by
  show ((s.setSeq c q v).consistOf s.cur.1).getD 0 = (s.consistOf s.cur.1).getD 0
  rw [consistOf_setSeq]

@[simp] theorem ttc_setSeq (s : State) (c : Nat) (q : SeqId) (v : Seq) : (s.setSeq c q v).ttc = s.ttc := by
  show ((s.setSeq c q v).cons (s.setSeq c q v).curCons).ttc = _
  rw [curCons_setSeq, cons_setSeq]; rfl

/-! ## Latches put in flight -/

@[simp] theorem withLatch_mem (s : State) (l : Latch) : (withLatch s l).mem = s.mem := rfl
@[simp] theorem withLatch_core (s : State) (l : Latch) (c : Nat) : (withLatch s l).core c = s.core c := rfl
@[simp] theorem withLatch_seq (s : State) (l : Latch) (c : Nat) (q : SeqId) : (withLatch s l).seq c q = s.seq c q := rfl
@[simp] theorem withLatch_cur (s : State) (l : Latch) : (withLatch s l).cur = s.cur := rfl
@[simp] theorem withLatch_curCons (s : State) (l : Latch) : (withLatch s l).curCons = s.curCons := rfl

@[simp] theorem withLatch_cons (s : State) (l : Latch) :
    (withLatch s l).cons s.curCons = { s.cons s.curCons with latches := (s.cons s.curCons).latches ++ [l] } := cons_setCons _ _ _

theorem withLatch_cons_ne (s : State) (l : Latch) {k : Nat} (h : k ≠ s.curCons) : (withLatch s l).cons k = s.cons k :=
  cons_setCons_ne _ _ h

@[simp] theorem withLatch_ttc (s : State) (l : Latch) : (withLatch s l).ttc = s.ttc := by
  show ((withLatch s l).cons s.curCons).ttc = _
  rw [withLatch_cons]; rfl

end Sys2Proof.Laws
end

