-- ==== Sys2Proof/Laws/Words.lean ====
section
/-! SUPPORT. What the shared work of words comes to. -/
namespace Sys2Proof.Laws
open Sys2Proof Sys2Proof.Machine

/-! ## Scalar results -/

theorem run_writeS {v v' : State} {d : BitVec 6} {x : Word64} {e : Effect} (h : TakesS v d x e v') (lat : Nat) :
    (writeS d lat x).run v = .ok ((), flying v' lat e) := by
  simp only [writeS, run_bind, h, run_result]

theorem run_writeH {v v' : State} {d : BitVec 5} {c : Cap} {e : Effect} (h : TakesH v d c e v') (lat : Nat) :
    (writeH d lat c).run v = .ok ((), flying v' lat e) := by
  simp only [writeH, run_bind, h, run_result]

theorem run_binAct {v v1 v2 v3 : State} {d a b : BitVec 6} {x y : Word64} {e : Effect} {lat : Nat} {f : Word64 → Word64 → Word64}
    (ha : ReadsS v a x v1) (hb : ReadsS v1 b y v2) (hd : TakesS v2 d (f x y) e v3) :
    (binAct lat f d a b).run v = .ok ((), flying v3 lat e) := by
  simp only [binAct, run_bind, ha, hb, run_writeS hd]

theorem run_unAct {v v1 v2 : State} {d a : BitVec 6} {x : Word64} {e : Effect} {lat : Nat} {f : Word64 → Word64}
    (ha : ReadsS v a x v1) (hd : TakesS v1 d (f x) e v2) :
    (unAct lat f d a).run v = .ok ((), flying v2 lat e) := by
  simp only [unAct, run_bind, ha, run_writeS hd]

theorem run_terAct {v v1 v2 v3 v4 : State} {d a b c : BitVec 6} {x y z : Word64} {e : Effect} {lat : Nat}
    {f : Word64 → Word64 → Word64 → Word64}
    (ha : ReadsS v a x v1) (hb : ReadsS v1 b y v2) (hc : ReadsS v2 c z v3) (hd : TakesS v3 d (f x y z) e v4) :
    (terAct lat f d a b c).run v = .ok ((), flying v4 lat e) := by
  simp only [terAct, run_bind, ha, hb, hc, run_writeS hd]

theorem run_awaitS {v v' : State} {d : BitVec 6} {e : Effect} (h : TakesS v d 0 e v') (lat bit : Nat) :
    (awaitS d lat bit).run v = .ok (v'.nextId, awaiting v' lat bit e) := by
  simp only [awaitS, run_bind, h, run_await]

/-! ## Queues -/

theorem run_popOn {q : Nat} {v w : State} {x : Word64} (h : (popQ q).run v = .ok (some x, w)) : (popOn q).run v = .ok (x, w) := by
  unfold popOn; rw [run_bind_ok h]; rfl

/-- A word that finds room in an engine queue enters its command there (R40). -/
theorem run_enter {v : State} {q : Nat} (h : RoomIn v q) (op : EngOp) (borrows writes popped : List Cap) (barrier : Option Nat)
    (bytes : Nat) (due : Option Nat) (latches : List Nat) :
    (enter q op borrows writes popped barrier bytes due latches).run v =
      .ok (v.nextId, entering v q (newEntry v op borrows writes popped barrier bytes due latches)) := by
  simp only [enter, run_bind, run_get, run_getCore, Nat.not_le.2 h, ge_iff_le, if_false, run_getSeq, run_modify, run_modCore, run_pure]
  rfl

/-! ## Control flow -/

theorem run_notInHandler {v : State} (h : (v.cons v.curCons).trapT = none) : notInHandler.run v = .ok ((), v) := by
  simp only [notInHandler, run_bind, run_inHandler, h, Option.isSome_none, Bool.not_false, run_need_true]

theorem run_branchReg {v : State} {b : BitVec 3} {r : BReg} (hr : r = (v.seq v.cur.1 v.cur.2).breg b) (h : r.ready v.ttc = true) :
    (branchReg b).run v = .ok (r, v) := by
  simp only [branchReg, run_bind, run_getSeq, run_getTtc, ← hr, h, run_need_true, run_pure]

theorem run_takeBranch {v : State} {r : BReg} (h : v.branchOk (v.seq v.cur.1 v.cur.2) r = true) :
    (takeBranch r).run v = .ok (.goto r.syll.toNat, traceBranch v v.cur.1 true v.ttc) := by
  simp only [takeBranch, run_bind, run_get, run_getSeq, h, run_need_true, outcome, run_modify, run_pure]

/-- A target is good by memory and the stream alone. -/
theorem branchOk_congr {s s' : State} {q q' : Seq} (r : BReg) (hm : s'.mem = s.mem) (hl : q'.streamLo = q.streamLo)
    (hh : q'.streamHi = q.streamHi) : s'.branchOk q' r = s.branchOk q r := by
  simp only [State.branchOk, State.targetOk, Seq.inStream, State.crcOk, hm, hl, hh]

theorem movedOn_goto (n hdr : Nat) (v : State) : movedOn n (.goto hdr) v = v.setSeq v.cur.1 v.cur.2 { v.seq v.cur.1 v.cur.2 with
    at_ := Place.begin (Place.retire { (v.seq v.cur.1 v.cur.2).at_ with req := none } v.ttc) hdr (v.ttc + 1) } := rfl

/-- No loop ends at the word. -/
theorem loopTest_none (q : Seq) (next : Nat) : ∀ ls : List Loop, (∀ l ∈ ls, l.last ≠ next) → loopTest q next ls = (ls, none)
  | [], _ => rfl
  | l :: ls, h => by
    have := h l (by simp)
    simp only [loopTest, this, if_false]

end Sys2Proof.Laws
end

