-- ==== Sys2Proof/Laws/Tensors.lean ====
section
/-! SUPPORT. What the shared work of tensor, matrix and vector words comes to. -/
namespace Sys2Proof.Laws
open Sys2Proof Sys2Proof.Machine

theorem run_checkUse {v : State} {c : Cap} {kinds : List (BitVec 4)} {perm : Nat} {spaces : List Nat} (h : UseOk v c kinds perm spaces) {α : Type} (f : Act α) :
    (do checkKind c kinds; checkPerm c perm; checkSpace c spaces; f : Act α).run v = f.run v := by
  obtain ⟨h1, h2, h3⟩ := h
  have h2' : c.has perm = true := h2
  have h3' : (spaces.contains c.space.toNat) = true := by simpa using h3
  rw [run_bind_ok (run_checkKind h1), checkPerm, run_bind_ok (run_need h2' _ _ _ _), checkSpace, run_bind_ok (run_need h3' _ _ _ _)]

theorem run_checkUse' {v : State} {c : Cap} {kinds : List (BitVec 4)} {perm : Nat} {spaces : List Nat} (h : UseOk v c kinds perm spaces) :
    (do checkKind c kinds; checkPerm c perm; checkSpace c spaces : Act Unit).run v = .ok ((), v) := by
  obtain ⟨h1, h2, h3⟩ := h
  have h2' : c.has perm = true := h2
  have h3' : (spaces.contains c.space.toNat) = true := by simpa using h3
  rw [run_bind_ok (run_checkKind h1), checkPerm, run_bind_ok (run_need h2' _ _ _ _), checkSpace, run_need h3']

theorem run_checkTile {v : State} {c : Cap} (h : UseOk v c [kTile] pR [0, 1]) : (checkTile c).run v = .ok ((), v) := run_checkUse' h

theorem run_checkBlank {v : State} {c : Cap} (h : UseOk v c [kBlank] pW [0, 1]) : (checkBlank c).run v = .ok ((), v) := run_checkUse' h

theorem run_checkSource {v : State} {c : Cap} (h : UseOk v c [kPointer, kTile] pR [0, 1]) : (checkSource c).run v = .ok ((), v) := run_checkUse' h

theorem run_checkCopy {v : State} {d c : Cap} {ks js : List (BitVec 4)} (hd : CapOk v d ks) (hc : CapOk v c js) :
    (checkCopy d c).run v = .ok ((), v) := by
  rw [checkCopy, run_bind_ok (run_checkOwn hd), run_checkOwn hc]

theorem run_checkBounds {c : Cap} {n : Nat} (h : CursorOk c n) (v : State) : (checkBounds c c.addr.toNat n).run v = .ok ((), v) := by
  have : (decide (c.bounds.1 ≤ c.addr.toNat) && decide (c.addr.toNat + n ≤ c.bounds.2)) = true := by
    simp only [h.1, h.2, decide_true, Bool.and_self]
  exact run_need this _ _ _ _

theorem run_checkHost {v : State} {c : Cap} {perm n : Nat} (h : UseOk v c [kPointer] perm [7]) (hb : CursorOk c n) : (checkHost c perm n).run v = .ok ((), v) := by
  have := run_checkUse h (checkBounds c c.addr.toNat n)
  exact this.trans (run_checkBounds hb v)

theorem run_checkSeqTable {v : State} {c : Cap} {perm : Nat} (h : UseOk v c [kPointer] perm [5]) (hb : CursorOk c 64) : (checkSeqTable c perm).run v = .ok ((), v) := by
  have := run_checkUse h (checkBounds c c.addr.toNat 64)
  exact this.trans (run_checkBounds hb v)

theorem run_checkRegion {v : State} {r : Region} (h : RegionOk v r) : (checkRegion r).run v = .ok ((), v) := by
  obtain ⟨-, -, -, h4⟩ := h
  have hf : ((cellsOf r.rows r.cols).find? fun p =>
    if outside r p.1 p.2 then r.clip
    else
      let a := elementAddr r p.1 p.2
      !(decide ((v.baseBounds r.cap).1 ≤ a) && decide (a + r.width ≤ (v.baseBounds r.cap).2))) = none := by
    rw [List.find?_eq_none]
    rintro ⟨i, j⟩ hm
    have hij : i < r.rows ∧ j < r.cols := by
      simp only [cellsOf, List.mem_flatMap, List.mem_range, List.mem_map, Prod.mk.injEq] at hm
      obtain ⟨a, ha, b, hb, rfl, rfl⟩ := hm
      exact ⟨ha, hb⟩
    have := h4 i j hij.1 hij.2
    dsimp only
    split
    · rename_i ho; rw [if_pos ho] at this; simp [this]
    · rename_i ho; rw [if_neg ho] at this; simp [this.1, this.2]
  unfold checkRegion
  rw [run_bind, run_get]
  dsimp only at hf ⊢
  rw [hf]
  rfl

theorem run_checkTensor {v : State} {r : Region} (h : RegionOk v r) : (checkTensor r).run v = .ok ((), v) := by
  have h1 : decide (r.geom.rank ≠ 0) = true := decide_eq_true h.1
  have h2 : decide (r.geom.fmt ≠ 6) = true := decide_eq_true h.2.1
  have h3 : (!r.perm || r.cap.space != 1 || (decide ((v.baseBounds r.cap).1 % 4096 = 0) && decide ((v.baseBounds r.cap).2 % 4096 = 0))) = true := by
    cases hp : r.perm
    · rfl
    · by_cases hs : r.cap.space = 1
      · have := h.2.2.1 hp hs; simp [this.1, this.2]
      · have : (r.cap.space != 1) = true := by rw [bne_iff_ne]; exact hs
        rw [this]; rfl
  simp only [checkTensor, run_bind, run_need h1, run_need h2, run_get, run_need h3, run_checkRegion h]

theorem run_checkSlot {v : State} {n : BitVec 4} {tld : Bool} (h : SlotOk v n tld) : (checkSlot n tld).run v = .ok ((), v) := by
  have h1 : decide (((v.core v.cur.1).slot n).state ≠ .free) = true := decide_eq_true h.1
  have h2 : (!(tld && decide (((v.core v.cur.1).slot n).state = .claimedFilled) && (v.core v.cur.1).fedAfter n v.ttc)) = true := by
    cases tld with
    | false => rfl
    | true =>
      by_cases hs : ((v.core v.cur.1).slot n).state = .claimedFilled
      · rw [h.2 rfl hs]; simp
      · simp [hs]
  simp only [checkSlot, run_bind, run_get, run_getCore, run_need h1, run_need h2]

theorem run_stamped (v : State) (stamp : BitVec 20) (e : Effect) : (stamped stamp e).run v = .ok ((stamping v stamp e).1, (stamping v stamp e).2) := by
  simp only [stamped, stamping]; split
  · rfl
  · simp only [run_bind, run_await, run_pure]

theorem popsOf_one (h : BitVec 5) (c : Cap) : popsOf [(h, c)] = pops1 h c := by
  by_cases e : h = 31
  · simp [popsOf, pops1, e]
  · have : (h == 31) = false := by simpa using e
    rw [pops1, if_neg e]; simp only [popsOf, List.filter_cons, this, List.filter_nil]; rfl

theorem popsOf_cons (h : BitVec 5) (c : Cap) (l : List (BitVec 5 × Cap)) : popsOf ((h, c) :: l) = pops1 h c ++ popsOf l := by
  by_cases e : h = 31
  · have : (h == 31) = true := by simpa using e
    rw [pops1, if_pos e]; simp only [popsOf, List.filter_cons, this, if_true]; rfl
  · have : (h == 31) = false := by simpa using e
    rw [pops1, if_neg e]; simp only [popsOf, List.filter_cons, this]; rfl

theorem popsOf_two (h k : BitVec 5) (c d : Cap) : popsOf [(h, c), (k, d)] = pops1 h c ++ pops1 k d := by
  rw [popsOf_cons, popsOf_one]

theorem run_enterCopying {v : State} {stamp : BitVec 20} {e : Effect} (h : RoomIn (stamping v stamp e).2 qCopy) (op : EngOp) (borrows writes popped : List Cap)
    (barrier : Option Nat) (bytes : Nat) :
   (do let l ← stamped stamp e
       let _ ← enter qCopy op borrows writes popped barrier bytes (dueOf stamp) l : Act Unit).run v =
    .ok ((), copying v stamp e op borrows writes popped barrier bytes) := by
  rw [run_bind_ok (run_stamped v stamp e), run_bind, run_enter h]
  rfl

theorem run_postInc (v : State) (post : BitVec 1) (f : BitVec 4) (n : Nat) : (postInc post f n).run v = .ok ((), stepping v post f n) := by
  simp only [postInc, stepping]; split <;> rfl

theorem run_enterCopy {v : State} {stamp : BitVec 20} (h : RoomIn (stamping v stamp .mark).2 qCopy) (hd ha : BitVec 5) (d c : Cap) (op : EngOp) (b : Option Nat) (bytes : Nat) :
   (enterCopy hd ha d c op b bytes stamp).run v = .ok ((), copying v stamp .mark op [c] [d] (pops1 hd d ++ pops1 ha c) b bytes) := by
  rw [← popsOf_two]
  exact run_enterCopying h op _ _ _ b bytes

theorem run_barrierOf {v w : State} {sr : BitVec 6} {b : Option Nat} (h : BarrierAt v sr b w) : (barrierOf sr).run v = .ok (b, w) := by
  obtain ⟨x, hx, hb⟩ := h
  unfold barrierOf
  rw [run_bind_ok hx]
  split at hb
  · rename_i h0; rw [if_pos h0, hb]; rfl
  · rename_i h0
    have : decide (x.toNat < 640 * 2 ^ 22) = true := decide_eq_true hb.1
    rw [if_neg h0, run_bind_ok (run_need this _ _ _ _), hb.2]; rfl

theorem run_readHbm' (lat : Nat) (op : DeferOp) (e : Effect) (s : State) {α} (x : α):
    (do readHbm lat op e; pure x : Act α).run s = .ok (x, readingHbm s lat op e) := by
  simp only [run_bind, run_readHbm, run_pure]

theorem run_enterMatrix {v : State} (h : MatrixOpen v) (stamp : Nat) (op : MatOp) :
    (enterMatrix stamp op []).run v = .ok (v.nextId, multiplying v stamp op) := by
  obtain ⟨h0, h1, h2⟩ := h
  have h1' : (v.core v.cur.1).attn.entry.isNone = true := by rw [h1]; rfl
  simp only [enterMatrix, run_bind, run_notQueuedInHandler h0, run_get, run_getCore, run_need h1', h2, if_true, run_getSeq, run_modify, run_modCore, run_pure]
  rfl

theorem run_drainRows (d : Drain) : ∀ (r : Nat) (v : State), (drainRows d r).run v = .ok ((), draining d r v)
  | 0, v => rfl
  | r + 1, v => by simp only [drainRows, run_bind, run_drainRows d r v, run_result, draining]

theorem run_fixedTile {v : State} {a n base : Nat} (h : tileRange a n = some (v.cur.1, base)) : (fixedTile a n).run v = .ok (base, v) := by
  simp only [fixedTile, run_bind, run_get, h, decide_true, run_need_true, run_pure]

theorem run_noBorrow {v : State} {c : Cap} (h : c.counted = true → (v.core v.cur.1).borrowed c.key = false) : (noBorrow c).run v = .ok ((), v) := by
  have : (!(c.counted && (v.core v.cur.1).borrowed c.key)) = true := by
    cases hc : c.counted
    · rfl
    · simp [h hc]
  simp only [noBorrow, run_bind, run_getCore, run_need this]

theorem accAt_setAcc (k : Core) (row col r x : Nat) (v : BitVec 32) (h1 : col < 1024) (h2 : x < 1024) :
    (k.setAcc row col v).accAt r x = if r = row ∧ x = col then v else k.accAt r x := by
  unfold Core.accAt Core.setAcc
  by_cases e : 1024 * r + x = 1024 * row + col
  · rw [e, get_set_same, if_pos (by omega)]
  · rw [get_set_ne _ _ _ e, if_neg (by omega)]

theorem accAt_setAccRow (row r x : Nat) (hx : x < 1024) : ∀ (vs : List (BitVec 32)) (k : Core) (col : Nat), col + vs.length ≤ 1024 →
    (setAccRow k row col vs).accAt r x = if r = row ∧ col ≤ x ∧ x < col + vs.length then vs.getD (x - col) 0 else k.accAt r x
  | [], k, col, _ => by simp only [setAccRow]; rw [if_neg]; simp
  | v :: vs, k, col, h => by
    simp only [List.length_cons] at h
    simp only [setAccRow]
    rw [accAt_setAccRow row r x hx vs _ (col + 1) (by omega), accAt_setAcc _ _ _ _ _ _ (by omega) hx]
    simp only [List.length_cons]
    by_cases hr : r = row
    · by_cases hc : x = col
      · subst hc; rw [if_neg (by omega), if_pos ⟨hr, rfl⟩, if_pos (by omega)]; simp
      · by_cases hin : col + 1 ≤ x ∧ x < col + 1 + vs.length
        · rw [if_pos ⟨hr, hin⟩, if_pos (by omega)]
          obtain ⟨j, hj⟩ : ∃ j, x - col = j + 1 := ⟨x - col - 1, by omega⟩
          rw [hj, show x - (col + 1) = j by omega]; rfl
        · rw [if_neg (by tauto), if_neg (by tauto), if_neg (by omega)]
    · rw [if_neg (by tauto), if_neg (by tauto), if_neg (by tauto)]

theorem length_mmaRow (core : Nat) (fw : Word64) (c : MatCmd) (k : Nat) (ta : Bool) (m : Nat) (start : List (BitVec 32)) (h : start.length = c.n) :
    (mmaRow core fw c k ta m start).length = c.n := by
  simp [mmaRow, h]

theorem get_filter (t : Tbl (BitVec 32)) (p : Nat × BitVec 32 → Bool) (x : Nat) (h : ∀ b b', p (x, b) = p (x, b')) :
    Tbl.get 0 (t.filter p) x = if p (x, 0) then Tbl.get 0 t x else 0 := by
  induction t with
  | nil => simp [Tbl.get]
  | cons a t ih =>
    obtain ⟨k, v⟩ := a
    by_cases hp : p (k, v) = true
    · rw [List.filter_cons_of_pos hp]
      simp only [Tbl.get, ih]
      by_cases e : x = k
      · subst e; have := h 0 v; rw [hp] at this; rw [this]; simp
      · rw [if_neg e, if_neg e]
    · rw [List.filter_cons_of_neg (by simpa using hp)]
      simp only [Tbl.get, ih]
      by_cases e : x = k
      · subst e; rw [h 0 v]; simp [hp]
      · rw [if_neg e]

theorem run_lanesFor (m : BitVec 1) (v : State) : (lanesFor m).run v = .ok (maskFor v m, v) := rfl

theorem run_readV (r : BitVec 6) (v : State) : (readV r).run v = .ok ((v.core v.cur.1).vreg r, v) := rfl

theorem anyFlag_eq (m : LaneMask) : ∀ (l : List LaneOut) (i : Nat),
    anyFlag m i l = (l.zipIdx i).any fun p => m.getLsbD p.2 && p.1.2
  | [], _ => rfl
  | x :: t, i => by
    rw [anyFlag, anyFlag_eq m t (i + 1), List.zipIdx_cons, List.any_cons, Bool.and_comm]

theorem anyFlag_range (m : LaneMask) (out : Nat → LaneOut) (n : Nat) : anyFlag m 0 ((List.range n).map out) =
    (List.range n).any fun i => m.getLsbD i && (out i).2 := by
  rw [anyFlag_eq, List.zipIdx_map, List.any_map]
  have : (List.range n).zipIdx = (List.range n).map fun i => (i, i) := by
    apply List.ext_getElem <;> simp
  rw [this, List.any_map]; rfl

theorem run_vecResult (v : State) (vd : BitVec 6) (masked : BitVec 1) (lat : Nat) (out : Nat → LaneOut) :
    (vecResult vd masked lat ((List.range 128).map out)).run v = .ok ((), lanesOut v vd masked lat out) := by
  unfold vecResult lanesOut
  rw [run_bind_ok (run_lanesFor masked v), anyFlag_range, List.map_map]
  rw [run_bind_ok (run_result lat _ v)]
  dsimp only
  by_cases hc : ((List.range 128).any fun i => (maskFor v masked).getLsbD i && (out i).2) = true
  · rw [if_pos hc, if_pos hc, run_result]; rfl
  · rw [if_neg hc, if_neg hc, run_pure]; rfl

theorem run_vec2Act (v : State) (lat : Nat) (vd va vb : BitVec 6) (ty : BitVec 4) (masked : BitVec 1) (f : Nat → Nat → Nat × Bool) :
    (vec2Act lat vd va vb ty masked f).run v = .ok ((), lanesOut v vd masked lat fun i =>
      zipLane ty.toNat f (lane ((v.core v.cur.1).vreg va) i) (lane ((v.core v.cur.1).vreg vb) i)) := by
  unfold vec2Act
  rw [run_bind_ok (run_readV va v), run_bind_ok (run_readV vb v)]
  exact run_vecResult v vd masked lat _

theorem run_fmaAct (v : State) (vd va vb vc : BitVec 6) (ty : BitVec 4) (rm : BitVec 3) (sat masked : BitVec 1) (f : XNum → XNum → XNum → XNum) :
    (fmaAct vd va vb vc ty rm sat masked f).run v = .ok ((), lanesOut v vd masked 4 fun i =>
      let r := (((elemsOf ty.toNat (lane ((v.core v.cur.1).vreg va) i)).zip (elemsOf ty.toNat (lane ((v.core v.cur.1).vreg vb) i))).zip
          (elemsOf ty.toNat (lane ((v.core v.cur.1).vreg vc) i))).map fun p =>
        ((laneFmt ty.toNat).getD fp32).round rm.toNat (sat == 1) (f (((laneFmt ty.toNat).getD fp32).decode p.1.1) (((laneFmt ty.toNat).getD fp32).decode p.1.2) (((laneFmt ty.toNat).getD fp32).decode p.2))
      (packElems ty.toNat (r.map Prod.fst), r.any Prod.snd)) := by
  unfold fmaAct
  rw [run_bind_ok (run_readV va v), run_bind_ok (run_readV vb v), run_bind_ok (run_readV vc v)]
  exact run_vecResult v vd masked 4 _

theorem run_lane2 (v : State) (lat : Nat) (vd va vb : BitVec 6) (masked : BitVec 1) (f : BitVec 32 → BitVec 32 → BitVec 32) :
    (lane2Act lat vd va vb masked f).run v = .ok ((), lanesOut v vd masked lat fun i =>
      (f (lane ((v.core v.cur.1).vreg va) i) (lane ((v.core v.cur.1).vreg vb) i), false)) := by
  unfold lane2Act
  rw [run_bind_ok (run_readV va v), run_bind_ok (run_readV vb v)]
  exact run_vecResult v vd masked lat _

theorem run_three (v : State) (lat : Nat) (vd va vb vc : BitVec 6) (masked : BitVec 1) (f : VReg → VReg → VReg → Nat → BitVec 32) :
    (do let a ← readV va; let b ← readV vb; let c ← readV vc; vecResult vd masked lat (perLane (f a b c)) : Act Unit).run v = .ok ((), lanesOut v vd masked lat fun i =>
      (f ((v.core v.cur.1).vreg va) ((v.core v.cur.1).vreg vb) ((v.core v.cur.1).vreg vc) i, false)) := by
  rw [run_bind_ok (run_readV va v), run_bind_ok (run_readV vb v), run_bind_ok (run_readV vc v)]
  exact run_vecResult v vd masked lat _

theorem run_bcast (v : State) (vd : BitVec 6) (masked : BitVec 1) (x : BitVec 32) :
    (bcastAct vd masked x).run v = .ok ((), lanesOut v vd masked 2 fun _ => (x, false)) := run_vecResult v vd masked 2 _

theorem run_rot (v : State) (vd va : BitVec 6) (masked : BitVec 1) (n : Nat) :
    (rotAct vd va masked n).run v = .ok ((), lanesOut v vd masked 3 fun i => (lane ((v.core v.cur.1).vreg va) ((i + n) % 128), false)) := by
  unfold rotAct
  rw [run_bind_ok (run_readV va v)]
  exact run_vecResult v vd masked 3 _

theorem run_tilePlaces {v : State} : ∀ {as ps : List Nat}, as.map (fun a => tileRange a 4) = ps.map (fun p => some (v.cur.1, p)) →
    (tilePlaces as).run v = .ok (ps, v)
  | [], [], _ => rfl
  | [], _ :: _, h => by simp at h
  | _ :: _, [], h => by simp at h
  | a :: as, p :: ps, h => by
    simp only [List.map_cons, List.cons.injEq] at h
    rw [tilePlaces, run_bind_ok (run_fixedTile h.1), run_bind_ok (run_tilePlaces h.2)]
    rfl

theorem run_loadLanes {v t : State} {vd : BitVec 6} {masked : BitVec 1} {h : BitVec 5} {c : Cap} {as : List Nat}
    (hl : VecLoads v vd masked h c as t) : (loadLanes vd masked h c as).run v = .ok ((), t) := by
  unfold VecLoads at hl
  unfold loadLanes
  rw [run_bind_ok (run_lanesFor masked v)]
  dsimp only
  split at hl
  · rename_i hs
    obtain ⟨ps, hp, rfl⟩ := hl
    rw [if_pos hs, run_bind_ok (run_tilePlaces hp), run_bind_ok (run_get v)]
    refine (run_bind_ok (run_resultOr 8 _ _ v) _).trans ?_
    exact run_dropPopped _ _ _ _
  · rename_i hs
    subst hl
    rw [if_neg hs]
    refine (run_bind_ok (run_readHbm 96 _ _ v) _).trans ?_
    exact run_dropPopped _ _ _ _

theorem run_storeLanes {v t : State} {va : BitVec 6} {masked : BitVec 1} {h : BitVec 5} {c : Cap} {as : List Nat}
    (hl : VecStores v va masked h c as t) : (storeLanes va masked h c as).run v = .ok ((), t) := by
  unfold VecStores at hl
  dsimp only at hl
  obtain ⟨hb, hl⟩ := hl
  unfold storeLanes
  rw [run_bind_ok (run_lanesFor masked v), run_bind_ok (run_readV va v)]
  dsimp only
  split at hl
  · rename_i hs
    obtain ⟨⟨ps, hp⟩, rfl⟩ := hl
    rw [if_pos hs, run_bind_ok (run_tilePlaces hp), run_bind_ok (run_noBorrow hb), run_bind_ok (run_get v)]
    refine (run_bind_ok (run_result 6 _ v) _).trans ?_
    exact run_dropPopped _ _ _ _
  · rename_i hs
    subst hl
    rw [if_neg hs, run_bind_ok (run_noBorrow hb)]
    refine (run_bind_ok (run_writeHbm 96 _ _ v) _).trans ?_
    exact run_dropPopped _ _ _ _

theorem run_checkVec {v : State} {c : Cap} {kinds : List (BitVec 4)} {perm : Nat} {spaces : List Nat} (h : UseOk v c kinds perm spaces) :
    (checkVecHandle c kinds perm spaces).run v = .ok ((), v) := by
  obtain ⟨h1, h2, h3⟩ := h
  have h2' : c.has perm = true := h2
  have h3' : (spaces.contains c.space.toNat) = true := by simpa using h3
  rw [checkVecHandle, run_bind_ok (run_checkKind h1), checkPerm, run_bind_ok (run_need h2' _ _ _ _), checkSpace]
  exact run_need h3' _ _ _ _

theorem run_checkWidth {v : State} {c : Cap} {ty : Nat} (h : c.kind = kTile → if ty = 3 then fmtBytes (v.tileEntry c.key).fmt = some 2 ∧
      (v.tileEntry c.key).rows * (v.tileEntry c.key).cols % 2 = 0 else fmtBytes (v.tileEntry c.key).fmt = some 4) :
    (checkWidth c ty).run v = .ok ((), v) := by
  unfold checkWidth
  rw [run_bind_ok (run_get v)]
  refine run_need ?_ _ _ _ _
  by_cases hk : c.kind = kTile
  · have h := h hk
    rw [Bool.or_eq_true]; right
    split at h
    · rename_i h3; rw [if_pos h3, h.1]; simp [h.2]
    · rename_i h3; rw [if_neg h3, h]; rfl
  · rw [Bool.or_eq_true]; left; rw [bne_iff_ne]; exact hk

theorem run_rowAddrs {v : State} {c : Cap} {e : Word64} (h : e.toNat + 128 ≤ v.wordCount c 9) :
    (rowAddrs c e).run v = .ok ((List.range 128).map fun i => c.addr.toNat + 4 * (e.toNat + i), v) := by
  unfold rowAddrs
  rw [run_bind_ok (run_get v), run_bind_ok (run_need (decide_eq_true h) _ _ _ _)]
  rfl

theorem run_strideAddrs {v : State} {c : Cap} {o t : Word64} {n : Nat}
    (h : ∀ a ∈ (List.range n).map (fun i => (c.addr + o + BitVec.ofNat 64 i * t).toNat), a % 4 = 0 ∧ (v.baseBounds c).1 ≤ a ∧ a + 4 ≤ (v.baseBounds c).2) :
    (strideAddrs c o t n).run v = .ok ((List.range n).map (fun i => (c.addr + o + BitVec.ofNat 64 i * t).toNat), v) := by
  unfold strideAddrs
  rw [run_bind_ok (run_get v)]
  dsimp only
  have : (List.map (fun i => (c.addr + o + BitVec.ofNat 64 i * t).toNat) (List.range n)).find?
      (fun a => !(decide (a % 4 = 0) && decide ((v.baseBounds c).1 ≤ a) && decide (a + 4 ≤ (v.baseBounds c).2))) = none := by
    rw [List.find?_eq_none]
    intro a ha
    obtain ⟨h1, h2, h3⟩ := h a ha
    simp [h1, h2, h3]
  rw [this]
  rfl

end Sys2Proof.Laws
end

