-- ==== Sys2Proof/Laws/Engines.lean ====
section
/-! SUPPORT. How engine work runs. -/
namespace Sys2Proof.Laws
open Sys2Proof Sys2Proof.Machine

variable {α β : Type}

/-- A part that answers goes first. -/
theorem eng_bind {x : Eng α} {s s' : State} {a : α} (h : Works x s a s') (f : α → Eng β) :
    (x >>= f).run.run s = (f a).run.run s' := by
  show (ExceptT.bind x f).run.run s = _
  simp only [ExceptT.bind, ExceptT.run, ExceptT.mk, StateT.run] at h ⊢
  show (StateT.bind x (ExceptT.bindCont f)) s = _
  unfold StateT.bind
  have h' : x s = (.ok a, s') := h
  simp only [h']
  rfl

theorem eng_get (s : State) : Works (get : Eng State) s s s := rfl

theorem eng_modify (f : State → State) (s : State) : Works (modify f : Eng PUnit) s ⟨⟩ (f s) := rfl

theorem eng_set (s t : State) : Works (set t : Eng PUnit) s ⟨⟩ t := rfl

theorem eng_getAttn (core : Nat) (s : State) : Works (getAttn core) s (s.core core).attn s := rfl

theorem eng_modAttn (core : Nat) (f : Attn → Attn) (s : State) : Works (modAttn core f) s ⟨⟩ (s.modAttn core f) := rfl

theorem eng_modCore (core : Nat) (f : Core → Core) (s : State) : Works (modCoreEng core f) s ⟨⟩ (s.modCoreAt core f) := rfl

/-- A micro-operation of a running entry (R250). -/
theorem micro_runs {s t : State} {e : EngEntry} {bad : Nat} {body : EngCtx → Eng MicroEnd} {r : Except EngStop MicroEnd}
    (he : (s.core s.cur.1).attnEntry = some e) (h : (body (EngCtx.attention s.cur.1 e)).run.run s = (r, t)) :
    micro bad body s = .next (microDone s.cur.1 (s.core s.cur.1).attn.upc bad e (r, t)) := by
  unfold micro
  dsimp only
  rw [he]
  dsimp only
  rw [h]

/-- One that only moves on. -/
theorem micro_next {s t : State} {e : EngEntry} {bad : Nat} {body : EngCtx → Eng MicroEnd}
    (he : (s.core s.cur.1).attnEntry = some e) (h : Works (body (EngCtx.attention s.cur.1 e)) s .next t) :
    micro bad body s = .next (microGo t s.cur.1 ((s.core s.cur.1).attn.upc + 1)) := micro_runs he h

/-- One that stops its entry (R249). -/
theorem micro_stops {s t : State} {e : EngEntry} {bad kind : Nat} {body : EngCtx → Eng MicroEnd}
    (he : (s.core s.cur.1).attnEntry = some e) (h : Works (body (EngCtx.attention s.cur.1 e)) s (.stop kind) t) :
    micro bad body s = .next (attnFinish t s.cur.1 (s.core s.cur.1).attn.upc kind) := micro_runs he h

end Sys2Proof.Laws
end

