-- ==== Sys2Proof/Laws/Handles.lean ====
section
/-! SUPPORT. What the shared work of capability words comes to (R66-R72). -/
namespace Sys2Proof.Laws
open Sys2Proof Sys2Proof.Machine

theorem run_readPointer {v v1 : State} {r : BitVec 5} {c : Cap} (h : ReadsH v r c v1) (hc : CapOk v1 c [kPointer]) :
    (readPointer r).run v = .ok (c, v1) := by
  simp only [readPointer, run_bind, h, run_checkKind hc, run_pure]

theorem run_nullH1 (r : BitVec 5) (s : State) : (nullH r 1).run s = .ok ((), nulling s r) := by
  simp only [run_nullH]; rfl

theorem run_dropNow (r : BitVec 5) (c : Cap) (s : State) : (dropNow r c).run s = .ok ((), givingUp s r c) := by
  simp only [dropNow, givingUp]; split <;> rfl

theorem run_myPart (v : State) : myPart.run v = .ok (((v.core v.cur.1).part).getD 0, v) := rfl

/-- The one unique handle of a core (R69). -/
theorem localUnique_iff (c : Cap) : c.localUnique = true ↔ c.weight = 2 ^ 20 ∧ c.xg = 0 := by
  unfold Cap.localUnique fullWeight
  rw [Bool.and_eq_true, decide_eq_true_iff, decide_eq_true_iff]

/-- Bounds that can be encoded, least exponent first. -/
theorem encodeBounds_some {b t : Nat} : ∀ {fuel e : Nat} {r : Nat × Nat × Nat × Nat × Nat}, encodeBounds b t fuel e = some r →
    e ≤ r.1 ∧ r.1 < e + fuel ∧ r.2.1 = b / 2 ^ r.1 % 2 ^ 18 ∧ r.2.2.1 = (t + 2 ^ r.1 - 1) / 2 ^ r.1 - b / 2 ^ r.1 ∧ r.2.2.1 ≤ 0x3FFFF ∧
    r.2.2.2.1 = b / 2 ^ r.1 * 2 ^ r.1 ∧ r.2.2.2.2 = (t + 2 ^ r.1 - 1) / 2 ^ r.1 * 2 ^ r.1
  | 0, e, r, h => by simp [encodeBounds] at h
  | fuel + 1, e, r, h => by
    simp only [encodeBounds] at h
    split at h
    · rename_i hl
      injection h with h; subst h
      exact ⟨le_refl _, by simp, rfl, rfl, hl, rfl, rfl⟩
    · have := encodeBounds_some h
      omega

/-- A bottom mantissa taken from the cursor is the cursor's own window. -/
theorem bounds_of_mantissa (c : Cap) (lo : Nat) (h1 : c.bm = lo % 2 ^ 18) (h2 : c.addr.toNat / 2 ^ c.exp = lo) :
   c.bounds = (lo * 2 ^ c.exp, lo * 2 ^ c.exp + c.lm * 2 ^ c.exp) := by
  have hnot : ¬ (c.addr.toNat / 2 ^ c.exp % 2 ^ 18 < c.bm) := by rw [h1, h2]; omega
  have hdiv : c.addr.toNat / 2 ^ (c.exp + 18) = lo / 2 ^ 18 := by rw [Nat.pow_add, ← Nat.div_div_eq_div_mul, h2]
  have hle : lo * 2 ^ c.exp ≤ c.addr.toNat := by rw [← h2]; exact Nat.div_mul_le_self _ _
  have hlt := c.addr.isLt
  have hbase : lo / 2 ^ 18 * 2 ^ (c.exp + 18) + c.bm * 2 ^ c.exp = lo * 2 ^ c.exp := by
    rw [h1, Nat.pow_add, Nat.mul_comm (2 ^ c.exp), ← Nat.mul_assoc, ← Nat.add_mul]
    congr 1; omega
  unfold Cap.bounds
  simp only [if_neg hnot, hdiv]
  have : (((((lo / 2 ^ 18 : Nat) : Int) * 2 ^ (c.exp + 18) + (c.bm : Int) * 2 ^ c.exp) % 2 ^ 64).toNat) = lo * 2 ^ c.exp := by
    have e : (((lo / 2 ^ 18 : Nat) : Int) * 2 ^ (c.exp + 18) + (c.bm : Int) * 2 ^ c.exp) = ((lo * 2 ^ c.exp : Nat) : Int) := by
      rw [← hbase]; push_cast; rfl
    rw [e]
    omega
  rw [this]

end Sys2Proof.Laws
end

