-- ==== Sys2Proof/Laws/Keeps.lean ====
section
/-! SUPPORT. What operations shared by many words and units leave alone. -/
namespace Sys2Proof.Laws
open Sys2Proof Sys2Proof.Machine

/-- A fold whose every step keeps something keeps it. -/
theorem foldl_keeps {α β γ : Type} (get : α → γ) (f : α → β → α) (h : ∀ a b, get (f a b) = get a) (l : List β) (a : α) :
    get (l.foldl f a) = get a := by
  induction l generalizing a with
  | nil => rfl
  | cons b l ih => rw [List.foldl_cons, ih, h]

/-! ## Memory -/

@[simp] theorem mem_modLatch (s : State) (core id : Nat) (f : Latch → Latch) : (s.modLatch core id f).mem = s.mem := by
  unfold State.modLatch; split <;> rfl

@[simp] theorem mem_sendHome (s : State) (core key : Nat) (msg : HomeMsg) (id : Nat) : (s.sendHome core key msg id).mem = s.mem := rfl

@[simp] theorem mem_homeMsg (s : State) (core key : Nat) (msg : HomeMsg) (id : Nat) : (s.homeMsg core key msg id).mem = s.mem := by
  simp only [State.homeMsg]; repeat' split
  all_goals rfl

@[simp] theorem mem_dropWeight (s : State) (core : Nat) (c : Cap) : (s.dropWeight core c).mem = s.mem := by
  simp only [State.dropWeight]
  split
  · rfl
  · split
    · rfl
    · rw [mem_homeMsg]

@[simp] theorem mem_retireEntry (s : State) (core q : Nat) (e : EngEntry) : (s.retireEntry core q e).mem = s.mem := by
  simp only [State.retireEntry]
  rw [foldl_keeps (fun s : State => s.mem) _ (fun a b => mem_dropWeight a core b)]
  rfl

@[simp] theorem mem_setWatches (s : State) (p : Nat) (l : List Watch) : (s.setWatches p l).mem = s.mem := rfl

@[simp] theorem mem_porterReply (s : State) (r : PorterReq) (fs : List (Effect → Effect)) : (s.porterReply r fs).mem = s.mem :=
  foldl_keeps (fun s : State => s.mem) _ (fun _ _ => mem_modLatch _ _ _ _) _ _

@[simp] theorem mem_retirePorter (s : State) (r : PorterReq) : (s.retirePorter r).mem = s.mem := by
  unfold State.retirePorter; split
  · exact mem_retireEntry _ _ _ _
  · rfl

@[simp] theorem mem_waitvDone (s : State) (r : PorterReq) (v : Word64) : (s.waitvDone r v).mem = s.mem := by
  simp [State.waitvDone]

@[simp] theorem mem_retestWatch (s : State) (w : Watch) : (retestWatch s w).mem = s.mem := by
  simp only [retestWatch]; split
  · simp
  · rfl

@[simp] theorem mem_retest (s : State) (ns : List Nat) : (s.retest ns).mem = s.mem :=
  foldl_keeps (fun s : State => s.mem) _ (fun a _ => foldl_keeps (fun s : State => s.mem) _ mem_retestWatch _ a) _ s

@[simp] theorem mem_putCells (s : State) (l : List (Nat × Word64)) :
    (s.putCells l).mem = l.foldl (fun (m : Memory) p => m.write64 (cellAt p.1) p.2) s.mem := by
  simp only [State.putCells, mem_retest]

@[simp] theorem mem_putPair (s : State) (n : Nat) (v w : Word64) :
    (s.putPair n v w).mem = s.mem.write (cellAt n) (toBytes 8 v.toNat ++ toBytes 8 w.toNat) := by
  simp only [State.putPair, mem_retest]

@[simp] theorem mem_putCap (s : State) (n : Nat) (c : Cap) : (s.putCap n c).mem = s.mem.writeCap (cellAt n) c := by
  simp only [State.putCap, mem_retest]

@[simp] theorem mem_waitvEffect (s : State) (r : PorterReq) : (waitvEffect s r).mem = s.mem := by
  simp only [waitvEffect]; split
  · simp
  · split <;> rfl

@[simp] theorem mem_beginWalk (s : State) (core : Nat) : (beginWalk s core).mem = s.mem := by
  unfold beginWalk; split
  · split
    · rfl
    · split
      · unfold sendExtension; split <;> simp
      · rfl
  · rfl

@[simp] theorem mem_dropWalks (s : State) (core : Nat) (gone : Walk → Bool) : (dropWalks s core gone).mem = s.mem := by
  simp [dropWalks]

@[simp] theorem mem_endExtension (s : State) (id : Nat) : (endExtension s id).mem = s.mem := by
  unfold endExtension; split
  · exact mem_dropWalks _ _ _
  · rfl

@[simp] theorem mem_loseWatches (s : State) (lost : PorterReq → Bool) : (s.loseWatches lost).mem = s.mem := by
  simp only [State.loseWatches]
  rw [foldl_keeps (fun s : State => s.mem) _ (fun a b => ?_), foldl_keeps (fun s : State => s.mem) _ (fun a b => ?_)]
  · simp
  · rw [foldl_keeps (fun s : State => s.mem) _ (fun a b => by simp)]

end Sys2Proof.Laws
end

