-- ==== Sys2Proof/Laws/Porters.lean ====
section
/-! SUPPORT. What the shared work of porter and marker words comes to. -/
namespace Sys2Proof.Laws
open Sys2Proof Sys2Proof.Machine

theorem room_in {v : State} {q : Nat} (h : (v.core v.cur.1).room q = true) : RoomIn v q := by
  simp only [Core.room, decide_eq_true_eq] at h
  unfold RoomIn; omega

theorem entering_queue {v : State} {q r : Nat} (e : EngEntry) (h : r ≠ q) : ((entering v q e).core (entering v q e).cur.1).queue r = (v.core v.cur.1).queue r := by
  show ((entering v q e).core v.cur.1).queue r = _
  rw [entering, core_setCore]
  exact get_set_ne _ _ _ h

theorem run_enterMarks (id : Nat) : ∀ (qs : List Nat) (v : State), qs.Nodup → (∀ q ∈ qs, RoomIn v q) →
    (enterMarks id qs).run v = .ok (marking id qs v)
  | [], v, _, _ => rfl
  | q :: qs, v, hn, h => by
    have h1 := h q (by simp)
    have hn' := List.nodup_cons.1 hn
    have ih := run_enterMarks id qs (entering v q (newEntry v (.mark id) [] [] [] none 0 none [])) hn'.2 (by
      intro r hr
      have : r ≠ q := fun e => hn'.1 (e ▸ hr)
      unfold RoomIn
      rw [entering_queue _ this]
      exact h r (by simp [hr]))
    simp only [enterMarks, run_bind, run_enter h1, ih, run_pure, marking]

theorem run_cellOf {v : State} {c : Cap} {cell : BitVec 32} {wide : Bool} {n : Nat} (h : CellOk v c cell wide n) :
    (cellOf c cell wide).run v = .ok (n, v) := by
  obtain ⟨hc, hp, hs, ha, hn, hb1, hb2, hw⟩ := h
  have e1 : c.has pC = true := hp
  have e2 : ([3].contains c.space.toNat) = true := by rw [hs]; rfl
  have e3 : (decide (c.bounds.1 ≤ (c.addr + 8 * cell.setWidth 64).toNat) && decide ((c.addr + 8 * cell.setWidth 64).toNat + (if wide = true then 16 else 8) ≤ c.bounds.2)) = true := by
    simp only [hb1, hb2, decide_true, Bool.and_self]
  have e4 : (c.addr + 8 * cell.setWidth 64).toNat / 8 = n := by omega
  have e5 : (decide ((c.addr + 8 * cell.setWidth 64).toNat % 8 = 0) && decide (n < 640 * 2 ^ 22)) = true := by
    have : (c.addr + 8 * cell.setWidth 64).toNat % 8 = 0 := by omega
    simp only [this, hn, decide_true, Bool.and_self]
  have e6 : (!wide || decide (n % 2 = 0)) = true := by
    cases wide with
    | false => rfl
    | true => simpa using hw rfl
  simp only [cellOf, run_bind, run_checkKind hc, checkPerm, run_need e1, checkSpace, run_need e2, checkBounds, run_need e3, e4, run_need e5, run_need e6, run_pure]

theorem run_porterAct {v v1 v2 v3 : State} {h : BitVec 5} {c : Cap} {cell : BitVec 32} {order : BitVec 2} {op : CellOp} {links : Nat} {args : Act CellArgs}
    {x : CellArgs} {dst : Nat → Act (List Nat)} {n : Nat} {ids : List Nat}
    (hh : ReadsH v h c v1) (hx : args.run v1 = .ok (x, v2)) (hc : CellOk v2 c cell op.wide n)
    (hop : op = .hxch → (!x.hc.tag || x.hc.isNull || x.hc.has pL) = true)
    (hnear : op = .hxch → x.hc.tag = true → NearOk v2 x.hc)
    (hd : (dst (2 * v2.dP n + 12)).run v2 = .ok (ids, v3)) (hr : RoomIn v3 qPorter) (hdp : v3.dP n = v2.dP n):
    (porterAct h cell order op links args dst).run v = .ok ((), operating v3 h c (if op = .hxch then x.hc else c) n order op links x.v x.v2 x.w x.w2 ids) := by
  unfold porterAct
  rw [run_bind_ok hh, run_bind_ok hx, run_bind_ok (run_cellOf hc)]
  have fin : ∀ (cap : Cap), StateT.run (do
      let s ← get
      let ids ← dst (2 * s.dP n + 12)
      let s_1 ← get
      let sq ← getSeq
      let _ ← enter qPorter (.porter { id := s_1.nextId, core := s_1.cur.1, seq := s_1.cur.2, syll := BitVec.ofNat 25 sq.at_.pc, part := (s_1.core s_1.cur.1).part.getD 0
                                       op := op, cell := n, v := x.v, v2 := x.v2, w := x.w, w2 := x.w2, cap := cap
                                       links := links, arrival := none, latches := ids, entry := some s_1.nextId, at_ := s_1.clk + s.dP n + 6 } (order.getLsbD 1)) [c] [] (popsOf [(h, c)]) none 0 none ids
      match order.getLsbD 0, ids with
      | true, id :: _ => modCore fun k => { k with gates := k.gates ++ [⟨id, none⟩] }
      | _, _ => pure () : Act Unit) v2 = .ok ((), operating v3 h c cap n order op links x.v x.v2 x.w x.w2 ids) := by
    intro cap
    have hpop : popsOf [(h, c)] = if h = 31 then [c] else [] := by
      by_cases e : h = 31
      · simp [popsOf, e]
      · have : (h == 31) = false := by simpa using e
        rw [if_neg e]; simp only [popsOf, List.filter_cons, this, List.filter_nil]; rfl
    simp only [run_bind, run_get, hd, run_getSeq, run_enter hr, hpop]
    unfold operating
    rw [hdp]
    cases ids with
    | nil => cases order.getLsbD 0 <;> rfl
    | cons i is => cases hb : order.getLsbD 0 <;> rfl
  cases op with
  | hxch =>
    dsimp only
    rw [if_pos rfl]
    refine (run_bind_ok (run_need (hop rfl) _ _ _ _) _).trans ?_
    split
    · rename_i ht
      exact (run_bind_ok (run_checkNear (hnear rfl ht)) _).trans (fin x.hc)
    · exact fin x.hc
  | _ =>
    rw [if_neg (by simp)]
    exact fin c

theorem dstS_keeps {v v' : State} {d x e} (h : TakesS v d x e v') : v'.sys = v.sys := by
  have key : ∀ q, ∀ r, (pushQ q).run v = .ok r → r.2.sys = v.sys := by
    intro q r hr
    simp only [pushQ, run_bind, run_get, run_getCore, need] at hr
    split at hr
    · rename_i a s' hn
      split at hn
      · injection hn with hn; injection hn with _ hn; subst hn; injection hr with hr; subst hr; rfl
      · cases hn
    · cases hr
  simp only [TakesS, dstS, run_bind, run_get] at h
  cases hq : dstQueue v.cur.2 d with
  | none => rw [hq] at h; injection h with h; injection h with _ h; subst h; rfl
  | some q =>
    rw [hq] at h
    simp only [run_bind] at h
    split at h
    · rename_i a s' hn
      injection h with h; injection h with _ h; subst h
      exact key _ _ hn
    · cases h

theorem dstH_keeps {v v' : State} {d x e} (h : TakesH v d x e v') : v'.sys = v.sys := by
  simp only [TakesH, dstH] at h
  split at h
  · simp only [pushHq, run_bind, run_get, run_getCore, need] at h
    split at h
    · rename_i a s' hn
      split at hn
      · rename_i b s2 hn2
        split at hn2
        · injection hn2 with hn2; injection hn2 with _ hn2; subst hn2
          injection hn with hn; injection hn with _ hn; subst hn
          injection h with h; injection h with _ h; subst h; rfl
        · cases hn2
      · cases hn
    · cases h
  · injection h with h; injection h with _ h; subst h; rfl

theorem dP_of_sys {s t : State} (h : t.sys = s.sys) (n : Nat) : t.dP n = s.dP n := by
  simp only [State.dP, State.dist, h]

theorem run_cellDst {v v' : State} {a : BitVec 6} {e : Effect} (h : TakesS v a 0 e v') (lat : Nat) :
    (cellDst a lat).run v = .ok ([v'.nextId], awaiting v' lat 2 e) := by
  simp only [cellDst, run_bind, run_awaitS h, run_pure]

theorem apart_write {m : Memory} {a n : Nat} {bs : List Byte} (hn : bs.length = n) (c : Nat) (h : ¬ (a ≤ c ∧ c < a + n)) :
    (m.write a bs).byte c = m.byte c := by rw [byte_write, hn, if_neg h]

theorem cell_write {m : Memory} {n : Nat} {x : Word64} : (m.write64 (cellAt n) x).read64 (cellAt n) = x := read64_write64 _ _ _

theorem read64_apart (m : Memory) (a c : Nat) (bs : List Byte) (h : c + 8 ≤ a ∨ a + bs.length ≤ c) : (m.write a bs).read64 c = m.read64 c := by
  simp only [Memory.read64, read_write_apart _ _ _ _ _ h]

theorem pair_lo (m : Memory) (a : Nat) (v w : Word64) : (m.write a (toBytes 8 v.toNat ++ toBytes 8 w.toNat)).read64 a = v := by
  have h := read_write m a (toBytes 8 v.toNat ++ toBytes 8 w.toNat)
  have e : ∀ (m : Memory) (a k j : Nat), m.read a (k + j) = m.read a k ++ m.read (a + k) j := by
    intro m a k j
    induction k generalizing a with
    | zero => simp [Memory.read]
    | succ k ih => rw [Nat.add_right_comm]; simp only [Memory.read, ih, List.cons_append]; rw [show a + 1 + k = a + (k + 1) by omega]
  rw [show (toBytes 8 v.toNat ++ toBytes 8 w.toNat).length = 8 + 8 by simp, e] at h
  have h' := List.append_inj h (by simp)
  simp only [Memory.read64, h'.1, leNat_toBytes_word v (by norm_num : 2 ^ 64 ≤ 256 ^ 8), BitVec.ofNat_toNat, BitVec.setWidth_eq]

theorem pair_hi (m : Memory) (a : Nat) (v w : Word64) : (m.write a (toBytes 8 v.toNat ++ toBytes 8 w.toNat)).read64 (a + 8) = w := by
  have h := read_write m a (toBytes 8 v.toNat ++ toBytes 8 w.toNat)
  have e : ∀ (m : Memory) (a k j : Nat), m.read a (k + j) = m.read a k ++ m.read (a + k) j := by
    intro m a k j
    induction k generalizing a with
    | zero => simp [Memory.read]
    | succ k ih => rw [Nat.add_right_comm]; simp only [Memory.read, ih, List.cons_append]; rw [show a + 1 + k = a + (k + 1) by omega]
  rw [show (toBytes 8 v.toNat ++ toBytes 8 w.toNat).length = 8 + 8 by simp, e] at h
  have h' := List.append_inj h (by simp)
  simp only [Memory.read64, h'.2, leNat_toBytes_word w (by norm_num : 2 ^ 64 ≤ 256 ^ 8), BitVec.ofNat_toNat, BitVec.setWidth_eq]

theorem cellAt_succ (n : Nat) : cellAt (n + 1) = cellAt n + 8 := by simp [cellAt]; omega

theorem barrier_put (s t : State) (n : Nat) (b : Barrier) (h : t.mem = (s.putBarrier n b).mem) : t.barrier n = b := by
  have e : t.barrier n = ⟨t.mem.read64 (cellAt n), (t.mem.read64 (cellAt (n+1))).getLsbD 0, (t.mem.read64 (cellAt (n+1))).getLsbD 1, (t.mem.read64 (cellAt (n+1))).getLsbD 2⟩ := rfl
  rw [e, h, State.putBarrier, mem_putPair, cellAt_succ, pair_lo, pair_hi]
  obtain ⟨c, x, y, z⟩ := b
  cases x <;> cases y <;> cases z <;> simp [Barrier.status]

end Sys2Proof.Laws
end

