-- ==== Sys2Proof/Laws/Scalars.lean ====
section
/-! SUPPORT. What the scalar words compute, in the terms claims use (R124, R390, R392). -/
namespace Sys2Proof.Laws
open Sys2Proof Sys2Proof.Machine

/-- A shift amount. -/
theorem amount_eq (b : Word64) : amount b = b.toNat % 64 := by simp [amount, BitVec.toNat_setWidth]

theorem boolWord_dec (p : Prop) [Decidable p] : boolWord (decide p) = if p then 1 else 0 := by
  by_cases h : p <;> simp [h, boolWord]

theorem aluFn_sar : aluSar = fun (a b : Word64) => BitVec.ofInt 64 (a.toInt >>> (b.toNat % 64)) := by
  funext a b; simp only [aluSar, amount_eq, ← BitVec.toInt_sshiftRight, BitVec.ofInt_toInt]

theorem aluFn_rol : aluRol = fun (a b : Word64) => (a <<< (b.toNat % 64)) ||| (a >>> (64 - b.toNat % 64)) := by
  funext a b; simp only [aluRol, amount_eq, BitVec.rotateLeft_def, Nat.mod_mod]

theorem aluFn_min : aluMin = fun (a b : Word64) => if a.toInt ≤ b.toInt then a else b := by
  funext a b; simp only [aluMin, BitVec.slt, decide_eq_true_eq]; split <;> split <;> first | rfl | omega

theorem aluFn_max : aluMax = fun (a b : Word64) => if a.toInt ≤ b.toInt then b else a := by
  funext a b; simp only [aluMax, BitVec.slt, decide_eq_true_eq]; split <;> split <;> first | rfl | omega | (apply BitVec.eq_of_toInt_eq; omega)

theorem aluFn_minu : aluMinu = fun (a b : Word64) => if a.toNat ≤ b.toNat then a else b := by
  funext a b; simp only [aluMinu, BitVec.ult, decide_eq_true_eq]; split <;> split <;> first | rfl | omega

theorem aluFn_maxu : aluMaxu = fun (a b : Word64) => if a.toNat ≤ b.toNat then b else a := by
  funext a b; simp only [aluMaxu, BitVec.ult, decide_eq_true_eq]; split <;> split <;> first | rfl | omega | (apply BitVec.eq_of_toNat_eq; omega)

theorem aluFn_mulh : aluMulh = fun (a b : Word64) => BitVec.ofInt 64 (a.toInt * b.toInt / 2 ^ 64) := by
  rfl

theorem aluFn_mulhu : aluMulhu = fun (a b : Word64) => BitVec.ofNat 64 (a.toNat * b.toNat / 2 ^ 64) := by
  rfl

theorem aluFn_shl : aluShl = fun (a b : Word64) => a <<< (b.toNat % 64) := by funext a b; simp only [aluShl, amount_eq]

theorem aluFn_shr : aluShr = fun (a b : Word64) => a >>> (b.toNat % 64) := by funext a b; simp only [aluShr, amount_eq]

theorem aluFn_seq : aluSeq = fun (a b : Word64) => if a = b then 1 else 0 := by
  funext a b; simp only [aluSeq, condEq]; by_cases h : a = b <;> simp [h, boolWord]

theorem aluFn_sne : aluSne = fun (a b : Word64) => if a = b then 0 else 1 := by
  funext a b; simp only [aluSne, condNe]; by_cases h : a = b <;> simp [h, boolWord]

theorem aluFn_slt : aluSlt = fun (a b : Word64) => if a.toInt < b.toInt then 1 else 0 := by
  funext a b; simp only [aluSlt, condLt, BitVec.slt, boolWord_dec]

theorem aluFn_sltu : aluSltu = fun (a b : Word64) => if a.toNat < b.toNat then 1 else 0 := by
  funext a b; simp only [aluSltu, condLtu, BitVec.ult, boolWord_dec]

theorem aluFn_rem : sdivRem = fun (a b : Word64) => if b = 0 then a else BitVec.ofInt 64 (a.toInt - b.toInt * a.toInt.tdiv b.toInt) := by
  funext a b; simp only [sdivRem, Int.tmod_def]

theorem aluFn_remu : sdivRemu = fun (a b : Word64) => BitVec.ofNat 64 (a.toNat % b.toNat) := by
  funext a b; simp only [sdivRemu]; split
  · rename_i h; subst h; simp
  · apply BitVec.eq_of_toNat_eq; rw [BitVec.toNat_umod, BitVec.toNat_ofNat]
    exact (Nat.mod_eq_of_lt (Nat.lt_of_le_of_lt (Nat.mod_le _ _) a.isLt)).symm

theorem aluFn_divu : sdivDivu = fun (a b : Word64) => if b = 0 then -1 else BitVec.ofNat 64 (a.toNat / b.toNat) := by
  funext a b; simp only [sdivDivu]; split
  · rfl
  · apply BitVec.eq_of_toNat_eq; rw [BitVec.toNat_udiv, BitVec.toNat_ofNat]
    exact (Nat.mod_eq_of_lt (Nat.lt_of_le_of_lt (Nat.div_le_self _ _) a.isLt)).symm

theorem aluFn_div : sdivDiv = fun (a b : Word64) => if b = 0 then -1 else BitVec.ofInt 64 (a.toInt.tdiv b.toInt) := by
  funext a b; simp only [sdivDiv]; rfl

theorem aluFn_fpeq : sfpEq = fun (a b : Word64) => if (fpIn a).cmp (fpIn b) = some 0 then 1 else 0 := by
  funext a b; simp only [sfpEq]; by_cases h : (fpIn a).cmp (fpIn b) = some 0 <;> simp [h, boolWord]

theorem aluFn_fplt : sfpLt = fun (a b : Word64) => match (fpIn a).cmp (fpIn b) with | some c => if c < 0 then 1 else 0 | none => 0 := by
  funext a b; simp only [sfpLt]; cases (fpIn a).cmp (fpIn b) <;> simp [boolWord]

theorem aluFn_fple : sfpLe = fun (a b : Word64) => match (fpIn a).cmp (fpIn b) with | some c => if c ≤ 0 then 1 else 0 | none => 0 := by
  funext a b; simp only [sfpLe]; cases (fpIn a).cmp (fpIn b) <;> simp [boolWord]

theorem popFrom_eq (a : Word64) (n : Nat) : popFrom a n = (List.range n).countP fun i => a.getLsbD i := by
  induction n with
  | zero => rfl
  | succ n ih => rw [popFrom, ih, List.range_succ, List.countP_append]; simp [List.countP_cons, Nat.add_comm]

theorem aluFn_pop : aluPop = fun (a : Word64) => BitVec.ofNat 64 ((List.range 64).countP fun i => a.getLsbD i) := by
  funext a; simp only [aluPop, popFrom_eq]

theorem ctzFrom_eq (a : Word64) (n k : Nat) (h : n + k = 64) : ctzFrom a n + k = ((List.range' k n).find? fun i => a.getLsbD i).getD 64 := by
  induction n generalizing k with
  | zero => simp [ctzFrom]; omega
  | succ n ih =>
    have hk : 63 - n = k := by omega
    rw [ctzFrom, List.range'_succ, List.find?_cons, hk]
    cases hb : a.getLsbD k
    · simp only [Bool.false_eq_true, if_false]; rw [← ih (k+1) (by omega)]; omega
    · simp

theorem aluFn_ctz : aluCtz = fun (a : Word64) => BitVec.ofNat 64 (((List.range 64).find? fun i => a.getLsbD i).getD 64) := by
  funext a; simp only [aluCtz]; rw [← Nat.add_zero (ctzFrom a 64), ctzFrom_eq a 64 0 rfl, List.range_eq_range']

theorem clzFrom_eq (a : Word64) (n : Nat) (h : a.toNat < 2 ^ n) : clzFrom a n = if a = 0 then n else n - 1 - a.toNat.log2 := by
  induction n with
  | zero =>
    have : a = 0 := BitVec.eq_of_toNat_eq (by simp at h ⊢; omega)
    simp [this, clzFrom]
  | succ n ih =>
    rw [clzFrom]
    cases hb : a.getLsbD n
    · have hb' : a.toNat.testBit n = false := hb
      have hlt : a.toNat < 2 ^ n := by
        rcases Nat.lt_or_ge a.toNat (2^n) with h' | h'
        · exact h'
        · have := Nat.testBit_eq_decide_div_mod_eq (x := a.toNat) (i := n)
          have hd : a.toNat / 2 ^ n = 1 := by
            apply Nat.div_eq_of_lt_le <;> [simpa using h'; (rw [Nat.pow_succ] at h; omega)]
          rw [hd] at this; simp [hb'] at this
      simp only [Bool.false_eq_true, if_false]
      rw [ih hlt]
      split
      · omega
      · have : a.toNat.log2 < n := (Nat.log2_lt (by rename_i hz; intro h0; exact hz (BitVec.eq_of_toNat_eq (by simpa using h0)))).2 hlt
        omega
    · have hb' : a.toNat.testBit n = true := hb
      have hz0 : ¬ a = 0#64 := by intro h0; subst h0; simp at hb'
      have hge : 2 ^ n ≤ a.toNat := Nat.ge_two_pow_of_testBit hb'
      have hz : a ≠ 0 := by intro h0; subst h0; simp at hb'
      have hl : a.toNat.log2 = n := by
        apply Nat.le_antisymm
        · exact Nat.le_of_lt_succ ((Nat.log2_lt (by omega)).2 h)
        · exact (Nat.le_log2 (by omega)).2 hge
      simp [hz0, hl]

theorem aluFn_clz : aluClz = fun (a : Word64) => BitVec.ofNat 64 (if a = 0 then 64 else 63 - a.toNat.log2) := by
  funext a; simp only [aluClz, clzFrom_eq a 64 a.isLt]

/-- A two-source word completes. -/
theorem bin_completes {g : Guard} {d a b : BitVec 6} {s v v1 v2 v3 : State} {x y : Word64} {e : Effect} {lat : Nat} {off : Act Unit}
    {f f' : Word64 → Word64 → Word64} (hf : f = f') (h : Issuing g s v) (ha : ReadsS v a x v1) (hb : ReadsS v1 b y v2) (hd : TakesS v2 d (f' x y) e v3) :
    issueFall g off (binAct lat f d a b) s = .next (issued 1 .fall (flying v3 lat e)) := by
  subst hf; exact issueFall_completes h (run_binAct ha hb hd)

/-- A one-source word completes. -/
theorem un_completes {g : Guard} {d a : BitVec 6} {s v v1 v2 : State} {x : Word64} {e : Effect} {lat : Nat} {off : Act Unit}
    {f f' : Word64 → Word64} (hf : f = f') (h : Issuing g s v) (ha : ReadsS v a x v1) (hd : TakesS v1 d (f' x) e v2) :
    issueFall g off (unAct lat f d a) s = .next (issued 1 .fall (flying v2 lat e)) := by
  subst hf; exact issueFall_completes h (run_unAct ha hd)

end Sys2Proof.Laws
end

