-- ==== Sys2Proof/Tests/Slice0.lean ====
section
/-! SUPPORT. The model's own tests: the checks of well-formedness, words written out from the spec's encodings, single steps, and for
each statement with hypotheses a state that meets them. -/
namespace Sys2Proof.Tests
open Sys2Proof Sys2Proof.Machine Sys2Proof.Claims

def g0 : Guard := ⟨0, 0, 0⟩

/-! ## Well-formedness: an ill-formed term for each check of R122 -/

def here : Ctx := Ctx.alone .as .array
def there : Ctx := Ctx.alone .xs .array
/-- The last word of a section. -/
def last : Ctx := { here with left := 0 }

theorem test_wf_ok : WellFormed here (.saluAdd g0 5 6 7) ∧ WellFormed there (.fenceS g0 32 5) ∧ WellFormed here (.vcvtCvt g0 1 2 0 0 0 0 3) := by
  decide

/-- Subcode 0x05: a bit that the form's fields do not use. -/
theorem test_wf_zero : ([.vldMod g0 1 9 0 33 0, .vldRow g0 1 1 9 0 33, .vldStr g0 1 1 1 9 0 33 0, .vstMod g0 1 9 0 33 0,
    .vstRow g0 1 1 9 0 33, .vstStr g0 1 1 1 9 0 33 0, .astartGo g0 32 1 0, .tcopyR g0 1 2 3 0 0 0 0 0 0 0 1,
    .tldR g0 1 2 3 0 0 0 0 0 0 1, .tcopyHi g0 1 2 0 0 1, .tcopyHo g0 1 2 0 0 1, .fenceS g0 1 8, .shsendT g0 1 (1#45 <<< 4),
    .valuMin g0 1 2 3 0 1 0 0, .valuAnd g0 1 2 3 9 0 1 0,
    .markQ g0 32 0, .markQ g0 0 256, .allocM g0 1 256, .sealT g0 1 2 1, .dropB g0 1 2 16, .dupN g0 1 2 0x100000, .caddI g0 0 16 0,
    .signalT g0 0 256, .minv g0 9, .mpop g0 1, .msetV g0 1 9, .lsendRld g0 1 2 3 4, .vcvtCvt g0 1 2 2 0 0 0 64] :
    List Instr).map (subcode here) = List.replicate 28 (some 0x05) := by decide

theorem test_wf_type : subcode here (.valuAdd g0 1 2 3 10 0 0 0) = some 0x06 := by decide

/-- Subcode 0x07: a rounding code above 3. -/
theorem test_wf_round : ([.valuAdd g0 1 2 3 2 4 0 0, .mdrainT g0 6 4 1 0 0 1] : List Instr).map (subcode here) = List.replicate 2 (some 0x07) := by
  decide

/-- Subcode 0x08: values beyond the limits of the entries. -/
theorem test_wf_limits : ([.valuAdd g0 1 2 3 9 0 0 0, .sysr g0 1 7, .sysw g0 1 0, .ovlyN g0 65536, .psetAnd g0 16 0 0 0, .psetOr g0 0 16 0 0,
    .psetXor g0 0 0 16 0, .psetAndn g0 0 0 0 2, .psetEq g0 16 0 0 0, .psetLt g0 0 0 0 2, .ldH g0 1 32 0, .stH g0 1 32 0, .ldCap g0 32 1 0,
    .stCap g0 32 1 0, .enterF g0 8, .enterF g0 0x100000, .brmzSkip g0 0, .brmzSkip g0 4095, .loopL g0 4 1, .loopS g0 4 1 1, .loopS g0 0 1 4095,
    .repeatN g0 65537, .signalT g0 32 0, .signalT g0 0 160, .signalS g0 1 32, .waitT g0 32, .waitN g0 0 0, .waitN g0 0 65536,
    .toksetI g0 0 65536, .toksetX g0 1 32 0, .fenceS g0 1 6, .retimeAt g0 1 65536, .waitvEq g0 1 2 3 6 0 0, .waitvNe g0 1 2 3 0 2 0,
    .markQ g0 0 64, .sstepS g0 1 0, .cappermAnd g0 1 2 256, .dupN g0 1 1 2, .dupN g0 1 31 2,
    .dropB g0 1 1 0, .mergeW g0 1 2 2, .mergeW g0 1 31 2, .allocT g0 1 11,
    .updT g0 1 1, .updM g0 1 1, .sealT g0 1 2 0x8000, .csetI g0 16 0, .csetI g0 0 0x80000000, .csetS g0 16 1,
    .caddS g0 16 1] : List Instr).map (subcode here) = List.replicate 50 (some 0x08) := by decide

theorem test_wf_limits2 : ([.gsetL g0 1 (1#96 <<< 48), .gsetR g0 1 2 (1#96 <<< 48), .tldR g0 16 1 0 0 0 0 0 0 0 0, .tldR g0 1 1 0 0 7 0 0 0 0 0,
    .tldR g0 1 1 0 15 1 0 0 0 0 0, .tldW g0 16 1 0, .tcopyR g0 1 2 0 0 0 56 0 0 0 0 0, .tcopyS g0 1 2 0 0 7 0 0 0 0 0, .tcopyW g0 1 2 56 0,
    .tcopyHi g0 1 2 56 0 0, .tcopyHo g0 1 2 56 0 0, .gatherK g0 16 1 1 0, .gatherV g0 16 1 1 0, .claimS g0 16, .releaseS g0 16,
    .mmaT g0 0 0 0 0 0 0 0 0, .mdrainT g0 5 0 1 0 0 1, .mzeroT g0 0 0 0, .maccR g0 0 0 0 0 0 0 1, .maccR g0 10 0 0 128 0 0 1, .tstatR g0 1 17,
    .vcvtCvt g0 1 2 0 0 0 0 0, .vcvtCvt g0 1 2 0 0 0 0 9, .vfshL g0 1 2 3 9 0 32, .vfshR g0 1 2 3 9 0 32, .vlrotRot g0 1 2 9 0 128,
    .vbcastLane g0 1 2 9 0 128, .vfunTanh g0 1 2 0 1 0 0, .vtopkVal g0 1 2 3 0 0 0, .vtopkIdx g0 1 2 3 0 0 4 65, .vldStr g0 1 2 3 9 0 4 128,
    .vstStr g0 1 2 3 9 0 4 128, .vmovsLane g0 1 9 2 128, .vmovsPair g0 1 9 2 1, .mgetM g0 8 0, .msetM g0 8 0, .vparkP g0 1 4 9 0,
    .astartGo g0 1 2 4096, .pamoAdd g0 1 2 3 6 0 0, .pamoCas g0 1 2 3 4 6 0 0, .pamoCas2 g0 1 1 2 4 0 0 0, .pamoCas2 g0 1 2 4 56 0 0 0,
    .pamoChase g0 1 2 0 2 0 0, .pamoRedAdd g0 1 2 0 1 0, .pamoHxch g0 1 6 0 0, .pldC g0 1 2 0 2 0, .pstC g0 1 2 0 1 0, .bcntP g0 1 2 0 1 0,
    .ltakeM g0 1 1, .ltakeP g0 1 56, .shretOpen g0 1 0 5 0, .shretOpen g0 1 0 0 11, .sbtblW g0 1 (3#96 <<< 62), .sbtblW g0 1 1,
    .sbtblW g0 1 (1#96 <<< 53), .sbtblW g0 1 ((1#96 <<< 62) ||| (1#96 <<< 40)), .sbtblW g0 1 (1#96 <<< 64)] : List Instr).map (subcode here) =
    List.replicate 57 (some 0x08) := by decide

/-- Attention cores park below column 512 and have 128 accumulator rows; the other class does not. -/
theorem test_wf_class : (subcode (Ctx.alone .as .attention) (.vparkP g0 1 2 9 0), subcode here (.vparkP g0 1 2 9 0),
    subcode (Ctx.alone .as .attention) (.maccR g0 10 128 0 0 0 0 1), subcode here (.maccR g0 10 128 0 0 0 0 1)) =
    (some 0x08, none, some 0x08, none) := by decide

/-- Subcode 0x08 where the words that follow decide: a region past the section's end, a REPEAT before a branch. -/
theorem test_wf_region : (subcode last (.brmzSkip g0 1), subcode { here with word := fun _ => 0x21#96 <<< 88 } (.repeatN g0 2), subcode last (.repeatS g0 1)) =
    (some 0x08, some 0x08, some 0x08) := by decide

/-- Subcode 0x09: queue ends. -/
theorem test_wf_queues : ([.saluAdd g0 1 56 2, .saluAdd g0 58 1 2, .saluAdd g0 61 1 2] : List Instr).map (subcode here) =
      List.replicate 3 (some 0x09) ∧
    ([.saluAdd g0 1 58 2, .saluAdd g0 1 60 2, .saluAdd g0 56 1 2, .saluAdd g0 61 1 2] : List Instr).map (subcode there) =
      List.replicate 4 (some 0x09) := by decide

/-- Subcode 0x0A: literals. -/
theorem test_wf_literals : ([.lit g0 1 0, .gsetL g0 1 0, .gsetR g0 1 2 0, .sbtblW g0 1 0] : List Instr).map (subcode last) =
      List.replicate 4 (some 0x0A) ∧ subcode here (.lit g0 1 (1#96 <<< 64)) = some 0x0A := by decide

/-! ## Words as the reference entries of the spec print them -/

/-- The word decodes where it may stand. -/
abbrev Reads (w : Nat) (i : Instr) : Prop := decodeTableWord 96 w = some i

theorem test_decode_nop : Reads 0 (.nop g0) := by rfl
theorem test_decode_trap : Reads 0x020010000000000000000700 (.trapSw ⟨0, 0, 1⟩ 7) := by rfl
theorem test_decode_sysw : Reads 0x0500000B0800000000000000 (.sysw g0 11 8) := by rfl
theorem test_decode_ovly : Reads 0x060000000000000000000700 (.ovlyN g0 7) := by rfl
theorem test_decode_dlaunch : Reads 0x080001460000000000000000 (.dlaunchP g0 5 6) := by rfl
theorem test_decode_salui : Reads 0x110001400000000000002800 (.saluiAdd g0 5 0 40) := by rfl
theorem test_decode_sdiv : Reads 0x120001461C00000000000000 (.sdivDiv g0 5 6 7) := by rfl
theorem test_decode_sfp : Reads 0x130001461C80300000000000 (.sfpFma g0 5 6 7 8) := by rfl
theorem test_decode_pset : Reads 0x140000D40001900000000000 (.psetNe g0 3 20 0 0) := by rfl
/-- LIT's second word is its literal. -/
theorem test_decode_lit : decodeTableWord 192 (0x123456789ABCDEF0 * 2 ^ 96 + 0x150003000000000000000000) =
    some (.lit g0 12 0x123456789ABCDEF0) := by rfl
theorem test_decode_ldP : Reads 0x160002400000000000800000 (.ldP g0 9 0 0x8000) := by rfl
theorem test_decode_stP : Reads 0x170002400000000000800000 (.stP g0 9 0 0x8000) := by rfl
theorem test_decode_ldCap : Reads 0x160000DA0200000000004000 (.ldCap g0 3 26 0x40) := by rfl
theorem test_decode_enter : Reads 0x180000000000000000002000 (.enterF g0 32) := by rfl
theorem test_decode_pbr : Reads 0x200002000000000000006000 (.pbrO g0 1 0x60) := by rfl
theorem test_decode_br : Reads 0x213030000000000000000000 (.brGo ⟨3, 0, 3⟩ 0) := by rfl
theorem test_decode_brq : Reads 0x220002000000000000000000 (.brqT g0 1) := by rfl
theorem test_decode_brmz : Reads 0x230000000000000000000500 (.brmzSkip g0 5) := by rfl
theorem test_decode_call : Reads 0x240044000000000000000000 (.callGo ⟨0, 0, 4⟩ 2) := by rfl
theorem test_decode_ret : Reads 0x250000000000000000000000 (.retGo g0) := by rfl
theorem test_decode_loopL : Reads 0x260000020000000000000600 (.loopL g0 2 6) := by rfl
theorem test_decode_repeat : Reads 0x270000000000000000001000 (.repeatN g0 16) := by rfl
theorem test_decode_waitN : Reads 0x310000050100000000000400 (.waitN g0 5 4) := by rfl
theorem test_decode_toksetX : Reads 0x320001050100000000000000 (.toksetX g0 4 5 0) := by rfl
theorem test_decode_fence : Reads 0x330008000000000000000400 (.fenceS g0 32 4) := by rfl
theorem test_decode_waitv : Reads 0x3500039670008D0000000003 (.waitvAny g0 7 11 14 3 1 3) := by rfl
theorem test_decode_mark : Reads 0x360000070000000000000600 (.markQ g0 7 6) := by rfl
theorem test_decode_sstep : Reads 0x3700000C0000000000100000 (.sstepS g0 12 4096) := by rfl
theorem test_decode_capset : Reads 0x400003900480000000000000 (.capsetB g0 7 4 9) := by rfl
theorem test_decode_captest : Reads 0x4400000C0280800000800000 (.captestIn g0 3 5 256) := by rfl
theorem test_decode_dup : Reads 0x4500020C0000000000000000 (.dupN g0 4 3 0) := by rfl
theorem test_decode_movh : Reads 0x4700087C0000000000000000 (.movhM g0 16 31) := by rfl
theorem test_decode_merge : Reads 0x480001086000000000000000 (.mergeW g0 2 2 3) := by rfl
theorem test_decode_alloc : Reads 0x490000800000000000010000 (.allocT g0 1 2) := by rfl
theorem test_decode_isunq : Reads 0x4A0000080300800000000000 (.isunqX g0 2 6) := by rfl
theorem test_decode_updM : Reads 0x4B0002880000800000000000 (.updM g0 5 2) := by rfl
theorem test_decode_gset : decodeTableWord 192 (0x700000 * 2 ^ 96 + 0x50000000A000000000000000) = some (.gsetL g0 5 0x700000) := by rfl
theorem test_decode_cadd : Reads 0x520000C30000000000004000 (.caddI g0 3 3 64) := by rfl
theorem test_decode_tldR : Reads 0x5300010C80400000000073F0 (.tldR g0 2 3 4 0 1 0 0 0 0 0x073F0) := by rfl
theorem test_decode_tcopyW : Reads 0x54000088000C100000000000 (.tcopyW g0 1 2 12 0) := by rfl
theorem test_decode_gather : Reads 0x550000880009000000000000 (.gatherK g0 1 2 9 0) := by rfl
theorem test_decode_append : Reads 0x560001880009000000000000 (.appendKv g0 3 2 9) := by rfl
theorem test_decode_claim : Reads 0x570001800000000000000000 (.claimS g0 3) := by rfl
theorem test_decode_release : Reads 0x580001800000000000000000 (.releaseS g0 3) := by rfl
theorem test_decode_mzero : Reads 0x620000000100100FC0000000 (.mzeroT g0 1 64 63) := by rfl
theorem test_decode_tstat : Reads 0x640002420000000000000000 (.tstatR g0 9 2) := by rfl
theorem test_decode_vcmp : Reads 0x720001010801A20000000000 (.vcmpLt g0 4 1 2 2 0) := by rfl
theorem test_decode_vcvt : Reads 0x730001440000021002600000 (.vcvtCvt g0 5 4 2 0 1 0 0x13) := by rfl
theorem test_decode_vlrot : Reads 0x760002880000190060000000 (.vlrotRots g0 10 8 9 0 3) := by rfl
theorem test_decode_vperm : Reads 0x770000810C00090000000000 (.vpermIdx g0 2 1 3 9 0) := by rfl
theorem test_decode_vbcast : Reads 0x780000800000090120000000 (.vbcastS g0 2 9 0 9) := by rfl
theorem test_decode_vred : Reads 0x790002480000020000000000 (.vredAdd g0 9 8 2 0 0 0) := by rfl
theorem test_decode_vfun : Reads 0x7A0001850000020000000000 (.vfunExp g0 6 5 2 0 0 0) := by rfl
theorem test_decode_vst : Reads 0x7D00000155903900A3E00000 (.vstStr g0 1 21 25 9 0 5 31) := by rfl
theorem test_decode_vsel : Reads 0x7F0001410830090000000000 (.vselBit g0 5 1 2 3 9 0) := by rfl
theorem test_decode_mpush : Reads 0x800000145401900000000000 (.mpushNe g0 20 21 0) := by rfl
theorem test_decode_vpark : Reads 0x8500000C0010090005800000 (.vparkP g0 12 1 9 0x2C) := by rfl
theorem test_decode_vunpark : Reads 0x860003000000090000000000 (.vunparkU g0 12 9) := by rfl
theorem test_decode_pst : Reads 0xA20002004800000000000020 (.pstC g0 4 9 0 0 0x20) := by rfl
theorem test_decode_bcnt : Reads 0xA300038078000E0000000010 (.bcntP g0 7 15 3 2 0x10) := by rfl

/-- The sequencers of a core are told apart by their queue ends (R125). -/
theorem test_decode_queue_ends : (∃ i, decode (Ctx.alone .as .array) 0x10000E020C00000000000000 0 = .ok i) ∧
    decode (Ctx.alone .xs .array) 0x10000E020C00000000000000 0 = .error 0x09 := ⟨⟨_, rfl⟩, rfl⟩

theorem test_decode_reserved : decode here (0x0A#96 <<< 88) 0 = .error 0x01 ∧ decode here (0xFD#96 <<< 88) 0 = .error 0x01 ∧
    decode here (0x10#96 <<< 88 ||| 1) 0 = .error 0x05 := ⟨rfl, rfl, rfl⟩

theorem test_decode_micro : decodeMicro 0x1C00000000000000 = some .microWalk ∧ decodeMicro 0x2C80280000000000 = some (.microBnz 0 2 10) :=
  ⟨rfl, rfl⟩

/-! ## Steps -/

/-- Whether the next step is the issue of this word. -/
noncomputable def runs (nbits w : Nat) : Bool :=
  match step (State.reset.withFetchWord nbits w) with
  | .next s => decide (s.note = .issued)
  | _ => false

theorem test_step_scalar : runs 96 0x120001461C00000000000000 = true := by rfl
theorem test_step_branch_register : runs 96 0x200002000000000000006000 = true := by rfl
theorem test_step_literal : runs 192 (5 * 2 ^ 96 + 0x150003000000000000000000) = true := by rfl
theorem test_step_private : runs 96 0x160002400000000000800000 = true := by rfl

/-- A capability word whose operand is the null handle traps (R72). -/
theorem test_step_trap : (match step (State.reset.withFetchWord 96 0x400003900480000000000000) with
  | .next s => match s.note with | .faulted f => f.cls == .capability | _ => false
  | _ => false) = true := by rfl

/-- A micro-operation runs (R250). -/
theorem test_step_micro : (match step (State.reset.withFetchWord 64 0x1C00000000000000) with | .next _ => true | _ => false) = true := by rfl

/-- LIT s12 writes its literal a cycle later (R114, R128). -/
theorem test_lit_result : (match step (State.reset.withFetchWord 192 (5 * 2 ^ 96 + 0x150003000000000000000000)) with
  | .next s => (s.cons 0).latches.map fun l => (l.due, l.eff)
  | _ => []) = [(1001, .setS 12 5)] := by rfl

/-! ## States that meet the hypotheses of the statements -/

/-- Core `core` of a running consist of one core, its sequencer q at a word that issues, registers as the arguments set them. -/
def ready (core : Nat) (q : SeqId) (sq : Seq → Seq) (k : Core → Core) : State :=
  let c := k { Core.reset with part := some 0, consist := some 0 }
  let at_ := fun (x : Seq) => sq { x with at_ := fetchAt 1000 0, streamLo := 0, streamHi := 0x4000 }
  let c := match q with
    | .as => { c with as := at_ c.as }
    | .xs => { c with xs := at_ c.xs }
  { State.reset with cur := (core, q), cores := [(core, c)], consists := [(0, runningConsist core 1000)] }

/-- A pointer to all of private memory, cursor 0x100. -/
def hPriv : Cap := pointerCap true 2 0xFF 4 0 0x10000 0 0x100
/-- A pointer to all porter cells. -/
def hCell : Cap := pointerCap true 3 0xFF 18 0 0x20000 0 0
/-- Storage in the tile store of core 0: a tile, unique, and a blank. -/
def hTile : Cap := handleCap 1 kTile 0xFF (2 ^ 20) 0 0 0x1000
def hTile2 : Cap := handleCap 1 kTile 0xFF (2 ^ 19) 0 0 0x1000
def hBlank : Cap := handleCap 1 kBlank 0xFF (2 ^ 20) 0 0 0x2000
/-- A pointer into the KV space, and one to a peer. -/
def hKv : Cap := pointerCap true 5 0xFF 18 0 0x20000 0 0x100
def hPeer : Cap := pointerCap true 6 0xFF 35 0 0x20000 0 (3#6 ++ 0#58)
/-- A pointer to HBM, and one to host memory. -/
def hHbm : Cap := pointerCap true 0 0xFF 18 0 0x20000 0 0x100
def hHost : Cap := pointerCap true 7 0xFF 18 0 0x20000 0 0x100

def richSeq (q : Seq) : Seq :=
  { q with
    s := [(1, 0x100), (2, 7), (3, 0x200), (4, 1), (62, 0xFE000), (63, 0xFF000)]
    h := [(1, hPriv), (2, hCell), (3, hTile), (4, hBlank), (5, hKv), (6, hTile2), (7, hTile2), (8, hPeer), (9, hHbm), (10, hHost), (11, nullCap)]
    b := [(1, ⟨true, false, 0x2000, 900⟩)], retRecs := [0xFF000] }

def tileEntry : DirEntry := { DirEntry.reset with state := .live, fmt := 0, rows := 8, cols := 8, cls := 2, total := 2 ^ 20, base := 0x1000, space := 1 }
def blankEntry : DirEntry := { DirEntry.reset with state := .blank, cls := 2, total := 2 ^ 20, base := 0x2000, space := 1 }

/-- A section of one NOP at syllable 0x2000, its header's CRC right. -/
def section_ : Memory := (⟨[], [], []⟩ : Memory).setBytes (syllAt 0x2000) (toBytes 8 (0xFF#8 ++ 1#12 ++ 5#14 ++ 0#14 ++ 0#4 ++ 0x8A2#12 : Word64).toNat)

def withStores (s : State) : State :=
  { s with stores := { s.stores with dir := [(hTile.key, tileEntry), (hBlank.key, blankEntry)] }, mem := section_ }

def rich : State := withStores (ready 0 .as richSeq id)
def richA : State := withStores (ready 96 .xs richSeq id)

theorem rich_due : rich = performDue rich 0 := by rfl
theorem richA_due : richA = performDue richA 0 := by rfl

/-- What every statement about a word asks first; the statements of one clause ask no more. -/
theorem witness_Issuing : Issuing g0 rich rich ∧ Issuing g0 richA richA :=
  ⟨⟨by decide, by rfl, by decide, by decide⟩, ⟨by decide, by rfl, by decide, by decide⟩⟩

theorem witness_ScalarResults : ReadsS rich 1 0x100 rich ∧ ReadsS rich 2 7 rich ∧ ReadsS rich 0 0 rich ∧ TakesS rich 3 12 (.setS 3 12) rich ∧
    TakesS rich 0 12 .mark rich ∧ PsetEnds rich 1 0 true (flying rich 1 (.setP 1 true)) ∧ PsetEnds rich 0 0 true (flying rich 1 .mark) :=
  ⟨rfl, rfl, rfl, rfl, rfl, rfl, rfl⟩

theorem witness_PsetPush : ∃ t, PsetEnds rich 1 1 true t := ⟨_, _, _, rfl, rfl⟩

def ovl : Overlay :=
  { part := 0, num := 7, banks := [], lenA := 0, lenX := 0, startX := 0, shape := none, cls := .array, needs := [], loops := [], cells := []
    handleCells := [], tokens := [], geomLo := 0x700000, geomHi := 0x800000, storage := [], mask := 0 }

/-- The overlays 0 and 7 are loaded; the core's other sequencer has named overlay 7. -/
def overlaid : State :=
  let s := ready 0 .as richSeq fun k => { k with xs := { k.xs with at_ := { Place.idle with stop := .ovly 7 } } }
  { s with disp := { s.disp with overlays := [{ ovl with num := 0 }, ovl] } }

theorem witness_SystemWords : Issuing g0 overlaid overlaid ∧ (rich.cons 0).trapT = none ∧ (rich.cons 0).next = none ∧
    queuesEmpty (rich.core 0) = true ∧ othersAgree overlaid 7 = true ∧ overlaid.overlay? 0 7 = some ovl ∧
    overlayFits overlaid (overlaid.cons 0) ovl = true ∧ ReadsS rich 1 0x100 rich ∧ 0x100 % 64 = 0 :=
  ⟨⟨by decide, by rfl, by decide, by decide⟩, by decide, by decide, by decide, by decide, by rfl, by decide, by rfl, rfl⟩

/-- A handler runs. -/
def handling (s : State) : State := { s with consists := s.consists.map fun c => (c.1, { c.2 with trapT := some 990 }) }

theorem witness_HandlerReturn : Issuing g0 (handling rich) (handling rich) ∧ ((handling rich).cons 0).trapT.isSome = true :=
  ⟨⟨by decide, by rfl, by decide, by decide⟩, by decide⟩

theorem witness_RegisterWords : TakesS rich 12 5 (.setS 12 5) rich ∧ ReadsS rich 1 0x100 rich ∧
    TakesS rich 9 (Tbl.get 0 (rich.core 0).status 16) (.setS 9 0) rich := ⟨rfl, rfl, rfl⟩

theorem witness_PrivateLoadStore : PrivateOk (0x100 + (0xFFF00 : BitVec 48).signExtend 64 - 16) 16 ∧ PrivateOk (0xFFFF8 : Word64) 8 ∧ PrivateOk (0 : Word64) 8 ∧
    (∃ e w, TakesS rich 5 (rich.mem.read64 (privAt 0 0xFFFF8)) e w) ∧ (∃ e w, TakesH rich 12 (rich.mem.readCap (privAt 0 0xFFFF0)) e w) ∧
    ReadsH rich 4 hBlank rich ∧ CapOk rich hBlank [kPointer, kTile, kBlank, kNull] ∧ hBlank.has pL = true ∧
    rich.writesOut 0 hBlank.key = false := by
  unfold PrivateOk CapOk
  exact ⟨by decide, by decide, by decide, ⟨_, _, rfl⟩, ⟨_, _, rfl⟩, rfl, by decide, by decide, by decide⟩

theorem witness_HandleLoadStore : ReadsH rich 1 hPriv rich ∧ ReadsH rich 4 hBlank rich ∧ ReadsH rich 9 hHbm rich ∧
    Access8Ok rich hPriv [kTile, kBlank, kPointer] pR [0, 1, 2] 0x100 ∧ Access8Ok rich hTile [kTile, kBlank, kPointer] pR [0, 1, 2] 0x1000 ∧
    Access8Ok rich hHbm [kTile, kBlank, kPointer] pR [0, 1, 2] 0x100 ∧ Access8Ok rich hPriv [kBlank, kPointer] pW [2] 0xFFFF8 ∧
    Access8Ok rich hBlank [kBlank, kPointer] pW [0, 1] 0x2000 ∧ (rich.core 0).borrowed hBlank.key = false ∧
    tileRange 0x2000 8 = some (0, tileAt 0 0x2000) := by
  unfold Access8Ok CapOk
  exact ⟨rfl, rfl, rfl, by decide, by decide, by decide, by decide, by decide, by decide, by rfl⟩

theorem witness_StackFrames : let q := rich.seq 0 .as
    Tbl.get 0 q.s 63 = (0xFF000 : Word64) ∧ Tbl.get 0 q.s 62 = (0xFE000 : Word64) ∧ q.stlimit.toNat ≤ q.stbase.toNat ∧
    q.stlimit.toNat + 16 + (0x6FF0 : BitVec 48).toNat ≤ 0xFF000 ∧ PrivateOk (0xFF000 - 16 : Word64) 16 ∧ 0xFE000 + 16 ≤ q.stbase.toNat ∧
    PrivateOk (0xFE000 : Word64) 16 := by
  unfold PrivateOk; decide

theorem witness_ControlFlow : (rich.seq 0 .as).at_.start = false ∧ (rich.seq 0 .as).at_.rep = none ∧ (rich.seq 0 .as).at_.loops = [] ∧
    (rich.seq 0 .as).at_.pc + 3 < (rich.seq 0 .as).at_.secEnd := by decide

/-- The word is the last of a loop whose counter is 2, and of its section. -/
def looping : State := ready 0 .as (fun q => { q with
  lc := [(1, 2)], at_ := { q.at_ with secEnd := 5, loops := [⟨1, none, 2, 5⟩] } }) id

theorem witness_LoopGoesRound : Issuing g0 looping looping ∧ (looping.seq 0 .as).at_.loops = [⟨1, none, 2, 5⟩] ∧
    5 = (looping.seq 0 .as).at_.pc + 3 * 1 ∧ Tbl.get 0 (looping.seq 0 .as).lc 1 ≠ 0 ∧ (looping.seq 0 .as).at_.rep = none :=
  ⟨⟨by decide, by rfl, by decide, by decide⟩, by decide, by decide, by decide, by decide⟩

theorem witness_BranchTargets : ((rich.seq 0 .as).at_.pc : Int) + (0x1FFE : BitVec 48).toInt = (0x2000 : Nat) ∧ rich.targetOk (rich.seq 0 .as) 0x2000 = true ∧
    ¬ (0 ≤ ((rich.seq 0 .as).at_.pc : Int) + (-3 : BitVec 48).toInt) := ⟨by decide, by decide +kernel, by decide⟩

theorem witness_Branches : (rich.seq 0 .as).breg 1 = ⟨true, false, 0x2000, 900⟩ ∧ ((rich.seq 0 .as).breg 1).ready rich.ttc = true ∧
    rich.branchOk (rich.seq 0 .as) ((rich.seq 0 .as).breg 1) = true ∧ (rich.core 0).top ≠ 0 := ⟨by decide, by decide, by decide +kernel, by decide⟩

/-- A branch outcome waits; no lane is on. -/
def queued : State := withStores (ready 0 .as richSeq fun k => { k with dq := [(4, [⟨0, .val 1⟩])], masks := [0] })

theorem witness_BranchOutcome : Issuing g0 queued queued ∧ (∃ w, (popQ 4).run queued = .ok (some 1, w) ∧ ((w.seq w.cur.1 w.cur.2).breg 1).ready w.ttc = true ∧
    w.branchOk (w.seq w.cur.1 w.cur.2) ((w.seq w.cur.1 w.cur.2).breg 1) = true) ∧ (queued.core 0).top = 0 :=
  ⟨⟨by decide, by rfl, by decide, by decide⟩, ⟨_, rfl, by decide, by decide +kernel⟩, by decide⟩

/-- A CALL's record lies at sp: it returns to the section's header. -/
def called : State :=
  let s := withStores (ready 0 .as (fun q => { richSeq q with streamLo := 0x2000 }) id)
  { s with mem := s.mem.write (privAt 0 0xFF000) (toBytes 8 (returnWord 5 0x2000).toNat ++ toBytes 8 0) }

theorem witness_CallAndReturn : Issuing g0 called called ∧ 0xFF000 ∈ (called.seq 0 .as).retRecs ∧
    returnRecord called 0 .as 0xFF000 = toBytes 8 (returnWord 5 0x2000).toNat ++ toBytes 8 0 ∧
    findSection called (called.seq 0 .as) 0x2000 (0x4000 - 0x2000) 0x2000 = some (0x2000, true) ∧
    findSection called (called.seq 0 .as) 0x2002 (0x4000 - 0x2000) 0x2000 = some (0x2000, false) ∧ hdrNum (called.mem.header 0x2000) = 5 ∧
    called.branchOk (called.seq 0 .as) ((called.seq 0 .as).breg 1) = true :=
  ⟨⟨by decide, by rfl, by decide, by decide⟩, by decide, by decide, by decide +kernel, by decide +kernel, by decide +kernel, by decide +kernel⟩

def trained : Train :=
  { num := 0, part := 0, prio := 0, cls := .array, c := 1, e := 1, tag := 0, overlay := 0, loops := [0x1000000000000000, 5], first := 0, count := 1
    preds := [], arg := 0, cell := 0, notifyTrain := false, notifyCar := false, vec := [], taken := 1, done := 0, seqNo := 0, aborted := false }

def onTrain : State := let s := ready 0 .as richSeq id
  { s with disp := { s.disp with trains := [trained] } }

theorem witness_LoopsAndRepeats : Issuing g0 onTrain onTrain ∧ (onTrain.cons 0).trapT = none ∧ loopLevel onTrain 0 0 = some (5, 0) ∧ ReadsS onTrain 2 7 onTrain ∧
    (onTrain.seq 0 .as).at_.loops = [] :=
  ⟨⟨by decide, by rfl, by decide, by decide⟩, by decide, by decide, by rfl, by decide⟩

/-- A token with three counts; tokens of core 0 and of another core of the partition. -/
def tokened : State := ready 0 .as richSeq fun k => { k with tok := [(5, 3)] }

theorem witness_SynchronisationWords : Issuing g0 tokened tokened ∧ (tokened.core 0).part = (tokened.core 0).part ∧ 4 ≤ tokenLeft tokened 0 5 + 1 ∧
    tokenLeft tokened 0 6 < 1 ∧ (tokened.seq 0 .as).at_.req = none ∧ (∃ e w, TakesS tokened 32 0 e w) ∧ (tokened.cons tokened.curCons).trapT = none ∧
    (∀ q ∈ [1, 2], (tokened.core 0).room q = true) ∧ tokened.ptc < 7 + 1 ∧ (tokened.core 0).sstep = none :=
  ⟨⟨by decide, by rfl, by decide, by decide⟩, by decide, by decide, by decide, by decide, ⟨_, _, rfl⟩, by decide, by decide, by decide, by decide⟩

theorem witness_PorterWords : ReadsH rich 2 hCell rich ∧ ReadsS rich 2 7 rich ∧ CellOk rich hCell 0 false 0 ∧ CellOk rich hCell 0x3F false 63 ∧
    CellOk rich hCell 0x40 true 64 ∧ RoomIn rich qPorter := by
  unfold CellOk CapOk RoomIn
  exact ⟨rfl, rfl, by decide, by decide, by decide, by decide⟩

theorem witness_PorterResult : ∃ e w, TakesS rich 5 0 e w ∧ RoomIn (awaiting w (2 * rich.dP 0 + 12) 2 e) qPorter :=
  ⟨_, _, rfl, by unfold RoomIn; decide⟩

/-- An operation, or an arrival, is at its porter. -/
def atPorter (op : CellOp) (arrival : Option Nat) : State × PorterReq :=
  let r : PorterReq := { id := 3, core := 0, seq := .as, syll := 2, part := 0, op := op, cell := 0, v := 0, v2 := 0, w := 5, w2 := 6, cap := hTile
                         links := 1, arrival := arrival, latches := [], entry := none, at_ := 0 }
  ({ rich with stores := { rich.stores with cellInbox := [r] }, disp := { rich.disp with overlays := [ovl] } }, r)

theorem witness_HomeEvents : let r : HomeReq := ⟨4, 0, hTile.key, .weight 5, 0, (0, 0)⟩
    let s : State := { rich with stores := { rich.stores with inbox := [r] } }
    s.stores.inbox.find? (fun q => q.id == 4) = some r ∧ (s.die (porterDie r.porter)).state ≠ .reset ∧
    (s.dirEntry r.key).state = .live ∧ isUpd s 0 4 = false := ⟨rfl, by decide, by decide, by decide⟩

theorem witness_CapabilityWords : ReadsH rich 1 hPriv rich ∧ CapOk rich hPriv [kPointer] ∧ ReadsS rich 3 0x200 rich ∧
    (∃ r, capset hPriv 0x200 true = some r) ∧ (∃ r e w, capset hPriv 0x40001 false = some r ∧ TakesH rich 12 r e w) ∧
    CapOk rich hTile [kPointer, kTile, kBlank, kNull] ∧ (∃ e w, TakesH rich 12 (hPriv.setCursor 0x300) e w) ∧
    (0x200 : Word64).extractLsb' 52 5 = 0 := by
  unfold CapOk
  exact ⟨rfl, by decide, rfl, ⟨_, rfl⟩, ⟨_, _, _, rfl, rfl⟩, by decide, ⟨_, _, rfl⟩, by decide⟩

theorem witness_CapabilitiesNarrow : hPriv.kind = kPointer ∧ (capset hPriv 0 true).isSome = true ∧ (capset hPriv 0xFFF00 false).isSome = true ∧
    (capset hPriv 0x100000 false).isSome = false := by decide

theorem witness_WeightWords : ReadsH rich 3 hTile rich ∧ CapOk rich hTile [kTile] ∧ hTile.has pD = true ∧ hTile.weight ≠ 1 ∧ hTile.weight = 2 ^ 20 ∧
    hTile.xg = 0 ∧ (∃ e w, TakesH (flying rich 1 (.setH 3 (hTile.withWeight (2 ^ 19) 0))) 12 (hTile.withWeight (2 ^ 19) 0) e w) ∧
    ReadsH rich 6 hTile2 rich ∧ ReadsH rich 7 hTile2 rich ∧ CapOk rich hTile2 [kTile] ∧ ReadsH rich 4 hBlank rich ∧ hBlank.kind = kBlank := by
  unfold CapOk
  exact ⟨rfl, by decide, by decide, by decide, by decide, by decide, ⟨_, _, rfl⟩, rfl, rfl, by decide, rfl, by decide⟩

/-- A DUP's request has been answered. -/
def extended_ : State :=
  let s := ready 0 .as (fun q => { richSeq q with h := [(3, hTile.withWeight 1 0)], at_ := { q.at_ with req := some 9 } }) id
  { s with stores := { s.stores with answers := [(9, 0, .extended 1)] } }

theorem witness_DupExtends : Issuing g0 extended_ extended_ ∧ ReadsH extended_ 3 (hTile.withWeight 1 0) extended_ ∧ (extended_.seq 0 .as).at_.req = some 9 ∧
    extended_.stores.answers.find? (fun a => a.1 == 9) = some (9, 0, .extended 1) :=
  ⟨⟨by decide, by rfl, by decide, by decide⟩, rfl, by decide, rfl⟩

theorem witness_StorageWords : ReadsH rich 3 hTile rich ∧ (hTile.weight = 2 ^ 20 ∧ hTile.xg = 0) ∧ ¬ (hTile2.weight = 2 ^ 20 ∧ hTile2.xg = 0) ∧
    CapOk rich hTile [kTile] ∧ CapOk rich hTile2 [kTile] ∧ hTile.space.toNat ∈ [0, 1] ∧ ReadsH rich 4 hBlank rich ∧ CapOk rich hBlank [kBlank] ∧ hBlank.has pS = true ∧
    tileBytes 8 8 0 ≤ classSize (rich.dirEntry hBlank.key).cls ∧ rich.writesOut 0 hBlank.key = false ∧ (∃ e w, TakesH rich 12 nullCap e w) := by
  unfold CapOk
  exact ⟨rfl, by decide, by decide, by decide, by decide, by decide, rfl, by decide, by decide, by decide, by decide, ⟨_, _, rfl⟩⟩

/-- Partition 0 with cells, a KV region and system space. -/
def granted (s : State) : State :=
  { s with disp := { s.disp with parts := [(0, { Partition.reset with grant := { GrantSet.none with hbm := [(0, 2 ^ 38)], cells := [(0, 100)], kv := some (0, 2 ^ 20), system := true } })] } }

theorem witness_PorterOperations : [CellOp.add, .cas, .redMax, .ld, .cas2, .hxch, .bcnt, .waitv 0 false].all (fun op =>
    let x := atPorter op none
    (granted x.1).porterHead 0 false == some x.2 && decide (((granted x.1).die (dieOfPorter (porterOf x.2.cell))).state ≠ .reset) &&
      (porterRefuses (takeRequest (granted x.1) x.2) x.2).isNone && !(granted x.1).cellPoisoned x.2.cell) = true := by decide

theorem witness_PorterEnqueue : let x := atPorter .enq none
    let r := { x.2 with v := 5 }
    let s : State := granted { x.1 with stores := { x.1.stores with cellInbox := [r] } }
    s.porterHead 0 false = some r ∧ porterRefuses (takeRequest s r) r = none ∧ s.cellPoisoned r.cell = false := by decide

theorem witness_BarrierArrivalsAndPolls : let x := atPorter .bcnt (some 256)
    Takes (granted x.1) 0 x.2 true ∧
    (let s : State := { x.1 with cores := x.1.cores.map fun (c : Nat × Core) => (c.1, { c.2 with polls := [({ x.2 with op := .waitv 0 true }, 0, 4)] }) }
     (s.core 0).polls.find? (fun p => decide (p.2.1 ≤ s.clk)) = some ({ x.2 with op := .waitv 0 true }, 0, 4)) := by
  unfold Takes; decide

def geomOk : Geom := ⟨2, 0, 0, [64, 64], [4, 256]⟩
def feeding : State := withStores (ready 0 .as richSeq fun k => { k with
  slots := [(1, { Slot.reset with state := .claimedEmpty }), (2, { Slot.reset with state := .claimedFilled })], g := [(1, geomOk)], dq := [(7, [⟨0, .val 0x1100000000000000⟩])] })

theorem witness_SlotAndGeometryWords : Issuing g0 feeding feeding ∧ overlaid.activeOverlay = some { ovl with num := 0 } ∧ ovl.geomLo ≤ 0x700000 ∧ 0x7FFFFF < ovl.geomHi ∧
    ReadsH rich 9 hHbm rich ∧ UseOk rich hHbm [kPointer] pR [0, 5] ∧ ((feeding.core 0).slot 3).state = .free ∧ ((feeding.core 0).slot 1).state ≠ .free ∧
    feeding.slotBusy 0 1 = false ∧ (feeding.core 0).fedAfter 1 feeding.ttc = false ∧ UseOk feeding hTile [kTile] pR [0, 1] ∧ SlotOk feeding 1 true ∧ SlotOk feeding 2 true ∧
    tileBytes 8 8 0 ≤ slotSize 0 ∧ RoomIn (stamping feeding 4 (.slot 1 .claimedFilled)).2 qCopy ∧ UseOk feeding hKv [kPointer] pW [5] ∧ CursorOk hKv 64 := by
  unfold UseOk CapOk SlotOk RoomIn CursorOk
  exact ⟨⟨by decide, by rfl, by decide, by decide⟩, by decide, by decide, by decide, rfl, by decide, by decide, by decide, by decide, by decide, by decide, by decide,
    by decide, by decide, by decide, by decide, by decide⟩

theorem witness_Regions : RegionOk feeding ((feeding.core 0).region hHbm 1 0 0 2 2 0 0) ∧ UseOk feeding hHbm [kPointer, kTile] pR [0, 1] ∧ 2 * 2 * 4 ≤ slotSize 0 := by
  unfold UseOk CapOk
  refine ⟨⟨by decide, by decide, by decide, ?_⟩, by decide, by decide⟩
  intro i j hi hj
  have hi : i < 2 := hi
  have hj : j < 2 := hj
  interval_cases i <;> interval_cases j <;> decide

theorem witness_CopyWords : ReadsH rich 4 hBlank rich ∧ ReadsH rich 3 hTile rich ∧ BarrierAt rich 0 none rich ∧ BarrierAt rich 2 (some 7) rich ∧
    UseOk rich hBlank [kBlank] pW [0, 1] ∧ UseOk rich hTile [kTile] pR [0, 1] ∧ tileBytes 8 8 0 ≤ classSize (rich.dirEntry hBlank.key).cls ∧
    RoomIn (stamping rich 0 .mark).2 qCopy ∧ UseOk rich hHost [kPointer] pR [7] ∧ CursorOk hHost 256 ∧ 256 ≤ tileBytes 8 8 0 := by
  unfold UseOk CapOk RoomIn CursorOk
  exact ⟨rfl, rfl, ⟨0, rfl, rfl⟩, ⟨7, rfl, by decide⟩, by decide, by decide, by decide, by decide, by decide, by decide, by decide⟩

theorem witness_MatrixUnit : (∃ f w, (popQ 7 0x03).run feeding = .ok (some f, w) ∧ formatWordOk false f = true ∧ MatrixOpen w) ∧ MatrixOpen rich ∧
    ReadsH rich 4 hBlank rich ∧ UseOk rich hBlank [kBlank] pW [1] ∧ (rich.core 0).parkedIn 0 8 = false ∧ tileBytes 4 8 0 ≤ classSize (rich.dirEntry hBlank.key).cls ∧
    (rich.core 0).borrowed hBlank.key = false ∧ tileRange hBlank.addr.toNat (tileBytes 4 8 0) = some (0, tileAt 0 0x2000) := by
  unfold UseOk CapOk MatrixOpen NoHandler
  exact ⟨⟨_, _, rfl, by decide, by decide⟩, by decide, rfl, by decide, by decide, by decide, by decide, by decide⟩

theorem witness_VectorWords : ReadsS rich 2 7 rich ∧ (∃ e w, TakesS rich 5 (0#32 ++ lane ((rich.core 0).vreg 1) 0) e w) ∧ (rich.core 0).masks.length < 8 ∧
    (rich.core 0).masks.length ≤ 1 ∧ (∀ p ∈ (rich.core 0).spill, p.2 ≠ 300 ∧ p.1 ≠ 12) ∧ (rich.core 0).writesColumn 300 (rich.ttc + 4) = false := by
  exact ⟨rfl, ⟨_, _, rfl⟩, by decide, by decide, by decide, by decide⟩

/-- v12 is parked; masks are eight deep. -/
def parked : State := ready 0 .as richSeq fun k => { k with spill := [(12, 300)], masks := List.replicate 8 0 }

theorem witness_MasksFull : Issuing g0 parked parked ∧ (parked.core 0).spill.find? (fun p => decide (p.1 = (12#6).toNat)) = some (12, 300) ∧
    8 ≤ (parked.core 0).masks.length ∧ 1 < (parked.core 0).masks.length := ⟨⟨by decide, by rfl, by decide, by decide⟩, by decide, by decide, by decide⟩

theorem witness_VectorMemory : ReadsH rich 3 hTile rich ∧ UseOk rich hTile [kTile, kBlank] pR [1] ∧ fmtBytes (rich.dirEntry hTile.key).fmt = some 4 ∧
    7 + 128 ≤ rich.wordCount hBlank 9 := by
  unfold UseOk CapOk; exact ⟨rfl, by decide, by decide, by decide⟩

/-- A tile of 64 elements has lanes enough by wrapping; HBM lanes await translation. -/
theorem witness_VecLoads : (∃ t, VecLoads rich 1 0 3 hTile ((List.range 128).map fun (l : Nat) =>
      hTile.addr.toNat + 4 * (((l : Int) - 3) % (rich.wordCount hTile 9 : Nat)).toNat) t) ∧
    ∃ t, VecLoads rich 1 0 9 hHbm ((List.range 4).map fun i => 0x100 + 4 * i) t := by
  have h1 : hTile.space = 1 := by decide
  have h2 : ¬ hHbm.space = 1 := by decide
  simp only [VecLoads, if_pos h1, if_neg h2]
  exact ⟨⟨_, (List.range 128).map fun (l : Nat) => tileAt 0 (0x1000 + 4 * (((l : Int) - 3) % (64 : Nat)).toNat), by decide +kernel, rfl⟩, _, rfl⟩

/-- An attention entry runs on core 96: two live rows, its parameters in place, K and V slots filled. -/
def anEntry (op : EngOp) : EngEntry :=
  { id := 0, seq := .xs, syll := 0, issued := 0, ptc := 0, op := op, borrows := [], writes := [], popped := [], barrier := none, bytes := 0, due := none
    latches := [], ready := 0, started := true, done := 0 }

def filled (rows cols fmt : Nat) : Slot := { Slot.reset with state := .claimedFilled, rows := rows, cols := cols, fmt := fmt }

def attending : State :=
  let s := ready 96 .xs richSeq fun k => { k with
    eng := [(6, [anEntry (.astart nullCap 0x100 0)])], attn := { Attn.reset with entry := some 0, blank := hBlank, ap := [(4, 2), (1, 0x3F800000)] }
    slots := [(1, filled 8 16 1), (2, filled 16 64 1), (3, filled 8 64 1), (4, filled 64 16 1)]
    tlb := [⟨0, 21, 0x200000, true, true, true⟩] }
  withStores (granted s)

theorem witness_AttentionWords : ReadsH rich 4 hBlank rich ∧ ReadsS rich 1 0x100 rich ∧ CapOk rich hBlank [kNull, kBlank] ∧ UseOk rich hBlank [kBlank] pW [0, 1] ∧
    (0x100 : Word64).toNat % 8 = 0 ∧ RoomIn rich qAttention ∧ UseOk rich hPriv [kPointer] pR [0, 1, 2, 5] ∧ CursorOk hPriv (8 * 7) ∧ (0x100 : Word64).toNat + (7 : Word64).toNat ≤ 4096 ∧
    ((rich.core 0).attn.item 0).isSome = true ∧ (attending.core 96).queue qAttention = anEntry (.astart nullCap 0x100 0) :: [] ∧
    attending.mem.firstPoison (privAt 96 0x100) 128 = none := by
  unfold CapOk UseOk RoomIn CursorOk CapOk
  exact ⟨rfl, rfl, by decide, by decide, by decide, by decide, by decide, by decide, by decide, by decide, by decide, by decide⟩

theorem witness_MicroControl : (attending.core attending.cur.1).attnEntry = some (anEntry (.astart nullCap 0x100 0)) := by decide

theorem witness_MicroRowWork : RowsOk (attending.core 96) ∧ ProductOk (attending.core 96) 1 2 0 16 64 1 1 ∧ ProductOk (attending.core 96) 3 4 0 64 16 1 1 ∧
    ColsOk (attending.core 96) 448 64 ∧ ((attending.core 96).slot 1).state ≠ .free := by
  unfold RowsOk ProductOk RowsOk ColsOk; decide

/-- The entry's row count is 0. -/
def rowless : State := let s := ready 96 .xs richSeq fun k => { k with
    eng := [(6, [anEntry (.astart nullCap 0x100 0)])], attn := { Attn.reset with entry := some 0 } }
  s

theorem witness_MicroRowCount : (rowless.core rowless.cur.1).attnEntry = some (anEntry (.astart nullCap 0x100 0)) ∧ (rowless.core 96).attn.live = 0 := by decide

/-- Engine work that answers. -/
theorem works_of {α : Type} {x : Eng α} {s : State} (h : (match x.run.run s with | (.ok _, _) => true | _ => false) = true) : ∃ a w, Works x s a w := by
  revert h
  show (match x.run.run s with | (.ok _, _) => true | _ => false) = true → ∃ a w, x.run.run s = (.ok a, w)
  rcases x.run.run s with ⟨_ | a, w⟩
  · intro h; cases h
  · exact fun _ => ⟨a, w, rfl⟩

theorem witness_MicroStorage : (attending.core 96).attn.blank.isNull = false ∧ (0 + (attending.core 96).attn.live) * 16 * 4 ≤ classSize (attending.dirEntry hBlank.key).cls ∧
    ∃ ps w, Works (engRange (EngCtx.attention 96 (anEntry (.astart nullCap 0x100 0))) hBlank.space (hBlank.addr.toNat + 0) (2 * 16 * 4) true) attending ps w :=
  ⟨by decide, by decide, works_of (by decide +kernel)⟩

/-- Partition, berths and the calendar let core 0 send to peer 3 through port 0 in slot 0. -/
def sender : State :=
  let s := ready 0 .as (fun q => { richSeq q with s := (5, 0x05) :: (richSeq q).s }) id
  { withStores s with tt := { s.tt with cal := [(0, 0x8003)], berths := [(0, 0x8000), (1, 0x8000)] } }

/-- The state once one flit of that berth is taken. -/
def sentOne : State :=
  let u := sender.setPeer 3 { sender.peer 3 with arrival := 1983 }
  { u with tt := { u.tt with filled := takeFlits u.tt.filled 1 (berthKey 0 0 0 0) 1 } }

theorem witness_MessageWords : let d := depOf 3 3 0 0 0
    Issuing g0 sender sender ∧ routeOk 0x05 = true ∧ ReadsS sender 2 7 sender ∧ ReadsS sender 5 0x05 sender ∧ ReadsH sender 3 hTile sender ∧
    (∃ r, PathOk sender d 0 r ∧ ∃ w, FlitsOk sender d 0 r 1 w ∧ RoomIn w qLink) ∧ CapOk sender hTile [kPointer, kTile, kBlank] ∧ hTile.has pG = true ∧
    hTile.has pD = true := by
  refine ⟨⟨by decide, by rfl, by decide, by decide⟩, by decide, rfl, rfl, rfl, ⟨0, ?_, ?_⟩, ?_, by decide, by decide⟩
  · unfold PathOk BerthOk; exact ⟨by rfl, by decide, by decide, by decide, by decide, by decide, by decide⟩
  · refine ⟨sentOne, ?_, ?_⟩
    · unfold FlitsOk BerthOk
      refine ⟨by decide, ?_, by decide, by decide, by decide, by decide, by decide, rfl⟩
      intro i hi
      have : i = 0 := by have : i < 1 := hi; omega
      subst this; decide
    · unfold RoomIn; decide
  · unfold CapOk; decide

theorem witness_RemoteWords : ReadsH rich 8 hPeer rich ∧ RemoteOk rich hPeer pR 3 ∧ RemoteOk rich hPeer pW 3 ∧ RemoteOk rich hPeer pC 3 ∧ RoomIn rich qLink ∧
    ∃ e w, TakesS rich 5 0 e w ∧ RoomIn (awaiting w 572 3 e) qLink := by
  unfold RemoteOk UseOk CapOk CursorOk RoomIn
  exact ⟨rfl, by decide, by decide, by decide, by decide, _, _, rfl, by decide⟩

theorem witness_LinkWords : (∃ e1 e2 e3 w1 w2 w3, TakesS rich 6 0 e1 w1 ∧ TakesS (awaiting w1 (backAt rich) 3 e1) (6 + 1) 0 e2 w2 ∧
      TakesH (awaiting w2 (backAt rich) 3 e2) 12 nullCap e3 w3) ∧ CapOk rich hHost [hHost.kind] ∧ hHost.has pP = true ∧ ReadsH rich 10 hHost rich ∧
    (0x100 : Word64).toNat % 8 = 0 ∧ RoomIn rich qLink ∧ (rich.lstat 0).isSome = true ∧ (rich.lstat 0x108).isSome = true := by
  unfold CapOk RoomIn
  exact ⟨⟨_, _, _, _, _, _, rfl, rfl, rfl⟩, by decide, by decide, rfl, by decide, by decide, by decide, by decide⟩

/-- Core 0 sends on channel 2 to its own channel 3 and holds one tablet. -/
def shuttling : State := withStores (ready 0 .as (fun q => { richSeq q with h := (12, handleCap 1 kBlank 0xFF (2 ^ 20) 0 0 0x3000) :: (richSeq q).h }) fun k => { k with
  shTx := [(2, ⟨0, 3, 2, [hBlank], 0⟩), (4, ⟨0, 3, 2, [], 0⟩)], shRx := [(3, ⟨0, 2, 2, 2, (0, 0), [hTile], []⟩), (5, ⟨0, 7, 2, 2, (0, 0), [], []⟩)] })

theorem witness_ShuttleWords : Issuing g0 shuttling shuttling ∧ ReadsH shuttling 3 hTile shuttling ∧ shuttling.shTx 0 2 = some ⟨0, 3, 2, [hBlank], 0⟩ ∧
    (∃ t, shuttling.shTx 0 4 = some t ∧ t.tablets = []) ∧ UseOk shuttling hTile [kTile] pR [0, 1] ∧ tileBytes 8 8 0 ≤ classSize 2 ∧ RoomIn shuttling qShuttle ∧
    (∃ x, shuttling.shRx 0 3 = some x ∧ x.fifo = [hTile]) ∧ (∃ x, shuttling.shRx 0 5 = some x ∧ x.fifo = [] ∧ shuttling.shTx x.tx x.ch = none) ∧
    (∃ e w, TakesH shuttling 13 hTile e w) := by
  unfold UseOk CapOk RoomIn
  exact ⟨⟨by decide, by rfl, by decide, by decide⟩, rfl, rfl, ⟨_, rfl, rfl⟩, by decide, by decide, by decide, ⟨_, rfl, rfl⟩, ⟨_, rfl, rfl, rfl⟩, _, _, rfl⟩

/-- Free blocks in the tile store of core 0, and the core owns an ingress slot. -/
def opening : State :=
  let s := ready 0 .as (fun q => { richSeq q with s := [(1, 0x100), (2, 0x300)] }) id
  { s with stores := { s.stores with free := [⟨0, 0, 2, 0x4000⟩, ⟨0, 0, 2, 0x4400⟩] }, sbox := { s.sbox with slots := [(0, 1)] } }

theorem witness_ShuttleOpens : Issuing g0 opening opening ∧ ReadsS opening 2 0x300 opening ∧ (0x300 : Word64).toNat < 2 ^ 12 ∧ opening.shRx 0 1 = none ∧
    opening.shTx 0 3 = none ∧ ∃ cs u, takeBlanks 0 0 2 2 opening = some (cs, u) :=
  ⟨⟨by decide, by rfl, by decide, by decide⟩, rfl, by decide, by decide, by decide, _, _, rfl⟩

theorem witness_SignalBoxWords : ReadsS opening 1 0x100 opening ∧ PrivateOk (0x100 : Word64) 64 ∧ opening.sbox.owns 0 0 = true ∧ RoomIn opening qSbox ∧
    (0x100 : Word64).toNat % 8 = 0 ∧ ∃ e w, TakesS opening 5 0 e w := by
  unfold PrivateOk RoomIn
  exact ⟨rfl, by decide, by decide, by decide, by decide, _, _, rfl⟩

/-- The K/V region is mapped, and a sequence table lies at its start. -/
def walking : State :=
  let s := { attending with mem := attending.mem.write (hbmAt 0x200000) (toBytes 8 0x0220000000000000 ++ toBytes 8 0x1000 ++ toBytes 8 0x800 ++ toBytes 40 0) }
  let s := { s with sys := { s.sys with ptc := 1000 } }
  s.modAttn 96 fun a => { a with ap := [(0, 0), (3, 5), (4, 2)] }

theorem witness_Walk : ∃ a w, Works (walkPages (EngCtx.attention 96 (anEntry (.astart nullCap 0x100 0)))) walking a w := works_of (by decide +kernel)

theorem witness_WalkMoves : (match (walkPages (EngCtx.attention 96 (anEntry (.astart nullCap 0x100 0)))).run.run walking with
  | (.ok (.list t ps), _) => (ps[0]? == some (0, true)) && decide (0 < t.pages) | _ => false) = true := by decide +kernel

theorem witness_Gath : (match (readSeqTable (EngCtx.attention 96 (anEntry (.astart nullCap 0x100 0))) 0).run.run walking with
  | (.ok (some t, none), u) => (match (gatherPage (EngCtx.attention 96 (anEntry (.astart nullCap 0x100 0))) t 5 0).run.run u with
    | (.ok (_, none), _) => true | _ => false)
  | _ => false) = true := by decide +kernel

/-- Work at the units of core 0. -/
def working (q : Nat) (e : EngEntry) : State := withStores (ready 0 .as richSeq fun k => { k with eng := [(q, [e])] })

theorem witness_UnitEvents : let e := anEntry (.copyTile hTile hBlank 256)
    ((working 1 e).core 0).queue qCopy = [e] ∧ e.started = true ∧
    (match (copyWork (EngCtx.copy 0 e) e.latches e.op).run.run (working 1 e) with | (.ok .done, _) => true | _ => false) = true ∧
    ((working 5 (anEntry (.sbcommit 1))).core 0).queue qSbox = [anEntry (.sbcommit 1)] :=
  ⟨rfl, rfl, by decide +kernel, rfl⟩

def walk0 : Walk := ⟨0, false, false, .micro, 0, none, none⟩
def mark0 : Mark := ⟨9, 3, [], some 0⟩
def unitsBusy : State :=
  let s := ready 0 .as richSeq fun k => { k with walks := [walk0], marks := [mark0] }
  { s with stores := { s.stores with kvq := [(3, [⟨[], 0⟩])] } }

theorem witness_Units : (unitsBusy.core 0).walks = [walk0] ∧ (unitsBusy.core 0).marks.find? (fun m => m.id == 9) = some mark0 ∧ sstepOut rich 0 = false ∧
    unitsBusy.kvQueue 3 = [⟨[], 0⟩] := by decide

/-- A tablet on its way, and a tile at its receiver. -/
def delivering : State := withStores (ready 0 .as richSeq fun k => { k with
  shTx := [(2, ⟨0, 3, 2, [], 1⟩)], shRx := [(3, ⟨0, 2, 2, 2, (0, 0), [], [(hBlank, 0)]⟩)], eng := [(4, [anEntry (.shsend hTile hBlank 256 0 3)])] })

theorem witness_Shuttle : (∃ t x, delivering.shTx 0 2 = some t ∧ delivering.shRx t.rx t.ch = some x ∧ x.coming = [(hBlank, 0)]) ∧ delivering.writesOut 0 hBlank.key = false ∧
    (delivering.core 0).queue qShuttle = [anEntry (.shsend hTile hBlank 256 0 3)] ∧
    (match (engRange (EngCtx.ofEntry 0 qShuttle (anEntry (.shsend hTile hBlank 256 0 3)) none) hTile.space hTile.addr.toNat 256 false).run.run delivering with
      | (.ok _, _) => true | _ => false) = true :=
  ⟨⟨_, _, rfl, rfl, rfl⟩, by decide, rfl, by decide +kernel⟩

def record_ : Record := { f := List.replicate 16 0, cls := 0, pipe := 0, src := 0, part := 0, recirc := 0, egress := 0, target := 0, data := 0, banks := 0, reason := 0 }

def image0 : EngEntry := anEntry (.sbimage [0, 0, 0, 0] 0)
def record0_ : EngEntry := anEntry (.sbrec (List.replicate 16 0) 0 0 false)
def passing : State := { rich with sbox := { rich.sbox with inside := [(4, 10, record_)] } }

theorem witness_SignalBoxEvents : ((working 5 image0).core 0).part = some 0 ∧ ((working 5 image0).core 0).queue qSbox = [image0] ∧
    (working 5 image0).sbox.stamped 0 (litTable 0) true = false ∧ imageBadFor 3 0 0 [0, 0, 0, 0] = true ∧ imageBadFor 0 0 0 [0, 0, 0, 0] = false ∧
    ((working 5 record0_).core 0).ingressHead 0 = some record0_ ∧ passing.sbox.inside.find? (fun e => e.1 == 4) = some (4, 10, record_) ∧
    (sbPass passing.sbox record_).reason ≠ 5 := by decide +kernel

/-- A consist in some mode. -/
def inMode (m : Mode) : State := { rich with consists := rich.consists.map fun (c : Nat × Consist) => (c.1, { c.2 with mode := m }) }
def hold0 : Hold := ⟨1, 0, [(0, .as)], [], some 0⟩
def wait0 : Retime := ⟨10, 0, 5, 0, 0, .as, 2⟩

theorem witness_HoldEvents : ((inMode (.hold hold0)).cons 0).mode = .hold hold0 ∧ ((inMode (.hold hold0)).cons 0).next = none ∧ hold0.words = [(0, .as)] ∧
    ((inMode (.hold hold0)).cons 0).cores.find? (fun x => traceFull ((inMode (.hold hold0)).core x)) = none ∧
    ((inMode (.retime wait0)).cons 0).mode = .retime wait0 ∧ wait0.notice ≤ wait0.target ∧ ((inMode .halted).cons 0).mode = .halted := by decide

/-- Interrupts wait. -/
def interrupted (src : BitVec 3) : State :=
  let s := ready 0 .as richSeq fun k => { k with irq := [(src, 0)], xs := { k.xs with tvec := 1#64 <<< 63 }, armed := true, timer := 0 }
  { s with sys := { s.sys with clk := 10 } }

theorem witness_Interrupts : takeable (interrupted 1) 0 = true ∧ irqNext (interrupted 1) 0 = some (1, 0) ∧ takeable (interrupted 3) 0 = true ∧
    irqNext (interrupted 3) 0 = some (3, 0) ∧ ((interrupted 1).core 0).armed = true ∧ ((interrupted 1).core 0).irq.any (fun p => p.1 == 0) = false := by
  decide

/-- Partition 0 enabled, an overlay with a loop table, one train, and one free core. -/
def trains : State :=
  { State.reset with
    cores := [(0, { Core.reset with part := some 0 })]
    disp := { State.reset.disp with
      parts := [(0, { Partition.reset with desc := 1#64 <<< 63 ||| 4#64 <<< 40, qbase := 4, held := [[0, 0, 0, 0]] })]
      overlays := [{ ovl with num := 0, loops := [[0x1000000000000000, 5]] }], trains := [{ trained with taken := 0 }] } }

/-- A packet for that overlay, and one of another version. -/
def packet : List Word64 := [0x0100000000000000, 0, 1, 0, 0, 0, 0, 0]

def launching (p : List Word64) : State := { trains with disp := { trains.disp with launches := [⟨.core 0 3, p, 0⟩] } }

theorem witness_DispatcherEvents : nextLaunch (launching packet) = some ⟨.core 0 3, packet, 0⟩ ∧ launchCode (launching packet) (.core 0 3) packet = 0 ∧
    launchCode (launching []) (.core 0 3) [] ≠ 0 ∧ (∃ t cores lane, chooseTrain (logMismatch trains 0) 0 = some (t, cores, lane)) ∧
    (trains.part 0).held = [[0, 0, 0, 0]] ∧ ringFull trains 0 = false ∧ descEnabled (trains.part 0).desc = true ∧ 16 ≤ queueSize (trains.part 0).qbase ∧
    (trains.part 0).head = (trains.part 0).tail ∧ (trains.trainsOf 0).any (fun t => t.overlay == 0) = true ∧ (trains.overlay? 0 0).isSome = true :=
  ⟨by decide, by decide, by decide, ⟨_, _, _, rfl⟩, by decide, by decide, by decide, by decide, by decide, by decide, by decide⟩

/-- A consist that a fault has frozen; one whose car has ended. -/
def frozen_ : State := { rich with consists := rich.consists.map fun (c : Nat × Consist) => (c.1, { c.2 with mode := .frozen 0, faults := [{ FaultRec.zero with cls := .capability }] }) }
def saved0 : Saved :=
  { consist := { Consist.reset with cores := [0], part := 0 }, image := [Core.reset], major := none, resumed := false, yields := none
    ptc := 0, frames := [], mems := [⟨[], [], []⟩] }
def saved1 : Saved := { saved0 with major := some { FaultRec.zero with cls := .majorTrans } }

theorem witness_Cars : (frozen_.cons 0).mode = .frozen 0 ∧ (frozen_.cons 0).faults = [{ FaultRec.zero with cls := .capability }] ∧
    (carEnds rich 0).2 = none ∧ ((inMode .saving).cons 0).mode = .saving ∧ saveWatched (inMode .saving) 0 = false ∧ ((inMode .saving).cons 0).saveFor = none ∧
    saved0.restorable trains = true := by decide

/-- A page table whose root entry is a leaf of the largest page. -/
def mapped : State :=
  let s : State := { trains with disp := { trains.disp with saved := [saved1], parts := [(0, { Partition.reset with grant := { GrantSet.none with root := 0x10000 } })] } }
  { s with mem := (((s.mem.write64 0x10000 0x20001).write64 0x20000 0x30001).write64 0x30000 0x40001).write64 0x40000 0x50047 }

theorem witness_Resume : mapped.disp.saved.find? (fun v => v.consist.part == 0 && v.consist.train == 0 && v.consist.car == 0 && v.major.isSome) = some saved1 ∧
    ∃ log2 pa r w d e, mapped.walk 0 0 = .leaf log2 pa r w d e := ⟨by decide, _, _, _, _, _, _, rfl⟩

/-- An image that the boot ROM accepts is one whose signature verifies, a free value (log 11); one that it refuses is the empty one. -/
theorem witness_ManagementEvents : descOk trains 1 (1#64 <<< 63) = true ∧ descOk trains 1 (1#64 <<< 62) = false ∧ trains.trainsOf 1 = [] ∧
    grantOk trains 1 GrantSet.none = true ∧ receiver State.reset = none ∧ trains.disp.invalid = none ∧ State.reset.stores.migrations = [] ∧
    (State.reset.die 3).state = .run ∧ State.reset.sys.slack = false ∧ State.reset.sys.wanted = none ∧ State.reset.sys.boot = .off ∧
    imageOk State.reset [] = false := by decide

def managed : State := { State.reset with
  cores := [(0, { Core.reset with joins := some 2 })]
  stores := { State.reset.stores with dir := [(5, { DirEntry.reset with state := .poisoned, kept := true })], migrations := [⟨0, 2 ^ 21, 21, 0, 0⟩] }
  disp := { State.reset.disp with invalid := some (0, 0, 16) }
  sys := { State.reset.sys with wanted := some (1, 1300, true), dies := [(3, { Die.reset with state := .stopping }), (4, { Die.reset with state := .reset })] } }

theorem witness_Management : (managed.core 0).joins = some 2 ∧ (managed.dirEntry 5).state = .poisoned ∧ (managed.dirEntry 5).kept = true ∧ (managed.dirEntry 5).total = 0 ∧
    managed.stores.migrations.find? (fun m => m.due managed.clk) = some ⟨0, 2 ^ 21, 21, 0, 0⟩ ∧ managed.disp.invalid = some (0, 0, 16) ∧ managed.disp.acked.contains 3 = false ∧
    (managed.die 3).state = .stopping ∧ (managed.die 4).state = .reset ∧ managed.sys.wanted = some (1, 1300, true) ∧
    managed.stores.dir.filter (fun e => e.2.holds && entryHolds managed e.2 77) = [] := by decide

def message0 : Message := { src := 3, dst := 0, core := 0, part := 0, seq := 0, route := 0x05, payload := .value 7, flits := 1, relay := none }

theorem witness_TurntableEvents : State.reset.tt.state ≠ .dark ∧ State.reset.tt.slot + 1 < State.reset.tt.count ∧ message0.dst = State.reset.tt.pkg ∧
    (State.reset.peer message0.src).inSeq = message0.seq ∧ (State.reset.peer message0.src).waiting = [] ∧ (0 : Nat) ≤ (State.reset.peer 3).acked := by decide

def staged0 : Staged := { id := 4, msg := message0, syll := 0, port := 0, rot := 0, slot := 0, berth := 0, off := 0, hop := 3, whole := 0, sent := none, late := false, entry := none }
def linked : State := { State.reset with tt := { State.reset.tt with staged := [staged0], slot := 7, peers := [(3, { Peer.reset with exchange := some 0 })] } }

theorem witness_Turntable : linked.tt.staged.find? (fun m => m.id == 4 && m.sent.isNone) = some staged0 ∧ linked.tt.count ≤ linked.tt.slot + 1 ∧
    (linked.peer 3).exchange.isSome = true := by decide

/-! ## Exceptions -/

/-- Both sequencers of core 0 have handlers: a section at syllable 0x2000 and a frame. -/
def trappable : State :=
  let q := fun (x : Seq) => { richSeq x with tvec := 1#64 <<< 62 ||| 0x2000, tframe := 0x80000, streamLo := 0x2000, streamHi := 0x4000 }
  withStores (ready 0 .as q fun k => { k with xs := { (q k.xs) with tframe := 0x90000, at_ := { Place.idle with stop := .cardone } } })

def aFault : FaultRec := { FaultRec.zero with cls := .resource, tinfo := 5 }

theorem witness_TrapEntry : let u := endHold trappable 0
    aFault.cls.prio ≠ 1 ∧ aFault.cls ≠ .majorTrans ∧ (u.cons 0).trapT = none ∧ ((performDue u 0).cons 0).faults = [] ∧ (u.cons 0).relist = [] ∧
    (u.cons 0).latches = [] ∧ (u.cons 0).cores.Nodup ∧ ∀ cq ∈ (u.cons 0).seqs, handlerOk u cq.1 cq.2 = true :=
  ⟨by decide, by decide, by decide, by decide, by decide, by decide, by decide, by decide +kernel⟩

theorem witness_Freezes : ((performDue (endHold trappable 0) 0).cons 0).faults = [] ∧ endHold (handling trappable) 0 = handling trappable ∧
    ((performDue (handling trappable) 0).cons 0).faults = [] ∧ FaultClass.doubleFault.prio = 1 ∧ aFault.cls.prio ≠ 1 ∧
    ((handling trappable).cons 0).trapT.isSome = true ∧ ((endHold trappable 0).cons 0).trapT = none :=
  ⟨by decide, rfl, by decide, by decide, by decide, by decide, by decide⟩

/-- Its handler runs; the place it saved is that of the word. -/
def returning : State :=
  let s := handling trappable
  { s with cores := s.cores.map fun (c : Nat × Core) => (c.1, { c.2 with as := { c.2.as with saved := some (fetchAt 1000 0) } })
           mem := s.mem.write64 (privAt 0 0x80000 + 8) (5 * 2 ^ 32 + 2) }

theorem witness_TrapReturn : (returning.cons 0).trapT = some 990 ∧ (returning.cons 0).cores.Nodup ∧ (0, SeqId.as) ∈ (returning.cons 0).seqs ∧
    (returning.seq 0 .as).saved = some (fetchAt 1000 0) ∧ (fetchAt 1000 0).stop = .none ∧ (fetchAt 1000 0).pend = none ∧
    ((returning.mem.read64 (privAt 0 (returning.seq 0 .as).tframe.toNat + 8)).extractLsb' 0 25).toNat = (fetchAt 1000 0).wordAt % 2 ^ 25 ∧
    returning.gapAt (fetchAt 1000 0).wordAt ≤
      (returning.cons 0).ttc + ((returning.mem.read64 (privAt 0 (returning.seq 0 .as).tframe.toNat + 8)).extractLsb' 32 32).toNat :=
  ⟨by decide, by decide, by decide, by decide, by decide, by decide, by decide +kernel, by decide +kernel⟩

theorem witness_TrapFrame : (trappable.seq 0 .as).tframe.toNat % 64 = 0 ∧ ∃ due, trappable.dueAt (trappable.seq 0 .as).at_ = some due := ⟨by decide, _, rfl⟩

/-! ## Encodings, steps, results -/

theorem witness_DecodeEncode : guardField (.lit g0 12 5) = some g0 ∧ WellFormed here (.lit g0 12 5) ∧ mayIssue here (opcodeOf (encodeWord (.lit g0 12 5))).toNat = true ∧
    literalOf (.lit g0 12 5) = some 5 ∧ isMicro .microWalk = true := ⟨rfl, by decide, by decide, rfl, rfl⟩

theorem witness_DecodedWordsAreExact : (∃ i, decode here 0x150003000000000000000000 5 = .ok i) ∧ ∃ i, decodeMicro 0x1C00000000000000 = some i := ⟨⟨_, rfl⟩, _, rfl⟩

/-- A reserved word stands at the next place. -/
def reserved : State := { rich with mem := rich.mem.write (syllAt 2) (toBytes 12 (0x0A#96 <<< 88).toNat) }

theorem witness_ReservedOpcodes : (reserved.seq 0 .as).at_.pend = none ∧ reservedOpcode (opcodeOf (reserved.mem.iword (reserved.seq 0 .as).at_.pc)).toNat ∧
    Issuing g0 reserved reserved := by
  unfold reservedOpcode
  exact ⟨by decide, by decide +kernel, ⟨by decide, by decide +kernel, by decide, by decide⟩⟩

noncomputable def fetched : State := State.reset.withFetchWord 96 0x120001461C00000000000000

theorem witness_StepRunsDecoded : fetched.inputs = [] ∧ dispatcherEvent fetched = none ∧ unitEvent fetched = none ∧ dueMicro fetched = none ∧ consIds fetched = [0] ∧
    (fetched.cons 0).mode = .run ∧ slipStalled fetched (fetched.cons 0) = false ∧ fetched.stalled = false ∧ mustEnter fetched 0 = false ∧
    dueWords fetched 0 = [(96, .xs)] ∧ detected fetched 0 = [] ∧ lateItems fetched 0 = [] ∧ takeable fetched 0 = false ∧ (fetched.seq 96 .xs).at_.pend = none ∧
    decode (ctxAt fetched 96 .xs) (fetched.mem.iword (fetched.seq 96 .xs).at_.pc) (fetched.mem.iword ((fetched.seq 96 .xs).at_.pc + 3)) = .ok (.sdivDiv g0 5 6 7) :=
  ⟨rfl, rfl, rfl, rfl, rfl, rfl, rfl, rfl, rfl, rfl, rfl, rfl, rfl, rfl, rfl⟩

theorem witness_NothingStops : (rich.consistOf rich.cur.1).isSome = true ∧ (attending.core attending.cur.1).attnEntry.isSome = true ∧ State.reset.inputs = [] := by decide

theorem witness_MemoryStaysCanonical : State.reset.mem.wf = true ∧ rich.mem.wf = true ∧ ∃ t, step State.reset = .next t := ⟨by decide, by decide, _, rfl⟩

/-- Two results are due; the later one stands. -/
def due_ : State := (flying (flying rich 0 (.setS 5 1)) 0 (.setS 5 2))

theorem witness_DueResultsPerform : ((due_.cons 0).latches.filter (Latch.ripe (due_.cons 0).ttc)).filterMap (givesS 0 .as 5) = [1, 2] ∧
    Tbl.get 0 ((performDue due_ 0).seq 0 .as).s 5 = 2 := by decide

theorem witness_RegisterWordsFrame : (opcodeOf (encodeWord (.saluAdd g0 5 1 2))).toNat ∈ registerOps ∧
    (match exec (.saluAdd g0 5 1 2) rich with | .next t => decide (t.note = .issued) | _ => false) = true := ⟨by decide, by rfl⟩

/-- The guard p1 is off. -/
theorem witness_GuardedOff : guardOn (rich.seq 0 .as) ⟨1, 0, 0⟩ = false ∧ (∀ r ∈ roles (.saluAdd ⟨1, 0, 0⟩ 5 1 2), noQueue .as r = true) ∧
    roles (.saluAdd ⟨1, 0, 0⟩ 5 1 2) ≠ [] := by decide

/-- dq2 holds a value, then nothing; dq3 a void. -/
def queues : State := ready 0 .as richSeq fun k => { k with dq := [(2, [⟨0, .val 9⟩]), (3, [⟨1, .void⟩])] }

theorem witness_DataQueues : Issuing g0 queues queues ∧ srcQueue 58 = some 2 ∧ (queues.core 0).dqs 2 = [⟨0, .val 9⟩] ∧ srcQueue 59 = some 3 ∧ (queues.core 0).dqs 3 = [⟨1, .void⟩] ∧
    srcQueue 60 = some 4 ∧ (queues.core 0).dqs 4 = [] ∧ dstQueue .as 56 = some 0 ∧ ((queues.core 0).dqs 0).length < queueDepth 0 ∧
    (∃ f, (readS 59).run queues = .error (.fault f)) :=
  ⟨⟨by decide, by rfl, by decide, by decide⟩, by decide, by decide, by decide, by decide, by decide, by decide, by decide, by decide, _, rfl⟩

theorem witness_MemoryLaws : section_.wf = true ∧ section_.cells ≠ [] := by decide

/-! ## Witnesses for single clauses -/

/-- One line from tile store to tile store; a copy from a page that no table maps stops. -/
theorem witness_CopyLines : tileRange hTile.addr.toNat 256 = some (0, tileAt 0 0x1000) ∧ tileRange hBlank.addr.toNat 256 = some (0, tileAt 0 0x2000) ∧
    (let s := working 1 (anEntry (.copyTile hTile hBlank 256))
     s.downAt (tileAt 0 0x1000) = none ∧ s.downAt (tileAt 0 0x2000) = none ∧
      ((List.range 256).all fun i => !s.mem.poisoned (tileAt 0 0x1000 + i) && (s.downAt (tileAt 0 0x2000 + i)).isNone) = true) ∧
    (let e := anEntry (.copyTile hHbm hBlank 256)
     match (copyWork (EngCtx.copy 0 e) e.latches e.op).run.run (working 1 e) with | (.error _, _) => true | _ => false) = true := by
  decide +kernel

/-- An append waits for room in its stack's queue. -/
def appends : EngEntry := anEntry (.append hTile (pointerCap true 5 0xFF 18 0 0x20000 0 0) 0)
def appending : State :=
  let s := granted (ready 0 .as richSeq fun k => { k with tlb := [⟨0, 21, 0x200000, true, true, true⟩], eng := [(qCopy, [appends])] })
  { s with mem := walking.mem, sys := walking.sys, stores := { s.stores with
    dir := [(hTile.key, { tileEntry with rows := 2, cols := 1, fmt := 1 })], kvq := [(0, List.replicate 64 ⟨[], 0⟩)] } }

theorem witness_AppendWaits : (appending.core 0).queue qCopy = [appends] ∧ appends.started = true ∧
    (match (copyWork (EngCtx.copy 0 appends) appends.latches appends.op).run.run appending with | (.ok .again, _) => true | _ => false) = true := by
  decide +kernel

/-- A reader and a writer walk to a clean page, and a writer whose compare-and-swap comes; the table maps nothing else. -/
def walksTo (w : Walk) : State := { mapped with cores := [(0, { Core.reset with part := some 0, walks := [w] })] }
def dirtyWalk (was : Word64) : Walk := { walk0 with write := true, cas := some (0x40000, was, leafEntry 0 36 0x50000 true true true) }

theorem witness_WalkEnds : (∃ log2 pa e, (walksTo walk0).walk 0 0 = .leaf log2 pa true true false e) ∧
    ((walksTo (dirtyWalk 0x50047)).core 0).walks = [dirtyWalk 0x50047] ∧ mapped.pte 0x40000 = 0x50047 ∧ mapped.pte 0x40000 ≠ 0x40047 ∧
    walkFault mapped 0 (2 ^ 40) false = some .capability :=
  ⟨⟨_, _, _, rfl⟩, rfl, by decide, by decide, by decide⟩

/-- A superstep's drain point has come with a copy of it on its way. -/
def stepping : State := ready 0 .as richSeq fun k => { k with
  sstep := some ⟨0, 8, 0⟩, eng := [(qCopy, [{ anEntry (.copyTile hTile hBlank 256) with writes := [hBlank] }])] }

theorem witness_Superstep : sstepOut stepping 0 = true ∧ stepping.consistOf 0 = some 0 := by decide

/-- Launches of a host's queue, with a packet that names no overlay, and of the Signal Box. -/
def hosted : State := { trains with mem := trains.mem.write (launchEntry trains 0 0) (toBytes 8 0x0100000000000000 ++ toBytes 8 0 ++ toBytes 8 1), disp := { trains.disp with launches := [⟨.host 0 0 true, [], 0⟩] } }

theorem witness_Launches : nextLaunch hosted = some ⟨.host 0 0 true, [], 0⟩ ∧
    launchCode hosted (.host 0 0 false) ((List.range 16).map fun j => hosted.mem.read64 (launchEntry hosted 0 0 + 8 * j)) = 0 ∧
    launchCode trains (.host 0 0 false) ((List.range 16).map fun j => trains.mem.read64 (launchEntry trains 0 0 + 8 * j)) ≠ 0 ∧
    nextLaunch { trains with disp := { trains.disp with launches := [⟨.record record_, packet, 0⟩] } } = some ⟨.record record_, packet, 0⟩ ∧
    launchCode trains (.record record_) packet = 0 ∧ launchCode trains (.record record_) [] ≠ 0 :=
  ⟨by decide, by decide, by decide, by decide, by decide, by decide⟩

/-- A doorbell beyond the queue; a queue in use. -/
theorem witness_Doorbells : descEnabled (State.reset.part 0).desc = false ∧ ¬ (0xFFFF < 2 ^ ((trains.part 0).qbase.extractLsb' 0 4).toNat) ∧
    ((trains.setPart 0 { trains.part 0 with tail := 1 }).part 0).head ≠ ((trains.setPart 0 { trains.part 0 with tail := 1 }).part 0).tail := by decide

/-- Cores are offered to a train that cars were saved for, to a train in order, and to none. -/
def awaiting : State := { trains with disp := { trains.disp with saved := [{ saved0 with yields := some 0 }] } }

theorem witness_Offers : (∃ p, awaitedTrain (logMismatch awaiting 0) 0 = some p) ∧ awaitedTrain (logMismatch trains 0) 0 = none ∧
    awaitedTrain (logMismatch rich 0) 0 = none ∧ chooseTrain (logMismatch rich 0) 0 = none := ⟨⟨_, rfl⟩, rfl, rfl, rfl⟩

/-- One car of two is over: the consist goes on, or, with one of its cores to move, does not. -/
def onTwo (k : Core → Core) : State :=
  let s := ready 0 .as richSeq k
  { s with disp := { trains.disp with trains := [{ trained with count := 2 }] } }

theorem witness_CarGoesOn : (∃ t, (carEnds (onTwo id) 0).2 = some t ∧
      GoesOn (carEnds (onTwo id) 0).1 ((onTwo id).cons 0) t ((dissolve (carEnds (onTwo id) 0).1 0).offer 0)) ∧
    ((carEnds (onTwo fun k => { k with joins := some 1 }) 0).2.isSome = true ∧ ((carEnds (onTwo fun k => { k with joins := some 1 }) 0).1.core 0).joins ≠ none) := by
  refine ⟨⟨_, rfl, ?_, by decide, _, _, rfl, rfl⟩, by decide, by decide⟩
  decide

/-- A save with a watch of its cores, and one with none. -/
def polling : State :=
  let s := inMode .saving
  { s with cores := s.cores.map fun (c : Nat × Core) => (c.1, { c.2 with polls := [((atPorter .add none).2, 0, 0)] }) }

theorem witness_Saves : saveWatched polling 0 = true ∧ (polling.cons 0).mode = .saving ∧ (∃ p, saveFrames (inMode .saving) 0 (fun _ => false) = p) :=
  ⟨by decide, by decide, _, rfl⟩

/-- A resume that names no saved car, and one whose page is absent. -/
theorem witness_ResumeElse : trains.disp.saved.find? (fun v => v.consist.part == 0 && v.consist.train == 0 && v.consist.car == 0 && v.major.isSome) = none ∧
    walkFault mapped 0 (2 ^ 40) false = some .capability := by decide

/-- An image with nothing in it is loaded; one of another machine is not. -/
def emptyImage : OverlayImage :=
  { eiClass := 2, eiData := 1, eMachine := 0x7E21, eType := 2, eFlags := 0, eEntry := 0, streamA := [], streamX := [], looptab := [], geom := [], tiles := []
    cells := [], sbox := [], amicro := [], needs := [], trailer := 0, symbols := [], relas := [] }

theorem witness_Loads : (match loadSteps State.reset 0 0 emptyImage with | .ok _ => true | .error _ => false) = true ∧
    (match loadSteps State.reset 0 0 { emptyImage with eMachine := 0 } with | .ok _ => false | .error c => c == 0x01) = true := by decide +kernel

/-- A core that hears signals, and a column of the accumulators. -/
theorem witness_Effects : (rich.core 0).deaf.contains 3 = false ∧ (1023 : BitVec 10).toNat < 1024 ∧ (3 : BitVec 5) ≠ 4 := by decide

/-- hq holds a handle, a void, an entry that is due, nothing, and all it can. -/
def handles (q : List (QEnt Cap)) : State := ready 0 .as richSeq fun k => { k with hq := q }

theorem witness_HandleQueue : ((handles [⟨0, .val hTile⟩]).core 0).hq = [⟨0, .val hTile⟩] ∧ ((handles [⟨0, .void⟩]).core 0).hq = [⟨0, .void⟩] ∧
    ((handles [⟨0, .due⟩]).core 0).hq = [⟨0, .due⟩] ∧ ((handles []).core 0).hq.length + ((handles []).core 0).hqHeld < 8 ∧
    8 ≤ ((handles (List.replicate 8 ⟨0, .due⟩)).core 0).hq.length + ((handles (List.replicate 8 ⟨0, .due⟩)).core 0).hqHeld ∧
    srcQueue 5 = none ∧ dstQueue .as 5 = none ∧ dstQueue .as 0 = none := by decide

theorem witness_StepRunsDecoded2 : sboxMove fetched = none ∧ (consIds fetched).all (fun j => !fencesStale fetched j) = true ∧ fetched.sequencers = true :=
  ⟨rfl, rfl, rfl⟩

/-- An attention sequencer's micro-operation is due, and outside an event waits. -/
theorem witness_MicroStep : let s := State.reset.withFetchWord 64 0x1C00000000000000
    s.inputs = [] ∧ dispatcherEvent s = none ∧ unitEvent s = none ∧ sboxMove s = none ∧ (∃ x, dueMicro s = some (x, some 0x1C00000000000000)) ∧
    decodeMicro 0x1C00000000000000 = some .microWalk := ⟨rfl, rfl, rfl, rfl, ⟨_, rfl⟩, rfl⟩

theorem witness_LinkEntry : ((working qLink (anEntry (.lmark 5))).core 0).linkHead = some (anEntry (.lmark 5)) ∧ (anEntry (.lmark 5)).started = true := by decide

/-- R236's own examples: F00 to F04 and F11 to F23, departing at c + 10. -/
theorem test_transfer_due : State.reset.transferDue 0 4 10 = 24 ∧ State.reset.transferDue 11 23 10 = 12 := by decide +kernel

end Sys2Proof.Tests
end

section
/-! The laws of memory that O59 states: what a word's bytes are, and that memories in canonical form which read alike are one. -/
namespace Sys2Proof.Laws
open Sys2Proof Sys2Proof.Machine

/-! ## The bytes of a word -/

/-- Byte i of a number is its i-th base-256 digit. -/
theorem getD_toBytes (n v i : Nat) (h : i < n) : (toBytes n v).getD i 0 = BitVec.ofNat 8 (v / 256 ^ i) := by
  induction n generalizing v i with
  | zero => omega
  | succ n ih =>
    cases i with
    | zero => simp [toBytes]
    | succ i =>
      have hi := ih (v / 256) i (by omega)
      rw [Nat.div_div_eq_div_mul, ← Nat.pow_succ'] at hi
      simpa [toBytes] using hi

/-- A written word stands with its lowest byte at the lowest address (R3). -/
theorem byte_write64 (m : Memory) (a : Nat) (x : Word64) (i : Nat) (hi : i < 8) :
    (m.write64 a x).byte (a + i) = x.extractLsb' (8 * i) 8 := by
  have hin : a ≤ a + i ∧ a + i < a + (toBytes 8 x.toNat).length := by rw [length_toBytes]; omega
  rw [Memory.write64, byte_write, if_pos hin, Nat.add_sub_cancel_left, getD_toBytes _ _ _ hi]
  apply BitVec.eq_of_toNat_eq
  simp [BitVec.extractLsb'_toNat, Nat.shiftRight_eq_div_pow, Nat.pow_mul]

/-- A plain write over any byte of a capability's granule takes its tag (R67). -/
theorem tag_readCap_write (m : Memory) (a b : Nat) (bs : List Byte) (hb : bs ≠ []) (hlo : b < 16 * (a / 16) + 16)
    (hhi : 16 * (a / 16) < b + bs.length) : ((m.write b bs).readCap a).tag = false := by
  show (m.write b bs).tagAt a = false
  rw [tagAt_write, decide_eq_true ⟨hb, hlo, hhi⟩, Bool.not_true, Bool.and_false]

/-! ## Canonical lists -/

/-- Whether a number is above a lower bound, where there is one. -/
def Above (lo : Option Nat) (a : Nat) : Prop := ∀ l, lo = some l → l < a

theorem cellsWf_cons (lo : Option Nat) (a : Nat) (b : Byte) (t : List Host.Cell) :
    cellsWf lo ((a, b) :: t) = true ↔ Above lo a ∧ b ≠ emptyByte ∧ cellsWf (some a) t = true := by
  cases lo <;> simp [cellsWf, Above, and_assoc]

theorem granWf_cons (lo : Option Nat) (g : Nat) (t : List Nat) :
    granWf lo (g :: t) = true ↔ Above lo g ∧ granWf (some g) t = true := by
  cases lo <;> simp [granWf, Above]

/-- Below what a canonical list starts above, it lists nothing. -/
theorem cellsGet_below {t : List Host.Cell} {l a : Nat} (h : cellsWf (some l) t = true) (ha : a ≤ l) : cellsGet t a = emptyByte := by
  induction t generalizing l with
  | nil => rfl
  | cons c t ih =>
    obtain ⟨a', b⟩ := c
    obtain ⟨hlo, -, ht⟩ := (cellsWf_cons _ _ _ _).1 h
    have hl : l < a' := hlo l rfl
    rw [cellsGet, if_neg (by omega)]
    exact ih ht (by omega)

theorem granGet_below {t : List Nat} {l a : Nat} (h : granWf (some l) t = true) (ha : a ≤ l) : granGet t a = false := by
  induction t generalizing l with
  | nil => rfl
  | cons g t ih =>
    obtain ⟨hlo, ht⟩ := (granWf_cons _ _ _).1 h
    have hl : l < g := hlo l rfl
    have hne : a ≠ g := by omega
    have htl : granGet t a = false := ih ht (by omega)
    simpa [granGet, hne] using htl

/-- Reading the first listed address. -/
theorem cellsGet_head (a : Nat) (b : Byte) (t : List Host.Cell) : cellsGet ((a, b) :: t) a = b := if_pos rfl

/-- Canonical lists that read alike are equal: the lists' first addresses agree, as the lesser one reads as nonempty in one list only. -/
theorem cells_ext {t u : List Host.Cell} {lo lo' : Option Nat} (ht : cellsWf lo t = true) (hu : cellsWf lo' u = true)
    (h : ∀ a, cellsGet t a = cellsGet u a) : t = u := by
  induction t generalizing u lo lo' with
  | nil =>
    cases u with
    | nil => rfl
    | cons d u =>
      obtain ⟨-, hb, -⟩ := (cellsWf_cons _ _ _ _).1 hu
      exact absurd ((h d.1).trans (cellsGet_head _ _ _)).symm hb
  | cons c t ih =>
    obtain ⟨a, b⟩ := c
    obtain ⟨-, hb, ht'⟩ := (cellsWf_cons _ _ _ _).1 ht
    cases u with
    | nil => exact absurd ((cellsGet_head a b t).symm.trans (h a)) hb
    | cons d u =>
      obtain ⟨a', b'⟩ := d
      obtain ⟨-, hb', hu'⟩ := (cellsWf_cons _ _ _ _).1 hu
      have hle : a ≤ a' := by
        by_contra hlt
        have hne : a' ≠ a := by omega
        have := h a'
        rw [cellsGet_head, cellsGet, if_neg hne, cellsGet_below ht' (by omega)] at this
        exact hb' this.symm
      have hge : a' ≤ a := by
        by_contra hlt
        have hne : a ≠ a' := by omega
        have := h a
        rw [cellsGet_head, cellsGet, if_neg hne, cellsGet_below hu' (by omega)] at this
        exact hb this
      obtain rfl : a = a' := Nat.le_antisymm hle hge
      have hbb : b = b' := by have := h a; rwa [cellsGet_head, cellsGet_head] at this
      have htu : t = u := ih ht' hu' fun x => by
        by_cases hx : x = a
        · rw [hx, cellsGet_below ht' (Nat.le_refl a), cellsGet_below hu' (Nat.le_refl a)]
        · have := h x
          rwa [cellsGet, if_neg hx, cellsGet, if_neg hx] at this
      rw [hbb, htu]

/-- A canonical list of granules is sorted, so it is its set of members. -/
theorem granWf_pairwise {t : List Nat} {lo : Option Nat} (h : granWf lo t = true) : t.Pairwise (· < ·) := by
  induction t generalizing lo with
  | nil => exact .nil
  | cons g t ih =>
    obtain ⟨-, ht⟩ := (granWf_cons _ _ _).1 h
    refine .cons (fun x hx => ?_) (ih ht)
    by_contra hlt
    have : granGet t x = false := granGet_below ht (by omega)
    simp [granGet, hx] at this

theorem grans_ext {t u : List Nat} (ht : granWf none t = true) (hu : granWf none u = true) (h : ∀ g, granGet t g = granGet u g) : t = u := by
  have hm : ∀ g, g ∈ t ↔ g ∈ u := fun g => by simpa [granGet] using h g
  exact (granWf_pairwise ht).eq_of_mem_iff (granWf_pairwise hu) hm

/-- Memories in canonical form that read alike are equal (log 2). -/
theorem memory_ext {m m' : Memory} (h : m.wf = true) (h' : m'.wf = true) (hb : ∀ a, m.byte a = m'.byte a)
    (ht : ∀ a, m.tagAt a = m'.tagAt a) (hp : ∀ a, m.poisoned a = m'.poisoned a) : m = m' := by
  obtain ⟨hc, hg, hq⟩ := (wf_iff m).1 h
  obtain ⟨hc', hg', hq'⟩ := (wf_iff m').1 h'
  have at16 : ∀ g : Nat, 16 * g / 16 = g := fun g => by omega
  have e1 : m.cells = m'.cells := cells_ext hc hc' hb
  have e2 : m.tags = m'.tags := grans_ext hg hg' fun g => by have := ht (16 * g); simpa only [Memory.tagAt, at16] using this
  have e3 : m.poison = m'.poison := grans_ext hq hq' fun g => by have := hp (16 * g); simpa only [Memory.poisoned, at16] using this
  cases m; cases m'
  cases e1; cases e2; cases e3
  rfl

/-- Settles O59: the laws of reading and writing (Laws/Memory), and canonical memories as what they read. -/
theorem memoryLaws : Obligations.MemoryLaws := by
  unfold Obligations.MemoryLaws
  refine ⟨fun m a c bs => ⟨byte_write m a c bs, tagAt_write m a c bs, poisoned_write m a c bs⟩,
    fun m a x => ⟨read64_write64 m a x, fun i hi => byte_write64 m a x i hi⟩,
    fun m a c => ⟨readCap_writeCap m a c, fun b bs hb hlo hhi => tag_readCap_write _ a b bs hb hlo hhi⟩,
    fun m h => ⟨fun a bs => wf_write h a bs, fun a c => wf_writeCap h a c, fun a n => wf_zero h a n, fun g b => wf_setPoison h g b⟩,
    fun m m' h h' hb ht hp => memory_ext h h' hb ht hp⟩

end Sys2Proof.Laws
end

section
/-! SUPPORT. What leaves memory as it was, module by module: the frame of every operation on the state that writes no byte, tag or
poison mark. -/
namespace Sys2Proof.Laws
open Sys2Proof Sys2Proof.Machine
-- In order: each thread of an elaboration in parallel reserves its stack, and the text is long.
set_option Elab.async false

@[simp] theorem ite_mem (c : Prop) [Decidable c] (s t : State) : (if c then s else t).mem = if c then s.mem else t.mem := apply_ite ..

/-- A fold whose every step leaves memory as it was. -/
@[simp] theorem foldl_mem {β : Type} {f : State → β → State} (hf : ∀ s b, (f s b).mem = s.mem) (l : List β) (s : State) :
    (l.foldl f s).mem = s.mem :=
  foldl_keeps (fun s : State => s.mem) f hf l s

/-! ## Xlate -/

@[simp] theorem markDies_mem (s : State) (core : Nat) (ds : List Nat) : (s.markDies core ds).mem = s.mem := by
  unfold State.markDies
  split <;> rfl

/-! ## Storage -/

@[simp] theorem outbound_mem (s : State) (die at_ : Nat) : (s.outbound die at_).mem = s.mem := rfl

@[simp] theorem sendKept_mem (core : Nat) (s : State) (m : Kept) : (s.sendKept core m).mem = s.mem := by
  unfold State.sendKept
  split <;> rfl

@[simp] theorem flushKept_mem (s : State) (core : Nat) : (s.flushKept core).mem = s.mem := by simp [State.flushKept]

@[simp] theorem sendAllKept_mem (s : State) (core : Nat) : (s.sendAllKept core).mem = s.mem := by simp [State.sendAllKept]

/-! ## Matrix -/

@[simp] theorem addFault_mem (s : State) (k : Nat) (f : FaultRec) : (s.addFault k f).mem = s.mem := rfl

@[simp] theorem matStep_mem (s : State) (cons core t : Nat) (c : MatCmd) : (matStep s cons core t c).mem = s.mem := by
  unfold matStep
  dsimp only
  repeat' split
  all_goals simp

@[simp] theorem matCycle_mem (s : State) (cons core t : Nat) : (matCycle s cons core t).mem = s.mem :=
  foldl_mem (fun _ _ => by split <;> simp) _ _

/-! ## Trace -/

@[simp] theorem logErr_mem (s : State) (kind die unit : Nat) (addr : Word64) (part : BitVec 5) :
    (s.logErr kind die unit addr part).mem = s.mem :=
  rfl

@[simp] theorem modTrace_mem (s : State) (core : Nat) (f : Trace → Trace) : (s.modTrace core f).mem = s.mem := rfl

/-! ## Perform -/

@[simp] theorem signalTok_mem (s : State) (core : Nat) (t : BitVec 5) : (s.signalTok core t).mem = s.mem := by simp [State.signalTok]

/-! ## Ops -/

@[simp] theorem freeze_mem (s : State) (k : Nat) (f : FaultRec) : (freeze s k f).mem = s.mem := by
  unfold freeze
  exact foldl_mem (fun _ _ => by rfl) _ _

@[simp] theorem lostResult_mem (s : State) (l : Latch) : (lostResult s l).mem = s.mem := by
  unfold lostResult
  split <;> rfl

@[simp] theorem beginSave_mem (s : State) (k : Nat) (f : Option FaultRec) : (beginSave s k f).mem = s.mem := rfl

@[simp] theorem delay_mem (s : State) : (s.delay).2.mem = s.mem := rfl

@[simp] theorem addWalk_mem (s : State) (core : Nat) (w : Walk) : (addWalk s core w).mem = s.mem := by simp [addWalk]

@[simp] theorem placeReq_mem (s : State) (req : Option HoldReq) : (placeReq s req).mem = s.mem := by
  unfold placeReq
  split <;> simp

@[simp] theorem holdFor_mem (s : State) (k : Nat) (causes : BitVec 16) (words : List (Nat × SeqId)) (late : List Nat) :
    (holdFor s k causes words late).mem = s.mem :=
  rfl

@[simp] theorem beginHold_mem (s : State) (k : Nat) (causes : BitVec 16) (req : Option HoldReq) : (beginHold s k causes req).mem = s.mem :=
  by simp [beginHold]

@[simp] theorem countIssued_mem (s : State) (k : Nat) (s' : State) : (countIssued s k s').mem = s.mem := rfl

/-! ## Units -/

@[simp] theorem bankDelay_mem (s : State) (at_ : Nat) : (bankDelay s at_).2.mem = s.mem := rfl

@[simp] theorem completeAccess_mem (s : State) (k : Nat) (l : Latch) (d : Deferred) (parts : List (List Machine.Part)) (late : Option Nat) :
    (completeAccess s k l d parts late).mem = s.mem :=
  by simp [completeAccess]

@[simp] theorem failAccess_mem (s : State) (k : Nat) (l : Latch) (f : FaultRec) : (failAccess s k l f).mem = s.mem := rfl

@[simp] theorem latchWalk_mem (s : State) (l : Latch) (write : Bool) (va : Nat) : (latchWalk s l write va).mem = s.mem :=
  by simp [latchWalk]

@[simp] theorem lookUp_mem (s : State) (k : Nat) (l : Latch) (d : Deferred) : (lookUp s k l d).mem = s.mem := by
  unfold lookUp
  split <;> simp

@[simp] theorem walkedAccess_mem (s : State) (k : Nat) (l : Latch) (d : Deferred) : (walkedAccess s k l d).mem = s.mem := by
  unfold walkedAccess
  dsimp only
  repeat' split
  all_goals simp

@[simp] theorem replay_mem (s : State) (k : Nat) (l : Latch) : (replay s k l).mem = s.mem := by
  unfold replay
  split <;> simp

/-! ## Way -/

@[simp] theorem fillTable_mem (s : State) : s.fillTable.mem = s.mem := rfl

@[simp] theorem countGated_mem (s : State) : (countGated s).mem = s.mem := rfl

/-! ## Stream -/

@[simp] theorem startOverlay_mem (s : State) (core : Nat) (o : Overlay) (t : Nat) : (startOverlay s core o t).mem = s.mem :=
  by simp [startOverlay]

/-! ## Tokens -/

@[simp] theorem retireMarkers_mem (s : State) (core : Nat) : (retireMarkers s core).mem = s.mem := by
  unfold retireMarkers
  refine foldl_mem (fun s p => ?_) _ _
  dsimp only
  split
  · rfl
  · split
    · simp
    · rfl

@[simp] theorem markStep_mem (s : State) (core : Nat) : (markStep s core).mem = s.mem := by simp [markStep]

@[simp] theorem markComplete_mem (s : State) (core id : Nat) : (markComplete s core id).mem = s.mem := by
  unfold markComplete
  split <;> simp

@[simp] theorem sstepDrain_mem (s : State) (core : Nat) : (sstepDrain s core).mem = s.mem := by
  unfold sstepDrain
  repeat' split
  all_goals rfl

/-! ## Handles -/

@[simp] theorem sendBlank_mem (s : State) (core : Nat) (c : Cap) : (s.sendBlank core c).mem = s.mem := by simp [State.sendBlank]

/-! ## Engine -/

@[simp] theorem touchPage_mem (s : State) (core q va len : Nat) : (touchPage s core q va len).mem = s.mem := by
  unfold touchPage
  dsimp only
  repeat' split
  all_goals simp

@[simp] theorem poisonEntry_mem (s : State) (key : Nat) : (s.poisonEntry key).mem = s.mem := by
  unfold State.poisonEntry
  dsimp only
  split <;> rfl

@[simp] theorem stickEntry_mem (s : State) (core q id : Nat) : (s.stickEntry core q id).mem = s.mem := rfl

@[simp] theorem arriveBarrier_mem (s : State) (core : Nat) (e : EngEntry) : (s.arriveBarrier core e).mem = s.mem := by
  unfold State.arriveBarrier
  split <;> rfl

/-! ## Kv -/

@[simp] theorem countRejected_mem (s : State) (core : Nat) (g : Gathered) : (s.countRejected core g).mem = s.mem := rfl

@[simp] theorem setSlot_mem (s : State) (core : Nat) (n : BitVec 4) (st : SlotState) : (s.setSlot core n st).mem = s.mem := rfl

/-! ## CopyEngine -/

@[simp] theorem startCopy_mem (s : State) (core : Nat) : (startCopy s core).mem = s.mem := by
  unfold startCopy
  repeat' split
  all_goals rfl

/-! ## AttnWords -/

@[simp] theorem attnRetire_mem (s : State) (core : Nat) : (attnRetire s core).mem = s.mem := by
  unfold attnRetire
  dsimp only
  split <;> simp

@[simp] theorem attnFinish_mem (s : State) (core pc kind : Nat) : (attnFinish s core pc kind).mem = s.mem := by simp [attnFinish]

@[simp] theorem attnPoison_mem (s : State) (core pc : Nat) : (attnPoison s core pc).mem = s.mem := rfl

@[simp] theorem attnRecord_mem (s : State) (core : Nat) : (attnRecord s core).mem = s.mem := by
  unfold attnRecord
  dsimp only
  split <;> simp

@[simp] theorem stopAstart_mem (s : State) (core id : Nat) : (stopAstart s core id).mem = s.mem := rfl

@[simp] theorem astartBegin_mem (s : State) (core : Nat) (e : EngEntry) (c : Cap) (p : Nat) (upc : BitVec 12) :
    (astartBegin s core e c p upc).mem = s.mem :=
  by simp [astartBegin]

/-! ## Homes -/

@[simp] theorem returnWeight_mem (s : State) (key w : Nat) : (returnWeight s key w).mem = s.mem := by
  unfold returnWeight
  dsimp only
  split <;> simp

@[simp] theorem extendEntry_mem (s : State) (key : Nat) : (extendEntry s key).1.mem = s.mem := by
  unfold extendEntry
  dsimp only
  split <;> rfl

@[simp] theorem sealEntry_mem (s : State) (key rows cols fmt : Nat) : (sealEntry s key rows cols fmt).mem = s.mem := by simp [sealEntry]

@[simp] theorem blankEntry_mem (s : State) (key : Nat) : (blankEntry s key).mem = s.mem := by
  unfold blankEntry
  dsimp only
  split <;> rfl

@[simp] theorem allocBlock_mem (s : State) (part : BitVec 5) (place cls : Nat) : (allocBlock s part place cls).1.mem = s.mem := by
  unfold allocBlock
  split <;> rfl

@[simp] theorem replyAt_mem (s : State) (r : HomeReq) : (replyAt s r).2.mem = s.mem := rfl

@[simp] theorem answer_mem (s : State) (id at_ : Nat) (a : HomeAns) : (s.answer id at_ a).mem = s.mem := by simp [State.answer]

@[simp] theorem homeStep_mem (s : State) (r : HomeReq) : (homeStep s r).mem = s.mem := by
  unfold homeStep
  split <;> simp

@[simp] theorem takeHome_mem (s : State) (id : Nat) : (takeHome s id).mem = s.mem := by
  unfold takeHome
  split <;> simp

@[simp] theorem storageFreed_mem (s : State) (key : Nat) : (storageFreed s key).mem = s.mem := by simp [storageFreed]

@[simp] theorem updTells_mem (s : State) (core : Nat) (u : Upd) (msg : HomeMsg) (waitFor : List Nat) :
    (updTells s core u msg waitFor).mem = s.mem :=
  rfl

@[simp] theorem updDone_mem (s : State) (core : Nat) (u : Upd) (l : Latch) : (updDone s core u l).mem = s.mem := by
  unfold updDone
  dsimp only
  repeat' split
  all_goals simp

@[simp] theorem updFail_mem (s : State) (core : Nat) (u : Upd) (l : Latch) (cls : FaultClass) (tinfo : Word64) :
    (updFail s core u l cls tinfo).mem = s.mem := by
  unfold updFail
  dsimp only
  split <;> simp

@[simp] theorem updCopy_mem (s : State) (core : Nat) (u : Upd) (l : Latch) (b : Cap) : (updCopy s core u l b).mem = s.mem := rfl

@[simp] theorem updStep_mem (core : Nat) (s : State) (u : Upd) : (updStep core s u).mem = s.mem := by
  unfold updStep
  dsimp only
  repeat' split
  all_goals simp

@[simp] theorem tickHomes_mem (s : State) : (tickHomes s).mem = s.mem := by simp [tickHomes]

/-! ## Micro -/

@[simp] theorem modAttn_mem (s : State) (core : Nat) (f : Attn → Attn) : (s.modAttn core f).mem = s.mem := rfl

@[simp] theorem microGo_mem (s : State) (core pc : Nat) : (microGo s core pc).mem = s.mem := rfl

@[simp] theorem microReserved_mem (s : State) (core : Nat) : (microReserved s core).mem = s.mem := by simp [microReserved]

/-! ## Porter -/

@[simp] theorem replying_mem (s : State) (r : PorterReq) : (s.replying r).mem = s.mem := rfl

@[simp] theorem takeRequest_mem (s : State) (r : PorterReq) : (takeRequest s r).mem = s.mem := rfl

@[simp] theorem waitvPoll_mem (s : State) (core : Nat) : (waitvPoll s core).mem = s.mem := by
  unfold waitvPoll
  dsimp only
  split <;> simp

@[simp] theorem leavePorter_mem (core : Nat) (es : List EngEntry) (s : State) : (leavePorter core es s).mem = s.mem := by
  induction es generalizing s with
  | nil => rfl
  | cons e es ih =>
    simp only [leavePorter]
    split
    · split
      · exact ih s
      · split
        · rw [ih]; split <;> rfl
        · rfl
    · exact ih s

@[simp] theorem startPorter_mem (s : State) (core : Nat) : (startPorter s core).mem = s.mem := by simp [startPorter]

@[simp] theorem refreshCells_mem (s : State) : (refreshCells s).mem = s.mem := by simp [refreshCells]

/-! ## Link -/

@[simp] theorem sendItem_mem (s : State) (peer core : Nat) (item : ServiceItem) : (s.sendItem peer core item).mem = s.mem := rfl

@[simp] theorem stage_mem (s : State) (core : Nat) (e : EngEntry) (m : Message) (port rot slot berth off : Nat) (keep : Bool) :
    (s.stage core e m port rot slot berth off keep).mem = s.mem :=
  by simp [State.stage]

@[simp] theorem markPeer_mem (s : State) (core peer : Nat) : (s.markPeer core peer).mem = s.mem := rfl

@[simp] theorem remoteEntry_mem (s : State) (core : Nat) (e : EngEntry) (kind : RemoteKind) (peer : Nat) (c : Cap) (v w : Word64) :
    (remoteEntry s core e kind peer c v w).mem = s.mem :=
  by simp [remoteEntry]

@[simp] theorem drainDone_mem (s : State) : s.drainDone.mem = s.mem := by
  unfold State.drainDone
  dsimp only
  repeat' split
  all_goals simp

@[simp] theorem lmarkEntry_mem (s : State) (core : Nat) (e : EngEntry) (token : BitVec 6) : (lmarkEntry s core e token).mem = s.mem := by
  unfold lmarkEntry
  rw [drainDone_mem]
  exact (foldl_mem (fun _ _ => by rfl) _ _).trans (mem_retireEntry s core qLink e)

@[simp] theorem startLink_mem (s : State) (core : Nat) : (startLink s core).mem = s.mem := by
  unfold startLink
  repeat' split
  all_goals rfl

/-! ## Turntable -/

@[simp] theorem modTt_mem (s : State) (f : Turntable → Turntable) : (s.modTt f).mem = s.mem := rfl

@[simp] theorem modPeer_mem (s : State) (p : Nat) (f : Peer → Peer) : (s.modPeer p f).mem = s.mem := rfl

@[simp] theorem retireStaged_mem (s : State) (m : Staged) : (s.retireStaged m).mem = s.mem := by
  unfold State.retireStaged
  split <;> simp

@[simp] theorem creditBack_mem (s : State) (m : Message) (relay : Bool) : (s.creditBack m relay).mem = s.mem := by
  unfold State.creditBack
  split <;> rfl

@[simp] theorem giveBack_mem (s : State) (m : Staged) (late : Bool) : (s.giveBack m late).mem = s.mem := by simp [State.giveBack]

@[simp] theorem lateReturn_mem (s : State) (id : Nat) : (lateReturn s id).mem = s.mem := by
  unfold lateReturn
  split <;> simp

@[simp] theorem returnOne_mem (s : State) : (returnOne s).mem = s.mem := by
  unfold returnOne
  split <;> simp

@[simp] theorem failRead_mem (s : State) (core id peer : Nat) : (s.failRead core id peer).mem = s.mem := by simp [State.failRead]

@[simp] theorem failQuery_mem (s : State) (core id peer : Nat) : (s.failQuery core id peer).mem = s.mem := by simp [State.failQuery]

@[simp] theorem failItem_mem (s : State) (o : OutItem) : (s.failItem o).mem = s.mem := by
  unfold State.failItem
  dsimp only
  repeat' split
  all_goals simp

@[simp] theorem failItems_mem (s : State) (fails : OutItem → Bool) : (s.failItems fails).mem = s.mem := by simp [State.failItems]

@[simp] theorem returnWhere_mem (s : State) (back : Staged → Bool) : (s.returnWhere back).mem = s.mem := by simp [State.returnWhere]

@[simp] theorem ackPeer_mem (s : State) (peer n : Nat) : (s.ackPeer peer n).mem = s.mem := by simp [State.ackPeer]

@[simp] theorem failAsked_mem (s : State) (peer : Nat) : (s.failAsked peer).mem = s.mem := by
  unfold State.failAsked
  dsimp only
  rw [foldl_mem fun s q => by split <;> simp]
  exact foldl_mem (fun s c => by simp) _ _

@[simp] theorem freeRelay_mem (s : State) (m : Staged) : (s.freeRelay m).mem = s.mem := rfl

@[simp] theorem dropRelays_mem (s : State) (peer : Nat) : (s.dropRelays peer).mem = s.mem := by
  unfold State.dropRelays
  exact foldl_mem freeRelay_mem _ _

@[simp] theorem settle_mem (s : State) (peer n : Nat) : (s.settle peer n).mem = s.mem := by simp [State.settle]

@[simp] theorem loseReach_mem (s : State) (peer : Nat) : (s.loseReach peer).mem = s.mem := rfl

@[simp] theorem messageIn_mem (s : State) (m : Message) : (messageIn s m).mem = s.mem := by simp [messageIn]

@[simp] theorem markerIn_mem (s : State) (peer : Nat) : (s.markerIn peer).mem = s.mem := by simp [State.markerIn]

@[simp] theorem noticeIn_mem (s : State) (n : Notice) : (s.noticeIn n).mem = s.mem := by
  unfold State.noticeIn
  split <;> simp

@[simp] theorem itemIn_mem (s : State) (peer : Nat) (i : ServiceItem) : (itemIn s peer i).mem = s.mem := by
  cases i with
  | reply => simp only [itemIn]; split <;> simp
  | unique => simp only [itemIn]; split <;> simp
  | extend part base id =>
    have h := extendEntry_mem s (dirKey 0 part (BitVec.ofNat 64 base))
    simp only [itemIn]
    split
    · rename_i e; rw [e] at h; exact h
    · rename_i e; rw [e] at h; exact h
  | _ => simp [itemIn]

@[simp] theorem ackHop_mem (s : State) (peer : Nat) (m : Message) : (s.ackHop peer m).mem = s.mem := rfl

@[simp] theorem hopAckIn_mem (s : State) (src dst seq : Nat) : (hopAckIn s src dst seq).mem = s.mem := by simp [hopAckIn]

@[simp] theorem credit_mem (s : State) (peer arr rel : Nat) : (s.credit peer arr rel).mem = s.mem := rfl

@[simp] theorem endRotation_mem (s : State) : (endRotation s).mem = s.mem := by
  unfold endRotation
  exact foldl_mem (fun _ _ => by rfl) _ _

@[simp] theorem beginSlot_mem (s : State) (slot at_ : Nat) (checks : BitVec 8) : (beginSlot s slot at_ checks).mem = s.mem := by
  unfold beginSlot
  exact foldl_mem (fun _ _ => by rfl) _ _

@[simp] theorem slotOccurrence_mem (s : State) (checks : BitVec 8) : (slotOccurrence s checks).mem = s.mem := by simp [slotOccurrence]

@[simp] theorem departMessage_mem (s : State) (m : Staged) : (departMessage s m).mem = s.mem := rfl

@[simp] theorem relayFlits_mem (q began free : Nat) (ms : List Staged) (s : State) : (relayFlits q began free ms s).mem = s.mem := by
  induction ms generalizing free s with
  | nil => rfl
  | cons m ms ih =>
    simp only [relayFlits]
    split
    · rw [ih]; split <;> rfl
    · exact ih _ s

@[simp] theorem departItem_mem (s : State) (o : OutItem) : (departItem s o).mem = s.mem := by
  unfold departItem
  split <;> rfl

@[simp] theorem departItems_mem (s : State) (peer : Nat) : (departItems s peer).mem = s.mem := by simp [departItems]

@[simp] theorem berthStep_mem (s : State) : (berthStep s).mem = s.mem := by
  unfold berthStep
  dsimp only
  refine (foldl_mem (fun _ _ => by simp) _ _).trans ?_
  refine (foldl_mem (fun _ _ => by simp) _ _).trans ?_
  exact foldl_mem departMessage_mem _ _

@[simp] theorem markersBack_mem (s : State) : (markersBack s).mem = s.mem := by
  unfold markersBack
  exact foldl_mem (fun _ _ => by rfl) _ _

@[simp] theorem failDead_mem (s : State) : (failDead s).mem = s.mem := by simp [failDead]

@[simp] theorem tickTurntable_mem (s : State) : (tickTurntable s).mem = s.mem := by simp [tickTurntable]

@[simp] theorem calendarDark_mem (s : State) : (calendarDark s).mem = s.mem := by
  unfold calendarDark
  refine foldl_mem (fun s p => ?_) _ _
  exact foldl_mem (fun _ _ => by rfl) _ _

@[simp] theorem calendarTakeover_mem (s : State) (relocked : BitVec 8) : (calendarTakeover s relocked).mem = s.mem := by
  unfold calendarTakeover
  dsimp only
  refine (foldl_mem (fun _ _ => by rfl) _ _).trans ?_
  refine (returnWhere_mem _ _).trans ?_
  exact foldl_mem (fun _ _ => by rfl) _ _

@[simp] theorem freeFlits_mem (s : State) (a : Arrival) : (s.freeFlits a).mem = s.mem := by
  unfold State.freeFlits
  split <;> rfl

@[simp] theorem takeInto_mem (s : State) (core : Nat) (ids : List Nat) (fs : List (Effect → Effect)) :
    (s.takeInto core ids fs).mem = s.mem :=
  by simp [State.takeInto]

@[simp] theorem lstatStep_mem (s : State) (core sel : Nat) (ids : List Nat) : (lstatStep s core sel ids).mem = s.mem := by simp [lstatStep]

/-! ## Shuttle -/

@[simp] theorem modTx_mem (s : State) (core : Nat) (ch : BitVec 4) (f : ShTx → ShTx) : (s.modTx core ch f).mem = s.mem := by
  unfold State.modTx
  split <;> rfl

@[simp] theorem modRx_mem (s : State) (core : Nat) (ch : BitVec 4) (f : ShRx → ShRx) : (s.modRx core ch f).mem = s.mem := by
  unfold State.modRx
  split <;> rfl

@[simp] theorem closeRx_mem (s : State) (core : Nat) (ch : BitVec 4) : (s.closeRx core ch).mem = s.mem := by
  unfold State.closeRx
  split <;> simp

@[simp] theorem tabletArrival_mem (s : State) (core : Nat) (ch : BitVec 4) : (tabletArrival s core ch).mem = s.mem := by
  unfold tabletArrival
  split
  · rfl
  · split <;> simp

@[simp] theorem shuttleFinish_mem (core : Nat) (e : EngEntry) (c b : Cap) (rx : Nat) (ch : BitVec 4) (s : State) :
    (shuttleFinish core e c b rx ch s).mem = s.mem := by
  unfold shuttleFinish
  split <;> simp

@[simp] theorem startShuttle_mem (s : State) (core : Nat) : (startShuttle s core).mem = s.mem := by
  unfold startShuttle
  repeat' split
  all_goals rfl

/-! ## SBox -/

@[simp] theorem modSbox_mem (s : State) (f : SBox → SBox) : (s.modSbox f).mem = s.mem := rfl

@[simp] theorem raiseIrq_mem (s : State) (core : Nat) (src : BitVec 3) (at_ : Nat) : (s.raiseIrq core src at_).mem = s.mem :=
  by simp [State.raiseIrq]

@[simp] theorem exception_mem (s : State) (r : Record) (reason : BitVec 4) : (s.exception r reason).mem = s.mem := rfl

@[simp] theorem recordPass_mem (s : State) (id : Nat) : (recordPass s id).mem = s.mem := by
  unfold recordPass
  split <;> simp

@[simp] theorem sbgetStep_mem (s : State) (core : Nat) (exc : Bool) (addr : Nat) (ids : List Nat) :
    (sbgetStep s core exc addr ids).mem = s.mem := by
  unfold sbgetStep
  dsimp only
  split <;> simp

@[simp] theorem sbstatStep_mem (s : State) (core sel : Nat) (ids : List Nat) : (sbstatStep s core sel ids).mem = s.mem :=
  by simp [sbstatStep]

@[simp] theorem recordIngress_mem (s : State) (core : Nat) (pipe : BitVec 1) : (recordIngress s core pipe).mem = s.mem := by
  unfold recordIngress
  dsimp only
  repeat' split
  all_goals simp

@[simp] theorem shadowBankWrite_mem (s : State) (core : Nat) : (shadowBankWrite s core).mem = s.mem := by
  unfold shadowBankWrite
  dsimp only
  repeat' split
  all_goals simp

@[simp] theorem sbCommit_mem (s : State) (core : Nat) (e : EngEntry) (mask : BitVec 32) : (sbCommit s core e mask).mem = s.mem :=
  by simp [sbCommit]

/-! ## Holds -/

@[simp] theorem discardLatch_mem (k : Nat) (s : State) (l : Latch) : (discardLatch k s l).mem = s.mem := rfl

@[simp] theorem unask_mem (s : State) (w : Nat × SeqId) : (unask s w).mem = s.mem := by
  unfold unask
  split <;> simp

@[simp] theorem timerCompare_mem (s : State) (core : Nat) : (timerCompare s core).mem = s.mem := by simp [timerCompare]

@[simp] theorem refuse_mem (s : State) (addr : Word64) (part : BitVec 5) : (s.refuse addr part).mem = s.mem := rfl

@[simp] theorem hostNotification_mem (s : State) (vf : BitVec 5) (value : BitVec 64) : (hostNotification s vf value).mem = s.mem :=
  by simp [hostNotification]

/-! ## Trains -/

@[simp] theorem offer_mem (s : State) (part : BitVec 5) : (s.offer part).mem = s.mem := by
  unfold State.offer
  split <;> rfl

@[simp] theorem setTrains_mem (s : State) (ts : List Train) : (s.setTrains ts).mem = s.mem := rfl

@[simp] theorem modTrain_mem (s : State) (part : BitVec 5) (num : BitVec 15) (f : Train → Train) : (s.modTrain part num f).mem = s.mem :=
  rfl

@[simp] theorem acceptTrain_mem (s : State) (p : List Word64) : (acceptTrain s p).1.mem = s.mem := by simp [acceptTrain]

@[simp] theorem takeCar_mem (s : State) (tr : Train) : (takeCar s tr).1.mem = s.mem := rfl

@[simp] theorem beginScrub_mem (s : State) (core : Nat) : (beginScrub s core).mem = s.mem := by simp [beginScrub]

@[simp] theorem dissolve_mem (s : State) (k : Nat) : (dissolve s k).mem = s.mem := by
  unfold dissolve
  rw [foldl_mem fun _ _ => by simp]
  exact foldl_mem (fun _ _ => by rfl) _ _

@[simp] theorem completionAdd_mem (s : State) (t : Train) (v : Word64) : (completionAdd s t v).mem = s.mem := by simp [completionAdd]

@[simp] theorem notify_mem (s : State) (part : BitVec 5) (vec : Nat) : (s.notify part vec).mem = s.mem := rfl

@[simp] theorem closeChannels_mem (s : State) (part : BitVec 5) (num : BitVec 15) : (closeChannels s part num).mem = s.mem :=
  by simp [closeChannels]

@[simp] theorem completeTrain_mem (s : State) (t : Train) (v : Word64) : (completeTrain s t v).mem = s.mem := by simp [completeTrain]

@[simp] theorem dropHandles_mem (s : State) (core : Nat) : (dropHandles s core).mem = s.mem := by simp [dropHandles]

@[simp] theorem carEnds_mem (s : State) (k : Nat) : (carEnds s k).1.mem = s.mem := by
  unfold carEnds
  dsimp only
  repeat' split
  all_goals simp

@[simp] theorem requestSave_mem (t : Train) (s : State) (k : Nat) : (requestSave t s k).mem = s.mem := by simp [requestSave]

@[simp] theorem preempt_mem (acc : State × State) (t : Train) : (preempt acc t).1.mem = acc.1.mem := by
  unfold preempt
  dsimp only
  split
  · rfl
  · split
    · rfl
    · exact foldl_mem (fun _ _ => by simp) _ _

@[simp] theorem preemptAll_mem (s : State) (ts : List Train) : (preemptAll s ts).mem = s.mem := by
  have key : ∀ (l : List Train) (acc : State × State), (l.foldl preempt acc).1.mem = acc.1.mem := by
    intro l
    induction l with
    | nil => exact fun _ => rfl
    | cons t l ih => exact fun acc => (ih _).trans (preempt_mem acc t)
  exact key ts _

@[simp] theorem logMismatch_mem (s : State) (part : BitVec 5) : (logMismatch s part).mem = s.mem := by simp [logMismatch]

@[simp] theorem dropAll_mem (s : State) (core : Nat) (cs : List Cap) : (dropAll s core cs).mem = s.mem := by simp [dropAll]

/-! ## Contexts -/

@[simp] theorem revive_mem (s : State) (k : Nat) : (revive s k).mem = s.mem := by
  unfold revive
  dsimp only
  split
  · exact foldl_mem (fun _ _ => by rfl) _ _
  · rfl

@[simp] theorem doorbell_mem (s : State) (vf : BitVec 5) (value : BitVec 64) : (doorbell s vf value).mem = s.mem := by simp [doorbell]

@[simp] theorem queueBase_mem (s : State) (vf : BitVec 5) (value : BitVec 64) : (queueBase s vf value).mem = s.mem := by simp [queueBase]

/-! ## Partitions -/

@[simp] theorem descriptorWrite_mem (s : State) (part : BitVec 5) (d : Word64) : (descriptorWrite s part d).mem = s.mem :=
  by simp [descriptorWrite]

@[simp] theorem berthTableWrite_mem (s : State) (index : Nat) (v : BitVec 16) : (berthTableWrite s index v).mem = s.mem :=
  by simp [berthTableWrite]

@[simp] theorem grantChange_mem (s : State) (part : BitVec 5) (g : GrantSet) : (grantChange s part g).mem = s.mem := rfl

@[simp] theorem settleGrant_mem (s : State) (c : BitVec 5 × GrantSet) : (settleGrant s c).mem = s.mem := by
  unfold settleGrant
  split <;> rfl

@[simp] theorem settleGrants_mem (s : State) : (settleGrants s).mem = s.mem := by simp [settleGrants]

@[simp] theorem planMove_mem (s : State) (core : Nat) (to_ : BitVec 5) : (planMove s core to_).mem = s.mem := by simp [planMove]

@[simp] theorem planMoves_mem (n : Nat) (s : State) : (planMoves n s).mem = s.mem := by
  induction n generalizing s with
  | zero => rfl
  | succ n ih =>
    simp only [planMoves]
    split
    · rfl
    · split
      · rfl
      · rw [ih, planMove_mem]

@[simp] theorem serviceEnd_mem (s : State) : (serviceEnd s).mem = s.mem := by simp [serviceEnd]

@[simp] theorem releaseShare_mem (s : State) (core : Nat) (part : BitVec 5) : (releaseShare s core part).mem = s.mem := by
  unfold releaseShare
  exact foldl_mem (fun _ _ => by rfl) _ _

@[simp] theorem shareTo_mem (s : State) (core : Nat) (part : Option (BitVec 5)) : (shareTo s core part).mem = s.mem := rfl

@[simp] theorem giveCore_mem (s : State) (core : Nat) (value : Word64) : (giveCore s core value).mem = s.mem := by
  unfold giveCore
  dsimp only
  repeat' split
  all_goals simp

@[simp] theorem stageKind_mem (s : State) (table : Nat) (kind : BitVec 2) : (stageKind s table kind).mem = s.mem := by
  unfold stageKind
  split <;> rfl

@[simp] theorem stageWindow_mem (s : State) (part : BitVec 5) (table : Nat) (value : Word64) :
    (stageWindow s part table value).mem = s.mem :=
  by simp [stageWindow]

/-! ## Manage -/

@[simp] theorem setWindow_mem (s : State) (b : Bool) : (setWindow s b).mem = s.mem := rfl

@[simp] theorem poisonedRelease_mem (s : State) (key : Nat) : (poisonedRelease s key).mem = s.mem := by simp [poisonedRelease]

@[simp] theorem finishInvalid_mem (s : State) : (finishInvalid s).mem = s.mem := by
  unfold finishInvalid
  split <;> simp

@[simp] theorem invalidate_mem (s : State) (part : BitVec 5) (va : Word64) (log2 : Nat) : (invalidate s part va log2).mem = s.mem :=
  by simp [invalidate]

@[simp] theorem invalidationAck_mem (s : State) (die : Nat) : (invalidationAck s die).mem = s.mem := by
  unfold invalidationAck
  split <;> simp

@[simp] theorem pageMigration_mem (s : State) (old new log2 : Nat) : (pageMigration s old new log2).mem = s.mem := by simp [pageMigration]

@[simp] theorem moveEntries_mem (s : State) (from_ to_ : Nat) : (moveEntries s from_ to_).mem = s.mem := rfl

@[simp] theorem dieResetRequest_mem (s : State) (die : Nat) : (dieResetRequest s die).mem = s.mem := by
  unfold dieResetRequest
  split <;> rfl

@[simp] theorem resetRelease_mem (s : State) (die : Nat) : (resetRelease s die).mem = s.mem := by simp [resetRelease]

@[simp] theorem frequencyRequest_mem (s : State) (point : BitVec 2) : (frequencyRequest s point).mem = s.mem := by simp [frequencyRequest]

@[simp] theorem stallStart_mem (s : State) : (stallStart s).mem = s.mem := by
  unfold stallStart
  split <;> rfl

@[simp] theorem stallEnd_mem (s : State) : (stallEnd s).mem = s.mem := by
  unfold stallEnd
  split <;> rfl

@[simp] theorem slipStall_mem (s : State) (die lag : Nat) : (slipStall s die lag).mem = s.mem := rfl

@[simp] theorem fetched_mem (s : State) (i : BootImage) : (fetched s i).mem = s.mem := rfl

@[simp] theorem extendMr_mem (s : State) (i : Nat) (d : BitVec 512) : (extendMr s i d).mem = s.mem := rfl

@[simp] theorem imageAccept_mem (s : State) : (imageAccept s).mem = s.mem := by simp [imageAccept]

@[simp] theorem quote_mem (s : State) (nonce : BitVec 512) : (quote s nonce).mem = s.mem := rfl

@[simp] theorem offerAll_mem (s : State) : (offerAll s).mem = s.mem := by simp [offerAll]

@[simp] theorem powerState_mem (s : State) (die : Nat) (st : BitVec 2) : (powerState s die st).mem = s.mem := by simp [powerState]

@[simp] theorem heatDie_mem (s : State) (p : Nat × Int) : (heatDie s p).mem = s.mem := rfl

@[simp] theorem closeDie_mem (s : State) (die : Nat) : (closeDie s die).mem = s.mem := by
  unfold closeDie
  split <;> rfl

@[simp] theorem heatStep_mem (s : State) (hot : List Nat) : (heatStep s hot).mem = s.mem := by simp [heatStep]

@[simp] theorem coolStep_mem (s : State) : (coolStep s).mem = s.mem := by
  unfold coolStep
  extract_lets open_ d u w x
  have hu : u.mem = s.mem := by simp only [u, ite_mem, offerAll_mem, ite_self]
  have hw : w.mem = s.mem := by simp only [w, ite_mem, frequencyRequest_mem, hu, ite_self]
  have hx : x.mem = s.mem := (foldl_mem (fun _ _ => by rfl) _ _).trans hw
  clear_value u w x
  split
  · exact hx
  · exact hu

/-! ## Loader -/

@[simp] theorem loaderStatus_mem (s : State) (code : BitVec 8) : (s.loaderStatus code).mem = s.mem := rfl

@[simp] theorem releaseStorage_mem (s : State) (key : Nat) : (releaseStorage s key).mem = s.mem := by simp [releaseStorage]

end Sys2Proof.Laws
end

section
/-! SUPPORT. What writes memory keeps its canonical form (log 2), module by module. -/
namespace Sys2Proof.Laws
open Sys2Proof Sys2Proof.Machine
-- In order: each thread of an elaboration in parallel reserves its stack, and the text is long.
set_option Elab.async false

/-- A fold whose every step keeps memory canonical keeps it so. -/
@[simp] theorem wf_foldState {β : Type} {f : State → β → State} (hf : ∀ s b, s.mem.wf = true → (f s b).mem.wf = true) (l : List β)
    {s : State} (h : s.mem.wf = true) : (l.foldl f s).mem.wf = true := by
  induction l generalizing s with
  | nil => exact h
  | cons b l ih => exact ih (hf s b h)

/-! ## Xlate -/

theorem wf_casDirty {s t : State} (h : s.mem.wf = true) {entry : Nat} {was : Word64} (ht : s.casDirty entry was = some t) :
    t.mem.wf = true := by
  unfold State.casDirty at ht
  split at ht
  · cases ht; exact wf_write64 h _ _
  · cases ht

/-! ## Matrix -/

@[simp] theorem wf_drainRow {s : State} (h : s.mem.wf = true) (cons core : Nat) (l : Latch) (d : Drain) (i : Nat) :
    (drainRow s cons core l d i).mem.wf = true := by
  unfold drainRow
  simp [h]

/-! ## Trace -/

theorem wf_traceWrite {s t : State} (h : s.mem.wf = true) {core slot : Nat} {rec : Word64} (ht : traceWrite s core slot rec = some t) :
    t.mem.wf = true := by
  unfold traceWrite at ht
  dsimp only at ht
  split at ht
  · cases ht; exact wf_writeParts h _ _
  · cases ht

@[simp] theorem wf_traceStore {s : State} (h : s.mem.wf = true) (core : Nat) (rec : Word64) : (traceStore s core rec).mem.wf = true := by
  unfold traceStore
  dsimp only
  split
  · rename_i e; rw [modTrace_mem]; exact wf_traceWrite h e
  · exact h

@[simp] theorem wf_tellLost {s : State} (h : s.mem.wf = true) (core : Nat) : (tellLost s core).mem.wf = true := by
  unfold tellLost
  dsimp only
  split
  · exact h
  · split
    · rename_i e; rw [modTrace_mem]; exact wf_traceWrite h e
    · exact h

@[simp] theorem wf_tracePut {s : State} (h : s.mem.wf = true) (core : Nat) (rec : Word64) : (tracePut s core rec).mem.wf = true := by
  have ht := wf_tellLost h core
  unfold tracePut
  dsimp only
  split
  · exact wf_traceStore ht core rec
  · split
    · rename_i e; exact wf_traceWrite (s := (tellLost s core).modTrace core _) ht e
    · exact ht

@[simp] theorem wf_traceAt {s : State} (h : s.mem.wf = true) (core typ q ttc payload : Nat) :
    (traceAt s core typ q ttc payload).mem.wf = true := by
  unfold traceAt
  dsimp only
  split <;> simp [h]

@[simp] theorem wf_traceFlush {s : State} (h : s.mem.wf = true) (core : Nat) : (traceFlush s core).mem.wf = true := by
  unfold traceFlush
  dsimp only
  split <;> simp [h]

@[simp] theorem wf_traceEvent {s : State} (h : s.mem.wf = true) (core typ q payload ttc : Nat) :
    (traceEvent s core typ q payload ttc).mem.wf = true := by
  unfold traceEvent
  split <;> simp [h]

@[simp] theorem wf_traceBranch {s : State} (h : s.mem.wf = true) (core : Nat) (taken : Bool) (ttc : Nat) :
    (traceBranch s core taken ttc).mem.wf = true := by
  unfold traceBranch
  dsimp only
  repeat' split
  all_goals simp [h]

@[simp] theorem wf_traceHold {s : State} (h : s.mem.wf = true) (core causes ttc fuel len : Nat) :
    (traceHold s core causes ttc fuel len).mem.wf = true := by
  induction fuel generalizing s len with
  | zero => exact h
  | succ fuel ih =>
    rw [traceHold]
    split
    · exact wf_traceEvent h _ _ _ _ _
    · exact ih (wf_traceEvent h _ _ _ _ _) _

@[simp] theorem wf_traceHolds {s : State} (h : s.mem.wf = true) (k : Nat) (hold : Hold) : (traceHolds s k hold).mem.wf = true := by
  unfold traceHolds
  exact wf_foldState (fun s x h => wf_traceHold h _ _ _ _ _) _ h

@[simp] theorem wf_endHold {s : State} (h : s.mem.wf = true) (k : Nat) : (endHold s k).mem.wf = true := by
  unfold endHold
  split <;> simp [h]

/-! ## Perform -/

@[simp] theorem wf_loadSlot {s : State} (h : s.mem.wf = true) (core : Nat) (n : BitVec 4) (l : SlotLoad) :
    (State.loadSlot s core n l).mem.wf = true := by
  unfold State.loadSlot
  simp [h]

@[simp] theorem wf_perform {s : State} (h : s.mem.wf = true) (cons : Nat) (l : Latch) : (perform s cons l).mem.wf = true := by
  unfold perform
  dsimp only
  repeat' split
  all_goals simp [h]

@[simp] theorem wf_performLatch {s : State} (h : s.mem.wf = true) (cons : Nat) (l : Latch) : (performLatch s cons l).mem.wf = true := by
  unfold performLatch
  split
  · exact h
  · split
    · exact h
    · exact wf_perform h cons l

@[simp] theorem wf_performPhase {s : State} (h : s.mem.wf = true) (cons n : Nat) (ls : List Latch) :
    (performPhase cons n ls s).mem.wf = true := by
  unfold performPhase
  refine wf_foldState (fun s l h => ?_) _ h
  split
  · exact wf_performLatch h cons l
  · exact h

@[simp] theorem wf_performDue {s : State} (h : s.mem.wf = true) (cons : Nat) : (performDue s cons).mem.wf = true := by
  unfold performDue
  extract_lets c due s₁ s₂ s₃ s₄ s₅
  have h₄ : s₄.mem.wf = true := wf_performPhase (wf_performPhase (wf_performPhase (s := s₁) h _ _ _) _ _ _) _ _ _
  have h₅ : s₅.mem.wf = true := by
    simp only [s₅]
    split
    · exact h₄
    · exact wf_foldState (fun s core h => by rwa [matCycle_mem]) _ h₄
  exact wf_performPhase (wf_performPhase h₅ _ _ _) _ _ _

@[simp] theorem wf_performOlder {s : State} (h : s.mem.wf = true) (cons core id : Nat) : (performOlder s cons core id).mem.wf = true := by
  unfold performOlder
  simp [h]

@[simp] theorem wf_performToks {s : State} (h : s.mem.wf = true) (n cons : Nat) : (performToks n s cons).mem.wf = true := by
  unfold performToks
  exact wf_foldState (fun s l h => wf_performLatch h cons l) _ (by exact h)

@[simp] theorem wf_performTokens {s : State} (h : s.mem.wf = true) : (performTokens s).mem.wf = true := by
  unfold performTokens
  have step := fun n => fun (s : State) (k : Nat) h => wf_performToks (s := s) h n k
  exact wf_foldState (step 2) _ (wf_foldState (step 1) _ (wf_foldState (step 0) _ h))

/-! ## Frame -/

@[simp] theorem wf_writeFrame {s : State} (h : s.mem.wf = true) (c : Nat) (q : SeqId) (t : Nat) (ls : List Latch) (list : List FaultRec) :
    (writeFrame s c q t ls list).1.mem.wf = true := by
  unfold writeFrame
  simp [h]

/-! ## Ops -/

theorem wf_enterHandler (k : Nat) (f : FaultRec) (t : Nat) (ls : List Latch) (list : List FaultRec) (cq : Nat × SeqId)
    {acc : State × List Latch} (h : acc.1.mem.wf = true) : (enterHandler k f t ls list cq acc).1.mem.wf = true := by
  unfold enterHandler
  exact wf_writeFrame (s := acc.1.modSeqAt _ _ _) h _ _ _ _ _

theorem wf_enterHandlers (k : Nat) (f : FaultRec) (t : Nat) (ls : List Latch) (list : List FaultRec) (cqs : List (Nat × SeqId))
    {acc : State × List Latch} (h : acc.1.mem.wf = true) :
    (cqs.foldl (fun acc cq => enterHandler k f t ls list cq acc) acc).1.mem.wf = true := by
  induction cqs generalizing acc with
  | nil => exact h
  | cons cq cqs ih => exact ih (wf_enterHandler k f t ls list cq h)

@[simp] theorem wf_trap {s : State} (h : s.mem.wf = true) (k : Nat) (f : FaultRec) (others : List FaultRec) :
    (trap s k f others).mem.wf = true := by
  unfold trap
  extract_lets c t gone held minors ls list s₁ s₂
  have h₂ : s₂.mem.wf = true := by
    refine wf_foldState (fun s core h => by exact h) _ (wf_foldState (fun s l h => ?_) _ h)
    rwa [lostResult_mem]
  clear_value s₂ s₁
  split
  · rwa [freeze_mem]
  · split
    · rwa [freeze_mem]
    · rw [setCons_mem]
      exact wf_enterHandlers k f t ls list c.seqs (wf_foldState (fun s core h => wf_traceEvent h _ _ _ _ _) _ h₂)

@[simp] theorem wf_report {s : State} (h : s.mem.wf = true) (k : Nat) (f : FaultRec) (issued : Nat) :
    (report s k f issued).mem.wf = true := by
  unfold report
  dsimp only
  split
  · split
    · split
      · simp [h]
      · rw [setCons_mem]
        split
        · exact wf_write64 (wf_write64 (wf_write64 (wf_write64 h _ _) _ _) _ _) _ _
        · exact wf_write64 (wf_write64 (wf_write64 h _ _) _ _) _ _
    · exact h
  · exact h

@[simp] theorem wf_deliver {s : State} (h : s.mem.wf = true) (k id : Nat) (f : Effect → Effect) : (deliver s k id f).mem.wf = true := by
  unfold deliver
  dsimp only
  repeat' split
  all_goals simp [h]

@[simp] theorem wf_resumeAt {s : State} (h : s.mem.wf = true) (k : Nat) : (resumeAt s k).mem.wf = true := by
  unfold resumeAt
  refine wf_foldState (fun s cq h => wf_traceEvent h _ _ _ _ _) _ ?_
  refine wf_foldState (fun s c h => by exact h) _ (wf_foldState (fun s cq h => wf_leaveFrame h cq) _ ?_)
  exact wf_foldState (fun s cq h => by exact h) _ h

/-! ## Units -/

@[simp] theorem wf_lookLatches {s : State} (h : s.mem.wf = true) (k : Nat) : (lookLatches s k).mem.wf = true := by
  unfold lookLatches
  extract_lets c s₁
  have h₁ : s₁.mem.wf = true := wf_foldState (fun s l h => by
    split
    · split <;> simp [h]
    · exact h) _ h
  refine wf_foldState (fun s l h => ?_) _ h₁
  dsimp only
  split
  · split
    · split
      · simp [h]
      · simp [h]
      · exact wf_report h _ _ _
      · exact h
    · exact h
  · exact h

@[simp] theorem wf_arriveLatches {s : State} (h : s.mem.wf = true) (k : Nat) : (arriveLatches s k).mem.wf = true := by
  unfold arriveLatches
  exact wf_foldState (fun s l h => wf_deliver h _ _ _) _ h

/-! ## Stream -/

@[simp] theorem wf_enterSection {s : State} (h : s.mem.wf = true) (core : Nat) (q : SeqId) (t : Nat) :
    (enterSection s core q t).mem.wf = true := by
  unfold enterSection
  dsimp only
  split <;> simp [h]

@[simp] theorem wf_enterSections {s : State} (h : s.mem.wf = true) (k : Nat) : (enterSections s k).mem.wf = true := by
  unfold enterSections
  refine wf_foldState (fun s cq h => ?_) _ h
  dsimp only
  split
  · exact wf_enterSection h _ _ _
  · exact h

@[simp] theorem wf_resumeRun {s : State} (h : s.mem.wf = true) (k : Nat) : (resumeRun s k).mem.wf = true := by
  unfold resumeRun
  dsimp only
  split <;> simp [h]

@[simp] theorem wf_switchOverlay {s : State} (h : s.mem.wf = true) (k : Nat) (num : BitVec 16) : (switchOverlay s k num).mem.wf = true := by
  unfold switchOverlay
  dsimp only
  split
  · exact h
  · refine wf_enterSections ?_ k
    rw [setCons_mem]
    refine wf_foldState (fun s x h => ?_) _ h
    rw [startOverlay_mem]
    exact wf_traceEvent h _ _ _ _ _

/-! ## Tokens -/

@[simp] theorem wf_fenceStep {s : State} (h : s.mem.wf = true) (k core : Nat) (g : Gate) : (fenceStep k core s g).mem.wf = true := by
  unfold fenceStep
  dsimp only
  repeat' split
  all_goals simp [h]

@[simp] theorem wf_fences {s : State} (h : s.mem.wf = true) (k : Nat) : (fences s k).mem.wf = true := by
  unfold fences
  refine wf_foldState (fun s core h => ?_) _ h
  exact wf_foldState (fun s g h => wf_fenceStep h k core g) _ h

@[simp] theorem wf_tickSync {s : State} (h : s.mem.wf = true) : (tickSync s).mem.wf = true := by
  unfold tickSync
  refine wf_foldState (fun s k h => wf_fences h k) _ ?_
  rwa [foldl_mem markStep_mem]

/-! ## Engine -/

@[simp] theorem wf_raise {s : State} (h : s.mem.wf = true) (k : Nat) (f : FaultRec) : (raise s k f).mem.wf = true := by
  unfold raise
  dsimp only
  repeat' split
  all_goals simp [h]

@[simp] theorem wf_moveInto {s : State} (h : s.mem.wf = true) (c : Cap) (pairs : List (Option Nat × Nat)) :
    (moveInto s c pairs).mem.wf = true := by
  unfold moveInto
  simp [h]

@[simp] theorem wf_arriveStamp {s : State} (h : s.mem.wf = true) (core : Nat) (ids : List Nat) :
    (s.arriveStamp core ids).mem.wf = true := by
  unfold State.arriveStamp
  split
  · exact wf_foldState (fun s l h => wf_deliver h _ _ _) _ h
  · exact h

@[simp] theorem wf_entryFault {s : State} (h : s.mem.wf = true) (core : Nat) (e : EngEntry) (f : FaultRec) (atStamp : Bool) :
    (s.entryFault core e f atStamp).mem.wf = true := by
  unfold State.entryFault
  split
  · exact h
  · split
    · exact wf_deliver (by exact h) _ _ _
    · exact wf_report (wf_foldState (fun s n h => wf_deliver h _ _ _) _ h) _ _ _

@[simp] theorem wf_stopEntry {s : State} (h : s.mem.wf = true) (core q : Nat) (e : EngEntry) (x5 : EngStop) :
    (State.stopEntry s core q e x5).mem.wf = true := by
  unfold State.stopEntry
  dsimp only
  repeat' split
  all_goals simp [h]

/-! ## Kv -/

@[simp] theorem wf_slotKeys {s : State} (h : s.mem.wf = true) (core : Nat) (n : BitVec 4) (t : SeqTable) (g : Gathered) :
    (State.slotKeys s core n t g).mem.wf = true := by
  unfold State.slotKeys
  simp [h]

@[simp] theorem wf_slotValues {s : State} (h : s.mem.wf = true) (core : Nat) (n : BitVec 4) (t : SeqTable) (g : Gathered) :
    (State.slotValues s core n t g).mem.wf = true := by
  unfold State.slotValues
  simp [h]

@[simp] theorem wf_enterKv {s : State} (h : s.mem.wf = true) (sites : List Nat) (ws : List (List Machine.Part × List Byte × Bool)) :
    (s.enterKv sites ws).mem.wf = true := by
  unfold State.enterKv
  refine wf_foldState (fun s b h => by exact h) _ ?_
  refine wf_foldl (fun m w h => ?_) _ h
  have hm := wf_foldl (fun (m : Memory) (p : Machine.Part) h =>
    wf_clearPoison (wf_clearTags h (granules (hbmAt p.pa) p.len)) (wholeGranules (hbmAt p.pa) p.len)) w.1 h
  dsimp only
  split
  · exact wf_poisonAll hm _
  · exact hm

/-! ## CopyEngine -/

@[simp] theorem wf_copyFinish {s : State} (h : s.mem.wf = true) (core : Nat) (e : EngEntry) : (copyFinish core e s).mem.wf = true := by
  unfold copyFinish
  dsimp only
  rw [arriveBarrier_mem]
  split
  · exact wf_arriveStamp (by rwa [setSlot_mem]) core e.latches
  · exact wf_arriveStamp h core e.latches

/-! ## AttnWords -/

@[simp] theorem wf_astatStep {s : State} (h : s.mem.wf = true) (core : Nat) (x : Astat) : (astatStep core s x).mem.wf = true := by
  unfold astatStep
  dsimp only
  repeat' split
  all_goals simp [h]

@[simp] theorem wf_tickAttention {s : State} (h : s.mem.wf = true) : (tickAttention s).mem.wf = true := by
  unfold tickAttention
  refine wf_foldState (fun s core h => ?_) _ h
  rw [attnRecord_mem]
  exact wf_foldState (fun s x h => wf_astatStep h core x) _ h

/-! ## Micro -/

@[simp] theorem wf_putP {s : State} (h : s.mem.wf = true) (core : Nat) (p : BitVec 4) (n : Nat) (f8 : Bool) (out : Nat → PRow) :
    (State.putP s core p n f8 out).mem.wf = true := by
  unfold State.putP
  simp [h]

@[simp] theorem wf_storesBefore {s : State} (h : s.mem.wf = true) (core : Nat) : (storesBefore s core).mem.wf = true := by
  unfold storesBefore
  split <;> simp [h]

/-! ## Porter -/

@[simp] theorem wf_porterFault {s : State} (h : s.mem.wf = true) (r : PorterReq) (cls : FaultClass) (tinfo : Word64) :
    (State.porterFault s r cls tinfo).mem.wf = true := by
  unfold State.porterFault
  split <;> simp [h]

@[simp] theorem wf_porterPoison {s : State} (h : s.mem.wf = true) (r : PorterReq) (n : Nat) : (State.porterPoison s r n).mem.wf = true := by
  unfold State.porterPoison
  split <;> simp [h]

@[simp] theorem wf_putStateCells {s : State} (h : s.mem.wf = true) (l : List (Nat × Word64)) : (s.putCells l).mem.wf = true := by
  unfold State.putCells
  rw [mem_retest]
  exact wf_foldl (fun _ _ h => wf_write64 h _ _) _ h

@[simp] theorem wf_putCap {s : State} (h : s.mem.wf = true) (n : Nat) (c : Cap) : (State.putCap s n c).mem.wf = true := by
  unfold State.putCap
  simp [h]

@[simp] theorem wf_putBarrier {s : State} (h : s.mem.wf = true) (n : Nat) (b : Barrier) : (State.putBarrier s n b).mem.wf = true := by
  unfold State.putBarrier
  simp [h]

@[simp] theorem wf_cellEffect {s : State} (h : s.mem.wf = true) (r : PorterReq) : (cellEffect s r).mem.wf = true := by
  unfold cellEffect
  dsimp only
  split
  · split <;> simp [h]
  · simp [h]
  · simp [h]
  · simp [h]
  · rw [mem_porterReply]
    exact wf_putStateCells h _

@[simp] theorem wf_porterPerform {s : State} (h : s.mem.wf = true) (r : PorterReq) : (porterPerform s r).mem.wf = true := by
  unfold porterPerform
  dsimp only
  repeat' split
  all_goals simp [h]

@[simp] theorem wf_barrierArrive {s : State} (h : s.mem.wf = true) (r : PorterReq) (bytes : Nat) :
    (barrierArrive s r bytes).mem.wf = true := by
  unfold barrierArrive
  split
  · simp [h]
  · split
    · simp [h]
    · split <;> simp [h]

@[simp] theorem wf_porterOperation {s : State} (h : s.mem.wf = true) (porter : Nat) : (porterOperation s porter).mem.wf = true := by
  unfold porterOperation
  split <;> simp [h]

@[simp] theorem wf_barrierArrival {s : State} (h : s.mem.wf = true) (porter : Nat) : (barrierArrival s porter).mem.wf = true := by
  unfold barrierArrival
  split <;> simp [h]

/-! ## Link -/

@[simp] theorem wf_lcalEntry {s : State} (h : s.mem.wf = true) (core : Nat) (e : EngEntry) (addr : Nat) :
    (lcalEntry s core e addr).mem.wf = true := by
  unfold lcalEntry
  dsimp only
  split <;> simp [h]

/-! ## Turntable -/

@[simp] theorem wf_dirtyPage {s : State} (h : s.mem.wf = true) (part : BitVec 5) (va : Nat) : (s.dirtyPage part va).mem.wf = true := by
  unfold State.dirtyPage
  split
  · rename_i entry _
    cases hc : s.casDirty entry (s.pte entry) with
    | none => exact h
    | some t => exact wf_casDirty h hc
  · exact h

@[simp] theorem wf_remotePut {s : State} (h : s.mem.wf = true) (r : RemoteReq) (v : Word64) (x4 : Nat ⊕ Nat) :
    (remotePut s r v x4).mem.wf = true := by
  unfold remotePut
  split <;> simp [h]

@[simp] theorem wf_remotePerform {s : State} (h : s.mem.wf = true) (r : RemoteReq) : (remotePerform s r).mem.wf = true := by
  unfold remotePerform
  dsimp only
  repeat' split
  all_goals simp [h]

@[simp] theorem wf_handOn {s : State} (h : s.mem.wf = true) (peer : Nat) (x3 : Inbound) : (handOn s peer x3).mem.wf = true := by
  unfold handOn
  split <;> simp [h]

@[simp] theorem wf_drainIn (peer n : Nat) {s : State} (h : s.mem.wf = true) : (drainIn peer n s).mem.wf = true := by
  induction n generalizing s with
  | zero => exact h
  | succ n ih =>
    rw [drainIn]
    split
    · exact ih (wf_handOn (by rwa [setPeer_mem]) _ _)
    · exact h

@[simp] theorem wf_accept {s : State} (h : s.mem.wf = true) (peer seq : Nat) (i : Inbound) : (accept s peer seq i).mem.wf = true := by
  unfold accept
  dsimp only
  split <;> simp [h]

@[simp] theorem wf_messageArrival {s : State} (h : s.mem.wf = true) (m : Message) : (messageArrival s m).mem.wf = true := by
  unfold messageArrival
  dsimp only
  repeat' split
  all_goals simp [h]

@[simp] theorem wf_serviceArrival {s : State} (h : s.mem.wf = true) (peer seq : Nat) (item : ServiceItem) (ack arr rel : Nat) :
    (serviceArrival s peer seq item ack arr rel).mem.wf = true := by
  unfold serviceArrival
  split <;> simp [h]

theorem wf_newTile {s t : State} (h : s.mem.wf = true) {core : Nat} {part : BitVec 5} {bytes : List Byte} {poison : List Nat}
    {fmt rows cols : Nat} {c : Cap} (ht : s.newTile core part bytes poison fmt rows cols = some (c, t)) : t.mem.wf = true := by
  unfold State.newTile at ht
  have hb := allocBlock_mem s part core (classFor bytes.length)
  split at ht
  · rename_i u base e
    rw [e] at hb
    have hu : u.mem.wf = true := by rw [hb]; exact h
    dsimp only at ht
    split at ht
    · obtain ⟨-, rfl⟩ := Prod.mk.inj (Option.some.inj ht)
      split <;> simp [hu]
    · cases ht
  · cases ht

theorem wf_ltakeStep {s t : State} (h : s.mem.wf = true) {core : Nat} {wait : Bool} {ids : List Nat}
    (ht : ltakeStep s core wait ids = some t) : t.mem.wf = true := by
  unfold ltakeStep at ht
  split at ht
  · split at ht
    · cases ht
    · cases ht; rwa [takeInto_mem]
  · dsimp only at ht
    split at ht
    · cases ht; simp [h]
    · cases ht; simp [h]
    · split at ht
      · rename_i e; cases ht; simp [wf_newTile h e]
      · cases ht; simp [h]

/-! ## SBox -/

theorem wf_egress {s t : State} (h : s.mem.wf = true) {r : Record} (ht : egress s r = some t) : t.mem.wf = true := by
  unfold egress at ht
  dsimp only at ht
  split at ht
  · cases ht; simp [h]
  · split at ht
    · cases ht; simp [h]
    · split at ht
      · repeat' split at ht
        all_goals cases ht; simp [h]
      · split at ht <;> (cases ht; simp [h])
      · split at ht
        · cases ht; simp [h]
        · split at ht
          · cases ht
          · cases ht; simp [h]
      all_goals cases ht; simp [h]

@[simp] theorem wf_tickEgress {s : State} (h : s.mem.wf = true) : (tickEgress s).mem.wf = true := by
  unfold tickEgress
  refine wf_foldState (fun s o h => ?_) _ (by rwa [modSbox_mem])
  split
  · rename_i e; exact wf_egress h e
  · rwa [modSbox_mem]

theorem wf_hStep {s t : State} (h : s.mem.wf = true) {core : Nat} {q : HReq} (ht : hStep s core q = some t) : t.mem.wf = true := by
  unfold hStep at ht
  split at ht
  · exact wf_ltakeStep h ht
  all_goals cases ht; simp [h]

@[simp] theorem wf_startOne {s : State} (h : s.mem.wf = true) (core : Nat) (e : EngEntry) : (startOne core s e).mem.wf = true := by
  unfold startOne
  dsimp only
  repeat' split
  all_goals simp [h]

@[simp] theorem wf_startSbox {s : State} (h : s.mem.wf = true) (core : Nat) : (startSbox s core).mem.wf = true := by
  unfold startSbox
  split
  · exact h
  · split
    · exact h
    · split
      · split
        · exact h
        · split
          · rename_i e; rw [mem_retireEntry]; exact wf_hStep h e
          · exact h
      · split
        · exact h
        · exact wf_startOne h _ _

@[simp] theorem wf_hSteps (core : Nat) (blocked : Bool) (qs : List HReq) {s : State} (h : s.mem.wf = true) :
    (hSteps core blocked qs s).mem.wf = true := by
  induction qs generalizing blocked s with
  | nil => exact h
  | cons q qs ih =>
    unfold hSteps
    extract_lets take
    clear_value take
    split
    · exact ih _ h
    · split
      · rename_i e; exact ih _ (by rw [modCoreAt_mem]; exact wf_hStep h e)
      · exact ih _ h

@[simp] theorem wf_tickH {s : State} (h : s.mem.wf = true) (core : Nat) : (tickH s core).mem.wf = true := by
  unfold tickH
  split <;> simp [h]

/-! ## Engines -/

@[simp] theorem wf_entryWalkFault {s : State} (h : s.mem.wf = true) (core : Nat) (w : Walk) (q id : Nat) (cls : FaultClass) :
    (entryWalkFault s core w q id cls).mem.wf = true := by
  unfold entryWalkFault
  dsimp only
  repeat' split
  all_goals simp [h]

@[simp] theorem wf_serveWalk {s : State} (h : s.mem.wf = true) (core : Nat) (bad : Option FaultClass) (w : Walk) :
    (serveWalk s core bad w).mem.wf = true := by
  unfold serveWalk
  dsimp only
  repeat' split
  all_goals simp [h]

@[simp] theorem wf_walkFills {s : State} (h : s.mem.wf = true) (core : Nat) (w : Walk) (t : TlbEntry) :
    (walkFills s core w t).mem.wf = true := by
  unfold walkFills
  refine wf_foldState (fun s v h => wf_serveWalk h core none v) _ (wf_serveWalk ?_ core none w)
  rwa [mem_dropWalks]

@[simp] theorem wf_walkComplete {s : State} (h : s.mem.wf = true) (core : Nat) : (walkComplete s core).mem.wf = true := by
  unfold walkComplete
  dsimp only
  split
  · exact h
  · split
    · split
      · rename_i e; exact wf_walkFills (wf_casDirty h e) _ _ _
      · exact h
    · split
      · split
        · exact h
        · exact wf_walkFills h _ _ _
      · exact wf_serveWalk (by simpa using h) _ _ _

@[simp] theorem wf_startEngines {s : State} (h : s.mem.wf = true) (core : Nat) : (startEngines s core).mem.wf = true := by
  unfold startEngines
  dsimp only
  split <;> simp [h]

/-! ## Holds -/

@[simp] theorem wf_holdRelease {s : State} (h : s.mem.wf = true) (k : Nat) : (holdRelease s k).mem.wf = true := by
  unfold holdRelease
  dsimp only
  repeat' split
  all_goals simp [h]

@[simp] theorem wf_holdLimit {s : State} (h : s.mem.wf = true) (k : Nat) : (holdLimit s k).mem.wf = true := by
  unfold holdLimit
  extract_lets c watched ids s₁ s₂
  have h₁ : s₁.mem.wf = true := by rwa [mem_loseWatches]
  have h₂ : s₂.mem.wf = true := wf_foldState (fun s l h => by rwa [discardLatch_mem]) _ h₁
  clear_value s₂
  split
  · refine wf_raise (wf_foldState (fun s x h => by rwa [unask_mem]) _ ?_) _ _
    exact wf_foldState (fun s p h => by rwa [modCoreAt_mem]) _ h₂
  · exact h

@[simp] theorem wf_retimeRelease {s : State} (h : s.mem.wf = true) (k : Nat) : (retimeRelease s k).mem.wf = true := by
  unfold retimeRelease
  dsimp only
  split
  · refine wf_resumeRun (wf_foldState (fun s d h => by exact h) _ ?_) k
    split
    · exact h
    · exact wf_foldState (fun s x h => wf_traceEvent h _ _ _ _ _) _ h
  · exact h

@[simp] theorem wf_retimeSlip {s : State} (h : s.mem.wf = true) (k : Nat) : (retimeSlip s k).mem.wf = true := by
  unfold retimeSlip
  dsimp only
  split <;> simp [h]

@[simp] theorem wf_interruptTaken {s : State} (h : s.mem.wf = true) (k : Nat) : (interruptTaken s k).mem.wf = true := by
  unfold interruptTaken
  dsimp only
  repeat' split
  all_goals simp [h]

@[simp] theorem wf_haltResume {s : State} (h : s.mem.wf = true) (k : Nat) : (haltResume s k).mem.wf = true := by
  unfold haltResume
  split <;> simp [h]

/-! ## SaveArea -/

@[simp] theorem wf_zeroFrame {s : State} (h : s.mem.wf = true) (core base : Nat) : (zeroFrame s core base).mem.wf = true := by
  unfold zeroFrame
  simp [h]

@[simp] theorem wf_saveFrames {s : State} (h : s.mem.wf = true) (k : Nat) (lost : Nat → Bool) : (saveFrames s k lost).1.mem.wf = true := by
  unfold saveFrames
  dsimp only
  split
  · exact h
  · refine wf_foldState (fun s p h => ?_) _ h
    split
    · exact wf_zeroFrame h _ _
    · exact wf_saveFrame h _ _ _

/-! ## Trains -/

@[simp] theorem wf_launchStatus {s : State} (h : s.mem.wf = true) (by_ : Submitter) (part : BitVec 5) (code : BitVec 8) (num : BitVec 15) :
    (launchStatus s by_ part code num).mem.wf = true := by
  unfold launchStatus
  split <;> simp [h]

@[simp] theorem wf_launchPacketStep {s : State} (h : s.mem.wf = true) : (launchPacketStep s).mem.wf = true := by
  unfold launchPacketStep
  dsimp only
  repeat' split
  all_goals simp [h]

@[simp] theorem wf_startCar {s : State} (h : s.mem.wf = true) (k : Nat) (tr : Train) (car : BitVec 32) (fresh : Bool) :
    (startCar s k tr car fresh).mem.wf = true := by
  unfold startCar
  extract_lets c t s₁
  have h₁ : s₁.mem.wf = true := h
  clear_value s₁
  split
  · exact h₁
  · refine wf_enterSections (wf_foldState (fun s p h => ?_) _ h₁) _
    rw [startOverlay_mem]
    exact wf_traceEvent (by rwa [modCoreAt_mem]) _ _ _ _ _

@[simp] theorem wf_formConsist {s : State} (h : s.mem.wf = true) (tr : Train) (cores : List Nat) (lane : Option Nat) :
    (formConsist s tr cores lane).mem.wf = true := by
  unfold formConsist
  simp [h]

@[simp] theorem wf_carComplete {s : State} (h : s.mem.wf = true) (k : Nat) : (carComplete s k).mem.wf = true := by
  unfold carComplete
  dsimp only
  repeat' split
  all_goals simp [h]

@[simp] theorem wf_coresOffered {s : State} (h : s.mem.wf = true) (part : BitVec 5) : (coresOffered s part).mem.wf = true := by
  unfold coresOffered
  dsimp only
  split <;> simp [h]

@[simp] theorem wf_restore {s : State} (h : s.mem.wf = true) (v : Saved) : (restore s v).mem.wf = true := by
  unfold restore
  extract_lets k disp s₁ c s₂ latches relist s₃ s₄
  have h₂ : s₂.mem.wf = true := by
    refine wf_clearFrames (wf_foldState (fun s p h => ?_) _ (by exact h)) v
    rw [modCoreAt_mem]
    exact wf_putBack h _ _
  have h₄ : s₄.mem.wf = true := wf_lookLatches (by rwa [setCons_mem]) k
  clear_value s₄
  split
  · exact wf_resumeRun h₄ k
  · exact h₄

@[simp] theorem wf_contextRestore {s : State} (h : s.mem.wf = true) (part : BitVec 5) (train : BitVec 15) (car : BitVec 32) :
    (contextRestore s part train car).mem.wf = true := by
  unfold contextRestore
  split <;> simp [h]

@[simp] theorem wf_dropPrivate {s : State} (h : s.mem.wf = true) (core : Nat) : (dropPrivate s core).mem.wf = true := by
  unfold dropPrivate
  refine wf_foldState (fun s p h => ?_) _ h
  rw [mem_dropWeight]
  exact wf_writeCap h _ _

@[simp] theorem wf_abortCore {s : State} (h : s.mem.wf = true) (k core : Nat) : (abortCore k s core).mem.wf = true := by
  unfold abortCore
  simp [h]

@[simp] theorem wf_abortSaved {s : State} (h : s.mem.wf = true) (v : Saved) : (abortSaved s v).mem.wf = true := by
  unfold abortSaved
  simp [h]

@[simp] theorem wf_abortTrain {s : State} (h : s.mem.wf = true) (part : BitVec 5) (num : BitVec 15) (cls : Nat) (sub : BitVec 8) :
    (abortTrain s part num cls sub).mem.wf = true := by
  have h1 : ∀ ks : List Nat, (ks.foldl (fun s k => dissolve ((s.cons k).cores.foldl (abortCore k) s) k) s).mem.wf = true := fun ks =>
    wf_foldState (fun s k h => by rw [dissolve_mem]; exact wf_foldState (fun s c h => wf_abortCore h k c) _ h) _ h
  unfold abortTrain
  dsimp only
  split
  · rw [completeTrain_mem]
    exact wf_foldState (fun s v h => wf_abortSaved h v) _ (h1 _)
  · rw [offer_mem]
    exact wf_foldState (fun s v h => wf_abortSaved h v) _ (h1 _)

@[simp] theorem wf_abortConsist {s : State} (h : s.mem.wf = true) (k cls : Nat) (sub : BitVec 8) :
    (State.abortConsist s k cls sub).mem.wf = true := by
  unfold State.abortConsist
  simp [h]

@[simp] theorem wf_abortTimer {s : State} (h : s.mem.wf = true) (k : Nat) : (abortTimer s k).mem.wf = true := by
  unfold abortTimer
  split <;> simp [h]

@[simp] theorem wf_haltAbort {s : State} (h : s.mem.wf = true) (k : Nat) : (haltAbort s k).mem.wf = true := by
  unfold haltAbort
  split <;> simp [h]

/-! ## Contexts -/

@[simp] theorem wf_writeNotice {s : State} (h : s.mem.wf = true) (part : BitVec 5) (n : List Word64) :
    (writeNotice s part n).mem.wf = true := by
  unfold writeNotice
  exact wf_write64 (wf_write64 (wf_write64 (wf_write64 h _ _) _ _) _ _) _ _

@[simp] theorem wf_giveNotice {s : State} (h : s.mem.wf = true) (part : BitVec 5) (n : List Word64) :
    (giveNotice s part n).mem.wf = true := by
  unfold giveNotice
  dsimp only
  repeat' split
  all_goals simp [h]

@[simp] theorem wf_pagingCopy {s : State} (h : s.mem.wf = true) (part : BitVec 5) : (pagingCopy s part).mem.wf = true := by
  unfold pagingCopy
  dsimp only
  repeat' split
  all_goals simp [h]

@[simp] theorem wf_majorFaultSave {s : State} (h : s.mem.wf = true) (k : Nat) : (majorFaultSave s k).mem.wf = true := by
  unfold majorFaultSave
  have hf := wf_saveFrames h k fun _ => false
  split
  · rwa [mem_loseWatches]
  · dsimp only
    have h₂ := fun l : List Nat => wf_foldState (f := fun s x => s.modCoreAt x savedCore) (fun s x h => by rwa [modCoreAt_mem]) l hf
    split
    · refine wf_giveNotice ?_ _ _
      rw [offer_mem, dissolve_mem]
      exact h₂ _
    · rw [offer_mem, dissolve_mem]
      exact h₂ _

@[simp] theorem wf_resumeCar {s : State} (h : s.mem.wf = true) (vf : BitVec 5) (value : BitVec 64) :
    (resumeCar s vf value).mem.wf = true := by
  unfold resumeCar
  dsimp only
  repeat' split
  all_goals simp [h]

/-! ## Partitions -/

@[simp] theorem wf_scrubComplete {s : State} (h : s.mem.wf = true) (core : Nat) : (scrubComplete s core).mem.wf = true := by
  unfold scrubComplete
  extract_lets k s₁ m s₂ base
  have hm : m.wf = true := wf_foldl (fun m r h => wf_zero h _ _) _ (wf_dropPrivate h core)
  have h₂ : s₂.mem.wf = true := by
    simp only [s₂]
    split
    · rw [releaseShare_mem]; exact hm
    · exact hm
  clear_value s₂
  split
  · exact h
  · split <;> simp [h₂]

@[simp] theorem wf_registerWrite {s : State} (h : s.mem.wf = true) (reg : RegName) (value : Word64) :
    (registerWrite s reg value).mem.wf = true := by
  unfold registerWrite
  split <;> simp [h]

/-! ## Manage -/

@[simp] theorem wf_checkFailure {s : State} (h : s.mem.wf = true) (addr : Nat) (second : Bool) (die : Nat) (unit : BitVec 8) :
    (checkFailure s addr second die unit).mem.wf = true := by
  unfold checkFailure
  split <;> simp [h]

@[simp] theorem wf_lineCopy {s : State} (h : s.mem.wf = true) : (lineCopy s).mem.wf = true := by
  unfold lineCopy
  split <;> simp [h]

@[simp] theorem wf_dieLoss {s : State} (h : s.mem.wf = true) (die : Nat) : (dieLoss s die).mem.wf = true := by
  unfold dieLoss
  refine wf_foldState (fun s p h => by exact h) _ (wf_foldState (fun s t h => by exact wf_abortTrain h _ _ _ _) _ ?_)
  refine wf_foldState (fun s e h => ?_) _ h
  split
  · exact wf_saveFrames h _ _
  · exact h

@[simp] theorem wf_resetAssert {s : State} (h : s.mem.wf = true) (die : Nat) : (resetAssert s die).mem.wf = true := by
  unfold resetAssert
  dsimp only
  rw [invalidationAck_mem, setDie_mem]
  exact wf_foldState (fun s x h => by rwa [modCoreAt_mem]) _ (wf_dieLoss h die)

@[simp] theorem wf_burnStep {s : State} (h : s.mem.wf = true) (die : Nat) : (burnStep s die).mem.wf = true := by
  unfold burnStep
  simp [h]

@[simp] theorem wf_temperatureSample {s : State} (h : s.mem.wf = true) (temps : List (Nat × Int)) :
    (temperatureSample s temps).mem.wf = true := by
  unfold temperatureSample
  extract_lets sys s₁ dies s₂ s₃
  have h₁ : s₁.mem.wf = true := wf_foldState (fun s p h => by rwa [heatDie_mem]) _ (by exact h)
  have h₂ : s₂.mem.wf = true := by rwa [heatStep_mem]
  rw [coolStep_mem]
  exact wf_foldState (fun s d h => wf_burnStep h d) _ h₂

/-! ## Loader -/

@[simp] theorem wf_writeStream {s : State} (h : s.mem.wf = true) (base : Nat) (st : List (BitVec 32)) :
    (writeStream s base st).mem.wf = true := by
  unfold writeStream
  simp [h]

@[simp] theorem wf_clearHandle {s : State} (h : s.mem.wf = true) (n : Nat) : (clearHandle s n).mem.wf = true := by
  unfold clearHandle
  dsimp only
  split
  · rw [mem_dropWeight]; exact wf_putCap h _ _
  · exact wf_putCap h _ _

@[simp] theorem wf_unload {s : State} (h : s.mem.wf = true) (o : Overlay) : (unload s o).mem.wf = true := by
  unfold unload
  dsimp only
  refine wf_foldState (fun s x h => by rwa [releaseStorage_mem]) _ ?_
  exact wf_foldState (fun s n h => wf_clearHandle h n) _ h

@[simp] theorem wf_unloadOverlay {s : State} (h : s.mem.wf = true) (part : BitVec 5) (number : BitVec 16) :
    (unloadOverlay s part number).mem.wf = true := by
  unfold unloadOverlay
  split
  · exact h
  · split
    · exact h
    · exact wf_unload h _

/-! ## Schedule -/

@[simp] theorem wf_unitTick {s : State} (h : s.mem.wf = true) : (unitTick s).mem.wf = true := by
  unfold unitTick
  extract_lets s₁ s₂
  have h₁ : s₁.mem.wf = true := wf_foldState (fun s core h => wf_startEngines h core) _ h
  have h₂ : s₂.mem.wf = true := wf_foldState (fun s core h => wf_tickH h core) _ h₁
  clear_value s₂
  rw [settleGrants_mem, refreshCells_mem, tickTurntable_mem]
  refine wf_tickAttention (wf_tickSync ?_)
  rw [tickHomes_mem]
  exact wf_tickEgress h₂

@[simp] theorem wf_nextCycle {s : State} (h : s.mem.wf = true) (k : Nat) : (nextCycle s k).mem.wf = true := by
  unfold nextCycle
  extract_lets c go s₁ c₁ s₂ all c₂ s₃ s₄
  have h₂ : s₂.mem.wf = true := by rw [setCons_mem]; exact wf_performDue h k
  have h₃ : s₃.mem.wf = true := by
    simp only [s₃]
    split
    · exact wf_resumeAt (wf_performDue h₂ k) k
    · split
      · rwa [setCons_mem]
      · split
        · split
          · rwa [setCons_mem]
          · exact h₂
        · exact h₂
  have h₄ : s₄.mem.wf = true := by
    simp only [s₄]
    split
    · exact wf_enterSections h₃ k
    · exact h₃
  clear_value s₄ go
  split
  · exact h
  · exact wf_lookLatches (wf_fences h₄ k) k

@[simp] theorem wf_countGated {s : State} (h : s.mem.wf = true) : (countGated s).mem.wf = true := by rwa [countGated_mem]

@[simp] theorem wf_tick {s : State} (h : s.mem.wf = true) : (tick s).mem.wf = true := by
  unfold tick
  extract_lets ph run s₁ sys s₂ s₃
  have h₁ : s₁.mem.wf = true := by
    simp only [s₁]
    split
    · exact wf_countGated (wf_foldState (fun s k h => wf_nextCycle h k) _ h)
    · exact h
  exact wf_unitTick (wf_performTokens (wf_foldState (fun s k h => wf_arriveLatches h k) _ (by exact h₁)))

end Sys2Proof.Laws
end

section
/-! SUPPORT. The canonical form of memory through the actions of words: how the parts of an `Act` compose. -/
namespace Sys2Proof.Laws
open Sys2Proof Sys2Proof.Machine
-- In order: each thread of an elaboration in parallel reserves its stack, and the text is long.
set_option Elab.async false

/-- What a word's action keeps: from a state with canonical memory, where it ends without a fault or a hold, memory is canonical. -/
def KeepsForm {α : Type} (x : Act α) : Prop :=
  ∀ s a t, s.mem.wf = true → x.run s = .ok (a, t) → t.mem.wf = true

namespace KeepsForm
variable {α β : Type}

theorem pure {a : α} : KeepsForm (Pure.pure a : Act α) := by
  intro s b t h e
  cases e
  exact h

theorem bind {x : Act α} {f : α → Act β} (hx : KeepsForm x) (hf : ∀ a, KeepsForm (f a)) : KeepsForm (x >>= f) := by
  intro s b t h e
  rw [run_bind] at e
  split at e
  · rename_i a u e₁
    exact hf _ _ _ _ (hx _ _ _ h e₁) e
  · cases e

/-- The state that is read has canonical memory, which a later `set` of a state made of it may use. -/
theorem get {f : State → Act β} (hf : ∀ s, s.mem.wf = true → KeepsForm (f s)) : KeepsForm (MonadState.get >>= f) :=
  fun s b t h e => hf s h s b t h e

theorem set {t : State} (ht : t.mem.wf = true) : KeepsForm (MonadStateOf.set t : Act PUnit) := by
  intro s b u h e
  cases e
  exact ht

theorem modify {f : State → State} (hf : ∀ s, s.mem.wf = true → (f s).mem.wf = true) : KeepsForm (modify f : Act PUnit) := by
  intro s b u h e
  cases e
  exact hf _ h

theorem throw {e : Stop} : KeepsForm (MonadExcept.throw e : Act α) := by
  intro s b u h e
  cases e

theorem ite {c : Prop} [Decidable c] {x y : Act α} (hx : KeepsForm x) (hy : KeepsForm y) : KeepsForm (if c then x else y) := by
  split
  · exact hx
  · exact hy

theorem mapM {f : α → Act β} (hf : ∀ a, KeepsForm (f a)) {l : List α} : KeepsForm (l.mapM f) := by
  induction l with
  | nil => exact .pure
  | cons a l ih =>
    rw [List.mapM_cons]
    exact (hf a).bind fun _ => ih.bind fun _ => .pure

end KeepsForm
end Sys2Proof.Laws
end

section
/-! SUPPORT. Every action of a word keeps memory canonical. -/
namespace Sys2Proof.Laws
open Sys2Proof Sys2Proof.Machine
-- In order: each thread of an elaboration in parallel reserves its stack, and the text is long.
set_option Elab.async false

/-! ## Access -/

theorem hold_keepsForm {bit : Nat} {req : Option HoldReq} : KeepsForm (hold bit req) := .throw

theorem getCore_keepsForm : KeepsForm getCore := .get fun _ _ => .pure

theorem modCore_keepsForm {f : Core → Core} : KeepsForm (modCore f) := .modify fun _ h => h

theorem getSeq_keepsForm : KeepsForm getSeq := .get fun _ _ => .pure

theorem modSeq_keepsForm {f : Machine.Seq → Machine.Seq} : KeepsForm (modSeq f) := .modify fun _ h => h

theorem getTtc_keepsForm : KeepsForm getTtc := .get fun _ _ => .pure

theorem getD_keepsForm : KeepsForm getD := .get fun _ _ => .pure

theorem fault_keepsForm {α : Type} {cls : FaultClass} {sub : BitVec 8} {tinfo : Word64} : KeepsForm (fault cls sub tinfo : Act α) :=
  .get fun _ _ => .throw

theorem need_keepsForm {ok : Bool} {cls : FaultClass} {sub : BitVec 8} {tinfo : Word64} : KeepsForm (need ok cls sub tinfo) :=
  .ite .pure fault_keepsForm

theorem addLatch_keepsForm {lat : Nat} {eff : Effect} {cause : Option (BitVec 16)} {defer : Option Deferred} :
    KeepsForm (addLatch lat eff cause defer) :=
  .get fun _ hs => .bind (.set hs) fun _ => .pure

theorem result_keepsForm {lat : Nat} {eff : Effect} : KeepsForm (result lat eff) := addLatch_keepsForm.bind fun _ => .pure

theorem resultOr_keepsForm {lat : Nat} {eff : Effect} {f : Option FaultRec} : KeepsForm (resultOr lat eff f) :=
  addLatch_keepsForm.bind fun _ => .modify fun _ h => h

theorem await_keepsForm {lat bit : Nat} {eff : Effect} : KeepsForm (await lat bit eff) := addLatch_keepsForm

theorem pushQ_keepsForm {q : Nat} : KeepsForm (pushQ q) :=
  .get fun _ _ => getCore_keepsForm.bind fun _ => need_keepsForm.bind fun _ => .bind (.modify fun _ h => h) fun _ =>
  modCore_keepsForm.bind fun _ => .pure

theorem popQ_keepsForm {q : Nat} {sub : BitVec 8} : KeepsForm (popQ q sub) :=
  getCore_keepsForm.bind fun _ => by
  split
  · exact fault_keepsForm
  · split
    · exact fault_keepsForm
    · exact modCore_keepsForm.bind fun _ => .pure
    · exact modCore_keepsForm.bind fun _ => .pure

theorem pushHq_keepsForm : KeepsForm pushHq :=
  .get fun _ _ => getCore_keepsForm.bind fun _ => need_keepsForm.bind fun _ => .bind (.modify fun _ h => h) fun _ =>
  modCore_keepsForm.bind fun _ => .pure

theorem popHq_keepsForm : KeepsForm popHq :=
  getCore_keepsForm.bind fun _ => by
  split
  · exact fault_keepsForm
  · split
    · exact fault_keepsForm
    · exact modCore_keepsForm.bind fun _ => .pure
    · exact modCore_keepsForm.bind fun _ => .pure

theorem popOn_keepsForm {q : Nat} : KeepsForm (popOn q) :=
  popQ_keepsForm.bind fun _ => by
  split
  · exact .pure
  · exact fault_keepsForm

theorem readS_keepsForm {r : BitVec 6} : KeepsForm (readS r) := by
  unfold readS
  split
  · exact popOn_keepsForm
  · exact .ite .pure (.ite (.get fun _ _ => .pure) (getSeq_keepsForm.bind fun _ => .pure))

theorem readH_keepsForm {r : BitVec 5} : KeepsForm (readH r) :=
  .ite (popHq_keepsForm.bind fun _ => by
  split
  · exact .pure
  · exact fault_keepsForm) (getSeq_keepsForm.bind fun _ => .pure)

theorem readP_keepsForm {r : BitVec 4} : KeepsForm (readP r) := getSeq_keepsForm.bind fun _ => .pure

theorem dstS_keepsForm {r : BitVec 6} {v : Word64} : KeepsForm (dstS r v) :=
  .get fun _ _ => by
  split
  · exact pushQ_keepsForm.bind fun _ => .pure
  · exact .pure

theorem writeS_keepsForm {r : BitVec 6} {lat : Nat} {v : Word64} : KeepsForm (writeS r lat v) :=
  dstS_keepsForm.bind fun _ => result_keepsForm

theorem awaitS_keepsForm {r : BitVec 6} {lat bit : Nat} : KeepsForm (awaitS r lat bit) := dstS_keepsForm.bind fun _ => await_keepsForm

theorem dstH_keepsForm {r : BitVec 5} {c : Cap} : KeepsForm (dstH r c) := .ite (pushHq_keepsForm.bind fun _ => .pure) .pure

theorem writeH_keepsForm {r : BitVec 5} {lat : Nat} {c : Cap} : KeepsForm (writeH r lat c) :=
  dstH_keepsForm.bind fun _ => result_keepsForm

theorem writeP_keepsForm {r : BitVec 4} {lat : Nat} {v : Bool} : KeepsForm (writeP r lat v) := result_keepsForm

theorem nullH_keepsForm {r : BitVec 5} {lat : Nat} : KeepsForm (nullH r lat) := .ite .pure result_keepsForm

/-! ## Operands -/

theorem checkCap_keepsForm {c : Cap} : KeepsForm (checkCap c) :=
  getCore_keepsForm.bind fun _ => need_keepsForm.bind fun _ => need_keepsForm.bind fun _ => need_keepsForm

theorem checkOwn_keepsForm {c : Cap} : KeepsForm (checkOwn c) := getCore_keepsForm.bind fun _ => need_keepsForm

theorem checkKind_keepsForm {c : Cap} {kinds : List (BitVec 4)} : KeepsForm (checkKind c kinds) :=
  checkCap_keepsForm.bind fun _ => need_keepsForm.bind fun _ => need_keepsForm

theorem checkPerm_keepsForm {c : Cap} {perm : Nat} : KeepsForm (checkPerm c perm) := need_keepsForm

theorem checkSpace_keepsForm {c : Cap} {spaces : List Nat} : KeepsForm (checkSpace c spaces) := need_keepsForm

theorem checkBounds_keepsForm {c : Cap} {a n : Nat} : KeepsForm (checkBounds c a n) := need_keepsForm

theorem fixedTile_keepsForm {a n : Nat} : KeepsForm (fixedTile a n) :=
  .get fun _ _ => by
  split
  · exact need_keepsForm.bind fun _ => .pure
  · exact fault_keepsForm

theorem checkPrivate_keepsForm {a : Word64} {n : Nat} : KeepsForm (checkPrivate a n) := need_keepsForm

theorem checkRegion_keepsForm {r : Region} : KeepsForm (checkRegion r) :=
  .get fun _ _ => by
  dsimp only
  split
  · exact fault_keepsForm
  · exact .pure

/-! ## Storage -/

theorem checkNear_keepsForm {c : Cap} : KeepsForm (checkNear c) := .get fun _ _ => need_keepsForm

theorem roomIn_keepsForm {q : Nat} : KeepsForm (roomIn q) := getCore_keepsForm.bind fun _ => .ite hold_keepsForm .pure

theorem enter_keepsForm {q : Nat} {op : EngOp} {borrows writes popped : List Cap} {barrier : Option Nat} {bytes : Nat}
    {due : Option Nat} {latches : List Nat} :
    KeepsForm (enter q op borrows writes popped barrier bytes due latches) :=
  .get fun _ _ => getCore_keepsForm.bind fun _ => .ite (hold_keepsForm.bind fun _ => .pure) (getSeq_keepsForm.bind fun _ =>
  .bind (.modify fun _ h => h) fun _ => modCore_keepsForm.bind fun _ => .pure)

/-! ## Ops -/

theorem advance_keepsForm {n : Nat} {ctl : Ctl} : KeepsForm (advance n ctl) := by
  refine getTtc_keepsForm.bind fun _ => getSeq_keepsForm.bind fun _ => ?_
  extract_lets -underBinder p next place
  have hp : ∀ p, KeepsForm (place p) := fun _ => modSeq_keepsForm
  clear_value place
  split
  · exact hp _
  · exact .get fun _ _ => hp _
  · exact hp _
  all_goals
    split
    · exact hp _
    · split
      · refine (hp _).bind fun _ => result_keepsForm.bind fun _ => ?_
        split
        · exact getCore_keepsForm.bind fun _ => result_keepsForm
        · exact .pure
      · split <;> exact hp _

/-- A word whose guard is off drops what it would have popped and voids what it would have pushed, and writes no memory (R125-R127). -/
theorem skip_keepsForm {lat : Nat} {roles : List Role} : KeepsForm (skip lat roles) := by
  induction roles with
  | nil => exact .pure
  | cons r rs ih =>
    unfold skip
    refine KeepsForm.get fun _ _ => ?_
    extract_lets -underBinder j
    have hj : ∀ x, KeepsForm (j x) := fun _ => ih
    clear_value j
    have void : ∀ q, KeepsForm (pushQ q >>= fun id => result lat (.fill q id .void) >>= j) := fun _ =>
      pushQ_keepsForm.bind fun _ => result_keepsForm.bind hj
    split
    · split
      · exact popQ_keepsForm.bind fun _ => hj _
      · exact hj _
    · refine .ite (popHq_keepsForm.bind fun _ => ?_) (hj _)
      split
      · exact .bind (.modify fun _ h => by simp [h]) hj
      · exact hj _
    · exact popQ_keepsForm.bind fun _ => hj _
    · exact popQ_keepsForm.bind fun _ => hj _
    · split
      · exact void _
      · exact hj _
    · exact .ite (pushHq_keepsForm.bind fun _ => result_keepsForm.bind hj) (hj _)
    · exact void _

theorem wordAct_keepsForm {n : Nat} {g : Guard} {off : Act Unit} {body : Act Ctl} (hoff : KeepsForm off) (hbody : KeepsForm body) :
    KeepsForm (wordAct n g off body) :=
  getSeq_keepsForm.bind fun _ => by
  extract_lets -underBinder j
  have hj : ∀ x, KeepsForm (j x) := fun _ => advance_keepsForm.bind fun _ => by
    split <;> exact .pure
  exact .ite (hbody.bind hj) (hoff.bind fun _ => .bind .pure hj)

theorem inHandler_keepsForm : KeepsForm inHandler := .get fun _ _ => .pure

theorem notInHandler_keepsForm : KeepsForm notInHandler := inHandler_keepsForm.bind fun _ => need_keepsForm

theorem notQueuedInHandler_keepsForm : KeepsForm notQueuedInHandler := inHandler_keepsForm.bind fun _ => need_keepsForm

/-! ## Units -/

theorem readHbm_keepsForm {lat : Nat} {op : DeferOp} {eff : Effect} : KeepsForm (readHbm lat op eff) :=
  addLatch_keepsForm.bind fun _ => .get fun _ hs => by
  extract_lets -underBinder
  split <;> exact .set hs

theorem writeHbm_keepsForm {lat : Nat} {c : Cap} {segs : List Seg} : KeepsForm (writeHbm lat c segs) :=
  .get fun _ _ => addLatch_keepsForm.bind fun _ => .pure

/-! ## LoadStore -/

theorem myPrivate_keepsForm : KeepsForm myPrivate := getCore_keepsForm.bind fun _ => .pure

theorem storePrivate_keepsForm {lat : Nat} {a : Word64} {bs : List Byte} : KeepsForm (storePrivate lat a bs) :=
  myPrivate_keepsForm.bind fun _ => .get fun _ _ => result_keepsForm

theorem dropPopped_keepsForm {r : BitVec 5} {c : Cap} {lat : Nat} : KeepsForm (dropPopped r c lat) :=
  .ite result_keepsForm (.ite result_keepsForm .pure)

theorem ldPAct_keepsForm {d a : BitVec 6} {imm : BitVec 48} : KeepsForm (ldPAct d a imm) :=
  readS_keepsForm.bind fun _ => checkPrivate_keepsForm.bind fun _ => .get fun _ _ => dstS_keepsForm.bind fun _ => resultOr_keepsForm

theorem skipLoad_keepsForm {roles : List Role} : KeepsForm (skipLoad roles) := getD_keepsForm.bind fun _ => skip_keepsForm

theorem skipBy_keepsForm {h : BitVec 5} {lat : State → Cap → Nat} {roles : List Role} : KeepsForm (skipBy h lat roles) :=
  .get fun _ _ => skip_keepsForm

theorem stPAct_keepsForm {d a : BitVec 6} {imm : BitVec 48} : KeepsForm (stPAct d a imm) :=
  readS_keepsForm.bind fun _ => readS_keepsForm.bind fun _ => checkPrivate_keepsForm.bind fun _ => getD_keepsForm.bind fun _ =>
  storePrivate_keepsForm

theorem ldCapAct_keepsForm {d : BitVec 5} {a : BitVec 6} {imm : BitVec 48} : KeepsForm (ldCapAct d a imm) :=
  readS_keepsForm.bind fun _ => checkPrivate_keepsForm.bind fun _ => .get fun _ _ => dstH_keepsForm.bind fun _ =>
  resultOr_keepsForm.bind fun _ => .ite (.modify fun _ h => by simp [h]) .pure

theorem waitWrites_keepsForm {c : Cap} : KeepsForm (waitWrites c) := .get fun _ _ => .ite hold_keepsForm .pure

theorem stCapAct_keepsForm {d : BitVec 5} {a : BitVec 6} {imm : BitVec 48} : KeepsForm (stCapAct d a imm) :=
  readS_keepsForm.bind fun _ => readH_keepsForm.bind fun _ => checkPrivate_keepsForm.bind fun _ => by
  extract_lets -underBinder j
  have hj : ∀ x, KeepsForm (j x) := fun _ => waitWrites_keepsForm.bind fun _ => by
    extract_lets -underBinder j1
    have hj1 : ∀ x, KeepsForm (j1 x) := fun _ => myPrivate_keepsForm.bind fun _ => .get fun _ _ => result_keepsForm
    clear_value j1
    exact .ite (nullH_keepsForm.bind hj1) (hj1 _)
  clear_value j
  exact .ite (checkCap_keepsForm.bind fun _ => checkNear_keepsForm.bind fun _ => need_keepsForm.bind hj) (hj _)

theorem checkAccess8_keepsForm {c : Cap} {kinds : List (BitVec 4)} {perm : Nat} {a : Word64} : KeepsForm (checkAccess8 c kinds perm a) :=
  checkKind_keepsForm.bind fun _ => checkPerm_keepsForm.bind fun _ => checkSpace_keepsForm.bind fun _ => .get fun _ _ =>
  need_keepsForm.bind fun _ => need_keepsForm.bind fun _ => need_keepsForm

theorem ldHAct_keepsForm {d : BitVec 6} {h : BitVec 5} {imm : BitVec 48} : KeepsForm (ldHAct d h imm) :=
  readH_keepsForm.bind fun _ => checkAccess8_keepsForm.bind fun _ => getD_keepsForm.bind fun _ => .ite (dstS_keepsForm.bind fun _ =>
  readHbm_keepsForm.bind fun _ => dropPopped_keepsForm) (.get fun _ _ => by
  extract_lets -underBinder j
  have hj : ∀ x, KeepsForm (j x) := fun _ => dstS_keepsForm.bind fun _ => resultOr_keepsForm.bind fun _ => dropPopped_keepsForm
  clear_value j
  exact .ite (fixedTile_keepsForm.bind hj) (.bind .pure hj))

theorem noBorrow_keepsForm {c : Cap} : KeepsForm (noBorrow c) := getCore_keepsForm.bind fun _ => need_keepsForm

theorem stHAct_keepsForm {d : BitVec 6} {h : BitVec 5} {imm : BitVec 48} : KeepsForm (stHAct d h imm) :=
  readH_keepsForm.bind fun _ => readS_keepsForm.bind fun _ => checkAccess8_keepsForm.bind fun _ => noBorrow_keepsForm.bind fun _ =>
  getD_keepsForm.bind fun _ => .ite (writeHbm_keepsForm.bind fun _ => dropPopped_keepsForm) (.get fun _ _ => by
  extract_lets -underBinder j
  have hj : ∀ x, KeepsForm (j x) := fun _ => result_keepsForm.bind fun _ => dropPopped_keepsForm
  clear_value j
  exact .ite (fixedTile_keepsForm.bind hj) (.bind .pure hj))

theorem enterAct_keepsForm {n : BitVec 48} : KeepsForm (enterAct n) :=
  getSeq_keepsForm.bind fun _ => need_keepsForm.bind fun _ => checkPrivate_keepsForm.bind fun _ => result_keepsForm.bind fun _ =>
  result_keepsForm.bind fun _ => getD_keepsForm.bind fun _ => storePrivate_keepsForm

theorem leaveAct_keepsForm : KeepsForm leaveAct :=
  getSeq_keepsForm.bind fun _ => need_keepsForm.bind fun _ => checkPrivate_keepsForm.bind fun _ => result_keepsForm.bind fun _ =>
  .get fun _ _ => resultOr_keepsForm

/-! ## Branch -/

theorem pbrAct_keepsForm {b : BitVec 3} {target : Nat} {fits : Bool} : KeepsForm (pbrAct b target fits) :=
  .get fun _ _ => getSeq_keepsForm.bind fun _ => result_keepsForm

theorem pbrOAct_keepsForm {b : BitVec 3} {imm : BitVec 48} : KeepsForm (pbrOAct b imm) := getSeq_keepsForm.bind fun _ => pbrAct_keepsForm

theorem pbrRAct_keepsForm {b : BitVec 3} {a : BitVec 6} : KeepsForm (pbrRAct b a) := readS_keepsForm.bind fun _ => pbrAct_keepsForm

theorem outcome_keepsForm {taken : Bool} : KeepsForm (outcome taken) := .modify fun _ h => by simp [h]

theorem takeBranch_keepsForm {r : BReg} : KeepsForm (takeBranch r) :=
  .get fun _ _ => getSeq_keepsForm.bind fun _ => need_keepsForm.bind fun _ => outcome_keepsForm.bind fun _ => .pure

theorem branchReg_keepsForm {b : BitVec 3} : KeepsForm (branchReg b) :=
  getSeq_keepsForm.bind fun _ => getTtc_keepsForm.bind fun _ => need_keepsForm.bind fun _ => .pure

theorem brAct_keepsForm {b : BitVec 3} : KeepsForm (brAct b) := branchReg_keepsForm.bind fun _ => takeBranch_keepsForm

theorem brqAct_keepsForm {b : BitVec 3} {want : Bool} : KeepsForm (brqAct b want) :=
  .get fun _ _ => popOn_keepsForm.bind fun _ => branchReg_keepsForm.bind fun _ => .ite takeBranch_keepsForm (outcome_keepsForm.bind fun _ =>
  .pure)

theorem brqOff_keepsForm : KeepsForm brqOff := skip_keepsForm.bind fun _ => outcome_keepsForm

theorem brmzAct_keepsForm {n : Nat} : KeepsForm (brmzAct n) :=
  getCore_keepsForm.bind fun _ => .ite (getSeq_keepsForm.bind fun _ => need_keepsForm.bind fun _ => outcome_keepsForm.bind fun _ =>
  .pure) (outcome_keepsForm.bind fun _ => .pure)

theorem callAct_keepsForm {b : BitVec 3} : KeepsForm (callAct b) :=
  getSeq_keepsForm.bind fun _ => .get fun _ _ => need_keepsForm.bind fun _ => need_keepsForm.bind fun _ =>
  checkPrivate_keepsForm.bind fun _ => branchReg_keepsForm.bind fun _ => result_keepsForm.bind fun _ => storePrivate_keepsForm.bind fun _ =>
  modSeq_keepsForm.bind fun _ => takeBranch_keepsForm

theorem retAct_keepsForm : KeepsForm retAct :=
  getSeq_keepsForm.bind fun _ => need_keepsForm.bind fun _ => checkPrivate_keepsForm.bind fun _ => .get fun _ _ => by
  extract_lets -underBinder j
  have hj : ∀ x, KeepsForm (j x) := fun _ => by
    unfold j
    extract_lets -underBinder
    split
    · exact fault_keepsForm
    · exact need_keepsForm.bind fun _ => result_keepsForm.bind fun _ => .pure
  clear_value j
  exact .ite (hj _) (hold_keepsForm.bind hj)

theorem loopAct_keepsForm {counter n count : Nat} {level : Option (Nat × Nat)} {info : Word64} :
    KeepsForm (loopAct counter n count level info) :=
  getSeq_keepsForm.bind fun _ => need_keepsForm.bind fun _ => .ite .pure (result_keepsForm.bind fun _ => by
  extract_lets -underBinder j
  have hj : ∀ x, KeepsForm (j x) := fun _ => modSeq_keepsForm.bind fun _ => .pure
  clear_value j
  split
  · exact result_keepsForm.bind hj
  · exact hj _)

theorem loopLAct_keepsForm {k n : Nat} : KeepsForm (loopLAct k n) :=
  notInHandler_keepsForm.bind fun _ => .get fun _ _ => by
  split
  · exact fault_keepsForm
  · exact loopAct_keepsForm

theorem loopSAct_keepsForm {counter : Nat} {a : BitVec 6} {n : Nat} : KeepsForm (loopSAct counter a n) :=
  notInHandler_keepsForm.bind fun _ => readS_keepsForm.bind fun _ => loopAct_keepsForm

theorem repeatAct_keepsForm {m : Nat} : KeepsForm (repeatAct m) :=
  notInHandler_keepsForm.bind fun _ => need_keepsForm.bind fun _ => .get fun _ _ => getSeq_keepsForm.bind fun _ => .ite .pure .pure

theorem repeatSAct_keepsForm {a : BitVec 6} : KeepsForm (repeatSAct a) := readS_keepsForm.bind fun _ => repeatAct_keepsForm

/-! ## Tokens -/

theorem signalAct_keepsForm {t : BitVec 5} {core : Nat} : KeepsForm (signalAct t core) :=
  .get fun _ _ => need_keepsForm.bind fun _ => result_keepsForm

theorem signalSAct_keepsForm {d : BitVec 6} {t : BitVec 5} : KeepsForm (signalSAct d t) :=
  readS_keepsForm.bind fun _ => need_keepsForm.bind fun _ => signalAct_keepsForm

theorem waitAct_keepsForm {t : BitVec 5} {n : Nat} : KeepsForm (waitAct t n) :=
  .get fun _ _ => getSeq_keepsForm.bind fun _ => .ite hold_keepsForm (.ite modCore_keepsForm result_keepsForm)

theorem toksetAct_keepsForm {t : BitVec 5} {v : BitVec 16} : KeepsForm (toksetAct t v) := result_keepsForm

theorem toksetXAct_keepsForm {d : BitVec 6} {t : BitVec 5} {v : BitVec 16} : KeepsForm (toksetXAct d t v) :=
  getCore_keepsForm.bind fun _ => writeS_keepsForm.bind fun _ => toksetAct_keepsForm

theorem fenceAct_keepsForm {d : BitVec 6} {scope : BitVec 3} : KeepsForm (fenceAct d scope) :=
  getD_keepsForm.bind fun _ => awaitS_keepsForm.bind fun _ => modCore_keepsForm

theorem retimeAct_keepsForm {a : BitVec 6} {slack : Nat} : KeepsForm (retimeAct a slack) :=
  notInHandler_keepsForm.bind fun _ => readS_keepsForm.bind fun _ => .get fun _ hs => .set (by split <;> exact hs)

theorem enterMarks_keepsForm {id : Nat} {qs : List Nat} : KeepsForm (enterMarks id qs) := by
  induction qs with
  | nil => exact .pure
  | cons q qs ih => exact enter_keepsForm.bind fun _ => ih.bind fun _ => .pure

theorem markAct_keepsForm {mask : BitVec 8} {t : BitVec 5} : KeepsForm (markAct mask t) := by
  unfold markAct
  extract_lets -underBinder j
  have hj : ∀ x, KeepsForm (j x) := fun _ => getCore_keepsForm.bind fun _ => .get fun _ _ => need_keepsForm.bind fun _ =>
    .ite (.get fun _ _ => .bind (.modify fun _ h => h) fun _ => enterMarks_keepsForm.bind fun _ => modCore_keepsForm) hold_keepsForm
  clear_value j
  exact .ite (notQueuedInHandler_keepsForm.bind hj) (hj _)

theorem sstepAct_keepsForm {a : BitVec 6} {len : Nat} : KeepsForm (sstepAct a len) :=
  readS_keepsForm.bind fun _ => .get fun _ _ => getCore_keepsForm.bind fun _ => need_keepsForm.bind fun _ => modCore_keepsForm

/-! ## Handles -/

theorem dropNow_keepsForm {r : BitVec 5} {c : Cap} : KeepsForm (dropNow r c) := .ite (.modify fun _ h => by simp [h]) .pure

theorem readPointer_keepsForm {r : BitVec 5} : KeepsForm (readPointer r) :=
  readH_keepsForm.bind fun _ => checkKind_keepsForm.bind fun _ => .pure

theorem capsetAct_keepsForm {hd ha : BitVec 5} {sr : BitVec 6} {exact : Bool} : KeepsForm (capsetAct hd ha sr exact) :=
  readPointer_keepsForm.bind fun _ => readS_keepsForm.bind fun _ => by
  split
  · exact writeH_keepsForm
  · exact fault_keepsForm

theorem cappermAct_keepsForm {hd ha : BitVec 5} {mask : BitVec 8} : KeepsForm (cappermAct hd ha mask) :=
  readH_keepsForm.bind fun _ => checkKind_keepsForm.bind fun _ => checkNear_keepsForm.bind fun _ => by
  extract_lets -underBinder j
  have hj : ∀ x, KeepsForm (j x) := fun _ => writeH_keepsForm
  clear_value j
  exact .ite (nullH_keepsForm.bind hj) (hj _)

theorem capoffAct_keepsForm {f : Cap → Word64 → Word64} {hd ha : BitVec 5} {sr : BitVec 6} : KeepsForm (capoffAct f hd ha sr) :=
  readPointer_keepsForm.bind fun _ => readS_keepsForm.bind fun _ => writeH_keepsForm

theorem capgetAct_keepsForm {check : Cap → Act Unit} {kinds : List (BitVec 4)} {f : Cap → Word64} {ha : BitVec 5} {sr : BitVec 6}
    (hcheck : ∀ c, KeepsForm (check c)) : KeepsForm (capgetAct check kinds f ha sr) :=
  readH_keepsForm.bind fun _ => (hcheck _).bind fun _ => checkKind_keepsForm.bind fun _ => checkNear_keepsForm.bind fun _ =>
  writeS_keepsForm.bind fun _ => dropNow_keepsForm

theorem myPart_keepsForm : KeepsForm myPart := getCore_keepsForm.bind fun _ => .pure

theorem capgetCellsAct_keepsForm {hd : BitVec 5} : KeepsForm (capgetCellsAct hd) := myPart_keepsForm.bind fun _ => writeH_keepsForm

theorem capgetKvAct_keepsForm {hd : BitVec 5} : KeepsForm (capgetKvAct hd) :=
  myPart_keepsForm.bind fun _ => .get fun _ _ => writeH_keepsForm

theorem capgetPeerAct_keepsForm {hd : BitVec 5} {sr : BitVec 6} : KeepsForm (capgetPeerAct hd sr) :=
  readS_keepsForm.bind fun _ => need_keepsForm.bind fun _ => myPart_keepsForm.bind fun _ => writeH_keepsForm

theorem capgetSysAct_keepsForm {hd : BitVec 5} : KeepsForm (capgetSysAct hd) :=
  myPart_keepsForm.bind fun _ => .get fun _ _ => writeH_keepsForm

theorem captestAct_keepsForm {f : Option (BitVec 5) → Cap → Bool} {ha : BitVec 5} {sr : BitVec 6} : KeepsForm (captestAct f ha sr) :=
  readH_keepsForm.bind fun _ => getCore_keepsForm.bind fun _ => writeS_keepsForm.bind fun _ => dropNow_keepsForm

theorem takeAnswer_keepsForm : KeepsForm takeAnswer :=
  getSeq_keepsForm.bind fun _ => .get fun _ hs => by
  split
  · exact .pure
  · split
    · exact .ite (.bind (.set hs) fun _ => .pure) .pure
    · exact .pure

theorem extend_keepsForm {c : Cap} : KeepsForm (extend c) :=
  takeAnswer_keepsForm.bind fun _ => getSeq_keepsForm.bind fun _ => .get fun _ _ => by
  split
  · exact .pure
  · exact fault_keepsForm
  · exact hold_keepsForm.bind fun _ => .pure

theorem dupAct_keepsForm {hd ha : BitVec 5} {n : Nat} : KeepsForm (dupAct hd ha n) :=
  readH_keepsForm.bind fun _ => checkKind_keepsForm.bind fun _ => checkPerm_keepsForm.bind fun _ => by
  extract_lets -underBinder j
  have hj : ∀ x, KeepsForm (j x) := fun _ => result_keepsForm.bind fun _ => writeH_keepsForm
  clear_value j
  exact .ite (extend_keepsForm.bind hj) (.bind .pure hj)

theorem dropWAct_keepsForm {ha : BitVec 5} : KeepsForm (dropWAct ha) :=
  readH_keepsForm.bind fun _ => checkKind_keepsForm.bind fun _ => nullH_keepsForm.bind fun _ => .modify fun _ h => by simp [h]

theorem dropBAct_keepsForm {hd ha : BitVec 5} {pd : BitVec 4} : KeepsForm (dropBAct hd ha pd) :=
  readH_keepsForm.bind fun _ => checkKind_keepsForm.bind fun _ => nullH_keepsForm.bind fun _ => .ite (writeH_keepsForm.bind fun _ =>
  writeP_keepsForm) (.ite (writeH_keepsForm.bind fun _ => writeP_keepsForm.bind fun _ => .modify fun _ h =>
  by simp [h]) (.bind (.modify fun _ h => by simp [h]) fun _ => writeH_keepsForm.bind fun _ => writeP_keepsForm))

theorem movhAct_keepsForm {hd ha : BitVec 5} : KeepsForm (movhAct hd ha) :=
  readH_keepsForm.bind fun _ => checkKind_keepsForm.bind fun _ => by
  extract_lets -underBinder j
  have hj : ∀ x, KeepsForm (j x) := fun _ => writeH_keepsForm
  clear_value j
  exact .ite (nullH_keepsForm.bind hj) (hj _)

theorem mergeAct_keepsForm {hd ha hb : BitVec 5} : KeepsForm (mergeAct hd ha hb) :=
  readH_keepsForm.bind fun _ => readH_keepsForm.bind fun _ => checkKind_keepsForm.bind fun _ => checkKind_keepsForm.bind fun _ =>
  need_keepsForm.bind fun _ => nullH_keepsForm.bind fun _ => nullH_keepsForm.bind fun _ => writeH_keepsForm

theorem isunqLAct_keepsForm {ha : BitVec 5} {sr : BitVec 6} : KeepsForm (isunqLAct ha sr) :=
  readH_keepsForm.bind fun _ => checkKind_keepsForm.bind fun _ => writeS_keepsForm.bind fun _ => dropNow_keepsForm

theorem sendQuery_keepsForm {c : Cap} {id : Nat} : KeepsForm (sendQuery c id) := .modify fun _ h => by simp [h]

theorem isunqXAct_keepsForm {ha : BitVec 5} {sr : BitVec 6} : KeepsForm (isunqXAct ha sr) :=
  readH_keepsForm.bind fun _ => checkKind_keepsForm.bind fun _ => by
  extract_lets -underBinder j
  have hj : ∀ x, KeepsForm (j x) := fun _ => dropNow_keepsForm
  clear_value j
  exact .ite (writeS_keepsForm.bind hj) (.get fun _ _ => dstS_keepsForm.bind fun _ => await_keepsForm.bind fun _ =>
    sendQuery_keepsForm.bind hj)

theorem allocAct_keepsForm {hd : BitVec 5} {cls : Nat} {place : Nat → Nat} {lead : Nat} : KeepsForm (allocAct hd cls place lead) :=
  dstH_keepsForm.bind fun _ => await_keepsForm.bind fun _ => myPart_keepsForm.bind fun _ => .modify fun _ h => h

theorem updAct_keepsForm {hd ha : BitVec 5} {hbm : Bool} : KeepsForm (updAct hd ha hbm) :=
  readH_keepsForm.bind fun _ => checkKind_keepsForm.bind fun _ => checkSpace_keepsForm.bind fun _ => nullH_keepsForm.bind fun _ =>
  .get fun _ hs => by
  extract_lets -underBinder j
  have hj : ∀ x, KeepsForm (j x) := fun _ => .ite (writeH_keepsForm.bind fun _ => by
    extract_lets -underBinder j1
    have hj1 : ∀ x, KeepsForm (j1 x) := fun _ => .modify fun _ h => by simp [h]
    clear_value j1
    exact .ite (result_keepsForm.bind hj1) (hj1 _)) (dstH_keepsForm.bind fun _ => await_keepsForm.bind fun _ =>
      sendQuery_keepsForm.bind fun _ => .get fun _ hs1 => .bind (.set hs1) fun _ => modCore_keepsForm)
  clear_value j
  exact .ite (modCore_keepsForm.bind hj) (hj _)

theorem sealAct_keepsForm {hd ha : BitVec 5} {rows cols fmt : Nat} : KeepsForm (sealAct hd ha rows cols fmt) :=
  readH_keepsForm.bind fun _ => checkKind_keepsForm.bind fun _ => checkPerm_keepsForm.bind fun _ => checkSpace_keepsForm.bind fun _ =>
  .get fun _ _ => need_keepsForm.bind fun _ => need_keepsForm.bind fun _ => waitWrites_keepsForm.bind fun _ => by
  extract_lets -underBinder j
  have hj : ∀ x, KeepsForm (j x) := fun _ => writeH_keepsForm.bind fun _ => .modify fun _ h => by simp [h]
  clear_value j
  exact .ite (hj _) (nullH_keepsForm.bind hj)

/-! ## Tensor -/

theorem gsetLAct_keepsForm {gr : BitVec 5} {lit : Word96} : KeepsForm (gsetLAct gr lit) :=
  .get fun _ _ => need_keepsForm.bind fun _ => readHbm_keepsForm

theorem gsetRAct_keepsForm {ha gr : BitVec 5} {lit : Word96} : KeepsForm (gsetRAct ha gr lit) :=
  readH_keepsForm.bind fun _ => checkKind_keepsForm.bind fun _ => checkPerm_keepsForm.bind fun _ => checkSpace_keepsForm.bind fun _ =>
  checkBounds_keepsForm.bind fun _ => readHbm_keepsForm

theorem csetIAct_keepsForm {d : BitVec 4} {v : BitVec 32} : KeepsForm (csetIAct d v) := result_keepsForm

theorem csetSAct_keepsForm {d : BitVec 4} {a : BitVec 6} : KeepsForm (csetSAct d a) := readS_keepsForm.bind fun _ => result_keepsForm

theorem caddIAct_keepsForm {d a : BitVec 4} {v : BitVec 32} : KeepsForm (caddIAct d a v) :=
  getCore_keepsForm.bind fun _ => result_keepsForm

theorem caddSAct_keepsForm {d : BitVec 4} {a : BitVec 6} : KeepsForm (caddSAct d a) :=
  readS_keepsForm.bind fun _ => getCore_keepsForm.bind fun _ => result_keepsForm

theorem claimAct_keepsForm {n : BitVec 4} : KeepsForm (claimAct n) :=
  getCore_keepsForm.bind fun _ => need_keepsForm.bind fun _ => result_keepsForm

theorem releaseAct_keepsForm {n : BitVec 4} : KeepsForm (releaseAct n) :=
  .get fun _ _ => getCore_keepsForm.bind fun _ => need_keepsForm.bind fun _ => result_keepsForm

theorem checkTensor_keepsForm {r : Region} : KeepsForm (checkTensor r) :=
  need_keepsForm.bind fun _ => need_keepsForm.bind fun _ => .get fun _ _ => need_keepsForm.bind fun _ => checkRegion_keepsForm

theorem checkSource_keepsForm {c : Cap} : KeepsForm (checkSource c) :=
  checkKind_keepsForm.bind fun _ => checkPerm_keepsForm.bind fun _ => checkSpace_keepsForm

theorem checkTile_keepsForm {c : Cap} : KeepsForm (checkTile c) :=
  checkKind_keepsForm.bind fun _ => checkPerm_keepsForm.bind fun _ => checkSpace_keepsForm

theorem checkBlank_keepsForm {c : Cap} : KeepsForm (checkBlank c) :=
  checkKind_keepsForm.bind fun _ => checkPerm_keepsForm.bind fun _ => checkSpace_keepsForm

theorem stamped_keepsForm {stamp : BitVec 20} {eff : Effect} : KeepsForm (stamped stamp eff) :=
  .ite .pure (await_keepsForm.bind fun _ => .pure)

theorem postInc_keepsForm {post : BitVec 1} {f : BitVec 4} {cols : Nat} : KeepsForm (postInc post f cols) := .ite result_keepsForm .pure

theorem checkSlot_keepsForm {n : BitVec 4} {tld : Bool} : KeepsForm (checkSlot n tld) :=
  .get fun _ _ => getCore_keepsForm.bind fun _ => need_keepsForm.bind fun _ => need_keepsForm

theorem tldWAct_keepsForm {n : BitVec 4} {ha : BitVec 5} {stamp : BitVec 20} : KeepsForm (tldWAct n ha stamp) :=
  readH_keepsForm.bind fun _ => checkTile_keepsForm.bind fun _ => checkSlot_keepsForm.bind fun _ => .get fun _ _ =>
  need_keepsForm.bind fun _ => stamped_keepsForm.bind fun _ => enter_keepsForm.bind fun _ => .pure

theorem tldRAct_keepsForm {n : BitVec 4} {ha gr : BitVec 5} {f : BitVec 4} {cnt : BitVec 3} {post clip perm : BitVec 1}
    {stamp : BitVec 20} {rows cols : Nat} :
    KeepsForm (tldRAct n ha gr f cnt post clip perm stamp rows cols) :=
  readH_keepsForm.bind fun _ => checkSource_keepsForm.bind fun _ => getCore_keepsForm.bind fun _ => checkTensor_keepsForm.bind fun _ =>
  checkSlot_keepsForm.bind fun _ => .get fun _ _ => need_keepsForm.bind fun _ => stamped_keepsForm.bind fun _ =>
  enter_keepsForm.bind fun _ => postInc_keepsForm

theorem barrierOf_keepsForm {sr : BitVec 6} : KeepsForm (barrierOf sr) :=
  readS_keepsForm.bind fun _ => .ite .pure (need_keepsForm.bind fun _ => .pure)

theorem enterCopy_keepsForm {hd ha : BitVec 5} {d c : Cap} {op : EngOp} {barrier : Option Nat} {bytes : Nat} {stamp : BitVec 20} :
    KeepsForm (enterCopy hd ha d c op barrier bytes stamp) :=
  stamped_keepsForm.bind fun _ => enter_keepsForm.bind fun _ => .pure

theorem checkCopy_keepsForm {d c : Cap} : KeepsForm (checkCopy d c) := checkOwn_keepsForm.bind fun _ => checkOwn_keepsForm

theorem tcopyWAct_keepsForm {hd ha : BitVec 5} {sr : BitVec 6} {stamp : BitVec 20} : KeepsForm (tcopyWAct hd ha sr stamp) :=
  readH_keepsForm.bind fun _ => readH_keepsForm.bind fun _ => checkCopy_keepsForm.bind fun _ => checkTile_keepsForm.bind fun _ =>
  checkBlank_keepsForm.bind fun _ => .get fun _ _ => need_keepsForm.bind fun _ => barrierOf_keepsForm.bind fun _ => enterCopy_keepsForm

theorem tcopyRAct_keepsForm {hd ha gr : BitVec 5} {f : BitVec 4} {cnt : BitVec 3} {sr : BitVec 6} {post clip perm : BitVec 1}
    {stamp : BitVec 20} {rows cols : Nat} :
    KeepsForm (tcopyRAct hd ha gr f cnt sr post clip perm stamp rows cols) :=
  readH_keepsForm.bind fun _ => readH_keepsForm.bind fun _ => checkCopy_keepsForm.bind fun _ => checkSource_keepsForm.bind fun _ =>
  checkBlank_keepsForm.bind fun _ => getCore_keepsForm.bind fun _ => checkTensor_keepsForm.bind fun _ => .get fun _ _ =>
  need_keepsForm.bind fun _ => barrierOf_keepsForm.bind fun _ => enterCopy_keepsForm.bind fun _ => postInc_keepsForm

theorem tcopySAct_keepsForm {hd ha gr : BitVec 5} {f : BitVec 4} {cnt : BitVec 3} {sr : BitVec 6} {post clip perm : BitVec 1}
    {stamp : BitVec 20} :
    KeepsForm (tcopySAct hd ha gr f cnt sr post clip perm stamp) :=
  readH_keepsForm.bind fun _ => readH_keepsForm.bind fun _ => checkCopy_keepsForm.bind fun _ => checkTile_keepsForm.bind fun _ =>
  checkBlank_keepsForm.bind fun _ => .get fun _ _ => getCore_keepsForm.bind fun _ => need_keepsForm.bind fun _ =>
  need_keepsForm.bind fun _ => checkTensor_keepsForm.bind fun _ => barrierOf_keepsForm.bind fun _ => enterCopy_keepsForm.bind fun _ =>
  postInc_keepsForm

theorem checkHost_keepsForm {c : Cap} {perm n : Nat} : KeepsForm (checkHost c perm n) :=
  checkKind_keepsForm.bind fun _ => checkPerm_keepsForm.bind fun _ => checkSpace_keepsForm.bind fun _ => checkBounds_keepsForm

theorem tcopyHiAct_keepsForm {hd ha : BitVec 5} {sr : BitVec 6} {stamp : BitVec 20} {n : Nat} : KeepsForm (tcopyHiAct hd ha sr stamp n) :=
  readH_keepsForm.bind fun _ => readH_keepsForm.bind fun _ => checkCopy_keepsForm.bind fun _ => checkKind_keepsForm.bind fun _ =>
  checkPerm_keepsForm.bind fun _ => checkSpace_keepsForm.bind fun _ => .get fun _ _ => checkHost_keepsForm.bind fun _ =>
  need_keepsForm.bind fun _ => barrierOf_keepsForm.bind fun _ => enterCopy_keepsForm

theorem tcopyHoAct_keepsForm {hd ha : BitVec 5} {sr : BitVec 6} {stamp : BitVec 20} {n : Nat} : KeepsForm (tcopyHoAct hd ha sr stamp n) :=
  readH_keepsForm.bind fun _ => readH_keepsForm.bind fun _ => checkCopy_keepsForm.bind fun _ => checkTile_keepsForm.bind fun _ =>
  checkHost_keepsForm.bind fun _ => .get fun _ _ => need_keepsForm.bind fun _ => barrierOf_keepsForm.bind fun _ => enterCopy_keepsForm

theorem checkSeqTable_keepsForm {c : Cap} {perm : Nat} : KeepsForm (checkSeqTable c perm) :=
  checkKind_keepsForm.bind fun _ => checkPerm_keepsForm.bind fun _ => checkSpace_keepsForm.bind fun _ => checkBounds_keepsForm

theorem gatherAct_keepsForm {n : BitVec 4} {ha : BitVec 5} {sr : BitVec 6} {stamp : BitVec 20} {values : Bool} :
    KeepsForm (gatherAct n ha sr stamp values) :=
  readH_keepsForm.bind fun _ => readS_keepsForm.bind fun _ => checkSeqTable_keepsForm.bind fun _ => checkSlot_keepsForm.bind fun _ =>
  stamped_keepsForm.bind fun _ => enter_keepsForm.bind fun _ => .pure

theorem appendAct_keepsForm {hd ha : BitVec 5} {sr : BitVec 6} : KeepsForm (appendAct hd ha sr) :=
  readH_keepsForm.bind fun _ => readH_keepsForm.bind fun _ => readS_keepsForm.bind fun _ => checkTile_keepsForm.bind fun _ =>
  checkSeqTable_keepsForm.bind fun _ => enter_keepsForm.bind fun _ => .pure

/-! ## MatrixWords -/

theorem enterMatrix_keepsForm {stamp : Nat} {op : MatOp} {popped : List Cap} : KeepsForm (enterMatrix stamp op popped) :=
  notQueuedInHandler_keepsForm.bind fun _ => .get fun _ _ => getCore_keepsForm.bind fun _ => need_keepsForm.bind fun _ =>
  .ite (getSeq_keepsForm.bind fun _ => .bind (.modify fun _ h => h) fun _ => modCore_keepsForm.bind fun _ =>
  .pure) (hold_keepsForm.bind fun _ => .pure)

theorem mmaAct_keepsForm {stamp : Nat} {sa sb : BitVec 4} {col k : Nat} {acc ta pre : Bool} :
    KeepsForm (mmaAct stamp sa sb col k acc ta pre) :=
  popQ_keepsForm.bind fun _ => by
  split
  · exact fault_keepsForm
  · exact .get fun _ _ => need_keepsForm.bind fun _ => enterMatrix_keepsForm.bind fun _ => .pure

theorem drainRows_keepsForm {d : Drain} {n : Nat} : KeepsForm (drainRows d n) := by
  induction n with
  | zero => exact .pure
  | succ n ih => exact ih.bind fun _ => result_keepsForm

theorem mdrainAct_keepsForm {rm : BitVec 3} {hb : BitVec 5} {col n : Nat} {sr : BitVec 6} : KeepsForm (mdrainAct rm hb col n sr) :=
  readH_keepsForm.bind fun _ => readS_keepsForm.bind fun _ => need_keepsForm.bind fun _ => need_keepsForm.bind fun _ =>
  checkKind_keepsForm.bind fun _ => checkPerm_keepsForm.bind fun _ => checkSpace_keepsForm.bind fun _ => .get fun _ _ =>
  getCore_keepsForm.bind fun _ => need_keepsForm.bind fun _ => need_keepsForm.bind fun _ => noBorrow_keepsForm.bind fun _ =>
  fixedTile_keepsForm.bind fun _ => enterMatrix_keepsForm.bind fun _ => drainRows_keepsForm.bind fun _ => dropPopped_keepsForm

theorem mzeroAct_keepsForm {stamp col n : Nat} : KeepsForm (mzeroAct stamp col n) := enterMatrix_keepsForm.bind fun _ => .pure

theorem maccAct_keepsForm {stamp row col n : Nat} {acc int : Bool} {vs : BitVec 6} : KeepsForm (maccAct stamp row col n acc int vs) :=
  enterMatrix_keepsForm.bind fun _ => .pure

theorem tstatAct_keepsForm {d : BitVec 6} {e : Nat} : KeepsForm (tstatAct d e) :=
  getCore_keepsForm.bind fun _ => getTtc_keepsForm.bind fun _ => .ite (writeS_keepsForm.bind fun _ => modCore_keepsForm) writeS_keepsForm

/-! ## AttnWords -/

theorem astartAct_keepsForm {hb : BitVec 5} {a : BitVec 6} {upc : BitVec 12} : KeepsForm (astartAct hb a upc) :=
  notQueuedInHandler_keepsForm.bind fun _ => readH_keepsForm.bind fun _ => readS_keepsForm.bind fun _ => checkKind_keepsForm.bind fun _ =>
  by
  extract_lets -underBinder j
  have hj : ∀ x, KeepsForm (j x) := fun _ => need_keepsForm.bind fun _ => enter_keepsForm.bind fun _ => .pure
  clear_value j
  exact .ite (hj _) (checkBlank_keepsForm.bind hj)

theorem aloadAct_keepsForm {h : BitVec 5} {a b : BitVec 6} : KeepsForm (aloadAct h a b) :=
  notQueuedInHandler_keepsForm.bind fun _ => readH_keepsForm.bind fun _ => readS_keepsForm.bind fun _ => readS_keepsForm.bind fun _ =>
  need_keepsForm.bind fun _ => checkKind_keepsForm.bind fun _ => checkPerm_keepsForm.bind fun _ => checkSpace_keepsForm.bind fun _ =>
  checkBounds_keepsForm.bind fun _ => enter_keepsForm.bind fun _ => .pure

theorem astatAct_keepsForm {d a : BitVec 6} {wait : Bool} : KeepsForm (astatAct d a wait) :=
  readS_keepsForm.bind fun _ => getCore_keepsForm.bind fun _ => need_keepsForm.bind fun _ => getD_keepsForm.bind fun _ =>
  awaitS_keepsForm.bind fun _ => .get fun _ _ => modCore_keepsForm

/-! ## Porter -/

theorem cellOf_keepsForm {c : Cap} {cell : BitVec 32} {wide : Bool} : KeepsForm (cellOf c cell wide) :=
  checkKind_keepsForm.bind fun _ => checkPerm_keepsForm.bind fun _ => checkSpace_keepsForm.bind fun _ => checkBounds_keepsForm.bind fun _ =>
  need_keepsForm.bind fun _ => need_keepsForm.bind fun _ => .pure

theorem porterAct_keepsForm {h : BitVec 5} {cell : BitVec 32} {order : BitVec 2} {op : CellOp} {links : Nat} {args : Act CellArgs}
    {dst : Nat → Act (List Nat)} (hargs : KeepsForm args) (hdst : ∀ n, KeepsForm (dst n)) :
    KeepsForm (porterAct h cell order op links args dst) :=
  readH_keepsForm.bind fun _ => hargs.bind fun _ => cellOf_keepsForm.bind fun _ => by
  extract_lets -underBinder j
  have hj : ∀ x, KeepsForm (j x) := fun _ => .get fun _ _ => (hdst _).bind fun _ => .get fun _ _ => getSeq_keepsForm.bind fun _ =>
    enter_keepsForm.bind fun _ => by
    split
    · exact modCore_keepsForm
    · exact .pure
  clear_value j
  split
  · exact need_keepsForm.bind fun _ => .ite (checkNear_keepsForm.bind hj) (hj _)
  · exact hj _

theorem cellArgs_keepsForm {b c : Option (BitVec 6)} : KeepsForm (cellArgs b c) := by
  unfold cellArgs
  extract_lets -underBinder j
  have hj : ∀ x, KeepsForm (j x) := fun _ => by
    unfold j
    extract_lets -underBinder j1
    have hj1 : ∀ x, KeepsForm (j1 x) := fun _ => .pure
    clear_value j1
    split
    · exact readS_keepsForm.bind hj1
    · exact .bind .pure hj1
  clear_value j
  split
  · exact readS_keepsForm.bind hj
  · exact .bind .pure hj

theorem cellDst_keepsForm {a : BitVec 6} {lat : Nat} : KeepsForm (cellDst a lat) := awaitS_keepsForm.bind fun _ => .pure

theorem noDst_keepsForm {n : Nat} : KeepsForm (noDst n) := .pure

theorem skipCell_keepsForm {h : BitVec 5} {cell : BitVec 32} {roles : List Role} : KeepsForm (skipCell h cell roles) :=
  .get fun _ _ => getCore_keepsForm.bind fun _ => getSeq_keepsForm.bind fun _ => skip_keepsForm

theorem cas2Args_keepsForm {b c : BitVec 6} : KeepsForm (cas2Args b c) :=
  readS_keepsForm.bind fun _ => readS_keepsForm.bind fun _ => readS_keepsForm.bind fun _ => readS_keepsForm.bind fun _ => .pure

theorem cas2Dst_keepsForm {a : BitVec 6} {lat : Nat} : KeepsForm (cas2Dst a lat) :=
  awaitS_keepsForm.bind fun _ => awaitS_keepsForm.bind fun _ => .pure

theorem hxchArgs_keepsForm : KeepsForm hxchArgs := readH_keepsForm.bind fun _ => .pure

theorem hxchDst_keepsForm {lat : Nat} : KeepsForm (hxchDst lat) := dstH_keepsForm.bind fun _ => await_keepsForm.bind fun _ => .pure

/-! ## Link -/

theorem checkBerth_keepsForm {port slot berth : Nat} : KeepsForm (checkBerth port slot berth) :=
  .get fun _ _ => need_keepsForm.bind fun _ => need_keepsForm

theorem lsendPath_keepsForm {d : Dep} : KeepsForm (lsendPath d) :=
  .get fun _ _ => by
  extract_lets -underBinder j
  have hj : ∀ x, KeepsForm (j x) := fun _ => need_keepsForm.bind fun _ => by
    split
    · exact fault_keepsForm
    · exact checkBerth_keepsForm.bind fun _ => .pure
  clear_value j
  exact .ite (hold_keepsForm.bind hj) (hj _)

theorem lsendFlits_keepsForm {d : Dep} {port r f n : Nat} : KeepsForm (lsendFlits d port r f n) :=
  (KeepsForm.mapM fun _ => checkBerth_keepsForm).bind fun _ => need_keepsForm.bind fun _ => need_keepsForm.bind fun _ => .get fun _ _ =>
  need_keepsForm.bind fun _ => by
  extract_lets -underBinder j
  have hj : ∀ x, KeepsForm (j x) := fun _ => .pure
  exact .ite (hold_keepsForm.bind hj) (.bind (.modify fun _ h => by dsimp only; split <;> exact h) hj)

theorem lsendEnter_keepsForm {d : Dep} {port r f off : Nat} {route : Word64} {p : Payload} {src : Option (Cap × Nat)}
    {borrows popped : List Cap} :
    KeepsForm (lsendEnter d port r f off route p src borrows popped) :=
  .get fun _ _ => enter_keepsForm.bind fun _ => .pure

theorem lsendHAct_keepsForm {h : BitVec 5} {c : BitVec 6} {d : Dep} : KeepsForm (lsendHAct h c d) :=
  readH_keepsForm.bind fun _ => readS_keepsForm.bind fun _ => need_keepsForm.bind fun _ => lsendPath_keepsForm.bind fun _ =>
  checkKind_keepsForm.bind fun _ => checkPerm_keepsForm.bind fun _ => by
  extract_lets -underBinder j
  have hj : ∀ x, KeepsForm (j x) := fun _ => lsendFlits_keepsForm.bind fun _ => by
    extract_lets -underBinder j1
    have hj1 : ∀ x, KeepsForm (j1 x) := fun _ => lsendEnter_keepsForm
    clear_value j1
    exact .ite (nullH_keepsForm.bind hj1) (hj1 _)
  clear_value j
  exact .ite (checkPerm_keepsForm.bind fun _ => checkSpace_keepsForm.bind hj) (hj _)

theorem lsendDAct_keepsForm {h : BitVec 5} {b c : BitVec 6} {d : Dep} : KeepsForm (lsendDAct h b c d) :=
  readH_keepsForm.bind fun _ => readS_keepsForm.bind fun _ => readS_keepsForm.bind fun _ => need_keepsForm.bind fun _ =>
  lsendPath_keepsForm.bind fun _ => checkKind_keepsForm.bind fun _ => checkPerm_keepsForm.bind fun _ => checkPerm_keepsForm.bind fun _ =>
  checkSpace_keepsForm.bind fun _ => need_keepsForm.bind fun _ => lsendFlits_keepsForm.bind fun _ => lsendEnter_keepsForm

theorem lsendVAct_keepsForm {b c : BitVec 6} {d : Dep} : KeepsForm (lsendVAct b c d) :=
  readS_keepsForm.bind fun _ => readS_keepsForm.bind fun _ => need_keepsForm.bind fun _ => lsendPath_keepsForm.bind fun _ =>
  lsendFlits_keepsForm.bind fun _ => lsendEnter_keepsForm

theorem checkRemote_keepsForm {c : Cap} {perm : Nat} {peer : BitVec 6} : KeepsForm (checkRemote c perm peer) :=
  checkKind_keepsForm.bind fun _ => checkPerm_keepsForm.bind fun _ => checkSpace_keepsForm.bind fun _ => checkBounds_keepsForm.bind fun _ =>
  need_keepsForm

theorem remoteAct_keepsForm {kind : RemoteKind} {perm : Nat} {h : BitVec 5} {a b c : Option (BitVec 6)} {peer : BitVec 6} :
    KeepsForm (remoteAct kind perm h a b c peer) :=
  readH_keepsForm.bind fun _ => by
  extract_lets -underBinder j
  have hj : ∀ x, KeepsForm (j x) := fun _ => by
    unfold j
    extract_lets -underBinder j1
    have hj1 : ∀ x, KeepsForm (j1 x) := fun _ => checkRemote_keepsForm.bind fun _ => by
      extract_lets -underBinder j2
      have hj2 : ∀ x, KeepsForm (j2 x) := fun _ => enter_keepsForm.bind fun _ => .pure
      clear_value j2
      split
      · exact awaitS_keepsForm.bind fun _ => .bind .pure hj2
      · exact .bind .pure hj2
    clear_value j1
    split
    · exact readS_keepsForm.bind hj1
    · exact .bind .pure hj1
  clear_value j
  split
  · exact readS_keepsForm.bind hj
  · exact .bind .pure hj

theorem askH_keepsForm {op : HOp} {latches : List Nat} : KeepsForm (askH op latches) := .get fun _ _ => modCore_keepsForm

theorem hLatency_keepsForm : KeepsForm hLatency := .get fun _ _ => .pure

theorem ltakeAct_keepsForm {h : BitVec 5} {a : BitVec 6} {wait : Bool} : KeepsForm (ltakeAct h a wait) :=
  hLatency_keepsForm.bind fun _ => awaitS_keepsForm.bind fun _ => awaitS_keepsForm.bind fun _ => dstH_keepsForm.bind fun _ =>
  await_keepsForm.bind fun _ => askH_keepsForm

theorem skipH_keepsForm {roles : List Role} : KeepsForm (skipH roles) := hLatency_keepsForm.bind fun _ => skip_keepsForm

theorem lcalAct_keepsForm {h : BitVec 5} {b : BitVec 6} : KeepsForm (lcalAct h b) :=
  readH_keepsForm.bind fun _ => readS_keepsForm.bind fun _ => checkOwn_keepsForm.bind fun _ => checkPerm_keepsForm.bind fun _ =>
  need_keepsForm.bind fun _ => enter_keepsForm.bind fun _ => .pure

theorem lmarkAct_keepsForm {b : BitVec 6} : KeepsForm (lmarkAct b) := readS_keepsForm.bind fun _ => enter_keepsForm.bind fun _ => .pure

theorem lstatAct_keepsForm {a b : BitVec 6} : KeepsForm (lstatAct a b) :=
  readS_keepsForm.bind fun _ => .get fun _ _ => need_keepsForm.bind fun _ => hLatency_keepsForm.bind fun _ => awaitS_keepsForm.bind fun _ =>
  askH_keepsForm

/-! ## Shuttle -/

/-- The blanks of a shuttle channel are allocated, which writes no memory (R260). -/
theorem takeBlanks_mem (core : Nat) (part : BitVec 5) (cls n : Nat) {s t : State} {cs : List Cap}
    (h : takeBlanks core part cls n s = some (cs, t)) : t.mem = s.mem := by
  induction n generalizing s cs with
  | zero => cases h; rfl
  | succ n ih =>
    have hb := allocBlock_mem s part core cls
    unfold takeBlanks at h
    split at h
    · rename_i u base e
      rw [e] at hb
      obtain ⟨r, hr, hc⟩ := Option.map_eq_some_iff.mp h
      cases hc
      exact (ih hr).trans hb
    · cases h

theorem shretOpenAct_keepsForm {a : BitVec 6} {ch : BitVec 4} {n : BitVec 3} {k : BitVec 4} : KeepsForm (shretOpenAct a ch n k) :=
  readS_keepsForm.bind fun _ => .get fun _ hs => need_keepsForm.bind fun _ => need_keepsForm.bind fun _ => need_keepsForm.bind fun _ =>
  roomIn_keepsForm.bind fun _ => by
  extract_lets -underBinder
  split
  · exact fault_keepsForm
  · rename_i e
    refine .bind (.set ?_) fun _ => modCore_keepsForm.bind fun _ => .modify fun _ h => h
    rwa [takeBlanks_mem _ _ _ _ e]

theorem shretTAct_keepsForm {h : BitVec 5} {ch : BitVec 4} : KeepsForm (shretTAct h ch) :=
  readH_keepsForm.bind fun _ => checkKind_keepsForm.bind fun _ => .get fun _ _ => by
  split
  · exact fault_keepsForm
  · exact need_keepsForm.bind fun _ => need_keepsForm.bind fun _ => roomIn_keepsForm.bind fun _ => nullH_keepsForm.bind fun _ =>
      .modify fun _ h => by simp [h]

theorem shretCloseAct_keepsForm {ch : BitVec 4} : KeepsForm (shretCloseAct ch) :=
  .get fun _ hs => by
  split
  · exact fault_keepsForm
  · exact need_keepsForm.bind fun _ => roomIn_keepsForm.bind fun _ => .set (by simp [hs])

theorem shsendAct_keepsForm {h : BitVec 5} {imm : BitVec 45} : KeepsForm (shsendAct h imm) :=
  readH_keepsForm.bind fun _ => .get fun _ _ => by
  extract_lets -underBinder
  split
  · exact fault_keepsForm
  · refine checkTile_keepsForm.bind fun _ => checkPerm_keepsForm.bind fun _ => need_keepsForm.bind fun _ => ?_
    extract_lets -underBinder j
    have hj : ∀ x, KeepsForm (j x) := fun _ => by
      unfold j
      split
      · exact hold_keepsForm
      · exact nullH_keepsForm.bind fun _ => .bind (.modify fun _ h => by simp [h]) fun _ => enter_keepsForm.bind fun _ => .pure
    clear_value j
    split
    · exact need_keepsForm.bind hj
    · exact hj _

theorem shtakeAct_keepsForm {h : BitVec 5} {ch : BitVec 4} : KeepsForm (shtakeAct h ch) :=
  .get fun _ _ => by
  split
  · exact fault_keepsForm
  · split
    · exact hold_keepsForm
    · exact roomIn_keepsForm.bind fun _ => writeH_keepsForm.bind fun _ => .modify fun _ h => by simp [h]

/-! ## SBox -/

theorem sbputAct_keepsForm {b : BitVec 6} {pipe : BitVec 1} {cls : BitVec 4} : KeepsForm (sbputAct b pipe cls) :=
  readS_keepsForm.bind fun _ => .get fun _ _ => checkPrivate_keepsForm.bind fun _ => need_keepsForm.bind fun _ =>
  enter_keepsForm.bind fun _ => .pure

theorem enterAsk_keepsForm {op : HOp} {latches : List Nat} : KeepsForm (enterAsk op latches) := .get fun _ _ => enter_keepsForm

theorem sbgetAct_keepsForm {exc : Bool} {a b : BitVec 6} : KeepsForm (sbgetAct exc a b) :=
  readS_keepsForm.bind fun _ => checkPrivate_keepsForm.bind fun _ => hLatency_keepsForm.bind fun _ => awaitS_keepsForm.bind fun _ =>
  .get fun _ _ => await_keepsForm.bind fun _ => enterAsk_keepsForm.bind fun _ => .pure

theorem sbtblAct_keepsForm {b : BitVec 6} {lit : BitVec 64} : KeepsForm (sbtblAct b lit) :=
  readS_keepsForm.bind fun _ => .get fun _ _ => need_keepsForm.bind fun _ => need_keepsForm.bind fun _ => enter_keepsForm.bind fun _ =>
  .pure

theorem sbcommitAct_keepsForm {b : BitVec 6} : KeepsForm (sbcommitAct b) :=
  readS_keepsForm.bind fun _ => enter_keepsForm.bind fun _ => .pure

theorem sbstatAct_keepsForm {a b : BitVec 6} : KeepsForm (sbstatAct a b) :=
  readS_keepsForm.bind fun _ => need_keepsForm.bind fun _ => hLatency_keepsForm.bind fun _ => awaitS_keepsForm.bind fun _ =>
  enterAsk_keepsForm.bind fun _ => .pure

theorem sbmarkAct_keepsForm {b : BitVec 6} : KeepsForm (sbmarkAct b) :=
  readS_keepsForm.bind fun _ => enterAsk_keepsForm.bind fun _ => .pure

/-! ## Scalar -/

theorem binAct_keepsForm {lat : Nat} {f : Word64 → Word64 → Word64} {d a b : BitVec 6} : KeepsForm (binAct lat f d a b) :=
  readS_keepsForm.bind fun _ => readS_keepsForm.bind fun _ => writeS_keepsForm

theorem unAct_keepsForm {lat : Nat} {f : Word64 → Word64} {d a : BitVec 6} : KeepsForm (unAct lat f d a) :=
  readS_keepsForm.bind fun _ => writeS_keepsForm

theorem terAct_keepsForm {lat : Nat} {f : Word64 → Word64 → Word64 → Word64} {d a b c : BitVec 6} : KeepsForm (terAct lat f d a b c) :=
  readS_keepsForm.bind fun _ => readS_keepsForm.bind fun _ => readS_keepsForm.bind fun _ => writeS_keepsForm

theorem psetAct_keepsForm {d c : BitVec 6} {v : Bool} : KeepsForm (psetAct d c v) :=
  writeP_keepsForm.bind fun _ => .ite (.get fun _ _ => pushQ_keepsForm.bind fun _ => result_keepsForm) .pure

theorem psetPred_keepsForm {f : Bool → Bool → Bool} {d a b c : BitVec 6} : KeepsForm (psetPred f d a b c) :=
  readP_keepsForm.bind fun _ => readP_keepsForm.bind fun _ => psetAct_keepsForm

theorem psetCmp_keepsForm {f : Word64 → Word64 → Bool} {d a b c : BitVec 6} : KeepsForm (psetCmp f d a b c) :=
  readS_keepsForm.bind fun _ => readS_keepsForm.bind fun _ => psetAct_keepsForm

theorem litAct_keepsForm {d : BitVec 6} {lit : Word96} : KeepsForm (litAct d lit) := writeS_keepsForm.bind fun _ => .pure

/-! ## System -/

theorem haltAct_keepsForm : KeepsForm haltAct :=
  notInHandler_keepsForm.bind fun _ => .get fun _ hs =>
  .ite .pure (.set (wf_foldState (fun _ _ h => wf_traceEvent h _ _ _ _ _) _ (by rwa [setCons_mem])))

theorem trapSwAct_keepsForm {imm : BitVec 48} : KeepsForm (trapSwAct imm) := .get fun _ _ => .pure

theorem rftAct_keepsForm : KeepsForm rftAct := inHandler_keepsForm.bind fun _ => need_keepsForm.bind fun _ => .pure

theorem sysrAct_keepsForm {d : BitVec 6} {reg : BitVec 8} : KeepsForm (sysrAct d reg) := .get fun _ _ => writeS_keepsForm

theorem syswAct_keepsForm {a : BitVec 6} {reg : BitVec 8} : KeepsForm (syswAct a reg) := readS_keepsForm.bind fun _ => result_keepsForm

theorem ovlyAct_keepsForm {n : Word64} : KeepsForm (ovlyAct n) :=
  notInHandler_keepsForm.bind fun _ => need_keepsForm.bind fun _ => .get fun _ hs => need_keepsForm.bind fun _ =>
  .bind (.set (by simp [hs])) fun _ => .pure

theorem ovlySAct_keepsForm {a : BitVec 6} : KeepsForm (ovlySAct a) := readS_keepsForm.bind fun _ => ovlyAct_keepsForm

theorem cardoneAct_keepsForm : KeepsForm cardoneAct :=
  notInHandler_keepsForm.bind fun _ => getCore_keepsForm.bind fun _ => need_keepsForm.bind fun _ => .bind (.modify fun _ h =>
  by simp [h]) fun _ => .pure

theorem dlaunchAct_keepsForm {d a : BitVec 6} : KeepsForm (dlaunchAct d a) :=
  readS_keepsForm.bind fun _ => need_keepsForm.bind fun _ => .get fun _ _ => awaitS_keepsForm.bind fun _ => result_keepsForm

theorem traceTsAct_keepsForm : KeepsForm traceTsAct := .modify fun _ h => by simp [h]

theorem traceBrAct_keepsForm : KeepsForm traceBrAct := .modify fun _ h => by
  dsimp only
  split
  · exact wf_traceFlush h _
  · exact h

/-! ## Vector -/

theorem lanesFor_keepsForm {masked : BitVec 1} : KeepsForm (lanesFor masked) := getCore_keepsForm.bind fun _ => .pure

theorem vecResult_keepsForm {vd : BitVec 6} {masked : BitVec 1} {lat : Nat} {out : List LaneOut} :
    KeepsForm (vecResult vd masked lat out) :=
  lanesFor_keepsForm.bind fun _ => result_keepsForm.bind fun _ => .ite result_keepsForm .pure

theorem readV_keepsForm {r : BitVec 6} : KeepsForm (readV r) := getCore_keepsForm.bind fun _ => .pure

theorem vec2Act_keepsForm {lat : Nat} {vd va vb : BitVec 6} {ty : BitVec 4} {masked : BitVec 1} {f : Nat → Nat → Nat × Bool} :
    KeepsForm (vec2Act lat vd va vb ty masked f) :=
  readV_keepsForm.bind fun _ => readV_keepsForm.bind fun _ => vecResult_keepsForm

theorem lane2Act_keepsForm {lat : Nat} {vd va vb : BitVec 6} {masked : BitVec 1} {f : BitVec 32 → BitVec 32 → BitVec 32} :
    KeepsForm (lane2Act lat vd va vb masked f) :=
  readV_keepsForm.bind fun _ => readV_keepsForm.bind fun _ => vecResult_keepsForm

theorem fmaAct_keepsForm {vd va vb vc : BitVec 6} {ty : BitVec 4} {rm : BitVec 3} {sat masked : BitVec 1} {f : XNum → XNum → XNum → XNum} :
    KeepsForm (fmaAct vd va vb vc ty rm sat masked f) :=
  readV_keepsForm.bind fun _ => readV_keepsForm.bind fun _ => readV_keepsForm.bind fun _ => vecResult_keepsForm

theorem vcvtAct_keepsForm {vd va : BitVec 6} {ty : BitVec 4} {rm : BitVec 3} {sat masked : BitVec 1} {imm : BitVec 8} :
    KeepsForm (vcvtAct vd va ty rm sat masked imm) :=
  readV_keepsForm.bind fun _ => lanesFor_keepsForm.bind fun _ => result_keepsForm.bind fun _ => .ite result_keepsForm .pure

theorem lutAct_keepsForm {vd va vb vc : BitVec 6} {masked : BitVec 1} {tbl : BitVec 8} : KeepsForm (lutAct vd va vb vc masked tbl) :=
  readV_keepsForm.bind fun _ => readV_keepsForm.bind fun _ => readV_keepsForm.bind fun _ => vecResult_keepsForm

theorem rotAct_keepsForm {vd va : BitVec 6} {masked : BitVec 1} {n : Nat} : KeepsForm (rotAct vd va masked n) :=
  readV_keepsForm.bind fun _ => vecResult_keepsForm

theorem rotsAct_keepsForm {vd va : BitVec 6} {masked : BitVec 1} {sr : BitVec 6} : KeepsForm (rotsAct vd va masked sr) :=
  readS_keepsForm.bind fun _ => rotAct_keepsForm

theorem permAct_keepsForm {vd va vb : BitVec 6} {masked : BitVec 1} : KeepsForm (permAct vd va vb masked) :=
  readV_keepsForm.bind fun _ => readV_keepsForm.bind fun _ => vecResult_keepsForm

theorem perm2Act_keepsForm {vd va vb vc : BitVec 6} {masked : BitVec 1} : KeepsForm (perm2Act vd va vb vc masked) :=
  readV_keepsForm.bind fun _ => readV_keepsForm.bind fun _ => readV_keepsForm.bind fun _ => vecResult_keepsForm

theorem bcastAct_keepsForm {vd : BitVec 6} {masked : BitVec 1} {x : BitVec 32} : KeepsForm (bcastAct vd masked x) := vecResult_keepsForm

theorem bcastSAct_keepsForm {vd : BitVec 6} {masked : BitVec 1} {sr : BitVec 6} : KeepsForm (bcastSAct vd masked sr) :=
  readS_keepsForm.bind fun _ => bcastAct_keepsForm

theorem bcastLaneAct_keepsForm {vd va : BitVec 6} {masked : BitVec 1} {n : Nat} : KeepsForm (bcastLaneAct vd va masked n) :=
  readV_keepsForm.bind fun _ => bcastAct_keepsForm

theorem selBitAct_keepsForm {vd va vb vc : BitVec 6} {masked : BitVec 1} : KeepsForm (selBitAct vd va vb vc masked) :=
  readV_keepsForm.bind fun _ => readV_keepsForm.bind fun _ => readV_keepsForm.bind fun _ => vecResult_keepsForm

theorem selMaskAct_keepsForm {vd va vb : BitVec 6} : KeepsForm (selMaskAct vd va vb) :=
  readV_keepsForm.bind fun _ => readV_keepsForm.bind fun _ => getCore_keepsForm.bind fun _ => vecResult_keepsForm

theorem movsAct_keepsForm {va sr : BitVec 6} {n : Nat} {pair : Bool} : KeepsForm (movsAct va sr n pair) :=
  readV_keepsForm.bind fun _ => getD_keepsForm.bind fun _ => writeS_keepsForm

theorem skipMovs_keepsForm {sr : BitVec 6} : KeepsForm (skipMovs sr) := getD_keepsForm.bind fun _ => skip_keepsForm

theorem topkRanks_keepsForm {va vb : BitVec 6} {k : Nat} : KeepsForm (topkRanks va vb k) :=
  readS_keepsForm.bind fun _ => need_keepsForm.bind fun _ => readV_keepsForm.bind fun _ => .pure

theorem topkValAct_keepsForm {vd va vb : BitVec 6} {masked : BitVec 1} {k : Nat} : KeepsForm (topkValAct vd va vb masked k) :=
  topkRanks_keepsForm.bind fun _ => readV_keepsForm.bind fun _ => vecResult_keepsForm

theorem topkIdxAct_keepsForm {vd va vb sr : BitVec 6} {masked : BitVec 1} {k : Nat} : KeepsForm (topkIdxAct vd va vb sr masked k) :=
  topkRanks_keepsForm.bind fun _ => readS_keepsForm.bind fun _ => vecResult_keepsForm

theorem redAct_keepsForm {vd va : BitVec 6} {masked : BitVec 1} {r : Red} : KeepsForm (redAct vd va masked r) :=
  readV_keepsForm.bind fun _ => lanesFor_keepsForm.bind fun _ => vecResult_keepsForm

theorem mpushAct_keepsForm {c : Cond} {va vb : BitVec 6} {ty : BitVec 4} : KeepsForm (mpushAct c va vb ty) :=
  getCore_keepsForm.bind fun _ => need_keepsForm.bind fun _ => readV_keepsForm.bind fun _ => readV_keepsForm.bind fun _ => result_keepsForm

theorem minvAct_keepsForm : KeepsForm minvAct := getCore_keepsForm.bind fun _ => result_keepsForm

theorem mpopAct_keepsForm : KeepsForm mpopAct := getCore_keepsForm.bind fun _ => need_keepsForm.bind fun _ => result_keepsForm

theorem mgetMAct_keepsForm {md : BitVec 3} : KeepsForm (mgetMAct md) := getCore_keepsForm.bind fun _ => result_keepsForm

theorem mgetVAct_keepsForm {vd : BitVec 6} : KeepsForm (mgetVAct vd) := getCore_keepsForm.bind fun _ => vecResult_keepsForm

theorem msetMAct_keepsForm {ma : BitVec 3} : KeepsForm (msetMAct ma) := getCore_keepsForm.bind fun _ => result_keepsForm

theorem msetVAct_keepsForm {va : BitVec 6} : KeepsForm (msetVAct va) :=
  getCore_keepsForm.bind fun _ => readV_keepsForm.bind fun _ => result_keepsForm

theorem checkVecHandle_keepsForm {c : Cap} {kinds : List (BitVec 4)} {perm : Nat} {spaces : List Nat} :
    KeepsForm (checkVecHandle c kinds perm spaces) :=
  checkKind_keepsForm.bind fun _ => checkPerm_keepsForm.bind fun _ => checkSpace_keepsForm

theorem checkWidth_keepsForm {c : Cap} {ty : Nat} : KeepsForm (checkWidth c ty) := .get fun _ _ => need_keepsForm

theorem strideAddrs_keepsForm {c : Cap} {o t : Word64} {n : Nat} : KeepsForm (strideAddrs c o t n) :=
  .get fun _ _ => by
  extract_lets -underBinder
  split
  · exact fault_keepsForm
  · exact .pure

theorem tilePlaces_keepsForm {as : List Nat} : KeepsForm (tilePlaces as) := by
  induction as with
  | nil => exact .pure
  | cons a as ih => exact fixedTile_keepsForm.bind fun _ => ih.bind fun _ => .pure

theorem loadLanes_keepsForm {vd : BitVec 6} {masked : BitVec 1} {h : BitVec 5} {c : Cap} {as : List Nat} :
    KeepsForm (loadLanes vd masked h c as) :=
  lanesFor_keepsForm.bind fun _ => .ite (tilePlaces_keepsForm.bind fun _ => .get fun _ _ => resultOr_keepsForm.bind fun _ =>
  dropPopped_keepsForm) (readHbm_keepsForm.bind fun _ => dropPopped_keepsForm)

theorem storeLanes_keepsForm {va : BitVec 6} {masked : BitVec 1} {h : BitVec 5} {c : Cap} {as : List Nat} :
    KeepsForm (storeLanes va masked h c as) :=
  lanesFor_keepsForm.bind fun _ => readV_keepsForm.bind fun _ => .ite (tilePlaces_keepsForm.bind fun _ => noBorrow_keepsForm.bind fun _ =>
  .get fun _ _ => result_keepsForm.bind fun _ => dropPopped_keepsForm) (noBorrow_keepsForm.bind fun _ => writeHbm_keepsForm.bind fun _ =>
  dropPopped_keepsForm)

theorem vldModAct_keepsForm {vd : BitVec 6} {ty : BitVec 4} {masked : BitVec 1} {h : BitVec 5} {b : Nat} :
    KeepsForm (vldModAct vd ty masked h b) :=
  readH_keepsForm.bind fun _ => checkVecHandle_keepsForm.bind fun _ => checkWidth_keepsForm.bind fun _ => .get fun _ _ =>
  loadLanes_keepsForm

theorem vstModAct_keepsForm {va : BitVec 6} {ty : BitVec 4} {masked : BitVec 1} {h : BitVec 5} {b : Nat} :
    KeepsForm (vstModAct va ty masked h b) :=
  readH_keepsForm.bind fun _ => checkVecHandle_keepsForm.bind fun _ => .get fun _ _ => storeLanes_keepsForm

theorem rowAddrs_keepsForm {c : Cap} {e : Word64} : KeepsForm (rowAddrs c e) := .get fun _ _ => need_keepsForm.bind fun _ => .pure

theorem vldRowAct_keepsForm {vd : BitVec 6} {masked : BitVec 1} {h : BitVec 5} {sb : BitVec 6} : KeepsForm (vldRowAct vd masked h sb) :=
  readH_keepsForm.bind fun _ => readS_keepsForm.bind fun _ => checkVecHandle_keepsForm.bind fun _ => rowAddrs_keepsForm.bind fun _ =>
  checkWidth_keepsForm.bind fun _ => loadLanes_keepsForm

theorem vstRowAct_keepsForm {va : BitVec 6} {masked : BitVec 1} {h : BitVec 5} {sb : BitVec 6} : KeepsForm (vstRowAct va masked h sb) :=
  readH_keepsForm.bind fun _ => readS_keepsForm.bind fun _ => checkVecHandle_keepsForm.bind fun _ => rowAddrs_keepsForm.bind fun _ =>
  storeLanes_keepsForm

theorem vldStrAct_keepsForm {vd : BitVec 6} {masked : BitVec 1} {h : BitVec 5} {sb sc : BitVec 6} {n : Nat} :
    KeepsForm (vldStrAct vd masked h sb sc n) :=
  readH_keepsForm.bind fun _ => readS_keepsForm.bind fun _ => readS_keepsForm.bind fun _ => checkOwn_keepsForm.bind fun _ =>
  checkVecHandle_keepsForm.bind fun _ => strideAddrs_keepsForm.bind fun _ => checkWidth_keepsForm.bind fun _ => loadLanes_keepsForm

theorem vstStrAct_keepsForm {va : BitVec 6} {masked : BitVec 1} {h : BitVec 5} {sb sc : BitVec 6} {n : Nat} :
    KeepsForm (vstStrAct va masked h sb sc n) :=
  readH_keepsForm.bind fun _ => readS_keepsForm.bind fun _ => readS_keepsForm.bind fun _ => checkOwn_keepsForm.bind fun _ =>
  checkVecHandle_keepsForm.bind fun _ => strideAddrs_keepsForm.bind fun _ => storeLanes_keepsForm

theorem vparkAct_keepsForm {va : BitVec 6} {col : Nat} : KeepsForm (vparkAct va col) :=
  getCore_keepsForm.bind fun _ => getTtc_keepsForm.bind fun _ => need_keepsForm.bind fun _ => result_keepsForm.bind fun _ =>
  result_keepsForm

theorem vunparkAct_keepsForm {vd : BitVec 6} : KeepsForm (vunparkAct vd) :=
  getCore_keepsForm.bind fun _ => by
  split
  · exact fault_keepsForm
  · exact addLatch_keepsForm.bind fun _ => result_keepsForm

end Sys2Proof.Laws
end

section
/-! SUPPORT. The canonical form of memory through engine work: how the parts of an `Eng` compose. -/
namespace Sys2Proof.Laws
open Sys2Proof Sys2Proof.Machine
-- In order: each thread of an elaboration in parallel reserves its stack, and the text is long.
set_option Elab.async false

/-- What an engine's work keeps: from a state with canonical memory it leaves one, whether it ends or stops. -/
def WorkKeepsForm {α : Type} (x : Eng α) : Prop :=
  ∀ s, s.mem.wf = true → (x.run.run s).2.mem.wf = true

namespace WorkKeepsForm
variable {α β : Type}

theorem pure {a : α} : WorkKeepsForm (Pure.pure a : Eng α) := fun _ h => h

theorem bind {x : Eng α} {f : α → Eng β} (hx : WorkKeepsForm x) (hf : ∀ a, WorkKeepsForm (f a)) : WorkKeepsForm (x >>= f) := by
  intro s h
  have hs := hx s h
  simp only [ExceptT.run_bind, StateT.run_bind]
  generalize x.run.run s = r at hs
  obtain ⟨r | a, t⟩ := r
  · exact hs
  · exact hf a t hs

theorem get {f : State → Eng β} (hf : ∀ s, s.mem.wf = true → WorkKeepsForm (f s)) : WorkKeepsForm (MonadState.get >>= f) :=
  fun s h => hf s h s h

theorem set {t : State} (ht : t.mem.wf = true) : WorkKeepsForm (MonadStateOf.set t : Eng PUnit) := fun _ _ => ht

theorem modify {f : State → State} (hf : ∀ s, s.mem.wf = true → (f s).mem.wf = true) : WorkKeepsForm (modify f : Eng PUnit) :=
  fun s h => hf s h

theorem throw {e : EngStop} : WorkKeepsForm (MonadExcept.throw e : Eng α) := fun _ h => h

theorem ite {c : Prop} [Decidable c] {x y : Eng α} (hx : WorkKeepsForm x) (hy : WorkKeepsForm y) :
    WorkKeepsForm (if c then x else y) := by
  split
  · exact hx
  · exact hy

end WorkKeepsForm
end Sys2Proof.Laws
end

section
/-! SUPPORT. Every engine's work keeps memory canonical. -/
namespace Sys2Proof.Laws
open Sys2Proof Sys2Proof.Machine
-- In order: each thread of an elaboration in parallel reserves its stack, and the text is long.
set_option Elab.async false

/-! ## Engine -/

theorem raise_keepsForm {α : Type} {x : EngCtx} {cls : FaultClass} {sub : BitVec 8} {tinfo : Nat} :
    WorkKeepsForm (x.raise cls sub tinfo : Eng α) := .throw

theorem badAddress_keepsForm {α : Type} {x : EngCtx} {cls : FaultClass} {va : Nat} {write : Bool} :
    WorkKeepsForm (x.badAddress cls va write : Eng α) := .get fun _ _ => .throw

theorem modCoreEng_keepsForm {core : Nat} {f : Core → Core} : WorkKeepsForm (modCoreEng core f) := .modify fun _ h => h

theorem missPage_keepsForm {x : EngCtx} {va : Nat} {write : Bool} : WorkKeepsForm (missPage x va write) :=
  .get fun _ _ => by
  extract_lets -underBinder _ j
  have hj : ∀ x, WorkKeepsForm (j x) := fun _ => .bind (.modify fun _ h => by simp [h]) fun _ => .throw
  clear_value j
  split
  · extract_lets -underBinder
    split
    · exact modCoreEng_keepsForm.bind fun _ => badAddress_keepsForm.bind hj
    · exact modCoreEng_keepsForm.bind fun _ => .ite (hj _) (modCoreEng_keepsForm.bind fun _ => .bind .throw hj)
    · exact hj _
  · exact hj _

theorem engPart_keepsForm {x : EngCtx} {va len : Nat} {write : Bool} : WorkKeepsForm (engPart x va len write) :=
  .get fun _ _ => by
  split
  · extract_lets -underBinder j
    have hj : ∀ x, WorkKeepsForm (j x) := fun _ => .pure
    clear_value j
    split
    · exact .ite (hj _) (.bind (.modify fun _ h => by simp [h]) hj)
    · exact hj _
  · exact badAddress_keepsForm
  · exact missPage_keepsForm.bind fun _ => .pure

theorem engSpan_keepsForm {x : EngCtx} {write : Bool} {fuel va n : Nat} : WorkKeepsForm (engSpan x write fuel va n) := by
  induction fuel generalizing va n with
  | zero => exact .pure
  | succ fuel ih => exact .ite .pure (.get fun _ _ => engPart_keepsForm.bind fun _ => ih.bind fun _ => .pure)

theorem engRange_keepsForm {x : EngCtx} {space : BitVec 4} {a n : Nat} {write : Bool} : WorkKeepsForm (engRange x space a n write) := by
  unfold engRange
  extract_lets -underBinder j
  have hj : ∀ x, WorkKeepsForm (j x) := fun _ => .get fun _ _ => .ite .throw (.ite .pure (.bind (.modify fun _ h => by simp [h]) fun _ =>
    .ite .pure .throw))
  clear_value j
  exact .ite (by
  split
  · exact .bind .pure hj
  · exact raise_keepsForm.bind hj) (.ite (engSpan_keepsForm.bind hj) (raise_keepsForm.bind hj))

theorem eachLine_keepsForm {x : EngCtx} {n : Nat} {line : Nat → Nat → Eng Unit} (hl : ∀ off k, WorkKeepsForm
  (line off k)) {fuel off : Nat} :
    WorkKeepsForm (eachLine x n line fuel off) := by
  induction fuel generalizing off with
  | zero => exact .pure
  | succ fuel ih =>
    refine .ite .pure ((hl _ _).bind fun _ => ?_)
    split
    · exact modCoreEng_keepsForm.bind fun _ => ih
    · exact ih

theorem lines_keepsForm {x : EngCtx} {n : Nat} {line : Nat → Nat → Eng Unit} (hl : ∀ off k, WorkKeepsForm (line off k)) :
    WorkKeepsForm (Eng.lines x n line) :=
  .get fun _ _ => eachLine_keepsForm hl

theorem engRead_keepsForm {x : EngCtx} {space : BitVec 4} {a n : Nat} : WorkKeepsForm (engRead x space a n) :=
  engRange_keepsForm.bind fun _ => .get fun _ _ => .pure

theorem elemPlaces_keepsForm {x : EngCtx} {r : Region} {a : Nat} {write : Bool} : WorkKeepsForm (elemPlaces x r a write) :=
  engRange_keepsForm.bind fun _ => .ite .pure .pure

theorem regionPlaces_keepsForm {x : EngCtx} {r : Region} {write : Bool} {cells : List (Nat × Nat)} :
    WorkKeepsForm (regionPlaces x r write cells) := by
  induction cells with
  | nil => exact .pure
  | cons p cells ih =>
    obtain ⟨i, j⟩ := p
    exact .ite (.bind .pure fun _ => ih.bind fun _ => .pure)
      (elemPlaces_keepsForm.bind fun _ => .bind .pure fun _ => ih.bind fun _ => .pure)

/-! ## Kv -/

theorem readSeqTable_keepsForm {x : EngCtx} {a : Nat} : WorkKeepsForm (readSeqTable x a) := engRead_keepsForm.bind fun _ => .pure

theorem pageAddr_keepsForm {x : EngCtx} {t : SeqTable} {page : Nat} : WorkKeepsForm (pageAddr x t page) :=
  .ite .pure (engRead_keepsForm.bind fun _ => .pure)

theorem gatherPage_keepsForm {x : EngCtx} {t : SeqTable} {len page : Nat} : WorkKeepsForm (gatherPage x t len page) :=
  pageAddr_keepsForm.bind fun _ => by
  split
  · split
    · exact .pure
    · exact engRead_keepsForm.bind fun _ => .pure

theorem appendWork_keepsForm {x : EngCtx} {tile hs : Cap} {pos : Nat} : WorkKeepsForm (appendWork x tile hs pos) :=
  .get fun _ hs => readSeqTable_keepsForm.bind fun _ => by
  split
  · exact raise_keepsForm
  · exact .ite raise_keepsForm (pageAddr_keepsForm.bind fun _ => engRead_keepsForm.bind fun _ => engRange_keepsForm.bind fun _ =>
      engRange_keepsForm.bind fun _ => by
    extract_lets -underBinder j
    have hj : ∀ x, WorkKeepsForm (j x) := fun _ => by
      unfold j
      extract_lets -underBinder j1
      have hj1 : ∀ x, WorkKeepsForm (j1 x) := fun _ => .ite raise_keepsForm (.get fun _ hs1 =>
        .ite .pure (.bind (.set (by simp [hs1])) fun _ => .pure))
      clear_value j1
      exact .ite (engRead_keepsForm.bind fun _ => engRange_keepsForm.bind fun _ => .bind .pure hj1) (.bind .pure hj1)
    clear_value j
    split
    · exact engRange_keepsForm.bind fun _ => .bind .pure hj
    · exact .bind .pure hj)

/-! ## CopyEngine -/

theorem move_keepsForm {c : Cap} {pairs : List (Option Nat × Nat)} : WorkKeepsForm (Eng.move c pairs) :=
  .modify fun _ h => by simp [h]

theorem copyRange_keepsForm {x : EngCtx} {src dst : Cap} {len : Nat} : WorkKeepsForm (copyRange x src dst len) :=
  (lines_keepsForm fun _ _ => engRange_keepsForm.bind fun _ => engRange_keepsForm.bind fun _ => move_keepsForm).bind fun _ => .pure

theorem copyFromRegion_keepsForm {x : EngCtx} {r : Region} {dst : Cap} : WorkKeepsForm (copyFromRegion x r dst) :=
  (lines_keepsForm fun _ _ => regionPlaces_keepsForm.bind fun _ => engRange_keepsForm.bind fun _ => move_keepsForm).bind fun _ => .pure

theorem copyToRegion_keepsForm {x : EngCtx} {src : Cap} {r : Region} : WorkKeepsForm (copyToRegion x src r) :=
  (lines_keepsForm fun _ _ => regionPlaces_keepsForm.bind fun _ => engRange_keepsForm.bind fun _ => move_keepsForm).bind fun _ => .pure

theorem hostPlaces_keepsForm {x : EngCtx} {a len : Nat} : WorkKeepsForm (hostPlaces x a len) :=
  .get fun _ _ => by
  extract_lets -underBinder
  split
  · exact raise_keepsForm
  · exact .pure

theorem copyFromHost_keepsForm {x : EngCtx} {src dst : Cap} {len : Nat} : WorkKeepsForm (copyFromHost x src dst len) :=
  (lines_keepsForm fun _ _ => hostPlaces_keepsForm.bind fun _ => engRange_keepsForm.bind fun _ => move_keepsForm).bind fun _ => .pure

theorem copyToHost_keepsForm {x : EngCtx} {src dst : Cap} {len : Nat} : WorkKeepsForm (copyToHost x src dst len) :=
  (lines_keepsForm fun _ _ => engRange_keepsForm.bind fun _ => hostPlaces_keepsForm.bind fun _ => .get fun _ _ => by
    split
    · exact .throw
    · exact move_keepsForm).bind fun _ => .pure

theorem load_keepsForm {x : EngCtx} {stamp : List Nat} {n : BitVec 4} {l : SlotLoad} : WorkKeepsForm (Eng.load x stamp n l) :=
  .modify fun _ h => by
  split
  · exact h
  · exact wf_loadSlot h _ _ _

theorem loadTile_keepsForm {x : EngCtx} {stamp : List Nat} {n : BitVec 4} {src : Cap} {len rows cols fmt : Nat} :
    WorkKeepsForm (loadTile x stamp n src len rows cols fmt) :=
  (lines_keepsForm fun _ _ => engRead_keepsForm.bind fun _ => load_keepsForm.bind fun _ => by
    split
    · exact .throw
    · exact .pure).bind fun _ => .pure

theorem loadRegion_keepsForm {x : EngCtx} {stamp : List Nat} {n : BitVec 4} {r : Region} : WorkKeepsForm (loadRegion x stamp n r) :=
  (lines_keepsForm fun _ _ => regionPlaces_keepsForm.bind fun _ => .get fun _ _ => load_keepsForm.bind fun _ => by
    split
    · exact .throw
    · exact .pure).bind fun _ => .pure

theorem gatherWork_keepsForm {x : EngCtx} {stamp : List Nat} {n : BitVec 4} {hs : Cap} {len page : Nat} {values : Bool} :
    WorkKeepsForm (gatherWork x stamp n hs len page values) :=
  readSeqTable_keepsForm.bind fun _ => by
  split
  · exact .throw
  · exact raise_keepsForm
  · exact .ite raise_keepsForm (gatherPage_keepsForm.bind fun _ => by
    split
    · exact .throw
    · exact load_keepsForm.bind fun _ => .bind (.modify fun _ h => by simp [h]) fun _ => .pure)

theorem copyWork_keepsForm {x : EngCtx} {stamp : List Nat} {op : EngOp} : WorkKeepsForm (copyWork x stamp op) := by
  unfold copyWork
  split
  · exact copyRange_keepsForm
  · exact copyFromRegion_keepsForm
  · exact copyToRegion_keepsForm
  · exact copyFromHost_keepsForm
  · exact copyToHost_keepsForm
  · exact loadTile_keepsForm
  · exact loadRegion_keepsForm
  · exact gatherWork_keepsForm
  · exact appendWork_keepsForm.bind fun _ => by
      split <;> exact .pure
  · exact .pure

/-! ## AttnWords -/

theorem aloadRead_keepsForm {x : EngCtx} {c : Cap} {n : Nat} : WorkKeepsForm (aloadRead x c n) :=
  .ite (.get fun _ _ => .pure) engRead_keepsForm

theorem aloadWork_keepsForm {x : EngCtx} {c : Cap} {first n : Nat} : WorkKeepsForm (aloadWork x c first n) :=
  aloadRead_keepsForm.bind fun _ => by
  split
  · split
    · exact .throw
    · exact modCoreEng_keepsForm.bind fun _ => .pure

/-! ## Micro -/

theorem modAttn_keepsForm {core : Nat} {f : Attn → Attn} : WorkKeepsForm (modAttn core f) := .modify fun _ h => h

theorem getAttn_keepsForm {core : Nat} : WorkKeepsForm (getAttn core) := .get fun _ _ => .pure

theorem microStep_keepsForm {f : Attn → Attn} {x : EngCtx} : WorkKeepsForm (microStep f x) := modAttn_keepsForm.bind fun _ => .pure

theorem microQk_keepsForm {q k : BitVec 4} {col : BitVec 9} {dim : BitVec 7} {fmt : BitVec 4} {x : EngCtx} :
    WorkKeepsForm (microQk q k col dim fmt x) :=
  .get fun _ hs => by
  extract_lets -underBinder
  split
  · exact .pure
  · exact .bind (.set hs) fun _ => .pure

theorem microPv_keepsForm {p v : BitVec 4} {col : BitVec 9} {dim : BitVec 7} {fmt : BitVec 4} {x : EngCtx} :
    WorkKeepsForm (microPv p v col dim fmt x) :=
  .get fun _ hs => by
  extract_lets -underBinder
  split
  · exact .pure
  · exact .bind (.set hs) fun _ => .pure

theorem microSmax_keepsForm {col : BitVec 9} {x : EngCtx} : WorkKeepsForm (microSmax col x) :=
  .get fun _ _ => .ite .pure (modAttn_keepsForm.bind fun _ => .pure)

theorem microExpp_keepsForm {p : BitVec 4} {col : BitVec 9} {pf : BitVec 2} {x : EngCtx} : WorkKeepsForm (microExpp p col pf x) :=
  .get fun _ _ => .ite .pure (.ite .pure (.ite .pure (modAttn_keepsForm.bind fun _ => .bind (.modify fun _ h => by simp [h]) fun _ =>
  .pure)))

theorem microDen_keepsForm {x : EngCtx} : WorkKeepsForm (microDen x) :=
  getAttn_keepsForm.bind fun _ => .ite .pure (modAttn_keepsForm.bind fun _ => .pure)

theorem microResc_keepsForm {col : BitVec 9} {dim : BitVec 7} {x : EngCtx} : WorkKeepsForm (microResc col dim x) :=
  .get fun _ hs => .ite .pure (.bind (.set hs) fun _ => .pure)

theorem microNorm_keepsForm {col : BitVec 9} {dim : BitVec 7} {of : BitVec 2} {row : BitVec 7} {x : EngCtx} :
    WorkKeepsForm (microNorm col dim of row x) :=
  .get fun _ _ => .ite .pure (.ite .pure (.ite .pure (engRange_keepsForm.bind fun _ => .bind (.modify fun _ h => by simp [h]) fun _ =>
  modAttn_keepsForm.bind fun _ => .pure)))

theorem selectedPages_keepsForm {x : EngCtx} {t : SeqTable} {a : Nat} : WorkKeepsForm (selectedPages x t a) :=
  engRead_keepsForm.bind fun _ => .ite .pure (.ite .pure (engRead_keepsForm.bind fun _ => .ite .pure .pure))

theorem walkPages_keepsForm {x : EngCtx} : WorkKeepsForm (walkPages x) :=
  getAttn_keepsForm.bind fun _ => readSeqTable_keepsForm.bind fun _ => by
  split
  · split
    · exact .pure
    · exact .pure
    · exact .ite .pure selectedPages_keepsForm

theorem microWalk_keepsForm {x : EngCtx} : WorkKeepsForm (microWalk x) :=
  getAttn_keepsForm.bind fun _ => walkPages_keepsForm.bind fun _ => by
  split
  · exact .pure
  · exact .pure
  · split
    · exact modAttn_keepsForm.bind fun _ => .pure
    · exact .ite .pure (modAttn_keepsForm.bind fun _ => .pure)

theorem microGath_keepsForm {k v : BitVec 4} {x : EngCtx} : WorkKeepsForm (microGath k v x) :=
  .get fun _ _ => by
  extract_lets -underBinder
  split
  · exact .pure
  · exact .ite .pure (readSeqTable_keepsForm.bind fun _ => by
    split
    · split
      · exact .pure
      · exact .pure
      · exact .ite .pure (gatherPage_keepsForm.bind fun _ => .ite .pure (.bind (.modify fun _ h => by simp [h]) fun _ => .pure)))

theorem microBnz_keepsForm {k mode : BitVec 2} {target : BitVec 12} {x : EngCtx} : WorkKeepsForm (microBnz k mode target x) :=
  getAttn_keepsForm.bind fun _ => by
  extract_lets -underBinder
  split
  · exact .ite .pure (modAttn_keepsForm.bind fun _ => .pure)
  · exact .pure
  · exact .pure
  · exact .pure

theorem microSig_keepsForm {t : BitVec 5} {x : EngCtx} : WorkKeepsForm (microSig t x) :=
  .get fun _ _ => modCoreEng_keepsForm.bind fun _ => .bind (.modify fun _ h => h) fun _ => .pure

theorem microWaitt_keepsForm {t : BitVec 5} {x : EngCtx} : WorkKeepsForm (microWaitt t x) :=
  .get fun _ _ => .ite .pure (modCoreEng_keepsForm.bind fun _ => .pure)

theorem microSetp_keepsForm {ap : BitVec 4} {mode : BitVec 2} {imm : BitVec 48} {x : EngCtx} : WorkKeepsForm (microSetp ap mode imm x) :=
  getAttn_keepsForm.bind fun _ => by
  extract_lets -underBinder
  split
  · exact microStep_keepsForm
  · exact microStep_keepsForm
  · exact .pure

/-! ## Link -/

theorem lsendRead_keepsForm {x : EngCtx} {c : Cap} {n : Nat} {m : Sys2Proof.Message} : WorkKeepsForm (lsendRead x c n m) :=
  .get fun _ _ => .ite raise_keepsForm (engRange_keepsForm.bind fun _ => .get fun _ _ => .pure)

/-! ## Shuttle -/

theorem shuttleWork_keepsForm {x : EngCtx} {c b : Cap} {n : Nat} : WorkKeepsForm (shuttleWork x c b n) :=
  .bind (.modify fun _ h => by simp [h]) fun _ =>
  (lines_keepsForm fun _ _ => engRange_keepsForm.bind fun _ => engRange_keepsForm.bind fun _ => move_keepsForm).bind fun _ => .pure

end Sys2Proof.Laws
end

section
/-! SUPPORT. Entries, micro-operations, words and the loader keep memory canonical. -/
namespace Sys2Proof.Laws
open Sys2Proof Sys2Proof.Machine
-- In order: each thread of an elaboration in parallel reserves its stack, and the text is long.
set_option Elab.async false

/-! ## Entries of the access queues and micro-operations: engine work run on the machine's state -/

theorem wf_runEntry {s : State} (h : s.mem.wf = true) (core q : Nat) (e : EngEntry) {work : Eng WorkEnd} {finish : State → State}
    (hw : WorkKeepsForm work) (hf : ∀ s, s.mem.wf = true → (finish s).mem.wf = true) :
    (s.runEntry core q e work finish).mem.wf = true := by
  have hr := hw s h
  unfold State.runEntry
  split <;> rename_i r
  all_goals rw [r] at hr
  · exact hf _ (by rwa [mem_retireEntry])
  · exact hr
  · exact wf_stopEntry hr _ _ _ _

@[simp] theorem wf_copyComplete {s : State} (h : s.mem.wf = true) (core : Nat) (e : EngEntry) : (copyComplete s core e).mem.wf = true :=
  wf_runEntry h core qCopy e copyWork_keepsForm fun _ h => wf_copyFinish h core e

@[simp] theorem wf_shuttleDelivery {s : State} (h : s.mem.wf = true) (core : Nat) : (shuttleDelivery s core).mem.wf = true := by
  unfold shuttleDelivery
  split
  · split
    · split
      · exact wf_runEntry h _ _ _ shuttleWork_keepsForm fun _ h => by rwa [shuttleFinish_mem]
      · exact h
    · exact h
  · exact h

@[simp] theorem wf_attentionStart {s : State} (h : s.mem.wf = true) (core : Nat) : (attentionStart s core).mem.wf = true := by
  unfold attentionStart
  split
  · split
    · rwa [astartBegin_mem]
    · exact wf_runEntry h _ _ _ aloadWork_keepsForm fun _ h => h
    · exact h
  · exact h

@[simp] theorem wf_lsendEntry {s : State} (h : s.mem.wf = true) (core : Nat) (e : EngEntry) (m : Message) (port rot slot berth off : Nat)
    (src : Option (Cap × Nat)) : (lsendEntry s core e m port rot slot berth off src).mem.wf = true := by
  unfold lsendEntry
  extract_lets wait
  clear_value wait
  split
  · exact h
  · split
    · rwa [stage_mem]
    · rename_i c n
      have hr := lsendRead_keepsForm (x := EngCtx.ofEntry core qLink e (some 2)) (c := c) (n := n) (m := m) s h
      split <;> rename_i r
      all_goals rw [r] at hr
      · rwa [stage_mem]
      · exact wf_stopEntry hr _ _ _ _

@[simp] theorem wf_linkComplete {s : State} (h : s.mem.wf = true) (core : Nat) (e : EngEntry) : (linkComplete s core e).mem.wf = true := by
  unfold linkComplete
  split
  · exact wf_lsendEntry h _ _ _ _ _ _ _ _ _
  · rwa [remoteEntry_mem]
  · exact wf_lcalEntry h _ _ _
  · rwa [lmarkEntry_mem]
  · exact h

@[simp] theorem wf_engineComplete {s : State} (h : s.mem.wf = true) (core q : Nat) : (engineComplete s core q).mem.wf = true := by
  unfold engineComplete
  split
  · split
    · split
      · exact wf_linkComplete h _ _
      · exact h
    · exact h
  · split
    · split
      · exact h
      · split
        · exact wf_copyComplete h _ _
        · split
          · rwa [sbCommit_mem]
          · exact wf_shuttleDelivery h _
          · exact h
    · exact h

theorem wf_microDone (core pc bad : Nat) (e : EngEntry) {r : Except EngStop MicroEnd × State} (h : r.2.mem.wf = true) :
    (microDone core pc bad e r).mem.wf = true := by
  unfold microDone
  split
  case h_11 =>
    split
    · exact wf_report (by rwa [stopAstart_mem]) _ _ _
    · rwa [attnFinish_mem]
  all_goals simpa using h

/-! ## Words -/

/-- What an outcome keeps: where it is a next state, that state's memory is canonical. -/
def NextForm (o : Host.Outcome State Fault Refusal) : Prop :=
  ∀ t, o = .next t → t.mem.wf = true

theorem nextForm_next {t : State} (h : t.mem.wf = true) : NextForm (.next t) := by
  intro u e
  cases e
  exact h

theorem nextForm_micro {s : State} (h : s.mem.wf = true) (bad : Nat) {body : EngCtx → Eng MicroEnd} (hb : ∀ x, WorkKeepsForm (body x)) :
    NextForm (micro bad body s) := by
  unfold micro
  dsimp only
  split
  · intro t e
    cases e
  · exact nextForm_next (wf_microDone _ _ _ _ (hb _ s h))

theorem wf_issueOn {s : State} (h : s.mem.wf = true) (k n : Nat) (g : Guard) {off : Act Unit} {body : Act Ctl} (hoff : KeepsForm off)
    (hbody : KeepsForm body) : (issueOn k n g off body s).mem.wf = true := by
  have hw := wordAct_keepsForm (n := n) (g := g) hoff hbody (performDue s k)
  unfold issueOn
  extract_lets v c
  split
  · exact wf_raise h _ _
  · exact wf_raise h _ _
  · exact wf_raise h _ _
  · rwa [beginHold_mem]
  · exact wf_raise (by rwa [countIssued_mem]) _ _
  · rename_i s' _ e
    exact (hw _ s' (wf_performDue h k) e :)

theorem nextForm_issueN {s : State} (h : s.mem.wf = true) {n : Nat} {g : Guard} {off : Act Unit} {body : Act Ctl} (hoff : KeepsForm off)
    (hbody : KeepsForm body) : NextForm (issueN n g off body s) := by
  unfold issueN
  split
  · intro t e
    cases e
  · exact nextForm_next (wf_issueOn h _ _ _ hoff hbody)

theorem nextForm_issue {s : State} (h : s.mem.wf = true) {g : Guard} {off : Act Unit} {body : Act Ctl} (hoff : KeepsForm off)
    (hbody : KeepsForm body) : NextForm (issue g off body s) :=
  nextForm_issueN h hoff hbody

theorem nextForm_issueFall {s : State} (h : s.mem.wf = true) {g : Guard} {off body : Act Unit} (hoff : KeepsForm off)
    (hbody : KeepsForm body) : NextForm (issueFall g off body s) :=
  nextForm_issue h hoff (hbody.bind fun _ => .pure)

/-! ## The loader (R144) -/

/-- Where a computation of the loader answers, what it answers has a property. -/
def Gives {α : Type} (P : α → Prop) (x : Except (BitVec 8) α) : Prop := ∀ a, x = .ok a → P a

namespace Gives
variable {α β : Type} {P : α → Prop} {Q : β → Prop}

theorem pure {a : α} (h : P a) : Gives P (Pure.pure a) := by
  intro b e
  cases e
  exact h

theorem bind {x : Except (BitVec 8) α} {f : α → Except (BitVec 8) β} (hx : Gives P x) (hf : ∀ a, P a → Gives Q (f a)) :
    Gives Q (x >>= f) := by
  intro b e
  cases x with
  | error c => cases e
  | ok a => exact hf a (hx a rfl) b e

theorem error {c : BitVec 8} : Gives P (.error c : Except (BitVec 8) α) := by
  intro a e
  cases e

/-- A part whose answer does not matter. -/
theorem any {x : Except (BitVec 8) α} : Gives (fun _ => True) x := fun _ _ => trivial

theorem orCode {c : BitVec 8} {o : Option α} (h : ∀ a, o = some a → P a) : Gives P (orCode c o) := by
  intro a e
  cases o with
  | none => cases e
  | some b => cases e; exact h _ rfl

theorem foldlM {f : α → β → Except (BitVec 8) α} (hf : ∀ a b, P a → Gives P (f a b)) (l : List β) {a : α} (h : P a) :
    Gives P (l.foldlM f a) := by
  induction l generalizing a with
  | nil => exact .pure h
  | cons b l ih =>
    rw [List.foldlM_cons]
    exact (hf a b h).bind fun _ h => ih h

end Gives

theorem takeBlock_form {l : Loading} (h : l.s.mem.wf = true) (cls : Nat) : Gives (fun r => r.2.s.mem.wf = true) (l.takeBlock cls) := by
  refine .orCode fun _ e => ?_
  obtain ⟨st, -, hst⟩ := List.exists_of_findSome?_eq_some e
  have hb := allocBlock_mem l.s l.part (256 + st) cls
  split at hst
  · rename_i u base ea
    cases hst
    rw [ea] at hb
    exact hb ▸ h
  · cases hst

theorem takeCells_form {l : Loading} (h : l.s.mem.wf = true) (n : Nat) : Gives (fun r => r.2.s.mem.wf = true) (l.takeCells n) :=
  Gives.any.bind fun _ _ => .pure h

theorem putImage_form {l : Loading} (h : l.s.mem.wf = true) (ws : List Word64) : Gives (fun r => r.2.s.mem.wf = true) (l.putImage ws) :=
  (takeBlock_form h _).bind fun _ hr => Gives.bind (.orCode fun _ e => wf_writeVirtual _ _ _ _ hr e) fun _ ht => .pure ht

theorem putTable_form {l : Loading} (h : l.s.mem.wf = true) (b : BlockRec) : Gives (fun l => l.s.mem.wf = true) (l.putTable b) :=
  (putImage_form h _).bind fun _ hr => .pure hr

theorem putMicro_form {l : Loading} (h : l.s.mem.wf = true) (b : BlockRec) : Gives (fun l => l.s.mem.wf = true) (l.putMicro b) :=
  (putImage_form h _).bind fun _ hr => .pure hr

theorem putTile_form {l : Loading} (h : l.s.mem.wf = true) (t : TileRec) : Gives (fun l => l.s.mem.wf = true) (l.putTile t) := by
  refine (takeBlock_form h _).bind fun _ h₁ => (takeCells_form h₁ _).bind fun _ h₂ => ?_
  dsimp only
  split
  · exact Gives.bind (.orCode fun _ e => wf_writeVirtual _ _ _ _ h₂ e) fun _ ht => .pure (wf_putCap (by rwa [sealEntry_mem]) _ _)
  · exact .pure (wf_putCap h₂ _ _)

theorem putCellRec_form {l : Loading} (h : l.s.mem.wf = true) (c : Word64 × Word64) : Gives (fun l => l.s.mem.wf = true) (l.putCellRec c) :=
  (takeCells_form h _).bind fun _ hr => .pure (wf_putStateCells hr _)

theorem allocate_form {l : Loading} (h : l.s.mem.wf = true) : Gives (fun l => l.s.mem.wf = true) l.allocate := by
  have hg : ∀ l : Loading, l.s.mem.wf = true → Gives (fun l => l.s.mem.wf = true) (do
      let l ← l.image.sbox.foldlM Loading.putTable l
      let l ← l.image.amicro.foldlM Loading.putMicro l
      let l ← l.image.tiles.foldlM Loading.putTile l
      l.image.cells.foldlM Loading.putCellRec l) := fun l h =>
    (Gives.foldlM (fun _ b h => putTable_form h b) _ h).bind fun _ h => (Gives.foldlM (fun _ b h => putMicro_form h b) _ h).bind fun _ h =>
    (Gives.foldlM (fun _ t h => putTile_form h t) _ h).bind fun _ h => Gives.foldlM (fun _ c h => putCellRec_form h c) _ h
  unfold Loading.allocate
  dsimp only
  split
  · exact hg l h
  · exact (putImage_form h _).bind fun _ h => hg _ h

theorem giveTokens_form {l : Loading} (h : l.s.mem.wf = true) : Gives (fun l => l.s.mem.wf = true) l.giveTokens := by
  refine Gives.foldlM (fun l k h => ?_) _ h
  split
  · split
    · exact Gives.any.bind fun _ _ => .pure h
    · exact .pure h
  · exact .pure h

theorem patchCell_form {l : Loading} (h : l.s.mem.wf = true) (r : Rela) : Gives (fun l => l.s.mem.wf = true) (l.patchCell r) :=
  Gives.any.bind fun _ _ => Gives.any.bind fun _ _ => Gives.any.bind fun _ _ => Gives.any.bind fun _ _ => .pure (wf_putCap h _ _)

theorem relocate_form {l : Loading} (h : l.s.mem.wf = true) (r : Rela) : Gives (fun l => l.s.mem.wf = true) (l.relocate r) := by
  unfold Loading.relocate
  split
  · exact .pure h
  · split
    · exact Gives.any.bind fun _ _ => patchCell_form h r
    · split
      · exact Gives.any.bind fun _ _ => .pure h
      · exact Gives.any.bind fun _ _ => .pure h
      · exact .error

theorem loadSteps_form {s : State} (h : s.mem.wf = true) (part : BitVec 5) (number : BitVec 16) (i : OverlayImage) :
    Gives (fun t => t.mem.wf = true) (loadSteps s part number i) :=
  Gives.any.bind fun _ _ => Gives.any.bind fun _ _ => Gives.any.bind fun _ _ => Gives.any.bind fun _ _ =>
  (allocate_form (by exact h)).bind fun _ h => (giveTokens_form h).bind fun _ h =>
  (Gives.foldlM (fun _ r h => relocate_form h r) _ h).bind fun _ h => Gives.any.bind fun _ _ =>
  .pure (wf_writeStream (wf_writeStream h _ _) _ _)

@[simp] theorem wf_loadOverlay {s : State} (h : s.mem.wf = true) (part : BitVec 5) (number : BitVec 16) (i : OverlayImage) :
    (loadOverlay s part number i).mem.wf = true := by
  unfold loadOverlay
  split
  · rename_i e
    rw [loaderStatus_mem]
    exact loadSteps_form h part number i _ e
  · rwa [loaderStatus_mem]

end Sys2Proof.Laws
end

section
/-! SUPPORT. Every instruction keeps memory canonical. -/
namespace Sys2Proof.Laws
open Sys2Proof Sys2Proof.Machine
-- In order: each thread of an elaboration in parallel reserves its stack, and the text is long.
set_option Elab.async false

theorem wf_ite {c : Prop} [Decidable c] {s t : State} (hs : s.mem.wf = true) (ht : t.mem.wf = true) :
    (if c then s else t).mem.wf = true := by
  split
  · exact hs
  · exact ht

/-- Every word, micro-operation and event keeps memory canonical. -/
theorem exec_nextForm (i : Instr) {s : State} (h : s.mem.wf = true) : NextForm (exec i s) := by
  cases i with
  | nop => exact nextForm_issueFall h .pure .pure
  | halt => exact nextForm_issueFall h .pure haltAct_keepsForm
  | trapSw => exact nextForm_issue h .pure trapSwAct_keepsForm
  | rft => exact nextForm_issue h .pure rftAct_keepsForm
  | sysr => exact nextForm_issueFall h skip_keepsForm sysrAct_keepsForm
  | sysw => exact nextForm_issueFall h skip_keepsForm syswAct_keepsForm
  | ovlyN => exact nextForm_issue h .pure ovlyAct_keepsForm
  | ovlyS => exact nextForm_issue h skip_keepsForm ovlySAct_keepsForm
  | cardone => exact nextForm_issue h .pure cardoneAct_keepsForm
  | dlaunchP => exact nextForm_issueFall h (.get fun _ _ => skip_keepsForm) dlaunchAct_keepsForm
  | traceTs => exact nextForm_issueFall h .pure traceTsAct_keepsForm
  | traceBr => exact nextForm_issueFall h .pure traceBrAct_keepsForm
  | saluAdd | saluSub | saluAnd | saluOr | saluXor | saluAndn | saluShl | saluShr | saluSar | saluRol | saluMin | saluMax | saluMinu
  | saluMaxu | saluMul | saluMulh | saluMulhu | saluSeq | saluSne | saluSlt | saluSltu | sdivDiv | sdivDivu | sdivRem | sdivRemu | sfpAdd
  | sfpSub | sfpMul | sfpDiv | sfpMin | sfpMax | sfpEq | sfpLt | sfpLe => exact nextForm_issueFall h skip_keepsForm binAct_keepsForm
  | saluSel | sfpFma => exact nextForm_issueFall h skip_keepsForm terAct_keepsForm
  | saluClz | saluCtz | saluPop | saluiAdd | saluiSub | saluiAnd | saluiOr | saluiXor | saluiAndn | saluiShl | saluiShr | saluiSar
  | saluiRol | saluiMin | saluiMax | saluiMinu | saluiMaxu | saluiMul | saluiMulh | saluiMulhu | saluiSeq | saluiSne | saluiSlt
  | saluiSltu | sfpSqrt | sfpCvti | sfpCvtf => exact nextForm_issueFall h skip_keepsForm unAct_keepsForm
  | psetAnd | psetOr | psetXor | psetAndn => exact nextForm_issueFall h skip_keepsForm psetPred_keepsForm
  | psetEq | psetNe | psetLt | psetLtu | psetGe | psetGeu => exact nextForm_issueFall h skip_keepsForm psetCmp_keepsForm
  | lit => exact nextForm_issueN h skip_keepsForm litAct_keepsForm
  | ldP => exact nextForm_issueFall h skipLoad_keepsForm ldPAct_keepsForm
  | ldH => exact nextForm_issueFall h skipBy_keepsForm ldHAct_keepsForm
  | ldCap => exact nextForm_issueFall h skipLoad_keepsForm ldCapAct_keepsForm
  | stP => exact nextForm_issueFall h skip_keepsForm stPAct_keepsForm
  | stH => exact nextForm_issueFall h skip_keepsForm stHAct_keepsForm
  | stCap => exact nextForm_issueFall h skip_keepsForm stCapAct_keepsForm
  | enterF => exact nextForm_issueFall h .pure enterAct_keepsForm
  | leaveF => exact nextForm_issueFall h .pure leaveAct_keepsForm
  | pbrO => exact nextForm_issueFall h .pure pbrOAct_keepsForm
  | pbrR => exact nextForm_issueFall h skip_keepsForm pbrRAct_keepsForm
  | brGo => exact nextForm_issue h outcome_keepsForm brAct_keepsForm
  | brqT | brqF => exact nextForm_issue h brqOff_keepsForm brqAct_keepsForm
  | brmzSkip => exact nextForm_issue h outcome_keepsForm brmzAct_keepsForm
  | callGo => exact nextForm_issue h outcome_keepsForm callAct_keepsForm
  | retGo => exact nextForm_issue h .pure retAct_keepsForm
  | loopL => exact nextForm_issue h .pure loopLAct_keepsForm
  | loopS => exact nextForm_issue h skip_keepsForm loopSAct_keepsForm
  | repeatN => exact nextForm_issue h .pure repeatAct_keepsForm
  | repeatS => exact nextForm_issue h skip_keepsForm repeatSAct_keepsForm
  | signalT => exact nextForm_issueFall h .pure signalAct_keepsForm
  | signalS => exact nextForm_issueFall h skip_keepsForm signalSAct_keepsForm
  | waitT | waitN => exact nextForm_issueFall h .pure waitAct_keepsForm
  | toksetI => exact nextForm_issueFall h .pure toksetAct_keepsForm
  | toksetX => exact nextForm_issueFall h skip_keepsForm toksetXAct_keepsForm
  | fenceS => exact nextForm_issueFall h skipLoad_keepsForm fenceAct_keepsForm
  | retimeAt => exact nextForm_issueFall h skip_keepsForm retimeAct_keepsForm
  | waitvEq | waitvNe | waitvGe | waitvLt | waitvAny | waitvNone | pamoAdd | pamoMin | pamoMax | pamoSwap | pamoCas | pamoEnq | pamoChase
  | pldC => exact nextForm_issueFall h skipCell_keepsForm (porterAct_keepsForm cellArgs_keepsForm fun _ => cellDst_keepsForm)
  | markQ => exact nextForm_issueFall h .pure markAct_keepsForm
  | sstepS => exact nextForm_issueFall h skip_keepsForm sstepAct_keepsForm
  | capsetB | capsetE => exact nextForm_issueFall h skip_keepsForm capsetAct_keepsForm
  | cappermAnd => exact nextForm_issueFall h skip_keepsForm cappermAct_keepsForm
  | capoffAdd | capoffSet => exact nextForm_issueFall h skip_keepsForm capoffAct_keepsForm
  | capgetA => exact nextForm_issueFall h skip_keepsForm (capgetAct_keepsForm fun _ => checkOwn_keepsForm)
  | capgetCells => exact nextForm_issueFall h skip_keepsForm capgetCellsAct_keepsForm
  | capgetKv => exact nextForm_issueFall h skip_keepsForm capgetKvAct_keepsForm
  | capgetPeer => exact nextForm_issueFall h skip_keepsForm capgetPeerAct_keepsForm
  | capgetSys => exact nextForm_issueFall h skip_keepsForm capgetSysAct_keepsForm
  | capgetBase | capgetLen | capgetHi => exact nextForm_issueFall h skip_keepsForm (capgetAct_keepsForm fun _ => checkCap_keepsForm)
  | captestTag | captestIn => exact nextForm_issueFall h skip_keepsForm captestAct_keepsForm
  | dupN => exact nextForm_issueFall h skip_keepsForm dupAct_keepsForm
  | dropW => exact nextForm_issueFall h skip_keepsForm dropWAct_keepsForm
  | dropB => exact nextForm_issueFall h skip_keepsForm dropBAct_keepsForm
  | movhM => exact nextForm_issueFall h skip_keepsForm movhAct_keepsForm
  | mergeW => exact nextForm_issueFall h skip_keepsForm mergeAct_keepsForm
  | allocT | allocM => exact nextForm_issueFall h skip_keepsForm allocAct_keepsForm
  | isunqL => exact nextForm_issueFall h skip_keepsForm isunqLAct_keepsForm
  | isunqX => exact nextForm_issueFall h skipBy_keepsForm isunqXAct_keepsForm
  | updT | updM => exact nextForm_issueFall h skipBy_keepsForm updAct_keepsForm
  | sealT => exact nextForm_issueFall h skip_keepsForm sealAct_keepsForm
  | gsetL => exact nextForm_issueN h .pure (gsetLAct_keepsForm.bind fun _ => .pure)
  | gsetR => exact nextForm_issueN h skip_keepsForm (gsetRAct_keepsForm.bind fun _ => .pure)
  | csetI => exact nextForm_issueFall h .pure csetIAct_keepsForm
  | csetS => exact nextForm_issueFall h skip_keepsForm csetSAct_keepsForm
  | caddI => exact nextForm_issueFall h .pure caddIAct_keepsForm
  | caddS => exact nextForm_issueFall h skip_keepsForm caddSAct_keepsForm
  | tldR => exact nextForm_issueFall h skip_keepsForm tldRAct_keepsForm
  | tldW => exact nextForm_issueFall h skip_keepsForm tldWAct_keepsForm
  | tcopyR => exact nextForm_issueFall h skip_keepsForm tcopyRAct_keepsForm
  | tcopyW => exact nextForm_issueFall h skip_keepsForm tcopyWAct_keepsForm
  | tcopyS => exact nextForm_issueFall h skip_keepsForm tcopySAct_keepsForm
  | tcopyHi => exact nextForm_issueFall h skip_keepsForm tcopyHiAct_keepsForm
  | tcopyHo => exact nextForm_issueFall h skip_keepsForm tcopyHoAct_keepsForm
  | gatherK | gatherV => exact nextForm_issueFall h skip_keepsForm gatherAct_keepsForm
  | appendKv => exact nextForm_issueFall h skip_keepsForm appendAct_keepsForm
  | claimS => exact nextForm_issueFall h .pure claimAct_keepsForm
  | releaseS => exact nextForm_issueFall h .pure releaseAct_keepsForm
  | mmaT => exact nextForm_issueFall h skip_keepsForm mmaAct_keepsForm
  | mdrainT => exact nextForm_issueFall h skip_keepsForm mdrainAct_keepsForm
  | mzeroT => exact nextForm_issueFall h .pure mzeroAct_keepsForm
  | maccR => exact nextForm_issueFall h .pure maccAct_keepsForm
  | tstatR => exact nextForm_issueFall h skip_keepsForm tstatAct_keepsForm
  | valuAdd | valuSub | valuAnd | valuOr | valuXor | valuAndn | valuShl | valuShr | valuSar | valuMin | valuMax | valuAbs | valuMul
  | valuMulh | vcmpEq | vcmpNe | vcmpLt | vcmpGe | vfunExp | vfunExp2 | vfunLog | vfunLog2 | vfunRcp | vfunSqrt | vfunRsqrt | vfunTanh
  | vfunSigm => exact nextForm_issueFall h .pure vec2Act_keepsForm
  | vfmaFma | vfmaFms | vfmaFnma => exact nextForm_issueFall h .pure fmaAct_keepsForm
  | vcvtCvt => exact nextForm_issueFall h .pure vcvtAct_keepsForm
  | vlt3Lut => exact nextForm_issueFall h .pure lutAct_keepsForm
  | vfshL | vfshR => exact nextForm_issueFall h .pure lane2Act_keepsForm
  | vlrotRot => exact nextForm_issueFall h .pure rotAct_keepsForm
  | vlrotRots => exact nextForm_issueFall h skip_keepsForm rotsAct_keepsForm
  | vpermIdx => exact nextForm_issueFall h .pure permAct_keepsForm
  | vpermIdx2 => exact nextForm_issueFall h .pure perm2Act_keepsForm
  | vbcastS => exact nextForm_issueFall h skip_keepsForm bcastSAct_keepsForm
  | vbcastLane => exact nextForm_issueFall h .pure bcastLaneAct_keepsForm
  | vbcastImm => exact nextForm_issueFall h .pure bcastAct_keepsForm
  | vredAdd | vredAnd | vredOr | vredXor | vredMin | vredMax => exact nextForm_issueFall h .pure redAct_keepsForm
  | vtopkVal => exact nextForm_issueFall h skip_keepsForm topkValAct_keepsForm
  | vtopkIdx => exact nextForm_issueFall h skip_keepsForm topkIdxAct_keepsForm
  | vldMod => exact nextForm_issueFall h skip_keepsForm vldModAct_keepsForm
  | vldRow => exact nextForm_issueFall h skip_keepsForm vldRowAct_keepsForm
  | vldStr => exact nextForm_issueFall h skip_keepsForm vldStrAct_keepsForm
  | vstMod => exact nextForm_issueFall h skip_keepsForm vstModAct_keepsForm
  | vstRow => exact nextForm_issueFall h skip_keepsForm vstRowAct_keepsForm
  | vstStr => exact nextForm_issueFall h skip_keepsForm vstStrAct_keepsForm
  | vmovsLane | vmovsPair => exact nextForm_issueFall h skipMovs_keepsForm movsAct_keepsForm
  | vselBit => exact nextForm_issueFall h .pure selBitAct_keepsForm
  | vselMask => exact nextForm_issueFall h .pure selMaskAct_keepsForm
  | mpushEq | mpushNe | mpushLt | mpushGe => exact nextForm_issueFall h .pure mpushAct_keepsForm
  | minv => exact nextForm_issueFall h .pure minvAct_keepsForm
  | mpop => exact nextForm_issueFall h .pure mpopAct_keepsForm
  | mgetM => exact nextForm_issueFall h .pure mgetMAct_keepsForm
  | mgetV => exact nextForm_issueFall h .pure mgetVAct_keepsForm
  | msetM => exact nextForm_issueFall h .pure msetMAct_keepsForm
  | msetV => exact nextForm_issueFall h .pure msetVAct_keepsForm
  | vparkP => exact nextForm_issueFall h .pure vparkAct_keepsForm
  | vunparkU => exact nextForm_issueFall h .pure vunparkAct_keepsForm
  | astartGo => exact nextForm_issueFall h skip_keepsForm astartAct_keepsForm
  | aloadW => exact nextForm_issueFall h skip_keepsForm aloadAct_keepsForm
  | astatRd | astatWait => exact nextForm_issueFall h skipLoad_keepsForm astatAct_keepsForm
  | pamoCas2 => exact nextForm_issueFall h skipCell_keepsForm (porterAct_keepsForm cas2Args_keepsForm fun _ => cas2Dst_keepsForm)
  | pamoRedAdd | pamoRedMin | pamoRedMax | pstC | bcntP =>
    exact nextForm_issueFall h skipCell_keepsForm (porterAct_keepsForm cellArgs_keepsForm fun _ => noDst_keepsForm)
  | pamoHxch => exact nextForm_issueFall h skipCell_keepsForm (porterAct_keepsForm hxchArgs_keepsForm fun _ => hxchDst_keepsForm)
  | lsendH => exact nextForm_issueFall h skip_keepsForm lsendHAct_keepsForm
  | lsendD => exact nextForm_issueFall h skip_keepsForm lsendDAct_keepsForm
  | lsendV => exact nextForm_issueFall h skip_keepsForm lsendVAct_keepsForm
  | lsendRld | lsendRst | lsendRadd | lsendRcas => exact nextForm_issueFall h skip_keepsForm remoteAct_keepsForm
  | ltakeM | ltakeP => exact nextForm_issueFall h skipH_keepsForm ltakeAct_keepsForm
  | lcalW => exact nextForm_issueFall h skip_keepsForm lcalAct_keepsForm
  | lmarkD => exact nextForm_issueFall h skip_keepsForm lmarkAct_keepsForm
  | lstatRd => exact nextForm_issueFall h skipH_keepsForm lstatAct_keepsForm
  | shsendT => exact nextForm_issueFall h skip_keepsForm shsendAct_keepsForm
  | shtakeT => exact nextForm_issueFall h skip_keepsForm shtakeAct_keepsForm
  | shretOpen => exact nextForm_issueFall h skip_keepsForm shretOpenAct_keepsForm
  | shretT => exact nextForm_issueFall h skip_keepsForm shretTAct_keepsForm
  | shretClose => exact nextForm_issueFall h .pure shretCloseAct_keepsForm
  | sbputR => exact nextForm_issueFall h skip_keepsForm sbputAct_keepsForm
  | sbgetQ | sbgetX => exact nextForm_issueFall h skipH_keepsForm sbgetAct_keepsForm
  | sbtblW => exact nextForm_issueN h skip_keepsForm (sbtblAct_keepsForm.bind fun _ => .pure)
  | sbcommitG => exact nextForm_issueFall h skip_keepsForm sbcommitAct_keepsForm
  | sbstatRd => exact nextForm_issueFall h skipH_keepsForm sbstatAct_keepsForm
  | sbstatMark => exact nextForm_issueFall h skip_keepsForm sbmarkAct_keepsForm
  | microEnd | microJmp => exact nextForm_micro h _ fun _ => .pure
  | microQk => exact nextForm_micro h _ fun _ => microQk_keepsForm
  | microSmax => exact nextForm_micro h _ fun _ => microSmax_keepsForm
  | microExpp => exact nextForm_micro h _ fun _ => microExpp_keepsForm
  | microDen => exact nextForm_micro h _ fun _ => microDen_keepsForm
  | microResc => exact nextForm_micro h _ fun _ => microResc_keepsForm
  | microPv => exact nextForm_micro h _ fun _ => microPv_keepsForm
  | microWalk => exact nextForm_micro h _ fun _ => microWalk_keepsForm
  | microGath => exact nextForm_micro h _ fun _ => microGath_keepsForm
  | microNorm => exact nextForm_micro h _ fun _ => microNorm_keepsForm
  | microLoop => exact nextForm_micro h _ fun _ => microStep_keepsForm
  | microBnz => exact nextForm_micro h _ fun _ => microBnz_keepsForm
  | microSig => exact nextForm_micro h _ fun _ => microSig_keepsForm
  | microWaitt => exact nextForm_micro h _ fun _ => microWaitt_keepsForm
  | microSetp => exact nextForm_micro h _ fun _ => microSetp_keepsForm
  | attentionEntryStart => exact nextForm_next (wf_attentionStart h _)
  | shadowBankWrite => exact nextForm_next (by rwa [shadowBankWrite_mem])
  | recordIngress => exact nextForm_next (by rwa [recordIngress_mem])
  | recordPass => exact nextForm_next (by rwa [recordPass_mem])
  | launchPacket => exact nextForm_next (wf_launchPacketStep h)
  | doorbell => exact nextForm_next (by rwa [doorbell_mem])
  | queueBaseWrite => exact nextForm_next (by rwa [queueBase_mem])
  | hostNotification => exact nextForm_next (by rwa [hostNotification_mem])
  | resume => exact nextForm_next (wf_resumeCar h _ _)
  | coresOffered => exact nextForm_next (wf_coresOffered h _)
  | carComplete => exact nextForm_next (wf_carComplete h _)
  | partitionDescriptorWrite => exact nextForm_next (by rwa [descriptorWrite_mem])
  | serviceWindowEnd => exact nextForm_next (by rwa [serviceEnd_mem])
  | scrubComplete => exact nextForm_next (wf_scrubComplete h _)
  | holdRelease => exact nextForm_next (wf_holdRelease h _)
  | holdLimit => exact nextForm_next (wf_holdLimit h _)
  | refreshWindowOpen | refreshWindowClose => exact nextForm_next (by rwa [setWindow_mem])
  | engineEntryComplete => exact nextForm_next (wf_engineComplete h _ _)
  | porterOperation => exact nextForm_next (wf_porterOperation h _)
  | waitvPoll => exact nextForm_next (by rwa [waitvPoll_mem])
  | barrierArrival => exact nextForm_next (wf_barrierArrival h _)
  | weightReturn | extension | uniquenessQuery | sealRecord | conversionToBlank | allocRequest =>
    exact nextForm_next (by rwa [takeHome_mem])
  | storageFreed => exact nextForm_next (by rwa [storageFreed_mem])
  | checkFailure => exact nextForm_next (wf_checkFailure h _ _ _ _)
  | shadowWalkComplete => exact nextForm_next (wf_walkComplete h _)
  | majorFaultSave =>
    refine nextForm_next ?_
    split
    · exact wf_majorFaultSave h _
    · exact h
  | contextRestore => exact nextForm_next (wf_contextRestore h _ _ _)
  | timerCompare => exact nextForm_next (by rwa [timerCompare_mem])
  | interruptTaken => exact nextForm_next (wf_ite (wf_interruptTaken h _) h)
  | abortTimer => exact nextForm_next (wf_abortTimer h _)
  | revive => exact nextForm_next (by rwa [revive_mem])
  | haltResume => exact nextForm_next (wf_haltResume h _)
  | invalidationRequest => exact nextForm_next (by rwa [invalidate_mem])
  | invalidationAck => exact nextForm_next (by rwa [invalidationAck_mem])
  | pageMigration => exact nextForm_next (by rwa [pageMigration_mem])
  | migrationLineCopy => exact nextForm_next (wf_lineCopy h)
  | dieResetRequest => exact nextForm_next (by rwa [dieResetRequest_mem])
  | resetAssert => exact nextForm_next (wf_ite (wf_resetAssert h _) h)
  | dieResetRelease => exact nextForm_next (by rwa [resetRelease_mem])
  | frequencyRequest => exact nextForm_next (by rwa [frequencyRequest_mem])
  | frequencyStallStart => exact nextForm_next (by rwa [stallStart_mem])
  | frequencyStallEnd => exact nextForm_next (by rwa [stallEnd_mem])
  | retimeRelease => exact nextForm_next (wf_retimeRelease h _)
  | retimeSlipFault => exact nextForm_next (wf_retimeSlip h _)
  | sstepDrainPoint => exact nextForm_next (by rwa [sstepDrain_mem])
  | markComplete => exact nextForm_next (by rwa [markComplete_mem])
  | kvQueueDrain => exact nextForm_next (wf_kvDrain h _)
  | tabletArrival => exact nextForm_next (by rwa [tabletArrival_mem])
  | shuttleDelivery => exact nextForm_next (wf_shuttleDelivery h _)
  | slotOccurrence => exact nextForm_next (by rwa [slotOccurrence_mem])
  | lateReturn => exact nextForm_next (by rwa [lateReturn_mem])
  | messageArrival => exact nextForm_next (wf_messageArrival h _)
  | serviceItemArrival => exact nextForm_next (wf_serviceArrival h _ _ _ _ _ _)
  | remoteOperation | freezeNotice | drainMarker => exact nextForm_next (wf_accept h _ _ _)
  | peerUnreachable =>
    refine nextForm_next ?_
    split
    · rwa [loseReach_mem]
    · exact wf_ite (by rwa [settle_mem]) h
  | sequenceExchangeTimeout => exact nextForm_next (wf_ite (by rwa [settle_mem]) h)
  | calendarDark => exact nextForm_next (by rwa [calendarDark_mem])
  | calendarTakeover => exact nextForm_next (by rwa [calendarTakeover_mem])
  | berthTableWrite => exact nextForm_next (by rwa [berthTableWrite_mem])
  | grantChange => exact nextForm_next (by rwa [grantChange_mem])
  | registerWrite => exact nextForm_next (wf_registerWrite h _ _)
  | loadOverlay => exact nextForm_next (wf_loadOverlay h _ _ _)
  | unloadOverlay => exact nextForm_next (wf_unloadOverlay h _ _)
  | powerOn => exact nextForm_next (wf_ite (by rwa [fetched_mem]) h)
  | imageAccept => exact nextForm_next (by rwa [imageAccept_mem])
  | bootRetry =>
    refine nextForm_next ?_
    split
    · exact wf_ite (by rwa [fetched_mem]) h
    · exact h
  | measurementExtend => exact nextForm_next (wf_ite (by rwa [refuse_mem]) (by rwa [extendMr_mem]))
  | quote => exact nextForm_next (by rwa [quote_mem])
  | powerState => exact nextForm_next (by rwa [powerState_mem])
  | temperatureSample => exact nextForm_next (wf_temperatureSample h _)
  | slipStall => exact nextForm_next (by rwa [slipStall_mem])
  | managementInterrupt => exact nextForm_next (wf_ite (by rwa [raiseIrq_mem]) h)
  | poisonedStorageRelease => exact nextForm_next (by rwa [poisonedRelease_mem])
  | haltAbort => exact nextForm_next (wf_haltAbort h _)
  | illegalWord => exact nextForm_issue h .pure fault_keepsForm
  | hostPagingCopyResume => exact nextForm_next (wf_pagingCopy h _)

end Sys2Proof.Laws
end

section
/-! SUPPORT. What the machine does next keeps memory canonical: the state that a move meets or reaches. -/
namespace Sys2Proof.Laws
open Sys2Proof Sys2Proof.Machine
-- In order: each thread of an elaboration in parallel reserves its stack, and the text is long.
set_option Elab.async false

/-- The state that a move meets, or reaches. -/
def moveState : Move → State
  | .run _ s => s
  | .move s => s

theorem moveState_move (s : State) : moveState (.move s) = s := rfl

/-- Where there is a move, its state has canonical memory. -/
def MoveForm (o : Option Move) : Prop := ∀ m, o = some m → (moveState m).mem.wf = true

theorem moveForm_none : MoveForm none := by
  intro m e
  cases e

theorem moveForm_some {m : Move} (h : (moveState m).mem.wf = true) : MoveForm (some m) := by
  intro n e
  cases e
  exact h

theorem moveForm_run {i : Instr} {s : State} (h : s.mem.wf = true) : MoveForm (some (.run i s)) := moveForm_some h

theorem moveForm_move {s : State} (h : s.mem.wf = true) : MoveForm (some (.move s)) := moveForm_some h

theorem moveForm_ite {c : Prop} [Decidable c] {a b : Option Move} (ha : MoveForm a) (hb : MoveForm b) : MoveForm (if c then a else b) := by
  split
  · exact ha
  · exact hb

variable {s : State} (h : s.mem.wf = true) (k : Nat)
include h

theorem wf_holdFor (causes : BitVec 16) (words : List (Nat × SeqId)) (late : List Nat) :
    (holdFor s k causes words late).mem.wf = true := by rwa [holdFor_mem]

theorem moveState_holdOn (t : Try) : (moveState (holdOn s k t)).mem.wf = true := by
  unfold holdOn
  dsimp only
  split
  · exact h
  · exact wf_holdFor h k _ _ _

theorem moveState_faultOn (t : Try) (f : FaultRec) : (moveState (faultOn s k t f)).mem.wf = true := by
  unfold faultOn
  dsimp only
  split
  · exact h
  · exact wf_raise h k f

theorem runMove_form : MoveForm (runMove s k) := by
  unfold runMove
  dsimp only
  split
  · exact moveForm_run h
  · split
    · split
      · exact moveForm_move (wf_raise h k _)
      · split
        · exact moveForm_some (moveState_holdOn h k _)
        · exact moveForm_move (wf_holdFor h k _ _ _)
    · split
      · split
        · exact moveForm_some (moveState_faultOn h k _ _)
        · exact moveForm_move (wf_raise h k _)
      · split
        · exact moveForm_run h
        · split
          · exact moveForm_run h
          · exact moveForm_none

theorem holdMove_form (hold : Hold) : MoveForm (holdMove s k hold) := by
  unfold holdMove
  extract_lets c boundary tries late
  clear_value boundary
  split
  · exact moveForm_move (wf_raise h k _)
  · split
    · exact moveForm_some (moveState_holdOn h k _)
    · intro m e
      obtain ⟨f, -, rfl⟩ := Option.map_eq_some_iff.mp e
      exact moveState_faultOn h k _ f
    · split
      · exact moveForm_move (wf_holdFor h k _ _ _)
      · split
        · exact moveForm_run h
        · split
          · split
            · exact moveForm_run h
            · exact moveForm_none
          · exact moveForm_move h
          · exact moveForm_move h
          · exact moveForm_none

theorem boundaryMove_form (ov : Option (BitVec 16)) : MoveForm (boundaryMove s k ov) := by
  unfold boundaryMove
  dsimp only
  split
  · exact moveForm_move (wf_raise h k _)
  · split
    · have hh := wf_holdFor h k (causesIn (lateItems s k)) [] ((lateItems s k).map Prod.fst)
      exact moveForm_move (by rw [setCons_mem]; exact hh)
    · split
      · exact moveForm_none
      · split
        · exact moveForm_move (by rw [setCons_mem]; exact wf_holdFor h k _ _ _)
        · split
          · exact moveForm_run h
          · exact moveForm_move (wf_switchOverlay h k _)

theorem reentryMove_form (hold : Option Hold) : MoveForm (reentryMove s k hold) := by
  unfold reentryMove
  dsimp only
  split
  · split
    · exact moveForm_move (wf_resumeRun (by rwa [setCons_mem]) k)
    · split
      · split
        · exact moveForm_run h
        · exact moveForm_none
      · exact moveForm_move h
  · split
    · exact moveForm_move (wf_raise h k _)
    · split
      · exact moveForm_move h
      · split
        · exact moveForm_move (by rwa [replay_mem])
        · split
          · exact moveForm_move (wf_raise h k _)
          · exact moveForm_move h
          · exact moveForm_ite (moveForm_move h) (moveForm_ite (moveForm_run h) moveForm_none)

theorem retimeMove_form (r : Retime) : MoveForm (retimeMove s k r) := by
  unfold retimeMove
  split
  · exact moveForm_move (wf_raise (by rwa [setCons_mem]) k _)
  · split
    · exact moveForm_none
    · split
      · split
        · exact moveForm_run h
        · exact moveForm_none
      · split
        · exact moveForm_run h
        · exact moveForm_none

theorem consMove_form : MoveForm (consMove s k) := by
  unfold consMove
  dsimp only
  split
  · split
    · exact moveForm_none
    · split
      · exact moveForm_move (wf_enterSections h k)
      · exact runMove_form h k
  · exact holdMove_form h k _
  · split
    · exact moveForm_none
    · exact boundaryMove_form h k _
  · exact retimeMove_form h k _
  · exact reentryMove_form h k _
  · split
    · exact moveForm_run h
    · exact moveForm_none
  · split
    · exact moveForm_run h
    · exact moveForm_none
  · exact moveForm_none

omit k

theorem sboxMove_form : MoveForm (sboxMove s) := by
  unfold sboxMove
  split
  · exact moveForm_run h
  · exact moveForm_run h
  · exact moveForm_run h
  · split
    · split
      · exact moveForm_move (by rwa [sbCommit_mem])
      · exact moveForm_none
    · exact moveForm_none
  · exact moveForm_none

theorem microMove_form : MoveForm (microMove s) := by
  unfold microMove
  split
  · split
    · exact moveForm_run h
    · exact moveForm_move (by rwa [microReserved_mem])
  · exact moveForm_move (by rwa [microReserved_mem])
  · exact moveForm_none

theorem moveState_pick : (moveState (pick s)).mem.wf = true := by
  unfold pick
  split
  · exact h
  · split
    · exact h
    · exact h
    · split
      · rename_i m e
        cases hs : sboxMove s with
        | none => exact microMove_form h m (by simpa [hs] using e)
        | some n => exact sboxMove_form h m (by simpa [hs] using e)
      · split
        · exact wf_fences h _
        · split
          · rename_i m e
            obtain ⟨k, -, hk⟩ := List.exists_of_findSome?_eq_some e
            exact consMove_form h k m hk
          · rw [moveState_move]
            exact wf_tick h

end Sys2Proof.Laws
end

section
namespace Sys2Proof.Laws
open Sys2Proof Sys2Proof.Machine
-- In order: each thread of an elaboration in parallel reserves its stack, and the text is long.
set_option Elab.async false

/-- Settles O53: the state that the next move meets has canonical memory (`moveState_pick`), and every instruction,
micro-operation and event keeps it so (`exec_nextForm`). -/
theorem memoryStaysCanonical : Obligations.MemoryStaysCanonical := by
  unfold Obligations.MemoryStaysCanonical
  intro s t h e
  have hp := moveState_pick h
  unfold step at e
  split at e
  · rename_i i u hm
    have hu : u.mem.wf = true := by rwa [hm] at hp
    exact exec_nextForm i hu t e
  · rename_i u hm
    cases e
    rwa [hm] at hp

end Sys2Proof.Laws
end

section
/-! SUPPORT. Vector registers by lanes and by bits of lanes; the columns of the accumulators. -/
namespace Sys2Proof.Laws
open Sys2Proof Sys2Proof.Machine
-- In order: each thread of an elaboration in parallel reserves its stack, and the text is long.
set_option Elab.async false

/-- A bit of what a fold gathers, where every step adds to that bit what its item says. -/
theorem getLsbD_foldl {n : Nat} {α : Type} {f : BitVec n → α → BitVec n} {b : Nat} {p : α → Bool}
    (hf : ∀ acc i, (f acc i).getLsbD b = (acc.getLsbD b || p i)) (l : List α) (acc : BitVec n) :
    (l.foldl f acc).getLsbD b = (acc.getLsbD b || l.any p) := by
  induction l generalizing acc with
  | nil => simp
  | cons i l ih => rw [List.foldl_cons, ih, hf, List.any_cons, Bool.or_assoc]

/-- The bit of a lane's pattern that a shift puts at bit `j` of lane `i`: the pattern's own in lane `i`, none elsewhere. -/
theorem getLsbD_shiftLane (x : BitVec 32) (i k j : Nat) (hi : i < 128) (hj : j < 32) :
    (x.setWidth 4096 <<< (32 * k)).getLsbD (32 * i + j) = (decide (i = k) && x.getLsbD j) := by
  rw [BitVec.getLsbD_shiftLeft, BitVec.getLsbD_setWidth]
  by_cases h : i = k
  · subst h
    rw [show 32 * i + j - 32 * i = j by omega]
    simp [hj, show j < 4096 by omega, show 32 * i + j < 4096 by omega]
  · by_cases hlt : 32 * i + j < 32 * k
    · simp [hlt, h]
    · rw [BitVec.getLsbD_of_ge x (32 * i + j - 32 * k) (by omega)]
      simp [h]

theorem any_range_eq {n i : Nat} (h : i < n) (p : Nat → Bool) : ((List.range n).any fun k => decide (i = k) && p k) = p i := by
  rw [Bool.eq_iff_iff, List.any_eq_true]
  constructor
  · rintro ⟨k, -, hk⟩
    obtain ⟨rfl, hk⟩ : i = k ∧ p k = true := by simpa using hk
    exact hk
  · intro hp
    exact ⟨i, List.mem_range.mpr h, by simp [hp]⟩

/-- The pattern of a whole lane. -/
theorem wholeLane : (0xFFFFFFFF : VReg) = (BitVec.allOnes 32).setWidth 4096 := by
  apply BitVec.eq_of_getLsbD_eq
  intro j hj
  rw [BitVec.getLsbD_setWidth, BitVec.getLsbD_allOnes, show (0xFFFFFFFF : VReg) = BitVec.ofNat 4096 (2 ^ 32 - 1) from rfl,
    BitVec.getLsbD_ofNat, Nat.testBit_two_pow_sub_one]

theorem getLsbD_laneBits (m : LaneMask) (i j : Nat) (hi : i < 128) (hj : j < 32) : (laneBits m).getLsbD (32 * i + j) = m.getLsbD i := by
  have step : ∀ (acc : VReg) (k : Nat), (if m.getLsbD k then acc ||| ((0xFFFFFFFF : VReg) <<< (32 * k)) else acc).getLsbD (32 * i + j) =
      (acc.getLsbD (32 * i + j) || (decide (i = k) && m.getLsbD k)) := by
    intro acc k
    cases m.getLsbD k
    · simp
    · rw [if_pos rfl, wholeLane, BitVec.getLsbD_or, getLsbD_shiftLane _ _ _ _ hi hj, BitVec.getLsbD_allOnes, decide_eq_true hj]
  unfold laneBits
  rw [getLsbD_foldl step, any_range_eq hi]
  simp

theorem getLsbD_lane (v : VReg) (i j : Nat) (hj : j < 32) : (lane v i).getLsbD j = v.getLsbD (32 * i + j) := by
  rw [lane, BitVec.getLsbD_extractLsb', decide_eq_true hj, Bool.true_and]

/-- R128: the lanes that the mask selects are the new ones, the others the old ones. -/
theorem lane_mergeLanes (m : LaneMask) (old new : VReg) (i : Nat) (hi : i < 128) :
    lane (mergeLanes m old new) i = if m.getLsbD i then lane new i else lane old i := by
  unfold mergeLanes
  split
  · next h => rw [h, BitVec.getLsbD_allOnes, decide_eq_true hi, if_pos rfl]
  · apply BitVec.eq_of_getLsbD_eq
    intro j hj
    rw [getLsbD_lane _ _ _ hj, BitVec.getLsbD_or, BitVec.getLsbD_and, BitVec.getLsbD_and, BitVec.getLsbD_not, getLsbD_laneBits m i j hi hj]
    cases m.getLsbD i
    · rw [if_neg (by simp), getLsbD_lane _ _ _ hj]; simp; omega
    · rw [if_pos rfl, getLsbD_lane _ _ _ hj]; simp

/-- R413: the selected lanes take the given bits of the new ones. -/
theorem lane_mergePart (m : LaneMask) (bits : BitVec 32) (old new : VReg) (i : Nat) (hi : i < 128) :
    lane (mergePart m bits old new) i =
      if m.getLsbD i then (lane old i &&& ~~~bits) ||| (lane new i &&& bits) else lane old i := by
  unfold mergePart
  rw [lane_mergeLanes m _ _ i hi]
  congr 1
  apply BitVec.eq_of_getLsbD_eq
  intro j hj
  have step : ∀ (acc : VReg) (k : Nat), (acc ||| (bits.setWidth 4096 <<< (32 * k))).getLsbD (32 * i + j) =
      (acc.getLsbD (32 * i + j) || (decide (i = k) && bits.getLsbD j)) := by
    intro acc k
    rw [BitVec.getLsbD_or, getLsbD_shiftLane _ _ _ _ hi hj]
  rw [getLsbD_lane _ _ _ hj, BitVec.getLsbD_or, BitVec.getLsbD_and, BitVec.getLsbD_and, BitVec.getLsbD_not, getLsbD_foldl step,
    any_range_eq hi fun _ => bits.getLsbD j, BitVec.getLsbD_or, BitVec.getLsbD_and, BitVec.getLsbD_and, BitVec.getLsbD_not,
    getLsbD_lane _ _ _ hj, getLsbD_lane _ _ _ hj]
  simp [hj, show 32 * i + j < 4096 by omega]

/-- R421, R422: the first rows of a column written, every other element as it was. -/
theorem accAt_setRows (col : Nat) (v : VReg) (h : col < 1024) (n : Nat) (k : Core) (i j : Nat) (hj : j < 1024) :
    ((List.range n).foldl (fun k r => k.setAcc r col (lane v r)) k).accAt i j = if j = col ∧ i < n then lane v i else k.accAt i j := by
  induction n with
  | zero => simp
  | succ n ih =>
    rw [List.range_succ, List.foldl_append, List.foldl_cons, List.foldl_nil, accAt_setAcc _ _ _ _ _ _ h hj, ih]
    by_cases hi : i = n
    · subst hi; simp
    · rw [if_neg (fun e => hi e.1)]
      simp only [show i < n + 1 ↔ i < n by omega]

theorem accAt_setColumn (k : Core) (col : Nat) (v : VReg) (h : col < 1024) (i j : Nat) (hj : j < 1024) :
    (k.setColumn col v).accAt i j = if j = col ∧ i < 128 then lane v i else k.accAt i j := accAt_setRows col v h 128 k i j hj

end Sys2Proof.Laws
end

section
/-! SUPPORT. What one result does where it goes (R128). -/
namespace Sys2Proof.Laws
open Sys2Proof Sys2Proof.Machine Sys2Proof.Claims
-- In order: each thread of an elaboration in parallel reserves its stack, and the text is long.
set_option Elab.async false

/-! ## Tables and parts of the state, read after a change -/

theorem get_set {α : Type} (d : α) (t : Tbl α) (k j : Nat) (v : α) : Tbl.get d (Tbl.set t k v) j = if j = k then v else Tbl.get d t j := by
  split
  · next h => rw [h, get_set_same]
  · next h => exact get_set_ne d t v h

theorem get_set_toNat {α : Type} {w : Nat} (d : α) (t : Tbl α) (k j : BitVec w) (v : α) :
    Tbl.get d (Tbl.set t k.toNat v) j.toNat = if j = k then v else Tbl.get d t j.toNat := by
  simp only [get_set, BitVec.toNat_inj]

@[simp] theorem core_modCoreAt (s : State) (c : Nat) (f : Core → Core) : (s.modCoreAt c f).core c = f (s.core c) := core_setCore ..

@[simp] theorem seq_modSeqAt (s : State) (c : Nat) (q : SeqId) (f : Seq → Seq) : (s.modSeqAt c q f).seq c q = f (s.seq c q) := seq_setSeq ..

theorem vreg_setV (k : Core) (r r' : BitVec 6) (v : VReg) : (k.setV r v).vreg r' = if r' = r then v else k.vreg r' := get_set_toNat ..

/-! ## Special registers -/

@[simp] theorem seq_setSys (k : Core) (n : BitVec 8) (x : Word64) (q : SeqId) : (k.setSys n x).seq q = k.seq q := by
  unfold Core.setSys
  cases q <;> split_ifs <;> rfl

/-- R156, R207: a sequencer's special registers, each with its forced bits. -/
theorem seqSetSys_fields (q : Seq) (n : BitVec 8) (x : Word64) :
    let put := fun (m : Nat) (mask old : Word64) => if n.toNat = m then x &&& mask else old
    (q.setSys n x).tvec = put 0x08 0xC000000001FFFFFF q.tvec ∧ (q.setSys n x).tframe = put 0x0A 0xFFFC0 q.tframe ∧
    (q.setSys n x).stbase = put 0x10 (~~~15) q.stbase ∧ (q.setSys n x).stlimit = put 0x11 (~~~15) q.stlimit := by
  unfold Seq.setSys
  split_ifs with h8 hA h10 h11
  case neg => simp_all [← BitVec.toNat_inj]
  all_goals subst n; exact ⟨rfl, rfl, rfl, rfl⟩

/-- R59, R160, R163, R213, R397: a core's special registers, each with its forced bits. -/
theorem coreSetSys_fields (e : Core) (n : BitVec 8) (x : Word64) :
    let put := fun (m : Nat) (mask old : Word64) => if n.toNat = m then x &&& mask else old
    let orElse := fun (m : Nat) (new old : Bool) => if n.toNat = m then new else old
    let k := e.setSys n x
    k.heapbase = put 0x12 (~~~0xFFFF) e.heapbase ∧ k.heaplimit = put 0x13 (~~~0xFFFF) e.heaplimit ∧
    k.heapoffset = put 0x14 (~~~0xFFFF) e.heapoffset ∧ k.npd = put 0x15 0xFFFFFF00 e.npd ∧ k.timer = put 0x18 (-1) e.timer ∧
    k.armed = orElse 0x18 (x != 0) e.armed ∧ k.trcctl = put 0x1A (~~~0xF8) e.trcctl := by
  by_cases h18 : n = 0x18
  · subst n
    exact ⟨rfl, rfl, rfl, rfl, BitVec.and_allOnes.symm, rfl, rfl⟩
  · unfold Core.setSys
    split_ifs with h12 h13 h14 h15 h1A
    case neg => simp_all [← BitVec.toNat_inj]
    all_goals subst n; exact ⟨rfl, rfl, rfl, rfl, rfl, rfl, rfl⟩

/-- A sequencer put into its core leaves the core's own special registers. -/
theorem setSeq_fields (e : Core) (q : SeqId) (v : Seq) :
    (e.setSeq q v).heapbase = e.heapbase ∧ (e.setSeq q v).heaplimit = e.heaplimit ∧ (e.setSeq q v).heapoffset = e.heapoffset ∧
    (e.setSeq q v).npd = e.npd ∧ (e.setSeq q v).timer = e.timer ∧ (e.setSeq q v).armed = e.armed ∧ (e.setSeq q v).trcctl = e.trcctl := by
  cases q <;> exact ⟨rfl, rfl, rfl, rfl, rfl, rfl, rfl⟩

/-! ## Memory -/

theorem writeSegs_eq_foldl (m : Memory) (gs : List Seg) : writeSegs m gs = gs.foldl (fun m g => m.write g.at_ g.bytes) m := by
  induction gs generalizing m with
  | nil => rfl
  | cons g gs ih => exact ih _

theorem fillSlot_eq_foldl (m : Memory) (core : Nat) (n : BitVec 4) (gs : List (Nat × List Byte)) :
    fillSlot m core n gs = gs.foldl (fun m g => m.setBytes (slotAt core n.toNat g.1) g.2) m := by
  induction gs generalizing m with
  | nil => rfl
  | cons g gs ih => exact ih _

theorem mem_drainRow (s : State) (cons core : Nat) (l : Latch) (d : Drain) (i : Nat) :
    let w := (fmtBytes d.fmt).getD 1
    (drainRow s cons core l d i).mem = s.mem.write (d.base + i * d.n * w)
      (((s.core core).accRow (d.q + i) d.col d.n).flatMap fun v => toBytes w (convertAcc d.fmt d.rm.toNat d.sat v).1) := by
  unfold drainRow
  dsimp only
  split <;> simp [List.flatMap_map]

/-! ## Effects of one kind -/

/-- R156, R207 and the rules of a core's own: a special register. -/
theorem perform_setSys {s : State} {k : Nat} {l : Latch} {n : BitVec 8} {x : Word64} (h : l.eff = .setSys n x) :
    (perform s k l).mem = s.mem ∧ (perform s k l).seq l.core l.seq = (s.seq l.core l.seq).setSys n x ∧
    (perform s k l).core l.core = ((s.core l.core).setSeq l.seq ((s.seq l.core l.seq).setSys n x)).setSys n x := by
  simp only [perform, h]
  refine ⟨rfl, ?_, ?_⟩
  · rw [State.seq, core_modCoreAt, seq_setSys]
    exact seq_modSeqAt ..
  · rw [core_modCoreAt, State.modSeqAt, State.setSeq, core_setCore]

/-- R179, R405: a signal that is not discarded adds one to its token, up to 0xFFFF. -/
theorem signalTok_adds (s : State) (d : Nat) (n : BitVec 5) (h : (s.core d).deaf.contains n.toNat = false) :
    (s.signalTok d n).mem = s.mem ∧ ∀ m, (((s.signalTok d n).core d).token m).toNat =
      if m = n then min (((s.core d).token m).toNat + 1) 0xFFFF else ((s.core d).token m).toNat := by
  unfold State.signalTok
  simp only [h, Bool.false_eq_true, if_false]
  split
  · next full =>
    refine ⟨rfl, fun m => ?_⟩
    change ((s.core d).token m).toNat = _
    split
    · next e => subst e; rw [full]; rfl
    · rfl
  · next room =>
    refine ⟨rfl, fun m => ?_⟩
    rw [core_setCore, Core.token, get_set_toNat]
    split
    · next e =>
      subst e
      have : ((s.core d).token m).toNat ≠ 0xFFFF := fun e => room (BitVec.eq_of_toNat_eq e)
      rw [BitVec.toNat_add, show (1 : BitVec 16).toNat = 1 from rfl]
      omega
    · rfl

/-- R405: what a decrement leaves of a token. -/
theorem toNat_tokDec (x : BitVec 16) (m : Nat) : (BitVec.ofNat 16 (x.toNat - m)).toNat = x.toNat - m := by
  rw [BitVec.toNat_ofNat, Nat.mod_eq_of_lt (by omega)]

/-- R128 and the rules of the registers: each kind of result, where it goes. -/
theorem effectsPerform : EffectsPerform := by
  intro s t k c l ht hc
  subst ht hc
  refine ⟨?setV, ?setX, ?addX, ?setG, ?setB, ?setLc, ?setSys, ?tokSet, ?tokDec, ?signal, ?slot, ?masks, ?setM, ?accCol, ?status, ?satFlag,
    ?fill, ?fillH, ?setVPart, ?store, ?storeCap, ?load, ?drainRow, ?park, ?unpark, ?returnHq, ?drop, ?launch⟩
  case setV =>
    intro r m x h
    simp only [perform, h, core_modCoreAt, vreg_setV]
    exact ⟨rfl, fun r' hr => if_neg hr, fun i hi => by rw [if_pos trivial, lane_mergeLanes _ _ _ _ hi]⟩
  case setX =>
    intro r x h
    simp only [perform, h, core_modCoreAt]
    exact ⟨rfl, fun n => get_set ..⟩
  case addX =>
    intro r x h
    simp only [perform, h, core_modCoreAt]
    refine ⟨rfl, fun n => (get_set ..).trans ?_⟩
    split
    · next e => rw [e]
    · rfl
  case setG =>
    intro r g h
    simp only [perform, h, core_modCoreAt]
    exact ⟨rfl, fun n => get_set_toNat ..⟩
  case setB =>
    intro r b h
    simp only [perform, h, seq_modSeqAt]
    exact ⟨rfl, fun n => get_set_toNat ..⟩
  case setLc =>
    intro j n h
    simp only [perform, h, seq_modSeqAt]
    exact ⟨rfl, fun i => get_set ..⟩
  case setSys =>
    intro n x h
    obtain ⟨hm, hq, hk⟩ := perform_setSys (s := s) (k := k) h
    obtain ⟨q1, q2, q3, q4⟩ := seqSetSys_fields (s.seq l.core l.seq) n x
    obtain ⟨e1, e2, e3, e4, e5, e6, e7⟩ := coreSetSys_fields ((s.core l.core).setSeq l.seq ((s.seq l.core l.seq).setSys n x)) n x
    obtain ⟨f1, f2, f3, f4, f5, f6, f7⟩ := setSeq_fields (s.core l.core) l.seq ((s.seq l.core l.seq).setSys n x)
    rw [f1] at e1; rw [f2] at e2; rw [f3] at e3; rw [f4] at e4; rw [f5] at e5; rw [f6] at e6; rw [f7] at e7
    rw [hq, hk]
    exact ⟨hm, q1, q2, q3, q4, e1, e2, e3, e4, e5, e6, e7⟩
  case tokSet =>
    intro n x h
    simp only [perform, h, core_modCoreAt]
    exact ⟨rfl, fun m => get_set_toNat ..⟩
  case tokDec =>
    intro n m h
    simp only [perform, h, core_modCoreAt]
    refine ⟨rfl, fun i => ?_⟩
    rw [Core.token, get_set_toNat]
    split
    · next e => rw [e, toNat_tokDec]
    · rfl
  case signal =>
    intro d n h hd
    simp only [perform, h]
    exact signalTok_adds s d n hd
  case slot =>
    intro n x h
    simp only [perform, h, core_modCoreAt]
    refine ⟨rfl, ?_, fun m hm => (get_set_toNat ..).trans (if_neg hm)⟩
    rw [Core.slot, get_set_same]
  case masks =>
    intro ms h
    simp only [perform, h, core_modCoreAt]
    exact ⟨rfl, trivial⟩
  case setM =>
    intro r m h
    simp only [perform, h, core_modCoreAt]
    exact ⟨rfl, fun n => get_set_toNat ..⟩
  case accCol =>
    intro col x h hcol
    simp only [perform, h, core_modCoreAt]
    exact ⟨rfl, fun i j hj => accAt_setColumn _ col x hcol i j hj⟩
  case status =>
    intro n x h
    simp only [perform, h, core_modCoreAt]
    exact ⟨rfl, fun m => get_set ..⟩
  case satFlag =>
    intro h
    simp only [perform, h, core_modCoreAt]
    refine ⟨rfl, ?_⟩
    simp only [Core.saturate, get_set_same, satStatus]
    simp
  case fill =>
    intro q id x h
    simp only [perform, h, core_modCoreAt]
    exact ⟨rfl, fun p => get_set ..⟩
  case fillH =>
    intro id x h
    simp only [perform, h, core_modCoreAt]
    exact ⟨rfl, rfl⟩
  case setVPart =>
    intro r m b x h
    simp only [perform, h, core_modCoreAt, vreg_setV]
    exact ⟨rfl, fun r' hr => if_neg hr, fun i hi => by rw [if_pos trivial, lane_mergePart _ _ _ _ _ hi]⟩
  case store =>
    intro x segs h
    simp only [perform, h]
    exact ⟨trivial, writeSegs_eq_foldl ..⟩
  case storeCap =>
    intro x off b hd h
    simp only [perform, h]
    exact ⟨trivial, trivial⟩
  case load =>
    intro n x h
    simp only [perform, h, core_modCoreAt, State.loadSlot]
    refine ⟨fillSlot_eq_foldl .., _, rfl, ?_⟩
    simp only [Core.slot, get_set_same, true_and]
    intro m hm
    rw [get_set_toNat, if_neg hm, get_set_toNat, if_neg hm]
    rfl
  case drainRow =>
    intro d i h
    simp only [perform, h]
    exact mem_drainRow ..
  case park =>
    intro v col h
    simp only [perform, h, core_modCoreAt]
    exact ⟨rfl, trivial⟩
  case unpark =>
    intro v col n h
    simp only [perform, h, core_modCoreAt]
    exact ⟨rfl, rfl⟩
  case returnHq =>
    intro hd h
    simp only [perform, h, core_modCoreAt]
    exact ⟨rfl, trivial, trivial⟩
  case drop =>
    intro hd h
    simp only [perform, h]
  case launch =>
    intro a n h hp
    simp only [perform, h, hp]
    exact ⟨trivial, trivial, trivial⟩

end Sys2Proof.Laws
end

section
/-! SUPPORT. What a result does to the sequencers, and what leaves them alone. -/
namespace Sys2Proof.Laws
open Sys2Proof Sys2Proof.Machine Sys2Proof.Claims
-- In order: each thread of an elaboration in parallel reserves its stack, and the text is long.
set_option Elab.async false

/-! ## What leaves a core's sequencers alone -/

theorem seq_setAccRow (row : Nat) (vs : List (BitVec 32)) (k : Core) (col : Nat) (q : SeqId) :
    (setAccRow k row col vs).seq q = k.seq q := by
  induction vs generalizing k col with
  | nil => rfl
  | cons v vs ih => exact ih ..

theorem seq_setColumn (k : Core) (col : Nat) (v : VReg) (q : SeqId) : (k.setColumn col v).seq q = k.seq q := by
  unfold Core.setColumn
  generalize List.range 128 = rows
  exact foldl_keeps (fun k : Core => k.seq q) _ (by intros; rfl) rows k

theorem seq_matRow (k : Core) (core : Nat) (c : MatCmd) (i : Nat) (q : SeqId) : (matRow k core c i).seq q = k.seq q := by
  unfold matRow
  split
  · exact seq_setAccRow ..
  · rfl
  · exact seq_setAccRow ..
  · rfl

theorem seq_markPassed (k : Core) (c : MatCmd) (q : SeqId) : (markPassed k c).seq q = k.seq q := by
  unfold markPassed
  split <;> rfl

/-! ## What leaves every sequencer of the state alone -/

theorem ite_keeps {α β : Type} (get : α → β) {c : Prop} [Decidable c] {x y : α} {b : β} (hx : get x = b) (hy : get y = b) :
    get (if c then x else y) = b := by
  split
  · exact hx
  · exact hy

theorem seq_setCore_keep {s : State} {d : Nat} {k : Core} (h : ∀ q, k.seq q = (s.core d).seq q) {c : Nat} {q : SeqId} :
    (s.setCore d k).seq c q = s.seq c q := by
  unfold State.seq
  by_cases e : c = d
  · rw [e, core_setCore, h]
  · rw [core_setCore_ne _ _ e]

theorem seq_modCoreAt_keep (s : State) (d : Nat) {f : Core → Core} (h : ∀ k q, (f k).seq q = k.seq q) {c : Nat} {q : SeqId} :
    (s.modCoreAt d f).seq c q = s.seq c q := seq_setCore_keep (h _)

theorem seq_homeMsg (s : State) (core key : Nat) (msg : HomeMsg) (id c : Nat) (q : SeqId) :
    (s.homeMsg core key msg id).seq c q = s.seq c q := by
  unfold State.homeMsg
  extract_lets k ids
  split
  · rfl
  · exact seq_setCore_keep (by intros; rfl)

theorem seq_dropWeight (s : State) (core : Nat) (h : Cap) (c : Nat) (q : SeqId) : (s.dropWeight core h).seq c q = s.seq c q := by
  unfold State.dropWeight
  split
  · rfl
  · split
    · rfl
    · exact seq_homeMsg ..

theorem seq_signalTok (s : State) (d : Nat) (n : BitVec 5) (c : Nat) (q : SeqId) : (s.signalTok d n).seq c q = s.seq c q := by
  unfold State.signalTok
  dsimp only
  split
  · rfl
  · split
    · rfl
    · exact seq_setCore_keep (by intros; rfl)

theorem seq_drainRow (s : State) (cons core : Nat) (l : Latch) (d : Drain) (i c : Nat) (q : SeqId) :
    (drainRow s cons core l d i).seq c q = s.seq c q := by
  unfold drainRow
  dsimp only
  split
  · exact seq_setCore_keep (by intros; rfl)
  · exact seq_setCore_keep (by intros; rfl)

theorem seq_matStep (s : State) (cons core t : Nat) (m : MatCmd) (c : Nat) (q : SeqId) : (matStep s cons core t m).seq c q = s.seq c q := by
  unfold matStep
  extract_lets before go
  have hgo : ∀ (s : State) (m : MatCmd), (go s m).seq c q = s.seq c q := by
    intro s m
    refine ite_keeps (fun s : State => s.seq c q) (seq_setCore_keep fun q => ?_) rfl
    exact ite_keeps (fun k : Core => k.seq q) (seq_matRow ..) (seq_matRow ..)
  split
  · split
    · exact seq_setCore_keep (by intros; rfl)
    · rw [hgo]
      exact seq_setCore_keep fun q => by rw [seq_markPassed]; rfl
  · exact hgo ..

theorem seq_matCycle (s : State) (cons core t c : Nat) (q : SeqId) : (matCycle s cons core t).seq c q = s.seq c q :=
  foldl_keeps (fun s : State => s.seq c q) _ (fun s id => by split; exact seq_matStep ..; rfl) _ _

/-! ## What a result does to a sequencer -/

/-- What an effect does to the sequencer that its latch is of. -/
def onSeq (v : Seq) : Effect → Seq
  | .setS r x => v.setS r x
  | .setP r x => v.setP r x
  | .setH r x => v.setH r x
  | .setB r b => { v with b := Tbl.set v.b r.toNat b }
  | .setSys n x => v.setSys n x
  | .setLc j n => { v with lc := Tbl.set v.lc j n }
  | _ => v

theorem seq_modSeqAt_ite (s : State) (d c : Nat) (p q : SeqId) (f : Seq → Seq) :
    (s.modSeqAt d p f).seq c q = if d = c ∧ p = q then f (s.seq c q) else s.seq c q := by
  split
  · next h => obtain ⟨rfl, rfl⟩ := h; exact seq_modSeqAt ..
  · next h =>
    by_cases e : d = c
    · subst e
      exact seq_setSeq_other _ _ _ fun e => h ⟨rfl, e.symm⟩
    · exact congrArg (Core.seq · q) (core_setSeq_ne s p _ (Ne.symm e))

theorem seq_perform (s : State) (k : Nat) (l : Latch) (c : Nat) (q : SeqId) :
    (perform s k l).seq c q = if l.core = c ∧ l.seq = q then onSeq (s.seq c q) l.eff else s.seq c q := by
  unfold perform
  cases h : l.eff
  case setS | setP | setH | setB | setLc => exact seq_modSeqAt_ite ..
  case setSys n x => exact (seq_modCoreAt_keep _ _ fun k q => seq_setSys k n x q).trans (seq_modSeqAt_ite ..)
  all_goals simp only [onSeq, ite_self]
  case signal => exact seq_signalTok ..
  case drop => exact seq_dropWeight ..
  case drainRow => exact seq_drainRow ..
  case accCol col v => exact seq_modCoreAt_keep _ _ fun k q => seq_setColumn k col v q
  case load =>
    refine (seq_modCoreAt_keep _ _ (by intros; rfl)).trans ?_
    exact seq_modCoreAt_keep _ _ (by intros; rfl)
  case launch => split <;> rfl
  case store | storeCap => rfl
  all_goals exact seq_modCoreAt_keep _ _ (by intros; rfl)

end Sys2Proof.Laws
end

section
/-! SUPPORT. The registers of a sequencer through the phases of a cycle. -/
namespace Sys2Proof.Laws
open Sys2Proof Sys2Proof.Machine Sys2Proof.Claims
-- In order: each thread of an elaboration in parallel reserves its stack, and the text is long.
set_option Elab.async false

/-! ## The sequencers -/

/-- What a due latch does to a sequencer: its effect where it is the sequencer's own and neither faults nor is held (R206, R212). -/
def onLatch (c : Nat) (q : SeqId) (v : Seq) (l : Latch) : Seq :=
  if l.core = c ∧ l.seq = q ∧ l.err = none ∧ l.pend = false then onSeq v l.eff else v

theorem seq_performLatch (s : State) (k : Nat) (l : Latch) (c : Nat) (q : SeqId) :
    (performLatch s k l).seq c q = onLatch c q (s.seq c q) l := by
  unfold performLatch onLatch
  cases he : l.err with
  | some f => simp only [reduceCtorEq, false_and, and_false, if_false]; rfl
  | none =>
    cases hp : l.pend with
    | true => simp only [reduceCtorEq, and_false, if_false, if_true]
    | false => simp only [Bool.false_eq_true, if_false, seq_perform, and_true]

/-- What performs after the first phase writes no register of a sequencer. -/
theorem onLatch_of_phase {l : Latch} (h : l.phase ≠ 0) (c : Nat) (q : SeqId) (v : Seq) : onLatch c q v l = v := by
  unfold onLatch
  have : onSeq v l.eff = v := by
    revert h
    unfold Latch.phase
    cases l.eff <;> intro h
    case signal | tokDec | store | storeCap | drainRow | launch => rfl
    all_goals exact absurd rfl h
  rw [this, ite_self]

theorem seq_performPhase (k n : Nat) (ls : List Latch) (s : State) (c : Nat) (q : SeqId) :
    (performPhase k n ls s).seq c q = if n = 0 then ls.foldl (onLatch c q) (s.seq c q) else s.seq c q := by
  unfold performPhase
  induction ls generalizing s with
  | nil => exact (ite_self _).symm
  | cons l ls ih =>
    have step : (if l.phase = n then performLatch s k l else s).seq c q = if n = 0 then onLatch c q (s.seq c q) l else s.seq c q := by
      by_cases h : l.phase = 0
      · by_cases hn : n = 0
        · rw [if_pos (h.trans hn.symm), if_pos hn, seq_performLatch]
        · rw [if_neg fun e => hn (e.symm.trans h), if_neg hn]
      · rw [onLatch_of_phase h, ite_self]
        exact ite_keeps (fun s : State => s.seq c q) ((seq_performLatch ..).trans (onLatch_of_phase h ..)) rfl
    rw [List.foldl_cons, ih, step]
    split <;> rfl

/-- R128: what performs in a cycle changes a sequencer as its due latches do, in order of issue. -/
theorem seq_performDue (s : State) (k c : Nat) (q : SeqId) :
    (performDue s k).seq c q = ((s.cons k).latches.filter (Latch.ripe (s.cons k).ttc)).foldl (onLatch c q) (s.seq c q) := by
  unfold performDue
  extract_lets cn due s0 s1 s2 s3 s4
  have mat : s4.seq c q = s3.seq c q :=
    ite_keeps (fun s : State => s.seq c q) rfl (foldl_keeps (fun s : State => s.seq c q) _ (fun _ _ => seq_matCycle ..) _ _)
  rw [seq_performPhase, if_neg (by decide), seq_performPhase, if_neg (by decide), mat]
  unfold s3 s2 s1
  rw [seq_performPhase, if_neg (by decide), seq_performPhase, if_neg (by decide), seq_performPhase, if_pos rfl]
  rfl

/-! ## The registers of a sequencer -/

/-- What a fold reads at its end, where each item gives a value or leaves what was read: the last value given. -/
theorem foldl_eq_getLast {α β γ : Type} (get : α → γ) (f : α → β → α) (g : β → Option γ) (hf : ∀ a b, get (f a b) = (g b).getD (get a))
    (l : List β) (a : α) : get (l.foldl f a) = ((l.filterMap g).getLast?).getD (get a) := by
  induction l generalizing a with
  | nil => rfl
  | cons b l ih =>
    rw [List.foldl_cons, ih, hf, List.filterMap_cons]
    cases g b with
    | none => rfl
    | some x => simp only [List.getLast?_cons, Option.getD_some]

/-- A special register's write leaves a sequencer's scalar, handle and predicate registers. -/
theorem setSys_registers (v : Seq) (n : BitVec 8) (x : Word64) :
    (v.setSys n x).s = v.s ∧ (v.setSys n x).h = v.h ∧ (v.setSys n x).p = v.p := by
  unfold Seq.setSys
  split_ifs <;> exact ⟨rfl, rfl, rfl⟩

theorem scalar_onLatch (c : Nat) (q : SeqId) (r : BitVec 6) (v : Seq) (l : Latch) :
    Tbl.get 0 (onLatch c q v l).s r.toNat = (givesS c q r l).getD (Tbl.get 0 v.s r.toNat) := by
  unfold onLatch givesS
  cases l.eff
  case setS d x =>
    by_cases hd : d = r
    · subst hd
      simp only [true_and]
      split
      · exact get_set_same ..
      · rfl
    · simp only [hd, false_and, and_false, if_false, Option.getD_none]
      exact ite_keeps (fun v : Seq => Tbl.get 0 v.s r.toNat) (by rw [onSeq]; exact (get_set_toNat ..).trans (if_neg (Ne.symm hd))) rfl
  case setSys n x => exact ite_keeps (fun v : Seq => Tbl.get 0 v.s r.toNat) (by rw [onSeq, (setSys_registers v n x).1]; rfl) rfl
  all_goals exact ite_keeps (fun v : Seq => Tbl.get 0 v.s r.toNat) rfl rfl

theorem handle_onLatch (c : Nat) (q : SeqId) (r : BitVec 5) (v : Seq) (l : Latch) :
    Tbl.get nullCap (onLatch c q v l).h r.toNat = (givesH c q r l).getD (Tbl.get nullCap v.h r.toNat) := by
  unfold onLatch givesH
  cases l.eff
  case setH d x =>
    by_cases hd : d = r
    · subst hd
      simp only [true_and]
      split
      · exact get_set_same ..
      · rfl
    · simp only [hd, false_and, and_false, if_false, Option.getD_none]
      exact ite_keeps (fun v : Seq => Tbl.get nullCap v.h r.toNat) (by rw [onSeq]; exact (get_set_toNat ..).trans (if_neg (Ne.symm hd))) rfl
  case setSys n x => exact ite_keeps (fun v : Seq => Tbl.get nullCap v.h r.toNat) (by rw [onSeq, (setSys_registers v n x).2.1]; rfl) rfl
  all_goals exact ite_keeps (fun v : Seq => Tbl.get nullCap v.h r.toNat) rfl rfl

theorem getLsbD_setP (v : Seq) (r i : BitVec 4) (x : Bool) :
    (v.setP r x).p.getLsbD i.toNat = if i = r then x else v.p.getLsbD i.toNat := by
  have bit : (1#16 <<< r.toNat).getLsbD i.toNat = decide (i = r) := by
    revert r i
    decide
  unfold Seq.setP
  cases x
  · simp only [Bool.false_eq_true, if_false, BitVec.getLsbD_and, BitVec.getLsbD_not, bit]
    split <;> simp [*, i.isLt]
  · simp only [if_true, BitVec.getLsbD_or, bit]
    split <;> simp [*]

theorem predicate_onLatch (c : Nat) (q : SeqId) (r : BitVec 4) (v : Seq) (l : Latch) :
    (onLatch c q v l).p.getLsbD r.toNat = (givesP c q r l).getD (v.p.getLsbD r.toNat) := by
  unfold onLatch givesP
  cases l.eff
  case setP d x =>
    by_cases hd : d = r
    · subst hd
      simp only [true_and]
      split
      · exact (getLsbD_setP _ _ _ _).trans (if_pos rfl)
      · rfl
    · simp only [hd, false_and, and_false, if_false, Option.getD_none]
      exact ite_keeps (fun v : Seq => v.p.getLsbD r.toNat) (by rw [onSeq]; exact (getLsbD_setP ..).trans (if_neg (Ne.symm hd))) rfl
  case setSys n x => exact ite_keeps (fun v : Seq => v.p.getLsbD r.toNat) (by rw [onSeq, (setSys_registers v n x).2.2]; rfl) rfl
  all_goals exact ite_keeps (fun v : Seq => v.p.getLsbD r.toNat) rfl rfl

end Sys2Proof.Laws
end

section
/-! SUPPORT. A byte of memory through the phases of a cycle; what performs in a cycle. -/
namespace Sys2Proof.Laws
open Sys2Proof Sys2Proof.Machine Sys2Proof.Claims
-- In order: each thread of an elaboration in parallel reserves its stack, and the text is long.
set_option Elab.async false

/-! ## Bytes outside what is written -/

theorem byte_write_outside {m : Memory} {b a : Nat} {bs : List Byte} (h : ¬ (b ≤ a ∧ a < b + bs.length)) :
    (m.write b bs).byte a = m.byte a := by rw [byte_write, if_neg h]

theorem byte_writeSegs_outside {a : Nat} {gs : List Seg} (h : ¬ ∃ g ∈ gs, g.at_ ≤ a ∧ a < g.at_ + g.bytes.length) (m : Memory) :
    (writeSegs m gs).byte a = m.byte a := by
  induction gs generalizing m with
  | nil => rfl
  | cons g gs ih =>
    rw [writeSegs, ih fun ⟨x, hx, hin⟩ => h ⟨x, List.mem_cons_of_mem _ hx, hin⟩]
    exact byte_write_outside fun hin => h ⟨g, List.mem_cons_self, hin⟩

theorem byte_fillSlot_outside {a core : Nat} {n : BitVec 4} {gs : List (Nat × List Byte)}
    (h : ¬ ∃ g ∈ gs, slotAt core n.toNat g.1 ≤ a ∧ a < slotAt core n.toNat g.1 + g.2.length) (m : Memory) :
    (fillSlot m core n gs).byte a = m.byte a := by
  induction gs generalizing m with
  | nil => rfl
  | cons g gs ih =>
    rw [fillSlot, ih fun ⟨x, hx, hin⟩ => h ⟨x, List.mem_cons_of_mem _ hx, hin⟩, byte_setBytes]
    exact if_neg fun hin => h ⟨g, List.mem_cons_self, hin⟩

theorem length_flatMap_toBytes {α : Type} (w : Nat) (f : α → Nat) (vs : List α) :
    (vs.flatMap fun v => toBytes w (f v)).length = vs.length * w := by
  simp [List.length_flatMap]

/-! ## Where a line lies while its page migrates stands through a cycle -/

/-- A byte of memory and the migrations in progress, which say where a latch stores (R166), both stand. -/
def Stands (a : Nat) (s t : State) : Prop := t.stores.migrations = s.stores.migrations ∧ t.mem.byte a = s.mem.byte a

theorem Stands.trans {a : Nat} {s t u : State} (h : Stands a s t) (h' : Stands a t u) : Stands a s u :=
  ⟨h'.1.trans h.1, h'.2.trans h.2⟩

theorem Stands.of_ite {a : Nat} {c : Prop} [Decidable c] {s t u : State} (ht : Stands a s t) (hu : Stands a s u) :
    Stands a s (if c then t else u) := by
  split
  · exact ht
  · exact hu

theorem forward_congr {s t : State} (h : t.stores.migrations = s.stores.migrations) : t.forward = s.forward := by
  funext pa
  unfold State.forward
  rw [h]

theorem segsNow_congr {s t : State} (h : t.stores.migrations = s.stores.migrations) (gs : List Seg) : t.segsNow gs = s.segsNow gs := by
  unfold State.segsNow
  rw [h, forward_congr h]

theorem storesTo_congr {s t : State} (h : t.stores.migrations = s.stores.migrations) (a : Nat) (l : Latch) :
    storesTo t a l = storesTo s a l := by
  unfold storesTo
  rw [forward_congr h]
  simp only [segsNow_congr h]

theorem migrations_dropWeight (s : State) (core : Nat) (h : Cap) : (s.dropWeight core h).stores.migrations = s.stores.migrations := by
  have home : ∀ (s : State) key msg id, (s.homeMsg core key msg id).stores.migrations = s.stores.migrations := by
    intro s key msg id
    exact ite_keeps (fun s : State => s.stores.migrations) rfl rfl
  unfold State.dropWeight
  exact ite_keeps (fun s : State => s.stores.migrations) rfl (ite_keeps (fun s : State => s.stores.migrations) rfl (home ..))

theorem migrations_drainRow (s : State) (cons core : Nat) (l : Latch) (d : Drain) (i : Nat) :
    (drainRow s cons core l d i).stores.migrations = s.stores.migrations :=
  ite_keeps (fun s : State => s.stores.migrations) rfl rfl

theorem migrations_matCycle (s : State) (cons core t : Nat) : (matCycle s cons core t).stores.migrations = s.stores.migrations := by
  have step : ∀ (s : State) (c : MatCmd), (matStep s cons core t c).stores.migrations = s.stores.migrations := by
    intro s c
    unfold matStep
    extract_lets before go
    have hgo : ∀ (s : State) (c : MatCmd), (go s c).stores.migrations = s.stores.migrations := fun s c =>
      ite_keeps (fun s : State => s.stores.migrations) rfl rfl
    split
    · split
      · rfl
      · rw [hgo]; rfl
    · exact hgo ..
  exact foldl_keeps (fun s : State => s.stores.migrations) _ (fun s id => by split; exact step ..; rfl) _ _

theorem stands_perform {s : State} {a : Nat} {l : Latch} (h : ¬ storesTo s a l) (k : Nat) : Stands a s (perform s k l) := by
  unfold storesTo at h
  unfold perform
  revert h
  cases l.eff
  case store x segs => exact fun h => ⟨rfl, byte_writeSegs_outside h _⟩
  case storeCap x off b hd =>
    intro h
    refine ⟨rfl, ?_⟩
    simp only [Memory.writeCap, byte_setTag]
    exact byte_write_outside (by rwa [length_toBytes])
  case load n x => exact fun h => ⟨rfl, byte_fillSlot_outside h _⟩
  case drainRow d i =>
    intro h
    refine ⟨migrations_drainRow .., ?_⟩
    rw [mem_drainRow]
    refine byte_write_outside ?_
    rw [length_flatMap_toBytes]
    simpa [Core.accRow] using h
  all_goals intro _
  case drop => exact ⟨migrations_dropWeight .., congrArg (Memory.byte · a) (mem_dropWeight ..)⟩
  case signal => exact Stands.of_ite ⟨rfl, rfl⟩ (Stands.of_ite ⟨rfl, rfl⟩ ⟨rfl, rfl⟩)
  case launch => dsimp only; split <;> exact ⟨rfl, rfl⟩
  all_goals exact ⟨rfl, rfl⟩

/-! ## The phases of a cycle -/

theorem stands_performLatch {s : State} {a : Nat} {l : Latch} (h : ¬ storesTo s a l) (k : Nat) : Stands a s (performLatch s k l) := by
  unfold performLatch
  split
  · exact ⟨rfl, rfl⟩
  · exact Stands.of_ite ⟨rfl, rfl⟩ (stands_perform h k)

theorem stands_performPhase {a : Nat} {ls : List Latch} {s : State} (h : ∀ l ∈ ls, ¬ storesTo s a l) (k n : Nat) :
    Stands a s (performPhase k n ls s) := by
  unfold performPhase
  induction ls generalizing s with
  | nil => exact ⟨rfl, rfl⟩
  | cons l ls ih =>
    have first : Stands a s (if l.phase = n then performLatch s k l else s) :=
      Stands.of_ite (stands_performLatch (h l List.mem_cons_self) k) ⟨rfl, rfl⟩
    refine first.trans (ih fun x hx => ?_)
    rw [storesTo_congr first.1]
    exact h x (List.mem_cons_of_mem _ hx)

/-- R7, R128: a byte to which no due latch stores is as it was. -/
theorem stands_performDue {s : State} {k a : Nat}
    (h : ∀ l ∈ (s.cons k).latches.filter (Latch.ripe (s.cons k).ttc), ¬ storesTo s a l) : Stands a s (performDue s k) := by
  unfold performDue
  extract_lets c due s0 s1 s2 s3 s4
  have phase : ∀ {t : State}, Stands a s t → ∀ n, Stands a s (performPhase k n due t) := fun ht n =>
    ht.trans (stands_performPhase (fun l hl => by rw [storesTo_congr ht.1]; exact h l hl) k n)
  have h3 : Stands a s s3 := phase (phase (phase (t := s0) ⟨rfl, rfl⟩ 0) 1) 2
  have h4 : Stands a s s4 := by
    refine Stands.of_ite h3 (h3.trans ⟨?_, ?_⟩)
    · exact foldl_keeps (fun s : State => s.stores.migrations) _ (fun _ _ => migrations_matCycle ..) _ _
    · exact foldl_keeps (fun s : State => s.mem.byte a) _ (fun s x => congrArg (Memory.byte · a) (matCycle_mem s k x c.ttc)) _ _
  exact phase (phase h4 3) 4

/-- Settles O54: every kind of result by itself, and a cycle as a fold of its due latches over each sequencer and over memory. -/
theorem dueResultsPerform : Obligations.DueResultsPerform := by
  refine ⟨effectsPerform, fun s k due hdue => ?_⟩
  subst hdue
  refine ⟨fun c q r => ?_, fun c q r => ?_, fun c q r => ?_, fun a h => (stands_performDue h).2⟩
  · rw [seq_performDue]
    exact foldl_eq_getLast (fun v : Seq => Tbl.get 0 v.s r.toNat) _ _ (scalar_onLatch c q r) _ _
  · rw [seq_performDue]
    exact foldl_eq_getLast (fun v : Seq => Tbl.get nullCap v.h r.toNat) _ _ (handle_onLatch c q r) _ _
  · rw [seq_performDue]
    exact foldl_eq_getLast (fun v : Seq => v.p.getLsbD r.toNat) _ _ (predicate_onLatch c q r) _ _

end Sys2Proof.Laws
end

section
/-! SUPPORT. Weight that words split, join, move and send home (R73-R76, R80): what the shared work comes to, and O19. -/
namespace Sys2Proof.Laws
open Sys2Proof Sys2Proof.Machine
-- In order: each thread of an elaboration in parallel reserves its stack, and the text is long.
set_option Elab.async false

/-! ## Work that depends on a condition -/

section Conditional
variable {α β : Type} {p : Prop} [Decidable p] {s t : State}

/-- Either part goes first, and the same work goes on with what it answers. -/
theorem run_ite_bind {x y : Act α} {f : α → Act β} {a : α} (h : (if p then x else y : Act α).run s = .ok (a, t)) :
    (if p then x >>= f else y >>= f).run s = (f a).run t := by
  by_cases hp : p
  · rw [if_pos hp] at h ⊢
    exact run_bind_ok h f
  · rw [if_neg hp] at h ⊢
    exact run_bind_ok h f

/-- A part that goes first only under a condition. -/
theorem run_ite_first {x : Act PUnit} {f : PUnit → Act β} (h : x.run s = .ok (⟨⟩, t)) :
    (if p then x >>= f else f ⟨⟩).run s = (f ⟨⟩).run (if p then t else s) := by
  split
  · exact run_bind_ok h f
  · rfl

end Conditional

/-! ## Checks and destinations -/

theorem run_checkPerm {c : Cap} {perm : Nat} (h : c.has perm = true) (v : State) : (checkPerm c perm).run v = .ok ((), v) :=
  run_need h _ _ _ _

theorem run_checkSpace {c : Cap} {spaces : List Nat} (h : c.space.toNat ∈ spaces) (v : State) :
    (checkSpace c spaces).run v = .ok ((), v) := run_need (List.contains_iff_mem.2 h) _ _ _ _

/-- The effect of a predicate destination (R108, R382). -/
def predEffect (r : BitVec 4) (x : Bool) : Effect := if r = 0 then .mark else .setP r x

@[simp] theorem run_writeP (r : BitVec 4) (lat : Nat) (x : Bool) (s : State) :
    (writeP r lat x).run s = .ok ((), flying s lat (predEffect r x)) := rfl

/-! ## Answers of homes -/

/-- The state once the answer to a request has been taken (R74). -/
def answerTaken (v : State) (id : Nat) : State :=
  { v with stores := { v.stores with answers := v.stores.answers.filter fun a => a.1 != id } }

theorem run_takeAnswer {v : State} {id n t : Nat} {a : HomeAns} (hreq : (v.seq v.cur.1 v.cur.2).at_.req = some id)
    (hans : v.stores.answers.find? (fun a => a.1 == id) = some (n, t, a)) (ht : t ≤ v.clk) :
    takeAnswer.run v = .ok (some a, answerTaken v id) := by
  simp only [takeAnswer, run_bind, run_getSeq, run_get, hreq, hans, if_pos ht, run_set, run_pure]
  rfl

/-- A weight that is too small is extended once the home has answered (R74). -/
theorem run_extend {v : State} {id n t xg : Nat} (c : Cap) (hreq : (v.seq v.cur.1 v.cur.2).at_.req = some id)
    (hans : v.stores.answers.find? (fun a => a.1 == id) = some (n, t, .extended xg)) (ht : t ≤ v.clk) :
    (extend c).run v = .ok (c.withWeight (c.weight + fullWeight) xg, answerTaken v id) := by
  simp only [extend, run_bind, run_takeAnswer hreq hans ht, run_getSeq, run_get, run_pure]

/-! ## DUP (R73, R74) -/

/-- DUP once its weight is large enough: `d` is the handle to split, extended or not. -/
theorem run_dupAct {v v1 v2 w : State} {hd ha : BitVec 5} {n : Nat} {c d : Cap} {e : Effect} (hr : ReadsH v ha c v1)
    (hc : CapOk v1 c [kTile]) (hp : c.has pD = true)
    (hx : (if c.weight = 1 ∨ (n ≠ 0 ∧ c.weight ≤ n) then extend c else pure c : Act Cap).run v1 = .ok (d, v2))
    (ht : TakesH (flying v2 1 (.setH ha (d.withWeight (d.weight - (if n = 0 then d.weight / 2 else n)) d.xg))) hd
      (d.withWeight (if n = 0 then d.weight / 2 else n) d.xg) e w) :
    (dupAct hd ha n).run v = .ok ((), flying w 1 e) := by
  rw [dupAct, run_bind_ok hr, run_bind_ok (run_checkKind hc), run_bind_ok (run_checkPerm hp v1)]
  dsimp only
  rw [run_ite_bind hx]
  exact run_writeH ht 1

/-! ## DROP and MOVH (R76, R80, R351) -/

theorem run_dropWAct {v v1 : State} {ha : BitVec 5} {c : Cap} (hr : ReadsH v ha c v1) (hc : CapOk v1 c allKinds) :
    (dropWAct ha).run v = .ok ((), (nulling v1 ha).dropWeight (nulling v1 ha).cur.1 c) := by
  rw [dropWAct, run_bind_ok hr, run_bind_ok (run_checkKind hc), run_bind_ok (run_nullH1 ha v1), run_modify]

theorem run_movhAct {v v1 w : State} {hd ha : BitVec 5} {c : Cap} {e : Effect} (hr : ReadsH v ha c v1) (hc : CapOk v1 c allKinds)
    (ht : TakesH (if c.counted && ha != hd then nulling v1 ha else v1) hd c e w) :
    (movhAct hd ha).run v = .ok ((), flying w 1 e) := by
  rw [movhAct, run_bind_ok hr, run_bind_ok (run_checkKind hc)]
  dsimp only
  rw [run_ite_first (run_nullH1 ha v1)]
  exact run_writeH ht 1

section DropBlank
variable {v v1 w : State} {hd ha : BitVec 5} {c : Cap} {e : Effect} (hr : ReadsH v ha c v1) (hc : CapOk v1 c allKinds)
include hr hc

/-- A blank is handed on. -/
theorem run_dropBAct_blank (hk : c.kind = kBlank) (ht : TakesH (nulling v1 ha) hd c e w) (pd : BitVec 4) :
    (dropBAct hd ha pd).run v = .ok ((), flying (flying w 1 e) 1 (predEffect pd true)) := by
  rw [dropBAct, run_bind_ok hr, run_bind_ok (run_checkKind hc), run_bind_ok (run_nullH1 ha v1), if_pos hk,
    run_bind_ok (run_writeH ht 1), run_writeP]

/-- A unique tile becomes a blank, and its home is told. -/
theorem run_dropBAct_unique (hk : c.kind = kTile) (hu : c.localUnique = true) (ht : TakesH (nulling v1 ha) hd c.asBlank e w)
    (pd : BitVec 4) :
    (dropBAct hd ha pd).run v = .ok ((), (flying (flying w 1 e) 1 (predEffect pd true)).sendBlank w.cur.1 c) := by
  have hb : c.kind ≠ kBlank := by rw [hk]; decide
  rw [dropBAct, run_bind_ok hr, run_bind_ok (run_checkKind hc), run_bind_ok (run_nullH1 ha v1), if_neg hb, if_pos ⟨hk, hu⟩,
    run_bind_ok (run_writeH ht 1), run_bind_ok (run_writeP ..), run_modify]
  rfl

/-- Anything else goes home. -/
theorem run_dropBAct_other (hb : c.kind ≠ kBlank) (hu : ¬ (c.kind = kTile ∧ c.localUnique = true))
    (ht : TakesH ((nulling v1 ha).dropWeight (nulling v1 ha).cur.1 c) hd nullCap e w) (pd : BitVec 4) :
    (dropBAct hd ha pd).run v = .ok ((), flying (flying w 1 e) 1 (predEffect pd false)) := by
  rw [dropBAct, run_bind_ok hr, run_bind_ok (run_checkKind hc), run_bind_ok (run_nullH1 ha v1), if_neg hb, if_neg hu,
    run_bind_ok (run_modify ..), run_bind_ok (run_writeH ht 1), run_writeP]

end DropBlank

/-! ## MERGE (R75) -/

theorem run_mergeAct {v v1 v2 w : State} {hd ha hb : BitVec 5} {a b : Cap} {e : Effect} (hra : ReadsH v ha a v1) (hrb : ReadsH v1 hb b v2)
    (hca : CapOk v2 a [kTile]) (hcb : CapOk v2 b [kTile]) (hs : a.space = b.space) (haddr : a.addr = b.addr) (hp : a.part = b.part)
    (ht : TakesH (nulling (nulling v2 ha) hb) hd (a.withWeight (a.weight + b.weight) (max a.xg b.xg)) e w) :
    (mergeAct hd ha hb).run v = .ok ((), flying w 1 e) := by
  have same : (a.space == b.space && a.addr == b.addr && a.part == b.part) = true := by simp [hs, haddr, hp]
  rw [mergeAct, run_bind_ok hra, run_bind_ok hrb, run_bind_ok (run_checkKind hca), run_bind_ok (run_checkKind hcb),
    run_bind_ok (run_need same ..), run_bind_ok (run_nullH1 ha v2), run_bind_ok (run_nullH1 hb _)]
  exact run_writeH ht 1

/-! ## The words -/

/-- Settles O19: each word by its work, DUP by whether its weight has to be extended, DROP.B by what it drops. -/
theorem weightWords : Obligations.WeightWords := by
  unfold Obligations.WeightWords
  intro g s v hd ha hb h
  refine ⟨fun imm c d n k e v1 v2 w hn hr hc hp hx hk ht => ?dup, fun c v1 hr hc => ⟨?dropW, fun e w ht => ?movh, fun sr e w hk ht => ?blank,
    fun sr e w hk hw hxg ht => ?unique, fun sr e w hb hu ht => ?other⟩, fun a b e v1 v2 w hra hrb hca hcb hs haddr hp ht => ?merge⟩
  case dup =>
    subst hn hk
    refine issueFall_completes h (run_dupAct hr hc hp ?_ ht)
    obtain ⟨h1, hle, rfl, rfl⟩ | ⟨hsmall, id, a, t, xg, hreq, hans, hclk, rfl, rfl⟩ := hx
    · rw [if_neg (by omega)]
      rfl
    · rw [if_pos hsmall]
      exact run_extend c hreq hans hclk
  case dropW => exact issueFall_completes h (run_dropWAct hr hc)
  case movh => exact issueFall_completes h (run_movhAct hr hc ht)
  case blank => exact issueFall_completes h (run_dropBAct_blank hr hc hk ht _)
  case unique => exact issueFall_completes h (run_dropBAct_unique hr hc hk ((localUnique_iff c).2 ⟨hw, hxg⟩) ht _)
  case other => exact issueFall_completes h (run_dropBAct_other hr hc hb (by rwa [localUnique_iff]) ht _)
  case merge => exact issueFall_completes h (run_mergeAct hra hrb hca hcb hs haddr hp ht)

end Sys2Proof.Laws
end

section
/-! SUPPORT. Storage that words test, ask for, turn into blanks and seal (R78-R82, R358, R391, R408): what the shared work comes to,
and O20. -/
namespace Sys2Proof.Laws
open Sys2Proof Sys2Proof.Machine
-- In order: each thread of an elaboration in parallel reserves its stack, and the text is long.
set_option Elab.async false

/-! ## Queries (R78, R358) -/

/-- A query to a tile's home (R78), over the Turntable where the home is on another package. -/
def querying (c : Cap) (id : Nat) (w : State) : State :=
  if w.remoteHome c then
    { w with tt := { w.tt with
        items := w.tt.items ++ [{ id := id, peer := c.addr.toNat / 2 ^ 58, seq := none
                                  item := .inr (.query c.part (c.addr.toNat % 2 ^ 52) id), cap := nullCap, core := w.cur.1, rot := w.tt.rot }]
        queries := w.tt.queries ++ [(id, c.addr.toNat / 2 ^ 58)] } }
  else w.homeMsg w.cur.1 c.key (.query c.weight) id

theorem run_sendQuery (c : Cap) (id : Nat) (w : State) : (sendQuery c id).run w = .ok ((), querying c id w) := rfl

/-! ## ISUNQ (R78, R358) -/

/-- What a test of uniqueness answers here. -/
theorem boolWord_localUnique (c : Cap) : boolWord c.localUnique = if c.weight = 2 ^ 20 ∧ c.xg = 0 then 1 else 0 := by
  simp only [boolWord, localUnique_iff]

section Isunq
variable {v v1 w : State} {ha : BitVec 5} {sr : BitVec 6} {c : Cap} {e : Effect} (hr : ReadsH v ha c v1) (hc : CapOk v1 c [kTile])
include hr hc

theorem run_isunqLAct (ht : TakesS v1 sr (boolWord c.localUnique) e w) :
    (isunqLAct ha sr).run v = .ok ((), givingUp (flying w 1 e) ha c) := by
  rw [isunqLAct, run_bind_ok hr, run_bind_ok (run_checkKind hc), run_bind_ok (run_writeS ht 1), run_dropNow]

theorem run_isunqXAct_unique (hu : c.localUnique = true) (ht : TakesS v1 sr 1 e w) :
    (isunqXAct ha sr).run v = .ok ((), givingUp (flying w 1 e) ha c) := by
  rw [isunqXAct, run_bind_ok hr, run_bind_ok (run_checkKind hc)]
  dsimp only
  rw [if_pos hu, run_bind_ok (run_writeS ht 1), run_dropNow]

theorem run_isunqXAct_asks (hu : ¬ c.localUnique = true) (ht : TakesS v1 sr (BitVec.ofNat 64 c.weight) e w) :
    (isunqXAct ha sr).run v = .ok ((), givingUp (querying c w.nextId
      (awaiting w (if v1.remoteHome c then 572 else 2 * v1.dH v1.cur.1 c + 8) (if v1.remoteHome c then 3 else 2) e)) ha c) := by
  rw [isunqXAct, run_bind_ok hr, run_bind_ok (run_checkKind hc)]
  dsimp only
  rw [if_neg hu, run_bind_ok (run_get v1), run_bind_ok ht, run_bind_ok (run_await ..), run_bind_ok (run_sendQuery ..), run_dropNow]

end Isunq

/-! ## ALLOC (R79) -/

/-- ALLOC's blank is awaited from the porter of the free list. -/
theorem run_allocAct {v w : State} {hd : BitVec 5} {e : Effect} (ht : TakesH v hd nullCap e w) (cls lead : Nat) (place : Nat → Nat) :
    (allocAct hd cls place lead).run v = .ok ((), (awaiting w (2 * lead) 2 e).sendHome w.cur.1
      (listKey w.cur.1 (place w.cur.1) (((w.core w.cur.1).part).getD 0)) (.alloc cls (place w.cur.1) lead) w.nextId) := by
  rw [allocAct, run_bind_ok ht, run_bind_ok (run_await ..), run_bind_ok (run_myPart _), run_modify]
  rfl

/-! ## UPD (R81, R408) -/

/-- The state once a UPD has its tile: the handle's register is null, or its place in hq is kept (R408). -/
def updTook (v : State) (ha : BitVec 5) : State :=
  if ha = 31 then (nulling v ha).setCore v.cur.1 { (nulling v ha).core v.cur.1 with hqHeld := ((nulling v ha).core v.cur.1).hqHeld + 1 }
  else nulling v ha

/-- A UPD that has asked its tile's home whether the tile is unique. -/
def updAsked (t : State) (c : Cap) (ha : BitVec 5) (hbm : Bool) (id : Nat) : State :=
  { t with nextId := t.nextId + 1 }.setCore t.cur.1 { t.core t.cur.1 with
    upds := (t.core t.cur.1).upds ++ [(⟨id, c, ha, hbm, id, none, t.nextId⟩ : Upd)]
    kept := (t.core t.cur.1).kept ++ [(⟨t.nextId, c.key, .later, [id]⟩ : Kept)] }

@[simp] theorem nulling_cur (v : State) (ha : BitVec 5) : (nulling v ha).cur = v.cur := by
  unfold nulling
  split <;> rfl

/-- What every UPD does before it looks at the tile's weight. -/
theorem run_updTook {v : State} {ha : BitVec 5} (f : PUnit → Act Unit) :
    (if ha = 31 then modCore (fun k => { k with hqHeld := k.hqHeld + 1 }) >>= f else f ⟨⟩).run (nulling v ha) =
      (f ⟨⟩).run (updTook v ha) := by
  rw [run_ite_first (run_modCore ..), nulling_cur]
  rfl

section Upd
variable {v v1 w : State} {hd ha : BitVec 5} {c : Cap} {e : Effect} (hr : ReadsH v ha c v1) (hc : CapOk v1 c [kTile])
  (hs : c.space.toNat ∈ [0, 1])
include hr hc hs

/-- A unique tile is blanked in place. -/
theorem run_updAct_unique (hu : c.localUnique = true) (ht : TakesH (updTook v1 ha) hd c.asBlank e w) (hbm : Bool) :
    (updAct hd ha hbm).run v =
      .ok ((), (if ha = 31 then flying (flying w 1 e) 1 .releasePlace else flying w 1 e).sendBlank
        (if ha = 31 then flying (flying w 1 e) 1 .releasePlace else flying w 1 e).cur.1 c) := by
  rw [updAct, run_bind_ok hr, run_bind_ok (run_checkKind hc), run_bind_ok (run_checkSpace hs v1), run_bind_ok (run_nullH1 ha v1),
    run_bind_ok (run_get _)]
  dsimp only
  rw [run_updTook, if_pos hu, run_bind_ok (run_writeH ht 1), run_ite_first (run_result ..), run_modify]

/-- The home of any other tile is asked, and what it is told later keeps its place among the core's messages. -/
theorem run_updAct_asks (hu : ¬ c.localUnique = true) (ht : TakesH (updTook v1 ha) hd nullCap e w) (hbm : Bool) :
    (updAct hd ha hbm).run v = .ok ((), updAsked
      (querying c w.nextId (awaiting w (2 * (nulling v1 ha).dH (nulling v1 ha).cur.1 c + 8) 2 e)) c ha hbm w.nextId) := by
  rw [updAct, run_bind_ok hr, run_bind_ok (run_checkKind hc), run_bind_ok (run_checkSpace hs v1), run_bind_ok (run_nullH1 ha v1),
    run_bind_ok (run_get _)]
  dsimp only
  rw [run_updTook, if_neg hu, run_bind_ok ht, run_bind_ok (run_await ..), run_bind_ok (run_sendQuery ..)]
  rfl

end Upd

/-! ## SEAL (R82, R391) -/

theorem run_waitWrites {v : State} {c : Cap} (h : v.writesOut v.cur.1 c.key = false) : (waitWrites c).run v = .ok ((), v) := by
  rw [waitWrites, run_bind_ok (run_get v), h, Bool.and_false]
  rfl

theorem run_sealAct {v v1 w : State} {hd ha : BitVec 5} {rows cols fmt : Nat} {c : Cap} {e : Effect} (hr : ReadsH v ha c v1)
    (hc : CapOk v1 c [kBlank]) (hp : c.has pS = true) (hs : c.space.toNat ∈ [0, 1])
    (hfit : tileBytes rows cols fmt ≤ classSize (v1.dirEntry c.key).cls) (hfmt : fmt = 6 → rows % 64 = 0)
    (hw : v1.writesOut v1.cur.1 c.key = false)
    (ht : TakesH (if ha = hd then v1 else nulling v1 ha) hd (c.withKind kTile (c.perms &&& 0xED) fullWeight 0) e w) :
    (sealAct hd ha rows cols fmt).run v =
      .ok ((), { flying w 1 e with nextId := w.nextId + 2 }.homeMsg w.cur.1 c.key (.seal rows cols fmt) (w.nextId + 1)) := by
  have shape : (fmt != 6 || decide (rows % 64 = 0)) = true := by
    by_cases h : fmt = 6
    · simp [hfmt h]
    · simp [h]
  have null : (if ha = hd then pure () else nullH ha 1 : Act Unit).run v1 = .ok ((), if ha = hd then v1 else nulling v1 ha) := by
    split
    · rfl
    · exact run_nullH1 ha v1
  rw [sealAct, run_bind_ok hr, run_bind_ok (run_checkKind hc), run_bind_ok (run_checkPerm hp v1), run_bind_ok (run_checkSpace hs v1),
    run_bind_ok (run_get v1)]
  dsimp only
  rw [run_bind_ok (run_need shape ..), run_bind_ok (run_need (decide_eq_true hfit) ..), run_bind_ok (run_waitWrites hw)]
  refine (run_ite_bind null).trans ?_
  rw [run_bind_ok (run_writeH ht 1), run_modify]
  rfl

/-! ## The words -/

/-- Settles O20: each word by its work, by whether its tile is unique here. -/
theorem storageWords : Obligations.StorageWords := by
  unfold Obligations.StorageWords
  intro g s v hd ha sr h unique query ask
  refine ⟨fun c v1 hr hc => ⟨fun e w ht => ⟨?isunqL, fun hu => ?isunqXUnique⟩, fun e w hu ht => ?isunqXAsks⟩,
    fun imm e w ht => ⟨?allocT, ?allocM⟩, fun m c v1 u hr hc hs hu => ?upd,
    fun imm c rows cols fmt e v1 w hr hrows hcols hfmt hc hp hs hfit h64 hw ht => ?sealing⟩
  case isunqL => exact issueFall_completes h (run_isunqLAct hr hc (by rwa [boolWord_localUnique]))
  case isunqXUnique =>
    rw [if_pos hu] at ht
    exact issueFall_completes h (run_isunqXAct_unique hr hc ((localUnique_iff c).2 hu) ht)
  case isunqXAsks => exact issueFall_completes h (run_isunqXAct_asks hr hc (by rwa [localUnique_iff]) ht)
  case allocT => exact issueFall_completes h (run_allocAct ht ..)
  case allocM => exact issueFall_completes h (run_allocAct ht ..)
  case upd =>
    subst hu
    have completes : ∀ {x}, (updAct hd ha m).run v = .ok ((), x) →
        exec (if m then .updM g hd ha else .updT g hd ha) s = .next (issued 1 .fall x) := fun hx => by
      cases m
      · exact issueFall_completes h hx
      · exact issueFall_completes h hx
    exact ⟨fun e w hu1 ht => completes (run_updAct_unique hr hc hs ((localUnique_iff c).2 hu1) ht m),
      fun e w hu1 ht => completes (run_updAct_asks hr hc hs (by rwa [localUnique_iff]) ht m)⟩
  case sealing =>
    subst hrows hcols hfmt
    exact issueFall_completes h (run_sealAct hr hc hp hs hfit h64 hw ht)

end Sys2Proof.Laws
end

section
/-! SUPPORT. What a home porter does with each message (R65): its entry, its answer and the way back; O35. -/
namespace Sys2Proof.Laws
open Sys2Proof Sys2Proof.Machine Sys2Proof.Claims
-- In order: each thread of an elaboration in parallel reserves its stack, and the text is long.
set_option Elab.async false

/-! ## Taking a message -/

/-- The state once a home has taken the message of a number. -/
def messageTaken (s : State) (id : Nat) : State :=
  { s with stores := { s.stores with inbox := s.stores.inbox.filter fun q => q.id != id } }

section Taking
variable {s : State} {id : Nat} {r : HomeReq} (hr : s.stores.inbox.find? (fun q => q.id == id) = some r)
include hr

/-- A die in reset discards it (R241, R302). -/
theorem takeHome_reset (h : (s.die (porterDie r.porter)).state = .reset) :
    takeHome s id = (messageTaken s id).markDies r.core [porterDie r.porter] := by
  simp only [takeHome, hr]
  exact if_pos h

theorem takeHome_runs (h : (s.die (porterDie r.porter)).state ≠ .reset) : takeHome s id = homeStep (messageTaken s id) r := by
  simp only [takeHome, hr]
  exact if_neg h

end Taking

/-- Every message's event takes it. -/
theorem exec_homeEvent {id : Nat} {m : HomeMsg} {i : Instr} (h : HomeEvent id m i) (s : State) : exec i s = .next (takeHome s id) := by
  cases m with
  | later => exact h.elim
  | _ => subst h; rfl

/-! ## What a message does to its entry (R65) -/

/-- A weight return by what is left of the total (R76), poisoned storage kept and logged (R325). -/
theorem returnWeight_eq (s : State) (key w : Nat) : returnWeight s key w =
    if (s.dirEntry key).state = .free ∨ (s.dirEntry key).state = .beingFreed then s
    else if (s.dirEntry key).total - w ≠ 0 then s.setDir key { s.dirEntry key with total := (s.dirEntry key).total - w }
    else if (s.dirEntry key).state = .poisoned then
      (s.setDir key { s.dirEntry key with total := (s.dirEntry key).total - w, kept := true }).logErr 3 (s.homeDie 0 key)
        (if keySpace key = 1 then 2 else 0) (BitVec.ofNat 64 (keyBase key)) (keyPart key)
    else s.setDir key { s.dirEntry key with total := (s.dirEntry key).total - w, state := .beingFreed, freeAt := s.clk + 8 } := by
  unfold returnWeight
  dsimp only
  split
  case h_1 hst => rw [if_pos (.inl hst)]
  case h_2 hst => rw [if_pos (.inr hst)]
  case h_3 hst =>
    have hheld : ¬ ((s.dirEntry key).state = .free ∨ (s.dirEntry key).state = .beingFreed) := by rw [hst]; decide
    rw [if_neg hheld]
    by_cases hz : (s.dirEntry key).total - w = 0
    · rw [if_pos hz, if_neg (not_not.2 hz), if_pos hst]
    · rw [if_neg hz, if_pos hz]
  case h_4 hfree hfreed hpois =>
    rw [if_neg (not_or.2 ⟨hfree, hfreed⟩)]
    by_cases hz : (s.dirEntry key).total - w = 0
    · rw [if_pos hz, if_neg (not_not.2 hz), if_neg hpois]
    · rw [if_neg hz, if_pos hz]

/-- A conversion to blank (R80, R81): storage that is poisoned stays so. -/
theorem blankEntry_eq (s : State) (key : Nat) : blankEntry s key =
    if (s.dirEntry key).state = .live then s.setDir key { s.dirEntry key with state := .blank, total := 2 ^ 20, xg := 0 }
    else if (s.dirEntry key).state = .poisoned then s.setDir key { s.dirEntry key with total := 2 ^ 20, xg := 0 }
    else s := by
  unfold blankEntry
  dsimp only
  split
  case h_1 hst => rw [if_pos hst]; rfl
  case h_2 hst => rw [if_neg (by rw [hst]; decide), if_pos hst]; rfl
  case h_3 hlive hpois => rw [if_neg hlive, if_neg hpois]

/-! ## Answers -/

/-- The state once a reply has left a porter's die, after a free delay (log 5), to arrive at a station time. -/
def replied (w : State) (die t : Nat) : State := ({ w with freeCtr := w.freeCtr + 1 } : State).outbound die t

/-- The station time at which a home's reply is back (R78). -/
def wayBack (s : State) (r : HomeReq) : Nat :=
  s.clk + s.dist (dieOf r.core) (porterDie r.porter) + 4 + Config.extraDelay s.freeCtr

/-- An extension is answered with the new generation, or that there is none left (R74). -/
theorem homeStep_extend {r : HomeReq} (hm : r.msg = .extend) (s : State) : homeStep s r =
    let e := s.dirEntry r.key
    if e.xg < 254 then
      (replied (s.setDir r.key { e with total := e.total + 2 ^ 20, xg := e.xg + 1 }) (porterDie r.porter) (wayBack s r)).answer r.id
        (wayBack s r) (.extended (e.xg + 1))
    else (replied s (porterDie r.porter) (wayBack s r)).answer r.id (wayBack s r) .xgFull := by
  simp only [homeStep, hm, extendEntry]
  by_cases h : (s.dirEntry r.key).xg < 254
  · rw [if_neg (by omega), if_pos h]
    rfl
  · rw [if_pos (by omega), if_neg h]
    rfl

/-- A query of a UPD is answered with the total (R81), one of ISUNQ.X with whether it is the handle's weight (R78). -/
theorem homeStep_query {r : HomeReq} {w : Nat} (hm : r.msg = .query w) (s : State) : homeStep s r =
    let e := s.dirEntry r.key
    if isUpd s r.core r.id then
      (replied s (porterDie r.porter) (wayBack s r)).answer r.id (wayBack s r) (.total e.total (e.state == .poisoned))
    else (replied s (porterDie r.porter) (wayBack s r)).modLatch r.core r.id fun l =>
      { l with eff := l.eff.withWord (if e.total = w then 1 else 0), back := some (wayBack s r) } := by
  have test : boolWord ((s.dirEntry r.key).total == w) = if (s.dirEntry r.key).total = w then 1 else 0 := by
    simp only [boolWord, beq_iff_eq]
  simp only [homeStep, hm, test]
  rfl

/-! ## Allocation (R62, R79) -/

/-- The state once a free list has given a block, whose entry is now a blank's. -/
def blockTaken (s : State) (part : BitVec 5) (place cls base : Nat) (free : List FreeBlock) : State :=
  let space : BitVec 4 := if place < 256 then 1 else 0
  { s with stores := { s.stores with free := free } }.setDir (dirKey space part (BitVec.ofNat 64 base))
    { DirEntry.reset with
      state := .blank, cls := cls, part := part, total := 2 ^ 20, base := base, space := space
      pa := if place < 256 then 0 else (s.physical part base).getD ((place - 256) * 2 ^ 37) }

/-- The station time at which a free list's answer is back at its core (R79). -/
def allocBack (s : State) (lead : Nat) : Nat := s.clk + lead + Config.extraDelay s.freeCtr

section Allocation
variable {s : State} {r : HomeReq} {cls place lead : Nat} (hm : r.msg = .alloc cls place lead)
include hm

/-- A block goes to the UPD that asked (R81), or fills ALLOC's latch with its handle. -/
theorem homeStep_alloc_block {base : Nat} {free : List FreeBlock}
    (ht : takeBlock s.stores.free (keyPart r.key) place cls = some (base, free)) : homeStep s r =
    let w := replied (blockTaken s (keyPart r.key) place cls base free) (porterDie r.porter) (allocBack s lead)
    if isUpd s r.core r.id then w.answer r.id (allocBack s lead) (.block base)
    else w.modLatch r.core r.id fun l =>
      { l with eff := l.eff.withCap (newBlank place (keyPart r.key) base 0x7B), back := some (allocBack s lead) } := by
  simp only [homeStep, hm, allocBlock, ht]
  rfl

/-- Where there is none, the UPD is told, or ALLOC's latch faults (R79). -/
theorem homeStep_alloc_none (ht : takeBlock s.stores.free (keyPart r.key) place cls = none) : homeStep s r =
    let w := replied s (porterDie r.porter) (allocBack s lead)
    if isUpd s r.core r.id then w.answer r.id (allocBack s lead) .none
    else w.modLatch r.core r.id fun l => { l with
      err := some { FaultRec.zero with
        cls := .resource, tinfo := BitVec.ofNat 64 cls, core := l.core, seq := l.seq, syll := l.syll }
      back := some (allocBack s lead) } := by
  simp only [homeStep, hm, allocBlock, ht]
  rfl

end Allocation

/-! ## The events -/

/-- Settles O35: each event takes its message; by what the message is and the state of its entry. -/
theorem homeEvents : Obligations.HomeEvents := by
  unfold Obligations.HomeEvents
  refine ⟨fun s id r e u hr he hu => ?_, fun s key d hd hst => ?freed⟩
  · subst he hu
    refine ⟨fun hreset i hi => ?reset, fun hrun => ?_⟩
    case reset => rw [exec_homeEvent hi, takeHome_reset hr hreset]; rfl
    have runs : ∀ {i : Instr} {t : State}, HomeEvent id r.msg i → homeStep (messageTaken s id) r = t → exec i s = .next t :=
      fun hi ht => by rw [exec_homeEvent hi, takeHome_runs hr hrun, ht]
    refine ⟨fun w hm => ?weight, fun hm => ?extend, fun w hm => ?query, fun rows cols fmt hm => ?sealed, fun hm => ?blank,
      fun cls place lead hm => ⟨fun base free ht => ?block, fun ht => ?none⟩⟩
    all_goals refine runs (by rw [hm]; rfl) ?_
    case weight =>
      rw [homeStep, hm]
      exact returnWeight_eq ..
    case extend => exact homeStep_extend hm _
    case query => exact homeStep_query hm _
    case sealed =>
      rw [homeStep, hm]
      rfl
    case blank =>
      rw [homeStep, hm]
      exact blankEntry_eq ..
    case block => exact homeStep_alloc_block hm ht
    case none => exact homeStep_alloc_none hm ht
  case freed =>
    subst hd
    exact congrArg Host.Outcome.next (if_pos hst)

end Sys2Proof.Laws
end

section
/-! SUPPORT. The matrix unit: what its words put in its queue (R97, R311, R370), which accumulator elements the row of a command
writes (R130, R310, R370), and O23. -/
namespace Sys2Proof.Laws
open Sys2Proof Sys2Proof.Machine Sys2Proof.Claims
-- In order: each thread of an elaboration in parallel reserves its stack, and the text is long.
set_option Elab.async false

/-! ## The words -/

/-- MMA takes its format word from the feeder queue (R97). -/
theorem run_mmaAct {v w : State} {f : Word64} (hq : (popQ 7 0x03).run v = .ok (some f, w))
    (hf : formatWordOk (isAttention w.cur.1) f = true) (ho : MatrixOpen w) (stamp : Nat) (sa sb : BitVec 4) (col ks : Nat)
    (acc ta pre : Bool) : (mmaAct stamp sa sb col ks acc ta pre).run v =
      .ok ((), multiplying w stamp (.mma sa sb col ks acc ta pre f)) := by
  rw [mmaAct, run_bind_ok hq]
  dsimp only
  rw [run_bind_ok (run_get w), run_bind_ok (run_need hf ..), run_bind_ok (run_enterMatrix ho ..), run_pure]

theorem run_mzeroAct {v : State} (ho : MatrixOpen v) (stamp col n : Nat) :
    (mzeroAct stamp col n).run v = .ok ((), multiplying v stamp (.mzero col n)) := by
  rw [mzeroAct, run_bind_ok (run_enterMatrix ho ..), run_pure]

theorem run_maccAct {v : State} (ho : MatrixOpen v) (stamp row col n : Nat) (acc int : Bool) (vs : BitVec 6) :
    (maccAct stamp row col n acc int vs).run v = .ok ((), multiplying v stamp (.macc row col n acc int vs)) := by
  rw [maccAct, run_bind_ok (run_enterMatrix ho ..), run_pure]

/-! ## MDRAIN (R311) -/

/-- A field of a word as a number. -/
theorem toNat_field (p : Word64) (lo n : Nat) : (p.extractLsb' lo n).toNat = p.toNat / 2 ^ lo % 2 ^ n := by
  rw [BitVec.extractLsb'_toNat, Nat.shiftRight_eq_div_pow]

/-- MDRAIN's reserved bits are zero where its operand is below 2^21. -/
theorem field_zero_of_lt {p : Word64} {lo n : Nat} (h : p.toNat < 2 ^ lo) : p.extractLsb' lo n = 0 := by
  apply BitVec.eq_of_toNat_eq
  rw [toNat_field, Nat.div_eq_of_lt h, Nat.zero_mod]
  rfl

/-- The block of the accumulators that an MDRAIN names is there and none of its columns is parked (R155, R311). -/
def BlockOk (v : State) (d : Drain) : Prop :=
  d.q + d.r ≤ arraySide v.cur.1 ∧ d.col + d.n ≤ columnCount v.cur.1 ∧ (v.core v.cur.1).parkedIn d.col d.n = false

/-- The blank that an MDRAIN names holds the result, in the core's own tile store, and the core has not borrowed it (R83, R311). -/
def DrainTarget (v : State) (d : Drain) : Prop :=
  UseOk v d.cap [kBlank] pW [1] ∧ tileBytes d.r d.n d.fmt ≤ classSize (v.dirEntry d.cap.key).cls ∧
    (d.cap.counted = true → (v.core v.cur.1).borrowed d.cap.key = false) ∧
    tileRange d.cap.addr.toNat (tileBytes d.r d.n d.fmt) = some (v.cur.1, d.base)

/-- The fields of MDRAIN's scalar operand (R311). -/
def DrainOperand (p : Word64) (d : Drain) : Prop :=
  p.toNat < 2 ^ 21 ∧ d.r = p.toNat % 256 + 1 ∧ d.q = p.toNat / 256 % 256 ∧ d.fmt = p.toNat / 65536 % 16 ∧ d.sat = p.getLsbD 20 ∧
    d.fmt ≠ 6 ∧ d.fmt ≤ 7

/-- The command enters, its rows go in flight, and a popped handle goes home with the last of them. -/
theorem run_mdrainAct {v v1 w : State} {hb : BitVec 5} {sr : BitVec 6} {p : Word64} {d : Drain} (hr : ReadsH v hb d.cap v1)
    (hs : ReadsS v1 sr p w) (hp : DrainOperand p d) (hcmd : d.cmd = w.nextId) (hblock : BlockOk w d) (htarget : DrainTarget w d)
    (ho : MatrixOpen w) : (mdrainAct d.rm hb d.col d.n sr).run v =
      .ok ((), droppingPopped (draining d d.r (multiplying w 6 (.mdrain d))) hb d.cap (5 + d.r)) := by
  obtain ⟨cmd, cap, base, col, n, r, q, fmt, rm, sat⟩ := d
  obtain ⟨hlt, rfl, rfl, rfl, rfl, h6, h7⟩ := hp
  obtain ⟨hrows, hcols, hparked⟩ := hblock
  obtain ⟨⟨hkind, hperm, hspace⟩, hfit, hborrow, htile⟩ := htarget
  dsimp only at *
  subst hcmd
  have rField : (p.extractLsb' 0 8).toNat = p.toNat % 256 := (toNat_field p 0 8).trans (congrArg (· % 256) (Nat.div_one _))
  have qField : (p.extractLsb' 8 8).toNat = p.toNat / 256 % 256 := toNat_field p 8 8
  have fmtField : (p.extractLsb' 16 4).toNat = p.toNat / 65536 % 16 := toNat_field p 16 4
  have reserved : (p.extractLsb' 21 43 == 0) = true := beq_iff_eq.2 (field_zero_of_lt hlt)
  have block : (decide (p.toNat / 256 % 256 + (p.toNat % 256 + 1) ≤ arraySide w.cur.1) && decide (col + n ≤ columnCount w.cur.1) &&
      !(w.core w.cur.1).parkedIn col n) = true := by
    rw [hparked, decide_eq_true hrows, decide_eq_true hcols]
    rfl
  rw [mdrainAct, run_bind_ok hr, run_bind_ok hs]
  simp only [rField, qField, fmtField]
  rw [run_bind_ok (run_need reserved ..), run_bind_ok (run_need (decide_eq_true ⟨h6, h7⟩) ..), run_bind_ok (run_checkKind hkind),
    run_bind_ok (run_checkPerm hperm w), run_bind_ok (run_checkSpace hspace w), run_bind_ok (run_get w), run_bind_ok (run_getCore w),
    run_bind_ok (run_need block ..), run_bind_ok (run_need (decide_eq_true hfit) ..), run_bind_ok (run_noBorrow hborrow),
    run_bind_ok (run_fixedTile htile), run_bind_ok (run_enterMatrix ho ..), run_bind_ok (run_drainRows ..), run_dropPopped]

/-- What the words of the matrix unit enter and put in flight. -/
theorem matrixWords : MatrixWords := by
  intro g s v h
  refine ⟨fun stamp sa sb col k acc ta pre f w hq hf ho => ?mma,
    fun stamp rm hb col k sr c p v1 w r q n fmt base d hr hs hn hr' hq hfmt hlt h6 h7 huse hrows hcols hparked hfit hborrow htile ho hd =>
      ?mdrain,
    fun stamp col k ho => ?mzero, fun stamp row col k acc int sr ho => ?macc⟩
  case mma => exact issueFall_completes h (run_mmaAct hq hf ho ..)
  case mdrain =>
    subst hd hn
    exact issueFall_completes h (run_mdrainAct (d := ⟨_, c, base, _, _, r, q, fmt, rm, _⟩) hr hs ⟨hlt, hr', hq, hfmt, rfl, h6, h7⟩ rfl ⟨hrows, hcols, hparked⟩
      ⟨huse, hfit, hborrow, htile⟩ ho)
  case mzero => exact issueFall_completes h (run_mzeroAct ho ..)
  case macc => exact issueFall_completes h (run_maccAct ho ..)

/-! ## The rows -/

@[simp] theorem length_accRow (k : Core) (row col n : Nat) : (k.accRow row col n).length = n := by
  rw [Core.accRow, List.length_map, List.length_range]

/-- A row written element by element from a function of the place in it. -/
theorem accAt_setAccRow_range (k : Core) {row col n : Nat} (f : Nat → BitVec 32) (h : col + n ≤ 1024) (r x : Nat) (hx : x < 1024) :
    (setAccRow k row col ((List.range n).map f)).accAt r x = if r = row ∧ col ≤ x ∧ x < col + n then f (x - col) else k.accAt r x := by
  have len : ((List.range n).map f).length = n := by rw [List.length_map, List.length_range]
  rw [accAt_setAccRow row r x hx _ k col (by rwa [len]), len]
  split
  next hin => rw [List.getD_eq_getElem _ _ (by omega), List.getElem_map, List.getElem_range]
  next => rfl

/-- R370: the columns are +0 in every row, every other element as it was. -/
theorem accAt_zeroCols (k : Core) (col n r x : Nat) (hx : x < 1024) :
    (k.zeroCols col n).accAt r x = if col ≤ x ∧ x < col + n then 0 else k.accAt r x := by
  have place : (1024 * r + x) % 1024 = x := by rw [Nat.mul_add_mod, Nat.mod_eq_of_lt hx]
  unfold Core.zeroCols Core.accAt
  rw [get_filter _ _ _ fun _ _ => rfl]
  dsimp only
  rw [place]
  by_cases hin : col ≤ x ∧ x < col + n
  · simp [hin]
  · rw [if_neg hin, if_pos (by simpa only [Bool.not_eq_true', Bool.and_eq_false_iff, decide_eq_false_iff_not, not_and_or] using hin)]

section Rows
variable {k : Core} {core : Nat} {c : MatCmd} {i : Nat}

theorem accAt_matRow_mma {sa sb : BitVec 4} {col ks : Nat} {acc ta pre : Bool} {fw : Word64}
    (hop : c.op = .mma sa sb col ks acc ta pre fw) (hcol : col + c.n ≤ 1024) (r x : Nat) (hx : x < 1024) :
    (matRow k core c i).accAt r x = if r = i ∧ col ≤ x ∧ x < col + c.n then
      (mmaRow core fw c ks ta i (if acc then k.accRow i col c.n else List.replicate c.n 0#32)).getD (x - col) 0
    else k.accAt r x := by
  have start : (if acc then k.accRow i col c.n else List.replicate c.n 0#32).length = c.n := by
    split
    · exact length_accRow ..
    · exact List.length_replicate
  have len := length_mmaRow core fw c ks ta i _ start
  simp only [matRow, hop]
  rw [accAt_setAccRow i r x hx _ k col (by rwa [len]), len]

theorem accAt_matRow_mzero {col n : Nat} (hop : c.op = .mzero col n) (r x : Nat) (hx : x < 1024) :
    (matRow k core c i).accAt r x = if col ≤ x ∧ x < col + n then 0 else k.accAt r x := by
  simp only [matRow, hop]
  exact accAt_zeroCols k col n r x hx

theorem accAt_matRow_macc {row col n : Nat} {acc int : Bool} {vs : BitVec 6} (hop : c.op = .macc row col n acc int vs)
    (hcol : col + n ≤ 1024) (r x : Nat) (hx : x < 1024) :
    (matRow k core c i).accAt r x = if r = row ∧ col ≤ x ∧ x < col + n then
      maccElement acc int (k.accAt row x) (BitVec.ofNat 32 (elemAt c.a 4 (x - col)))
    else k.accAt r x := by
  simp only [matRow, hop]
  rw [accAt_setAccRow_range k _ hcol r x hx]
  split
  next hin => rw [Nat.add_sub_cancel' hin.2.1]
  next => rfl

end Rows

/-- Which elements the row of each command writes, and that it writes no other. -/
theorem matrixRowsPerform : MatrixRowsPerform := fun _ _ _ _ =>
  ⟨fun _ _ _ _ _ _ _ _ hop hcol => accAt_matRow_mma hop hcol, fun _ _ hop => accAt_matRow_mzero hop,
    fun _ _ _ _ _ _ hop hcol => accAt_matRow_macc hop hcol⟩

/-- Settles O23: each word by its work, each row by its command. -/
theorem matrixUnit : Obligations.MatrixUnit := ⟨matrixWords, matrixRowsPerform⟩

end Sys2Proof.Laws
end

section
/-! SUPPORT. The frame records of ENTER and LEAVE (R156, R352, R364): what the words' work comes to, and O7. -/
namespace Sys2Proof.Laws
open Sys2Proof Sys2Proof.Machine
-- In order: each thread of an elaboration in parallel reserves its stack, and the text is long.
set_option Elab.async false

/-- A write of a core's own memory always goes in flight (R156). -/
@[simp] theorem run_storePrivate (lat : Nat) (a : Word64) (bs : List Byte) (s : State) : (storePrivate lat a bs).run s =
    .ok ((), flying s lat (.store (privateCap ((s.core s.cur.1).part.getD 0)) [⟨a.toNat, privAt s.cur.1 a.toNat, bs⟩])) := rfl

/-- A 16-byte access of a stack in order (R156). -/
theorem stackOk_of {q : Seq} {a : Word64} (ha : a.toNat % 16 = 0) (hq : q.stlimit.toNat ≤ q.stbase.toNat) : stackOk q a = true := by
  rw [stackOk, decide_eq_true ha, decide_eq_true hq]
  rfl

section Frames
variable {v : State} {q : Seq} (hq : q = v.seq v.cur.1 v.cur.2) (ho : q.stlimit.toNat ≤ q.stbase.toNat)
include hq ho

/-- ENTER writes the record of the caller's fp below sp. -/
theorem run_enterAct {sp fp : Word64} (hsp : sp = Tbl.get 0 q.s 63) (hfp : fp = Tbl.get 0 q.s 62) {n : BitVec 48}
    (ha : sp.toNat % 16 = 0) (hroom : q.stlimit.toNat + 16 + n.toNat ≤ sp.toNat) (hp : PrivateOk (sp - 16) 16) :
    (enterAct n).run v = .ok ((), flying (flying (flying v 1 (.setS 62 (sp - 16))) 1 (.setS 63 (sp - 16 - n.setWidth 64)))
      (v.dC v.cur.1 + 4) (.store (privateCap ((v.core v.cur.1).part.getD 0))
        [⟨(sp - 16).toNat, privAt v.cur.1 (sp - 16).toNat, toBytes 8 fp.toNat ++ toBytes 8 0⟩])) := by
  subst hq hsp hfp
  have stack := Bool.and_eq_true_iff.2 ⟨stackOk_of ha ho,
    decide_eq_true (show ((v.seq v.cur.1 v.cur.2).stlimit.toNat : Int) ≤ (Tbl.get 0 (v.seq v.cur.1 v.cur.2).s 63).toNat - 16 - n.toNat by
      omega)⟩
  rw [enterAct, run_bind_ok (run_getSeq v)]
  dsimp only
  rw [run_bind_ok (run_need stack ..), run_bind_ok (run_checkPrivate hp), run_bind_ok (run_result ..), run_bind_ok (run_result ..),
    run_bind_ok (run_getD _), run_storePrivate]
  rfl

/-- LEAVE takes fp from the record at fp and puts sp above it. -/
theorem run_leaveAct {fp : Word64} (hfp : fp = Tbl.get 0 q.s 62) (ha : fp.toNat % 16 = 0) (hroom : fp.toNat + 16 ≤ q.stbase.toNat)
    (hp : PrivateOk fp 16) : leaveAct.run v = .ok ((), flyingOr (flying v 1 (.setS 63 (fp + 16))) (2 * v.dC v.cur.1 + 4)
      (.setS 62 (v.mem.read64 (privAt v.cur.1 fp.toNat))) (poisonOf v (privAt v.cur.1 fp.toNat) 8 fp.toNat)) := by
  subst hq hfp
  have stack := Bool.and_eq_true_iff.2 ⟨stackOk_of ha ho, decide_eq_true hroom⟩
  rw [leaveAct, run_bind_ok (run_getSeq v)]
  dsimp only
  rw [run_bind_ok (run_need stack ..), run_bind_ok (run_checkPrivate hp), run_bind_ok (run_result ..), run_bind_ok (run_get _), run_resultOr]
  rfl

end Frames

/-- Settles O7: each word by its work. -/
theorem stackFrames : Obligations.StackFrames := by
  unfold Obligations.StackFrames
  intro g s v q sp fp h hq hsp hfp ho
  exact ⟨fun n ha hroom hp => issueFall_completes h (run_enterAct hq ho hsp hfp ha hroom hp),
    fun ha hroom hp => issueFall_completes h (run_leaveAct hq ho hfp ha hroom hp)⟩

end Sys2Proof.Laws
end

section
/-! SUPPORT. The fields of capabilities that words make of others (R66, R149, R342), the bounds that CAPSET encodes (R343), and O18. -/
namespace Sys2Proof.Laws
open Sys2Proof Sys2Proof.Machine
-- In order: each thread of an elaboration in parallel reserves its stack, and the text is long.
set_option Elab.async false

/-! ## The fields of a pointer (R149) -/

/-- The lowest of the fields put together, as a number. -/
theorem toNat_lowest {v : Nat} (x : BitVec v) (n k : Nat) : ((x ++ BitVec.ofNat n k).extractLsb' 0 n).toNat = k % 2 ^ n := by
  rw [BitVec.extractLsb'_append_eq_right, BitVec.toNat_ofNat]

section PointerFields
variable (tag : Bool) (space : BitVec 4) (perms : BitVec 8) (e bm lm : Nat) (part : BitVec 5) (cursor : Word64)

@[simp] theorem pointerCap_addr : (pointerCap tag space perms e bm lm part cursor).addr = cursor := BitVec.extractLsb'_append_eq_right

@[simp] theorem pointerCap_part : (pointerCap tag space perms e bm lm part cursor).part = part := by
  unfold pointerCap Cap.part
  rw [BitVec.extractLsb'_append_eq_of_le (by decide)]
  exact BitVec.extractLsb'_append_eq_right

@[simp] theorem pointerCap_lm : (pointerCap tag space perms e bm lm part cursor).lm = lm % 2 ^ 18 := by
  unfold pointerCap Cap.lm
  repeat rw [BitVec.extractLsb'_append_eq_of_le (by decide)]
  exact toNat_lowest ..

@[simp] theorem pointerCap_bm : (pointerCap tag space perms e bm lm part cursor).bm = bm % 2 ^ 18 := by
  unfold pointerCap Cap.bm
  repeat rw [BitVec.extractLsb'_append_eq_of_le (by decide)]
  exact toNat_lowest ..

@[simp] theorem pointerCap_exp : (pointerCap tag space perms e bm lm part cursor).exp = e % 2 ^ 6 := by
  unfold pointerCap Cap.exp
  repeat rw [BitVec.extractLsb'_append_eq_of_le (by decide)]
  exact toNat_lowest ..

@[simp] theorem pointerCap_perms : (pointerCap tag space perms e bm lm part cursor).perms = perms := by
  unfold pointerCap Cap.perms
  repeat rw [BitVec.extractLsb'_append_eq_of_le (by decide)]
  exact BitVec.extractLsb'_append_eq_right

@[simp] theorem pointerCap_kind : (pointerCap tag space perms e bm lm part cursor).kind = kPointer := by
  unfold pointerCap Cap.kind
  repeat rw [BitVec.extractLsb'_append_eq_of_le (by decide)]
  exact BitVec.extractLsb'_append_eq_right

@[simp] theorem pointerCap_space : (pointerCap tag space perms e bm lm part cursor).space = space := by
  unfold pointerCap Cap.space
  repeat rw [BitVec.extractLsb'_append_eq_of_le (by decide)]
  exact BitVec.extractLsb'_eq_self

end PointerFields

/-! ## CAPSET (R343) -/

/-- Rounding up to a multiple goes up. -/
theorem le_roundedUp (t : Nat) {d : Nat} (hd : 0 < d) : t ≤ (t + d - 1) / d * d := by
  have h := Nat.lt_mul_div_succ (t + d - 1) hd
  rw [Nat.mul_succ, Nat.mul_comm] at h
  omega

/-- Encoded bounds hold what is to be encoded. -/
theorem encodeBounds_outward {b t e bm lm b2 t2 : Nat} (h : encodeBounds b t 47 0 = some (e, bm, lm, b2, t2)) : b2 ≤ b ∧ t ≤ t2 := by
  obtain ⟨-, -, -, -, -, hlo, hhi⟩ := encodeBounds_some h
  dsimp only at hlo hhi
  subst hlo hhi
  exact ⟨Nat.div_mul_le_self .., le_roundedUp t (Nat.two_pow_pos e)⟩

/-- A pointer at the start of what its bounds encode decodes to the encoded bounds (R150). -/
theorem pointerCap_bounds {a : Word64} {t e bm lm b2 t2 : Nat} (h : encodeBounds a.toNat t 47 0 = some (e, bm, lm, b2, t2))
    (ht : a.toNat ≤ t) (tag : Bool) (space : BitVec 4) (perms : BitVec 8) (part : BitVec 5) :
    (pointerCap tag space perms e bm lm part a).bounds = (b2, t2) := by
  obtain ⟨-, he, hbm, hlm, hle, hlo, hhi⟩ := encodeBounds_some h
  dsimp only at he hbm hlm hle hlo hhi
  subst hbm hlo hhi
  have pos : 0 < 2 ^ e := Nat.two_pow_pos e
  have exponent : (pointerCap tag space perms e (a.toNat / 2 ^ e % 2 ^ 18) lm part a).exp = e := by
    rw [pointerCap_exp, Nat.mod_eq_of_lt (by omega)]
  have length : (pointerCap tag space perms e (a.toNat / 2 ^ e % 2 ^ 18) lm part a).lm = lm := by
    rw [pointerCap_lm, Nat.mod_eq_of_lt (by omega)]
  have ordered : a.toNat / 2 ^ e ≤ (t + 2 ^ e - 1) / 2 ^ e := Nat.div_le_div_right (by omega)
  have bottom := bounds_of_mantissa (pointerCap tag space perms e (a.toNat / 2 ^ e % 2 ^ 18) lm part a) (a.toNat / 2 ^ e)
    (by rw [pointerCap_bm, Nat.mod_mod]) (by rw [exponent, pointerCap_addr])
  rw [bottom, exponent, length, ← Nat.add_mul, hlm, Nat.add_sub_cancel' ordered]

/-- A CAPSET that does not fault encodes the bytes at the cursor within the pointer's own bounds. -/
theorem capset_some {c r : Cap} {n : Word64} {exact : Bool} (h : capset c n exact = some r) :
    ∃ e bm lm b2 t2, encodeBounds c.addr.toNat (c.addr.toNat + n.toNat) 47 0 = some (e, bm, lm, b2, t2) ∧
      (exact = true → b2 = c.addr.toNat ∧ t2 = c.addr.toNat + n.toNat) ∧ c.bounds.1 ≤ b2 ∧ t2 ≤ c.bounds.2 ∧
      r = pointerCap true c.space c.perms e bm lm c.part c.addr := by
  simp only [capset] at h
  split at h
  next => cases h
  next =>
    split at h
    next => cases h
    next e bm lm b2 t2 henc =>
      split at h
      next => cases h
      next hexact =>
        split at h
        next => cases h
        next hin =>
          refine ⟨e, bm, lm, b2, t2, henc, fun hx => ?_, by omega, by omega, (Option.some.inj h).symm⟩
          simpa [hx] using hexact

/-! ## CAPOFF (R150) -/

@[simp] theorem withAddr_addr (c : Cap) (a : Word64) (tag : Bool) : (c.withAddr a tag).addr = a := BitVec.extractLsb'_append_eq_right

@[simp] theorem withAddr_hi (c : Cap) (a : Word64) (tag : Bool) : (c.withAddr a tag).hi = c.hi := BitVec.extractLsb'_append_eq_left

/-- A tag that stands after the cursor moved was there, and the bounds decode as before. -/
theorem setCursor_tag {c : Cap} {a : Word64} (h : (c.setCursor a).tag = true) : c.tag = true ∧ (c.setCursor a).bounds = c.bounds := by
  have h' : (c.tag && representable c.bounds.1 (c.exp + 18) a.toNat && decide ((c.withAddr a true).bounds = c.bounds)) = true := h
  simp only [Bool.and_eq_true, decide_eq_true_eq] at h'
  obtain ⟨⟨htag, -⟩, hbounds⟩ := h'
  exact ⟨htag, hbounds⟩

/-! ## CAPPERM (R342) -/

/-- The mask meets the permissions alone. -/
theorem restrict_getLsbD (c : Cap) (m : BitVec 8) (i : Nat) :
    (c.restrict m).bits.getLsbD i = (c.bits.getLsbD i && (decide (i < 112 ∨ 120 ≤ i) || m.getLsbD (i - 112))) := by
  have ones : 0xFF#128 = (BitVec.allOnes 8).setWidth 128 := by decide
  by_cases hi : i < 128
  · have narrow : i - 112 < 128 := by omega
    simp only [Cap.restrict, ones, BitVec.getLsbD_and, BitVec.getLsbD_or, BitVec.getLsbD_not, BitVec.getLsbD_shiftLeft,
      BitVec.getLsbD_setWidth, BitVec.getLsbD_allOnes, hi, narrow, decide_true, Bool.true_and]
    rcases lt_or_ge i 112 with hlow | hlow
    · simp [hlow]
    · by_cases hhigh : i < 120
      · simp [hlow.not_gt, hhigh.not_ge, show i - 112 < 8 by omega]
      · simp [hlow.not_gt, not_lt.1 hhigh, show ¬ i - 112 < 8 by omega]
  · rw [BitVec.getLsbD_of_ge _ _ (by omega), BitVec.getLsbD_of_ge _ _ (by omega), Bool.false_and]

/-- Every field outside the permissions stands. -/
theorem restrict_field (c : Cap) (m : BitVec 8) {lo n : Nat} (h : lo + n ≤ 112 ∨ 120 ≤ lo) :
    (c.restrict m).bits.extractLsb' lo n = c.bits.extractLsb' lo n := by
  apply BitVec.eq_of_getLsbD_eq
  intro i hi
  rw [BitVec.getLsbD_extractLsb', BitVec.getLsbD_extractLsb', restrict_getLsbD,
    decide_eq_true (show lo + i < 112 ∨ 120 ≤ lo + i by omega), Bool.true_or, Bool.and_true]

theorem restrict_perms (c : Cap) (m : BitVec 8) : (c.restrict m).perms = c.perms &&& m := by
  apply BitVec.eq_of_getLsbD_eq
  intro i hi
  rw [BitVec.getLsbD_and, Cap.perms, Cap.perms, BitVec.getLsbD_extractLsb', BitVec.getLsbD_extractLsb', restrict_getLsbD,
    decide_eq_false (show ¬ (112 + i < 112 ∨ 120 ≤ 112 + i) by omega), Bool.false_or, Nat.add_sub_cancel_left, Bool.and_assoc]

/-- Settles O18: CAPSET by the bounds it encodes, CAPOFF and CAPPERM by the fields they replace. -/
theorem capabilitiesNarrow : Obligations.CapabilitiesNarrow := by
  unfold Obligations.CapabilitiesNarrow
  refine ⟨fun c r n exact _ h => ?capset, fun c a => ⟨withAddr_addr .., withAddr_hi .., setCursor_tag⟩, fun c m => ?capperm⟩
  case capset =>
    obtain ⟨e, bm, lm, b2, t2, henc, hexact, hbase, htop, rfl⟩ := capset_some h
    obtain ⟨hlo, hhi⟩ := encodeBounds_outward henc
    rw [pointerCap_bounds henc (Nat.le_add_right ..)]
    exact ⟨rfl, pointerCap_kind .., pointerCap_space .., pointerCap_perms .., pointerCap_part .., pointerCap_addr .., hbase, hlo, hhi, htop,
      fun hx => Prod.ext_iff.2 (hexact hx)⟩
  case capperm =>
    exact ⟨restrict_perms c m, rfl, restrict_field c m (by omega), restrict_field c m (by omega), restrict_field c m (by omega),
      restrict_field c m (by omega)⟩

end Sys2Proof.Laws
end

section
/-! SUPPORT. Geometry records, operand slots, and the entries of the words that fill slots and append (R152, R257, R269, R332, R347,
R354, R355, R384, R404): what the shared work comes to, and O21. -/
namespace Sys2Proof.Laws
open Sys2Proof Sys2Proof.Machine
-- In order: each thread of an elaboration in parallel reserves its stack, and the text is long.
set_option Elab.async false

/-! ## GSET (R354, R355) -/

/-- A word with its literal passes on to the next word once its work is done. -/
theorem issueFall2_completes {g : Guard} {off body : Act Unit} {s v v' : State} (h : Issuing g s v) (hb : body.run v = .ok ((), v')) :
    issueN 2 g off (do body; pure .fall) s = .next (issued 2 .fall v') :=
  issueN_completes h (run_bind_ok hb _) (fun _ => by simp)

theorem run_gsetLAct {v : State} {lit : Word96} {o : Overlay} (ho : v.activeOverlay = some o) (hlo : o.geomLo ≤ lit.toNat % 2 ^ 48)
    (hhi : lit.toNat % 2 ^ 48 < o.geomHi) (gr : BitVec 5) :
    (gsetLAct gr lit).run v = .ok ((), readingHbm v 96 (.geom (lit.toNat % 2 ^ 48)) (.setG gr Geom.reset)) := by
  rw [gsetLAct, run_bind_ok (run_get v)]
  dsimp only
  rw [ho, run_bind_ok (run_need (Bool.and_eq_true_iff.2 ⟨decide_eq_true hlo, decide_eq_true hhi⟩) ..), run_readHbm]

theorem run_gsetRAct {v v1 : State} {ha : BitVec 5} {lit : Word96} {c : Cap} (hr : ReadsH v ha c v1) (hu : UseOk v1 c [kPointer] pR [0, 5])
    (hlo : c.bounds.1 ≤ (offsetAddr c.addr (lit.setWidth 48)).toNat)
    (hhi : (offsetAddr c.addr (lit.setWidth 48)).toNat + 96 ≤ c.bounds.2) (gr : BitVec 5) :
    (gsetRAct ha gr lit).run v =
      .ok ((), readingHbm v1 96 (.geom (offsetAddr c.addr (lit.setWidth 48)).toNat) (.setG gr Geom.reset)) := by
  obtain ⟨hkind, hperm, hspace⟩ := hu
  rw [gsetRAct, run_bind_ok hr, run_bind_ok (run_checkKind hkind), run_bind_ok (run_checkPerm hperm v1),
    run_bind_ok (run_checkSpace hspace v1)]
  dsimp only
  rw [checkBounds, run_bind_ok (run_need (Bool.and_eq_true_iff.2 ⟨decide_eq_true hlo, decide_eq_true hhi⟩) ..), run_readHbm]

/-! ## CLAIM and RELEASE (R152, R347, R384) -/

theorem run_claimAct {v : State} {n : BitVec 4} (h : ((v.core v.cur.1).slot n).state = .free) :
    (claimAct n).run v = .ok ((), flying v 1 (.slot n .claimedEmpty)) := by
  rw [claimAct, run_bind_ok (run_getCore v), run_bind_ok (run_need (decide_eq_true h) ..), run_result]

theorem run_releaseAct {v : State} {n : BitVec 4} (h : ((v.core v.cur.1).slot n).state ≠ .free) (hbusy : v.slotBusy v.cur.1 n = false)
    (hfed : (v.core v.cur.1).fedAfter n v.ttc = false) : (releaseAct n).run v = .ok ((), flying v 1 (.slot n .free)) := by
  have idle : (decide (((v.core v.cur.1).slot n).state ≠ .free) && !v.slotBusy v.cur.1 n && !(v.core v.cur.1).fedAfter n v.ttc) = true := by
    rw [decide_eq_true h, hbusy, hfed]
    rfl
  rw [releaseAct, run_bind_ok (run_get v), run_bind_ok (run_getCore v), run_bind_ok (run_need idle ..), run_result]

/-! ## TLD (R269, R404) -/

section Fills
variable {v v1 v2 : State} {ha : BitVec 5} {n : BitVec 4} {stamp : BitVec 20} {c : Cap}

theorem run_tldWAct {e : DirEntry} (hr : ReadsH v ha c v1) (he : e = v1.tileEntry c.key) (hu : UseOk v1 c [kTile] pR [0, 1])
    (hn : SlotOk v1 n true) (hfit : tileBytes e.rows e.cols e.fmt ≤ slotSize v1.cur.1)
    (hroom : RoomIn (stamping v1 stamp (.slot n .claimedFilled)).2 qCopy) :
    (tldWAct n ha stamp).run v = .ok ((), copying v1 stamp (.slot n .claimedFilled)
      (.tldTile n c (tileBytes e.rows e.cols e.fmt) e.rows e.cols e.fmt) [c] [] (pops1 ha c) none 0) := by
  subst he
  rw [tldWAct, run_bind_ok hr, run_bind_ok (run_checkTile hu), run_bind_ok (run_checkSlot hn), run_bind_ok (run_get v1)]
  dsimp only
  rw [run_bind_ok (run_need (decide_eq_true hfit) ..), popsOf_one]
  exact run_enterCopying hroom ..

theorem run_tldRAct {gr : BitVec 5} {f : BitVec 4} {cnt : BitVec 3} {post clip perm : BitVec 1} {rows cols : Nat} {r : Region}
    (hr : ReadsH v ha c v1) (hregion : r = (v1.core v1.cur.1).region c gr f cnt rows cols clip perm)
    (hu : UseOk v1 c [kPointer, kTile] pR [0, 1]) (hok : RegionOk v1 r) (hn : SlotOk v1 n true)
    (hfit : rows * cols * r.width ≤ slotSize v1.cur.1) (hroom : RoomIn (stamping v1 stamp (.slot n .claimedFilled)).2 qCopy) :
    (tldRAct n ha gr f cnt post clip perm stamp rows cols).run v = .ok ((), stepping
      (copying v1 stamp (.slot n .claimedFilled) (.tldRegion n r) [c] [] (pops1 ha c) none 0) post f cols) := by
  subst hregion
  rw [tldRAct, run_bind_ok hr, run_bind_ok (run_checkSource hu), run_bind_ok (run_getCore v1)]
  dsimp only
  rw [run_bind_ok (run_checkTensor hok), run_bind_ok (run_checkSlot hn), run_bind_ok (run_get v1),
    run_bind_ok (run_need (decide_eq_true hfit) ..), popsOf_one, run_bind_ok (run_stamped ..), run_bind_ok (run_enter hroom ..), run_postInc]
  rfl

/-! ## GATHER and APPEND (R257, R332) -/

theorem run_gatherAct {sr : BitVec 6} {x : Word64} (hr : ReadsH v ha c v1) (hs : ReadsS v1 sr x v2) (hu : UseOk v2 c [kPointer] pR [5])
    (hc : CursorOk c 64) (hn : SlotOk v2 n false) (hroom : RoomIn (stamping v2 stamp (.slot n .claimedFilled)).2 qCopy) (values : Bool) :
    (gatherAct n ha sr stamp values).run v = .ok ((), copying v2 stamp (.slot n .claimedFilled)
      (.gather n c (x.toNat / 2 ^ 24) (x.toNat % 2 ^ 24) values) [c] [] (pops1 ha c) none 0) := by
  have lenField : (x.extractLsb' 24 40).toNat = x.toNat / 2 ^ 24 := by
    rw [toNat_field, Nat.mod_eq_of_lt (by omega)]
  have pageField : (x.extractLsb' 0 24).toNat = x.toNat % 2 ^ 24 := by
    rw [toNat_field, Nat.pow_zero, Nat.div_one]
  rw [gatherAct, run_bind_ok hr, run_bind_ok hs, run_bind_ok (run_checkSeqTable hu hc), run_bind_ok (run_checkSlot hn), popsOf_one,
    lenField, pageField]
  exact run_enterCopying hroom ..

end Fills

theorem run_appendAct {v v1 v2 v3 : State} {hd ha : BitVec 5} {sr : BitVec 6} {t c : Cap} {x : Word64} (ht : ReadsH v hd t v1)
    (hr : ReadsH v1 ha c v2) (hs : ReadsS v2 sr x v3) (hut : UseOk v3 t [kTile] pR [0, 1]) (huc : UseOk v3 c [kPointer] pW [5])
    (hc : CursorOk c 64) (hroom : RoomIn v3 qCopy) : (appendAct hd ha sr).run v = .ok ((), entering v3 qCopy
      (newEntry v3 (.append t c x) [t] [] (pops1 hd t ++ pops1 ha c) none 0 none [])) := by
  rw [appendAct, run_bind_ok ht, run_bind_ok hr, run_bind_ok hs, run_bind_ok (run_checkTile hut), run_bind_ok (run_checkSeqTable huc hc),
    popsOf_two, run_bind_ok (run_enter hroom ..), run_pure]

/-! ## The words -/

/-- Settles O21: each word by its work. -/
theorem slotAndGeometryWords : Obligations.SlotAndGeometryWords := by
  unfold Obligations.SlotAndGeometryWords
  intro g s v h
  refine ⟨fun gr lit o ho hlo hhi => ?gsetL, fun ha gr lit c a v1 hr hu haddr hlo hhi => ?gsetR, fun hd hfree => ?claim,
    fun hd hheld hbusy hfed => ?release, fun hd ha stamp c v1 hr hu hn hfit hroom => ?tldW,
    fun hd ha gr f cnt post clip perm stamp imm rows cols c r v1 hr hrows hcols hregion hu hok hn hfit hroom => ?tldR,
    fun values hd ha sr stamp c x v1 v2 hr hs hu hc hn hroom => ?gather,
    fun hd ha sr t c x v1 v2 v3 ht hr hs hut huc hc hroom => ?append⟩
  case gsetL => exact issueFall2_completes h (run_gsetLAct ho hlo hhi gr)
  case gsetR =>
    subst haddr
    exact issueFall2_completes h (run_gsetRAct hr hu hlo hhi gr)
  case claim => exact issueFall_completes h (run_claimAct hfree)
  case release => exact issueFall_completes h (run_releaseAct hheld hbusy hfed)
  case tldW => exact issueFall_completes h (run_tldWAct hr rfl hu hn hfit hroom)
  case tldR =>
    subst hrows hcols
    exact issueFall_completes h (run_tldRAct hr hregion hu hok hn hfit hroom)
  case gather =>
    cases values with
    | false => exact issueFall_completes h (run_gatherAct hr hs hu hc hn hroom false)
    | true => exact issueFall_completes h (run_gatherAct hr hs hu hc hn hroom true)
  case append => exact issueFall_completes h (run_appendAct ht hr hs hut huc hc hroom)

end Sys2Proof.Laws
end

section
/-! SUPPORT. What porters do with the requests they take (R170-R178): operations on cells, arrivals at barriers, polls; O15 and O16. -/
namespace Sys2Proof.Laws
open Sys2Proof Sys2Proof.Machine Sys2Proof.Claims
-- In order: each thread of an elaboration in parallel reserves its stack, and the text is long.
set_option Elab.async false

/-! ## Taking a request (R170, R173) -/

section Taken
variable {s : State} {p : BitVec 10} {r : PorterReq}

/-- Taking the request from its inbox changes nothing that the porter looks at. -/
theorem taken_facts {arrival : Bool} (h : Takes s p r arrival) : s.porterHead p.toNat arrival = some r ∧
    ((takeRequest s r).die (dieOfPorter (porterOf r.cell))).state ≠ .reset ∧ porterRefuses (takeRequest s r) r = none ∧
    (takeRequest s r).cellPoisoned r.cell = false := h

/-- An operation that its porter takes has its effect and retires. -/
theorem exec_porterOperation (h : Takes s p r false) (hw : ∀ c b, r.op ≠ .waitv c b) :
    exec (.porterOperation p) s = .next ((cellEffect (takeRequest s r) r).retirePorter r) := by
  obtain ⟨hhead, up, granted, sound⟩ := taken_facts h
  show Host.Outcome.next (porterOperation s p.toNat) = _
  rw [porterOperation, hhead]
  dsimp only
  rw [porterPerform, if_neg up, granted]
  dsimp only
  split
  next c b hop => exact absurd hop (hw c b)
  next => rw [sound, Bool.false_and, if_neg Bool.false_ne_true]

/-- Its memory is what the effect left: an entry that retires touches none. -/
theorem exec_porterOperation_mem (h : Takes s p r false) (hw : ∀ c b, r.op ≠ .waitv c b) :
    ∃ t, exec (.porterOperation p) s = .next t ∧ t.mem = (cellEffect (takeRequest s r) r).mem :=
  ⟨_, exec_porterOperation h hw, mem_retirePorter ..⟩

/-- A WAITV that its porter takes is tested there (R176). -/
theorem exec_porterOperation_waitv (h : Takes s p r false) {c : Nat} {b : Bool} (hw : r.op = .waitv c b) :
    exec (.porterOperation p) s = .next (waitvEffect (takeRequest s r) r) := by
  obtain ⟨hhead, up, granted, sound⟩ := taken_facts h
  show Host.Outcome.next (porterOperation s p.toNat) = _
  rw [porterOperation, hhead]
  dsimp only
  rw [porterPerform, if_neg up, granted]
  dsimp only
  rw [hw]
  dsimp only
  rw [sound, if_neg Bool.false_ne_true]

/-- An arrival that its porter takes counts (R178). -/
theorem exec_barrierArrival (h : Takes s p r true) : exec (.barrierArrival p) s =
    .next ((takeRequest s r).putBarrier r.cell (((takeRequest s r).barrier r.cell).arrive (r.arrival.getD 0))) := by
  obtain ⟨hhead, up, granted, sound⟩ := taken_facts h
  show Host.Outcome.next (barrierArrival s p.toNat) = _
  rw [barrierArrival, hhead]
  dsimp only
  rw [barrierArrive, if_neg up, granted]
  dsimp only
  rw [sound, if_neg Bool.false_ne_true]

end Taken

/-! ## What an operation leaves in memory (R171, R174, R175, R178) -/

section Effects
variable {s : State} {r : PorterReq}

/-- The operations on one cell that may write it (R171, R174), but for an enqueue. -/
abbrev oneCellOps : List CellOp := [.add, .min, .max, .swap, .cas, .redAdd, .redMin, .redMax, .st]

/-- They write it, if anything, with what R171 and R174 leave there. -/
theorem cellWrites_one (hop : r.op ∈ oneCellOps) (old : Word64) :
    cellWrites r old = [(r.cell, cellNew r.op old r.v r.w)] ∨ cellWrites r old = [] ∧ cellNew r.op old r.v r.w = old := by
  have written : r.op ≠ .cas → cellWrites r old = [(r.cell, cellNew r.op old r.v r.w)] := by
    intro hcas
    simp only [oneCellOps, List.mem_cons, List.not_mem_nil, or_false, hcas, false_or] at hop
    unfold cellWrites
    rcases hop with h | h | h | h | h | h | h | h <;> rw [h] <;> rfl
  by_cases hcas : r.op = .cas
  · unfold cellWrites
    rw [hcas]
    dsimp only [cellNew]
    split
    · exact .inl rfl
    · exact .inr ⟨rfl, rfl⟩
  · exact .inl (written hcas)

/-- An operation that has no arm of its own leaves the writes of its cells. -/
theorem mem_cellEffect (hop : r.op ∉ [CellOp.cas2, .hxch, .bcnt, .chase]) :
    (cellEffect s r).mem = (cellWrites r (s.cell r.cell)).foldl (fun (m : Memory) p => m.write64 (cellAt p.1) p.2) s.mem := by
  simp only [List.mem_cons, List.not_mem_nil, or_false, not_or] at hop
  obtain ⟨hcas2, hhxch, hbcnt, hchase⟩ := hop
  unfold cellEffect
  dsimp only
  split
  next h => exact absurd h hcas2
  next h => exact absurd h hhxch
  next h => exact absurd h hbcnt
  next h => exact absurd h hchase
  next => rw [mem_porterReply, mem_putCells]

/-- An operation on one cell leaves its new value there, and every other byte as it was. -/
theorem cellEffect_one (hop : r.op ∈ oneCellOps) :
    (cellEffect s r).mem.read64 (cellAt r.cell) = cellNew r.op (s.cell r.cell) r.v r.w ∧
      ∀ a, ¬ (cellAt r.cell ≤ a ∧ a < cellAt r.cell + 8) → (cellEffect s r).mem.byte a = s.mem.byte a := by
  have plain : r.op ∉ [CellOp.cas2, .hxch, .bcnt, .chase] := fun hown => by
    simp only [List.mem_cons, List.not_mem_nil, or_false] at hown
    rcases hown with h | h | h | h <;> simp [h] at hop
  rw [mem_cellEffect plain]
  obtain hw | ⟨hw, hsame⟩ := cellWrites_one hop (s.cell r.cell)
  · rw [hw, List.foldl_cons, List.foldl_nil]
    exact ⟨cell_write, apart_write (length_toBytes ..)⟩
  · rw [hw, hsame]
    exact ⟨rfl, fun _ _ => rfl⟩

theorem mem_cellEffect_cas2 (hop : r.op = .cas2) : (cellEffect s r).mem =
    if s.cell r.cell = r.v ∧ s.cell (r.cell + 1) = r.v2 then s.mem.write (cellAt r.cell) (toBytes 8 r.w.toNat ++ toBytes 8 r.w2.toNat)
    else s.mem := by
  rw [cellEffect, hop]
  dsimp only
  rw [mem_porterReply, apply_ite State.mem, mem_putPair]

theorem mem_cellEffect_hxch (hop : r.op = .hxch) : (cellEffect s r).mem = s.mem.writeCap (cellAt r.cell) r.cap := by
  rw [cellEffect, hop]
  dsimp only
  rw [mem_porterReply, mem_putCap]

/-- A read writes nothing, however many links it follows. -/
theorem mem_cellEffect_reads (hop : r.op ∈ [CellOp.ld, .chase]) : (cellEffect s r).mem = s.mem := by
  simp only [List.mem_cons, List.not_mem_nil, or_false] at hop
  obtain hop | hop := hop
  · rw [mem_cellEffect (by simp [hop]), cellWrites, hop]
    rfl
  · rw [cellEffect, hop]
    dsimp only
    rw [mem_porterReply]

/-- An enqueue writes its queue's own cell last (R174). -/
theorem cellEffect_enq (hop : r.op = .enq) : (cellEffect s r).mem.read64 (cellAt r.cell) = r.v := by
  rw [mem_cellEffect (by simp [hop]), cellWrites, hop]
  dsimp only
  rw [← List.cons_append, List.foldl_append]
  exact cell_write

theorem cellEffect_bcnt (hop : r.op = .bcnt) : cellEffect s r = s.putBarrier r.cell ((s.barrier r.cell).post r.v) := by
  rw [cellEffect, hop]

end Effects

/-! ## Bytes outside what an operation writes -/

theorem length_pair (x y : Word64) : (toBytes 8 x.toNat ++ toBytes 8 y.toNat).length = 16 := by simp

theorem byte_writeCap_apart (m : Memory) {a c : Nat} (x : Cap) (h : ¬ (a ≤ c ∧ c < a + 16)) : (m.writeCap a x).byte c = m.byte c :=
  apart_write (by simp) c h

theorem byte_putBarrier_apart (s : State) (n : Nat) (b : Barrier) {a : Nat} (h : ¬ (cellAt n ≤ a ∧ a < cellAt n + 16)) :
    (s.putBarrier n b).mem.byte a = s.mem.byte a := by
  rw [State.putBarrier, mem_putPair]
  exact apart_write (length_pair ..) a h

/-- Settles O15: each operation by what its effect leaves in memory. -/
theorem porterOperations : Obligations.PorterOperations := by
  unfold Obligations.PorterOperations
  intro s p r h
  refine ⟨fun hop => ?one, fun hop => ?reads, fun hop => ?cas2, fun hop => ?hxch, fun hop => ?enq, fun hop => ?bcnt⟩
  case one =>
    obtain ⟨t, ht, hm⟩ := exec_porterOperation_mem h fun c b hw => by simp [hw] at hop
    refine ⟨t, ht, ?_⟩
    dsimp only [State.cell]
    rw [hm]
    exact cellEffect_one hop
  case reads =>
    obtain hop | ⟨c, b, hop⟩ := hop
    · obtain ⟨t, ht, hm⟩ := exec_porterOperation_mem h fun c b hw => by simp [hw] at hop
      exact ⟨t, ht, hm.trans (mem_cellEffect_reads hop)⟩
    · exact ⟨_, exec_porterOperation_waitv h hop, mem_waitvEffect ..⟩
  case cas2 =>
    obtain ⟨t, ht, hm⟩ := exec_porterOperation_mem h (by simp [hop])
    rw [mem_cellEffect_cas2 hop] at hm
    refine Exists.intro t (And.intro ht ?_)
    rw [ite_prop_iff_and]
    refine ⟨fun heq => ?_, fun hne => hm.trans (if_neg hne)⟩
    have hm' := hm.trans (if_pos heq)
    dsimp only [State.cell]
    rw [cellAt_succ, hm']
    exact ⟨pair_lo .., pair_hi .., apart_write (length_pair ..)⟩
  case hxch =>
    obtain ⟨t, ht, hm⟩ := exec_porterOperation_mem h (by simp [hop])
    rw [mem_cellEffect_hxch hop] at hm
    exact ⟨t, ht, by rw [hm, readCap_writeCap], fun a ha => by rw [hm]; exact byte_writeCap_apart _ _ ha⟩
  case enq =>
    obtain ⟨t, ht, hm⟩ := exec_porterOperation_mem h (by simp [hop])
    exact ⟨t, ht, by rw [State.cell, hm, cellEffect_enq hop]⟩
  case bcnt =>
    obtain ⟨t, ht, hm⟩ := exec_porterOperation_mem h (by simp [hop])
    rw [cellEffect_bcnt hop] at hm
    exact ⟨t, ht, barrier_put _ _ _ _ hm, fun a ha => by rw [hm]; exact byte_putBarrier_apart _ _ _ ha⟩

/-! ## Polls (R176) -/

/-- A poll that finds its condition unmet waits for longer. -/
theorem waitvPoll_unmet {s : State} {core : Nat} {r : PorterReq} {t0 delay : Nat}
    (hp : (s.core core).polls.find? (fun p => decide (p.2.1 ≤ s.clk)) = some (r, t0, delay)) (hr : r.holds (s.cell r.cell) = false) :
    ((waitvPoll s core).core core).polls =
      ((s.core core).polls.filter fun p => p.1.id != r.id) ++ [(r, s.clk + delay, min (2 * delay) 65536)] := by
  rw [waitvPoll, hp]
  dsimp only
  rw [hr, if_neg Bool.false_ne_true, core_setCore]

/-- Settles O16: an arrival by the cell pair it writes, a poll by its test. -/
theorem barrierArrivalsAndPolls : Obligations.BarrierArrivalsAndPolls := by
  unfold Obligations.BarrierArrivalsAndPolls
  refine ⟨fun s p r h => ?arrival, fun s core r t0 delay hp => ?poll⟩
  case arrival => exact ⟨_, exec_barrierArrival h, barrier_put _ _ _ _ rfl, fun a ha => byte_putBarrier_apart _ _ _ ha⟩
  case poll => exact ⟨_, rfl, waitvPoll_mem .., waitvPoll_unmet hp⟩

end Sys2Proof.Laws
end

section
/-! SUPPORT. The micro-operations that steer the attention sequencer (R179, R251): how each ends, and O27. -/
namespace Sys2Proof.Laws
open Sys2Proof Sys2Proof.Machine
-- In order: each thread of an elaboration in parallel reserves its stack, and the text is long.
set_option Elab.async false

/-! ## How a micro-operation ends (R249, R251) -/

section Ends
variable {s t : State} {e : EngEntry} {bad : Nat} {body : EngCtx → Eng MicroEnd} (he : (s.core s.cur.1).attnEntry = some e)
include he

/-- One that jumps where a condition holds, and else moves on. -/
theorem micro_goes {b : Bool} {n : Nat} (h : Works (body (EngCtx.attention s.cur.1 e)) s (if b then .jump n else .next) t) :
    micro bad body s = if b then .next (microGo t s.cur.1 n) else .next (microGo t s.cur.1 ((s.core s.cur.1).attn.upc + 1)) := by
  cases b with
  | false => exact micro_next he h
  | true => exact micro_runs he h

/-- One that has to wait is tried again in the next cycle. -/
theorem micro_again (h : Works (body (EngCtx.attention s.cur.1 e)) s .again t) :
    micro bad body s = .next (t.modAttn s.cur.1 fun a => { a with busyTill := t.clk + 1 }) := micro_runs he h

/-- One that ends its entry. -/
theorem micro_finishes (h : Works (body (EngCtx.attention s.cur.1 e)) s .finish t) :
    micro bad body s = .next (attnFinish t s.cur.1 (s.core s.cur.1).attn.upc 0) := micro_runs he h

end Ends

/-! ## Operations that test a count -/

section Tests
variable {s : State} {x : EngCtx}

/-- BNZ at a loop counter that has run out. -/
theorem works_microBnz_zero {k : BitVec 2} (h : Tbl.get (0 : BitVec 24) (s.core x.core).attn.lk k.toNat = 0) (n : BitVec 12) :
    Works (microBnz k 0 n x) s .next s :=
  (eng_bind (eng_getAttn ..) _).trans (congrArg (fun y : Eng MicroEnd => y.run.run s) (if_pos h))

/-- BNZ at a loop counter that has not: it counts down, and jumps unless this was the last time. -/
theorem works_microBnz_count {k : BitVec 2} (h : Tbl.get (0 : BitVec 24) (s.core x.core).attn.lk k.toNat ≠ 0) (n : BitVec 12) :
    Works (microBnz k 0 n x) s (if Tbl.get (0 : BitVec 24) (s.core x.core).attn.lk k.toNat != 1 then .jump n.toNat else .next)
      (s.modAttn x.core fun a => { a with lk := Tbl.set a.lk k.toNat (Tbl.get (0 : BitVec 24) (s.core x.core).attn.lk k.toNat - 1) }) :=
  (eng_bind (eng_getAttn ..) _).trans (congrArg (fun y : Eng MicroEnd => y.run.run s) (if_neg h))

/-- WAITT at a token with a count left takes one. -/
theorem works_microWaitt_takes {t : BitVec 5} (h : tokenLeft { s with cur := (x.core, .xs) } x.core t ≠ 0) :
    Works (microWaitt t x) s .next
      (s.modCoreAt x.core fun k => { k with tok := Tbl.set k.tok t.toNat (k.token t - 1) }) :=
  (eng_bind (eng_get s) _).trans (congrArg (fun y : Eng MicroEnd => y.run.run s) (if_neg h))

/-- WAITT at a token with none waits. -/
theorem works_microWaitt_waits {t : BitVec 5} (h : tokenLeft { s with cur := (x.core, .xs) } x.core t = 0) :
    Works (microWaitt t x) s .again s :=
  (eng_bind (eng_get s) _).trans (congrArg (fun y : Eng MicroEnd => y.run.run s) (if_pos h))

end Tests

/-- Settles O27: each operation by how it ends. What a straight line of engine work comes to is so by evaluation. -/
theorem microControl : Obligations.MicroControl := by
  unfold Obligations.MicroControl
  intro s e he
  refine ⟨?microEnd, fun k ap n => ⟨?loop, ?loopAp⟩, fun k n h => ?bnzZero, fun k n h => ?bnzCount, fun k n => ⟨?bnzBlock, ?bnzFinished⟩,
    fun n => ?jmp, fun t => ?sig, fun t h => ?waittTakes, fun t h => ?waittWaits, fun ap imm => ⟨?setp, ?setpAp⟩⟩
  case microEnd => exact micro_finishes (body := fun _ => pure .finish) he rfl
  case loop => exact micro_next he rfl
  case loopAp => exact micro_next he rfl
  case bnzZero => exact micro_next he (works_microBnz_zero h n)
  case bnzCount => exact micro_goes he (works_microBnz_count h n)
  case bnzBlock => exact micro_goes he rfl
  case bnzFinished => exact micro_goes he rfl
  case jmp => exact micro_goes (b := true) (body := fun _ => pure (.jump n.toNat)) he rfl
  case sig => exact micro_next he rfl
  case waittTakes => exact micro_next he (works_microWaitt_takes h)
  case waittWaits => exact micro_again he (works_microWaitt_waits h)
  case setp => exact micro_next he rfl
  case setpAp => exact micro_next he rfl

end Sys2Proof.Laws
end

section
/-! SUPPORT. The words of synchronisation (R179, R184, R185, R240, R315, R353, R372, R396, R427): what the shared work comes to, and
O13. -/
namespace Sys2Proof.Laws
open Sys2Proof Sys2Proof.Machine
-- In order: each thread of an elaboration in parallel reserves its stack, and the text is long.
set_option Elab.async false

/-! ## SIGNAL (R179) -/

theorem run_signalAct {v : State} {core : Nat} (h : (v.core core).part = (v.core v.cur.1).part) (t : BitVec 5) :
    (signalAct t core).run v = .ok ((), flying v 4 (.signal core t)) := by
  rw [signalAct, run_bind_ok (run_get v), run_bind_ok (run_need (beq_iff_eq.2 h) ..), run_result]

theorem run_signalSAct {v w : State} {d : BitVec 6} {x : Word64} (hr : ReadsS v d x w) (hx : x.toNat < 160)
    (h : (w.core x.toNat).part = (w.core w.cur.1).part) (t : BitVec 5) :
    (signalSAct d t).run v = .ok ((), flying w 4 (.signal x.toNat t)) := by
  rw [signalSAct, run_bind_ok hr, run_bind_ok (run_need (decide_eq_true hx) ..), run_signalAct h]

/-! ## WAIT (R179, R427) -/

section Wait
variable {v : State} {t : BitVec 5} {n : Nat}

/-- A WAIT that has not held takes its counts a cycle on. -/
theorem run_waitAct_first (h : n ≤ tokenLeft v v.cur.1 t) (hq : (v.seq v.cur.1 v.cur.2).at_.req = none) :
    (waitAct t n).run v = .ok ((), flying v 1 (.tokDec t n)) := by
  rw [waitAct, run_bind_ok (run_get v), run_bind_ok (run_getSeq v), if_neg (Nat.not_lt.2 h), hq, if_neg (by simp), run_result]

/-- A WAIT that has held takes them at once. -/
theorem run_waitAct_held (h : n ≤ tokenLeft v v.cur.1 t) (hq : (v.seq v.cur.1 v.cur.2).at_.req ≠ none) :
    (waitAct t n).run v = .ok ((), v.setCore v.cur.1 { v.core v.cur.1 with
      tok := Tbl.set (v.core v.cur.1).tok t.toNat (BitVec.ofNat 16 (((v.core v.cur.1).token t).toNat - n)) }) := by
  rw [waitAct, run_bind_ok (run_get v), run_bind_ok (run_getSeq v), if_neg (Nat.not_lt.2 h), if_pos (Option.isSome_iff_ne_none.2 hq),
    run_modCore]

/-- A WAIT whose token has too few counts holds. -/
theorem run_waitAct_holds (h : tokenLeft v v.cur.1 t < n) : (waitAct t n).run v =
    .error (.hold (causeBit 0) (if (v.seq v.cur.1 v.cur.2).at_.req.isSome then none else some .token)) := by
  rw [waitAct, run_bind_ok (run_get v), run_bind_ok (run_getSeq v), if_pos h, run_hold]

/-- Both forms of WAIT are one word but for their count. -/
theorem exec_wait {g : Guard} {s : State} {i : Instr} {a : BitVec 6} {imm : BitVec 48}
    (h : i = .waitT g a ∧ n = 1 ∨ i = .waitN g a imm ∧ n = imm.toNat) :
    exec i s = issueFall g (pure ()) (waitAct (a.setWidth 5) n) s := by
  obtain ⟨rfl, rfl⟩ | ⟨rfl, rfl⟩ := h <;> rfl

end Wait

/-- A word that has to wait makes the consist hold (R48). -/
theorem issueFall_holds {g : Guard} {off body : Act Unit} {s v : State} {c : BitVec 16} {r : Option HoldReq} (h : Issuing g s v)
    (hb : body.run v = .error (.hold c r)) : issueFall g off body s = .next (beginHold s s.curCons c r) :=
  issueN_holds h (run_bind_error hb _)

/-! ## FENCE (R315, R353) -/

theorem run_fenceAct {v w : State} {d : BitVec 6} {e : Effect} (h : TakesS v d 0 e w) (scope : BitVec 3) :
    (fenceAct d scope).run v = .ok ((), (awaiting w (2 * v.dC v.cur.1 + 4) 2 e).setCore w.cur.1 { w.core w.cur.1 with
      gates := (w.core w.cur.1).gates ++ [⟨w.nextId, some scope⟩] }) := by
  rw [fenceAct, run_bind_ok (run_getD v), run_bind_ok (run_awaitS h ..), run_modCore]
  rfl

/-! ## RETIME (R240) -/

/-- A retiming is pending already, and stands, or this one is. -/
theorem run_retimeAct {v w : State} {a : BitVec 6} {x : Word64} (h : NoHandler v) (hr : ReadsS v a x w) (slack : Nat) :
    (retimeAct a slack).run v = .ok ((), if (w.cons w.curCons).next.isSome then w else w.setCons w.curCons { w.cons w.curCons with
      next := some (.retime ⟨x.toNat, slack, (lastNotice w w.ptc (w.cons w.curCons).dies).2, (lastNotice w w.ptc (w.cons w.curCons).dies).1,
        w.cur.1, w.cur.2, BitVec.ofNat 25 (w.seq w.cur.1 w.cur.2).at_.pc⟩) }) := by
  rw [retimeAct, run_bind_ok (run_notInHandler h), run_bind_ok hr, run_bind_ok (run_get w)]
  dsimp only
  rw [run_set]
  cases (w.cons w.curCons).next <;> rfl

/-! ## MARK (R184, R372) -/

/-- The queues that a mask names. -/
abbrev maskedQueues (m : BitVec 8) : List Nat := (List.range 8).filter fun q => m.getLsbD q

theorem mem_maskedQueues {m : BitVec 8} {q : Nat} : q ∈ maskedQueues m ↔ m.getLsbD q = true := by
  rw [List.mem_filter, List.mem_range]
  exact ⟨And.right, fun h => ⟨BitVec.lt_of_getLsbD h, h⟩⟩

/-- A check made only under a condition, where it holds. -/
theorem run_ite_check {β : Type} {p : Prop} [Decidable p] {s : State} {x : Act PUnit} {f : PUnit → Act β}
    (h : p → x.run s = .ok (⟨⟩, s)) : (if p then x >>= f else f ⟨⟩).run s = (f ⟨⟩).run s := by
  split
  next hp => exact run_bind_ok (h hp) f
  next => rfl

theorem run_markAct {v : State} {m : BitVec 8} (hroom : ∀ q ∈ maskedQueues m, (v.core v.cur.1).room q = true)
    (hhandler : 0 ∈ maskedQueues m ∨ 6 ∈ maskedQueues m → NoHandler v)
    (hattn : 0 ∈ maskedQueues m → v.cur.2 = .xs → (v.core v.cur.1).attn.entry = none) (t : BitVec 5) :
    let r := marking v.nextId (maskedQueues m) { v with nextId := v.nextId + 1 }
    (markAct m t).run v = .ok ((), r.2.setCore r.2.cur.1 { r.2.core r.2.cur.1 with
      marks := (r.2.core r.2.cur.1).marks ++ [⟨v.nextId, t, r.1, none⟩] }) := by
  have queued : (m.getLsbD qMatrix || m.getLsbD qAttention) = true → notQueuedInHandler.run v = .ok ((), v) := fun hm =>
    run_notQueuedInHandler (hhandler ((Bool.or_eq_true_iff.1 hm).imp mem_maskedQueues.2 mem_maskedQueues.2))
  have free : (!(m.getLsbD 0 && v.cur.2 == .xs && (v.core v.cur.1).attn.entry.isSome)) = true := by
    rw [Bool.not_eq_true', ← Bool.not_eq_true, Bool.and_eq_true, Bool.and_eq_true, beq_iff_eq]
    rintro ⟨⟨hm, hxs⟩, hentry⟩
    rw [hattn (mem_maskedQueues.2 hm) hxs] at hentry
    exact absurd hentry (by simp)
  have entered : (enterMarks v.nextId (maskedQueues m)).run { v with nextId := v.nextId + 1 } = _ :=
    run_enterMarks _ _ _ (List.nodup_range.filter _) fun q hq => room_in (v := { v with nextId := v.nextId + 1 }) (hroom q hq)
  intro r
  rw [markAct]
  dsimp only
  rw [run_ite_check queued, run_bind_ok (run_getCore v), run_bind_ok (run_get v), run_bind_ok (run_need free ..)]
  rw [if_pos (List.all_eq_true.2 hroom), run_bind_ok (run_get v)]
  rw [run_bind_ok (run_modify ..), run_bind_ok entered, run_modCore]

/-! ## SSTEP (R185, R396) -/

theorem run_sstepAct {v w : State} {a : BitVec 6} {x : Word64} {len : Nat} (hr : ReadsS v a x w) (hlen : w.ptc < x.toNat + len)
    (hopen : ∀ p, (w.core w.cur.1).sstep = some p → p.drain ≤ w.ptc) :
    (sstepAct a len).run v = .ok ((), w.setCore w.cur.1 { w.core w.cur.1 with
      sstep := some ⟨max x.toNat w.ptc, x.toNat + len, x.toNat + len + 2 * w.dMax + 8⟩ }) := by
  rw [sstepAct, run_bind_ok hr, run_bind_ok (run_get w), run_bind_ok (run_getCore w)]
  dsimp only
  refine (run_bind_ok (run_need ?fits ..) _).trans (run_modCore ..)
  rw [decide_eq_true hlen, Bool.true_and, Bool.not_eq_true']
  cases hs : (w.core w.cur.1).sstep with
  | none => rfl
  | some p => exact decide_eq_false (Nat.not_lt.2 (hopen p hs))

/-- Settles O13: each word by its work, WAIT by whether its token has the counts and whether it has held. -/
theorem synchronisationWords : Obligations.SynchronisationWords := by
  unfold Obligations.SynchronisationWords
  intro g s v h
  refine ⟨fun a imm hpart => ?signal, fun d a x w hr hx hpart => ?signalS,
    fun i a imm t n ht hi => ⟨fun hn hq => ?waitFirst, fun hn hq => ?waitHeld, fun hn => ?waitHolds⟩, fun d imm e w ht => ?fence,
    fun a imm x w hh hr => ?retime, fun a imm qs hqs hroom hhandler hattn => ?mark, fun a imm x w hr hlen hopen => ?sstep⟩
  case signal => exact issueFall_completes h (run_signalAct hpart _)
  case signalS => exact issueFall_completes h (run_signalSAct hr hx hpart _)
  case waitFirst =>
    subst ht
    exact (exec_wait hi).trans (issueFall_completes h (run_waitAct_first hn hq))
  case waitHeld =>
    subst ht
    exact (exec_wait hi).trans (issueFall_completes h (run_waitAct_held hn hq))
  case waitHolds =>
    subst ht
    exact (exec_wait hi).trans (issueFall_holds h (run_waitAct_holds hn))
  case fence => exact issueFall_completes h (run_fenceAct ht _)
  case retime => exact issueFall_completes h (run_retimeAct hh hr _)
  case mark =>
    subst hqs
    exact issueFall_completes h (run_markAct hroom hhandler hattn _)
  case sstep => exact issueFall_completes h (run_sstepAct hr hlen hopen)

end Sys2Proof.Laws
end

section
/-! SUPPORT. The words at porters (R171-R176, R181): what their operands and results come to, and O14. -/
namespace Sys2Proof.Laws
open Sys2Proof Sys2Proof.Machine Sys2Proof.Claims
-- In order: each thread of an elaboration in parallel reserves its stack, and the text is long.
set_option Elab.async false

/-! ## Operands and results -/

section Operands
variable {v v1 v2 v3 w w1 : State} {a b c : BitVec 6} {x y x2 y2 : Word64} {e e2 : Effect}

theorem run_cellArgs_none (v : State) : (cellArgs none none).run v = .ok (⟨0, 0, 0, 0, nullCap⟩, v) := rfl

theorem run_cellArgs_one (hb : ReadsS v b x v1) : (cellArgs (some b) none).run v = .ok (⟨x, 0, 0, 0, nullCap⟩, v1) := by
  rw [cellArgs, run_bind_ok hb]
  rfl

theorem run_cellArgs_two (hb : ReadsS v b x v1) (hc : ReadsS v1 c y v2) :
    (cellArgs (some b) (some c)).run v = .ok (⟨x, 0, y, 0, nullCap⟩, v2) := by
  rw [cellArgs, run_bind_ok hb, run_bind_ok hc, run_pure]

theorem run_cas2Args (hb : ReadsS v b x v1) (hb2 : ReadsS v1 (b + 1) x2 v2) (hc : ReadsS v2 c y v3) (hc2 : ReadsS v3 (c + 1) y2 w) :
    (cas2Args b c).run v = .ok (⟨x, x2, y, y2, nullCap⟩, w) := by
  rw [cas2Args, run_bind_ok hb, run_bind_ok hb2, run_bind_ok hc, run_bind_ok hc2, run_pure]

theorem run_hxchArgs {hc : Cap} (h : ReadsH v 31 hc v1) : hxchArgs.run v = .ok (⟨0, 0, 0, 0, hc⟩, v1) := by
  rw [hxchArgs, run_bind_ok h, run_pure]

theorem run_noDst (lat : Nat) (v : State) : (noDst lat).run v = .ok ([], v) := rfl

/-- Two results, awaited in the order of their registers. -/
theorem run_cas2Dst {lat : Nat} (ha : TakesS v a 0 e w) (ha2 : TakesS (awaiting w lat 2 e) (a + 1) 0 e2 w1) :
    (cas2Dst a lat).run v = .ok ([w.nextId, w1.nextId], awaiting w1 lat 2 e2) := by
  rw [cas2Dst, run_bind_ok (run_awaitS ha ..), run_bind_ok (run_awaitS ha2 ..), run_pure]

theorem run_hxchDst (h : TakesH v 31 nullCap e w) (lat : Nat) : (hxchDst lat).run v = .ok ([w.nextId], awaiting w lat 2 e) := by
  rw [hxchDst, run_bind_ok h, run_bind_ok (run_await ..), run_pure]

end Operands

/-! ## The work of a word -/

section Work
variable {v v1 v2 v3 w : State} {h : BitVec 5} {c : Cap} {cell : BitVec 32} {order : BitVec 2} {op : CellOp} {links n : Nat}
  {args : Act CellArgs} {x : CellArgs} (hh : ReadsH v h c v1) (hx : args.run v1 = .ok (x, v2)) (hc : CellOk v2 c cell op.wide n)
include hh hx hc

/-- Every operation but an exchange works on a cell alone; distances do not change while results are set up. -/
theorem run_porterAct_cell {dst : Nat → Act (List Nat)} {ids : List Nat} (hop : op ≠ .hxch)
    (hd : (dst (2 * v2.dP n + 12)).run v2 = .ok (ids, v3)) (hr : RoomIn v3 qPorter) (hsys : v3.sys = v2.sys) :
    (porterAct h cell order op links args dst).run v = .ok ((), operating v3 h c c n order op links x.v x.v2 x.w x.w2 ids) := by
  rw [run_porterAct hh hx hc (fun e => absurd e hop) (fun e => absurd e hop) hd hr (dP_of_sys hsys n), if_neg hop]

/-- One with a scalar result. -/
theorem run_porterAct_result {a : BitVec 6} {e : Effect} (hop : op ≠ .hxch) (hd : TakesS v2 a 0 e w)
    (hr : RoomIn (awaiting w (2 * v2.dP n + 12) 2 e) qPorter) : (porterAct h cell order op links args (cellDst a)).run v =
      .ok ((), operating (awaiting w (2 * v2.dP n + 12) 2 e) h c c n order op links x.v x.v2 x.w x.w2 [w.nextId]) := by
  have sys := dstS_keeps hd
  exact run_porterAct_cell hh hx hc hop (run_cellDst hd _) hr sys

/-- One without a result. -/
theorem run_porterAct_noResult (hop : op ≠ .hxch) (hr : RoomIn v2 qPorter) :
    (porterAct h cell order op links args noDst).run v = .ok ((), operating v2 h c c n order op links x.v x.v2 x.w x.w2 []) :=
  run_porterAct_cell hh hx hc hop (run_noDst ..) hr rfl

end Work

/-- An exchange takes a handle that may enter a cell (R175, R295). -/
theorem run_porterAct_hxch {v v1 w w' : State} {h : BitVec 5} {c hc : Cap} {cell : BitVec 32} {n : Nat} {e : Effect}
    (hh : ReadsH v h c v1) (hx : ReadsH v1 31 hc w) (hcell : CellOk w c cell true n)
    (hload : hc.tag = true → (hc.isNull = true ∨ hc.has pL = true) ∧ NearOk w hc) (hd : TakesH w 31 nullCap e w')
    (hr : RoomIn (awaiting w' (2 * w.dP n + 12) 2 e) qPorter) (order : BitVec 2) :
    (porterAct h cell order .hxch 0 hxchArgs hxchDst).run v =
      .ok ((), operating (awaiting w' (2 * w.dP n + 12) 2 e) h c hc n order .hxch 0 0 0 0 0 [w'.nextId]) := by
  have loads : (!hc.tag || hc.isNull || hc.has pL) = true := by
    cases ht : hc.tag with
    | false => rfl
    | true => rw [Bool.not_true, Bool.false_or, Bool.or_eq_true_iff]; exact (hload ht).1
  exact run_porterAct hh (run_hxchArgs hx) hcell (fun _ => loads) (fun _ ht => (hload ht).2) (run_hxchDst hd _) hr
    (dP_of_sys (dstH_keeps hd) n)

/-! ## The tables -/

/-- The words of one operand and one result differ in their operation alone, which is on one cell. -/
theorem porterTable_pamo1 : ∀ row ∈ porterTable, row.2 ≠ .hxch ∧ row.2.wide = false ∧
    ∀ g h a b scope order cell s, exec (row.1 g h a b scope order cell) s = pamo1 g row.2 h a b order cell s := by
  simp only [porterTable, List.forall_mem_cons, List.not_mem_nil, false_implies, implies_true, and_true]
  refine ⟨?_, ?_, ?_, ?_, ?_, ?_, ?_, ?_, ?_, ?_, ?_⟩ <;> exact ⟨by decide, rfl, fun _ _ _ _ _ _ _ _ => rfl⟩

/-- So do the words of one operand and no result. -/
theorem porterTable0_pamo0 : ∀ row ∈ porterTable0, row.2 ≠ .hxch ∧
    ∀ g h b scope order cell s, exec (row.1 g h b scope order cell) s = pamo0 g row.2 h b order cell s := by
  simp only [porterTable0, List.forall_mem_cons, List.not_mem_nil, false_implies, implies_true, and_true]
  refine ⟨?_, ?_, ?_, ?_, ?_⟩ <;> exact ⟨by decide, fun _ _ _ _ _ _ _ => rfl⟩

/-- Settles O14: each word by its operands, its results and its operation. -/
theorem porterWords : Obligations.PorterWords := by
  unfold Obligations.PorterWords
  intro g s v v1 h c scope order cell n hi hh await1
  refine ⟨fun row hrow a b x e w w' hb hc hd hr => ?one, fun row hrow b x w hb hc hr => ?noResult,
    fun a e w' hc hd hr => ⟨?load, fun links => ?chase⟩, fun a b b' x y e w1 w w' hb hb' hc hd hr => ?cas,
    fun a b b' x x2 y y2 e e2 w1 w2 w3 w w' w'' hb hb2 hb' hb2' hc hd hd2 hr => ?cas2,
    fun hc e w w' hx hcell hload hd hr => ?hxch⟩
  case one =>
    obtain ⟨hop, hwide, harm⟩ := porterTable_pamo1 row hrow
    rw [harm]
    exact issueFall_completes hi (run_porterAct_result hh (run_cellArgs_one hb) (hwide ▸ hc) hop hd hr)
  case noResult =>
    obtain ⟨hop, harm⟩ := porterTable0_pamo0 row hrow
    rw [harm]
    exact issueFall_completes hi (run_porterAct_noResult hh (run_cellArgs_one hb) hc hop hr)
  case load => exact issueFall_completes hi (run_porterAct_result hh (run_cellArgs_none v1) hc (by decide) hd hr)
  case chase => exact issueFall_completes hi (run_porterAct_result hh (run_cellArgs_none v1) hc (by decide) hd hr)
  case cas => exact issueFall_completes hi (run_porterAct_result hh (run_cellArgs_two hb hb') hc (by decide) hd hr)
  case cas2 =>
    have first := dstS_keeps hd
    have sys : w''.sys = w.sys := (dstS_keeps hd2).trans first
    exact issueFall_completes hi (run_porterAct_cell hh (run_cas2Args hb hb2 hb' hb2') hc (by decide) (run_cas2Dst hd hd2) hr sys)
  case hxch => exact issueFall_completes hi (run_porterAct_hxch hh hx hcell hload hd hr order)

end Sys2Proof.Laws
end

section
/-! SUPPORT. The words that make, narrow, read and test capabilities (R201, R268, R314, R342-R344): what their work comes to, and O17. -/
namespace Sys2Proof.Laws
open Sys2Proof Sys2Proof.Machine Sys2Proof.Claims
-- In order: each thread of an elaboration in parallel reserves its stack, and the text is long.
set_option Elab.async false

/-! ## Pointers made of pointers (R201, R342, R343) -/

section Pointers
variable {v v1 v2 w : State} {hd ha : BitVec 5} {sr : BitVec 6} {c : Cap} {x : Word64} {e : Effect} (hr : ReadsH v ha c v1)
include hr

theorem run_capsetAct {r : Cap} {exact : Bool} (hc : CapOk v1 c [kPointer]) (hs : ReadsS v1 sr x v2)
    (hset : capset c x exact = some r) (ht : TakesH v2 hd r e w) :
    (capsetAct hd ha sr exact).run v = .ok ((), flying w 1 e) := by
  rw [capsetAct, run_bind_ok (run_readPointer hr hc), run_bind_ok hs, hset]
  exact run_writeH ht 1

theorem run_capoffAct {f : Cap → Word64 → Word64} (hc : CapOk v1 c [kPointer]) (hs : ReadsS v1 sr x v2)
    (ht : TakesH v2 hd (c.setCursor (f c x)) e w) : (capoffAct f hd ha sr).run v = .ok ((), flying w 1 e) := by
  rw [capoffAct, run_bind_ok (run_readPointer hr hc), run_bind_ok hs]
  exact run_writeH ht 1

/-- A counted handle moves to its destination, its source becoming null. -/
theorem run_cappermAct {mask : BitVec 8} (hc : CapOk v1 c [kPointer, kTile, kBlank, kNull]) (hn : NearOk v1 c)
    (ht : TakesH (if c.counted && ha != hd then nulling v1 ha else v1) hd (c.restrict mask) e w) :
    (cappermAct hd ha mask).run v = .ok ((), flying w 1 e) := by
  rw [cappermAct, run_bind_ok hr, run_bind_ok (run_checkKind hc), run_bind_ok (run_checkNear hn)]
  dsimp only
  rw [run_ite_first (run_nullH1 ha v1)]
  exact run_writeH ht 1

/-! ## Capabilities read and tested (R268, R342, R344) -/

theorem run_capgetAct {check : Cap → Act Unit} {kinds : List (BitVec 4)} {f : Cap → Word64} (hcheck : (check c).run v1 = .ok ((), v1))
    (hc : CapOk v1 c kinds) (hn : NearOk v1 c) (ht : TakesS v1 sr (f c) e w) :
    (capgetAct check kinds f ha sr).run v = .ok ((), givingUp (flying w 1 e) ha c) := by
  rw [capgetAct, run_bind_ok hr, run_bind_ok hcheck, run_bind_ok (run_checkKind hc), run_bind_ok (run_checkNear hn),
    run_bind_ok (run_writeS ht 1), run_dropNow]

theorem run_captestAct {f : Option (BitVec 5) → Cap → Bool}
    (ht : TakesS v1 sr (boolWord (f (v1.core v1.cur.1).part c)) e w) :
    (captestAct f ha sr).run v = .ok ((), givingUp (flying w 1 e) ha c) := by
  rw [captestAct, run_bind_ok hr, run_bind_ok (run_getCore v1), run_bind_ok (run_writeS ht 1), run_dropNow]

end Pointers

/-- The words of CAPGET that read a field put that field, of a capability of their kinds, in flight. -/
theorem exec_capget {row : (Guard → BitVec 5 → BitVec 6 → Instr) × List (BitVec 4) × (Cap → Word64)} (hrow : row ∈ capgetTable)
    {g : Guard} {s v v1 w : State} {ha : BitVec 5} {sr : BitVec 6} {c : Cap} {e : Effect} (h : Issuing g s v) (hr : ReadsH v ha c v1)
    (hc : CapOk v1 c row.2.1) (hn : NearOk v1 c) (ht : TakesS v1 sr (row.2.2 c) e w) :
    exec (row.1 g ha sr) s = .next (issued 1 .fall (givingUp (flying w 1 e) ha c)) := by
  simp only [capgetTable, List.mem_cons, List.not_mem_nil, or_false] at hrow
  obtain rfl | rfl | rfl | rfl := hrow
  · exact issueFall_completes h (run_capgetAct hr (run_checkOwn hc) hc hn ht)
  all_goals exact issueFall_completes h (run_capgetAct hr (run_checkCap hc) hc hn ht)

/-- CAPTEST.IN's test (R344). -/
theorem capHolds_iff {part : Option (BitVec 5)} {c : Cap} {n : Nat} : capHolds part c n = true ↔
    c.tag = true ∧ c.kind = kPointer ∧ part = some c.part ∧ c.bounds.1 ≤ c.addr.toNat ∧ c.addr.toNat + n ≤ c.bounds.2 := by
  simp only [capHolds, Bool.and_eq_true, beq_iff_eq, decide_eq_true_eq, and_assoc]

theorem boolWord_capHolds (part : Option (BitVec 5)) (c : Cap) (n : Nat) : boolWord (capHolds part c n) =
    if c.tag = true ∧ c.kind = kPointer ∧ part = some c.part ∧ c.bounds.1 ≤ c.addr.toNat ∧ c.addr.toNat + n ≤ c.bounds.2
    then 1 else 0 := if_congr capHolds_iff rfl rfl

/-! ## Capabilities made of nothing (R201, R268, R314) -/

section Made
variable {v w : State} {hd : BitVec 5} {e : Effect}

theorem run_capgetCellsAct (ht : TakesH v hd (pointerCap true 3 0x4D 18 0 0x20000 (((v.core v.cur.1).part).getD 0) 0) e w) :
    (capgetCellsAct hd).run v = .ok ((), flying w 1 e) := by
  rw [capgetCellsAct, run_bind_ok (run_myPart v)]
  exact run_writeH ht 1

theorem run_capgetKvAct {part : BitVec 5} (hp : part = ((v.core v.cur.1).part).getD 0)
    (ht : TakesH v hd (match (v.part part).grant.kv with | some (b, n) => boundedCap 5 0x4B part b n b | none => nullCap) e w) :
    (capgetKvAct hd).run v = .ok ((), flying w 1 e) := by
  subst hp
  rw [capgetKvAct, run_bind_ok (run_myPart v), run_bind_ok (run_get v)]
  exact run_writeH ht 1

theorem run_capgetPeerAct {v1 : State} {sr : BitVec 6} {x : Word64} (hs : ReadsS v sr x v1) (hx : x.extractLsb' 52 5 = 0)
    (ht : TakesH v1 hd (pointerCap true 6 0x47 35 0 0x20000 (((v1.core v1.cur.1).part).getD 0) x) e w) :
    (capgetPeerAct hd sr).run v = .ok ((), flying w 1 e) := by
  rw [capgetPeerAct, run_bind_ok hs, run_bind_ok (run_need (beq_iff_eq.2 hx) ..), run_bind_ok (run_myPart v1)]
  exact run_writeH ht 1

theorem run_capgetSysAct {part : BitVec 5} (hp : part = ((v.core v.cur.1).part).getD 0)
    (ht : TakesH v hd (if (v.part part).grant.system then pointerCap true 2 0x81 0 0 0 part 0 else nullCap) e w) :
    (capgetSysAct hd).run v = .ok ((), flying w 1 e) := by
  subst hp
  rw [capgetSysAct, run_bind_ok (run_myPart v), run_bind_ok (run_get v)]
  exact run_writeH ht 1

end Made

/-! ## The words -/

/-- Settles O17: each word by its work. -/
theorem capabilityWords : Obligations.CapabilityWords := by
  unfold Obligations.CapabilityWords
  intro g s v hd ha sr h part
  refine ⟨fun exact_ c r n e v1 v2 w hr hc hs hset ht => ?capset, fun imm c e v1 w hr hc hn ht => ?capperm,
    fun c x v1 v2 hr hc hs => ⟨fun e w ht => ?capoffAdd, fun e w ht => ?capoffSet⟩,
    fun row hrow c e v1 w hr hc hn ht => ?capget, fun e w ht => ?cells, fun e w ht => ?kv, fun x e v1 w hs hx ht => ?peer,
    fun e w ht => ?sys, fun c v1 hr => ⟨fun e w ht => ?tag, fun imm e w ht => ?inside⟩⟩
  case capset =>
    cases exact_ with
    | false => exact issueFall_completes h (run_capsetAct hr hc hs hset ht)
    | true => exact issueFall_completes h (run_capsetAct hr hc hs hset ht)
  case capperm => exact issueFall_completes h (run_cappermAct hr hc hn ht)
  case capoffAdd => exact issueFall_completes h (run_capoffAct hr hc hs ht)
  case capoffSet => exact issueFall_completes h (run_capoffAct hr hc hs ht)
  case capget => exact exec_capget hrow h hr hc hn ht
  case cells => exact issueFall_completes h (run_capgetCellsAct ht)
  case kv => exact issueFall_completes h (run_capgetKvAct rfl ht)
  case peer => exact issueFall_completes h (run_capgetPeerAct hs hx ht)
  case sys => exact issueFall_completes h (run_capgetSysAct rfl ht)
  case tag => exact issueFall_completes h (run_captestAct hr ht)
  case inside =>
    rw [← boolWord_capHolds] at ht
    exact issueFall_completes h (run_captestAct (f := fun p c => capHolds p c imm.toNat) hr ht)

end Sys2Proof.Laws
end

section
/-! SUPPORT. The copies of TCOPY (R201, R401, R402): what their checks and their entries come to, and O22. -/
namespace Sys2Proof.Laws
open Sys2Proof Sys2Proof.Machine
-- In order: each thread of an elaboration in parallel reserves its stack, and the text is long.
set_option Elab.async false

/-! ## A copy enters its queue (R40, R201, R402) -/

/-- A copy whose region's first coordinate then steps on (R157, R402). -/
theorem run_enterCopy_postInc {v : State} {stamp : BitVec 20} (h : RoomIn (stamping v stamp .mark).2 qCopy) (hd ha : BitVec 5) (d c : Cap)
    (op : EngOp) (b : Option Nat) (bytes : Nat) (post : BitVec 1) (f : BitVec 4) (n : Nat) :
    (do enterCopy hd ha d c op b bytes stamp; postInc post f n : Act Unit).run v =
      .ok ((), stepping (copying v stamp .mark op [c] [d] (pops1 hd d ++ pops1 ha c) b bytes) post f n) := by
  rw [run_bind_ok (run_enterCopy h ..), run_postInc]

/-! ## The work of a word: destination and source are read in that order, the barrier last -/

section Work
variable {v v1 v2 v3 : State} {hd ha gr : BitVec 5} {sr : BitVec 6} {stamp : BitVec 20} {d c : Cap} {b : Option Nat}
  (hdst : ReadsH v hd d v1) (hsrc : ReadsH v1 ha c v2) (hb : BarrierAt v2 sr b v3) (hroom : RoomIn (stamping v3 stamp .mark).2 qCopy)
include hdst hsrc hb hroom

theorem run_tcopyWAct {e : DirEntry} (he : e = v2.tileEntry c.key) (ht : UseOk v2 c [kTile] pR [0, 1]) (hw : UseOk v2 d [kBlank] pW [0, 1])
    (hfit : tileBytes e.rows e.cols e.fmt ≤ classSize (v2.dirEntry d.key).cls) :
    (tcopyWAct hd ha sr stamp).run v = .ok ((), copying v3 stamp .mark (.copyTile c d (tileBytes e.rows e.cols e.fmt)) [c] [d]
      (pops1 hd d ++ pops1 ha c) b (tileBytes e.rows e.cols e.fmt)) := by
  subst he
  rw [tcopyWAct, run_bind_ok hdst, run_bind_ok hsrc, run_bind_ok (run_checkCopy hw.1 ht.1), run_bind_ok (run_checkTile ht),
    run_bind_ok (run_checkBlank hw), run_bind_ok (run_get v2)]
  dsimp only
  rw [run_bind_ok (run_need (decide_eq_true hfit) ..), run_bind_ok (run_barrierOf hb), run_enterCopy hroom]

theorem run_tcopyRAct {f : BitVec 4} {cnt : BitVec 3} {clip perm : BitVec 1} {rows cols : Nat} {r : Region}
    (hregion : r = (v2.core v2.cur.1).region c gr f cnt rows cols clip perm) (hs : UseOk v2 c [kPointer, kTile] pR [0, 1])
    (hw : UseOk v2 d [kBlank] pW [0, 1]) (hok : RegionOk v2 r) (hfit : rows * cols * r.width ≤ classSize (v2.dirEntry d.key).cls)
    (post : BitVec 1) : (tcopyRAct hd ha gr f cnt sr post clip perm stamp rows cols).run v = .ok ((), stepping
      (copying v3 stamp .mark (.copyRegion r d) [c] [d] (pops1 hd d ++ pops1 ha c) b (rows * cols * r.width)) post f cols) := by
  subst hregion
  rw [tcopyRAct, run_bind_ok hdst, run_bind_ok hsrc, run_bind_ok (run_checkCopy hw.1 hs.1), run_bind_ok (run_checkSource hs),
    run_bind_ok (run_checkBlank hw), run_bind_ok (run_getCore v2)]
  dsimp only
  rw [run_bind_ok (run_checkTensor hok), run_bind_ok (run_get v2), run_bind_ok (run_need (decide_eq_true hfit) ..),
    run_bind_ok (run_barrierOf hb), run_enterCopy_postInc hroom]

theorem run_tcopySAct {f : BitVec 4} {cnt : BitVec 3} {clip perm : BitVec 1} {e : DirEntry} {r : Region} (he : e = v2.tileEntry c.key)
    (hregion : r = (v2.core v2.cur.1).region d gr f cnt e.rows e.cols clip perm) (ht : UseOk v2 c [kTile] pR [0, 1])
    (hw : UseOk v2 d [kBlank] pW [0, 1]) (hfmt : e.fmt = r.geom.fmt) (hok : RegionOk v2 r) (post : BitVec 1) :
    (tcopySAct hd ha gr f cnt sr post clip perm stamp).run v = .ok ((), stepping
      (copying v3 stamp .mark (.copyInto c r) [c] [d] (pops1 hd d ++ pops1 ha c) b (e.rows * e.cols * r.width)) post f e.cols) := by
  subst he hregion
  have formats := Bool.and_eq_true_iff.2 ⟨decide_eq_true hok.2.1, decide_eq_true hfmt⟩
  rw [tcopySAct, run_bind_ok hdst, run_bind_ok hsrc, run_bind_ok (run_checkCopy hw.1 ht.1), run_bind_ok (run_checkTile ht),
    run_bind_ok (run_checkBlank hw), run_bind_ok (run_get v2), run_bind_ok (run_getCore v2)]
  dsimp only
  rw [run_bind_ok (run_need (decide_eq_true hok.1) ..), run_bind_ok (run_need formats ..), run_bind_ok (run_checkTensor hok),
    run_bind_ok (run_barrierOf hb), run_enterCopy_postInc hroom]

theorem run_tcopyHiAct {n : Nat} (hw : UseOk v2 d [kBlank] pW [0, 1]) (hh : UseOk v2 c [kPointer] pR [7]) (hc : CursorOk c (256 * n))
    (hfit : 256 * n ≤ classSize (v2.dirEntry d.key).cls) : (tcopyHiAct hd ha sr stamp n).run v =
      .ok ((), copying v3 stamp .mark (.hostIn c d (256 * n)) [c] [d] (pops1 hd d ++ pops1 ha c) b (256 * n)) := by
  rw [tcopyHiAct, run_bind_ok hdst, run_bind_ok hsrc, run_bind_ok (run_checkCopy hw.1 hh.1), run_checkUse hw, run_bind_ok (run_get v2)]
  dsimp only
  rw [run_bind_ok (run_checkHost hh hc), run_bind_ok (run_need (decide_eq_true hfit) ..), run_bind_ok (run_barrierOf hb),
    run_enterCopy hroom]

theorem run_tcopyHoAct {e : DirEntry} {n : Nat} (he : e = v2.tileEntry c.key) (ht : UseOk v2 c [kTile] pR [0, 1])
    (hh : UseOk v2 d [kPointer] pW [7]) (hc : CursorOk d (256 * n)) (hfit : 256 * n ≤ tileBytes e.rows e.cols e.fmt) :
    (tcopyHoAct hd ha sr stamp n).run v =
      .ok ((), copying v3 stamp .mark (.hostOut c d (256 * n)) [c] [d] (pops1 hd d ++ pops1 ha c) b (256 * n)) := by
  subst he
  rw [tcopyHoAct, run_bind_ok hdst, run_bind_ok hsrc, run_bind_ok (run_checkCopy hh.1 ht.1), run_bind_ok (run_checkTile ht),
    run_bind_ok (run_checkHost hh hc), run_bind_ok (run_get v2)]
  dsimp only
  rw [run_bind_ok (run_need (decide_eq_true hfit) ..), run_bind_ok (run_barrierOf hb), run_enterCopy hroom]

end Work

/-! ## The words -/

/-- Settles O22: each form by its work. -/
theorem copyWords : Obligations.CopyWords := by
  unfold Obligations.CopyWords
  intro g s v v1 v2 v3 hd ha gr sr stamp imm d c b h hdst hsrc hb hroom e room copy blank tile host
  refine ⟨fun ht hw hfit => ?tile, fun f cnt post clip perm rows cols r hrows hcols hregion hs hw hok hfit => ?region,
    fun f cnt post clip perm r hregion ht hw hfmt hok => ?intoRegion, fun hw hh hc hfit => ?fromHost, fun ht hh hc hfit => ?toHost⟩
  case tile => exact issueFall_completes h (run_tcopyWAct hdst hsrc hb hroom rfl ht hw hfit)
  case region =>
    subst hrows hcols
    exact issueFall_completes h (run_tcopyRAct hdst hsrc hb hroom hregion hs hw hok hfit post)
  case intoRegion => exact issueFall_completes h (run_tcopySAct hdst hsrc hb hroom rfl hregion ht hw hfmt hok post)
  case fromHost => exact issueFall_completes h (run_tcopyHiAct hdst hsrc hb hroom hw hh hc hfit)
  case toHost => exact issueFall_completes h (run_tcopyHoAct hdst hsrc hb hroom rfl ht hh hc hfit)

end Sys2Proof.Laws
end

section
/-! SUPPORT. Vector loads and stores (R200, R225, R266, R307, R417, R418): the words that lanes name and what the work comes to; O25. -/
namespace Sys2Proof.Laws
open Sys2Proof Sys2Proof.Machine
-- In order: each thread of an elaboration in parallel reserves its stack, and the text is long.
set_option Elab.async false

/-- A tile whose words lanes of a type may name (R200, R307, R433): its elements are of that width; for type 3, two to a word, their
number is even. -/
abbrev WidthOk (v : State) (c : Cap) (ty : Nat) : Prop :=
  c.kind = kTile → if ty = 3 then fmtBytes (v.tileEntry c.key).fmt = some 2 ∧
    (v.tileEntry c.key).rows * (v.tileEntry c.key).cols % 2 = 0 else fmtBytes (v.tileEntry c.key).fmt = some 4

/-- Lanes' words that an access may name (R266, R417): aligned, and within the bounds of the handle. -/
abbrev WordsOk (v : State) (c : Cap) (as : List Nat) : Prop :=
  ∀ a ∈ as, a % 4 = 0 ∧ (v.baseBounds c).1 ≤ a ∧ a + 4 ≤ (v.baseBounds c).2

section Work
variable {v v1 w t : State} {r : BitVec 6} {masked : BitVec 1} {h : BitVec 5} {c : Cap} (hr : ReadsH v h c v1)
include hr

/-! ## MOD: the words wrap over the storage (R200) -/

theorem run_vldModAct {ty : BitVec 4} {b : Nat} (hu : UseOk v1 c [kTile, kBlank] pR [1]) (hwide : WidthOk v1 c ty.toNat)
    (hl : VecLoads v1 r masked h c (modAddrs c (v1.wordCount c ty.toNat) b) t) : (vldModAct r ty masked h b).run v = .ok ((), t) := by
  rw [vldModAct, run_bind_ok hr, run_bind_ok (run_checkVec hu), run_bind_ok (run_checkWidth hwide), run_bind_ok (run_get v1)]
  exact run_loadLanes hl

theorem run_vstModAct {ty : BitVec 4} {b : Nat} (hu : UseOk v1 c [kBlank] pW [1])
    (hl : VecStores v1 r masked h c (modAddrs c (v1.wordCount c ty.toNat) b) t) : (vstModAct r ty masked h b).run v = .ok ((), t) := by
  rw [vstModAct, run_bind_ok hr, run_bind_ok (run_checkVec hu), run_bind_ok (run_get v1)]
  exact run_storeLanes hl

/-! ## ROW: the words in order from an element (R225) -/

section Row
variable {sb : BitVec 6} {e : Word64} (hs : ReadsS v1 sb e w) (hfit : e.toNat + 128 ≤ w.wordCount c 9)
include hs hfit

theorem run_vldRowAct (hu : UseOk w c [kTile, kBlank] pR [0, 1]) (hwide : WidthOk w c 9)
    (hl : VecLoads w r masked h c ((List.range 128).map fun i => c.addr.toNat + 4 * (e.toNat + i)) t) :
    (vldRowAct r masked h sb).run v = .ok ((), t) := by
  rw [vldRowAct, run_bind_ok hr, run_bind_ok hs, run_bind_ok (run_checkVec hu), run_bind_ok (run_rowAddrs hfit),
    run_bind_ok (run_checkWidth hwide)]
  exact run_loadLanes hl

theorem run_vstRowAct (hu : UseOk w c [kBlank] pW [0, 1])
    (hl : VecStores w r masked h c ((List.range 128).map fun i => c.addr.toNat + 4 * (e.toNat + i)) t) :
    (vstRowAct r masked h sb).run v = .ok ((), t) := by
  rw [vstRowAct, run_bind_ok hr, run_bind_ok hs, run_bind_ok (run_checkVec hu), run_bind_ok (run_rowAddrs hfit)]
  exact run_storeLanes hl

end Row

/-! ## STR: the words by a stride (R266, R417) -/

section Stride
variable {w' : State} {sb sc : BitVec 6} {o n : Word64} {k : Nat} (ho : ReadsS v1 sb o w') (hn : ReadsS w' sc n w)
  (hin : WordsOk w c ((List.range k).map fun i => (c.addr + o + BitVec.ofNat 64 i * n).toNat))
include ho hn hin

theorem run_vldStrAct (hu : UseOk w c [kPointer, kTile, kBlank] pR [0, 1, 5]) (hwide : WidthOk w c 9)
    (hl : VecLoads w r masked h c ((List.range k).map fun i => (c.addr + o + BitVec.ofNat 64 i * n).toNat) t) :
    (vldStrAct r masked h sb sc k).run v = .ok ((), t) := by
  rw [vldStrAct, run_bind_ok hr, run_bind_ok ho, run_bind_ok hn, run_bind_ok (run_checkOwn hu.1), run_bind_ok (run_checkVec hu),
    run_bind_ok (run_strideAddrs hin), run_bind_ok (run_checkWidth hwide)]
  exact run_loadLanes hl

theorem run_vstStrAct (hu : UseOk w c [kBlank] pW [0, 1])
    (hl : VecStores w r masked h c ((List.range k).map fun i => (c.addr + o + BitVec.ofNat 64 i * n).toNat) t) :
    (vstStrAct r masked h sb sc k).run v = .ok ((), t) := by
  rw [vstStrAct, run_bind_ok hr, run_bind_ok ho, run_bind_ok hn, run_bind_ok (run_checkOwn hu.1), run_bind_ok (run_checkVec hu),
    run_bind_ok (run_strideAddrs hin)]
  exact run_storeLanes hl

end Stride

end Work

/-! ## The words -/

/-- Settles O25: each word by its work. -/
theorem vectorMemory : Obligations.VectorMemory := by
  unfold Obligations.VectorMemory
  intro g s v v1 r vb vc sr ty masked imm h c hi hh hr wide mods row str inside
  subst hh
  refine ⟨fun t hu hwide hl => ?vldMod, fun t hu hl => ?vstMod,
    fun e w hs hfit => ⟨fun t hu hwide hl => ?vldRow, fun t hu hl => ?vstRow⟩,
    fun o n w' w ho hn hin => ⟨fun t hu hwide hl => ?vldStr, fun t hu hl => ?vstStr⟩⟩
  case vldMod => exact issueFall_completes hi (run_vldModAct hr hu hwide hl)
  case vstMod => exact issueFall_completes hi (run_vstModAct hr hu hl)
  case vldRow => exact issueFall_completes hi (run_vldRowAct hr hs hfit hu hwide hl)
  case vstRow => exact issueFall_completes hi (run_vstRowAct hr hs hfit hu hl)
  case vldStr => exact issueFall_completes hi (run_vldStrAct hr ho hn hin hu hwide hl)
  case vstStr => exact issueFall_completes hi (run_vstStrAct hr ho hn hin hu hl)

end Sys2Proof.Laws
end

section
/-! SUPPORT. The vector words that work element by element and those that move, select and reduce lanes (R200, R267, R399, R400,
R410-R416, R419, R420, R423-R426): what their work comes to. -/
namespace Sys2Proof.Laws
open Sys2Proof Sys2Proof.Machine Sys2Proof.Claims
-- In order: each thread of an elaboration in parallel reserves its stack, and the text is long.
set_option Elab.async false

/-! ## Results by lanes -/

/-- A vector result none of whose lanes can saturate. -/
theorem run_perLane (v : State) (vd : BitVec 6) (masked : BitVec 1) (lat : Nat) (f : Nat → BitVec 32) :
    (vecResult vd masked lat (perLane f)).run v = .ok ((), lanesOut v vd masked lat fun i => (f i, false)) := run_vecResult ..

/-- Status entry 16 has nothing to learn of such a result. -/
theorem lanesOut_unsaturated (v : State) (vd : BitVec 6) (masked : BitVec 1) (lat : Nat) (f : Nat → BitVec 32) :
    (lanesOut v vd masked lat fun i => (f i, false)) = flying v lat (.setV vd (maskFor v masked) (ofLanes ((List.range 128).map f))) := by
  have none_set : ((List.range 128).any fun i => (maskFor v masked).getLsbD i && false) = false :=
    List.any_eq_false.2 fun i _ => by simp
  rw [lanesOut, none_set, if_neg Bool.false_ne_true]

/-- A first item and copies of another, by their places. -/
theorem cons_replicate_eq_map {α : Type} (x y : α) (n : Nat) :
    x :: List.replicate n y = (List.range (n + 1)).map fun i => if i = 0 then x else y := by
  have tail : ((fun i => if i = 0 then x else y) ∘ Nat.succ) = fun _ => y := by
    funext i
    rw [Function.comp_apply, if_neg i.succ_ne_zero]
  rw [List.range_succ_eq_map, List.map_cons, List.map_map, if_pos rfl, tail, List.map_const', List.length_range]

/-! ## The tables of words that differ in their element or reduction alone -/

theorem exec_valu : ∀ row ∈ valuTable, ∀ g vd va vb ty rm sat masked s, exec (row.1 g vd va vb ty rm sat masked) s =
    issueFall g (pure ()) (vec2Act 2 vd va vb ty masked (row.2 ty.toNat rm.toNat (sat == 1))) s := by
  simp only [valuTable, List.forall_mem_cons, List.not_mem_nil, false_implies, implies_true, and_true]
  and_intros <;> exact fun _ _ _ _ _ _ _ _ _ => rfl

theorem exec_vcmp : ∀ row ∈ vcmpTable, ∀ g vd va vb ty masked s, exec (row.1 g vd va vb ty masked) s =
    issueFall g (pure ()) (vec2Act 2 vd va vb ty masked (cmpElem row.2 ty.toNat)) s := by
  simp only [vcmpTable, List.forall_mem_cons, List.not_mem_nil, false_implies, implies_true, and_true]
  and_intros <;> exact fun _ _ _ _ _ _ _ => rfl

theorem exec_vfun : ∀ row ∈ vfunTable, ∀ g vd va ty rm sat masked s, exec (row.1 g vd va ty rm sat masked) s =
    issueFall g (pure ()) (vec2Act 8 vd va va ty masked fun a _ => fp32.round rm.toNat (sat == 1) (row.2 (fp32.decode a))) s := by
  simp only [vfunTable, List.forall_mem_cons, List.not_mem_nil, false_implies, implies_true, and_true]
  and_intros <;> exact fun _ _ _ _ _ _ _ _ => rfl

theorem exec_vfma : ∀ row ∈ vfmaTable, ∀ g vd va vb vc ty rm sat masked s, exec (row.1 g vd va vb vc ty rm sat masked) s =
    issueFall g (pure ()) (fmaAct vd va vb vc ty rm sat masked (row.2 rm.toNat)) s := by
  simp only [vfmaTable, List.forall_mem_cons, List.not_mem_nil, false_implies, implies_true, and_true]
  and_intros <;> exact fun _ _ _ _ _ _ _ _ _ _ => rfl

theorem exec_vred : ∀ row ∈ vredTable, ∀ g vd va ty rm sat masked s, exec (row.1 g vd va ty rm sat masked) s =
    issueFall g (pure ()) (redAct vd va masked (row.2 ty.toNat rm.toNat (sat == 1))) s := by
  simp only [vredTable, List.forall_mem_cons, List.not_mem_nil, false_implies, implies_true, and_true]
  and_intros <;> exact fun _ _ _ _ _ _ _ _ => rfl

/-! ## Conversions (R413) -/

/-- A conversion writes the bits that its elements take up. -/
theorem run_vcvtAct (v : State) (vd va : BitVec 6) (ty : BitVec 4) (rm : BitVec 3) (sat masked : BitVec 1) (imm : BitVec 8) :
    let out := fun i => cvtLane ty.toNat (imm.toNat % 16) (imm.toNat / 16 % 4) rm.toNat (sat == 1) (lane ((v.core v.cur.1).vreg va) i)
    let y := ofLanes ((List.range 128).map fun i => (out i).1)
    let bits := cvtBits ty.toNat (imm.toNat % 16) (imm.toNat / 16 % 4)
    let w := flying v 3 (if bits = BitVec.allOnes 32 then .setV vd (maskFor v masked) y else .setVPart vd (maskFor v masked) bits y)
    (vcvtAct vd va ty rm sat masked imm).run v =
      .ok ((), if (List.range 128).any fun i => (maskFor v masked).getLsbD i && (out i).2 then flying w 3 .satFlag else w) := by
  intro out y bits w
  rw [vcvtAct, run_bind_ok (run_readV va v)]
  dsimp only
  rw [run_bind_ok (run_lanesFor masked v), run_bind_ok (run_result ..), anyFlag_range, List.map_map, apply_ite (StateT.run · _),
    run_result, run_pure, ← apply_ite (fun t => Except.ok ((), t))]
  rfl

/-! ## Lanes moved and selected (R411, R419, R420, R423, R425) -/

theorem run_rotsAct {v w : State} {sr : BitVec 6} {n : Word64} (hn : ReadsS v sr n w) (vd va : BitVec 6) (masked : BitVec 1) :
    (rotsAct vd va masked sr).run v =
      .ok ((), lanesOut w vd masked 3 fun i => (lane ((w.core w.cur.1).vreg va) ((i + n.toNat % 128) % 128), false)) := by
  rw [rotsAct, run_bind_ok hn, run_rot]

theorem run_permAct (v : State) (vd va vb : BitVec 6) (masked : BitVec 1) : (permAct vd va vb masked).run v =
    .ok ((), lanesOut v vd masked 4 fun i =>
      (lane ((v.core v.cur.1).vreg va) ((lane ((v.core v.cur.1).vreg vb) i).toNat % 128), false)) := by
  rw [permAct, run_bind_ok (run_readV va v), run_bind_ok (run_readV vb v), run_perLane]

theorem run_bcastSAct {v w : State} {sr : BitVec 6} {y : Word64} (hy : ReadsS v sr y w) (vd : BitVec 6) (masked : BitVec 1) :
    (bcastSAct vd masked sr).run v = .ok ((), lanesOut w vd masked 2 fun _ => (y.setWidth 32, false)) := by
  rw [bcastSAct, run_bind_ok hy, run_bcast]

theorem run_bcastLaneAct (v : State) (vd va : BitVec 6) (masked : BitVec 1) (n : Nat) : (bcastLaneAct vd va masked n).run v =
    .ok ((), lanesOut v vd masked 2 fun _ => (lane ((v.core v.cur.1).vreg va) n, false)) := by
  rw [bcastLaneAct, run_bind_ok (run_readV va v), run_bcast]

theorem run_selMaskAct (v : State) (vd va vb : BitVec 6) : (selMaskAct vd va vb).run v = .ok ((), lanesOut v vd 0 2 fun i =>
    (if (v.core v.cur.1).top.getLsbD i then lane ((v.core v.cur.1).vreg va) i else lane ((v.core v.cur.1).vreg vb) i, false)) := by
  rw [selMaskAct, run_bind_ok (run_readV va v), run_bind_ok (run_readV vb v), run_bind_ok (run_getCore v), run_perLane]

theorem run_movsAct {v w : State} {va sr : BitVec 6} {n : Nat} {pair : Bool} {e : Effect}
    (ht : TakesS v sr ((if pair then lane ((v.core v.cur.1).vreg va) (n + 1) else 0) ++ lane ((v.core v.cur.1).vreg va) n) e w) :
    (movsAct va sr n pair).run v = .ok ((), flying w (2 * v.dC v.cur.1 + 3) e) := by
  rw [movsAct, run_bind_ok (run_readV va v), run_bind_ok (run_getD v), run_writeS ht]

/-! ## Reductions and rankings (R267, R424, R426) -/

theorem run_redAct (v : State) (vd va : BitVec 6) (masked : BitVec 1) (r : Red) : (redAct vd va masked r).run v =
    .ok ((), lanesOut v vd 0 6 fun i => if i = 0 then redTree r 8 ((List.range 128).map fun j =>
      if (maskFor v masked).getLsbD j then lane ((v.core v.cur.1).vreg va) j else r.unit) else (0, false)) := by
  rw [redAct, run_bind_ok (run_readV va v), run_bind_ok (run_lanesFor masked v)]
  dsimp only
  rw [cons_replicate_eq_map, run_vecResult]

section Ranks
variable {v w : State} {vb : BitVec 6} {n : Word64} {k : Nat} (hn : ReadsS v vb n w) (h1 : 1 ≤ n.toNat) (h2 : n.toNat ≤ 128)
  (hk : k ≤ n.toNat)
include hn h1 h2 hk

theorem run_topkRanks (va : BitVec 6) : (topkRanks va vb k).run v =
    .ok ((ranking (fun i => fp32.decode (lane ((w.core w.cur.1).vreg va) i).toNat) n.toNat).take k, w) := by
  rw [topkRanks, run_bind_ok hn]
  dsimp only
  rw [run_bind_ok (run_need (decide_eq_true ⟨h1, h2, hk⟩) ..), run_bind_ok (run_readV va w), run_pure]

theorem run_topkValAct (vd va : BitVec 6) (masked : BitVec 1) :
    let y := fun i => lane ((w.core w.cur.1).vreg va) i
    let ranks := (ranking (fun i => fp32.decode (y i).toNat) n.toNat).take k
    (topkValAct vd va vb masked k).run v = .ok ((), lanesOut w vd masked 12 fun i => (match ranks[i]? with
      | some l => BitVec.ofNat 32 (fp32.round 0 false (fp32.decode (y l).toNat)).1
      | none => 0, false)) := by
  rw [topkValAct, run_bind_ok (run_topkRanks hn h1 h2 hk va), run_bind_ok (run_readV va w)]
  exact run_perLane ..

theorem run_topkIdxAct {sr : BitVec 6} {o : Word64} {w' : State} (ho : ReadsS w sr o w') (vd va : BitVec 6) (masked : BitVec 1) :
    let ranks := (ranking (fun i => fp32.decode (lane ((w.core w.cur.1).vreg va) i).toNat) n.toNat).take k
    let place := fun i => match ranks[i]? with | some l => (l + o.toNat) % 2 ^ 16 | none => 0
    (topkIdxAct vd va vb sr masked k).run v =
      .ok ((), lanesOut w' vd masked 12 fun i => (BitVec.ofNat 32 (place (2 * i) + place (2 * i + 1) * 2 ^ 16), false)) := by
  rw [topkIdxAct, run_bind_ok (run_topkRanks hn h1 h2 hk va), run_bind_ok ho]
  exact run_perLane ..

end Ranks

/-! ## The words -/

/-- Each word by its elements. -/
theorem elementWords : ElementWords := by
  unfold ElementWords
  intro g s v vd va vb vc ty rm sat masked h x t
  refine ⟨fun row hrow => ?valu, ?abs, fun row hrow => ?vcmp, fun row hrow => ?vfun, fun row hrow => ?vfma, fun imm => ?vcvt⟩
  case valu =>
    rw [exec_valu row hrow]
    exact issueFall_completes h (run_vec2Act ..)
  case abs => exact issueFall_completes h (run_vec2Act v 2 vd va va ty masked (absElem ty.toNat rm.toNat (sat == 1)))
  case vcmp =>
    rw [exec_vcmp row hrow]
    exact issueFall_completes h (run_vec2Act v 2 vd va vb ty masked (cmpElem row.2 ty.toNat))
  case vfun =>
    rw [exec_vfun row hrow]
    exact issueFall_completes h (run_vec2Act ..)
  case vfma =>
    rw [exec_vfma row hrow]
    exact issueFall_completes h (run_fmaAct ..)
  case vcvt => exact issueFall_completes h (run_vcvtAct ..)

/-- Each word by the lanes it takes. -/
theorem laneWords : LaneWords := by
  unfold LaneWords
  intro g s v vd va vb vc sr ty masked imm h x ends
  refine ⟨?lut, ?shiftLeft, ?shiftRight, ?rotate, fun n w hn => ?rotateBy, ?permute, ?permuteTwo, fun y w hy => ?bcastScalar, ?bcastLane,
    ?bcastImm, ?selBit, ?selMask, fun e w ht => ?moveLane, fun e w ht => ?movePair, fun row hrow rm sat => ?reduce,
    fun n w hn h1 h2 hk => ⟨?rankValues, fun o w' ho => ?rankPlaces⟩⟩
  case lut => exact issueFall_completes h (run_three v 2 vd va vb vc masked fun a b c i => lutLane imm (lane a i) (lane b i) (lane c i))
  case shiftLeft => exact issueFall_completes h (run_lane2 ..)
  case shiftRight => exact issueFall_completes h (run_lane2 ..)
  case rotate => exact issueFall_completes h (run_rot ..)
  case rotateBy => exact issueFall_completes h (run_rotsAct hn ..)
  case permute => exact issueFall_completes h (run_permAct ..)
  case permuteTwo =>
    exact issueFall_completes h (run_three v 4 vd va vb vc masked fun a b c i =>
      if (lane b i).toNat % 256 < 128 then lane a ((lane b i).toNat % 256) else lane c ((lane b i).toNat % 256 - 128))
  case bcastScalar => exact issueFall_completes h (run_bcastSAct hy ..)
  case bcastLane => exact issueFall_completes h (run_bcastLaneAct ..)
  case bcastImm => exact issueFall_completes h (run_bcast ..)
  case selBit =>
    exact issueFall_completes h (run_three v 2 vd va vb vc masked fun a b c i => (lane a i &&& lane c i) ||| (lane b i &&& ~~~(lane c i)))
  case selMask => exact issueFall_completes h (run_selMaskAct ..)
  case moveLane => exact issueFall_completes h (run_movsAct ht)
  case movePair => exact issueFall_completes h (run_movsAct ht)
  case reduce =>
    rw [exec_vred row hrow]
    exact issueFall_completes h (run_redAct ..)
  case rankValues => exact issueFall_completes h (run_topkValAct hn h1 h2 hk ..)
  case rankPlaces => exact issueFall_completes h (run_topkIdxAct hn h1 h2 hk ho ..)

end Sys2Proof.Laws
end

section
/-! SUPPORT. The mask stack (R373, R374) and parked registers (R421, R422): what the words' work comes to, and O24. -/
namespace Sys2Proof.Laws
open Sys2Proof Sys2Proof.Machine Sys2Proof.Claims
-- In order: each thread of an elaboration in parallel reserves its stack, and the text is long.
set_option Elab.async false

/-! ## Faults -/

/-- A check that fails raises its fault. -/
theorem run_need_fails {ok : Bool} (h : ok = false) (cls : FaultClass) (sub : BitVec 8) (i : Word64) (s : State) :
    (need ok cls sub i).run s = .error (.fault (s.mkFault cls sub i)) := by
  rw [h]
  rfl

/-- The fault of a word that faults is noted. -/
theorem issueFall_faults {g : Guard} {off body : Act Unit} {s v : State} {f : FaultRec} (h : Issuing g s v)
    (hb : body.run v = .error (.fault f)) : ∃ t, issueFall g off body s = .next t ∧ t.note = .faulted f :=
  ⟨_, issueN_faults h (run_bind_error hb _), rfl⟩

/-! ## The stack grows and shrinks (R373, R374) -/

section Stack
variable {g : Guard} {s v : State} {va vb : BitVec 6} {ty : BitVec 4}

theorem run_mpushAct (hdepth : (v.core v.cur.1).masks.length < 8) (c : Cond) : (mpushAct c va vb ty).run v =
    .ok ((), flying v 1 (.masks (((v.core v.cur.1).top &&& maskOf fun i => c.ofSign (elemCmp ty.toNat
      (lane ((v.core v.cur.1).vreg va) i).toNat (lane ((v.core v.cur.1).vreg vb) i).toNat)) :: (v.core v.cur.1).masks))) := by
  rw [mpushAct, run_bind_ok (run_getCore v), run_bind_ok (run_need (decide_eq_true hdepth) ..), run_bind_ok (run_readV va v),
    run_bind_ok (run_readV vb v), run_result]

theorem run_mpushAct_full (hdepth : 8 ≤ (v.core v.cur.1).masks.length) (c : Cond) : (mpushAct c va vb ty).run v =
    .error (.fault (v.mkFault .resource 0 (BitVec.ofNat 64 (v.core v.cur.1).masks.length))) := by
  rw [mpushAct, run_bind_ok (run_getCore v)]
  exact run_bind_error (run_need_fails (decide_eq_false (Nat.not_lt.2 hdepth)) ..) _

theorem run_mpopAct (hdepth : 1 < (v.core v.cur.1).masks.length) :
    mpopAct.run v = .ok ((), flying v 1 (.masks (v.core v.cur.1).masks.tail)) := by
  rw [mpopAct, run_bind_ok (run_getCore v), run_bind_ok (run_need (decide_eq_true hdepth) ..), run_result]

theorem run_mpopAct_last (hdepth : (v.core v.cur.1).masks.length ≤ 1) : mpopAct.run v =
    .error (.fault (v.mkFault .resource 0 (BitVec.ofNat 64 (v.core v.cur.1).masks.length))) := by
  rw [mpopAct, run_bind_ok (run_getCore v)]
  exact run_bind_error (run_need_fails (decide_eq_false (Nat.not_lt.2 hdepth)) ..) _

/-- The forms of MPUSH differ in their condition alone. -/
theorem exec_mpush : ∀ row ∈ [(Instr.mpushEq, Cond.eq), (Instr.mpushNe, Cond.ne), (Instr.mpushLt, Cond.lt), (Instr.mpushGe, Cond.ge)],
    exec (row.1 g va vb ty) s = issueFall g (pure ()) (mpushAct row.2 va vb ty) s := by
  simp only [List.forall_mem_cons, List.not_mem_nil, false_implies, implies_true, and_true]
  and_intros <;> rfl

/-- So each is a push by some condition. -/
theorem exec_mpush_exists : ∀ i ∈ [Instr.mpushEq g va vb ty, Instr.mpushNe g va vb ty, Instr.mpushLt g va vb ty, Instr.mpushGe g va vb ty],
    ∃ c, exec i s = issueFall g (pure ()) (mpushAct c va vb ty) s := by
  simp only [List.forall_mem_cons, List.not_mem_nil, false_implies, implies_true, and_true]
  exact ⟨⟨.eq, rfl⟩, ⟨.ne, rfl⟩, ⟨.lt, rfl⟩, ⟨.ge, rfl⟩⟩

end Stack

/-! ## The top mask changed and read (R373) -/

theorem run_minvAct (v : State) : minvAct.run v = .ok ((), flying v 1 (.masks
    (((match (v.core v.cur.1).masks with | _ :: p :: _ => p | _ => BitVec.allOnes 128) &&& ~~~(v.core v.cur.1).top) ::
      (v.core v.cur.1).masks.tail))) := run_bind_ok (run_getCore v) _

theorem run_mgetVAct (v : State) (vd : BitVec 6) : (mgetVAct vd).run v = .ok ((), flying v 1 (.setV vd (BitVec.allOnes 128)
    (ofLanes ((List.range 128).map fun i => if (v.core v.cur.1).top.getLsbD i then 0xFFFFFFFF else 0)))) := by
  rw [mgetVAct, run_bind_ok (run_getCore v), run_perLane, lanesOut_unsaturated]
  rfl

theorem run_msetVAct (v : State) (va : BitVec 6) : (msetVAct va).run v = .ok ((), flying v 1
    (.masks (maskOf (fun i => lane ((v.core v.cur.1).vreg va) i != 0) :: (v.core v.cur.1).masks.tail))) := by
  rw [msetVAct, run_bind_ok (run_getCore v), run_bind_ok (run_readV va v), run_result]

/-! ## Parking (R421, R422) -/

theorem run_vparkAct {v : State} {va : BitVec 6} {col : Nat}
    (hspill : ∀ p ∈ (v.core v.cur.1).spill, p.2 ≠ col ∧ p.1 ≠ va.toNat) (hwrites : (v.core v.cur.1).writesColumn col (v.ttc + 4) = false) :
    (vparkAct va col).run v = .ok ((), flying (flying v 1 (.park va col)) 4 (.accCol col ((v.core v.cur.1).vreg va))) := by
  have unused : ((v.core v.cur.1).spill.any fun p => decide (p.2 = col ∨ p.1 = va.toNat)) = false :=
    List.any_eq_false.2 fun p hp => by rw [decide_eq_true_iff]; exact not_or.2 (hspill p hp)
  have free : (!((v.core v.cur.1).spill.any fun p => decide (p.2 = col ∨ p.1 = va.toNat)) &&
      !(v.core v.cur.1).writesColumn col (v.ttc + 4)) = true := by
    rw [unused, hwrites]
    rfl
  rw [vparkAct, run_bind_ok (run_getCore v), run_bind_ok (run_getTtc v), run_bind_ok (run_need free ..), run_bind_ok (run_result ..),
    run_result]

/-- A parked register comes back where its column says. -/
theorem run_vunparkAct {v : State} {vd : BitVec 6} {p : Nat × Nat}
    (hp : (v.core v.cur.1).spill.find? (fun p => decide (p.1 = vd.toNat)) = some p) : (vunparkAct vd).run v =
      .ok ((), flying (flying v 4 (.setV vd (BitVec.allOnes 128) 0)) 1 (.unpark vd p.2 v.nextId)) := by
  rw [vunparkAct, run_bind_ok (run_getCore v), hp, run_bind_ok (run_addLatch ..), run_result]
  rfl

/-! ## The words -/

/-- Each word by its work, a push and a pop by the depth of the stack. -/
theorem maskWords : MaskWords := by
  unfold MaskWords
  intro g s v vd va vb vc ty imm h k x ends
  refine ⟨fun hdepth row hrow => ?push, fun i hi hdepth => ?pushFull, ?invert, fun hdepth => ?pop, fun hdepth => ?popLast, ?getMask,
    ?getVector, ?setMask, ?setVector, fun col hcol hspill hwrites => ?park, fun p hp => ?unpark⟩
  case push =>
    rw [exec_mpush row hrow]
    exact issueFall_completes h (run_mpushAct hdepth row.2)
  case pushFull =>
    obtain ⟨c, hc⟩ := exec_mpush_exists i hi
    obtain ⟨t, ht, hnote⟩ := issueFall_faults h (run_mpushAct_full hdepth c)
    exact ⟨t, _, hc.trans ht, hnote, rfl⟩
  case invert => exact issueFall_completes h (run_minvAct v)
  case pop => exact issueFall_completes h (run_mpopAct hdepth)
  case popLast =>
    obtain ⟨t, ht, hnote⟩ := issueFall_faults h (run_mpopAct_last hdepth)
    exact ⟨t, _, ht, hnote, rfl⟩
  case getMask => exact issueFall_completes h (run_bind_ok (run_getCore v) _)
  case getVector => exact issueFall_completes h (run_mgetVAct v vd)
  case setMask => exact issueFall_completes h (run_bind_ok (run_getCore v) _)
  case setVector => exact issueFall_completes h (run_msetVAct v va)
  case park =>
    subst hcol
    exact issueFall_completes h (run_vparkAct hspill hwrites)
  case unpark => exact issueFall_completes h (run_vunparkAct hp)

/-- Settles O24, from the words by elements, by lanes and of masks. -/
theorem vectorWords : Obligations.VectorWords := ⟨elementWords, laneWords, maskWords⟩

end Sys2Proof.Laws
end

section
/-! SUPPORT. What executing answers (R204, R205): a word on a core that runs a car, a micro-operation of a running entry and every event
a next state; the machine's moves run nothing else; and O52. -/
namespace Sys2Proof.Laws
open Sys2Proof Sys2Proof.Machine
-- In order: each thread of an elaboration in parallel reserves its stack, and the text is long.
set_option Elab.async false

/-! ## What executes -/

/-- What issues as a word: a word, or the event that stands in the place of one that is illegal. -/
def IssuesAsWord (i : Instr) : Prop := (guardField i).isSome = true ∨ ∃ sub, i = .illegalWord sub

/-- An event of the outside or of a unit. -/
def IsEvent (i : Instr) : Prop := guardField i = none ∧ isMicro i = false ∧ ∀ sub, i ≠ .illegalWord sub

/-- It answers a next state. -/
def Answers (i : Instr) (s : State) : Prop := ∃ t, exec i s = .next t

/-- Whatever is executed issues as a word, runs as a micro-operation or, an event, answers a next state. -/
theorem exec_cases (i : Instr) (s : State) :
    (IssuesAsWord i ∧ ∃ n g off body, exec i s = issueN n g off body s) ∨
    (isMicro i = true ∧ ∃ bad, ∃ body : EngCtx → Eng MicroEnd, exec i s = micro bad body s) ∨ Answers i s := by
  cases i with
  | illegalWord sub => exact .inl ⟨.inr ⟨sub, rfl⟩, _, _, _, _, rfl⟩
  | microEnd => exact .inr (.inl ⟨rfl, 4, fun _ => pure .finish, rfl⟩)
  | microJmp target => exact .inr (.inl ⟨rfl, 4, fun _ => pure (.jump target.toNat), rfl⟩)
  | microQk | microSmax | microExpp | microDen | microResc | microPv | microWalk | microGath | microNorm | microLoop | microBnz | microSig
  | microWaitt | microSetp => exact .inr (.inl ⟨rfl, _, _, rfl⟩)
  | attentionEntryStart | shadowBankWrite | recordIngress | recordPass | launchPacket | doorbell | queueBaseWrite | hostNotification
  | resume | coresOffered | carComplete | partitionDescriptorWrite | serviceWindowEnd | scrubComplete | holdRelease | holdLimit
  | refreshWindowOpen | refreshWindowClose | engineEntryComplete | porterOperation | waitvPoll | barrierArrival | weightReturn
  | extension | uniquenessQuery | sealRecord | conversionToBlank | allocRequest | storageFreed | checkFailure | shadowWalkComplete
  | majorFaultSave | contextRestore | timerCompare | interruptTaken | abortTimer | revive | haltResume | invalidationRequest
  | invalidationAck | pageMigration | migrationLineCopy | dieResetRequest | resetAssert | dieResetRelease | frequencyRequest
  | frequencyStallStart | frequencyStallEnd | retimeRelease | retimeSlipFault | sstepDrainPoint | markComplete | kvQueueDrain
  | tabletArrival | shuttleDelivery | slotOccurrence | lateReturn | messageArrival | serviceItemArrival | remoteOperation
  | freezeNotice | drainMarker | peerUnreachable | sequenceExchangeTimeout | calendarDark | calendarTakeover | berthTableWrite
  | grantChange | registerWrite | loadOverlay | unloadOverlay | powerOn | imageAccept | bootRetry | measurementExtend | quote
  | powerState | temperatureSample | slipStall | managementInterrupt | poisonedStorageRelease | haltAbort | hostPagingCopyResume =>
    exact .inr (.inr ⟨_, rfl⟩)
  | _ => exact .inl ⟨.inl rfl, _, _, _, _, rfl⟩

/-- A micro-operation is no word. -/
theorem not_issuesAsWord_of_micro {i : Instr} (h : isMicro i = true) : ¬ IssuesAsWord i := by
  cases i with
  | microEnd | microQk | microSmax | microExpp | microDen | microResc | microPv | microWalk | microGath | microNorm | microLoop | microBnz
  | microJmp | microSig | microWaitt | microSetp =>
    rintro (hg | ⟨sub, hi⟩)
    · cases hg
    · cases hi
  | _ => cases h

/-- Where its issuer is there, whatever executes answers a next state. -/
theorem exec_answers {i : Instr} {s : State} (hword : IssuesAsWord i → (s.consistOf s.cur.1).isSome = true)
    (hmicro : isMicro i = true → (s.core s.cur.1).attnEntry.isSome = true) : Answers i s := by
  rcases exec_cases i s with ⟨hi, n, g, off, body, he⟩ | ⟨hi, bad, body, he⟩ | ha
  · obtain ⟨k, hk⟩ := Option.isSome_iff_exists.1 (hword hi)
    exact ⟨issueOn k n g off body s, by rw [he, issueN, hk]⟩
  · obtain ⟨e, hk⟩ := Option.isSome_iff_exists.1 (hmicro hi)
    exact ⟨_, by rw [he, micro, hk]⟩
  · exact ha

theorem word_answers {i : Instr} {s : State} (hi : IssuesAsWord i) (hs : (s.consistOf s.cur.1).isSome = true) : Answers i s :=
  exec_answers (fun _ => hs) fun hm => absurd hi (not_issuesAsWord_of_micro hm)

theorem micro_answers {i : Instr} {s : State} (hi : isMicro i = true) (hs : (s.core s.cur.1).attnEntry.isSome = true) : Answers i s :=
  exec_answers (fun hw => absurd hw (not_issuesAsWord_of_micro hi)) fun _ => hs

theorem not_issuesAsWord_of_event {i : Instr} (h : IsEvent i) : ¬ IssuesAsWord i := by
  obtain ⟨hguard, -, hillegal⟩ := h
  rintro (hg | ⟨sub, hi⟩)
  · simp [hguard] at hg
  · exact hillegal sub hi

theorem event_answers {i : Instr} (hi : IsEvent i) (s : State) : Answers i s :=
  exec_answers (fun hw => absurd hw (not_issuesAsWord_of_event hi)) fun hm => absurd hm (by simp [hi.2.1])

/-! ## Events that are due -/

/-- What is due, if anything, is an event. -/
def EventDue (o : Option Instr) : Prop := ∀ i, o = some i → IsEvent i

theorem eventDue_none : EventDue none := by
  intro _ h
  cases h

theorem eventDue_some {i : Instr} (h : IsEvent i) : EventDue (some i) := by
  rintro _ ⟨⟩
  exact h

theorem eventDue_ite {c : Prop} [Decidable c] {a b : Option Instr} (ha : EventDue a) (hb : EventDue b) : EventDue (if c then a else b) := by
  split
  · exact ha
  · exact hb

theorem isEvent_homeEvent (x : HomeReq ⊕ Nat) : IsEvent (homeEvent x) := by
  unfold homeEvent
  split
  · exact ⟨rfl, rfl, nofun⟩
  · split <;> exact ⟨rfl, rfl, nofun⟩

theorem isEvent_turntableEvent (s : State) (d : TtDue) : IsEvent (turntableEvent s d) := by
  cases d <;> exact ⟨rfl, rfl, nofun⟩

theorem eventDue_dispatcher (s : State) : EventDue (dispatcherEvent s) := by
  unfold dispatcherEvent
  refine eventDue_ite (eventDue_some ⟨rfl, rfl, nofun⟩) (eventDue_ite (eventDue_some ⟨rfl, rfl, nofun⟩)
    (eventDue_ite (eventDue_some ⟨rfl, rfl, nofun⟩) ?_))
  split
  · exact eventDue_some ⟨rfl, rfl, nofun⟩
  · exact eventDue_some ⟨rfl, rfl, nofun⟩
  split
  · exact eventDue_some ⟨rfl, rfl, nofun⟩
  split
  · exact eventDue_some ⟨rfl, rfl, nofun⟩
  split
  · exact eventDue_some ⟨rfl, rfl, nofun⟩
  refine eventDue_ite (eventDue_some ⟨rfl, rfl, nofun⟩) ?_
  split
  · exact eventDue_some ⟨rfl, rfl, nofun⟩
  split
  · exact eventDue_some ⟨rfl, rfl, nofun⟩
  refine eventDue_ite eventDue_none (eventDue_ite (eventDue_some ⟨rfl, rfl, nofun⟩)
    (eventDue_ite (eventDue_some ⟨rfl, rfl, nofun⟩) ?_))
  split
  · exact eventDue_some ⟨rfl, rfl, nofun⟩
  · exact eventDue_some ⟨rfl, rfl, nofun⟩
  · exact eventDue_none

theorem eventDue_unit (s : State) : EventDue (unitEvent s) := by
  unfold unitEvent
  split
  · exact eventDue_some ⟨rfl, rfl, nofun⟩
  split
  · exact eventDue_some (isEvent_homeEvent _)
  split
  · exact eventDue_some ⟨rfl, rfl, nofun⟩
  · exact eventDue_some ⟨rfl, rfl, nofun⟩
  · exact eventDue_some ⟨rfl, rfl, nofun⟩
  split
  · exact eventDue_some ⟨rfl, rfl, nofun⟩
  split
  · exact eventDue_some ⟨rfl, rfl, nofun⟩
  split
  · exact eventDue_some ⟨rfl, rfl, nofun⟩
  · exact eventDue_some ⟨rfl, rfl, nofun⟩
  split
  · exact eventDue_some ⟨rfl, rfl, nofun⟩
  split
  · exact eventDue_some ⟨rfl, rfl, nofun⟩
  split
  · exact eventDue_some ⟨rfl, rfl, nofun⟩
  · exact eventDue_some ⟨rfl, rfl, nofun⟩
  · intro i h
    obtain ⟨d, -, rfl⟩ := Option.map_eq_some_iff.1 h
    exact isEvent_turntableEvent s d

/-! ## Moves -/

/-- What a move runs answers a next state. -/
def MoveAnswers : Move → Prop
  | .run i s => Answers i s
  | .move _ => True

/-- A move, if there is one, answers a next state. -/
def MovesAnswer (o : Option Move) : Prop := ∀ m, o = some m → MoveAnswers m

theorem movesAnswer_none : MovesAnswer none := by
  intro _ h
  cases h

theorem movesAnswer_some {m : Move} (h : MoveAnswers m) : MovesAnswer (some m) := by
  rintro _ ⟨⟩
  exact h

theorem movesAnswer_move (s : State) : MovesAnswer (some (.move s)) := movesAnswer_some trivial

theorem movesAnswer_event {i : Instr} {s : State} (h : IsEvent i) : MovesAnswer (some (.run i s)) := movesAnswer_some (event_answers h s)

theorem movesAnswer_ite {c : Prop} [Decidable c] {a b : Option Move} (ha : MovesAnswer a) (hb : MovesAnswer b) :
    MovesAnswer (if c then a else b) := by
  split
  · exact ha
  · exact hb

theorem sboxMove_answers (s : State) : MovesAnswer (sboxMove s) := by
  unfold sboxMove
  split
  · exact movesAnswer_event ⟨rfl, rfl, nofun⟩
  · exact movesAnswer_event ⟨rfl, rfl, nofun⟩
  · exact movesAnswer_event ⟨rfl, rfl, nofun⟩
  · split
    · split
      · exact movesAnswer_move _
      · exact movesAnswer_none
    · exact movesAnswer_none
  · exact movesAnswer_none

theorem isMicro_of_decodeMicro {w : Word64} {i : Instr} (h : decodeMicro w = some i) : isMicro i = true := by
  unfold decodeMicro at h
  split at h
  · rename_i j hj
    split at h
    · cases h
      exact micro_facts w i hj
    · cases h
  · cases h

/-- A core whose micro-operation is due runs an entry (R247, R250). -/
theorem attnEntry_of_dueMicro {s : State} {core : Nat} {w : Option Word64} (h : dueMicro s = some (core, w)) :
    (s.core core).attnEntry.isSome = true := by
  obtain ⟨x, hx, hp⟩ := Option.map_eq_some_iff.1 h
  cases hp
  have hready : microReady s core = true := List.find?_some hx
  cases he : (s.core core).attnEntry with
  | none => simp [microReady, he] at hready
  | some e => rfl

theorem microMove_answers (s : State) : MovesAnswer (microMove s) := by
  unfold microMove
  split
  · rename_i x w hdue
    split
    · rename_i i hi
      exact movesAnswer_some (micro_answers (isMicro_of_decodeMicro hi) (attnEntry_of_dueMicro hdue :))
    · exact movesAnswer_move _
  · exact movesAnswer_move _
  · exact movesAnswer_none

/-! ## Words that are due -/

/-- What stands at a sequencer's place issues as a word (R122). -/
theorem issuesAsWord_decodeAt (s : State) (core : Nat) (q : SeqId) : IssuesAsWord (decodeAt s core q) := by
  unfold decodeAt
  dsimp only
  split
  · exact .inr ⟨_, rfl⟩
  · split
    · rename_i i hi
      obtain ⟨-, hb, -, -⟩ := decode_ok hi
      exact .inl (by rw [(build_facts _ _ _ hb).1]; rfl)
    · exact .inr ⟨_, rfl⟩

/-- A word that is due is of a core that runs the consist's car. -/
theorem consistOf_of_dueWords {s : State} {k : Nat} {w : Nat × SeqId} (h : w ∈ dueWords s k) : s.consistOf w.1 = some k := by
  have hw := (List.mem_filter.1 h).2
  simp only [Bool.and_eq_true, beq_iff_eq] at hw
  exact hw.1.1

/-- A word that was tried: one of those that are due, as it issues. -/
theorem tryWords_mem {k : Nat} {ws : List (Nat × SeqId)} {u : State} {t : Try} (h : t ∈ tryWords k ws u) :
    t.w ∈ ws ∧ IssuesAsWord t.i := by
  induction ws generalizing u with
  | nil => cases h
  | cons w ws ih =>
    have hhead : ∀ n c, t = ⟨w, decodeAt u w.1 w.2, n, c⟩ → t.w ∈ w :: ws ∧ IssuesAsWord t.i := by
      rintro n c rfl
      exact ⟨List.mem_cons_self, issuesAsWord_decodeAt u w.1 w.2⟩
    have htail : ∀ {v : State}, t ∈ tryWords k ws v → t.w ∈ w :: ws ∧ IssuesAsWord t.i := fun ht =>
      ⟨List.mem_cons_of_mem w (ih ht).1, (ih ht).2⟩
    unfold tryWords at h
    dsimp only at h
    split at h
    · split at h
      · exact (List.mem_cons.1 h).elim (hhead _ _) htail
      · exact (List.mem_cons.1 h).elim (hhead _ _) htail
    · exact (List.mem_cons.1 h).elim (hhead _ _) htail

/-- A word that was tried may run: its sequencer's core runs the car. -/
theorem try_answers {s u : State} {k : Nat} {t : Try} (h : t ∈ tryWords k (dueWords s k) u) :
    Answers t.i { s with cur := t.w, note := .none } := by
  obtain ⟨hw, hi⟩ := tryWords_mem h
  refine word_answers hi ?_
  show (s.consistOf t.w.1).isSome = true
  rw [consistOf_of_dueWords hw]
  rfl

section
variable {s : State} {k : Nat}

theorem holdOn_answers {t : Try} (h : Answers t.i { s with cur := t.w, note := .none }) : MoveAnswers (holdOn s k t) := by
  unfold holdOn
  dsimp only
  split
  · exact h
  · trivial

theorem faultOn_answers {t : Try} (h : Answers t.i { s with cur := t.w, note := .none }) (f : FaultRec) :
    MoveAnswers (faultOn s k t f) := by
  unfold faultOn
  dsimp only
  split
  · exact h
  · trivial

theorem runMove_answers : MovesAnswer (runMove s k) := by
  unfold runMove
  dsimp only
  split
  · rename_i t ht
    exact movesAnswer_some (try_answers (List.mem_of_find?_eq_some ht))
  · split
    · split
      · exact movesAnswer_move _
      · split
        · rename_i t ht
          exact movesAnswer_some (holdOn_answers (try_answers (List.mem_of_find?_eq_some ht)))
        · exact movesAnswer_move _
    · split
      · split
        · rename_i t ht
          exact movesAnswer_some (faultOn_answers (try_answers (List.mem_of_find?_eq_some ht)) _)
        · exact movesAnswer_move _
      · split
        · exact movesAnswer_event ⟨rfl, rfl, nofun⟩
        · split
          · rename_i t ts ht
            exact movesAnswer_some (try_answers (u := s) (ht ▸ List.mem_cons_self))
          · exact movesAnswer_none

theorem holdMove_answers (h : Hold) : MovesAnswer (holdMove s k h) := by
  unfold holdMove
  extract_lets c boundary tries late
  have htries : ∀ t ∈ tries, Answers t.i { s with cur := t.w, note := .none } := by
    intro t ht
    cases hb : boundary with
    | true => simp [tries, hb] at ht
    | false => exact try_answers (u := s) (by simpa [tries, hb] using ht)
  clear_value tries boundary
  split
  · exact movesAnswer_move _
  · split
    · rename_i t _ ht
      exact movesAnswer_some (holdOn_answers (htries _ (List.mem_of_find?_eq_some ht)))
    · rename_i t _ ht
      intro m e
      obtain ⟨f, -, rfl⟩ := Option.map_eq_some_iff.1 e
      exact faultOn_answers (htries _ (List.mem_of_find?_eq_some ht)) f
    · split
      · exact movesAnswer_move _
      · split
        · exact movesAnswer_event ⟨rfl, rfl, nofun⟩
        · split
          · exact movesAnswer_ite (movesAnswer_event ⟨rfl, rfl, nofun⟩) movesAnswer_none
          · exact movesAnswer_move _
          · exact movesAnswer_move _
          · exact movesAnswer_none

theorem boundaryMove_answers (ov : Option (BitVec 16)) : MovesAnswer (boundaryMove s k ov) := by
  unfold boundaryMove
  dsimp only
  split
  · exact movesAnswer_move _
  · refine movesAnswer_ite (movesAnswer_move _) (movesAnswer_ite movesAnswer_none (movesAnswer_ite (movesAnswer_move _) ?_))
    split
    · exact movesAnswer_event ⟨rfl, rfl, nofun⟩
    · exact movesAnswer_move _

theorem reentryMove_answers (h : Option Hold) : MovesAnswer (reentryMove s k h) := by
  unfold reentryMove
  dsimp only
  split
  · split
    · exact movesAnswer_move _
    · split
      · exact movesAnswer_ite (movesAnswer_event ⟨rfl, rfl, nofun⟩) movesAnswer_none
      · exact movesAnswer_move _
  · refine movesAnswer_ite (movesAnswer_move _) ?_
    split
    · exact movesAnswer_move _
    · refine movesAnswer_ite (movesAnswer_move _) ?_
      split
      · exact movesAnswer_move _
      · exact movesAnswer_move _
      · exact movesAnswer_ite (movesAnswer_move _) (movesAnswer_ite (movesAnswer_event ⟨rfl, rfl, nofun⟩) movesAnswer_none)

theorem retimeMove_answers (r : Retime) : MovesAnswer (retimeMove s k r) := by
  unfold retimeMove
  split
  · exact movesAnswer_move _
  · exact movesAnswer_ite movesAnswer_none (movesAnswer_ite (movesAnswer_ite (movesAnswer_event ⟨rfl, rfl, nofun⟩) movesAnswer_none)
      (movesAnswer_ite (movesAnswer_event ⟨rfl, rfl, nofun⟩) movesAnswer_none))

theorem consMove_answers : MovesAnswer (consMove s k) := by
  unfold consMove
  dsimp only
  split
  · exact movesAnswer_ite movesAnswer_none (movesAnswer_ite (movesAnswer_move _) runMove_answers)
  · exact holdMove_answers _
  · exact movesAnswer_ite movesAnswer_none (boundaryMove_answers _)
  · exact retimeMove_answers _
  · exact reentryMove_answers _
  · exact movesAnswer_ite (movesAnswer_event ⟨rfl, rfl, nofun⟩) movesAnswer_none
  · exact movesAnswer_ite (movesAnswer_event ⟨rfl, rfl, nofun⟩) movesAnswer_none
  · exact movesAnswer_none

end

/-- Whatever moves next answers a next state, where events alone wait outside. -/
theorem pick_answers {s : State} (h : ∀ i ∈ s.inputs, IsEvent i) : MoveAnswers (pick s) := by
  unfold pick
  split
  · rename_i i rest hs
    exact event_answers (h i (hs ▸ List.mem_cons_self)) _
  · split
    · rename_i i hi
      exact event_answers (eventDue_dispatcher s i hi) s
    · rename_i i _ hi
      exact event_answers (eventDue_unit s i hi) s
    · split
      · rename_i m hm
        cases hs : sboxMove s with
        | none => exact microMove_answers s m (by simpa [hs] using hm)
        | some n => exact sboxMove_answers s m (by simpa [hs] using hm)
      · split
        · trivial
        · split
          · rename_i m hm
            obtain ⟨k, -, hk⟩ := List.exists_of_findSome?_eq_some hm
            exact consMove_answers m hk
          · trivial

/-- Settles O52, from what executing answers (`exec_answers`) and what moves next (`pick_answers`). -/
theorem nothingStops : Obligations.NothingStops := by
  refine ⟨fun i s hword hmicro => exec_answers hword hmicro, fun s hs => ?_⟩
  have hp := pick_answers hs
  unfold step
  split
  · rename_i i u hm
    rwa [hm] at hp
  · exact ⟨_, rfl⟩

end Sys2Proof.Laws
end

section
/-! SUPPORT. The trap frame of a sequencer (R209): what the writes of its pieces leave alone, where the pieces stand, and O46. -/
namespace Sys2Proof.Laws
open Sys2Proof Sys2Proof.Machine
-- In order: each thread of an elaboration in parallel reserves its stack, and the text is long.
set_option Elab.async false

/-! ## What writes leave alone -/

/-- Outside the addresses from `lo` to below `hi` two memories have the same bytes, and capabilities the same tags. -/
structure SameOutside (lo hi : Nat) (m m' : Memory) : Prop where
  byte : ∀ a, a < lo ∨ hi ≤ a → m'.byte a = m.byte a
  tag : ∀ a, a % 16 = 0 → a + 16 ≤ lo ∨ hi ≤ a → m'.tagAt a = m.tagAt a

theorem SameOutside.refl (lo hi : Nat) (m : Memory) : SameOutside lo hi m m := ⟨fun _ _ => rfl, fun _ _ _ => rfl⟩

theorem SameOutside.trans {lo hi : Nat} {m₁ m₂ m₃ : Memory} (h : SameOutside lo hi m₁ m₂) (h' : SameOutside lo hi m₂ m₃) :
    SameOutside lo hi m₁ m₃ :=
  ⟨fun a ha => (h'.byte a ha).trans (h.byte a ha), fun a hd ha => (h'.tag a hd ha).trans (h.tag a hd ha)⟩

theorem SameOutside.widen {lo hi lo' hi' : Nat} {m m' : Memory} (h : SameOutside lo hi m m') (hlo : lo' ≤ lo) (hhi : hi ≤ hi') :
    SameOutside lo' hi' m m' :=
  ⟨fun a ha => h.byte a (by omega), fun a hd ha => h.tag a hd (by omega)⟩

theorem sameOutside_write (m : Memory) (a : Nat) (bs : List Byte) : SameOutside a (a + bs.length) m (m.write a bs) where
  byte c hc := by rw [byte_write, if_neg (by omega)]
  tag c hd hc := by
    rw [tagAt_write, decide_eq_false (by omega), Bool.not_false, Bool.and_true]

theorem sameOutside_writeCap (m : Memory) (a : Nat) (c : Cap) : SameOutside a (a + 16) m (m.writeCap a c) := by
  have h := sameOutside_write m a (toBytes 16 c.bits.toNat)
  rw [length_toBytes] at h
  refine ⟨fun d hd => h.byte d hd, fun d hal hd => ?_⟩
  rw [Memory.writeCap, tagAt_setTag, if_neg (by omega)]
  exact h.tag d hal hd

theorem sameOutside_zero (m : Memory) (a n : Nat) : SameOutside a (a + n) m (m.zero a n) where
  byte c hc := by rw [byte_zero, if_neg (by omega)]
  tag c hd hc := by
    refine (granGet_filter _ _ _).trans ?_
    rw [decide_eq_false (by omega), Bool.not_false, Bool.and_true]
    rfl

/-! ## Pieces -/

@[simp] theorem size_raw8 (v : Nat) : (raw8 v).size = 8 := length_toBytes 8 v

theorem foldl_size (l : List Chunk) (n : Nat) : l.foldl (fun n c => n + c.size) n = n + chunksSize l := by
  unfold chunksSize
  induction l generalizing n with
  | nil => rfl
  | cons c l ih => rw [List.foldl_cons, List.foldl_cons, ih, ih (0 + c.size)]; omega

theorem chunksSize_cons (c : Chunk) (l : List Chunk) : chunksSize (c :: l) = c.size + chunksSize l := by
  rw [chunksSize, List.foldl_cons, foldl_size]; omega

theorem sameOutside_writeChunks (m : Memory) (a : Nat) (cs : List Chunk) :
    SameOutside a (a + chunksSize cs) m (writeChunks m a cs) := by
  induction cs generalizing m a with
  | nil => exact .refl _ _ m
  | cons c cs ih =>
    rw [chunksSize_cons]
    cases c with
    | raw bs =>
      exact ((sameOutside_write m a bs).widen (Nat.le_refl a) (by simp only [Chunk.size]; omega)).trans
        ((ih _ (a + bs.length)).widen (by omega) (by simp only [Chunk.size]; omega))
    | cap c =>
      exact ((sameOutside_writeCap m a c).widen (Nat.le_refl a) (by simp only [Chunk.size]; omega)).trans
        ((ih _ (a + 16)).widen (by omega) (by simp only [Chunk.size]; omega))

theorem sameOutside_writeChunk (m : Memory) (a : Nat) (c : Chunk) : SameOutside a (a + c.size) m (writeChunks m a [c]) := by
  have h := sameOutside_writeChunks m a [c]
  rwa [chunksSize_cons] at h

/-- A piece stands at an address. -/
def PieceStands (m : Memory) (a : Nat) : Chunk → Prop
  | .raw bs => m.read a bs.length = bs
  | .cap c => m.readCap a = c

theorem pieceStands_writeChunk (m : Memory) (a : Nat) (c : Chunk) : PieceStands (writeChunks m a [c]) a c := by
  cases c with
  | raw bs => exact read_write m a bs
  | cap c => exact readCap_writeCap m a c

/-- What is written apart from a piece leaves it. -/
theorem PieceStands.apart {lo hi a : Nat} {m m' : Memory} {c : Chunk} (h : PieceStands m a c) (hs : SameOutside lo hi m m')
    (hal : a % 16 = 0 ∨ ∃ bs, c = .raw bs) (ha : a + c.size ≤ lo ∨ hi ≤ a) : PieceStands m' a c := by
  have hread : m'.read a c.size = m.read a c.size := read_congr _ fun d h1 h2 => hs.byte d (by omega)
  cases c with
  | raw bs => exact hread.trans h
  | cap c =>
    have htag : m'.tagAt a = m.tagAt a := hs.tag a (by simpa using hal) ha
    have hc : m'.readCap a = m.readCap a := by
      simp only [Chunk.size] at hread
      rw [Memory.readCap, Memory.readCap, htag, hread]
    exact hc.trans h

theorem PieceStands.read64 {m : Memory} {a v : Nat} (h : PieceStands m a (raw8 v)) : m.read64 a = BitVec.ofNat 64 v := by
  have hr : m.read a 8 = toBytes 8 v := by simpa [PieceStands, raw8] using h
  rw [Memory.read64, hr, leNat_toBytes]
  exact BitVec.eq_of_toNat_eq (by simp)

/-! ## Pieces with their offsets -/

/-- Pieces in rising order, one after another, from offset `lo` to below `hi`. -/
def Rising (lo hi : Nat) (l : List (Nat × Chunk)) : Prop :=
  l.Pairwise (fun p q => p.1 + p.2.size ≤ q.1) ∧ ∀ p ∈ l, lo ≤ p.1 ∧ p.1 + p.2.size ≤ hi

theorem Rising.append {lo mid hi : Nat} {l l' : List (Nat × Chunk)} (h : Rising lo mid l) (h' : Rising mid hi l') (hlo : lo ≤ mid)
    (hhi : mid ≤ hi) : Rising lo hi (l ++ l') := by
  obtain ⟨hp, hin⟩ := h
  obtain ⟨hp', hin'⟩ := h'
  refine ⟨List.pairwise_append.2 ⟨hp, hp', fun p hm q hm' => (hin p hm).2.trans (hin' q hm').1⟩, fun p hm => ?_⟩
  rcases List.mem_append.1 hm with hm | hm
  · exact ⟨(hin p hm).1, (hin p hm).2.trans hhi⟩
  · exact ⟨hlo.trans (hin' p hm).1, (hin' p hm).2⟩

theorem rising_single {lo hi o : Nat} {c : Chunk} (hlo : lo ≤ o) (hhi : o + c.size ≤ hi) : Rising lo hi [(o, c)] := by
  refine ⟨List.pairwise_singleton _ _, fun p hp => ?_⟩
  rw [List.mem_singleton.1 hp]
  exact ⟨hlo, hhi⟩

/-- Pieces of one width in the places of rising numbers. -/
theorem rising_map {ι : Type} {l : List ι} {place : ι → Nat} {piece : ι → Chunk} {o w n hi : Nat}
    (hl : l.Pairwise fun i j => place i < place j) (hn : ∀ i ∈ l, place i < n) (hw : ∀ i, (piece i).size = w)
    (hhi : o + w * n ≤ hi) :
    Rising o hi (l.map fun i => (o + w * place i, piece i)) := by
  have hstep : ∀ {i j : Nat}, i < j → w * i + w ≤ w * j := fun h => by rw [← Nat.mul_succ]; exact Nat.mul_le_mul_left w h
  constructor
  · refine List.pairwise_map.2 (hl.imp fun {i j} h => ?_)
    have := hstep h
    simp only [hw]
    omega
  · intro p hp
    obtain ⟨i, hi, rfl⟩ := List.mem_map.1 hp
    have := hstep (hn i hi)
    simp only [hw]
    omega

theorem sameOutside_writeParts0 {lo hi : Nat} {l : List (Nat × Chunk)} (hin : ∀ p ∈ l, lo ≤ p.1 ∧ p.1 + p.2.size ≤ hi)
    (m : Memory) (base : Nat) : SameOutside (base + lo) (base + hi) m (writeParts0 m base l) := by
  induction l generalizing m with
  | nil => exact .refl _ _ m
  | cons p l ih =>
    obtain ⟨hlo, hhi⟩ := hin p List.mem_cons_self
    exact ((sameOutside_writeChunk m (base + p.1) p.2).widen (by omega) (by omega)).trans
      (ih (fun q hq => hin q (List.mem_cons_of_mem p hq)) _)

/-- Pieces written in rising order all stand. -/
theorem pieceStands_writeParts0 {lo hi : Nat} {l : List (Nat × Chunk)} (hl : Rising lo hi l) (m : Memory) {base : Nat}
    (hal : ∀ p ∈ l, (base + p.1) % 16 = 0 ∨ ∃ bs, p.2 = .raw bs) :
    ∀ p ∈ l, PieceStands (writeParts0 m base l) (base + p.1) p.2 := by
  induction l generalizing m with
  | nil => nofun
  | cons p l ih =>
    obtain ⟨hrise, hin⟩ := hl
    obtain ⟨hp, hl⟩ := List.pairwise_cons.1 hrise
    have hin' := fun q hq => hin q (List.mem_cons_of_mem p hq)
    intro q hq
    rcases List.mem_cons.1 hq with rfl | hq
    · have hrest := sameOutside_writeParts0 (fun r hr => ⟨hp r hr, (hin' r hr).2⟩) (writeChunks m (base + q.1) [q.2]) base
      exact (pieceStands_writeChunk m (base + q.1) q.2).apart hrest (hal q List.mem_cons_self) (.inl (by omega))
    · exact ih ⟨hl, hin'⟩ _ (fun r hr => hal r (List.mem_cons_of_mem p hr)) q hq

/-! ## Latch records -/

/-- Records lie in the frame above the offset they are laid out from (R209). -/
theorem sameOutside_writeRecords (k : Core) (t base : Nat) (ls : List Latch) (off n : Nat) (m : Memory) :
    SameOutside (base + off) (base + 0xA000) m (writeRecords m base (layOut k t ls off n)) := by
  induction ls generalizing off n m with
  | nil => exact .refl _ _ m
  | cons l ls ih =>
    unfold layOut
    dsimp only
    split
    · exact ih off n m
    · rename_i r _
      split
      · rename_i hroom
        exact ((sameOutside_writeChunks m (base + off) (recordChunks l t r)).widen (Nat.le_refl _) (by omega)).trans
          ((ih _ _ _).widen (by omega) (Nat.le_refl _))
      · exact ih off n m

/-! ## The frame -/

section
variable (s : State) (c : Nat) (q : SeqId) (t n : Nat) (list : List FaultRec)

theorem frameParts_rising : Rising 0 0x600 (frameParts s c q t n list) := by
  unfold frameParts
  extract_lets sq p cyc
  refine Rising.append (mid := 0x500) (Rising.append (mid := 0x300) (Rising.append (mid := 0x288) (Rising.append (mid := 0x248)
    (Rising.append (mid := 0x240) (Rising.append (mid := 0x40) ?head ?scalars (by decide) (by decide)) ?predicates (by decide) (by decide))
    ?targets (by decide) (by decide)) ?counters (by decide) (by decide)) ?handles (by decide) (by decide)) ?faults (by decide) (by decide)
  case head => simp [Rising]
  case scalars => exact rising_map List.pairwise_lt_range (fun i => List.mem_range.1) (fun i => size_raw8 _) (by decide)
  case predicates => exact rising_single (by decide) (by simp)
  case targets => exact rising_map List.pairwise_lt_range (fun i => List.mem_range.1) (fun i => size_raw8 _) (by decide)
  case counters => exact rising_single (by decide) (by simp [Chunk.size])
  case handles => exact rising_map List.pairwise_lt_range (fun i => List.mem_range.1) (fun i => rfl) (by decide)
  case faults =>
    have hplaces : (list.zip (List.range 16)).Pairwise fun e f => e.2 < f.2 :=
      List.pairwise_iff_getElem.2 fun i j hi hj h => by simpa using h
    exact rising_map hplaces (fun e he => List.mem_range.1 (List.of_mem_zip he).2) (fun e => by simp [Chunk.size]) (by decide)

/-- The handles alone are capabilities, each in a granule of its own. -/
theorem frameParts_aligned {base : Nat} (hbase : base % 16 = 0) :
    ∀ p ∈ frameParts s c q t n list, (base + p.1) % 16 = 0 ∨ ∃ bs, p.2 = .raw bs := by
  intro p hp
  simp only [frameParts, List.mem_append, List.mem_map] at hp
  obtain (((((hp | ⟨i, -, rfl⟩) | hp) | ⟨i, -, rfl⟩) | hp) | ⟨i, -, rfl⟩) | ⟨e, -, rfl⟩ := hp
  case inl.inl.inl.inl.inl.inl =>
    simp only [List.mem_cons, List.not_mem_nil, or_false] at hp
    rcases hp with rfl | rfl | rfl | rfl | rfl <;> exact .inr ⟨_, rfl⟩
  case inl.inl.inl.inl.inr | inl.inl.inr => rw [List.mem_singleton.1 hp]; exact .inr ⟨_, rfl⟩
  case inl.inr => exact .inl (by dsimp only; omega)
  all_goals exact .inr ⟨_, rfl⟩

theorem mem_frameParts_cause : (0x000, raw8 (s.seq c q).tcause.toNat) ∈ frameParts s c q t n list := by
  simp only [frameParts, List.mem_append, List.mem_cons, true_or]

theorem mem_frameParts_place {due : Nat} (h : s.dueAt (s.seq c q).at_ = some due) :
    (0x008, raw8 ((due - t) * 2 ^ 32 + (s.seq c q).at_.wordAt % 2 ^ 25)) ∈ frameParts s c q t n list := by
  simp only [frameParts, List.mem_append, List.mem_cons, true_or, or_true, h]

theorem mem_frameParts_time : (0x010, raw8 (t % 2 ^ 64)) ∈ frameParts s c q t n list := by
  simp only [frameParts, List.mem_append, List.mem_cons, true_or, or_true]

theorem mem_frameParts_tinfo : (0x018, raw8 (s.seq c q).tinfo.toNat) ∈ frameParts s c q t n list := by
  simp only [frameParts, List.mem_append, List.mem_cons, true_or, or_true]

theorem mem_frameParts_scalar {i : Nat} (hi : i < 64) :
    (0x040 + 8 * i, raw8 (if i = 0 ∨ (56 ≤ i ∧ i ≤ 61) then 0 else (Tbl.get 0 (s.seq c q).s i).toNat)) ∈
      frameParts s c q t n list := by
  simp only [frameParts, List.mem_append, List.mem_map, List.mem_range]
  exact .inl (.inl (.inl (.inl (.inl (.inr ⟨i, hi, rfl⟩)))))

theorem mem_frameParts_predicates : (0x240, raw8 ((s.seq c q).p ||| 1).toNat) ∈ frameParts s c q t n list := by
  simp only [frameParts, List.mem_append, List.mem_singleton]
  exact .inl (.inl (.inl (.inl (.inr trivial))))

theorem mem_frameParts_target {i : Nat} (hi : i < 8) :
    (0x248 + 8 * i, raw8 (bregWord t ((s.seq c q).breg (BitVec.ofNat 3 i)))) ∈ frameParts s c q t n list := by
  simp only [frameParts, List.mem_append, List.mem_map, List.mem_range]
  exact .inl (.inl (.inl (.inr ⟨i, hi, rfl⟩)))

theorem mem_frameParts_counters : (0x288, .raw ((List.range 4).flatMap fun i => toBytes 2 (Tbl.get 0 (s.seq c q).lc i).toNat)) ∈
    frameParts s c q t n list := by
  simp only [frameParts, List.mem_append, List.mem_singleton]
  exact .inl (.inl (.inr trivial))

theorem mem_frameParts_handle {i : Nat} (hi : i < 31) : (0x300 + 16 * i, .cap (Tbl.get nullCap (s.seq c q).h i)) ∈
    frameParts s c q t n list := by
  simp only [frameParts, List.mem_append, List.mem_map, List.mem_range]
  exact .inl (.inr ⟨i, hi, rfl⟩)

end

/-- The number of latch records that a frame holds. -/
def recordCount (s : State) (c : Nat) (t : Nat) (ls : List Latch) : Nat :=
  ((layOut (s.core c) t (byDue ls) 0x600 0).filter fun e => e.2.isSome).length

/-- Every piece of a frame stands in it. -/
theorem pieceStands_writeFrame {s : State} {c : Nat} {q : SeqId} {t : Nat} {ls : List Latch} {list : List FaultRec} {base : Nat}
    (hbase : base = privAt c (s.seq c q).tframe.toNat) (hal : base % 16 = 0) :
    ∀ p ∈ frameParts s c q t (recordCount s c t ls) list, PieceStands (writeFrame s c q t ls list).1.mem (base + p.1) p.2 := by
  subst hbase
  intro p hp
  have hrise := frameParts_rising s c q t (recordCount s c t ls) list
  have haligned := frameParts_aligned s c q t (recordCount s c t ls) list hal
  exact (pieceStands_writeParts0 hrise _ haligned p hp).apart (sameOutside_writeRecords ..) (haligned p hp)
    (.inl (by rw [Nat.add_assoc]; exact Nat.add_le_add_left (hrise.2 p hp).2 _))

theorem sameOutside_writeFrame {s : State} {c : Nat} {q : SeqId} {t : Nat} {ls : List Latch} {list : List FaultRec} {base : Nat}
    (hbase : base = privAt c (s.seq c q).tframe.toNat) :
    SameOutside base (base + 0xA000) s.mem (writeFrame s c q t ls list).1.mem := by
  subst hbase
  have hrise := frameParts_rising s c q t (recordCount s c t ls) list
  exact ((sameOutside_zero ..).trans ((sameOutside_writeParts0 hrise.2 _ _).widen (by omega) (by omega))).trans
    ((sameOutside_writeRecords ..).widen (by omega) (by omega))

/-- A read within another is a part of it. -/
theorem read_within (m : Memory) (a : Nat) {i n k : Nat} (h : i + n ≤ k) : m.read (a + i) n = ((m.read a k).drop i).take n := by
  induction k generalizing a i n with
  | zero =>
    obtain ⟨rfl, rfl⟩ : i = 0 ∧ n = 0 := by omega
    rfl
  | succ k ih =>
    cases i with
    | succ i => exact (congrArg (m.read · n) (by omega)).trans (ih (a + 1) (by omega))
    | zero =>
      cases n with
      | zero => rfl
      | succ n => exact congrArg (m.byte a :: ·) (ih (a + 1) (i := 0) (n := n) (by omega))

/-- A loop counter among the four that stand together. -/
theorem read_counter {m : Memory} {a : Nat} {f : Nat → BitVec 16}
    (h : PieceStands m a (.raw ((List.range 4).flatMap fun i => toBytes 2 (f i).toNat))) {i : Nat} (hi : i < 4) :
    leNat (m.read (a + 2 * i) 2) = (f i).toNat := by
  have h8 : m.read a 8 = (List.range 4).flatMap fun i => toBytes 2 (f i).toNat := by simpa [PieceStands] using h
  have hread : m.read (a + 2 * i) 2 = toBytes 2 (f i).toNat := by
    rw [read_within m a (show 2 * i + 2 ≤ 8 by omega), h8]
    interval_cases i <;> rfl
  rw [hread, leNat_toBytes_word (f i) (by norm_num)]

/-- Settles O46: the pieces of the frame stand (`pieceStands_writeFrame`), and what lies outside its 40 KiB is left alone
(`sameOutside_writeFrame`). -/
theorem trapFrame : Obligations.TrapFrame := by
  unfold Obligations.TrapFrame
  rintro s core q t ls list sq base u rfl hbase rfl htf -
  have hal : base % 16 = 0 := by rw [hbase, privAt]; omega
  have stands := pieceStands_writeFrame (t := t) (ls := ls) (list := list) hbase hal
  refine ⟨?cause, fun due hdue => ?place, ?time, ?tinfo, fun i hi => ?scalar, ?predicates, fun i hi => ?target, fun i hi => ?counter,
    fun i hi => ?handle, fun a ha => (sameOutside_writeFrame hbase).byte a ha, rfl⟩
  case cause => simpa using (stands _ (mem_frameParts_cause s core q t _ list)).read64
  case place => exact (stands _ (mem_frameParts_place s core q t _ list hdue)).read64
  case time => exact (stands _ (mem_frameParts_time s core q t _ list)).read64.trans (BitVec.eq_of_toNat_eq (by simp))
  case tinfo => simpa using (stands _ (mem_frameParts_tinfo s core q t _ list)).read64
  case scalar =>
    have h := (stands _ (mem_frameParts_scalar s core q t _ list hi)).read64
    rw [Nat.add_assoc, h]
    split
    · rfl
    · simp
  case predicates =>
    rw [(stands _ (mem_frameParts_predicates s core q t _ list)).read64, BitVec.ofNat_toNat]
  case target =>
    rw [Nat.add_assoc, (stands _ (mem_frameParts_target s core q t _ list hi)).read64]
  case counter => exact read_counter (stands _ (mem_frameParts_counters s core q t _ list)) hi
  case handle =>
    rw [Nat.add_assoc]
    exact stands _ (mem_frameParts_handle s core q t _ list hi)

end Sys2Proof.Laws
end

section
/-! SUPPORT. The return from an exception (R212): what a sequencer's frame gives back, what else of the return leaves the sequencers
alone, and O45. -/
namespace Sys2Proof.Laws
open Sys2Proof Sys2Proof.Machine
-- In order: each thread of an elaboration in parallel reserves its stack, and the text is long.
set_option Elab.async false

/-! ## What the trace leaves alone (R59) -/

/-- The consists and every core's sequencers. -/
def sequencersOf (s : State) : Tbl Consist × (Nat → SeqId → Seq) := (s.consists, s.seq)

theorem sequencersOf_modTrace (s : State) (core : Nat) (f : Trace → Trace) : sequencersOf (s.modTrace core f) = sequencersOf s :=
  Prod.ext rfl (funext fun _ => funext fun _ => seq_setCore_keep (by rintro ⟨⟩ <;> rfl))

theorem sequencersOf_traceWrite {s t : State} {core slot : Nat} {rec : Word64} (h : traceWrite s core slot rec = some t) :
    sequencersOf t = sequencersOf s := by
  unfold traceWrite at h
  dsimp only at h
  split at h
  · cases h
    rfl
  · cases h

theorem sequencersOf_logErr (s : State) (kind die unit : Nat) (addr : Word64) (part : BitVec 5) :
    sequencersOf (s.logErr kind die unit addr part) = sequencersOf s := rfl

theorem sequencersOf_traceStore (s : State) (core : Nat) (rec : Word64) : sequencersOf (traceStore s core rec) = sequencersOf s := by
  unfold traceStore
  dsimp only
  split
  · next h => rw [sequencersOf_modTrace, sequencersOf_traceWrite h]
  · rw [sequencersOf_logErr, sequencersOf_modTrace]

theorem sequencersOf_tellLost (s : State) (core : Nat) : sequencersOf (tellLost s core) = sequencersOf s := by
  unfold tellLost
  dsimp only
  split
  · rfl
  · split
    · next h => rw [sequencersOf_modTrace, sequencersOf_traceWrite h]
    · rfl

theorem sequencersOf_tracePut (s : State) (core : Nat) (rec : Word64) : sequencersOf (tracePut s core rec) = sequencersOf s := by
  unfold tracePut
  dsimp only
  split
  · rw [sequencersOf_traceStore, sequencersOf_tellLost]
  · split
    · next h => rw [sequencersOf_traceWrite h, sequencersOf_modTrace, sequencersOf_tellLost]
    · rw [sequencersOf_modTrace, sequencersOf_tellLost]

theorem sequencersOf_traceAt (s : State) (core typ q ttc payload : Nat) :
    sequencersOf (traceAt s core typ q ttc payload) = sequencersOf s := by
  unfold traceAt
  dsimp only
  rw [sequencersOf_tracePut, sequencersOf_modTrace]
  exact ite_keeps sequencersOf (sequencersOf_tracePut ..) rfl

theorem sequencersOf_traceFlush (s : State) (core : Nat) : sequencersOf (traceFlush s core) = sequencersOf s :=
  ite_keeps sequencersOf rfl ((sequencersOf_traceAt ..).trans (sequencersOf_modTrace ..))

theorem sequencersOf_traceEvent (s : State) (core typ q payload ttc : Nat) :
    sequencersOf (traceEvent s core typ q payload ttc) = sequencersOf s :=
  ite_keeps sequencersOf ((sequencersOf_traceAt ..).trans (sequencersOf_traceFlush ..)) rfl

theorem sequencersOf_modCoreAt (s : State) (core : Nat) {f : Core → Core} (h : ∀ k q, (f k).seq q = k.seq q) :
    sequencersOf (s.modCoreAt core f) = sequencersOf s :=
  Prod.ext rfl (funext fun _ => funext fun _ => seq_modCoreAt_keep s core h)

/-- Parked columns that come back leave the sequencers (R422). -/
theorem seq_spillIn (k : Core) (q : SeqId) : k.spillIn.seq q = k.seq q :=
  (foldl_keeps (fun k : Core => k.seq q) _ (by intro k p; exact seq_setColumn ..) _ _).trans (by cases q <;> rfl)

/-! ## What a frame gives back -/

/-- Of the places of a table that are set in turn, but for some that are left, each that is not left holds what it was set to. -/
theorem get_foldl_set_unless {α : Type} (d : α) (p : Nat → Prop) [DecidablePred p] (f : Nat → α) (l : List Nat) (t : Tbl α)
    (i : Nat) :
    Tbl.get d (l.foldl (fun t i => if p i then t else Tbl.set t i (f i)) t) i = if i ∈ l ∧ ¬ p i then f i else Tbl.get d t i := by
  induction l generalizing t with
  | nil => simp
  | cons j l ih =>
    rw [List.foldl_cons, ih]
    by_cases hj : i = j
    · subst hj
      by_cases hp : p i <;> simp [hp]
    · by_cases hp : p j <;> simp [hj, hp, get_set_ne d t _ hj]

theorem get_foldl_set {α : Type} (d : α) (f : Nat → α) (l : List Nat) (t : Tbl α) (i : Nat) :
    Tbl.get d (l.foldl (fun t i => Tbl.set t i (f i)) t) i = if i ∈ l then f i else Tbl.get d t i := by
  simpa using get_foldl_set_unless d (fun _ => False) f l t i

theorem leNat_lt (bs : List Byte) : leNat bs < 256 ^ bs.length := by
  induction bs with
  | nil => decide
  | cons b bs ih =>
    have hb : b.toNat < 256 := b.isLt
    rw [leNat, List.length_cons, Nat.pow_succ]
    omega

/-- What a sequencer `v` has become that its frame at `base` in memory gave back at z, after a trap at t (R209, R212). -/
structure Reloaded (m : Memory) (t z base : Nat) (v q : Seq) : Prop where
  scalar : ∀ i, 0 < i → i < 64 → ¬ (56 ≤ i ∧ i ≤ 61) → Tbl.get 0 q.s i = m.read64 (base + 0x40 + 8 * i)
  predicates : q.p = (m.read64 (base + 0x240)).setWidth 16
  handle : ∀ i < 31, Tbl.get nullCap q.h i = m.readCap (base + 0x300 + 16 * i)
  counter : ∀ i < 4, (Tbl.get 0 q.lc i).toNat = leNat (m.read (base + 0x288 + 2 * i) 2)
  saved : q.saved = none
  tvec : q.tvec = v.tvec
  tframe : q.tframe = v.tframe
  place : ∀ p, v.saved = some p → ∃ u : State, u.mem = m ∧ q.at_ = p.resume u t z (m.read64 (base + 8))

theorem reloaded_reloadSeq (s : State) (t z : Nat) (cq : Nat × SeqId) {base : Nat}
    (hbase : base = privAt cq.1 (s.seq cq.1 cq.2).tframe.toNat) :
    Reloaded s.mem t z base (s.seq cq.1 cq.2) ((reloadSeq s t z cq).seq cq.1 cq.2) := by
  unfold reloadSeq
  extract_lets q frame m regs hs lc bs place
  have hframe : frame = base := hbase.symm
  clear_value frame
  subst hframe
  have hscalar : ∀ i, 0 < i → i < 64 → ¬ (56 ≤ i ∧ i ≤ 61) → Tbl.get 0 regs i = m.read64 (frame + 0x40 + 8 * i) :=
    fun i h0 h64 hrange => (get_foldl_set_unless 0 (fun i => i = 0 ∨ (56 ≤ i ∧ i ≤ 61)) _ _ _ i).trans (if_pos ⟨List.mem_range.2 h64, by omega⟩)
  have hhandle : ∀ i < 31, Tbl.get nullCap hs i = m.readCap (frame + 0x300 + 16 * i) := fun i hi =>
    (get_foldl_set nullCap _ _ _ i).trans (if_pos (List.mem_range.2 hi))
  have hcounter : ∀ i < 4, (Tbl.get 0 lc i).toNat = leNat (m.read (frame + 0x288 + 2 * i) 2) := fun i hi => by
    have hlt := leNat_lt (m.read (frame + 0x288 + 2 * i) 2)
    rw [length_read] at hlt
    exact (congrArg BitVec.toNat ((get_foldl_set 0 _ _ _ i).trans (if_pos (List.mem_range.2 hi)))).trans (Nat.mod_eq_of_lt hlt)
  have hplace : ∀ p, q.saved = some p → place = p.resume s t z (m.read64 (frame + 8)) := fun p hp => by
    simp only [place, hp]
  clear_value regs hs lc bs place
  rw [seq_modSeqAt]
  exact ⟨hscalar, rfl, hhandle, hcounter, rfl, rfl, rfl, fun p hp => ⟨s, rfl, hplace p hp⟩⟩

/-- The other sequencers are left alone. -/
theorem seq_reloadSeq_ne (s : State) (t z : Nat) {cq dr : Nat × SeqId} (h : dr ≠ cq) :
    (reloadSeq s t z cq).seq dr.1 dr.2 = s.seq dr.1 dr.2 :=
  (seq_modSeqAt_ite ..).trans (if_neg fun e => h (Prod.ext e.1.symm e.2.symm))

theorem foldl_reloadSeq_of_not_mem {t z : Nat} {cq : Nat × SeqId} {l : List (Nat × SeqId)} (h : cq ∉ l) (s : State) :
    (l.foldl (fun s cq => reloadSeq s t z cq) s).seq cq.1 cq.2 = s.seq cq.1 cq.2 := by
  induction l generalizing s with
  | nil => rfl
  | cons x l ih =>
    obtain ⟨hx, hl⟩ := not_or.1 (h ∘ List.mem_cons.2)
    rw [List.foldl_cons, ih hl, seq_reloadSeq_ne _ _ _ hx]

/-- Of several sequencers each is what its own frame gave back. -/
theorem reloaded_foldl (t z : Nat) {l : List (Nat × SeqId)} (hl : l.Nodup) (s : State) {cq : Nat × SeqId} (hcq : cq ∈ l) {base : Nat}
    (hbase : base = privAt cq.1 (s.seq cq.1 cq.2).tframe.toNat) :
    Reloaded s.mem t z base (s.seq cq.1 cq.2) ((l.foldl (fun s cq => reloadSeq s t z cq) s).seq cq.1 cq.2) := by
  induction l generalizing s with
  | nil => cases hcq
  | cons x l ih =>
    obtain ⟨hx, hl⟩ := List.nodup_cons.1 hl
    rw [List.foldl_cons]
    rcases List.mem_cons.1 hcq with rfl | hcq
    · rw [foldl_reloadSeq_of_not_mem hx]
      exact reloaded_reloadSeq s t z cq hbase
    · have hne : cq ≠ x := fun e => hx (e ▸ hcq)
      have h := ih hl (reloadSeq s t z x) hcq (by rw [seq_reloadSeq_ne _ _ _ hne]; exact hbase)
      rwa [seq_reloadSeq_ne _ _ _ hne] at h

/-- The word of a place that issues is due its gap after the place's base (R107). -/
theorem dueAt_of_none {s : State} {p : Place} (hstop : p.stop = .none) (hpend : p.pend = none) :
    s.dueAt p = some (p.base + s.gapAt p.wordAt) := by
  unfold State.dueAt
  rw [if_neg (not_not.2 hstop), hpend]

/-- A place that issues a word and whose frame names that word: the word issues the frame's cycles after z. -/
theorem resume_at_word {s u : State} {p : Place} {t z : Nat} {dw1 : Word64} (hu : u.mem = s.mem) (hstop : p.stop = .none)
    (hpend : p.pend = none) (hsyll : (dw1.extractLsb' 0 25).toNat = p.wordAt % 2 ^ 25)
    (hgap : s.gapAt p.wordAt ≤ z + (dw1.extractLsb' 32 32).toNat) :
    (p.resume u t z dw1).pc = p.pc ∧ s.dueAt (p.resume u t z dw1) = some (z + (dw1.extractLsb' 32 32).toNat) := by
  have hgapAt : u.gapAt p.wordAt = s.gapAt p.wordAt := by rw [State.gapAt, State.gapAt, hu]
  have hresume : p.resume u t z dw1 = { p with
      secFrom := p.secFrom + (z - t), retired := p.retired.map fun r => (r.1, r.2 + (z - t))
      base := z + (dw1.extractLsb' 32 32).toNat - s.gapAt p.wordAt } := by
    unfold Place.resume
    extract_lets syll cyc p'
    have hdue : u.dueAt p' = some (p.base + s.gapAt p.wordAt) := hgapAt ▸ dueAt_of_none (p := p') hstop hpend
    have hword : syll = p'.wordAt % 2 ^ 25 := hsyll
    rw [if_neg (not_not.2 hstop), if_pos hword, hdue]
    simp only [p', Nat.add_sub_cancel_left, cyc]
  rw [hresume]
  refine ⟨rfl, ?_⟩
  exact (dueAt_of_none (by exact hstop) (by exact hpend)).trans (congrArg some (Nat.sub_add_cancel hgap))

/-! ## The return -/

/-- But for what the frames give back, the return leaves the sequencers; no trap is left, and the consist's time goes on (R212). -/
theorem resumeAt_seq_cons (s : State) (k : Nat) (r : State)
    (hr : r = (s.cons k).seqs.foldl (fun u cq => reloadSeq u ((s.cons k).trapT.getD (s.cons k).ttc) (s.cons k).ttc cq) s) :
    (resumeAt s k).seq = r.seq ∧ ((resumeAt s k).cons k).trapT = none ∧ ((resumeAt s k).cons k).parked = [] ∧
      ((resumeAt s k).cons k).ttc = (s.cons k).ttc := by
  unfold resumeAt
  extract_lets c z t list back s1 s2 s3 s4
  subst hr
  have h1 : s1.consists = s.consists := foldl_keeps (fun s : State => s.consists) _ (by intros; rfl) _ _
  have h2 : sequencersOf s2 = sequencersOf s1 := foldl_keeps sequencersOf _ (by intros; rfl) _ _
  have h3 : sequencersOf s3 = sequencersOf s2 := foldl_keeps sequencersOf _
    (fun s core => sequencersOf_modCoreAt s core (fun k q => by
      refine Eq.trans ?_ (seq_spillIn k q)
      cases q <;> rfl)) _ _
  have h4 : sequencersOf s4 = sequencersOf s3 := foldl_keeps sequencersOf _ (fun s cq => sequencersOf_traceEvent ..) _ _
  have h : sequencersOf s4 = sequencersOf s1 := h4.trans (h3.trans h2)
  clear_value s4
  have hcons : s4.cons k = s.cons k := congrArg (Tbl.get Consist.reset · k) ((congrArg Prod.fst h).trans h1)
  refine ⟨congrArg Prod.snd h, ?_, ?_, ?_⟩
  all_goals rw [cons_setCons]
  exact (congrArg Consist.ttc hcons : (s4.cons k).ttc = _)

theorem nodup_seqs {c : Consist} (h : c.cores.Nodup) : c.seqs.Nodup := by
  refine List.nodup_flatMap.2 ⟨fun x _ => by simp, h.imp fun {x y} hxy => ?_⟩
  simp [Function.onFun, Ne.symm hxy]

/-- Settles O45: each sequencer is what its frame gave back (`reloaded_foldl`), its word is due the frame's cycles after z
(`resume_at_word`), and the rest of the return leaves it (`resumeAt_seq_cons`). -/
theorem trapReturn : Obligations.TrapReturn := by
  unfold Obligations.TrapReturn
  rintro s k c T rfl - hcores
  obtain ⟨hseq, htrap, hparked, httc⟩ := resumeAt_seq_cons s k _ rfl
  refine ⟨htrap, hparked, httc, fun cq hcq base hbase => ?_⟩
  rw [hseq]
  obtain ⟨hscalar, hpred, hhandle, hcounter, hsaved, htvec, htframe, hplace⟩ :=
    reloaded_foldl ((s.cons k).trapT.getD (s.cons k).ttc) (s.cons k).ttc (nodup_seqs hcores) s hcq hbase
  refine ⟨hscalar, hpred, hhandle, hcounter, hsaved, htvec, htframe, fun p hp hstop hpend hsyll hgap => ?_⟩
  obtain ⟨u, hu, hat⟩ := hplace p hp
  rw [hat]
  exact resume_at_word hu hstop hpend hsyll hgap

end Sys2Proof.Laws
end

section
/-! SUPPORT. The loads and stores of private memory (R227, R361, R362): what the words' work comes to, and O5. -/
namespace Sys2Proof.Laws
open Sys2Proof Sys2Proof.Machine
-- In order: each thread of an elaboration in parallel reserves its stack, and the text is long.
set_option Elab.async false

/-! ## Storing a capability (R85, R362) -/

/-- What a tagged capability has to be for a store of it (R67, R295, R362); untagged data passes. -/
def StorableOk (v : State) (c : Cap) : Prop :=
  c.tag = true → CapOk v c [kPointer, kTile, kBlank, kNull] ∧ (c.isNull = true ∨ c.has pL = true) ∧ NearOk v c

/-- A blank may leave its core: the core's writes into it have performed (R85). -/
def WritesDone (v : State) (c : Cap) : Prop :=
  c.counted = true → c.kind = kBlank → v.writesOut v.cur.1 c.key = false

/-- The state with a counted handle gone from the register it was stored from (R68); nothing more for hq, whose entry is gone. -/
def storedFrom (v : State) (r : BitVec 5) (c : Cap) : State :=
  if c.counted = true ∧ r ≠ 31 then flying v 1 (.setH r nullCap) else v

theorem storedFrom_eq_nulling (v : State) (r : BitVec 5) (c : Cap) :
    storedFrom v r c = if c.counted = true then nulling v r else v := by
  unfold storedFrom nulling
  rw [ite_and, ite_not]

/-- The checks of a capability to be stored pass, and the word's work goes on. -/
theorem run_storable {v : State} {c : Cap} (h : StorableOk v c) (a : Word64) {β : Type} (f : Unit → Act β) :
    (if c.tag = true then do
        checkCap c
        checkNear c
        let r ← need (c.isNull || c.has pL) .capability 0 a
        f r
      else f ()).run v = (f ()).run v := by
  split
  next ht =>
    obtain ⟨hcap, hperm, hnear⟩ := h ht
    rw [run_bind_ok (run_checkCap hcap), run_bind_ok (run_checkNear hnear), run_bind_ok (run_need (Bool.or_eq_true_iff.2 hperm) ..)]
  next => rfl

/-- No wait where the capability is no blank, or where the blank's writes are done. -/
theorem run_waitWrites_done {v : State} {c : Cap} (h : WritesDone v c) : (waitWrites c).run v = .ok ((), v) := by
  by_cases hb : c.counted = true ∧ c.kind = kBlank
  · exact run_waitWrites (h hb.1 hb.2)
  · have noBlank : (c.counted && c.kind == kBlank) = false := by simpa using hb
    rw [waitWrites, run_bind_ok (run_get v), noBlank, Bool.false_and]
    rfl

theorem run_myPrivate (v : State) : myPrivate.run v = .ok (privateCap ((v.core v.cur.1).part.getD 0), v) := rfl

/-! ## The work of the words -/

section Words
variable {v v1 w : State} {a : BitVec 6} {x : Word64} {imm : BitVec 48} (hr : ReadsS v a x v1)
include hr

theorem run_ldPAct {d : BitVec 6} {e : Effect} (hp : PrivateOk (offsetAddr x imm) 8)
    (ht : TakesS v1 d (v1.mem.read64 (privAt v1.cur.1 (offsetAddr x imm).toNat)) e w) :
    (ldPAct d a imm).run v = .ok ((), flyingOr w (2 * v1.dC v1.cur.1 + 4) e
      (poisonOf v1 (privAt v1.cur.1 (offsetAddr x imm).toNat) 8 (offsetAddr x imm).toNat)) := by
  rw [ldPAct, run_bind_ok hr]
  dsimp only
  rw [run_bind_ok (run_checkPrivate hp), run_bind_ok (run_get v1), run_bind_ok ht, run_resultOr]

theorem run_stPAct {d : BitVec 6} {y : Word64} (hp : PrivateOk (offsetAddr x imm) 8) (hy : ReadsS v1 d y w) :
    (stPAct d a imm).run v = .ok ((), flying w (w.dC w.cur.1 + 4) (.store (privateCap ((w.core w.cur.1).part.getD 0))
      [⟨(offsetAddr x imm).toNat, privAt w.cur.1 (offsetAddr x imm).toNat, toBytes 8 y.toNat⟩])) := by
  rw [stPAct, run_bind_ok hr, run_bind_ok hy]
  dsimp only
  rw [run_bind_ok (run_checkPrivate hp), run_bind_ok (run_getD w), run_storePrivate]

/-- LD.CAP at the place `m` in memory: unless the granule is poisoned, a counted handle leaves it null. -/
theorem run_ldCapAct {d : BitVec 5} {e : Effect} {m : Nat} (hm : m = privAt v1.cur.1 (offsetAddr x imm).toNat)
    (hp : PrivateOk (offsetAddr x imm) 16) (ht : TakesH v1 d (v1.mem.readCap m) e w) :
    (ldCapAct d a imm).run v =
      let bad := poisonOf v1 m 16 (offsetAddr x imm).toNat
      let u := flyingOr w (2 * v1.dC v1.cur.1 + 4) e bad
      .ok ((), if (v1.mem.readCap m).counted && bad.isNone then { u with mem := u.mem.writeCap m nullCap } else u) := by
  subst hm
  rw [ldCapAct, run_bind_ok hr]
  dsimp only
  rw [run_bind_ok (run_checkPrivate hp), run_bind_ok (run_get v1), run_bind_ok ht, run_bind_ok (run_resultOr ..)]
  split <;> rfl

theorem run_stCapAct {d : BitVec 5} {c : Cap} (hp : PrivateOk (offsetAddr x imm) 16) (hc : ReadsH v1 d c w)
    (hs : StorableOk w c) (hw : WritesDone w c) :
    (stCapAct d a imm).run v =
      let u := storedFrom w d c
      .ok ((), flying u (u.dC u.cur.1 + 4) (.storeCap (privateCap ((u.core u.cur.1).part.getD 0)) (offsetAddr x imm).toNat
        (privAt u.cur.1 (offsetAddr x imm).toNat) c)) := by
  rw [stCapAct, run_bind_ok hr, run_bind_ok hc]
  dsimp only
  rw [run_bind_ok (run_checkPrivate hp), run_storable hs, run_bind_ok (run_waitWrites_done hw), run_ite_first (run_nullH1 d w),
    storedFrom_eq_nulling, run_bind_ok (run_myPrivate _), run_bind_ok (run_get _), run_result]

end Words

/-- Settles O5: each word by its work. -/
theorem privateLoadStore : Obligations.PrivateLoadStore := by
  unfold Obligations.PrivateLoadStore
  rintro g a imm s v v1 x _ _ h hr rfl rfl
  refine ⟨fun d e w hp ht => ?ldP, fun d y w hp hy => ?stP, fun d e w hp ht => ?ldCap, fun d c w hp hc hs hw => ?stCap⟩
  case ldP => exact issueFall_completes h (run_ldPAct hr hp ht)
  case stP => exact issueFall_completes h (run_stPAct hr hp hy)
  case ldCap => exact issueFall_completes h (run_ldCapAct hr rfl hp ht)
  case stCap => exact issueFall_completes h (run_stCapAct hr hp hc hs hw)

end Sys2Proof.Laws
end

section
/-! SUPPORT. The words of the shuttle (R260-R263, R394): what their checks and their work come to, and O33. -/
namespace Sys2Proof.Laws
open Sys2Proof Sys2Proof.Machine
-- In order: each thread of an elaboration in parallel reserves its stack, and the text is long.
set_option Elab.async false

/-- A word that needs a place in a queue finds one (R40). -/
theorem run_roomIn {v : State} {q : Nat} (h : RoomIn v q) : (roomIn q).run v = .ok ((), v) := by
  rw [roomIn, run_bind_ok (run_getCore v), if_neg (Nat.not_le.2 h), run_pure]

@[simp] theorem nulling_clk (v : State) (h : BitVec 5) : (nulling v h).clk = v.clk := by
  unfold nulling
  split <;> rfl

/-! ## SHSEND (R262, R394) -/

/-- The state once a channel's first tablet is on its way with the tile of a register. -/
def tabletLent (w : State) (h : BitVec 5) (ch : BitVec 4) (rest : List Cap) : State :=
  (nulling w h).modTx w.cur.1 ch fun t => { t with tablets := rest, flight := t.flight + 1 }

/-- A barrier that imm45 names is one of the porters' cells (R394). -/
theorem run_barrierNamed {imm : BitVec 45} (h : ∀ b, shBarrier imm = some b → b < 640 * 2 ^ 22) {α : Type} (x : Act α) (s : State) :
    (match shBarrier imm with
      | some b => do need (decide (b < 640 * 2 ^ 22)) .capability 0 (BitVec.ofNat 64 b); x
      | none => x).run s = x.run s := by
  cases hb : shBarrier imm with
  | some b => exact run_bind_ok (run_need (decide_eq_true (h b hb)) ..) _
  | none => rfl

/-- A tile that a core may send, with its checks passed: without a tablet the word holds, with one the tile goes with it. -/
theorem run_shsendAct {v w : State} {h : BitVec 5} {imm : BitVec 45} {k : Cap} {t : ShTx} (hr : ReadsH v h k w)
    (htx : w.shTx w.cur.1 (imm.setWidth 4) = some t) (hk : UseOk w k [kTile] pR [0, 1]) (hd : k.has pD = true)
    (hfit : tileBytes (w.tileEntry k.key).rows (w.tileEntry k.key).cols (w.tileEntry k.key).fmt ≤ classSize t.cls)
    (hbar : ∀ b, shBarrier imm = some b → b < 640 * 2 ^ 22) :
    (t.tablets = [] → (shsendAct h imm).run v = .error (.hold (causeBit 4) none)) ∧
    (∀ b rest, t.tablets = b :: rest →
      let n := tileBytes (w.tileEntry k.key).rows (w.tileEntry k.key).cols (w.tileEntry k.key).fmt
      let u := tabletLent w h (imm.setWidth 4) rest
      RoomIn u qShuttle → (shsendAct h imm).run v = .ok ((), entering u qShuttle
        (newEntry u (.shsend k b n t.rx t.ch) [k] [b] [k] (shBarrier imm) n none []))) := by
  rw [shsendAct, run_bind_ok hr, run_bind_ok (run_get w)]
  dsimp only
  rw [htx]
  dsimp only
  rw [run_bind_ok (run_checkTile hk), run_bind_ok (run_checkPerm hd w), run_bind_ok (run_need (decide_eq_true hfit) ..)]
  refine ⟨fun hnone => ?without, fun b rest hfirst hroom => ?lent⟩
  case without =>
    refine (run_barrierNamed hbar _ w).trans ?_
    rw [hnone]
    exact run_hold 4 none w
  case lent =>
    refine (run_barrierNamed hbar _ w).trans ?_
    rw [hfirst]
    dsimp only
    rw [run_bind_ok (run_nullH1 h w), run_bind_ok (run_modify ..), nulling_cur]
    exact run_bind_ok (run_enter hroom ..) _

/-! ## SHTAKE (R262) -/

section Take
variable {v : State} {h : BitVec 5} {ch : BitVec 4} {x : ShRx} (hrx : v.shRx v.cur.1 ch = some x)
include hrx

theorem run_shtakeAct_empty (hfifo : x.fifo = []) : (shtakeAct h ch).run v = .error (.hold (causeBit 4) none) := by
  rw [shtakeAct, run_bind_ok (run_get v), hrx]
  dsimp only
  rw [hfifo, run_hold]

theorem run_shtakeAct {w : State} {k : Cap} {rest : List Cap} {e : Effect} (hfifo : x.fifo = k :: rest) (hroom : RoomIn v qShuttle)
    (ht : TakesH v h k e w) : (shtakeAct h ch).run v = .ok ((), (flying w 1 e).modRx w.cur.1 ch fun x => { x with fifo := rest }) := by
  rw [shtakeAct, run_bind_ok (run_get v), hrx]
  dsimp only
  rw [hfifo]
  dsimp only
  rw [run_bind_ok (run_roomIn hroom), run_bind_ok (run_writeH ht 1), run_modify]
  rfl

end Take

/-! ## SHRET (R261) -/

/-- A tablet that goes back to its sender, on its way there for 4 cycles. -/
theorem run_shretTAct {v w : State} {h : BitVec 5} {ch : BitVec 4} {k : Cap} {x : ShRx} (hr : ReadsH v h k w) (hk : CapOk w k [kBlank])
    (hrx : w.shRx w.cur.1 ch = some x) (hspace : k.space = 1) (hcore : k.addr.toNat / 2 ^ 32 = w.cur.1)
    (hcls : (w.dirEntry k.key).cls = x.cls) (hweight : k.weight = fullWeight) (hlent : w.lent x < x.n) (hroom : RoomIn w qShuttle) :
    (shretTAct h ch).run v = .ok ((), (nulling w h).modRx w.cur.1 ch fun x => { x with coming := x.coming ++ [(k, w.clk + 4)] }) := by
  have own : (k.space == 1 && decide (k.addr.toNat / 2 ^ 32 = w.cur.1) && decide ((w.dirEntry k.key).cls = x.cls) &&
      decide (k.weight = fullWeight)) = true := by
    rw [hspace, decide_eq_true hcore, decide_eq_true hcls, decide_eq_true hweight]
    rfl
  rw [shretTAct, run_bind_ok hr, run_bind_ok (run_checkKind hk), run_bind_ok (run_get w), hrx]
  dsimp only
  rw [run_bind_ok (run_need own ..), run_bind_ok (run_need (decide_eq_true hlent) ..), run_bind_ok (run_roomIn hroom),
    run_bind_ok (run_nullH1 h w), run_modify, nulling_cur, nulling_clk]

theorem run_shretCloseAct {v : State} {ch : BitVec 4} {x : ShRx} (hrx : v.shRx v.cur.1 ch = some x) (hfifo : x.fifo = [])
    (hflight : ∀ t, v.shTx x.tx x.ch = some t → t.flight = 0) (hroom : RoomIn v qShuttle) :
    (shretCloseAct ch).run v = .ok ((), v.closeRx v.cur.1 ch) := by
  rw [shretCloseAct, run_bind_ok (run_get v), hrx]
  dsimp only
  refine (run_bind_ok (run_need ?idle ..) _).trans ((run_bind_ok (run_roomIn hroom) _).trans (run_set ..))
  rw [hfifo, List.isEmpty_nil, Bool.and_true, decide_eq_true_iff]
  cases ht : v.shTx x.tx x.ch with
  | none => rfl
  | some t => exact hflight t ht

/-- SHRET.OPEN's operand: the sender's core below bit 8, its channel above, nothing beyond bit 12. -/
theorem openOperand_fields {x : Word64} (h : x.toNat < 2 ^ 12) : (x.extractLsb' 12 52 == 0) = true ∧ (x.extractLsb' 0 8).toNat = x.toNat % 256 := by
  constructor
  · rw [beq_iff_eq]
    apply BitVec.eq_of_toNat_eq
    rw [BitVec.extractLsb'_toNat, Nat.shiftRight_eq_div_pow, Nat.div_eq_of_lt h]
    rfl
  · simp only [BitVec.extractLsb'_toNat, Nat.shiftRight_zero]

/-- The receiver's side of a channel just opened: its tablets come in 8 cycles. -/
def opened (u : State) (core tx : Nat) (tch : BitVec 4) (cls count : Nat) (cs : List Cap) : ShRx :=
  ⟨tx, tch, cls, count, ((u.core core).part.getD 0, (u.cons u.curCons).train), [], cs.map fun c => (c, u.clk + 8)⟩

theorem run_shretOpenAct {v w u : State} {a : BitVec 6} {ch : BitVec 4} {n : BitVec 3} {cls : BitVec 4} {x : Word64} {cs : List Cap}
    (hr : ReadsS v a x w) (hx : x.toNat < 2 ^ 12) (htx : x.toNat % 256 < 160)
    (hpart : (w.core (x.toNat % 256)).part = (w.core w.cur.1).part) (hfreeRx : w.shRx w.cur.1 ch = none)
    (hfreeTx : w.shTx (x.toNat % 256) (x.extractLsb' 8 4) = none) (hroom : RoomIn w qShuttle)
    (hblanks : takeBlanks w.cur.1 ((w.core w.cur.1).part.getD 0) cls.toNat (if n = 0 then 2 else n.toNat) w = some (cs, u)) :
    let x' := opened u w.cur.1 (x.toNat % 256) (x.extractLsb' 8 4) cls.toNat (if n = 0 then 2 else n.toNat) cs
    (shretOpenAct a ch n cls).run v = .ok ((),
      (u.modCoreAt u.cur.1 fun e => { e with shRx := Tbl.set e.shRx ch.toNat x' }).modCoreAt (x.toNat % 256) fun e =>
        { e with shTx := Tbl.set e.shTx (x.extractLsb' 8 4).toNat ⟨w.cur.1, ch, cls.toNat, [], 0⟩ }) := by
  have unbound : ((w.shRx w.cur.1 ch).isNone && (w.shTx (x.toNat % 256) (x.extractLsb' 8 4)).isNone) = true := by
    rw [hfreeRx, hfreeTx]
    rfl
  obtain ⟨hhigh, hlow⟩ := openOperand_fields hx
  rw [shretOpenAct, run_bind_ok hr, run_bind_ok (run_get w)]
  dsimp only
  rw [hhigh, hlow, Bool.true_and]
  rw [run_bind_ok (run_need (decide_eq_true htx) ..), run_bind_ok (run_need (beq_iff_eq.2 hpart) ..), run_bind_ok (run_need unbound ..),
    run_bind_ok (run_roomIn hroom), hblanks]
  dsimp only
  rw [run_bind_ok (run_set ..), run_bind_ok (run_modCore ..), run_modify]
  rfl

/-! ## The words -/

/-- Settles O33: each word by its work; a send without a tablet and a take without a tile hold. -/
theorem shuttleWords : Obligations.ShuttleWords := by
  unfold Obligations.ShuttleWords
  intro g s v h
  refine ⟨fun r imm k w t hr htx hk hd hfit hbar => ?send, fun r ch x hrx => ⟨fun hfifo => ?takeHolds, fun k rest e w hfifo hroom ht => ?take⟩,
    fun r ch k w x hr hk hrx hspace hcore hcls hweight hlent hroom => ?giveBack, fun ch x hrx hfifo hflight hroom => ?close,
    fun a ch n cls x w u cs count hr hx htx hpart hfreeRx hfreeTx hroom hcount hblanks => ?binds⟩
  case send =>
    obtain ⟨without, lent⟩ := run_shsendAct hr htx hk hd hfit hbar
    exact ⟨fun hnone => issueFall_holds h (without hnone), fun b rest hfirst hroom => issueFall_completes h (lent b rest hfirst hroom)⟩
  case takeHolds => exact issueFall_holds h (run_shtakeAct_empty hrx hfifo)
  case take => exact issueFall_completes h (run_shtakeAct hrx hfifo hroom ht)
  case giveBack => exact issueFall_completes h (run_shretTAct hr hk hrx hspace hcore hcls hweight hlent hroom)
  case close => exact issueFall_completes h (run_shretCloseAct hrx hfifo hflight hroom)
  case binds =>
    subst hcount
    exact issueFall_completes h (run_shretOpenAct hr hx htx hpart hfreeRx hfreeTx hroom hblanks)

end Sys2Proof.Laws
end

section
/-! SUPPORT. The micro-operations that work on rows (R251, R252): which accumulators and row state each leaves, where it stops for want of
a row count, and O28. -/
namespace Sys2Proof.Laws
open Sys2Proof Sys2Proof.Machine Sys2Proof.Claims
-- In order: each thread of an elaboration in parallel reserves its stack, and the text is long.
set_option Elab.async false

/-! ## Tables -/

/-- A table whose keys below n come first. -/
theorem get_range_append {α : Type} (d : α) (f : Nat → α) (i : Nat) : ∀ (n : Nat) (t : Tbl α),
    Tbl.get d ((List.range n).map (fun r => (r, f r)) ++ t) i = if i < n then f i else Tbl.get d t i
  | 0, t => by simp
  | n + 1, t => by
    rw [List.range_succ, List.map_append, List.append_assoc]
    refine (get_range_append d f i n _).trans ?_
    show (if i < n then f i else if i = n then f n else Tbl.get d t i) = _
    grind

/-- A table with some keys left out. -/
theorem get_filter_keys {α : Type} (d : α) (p : Nat → Bool) (i : Nat) (t : Tbl α) :
    Tbl.get d (t.filter fun e => p e.1) i = if p i then Tbl.get d t i else d := by
  induction t with
  | nil => simp [Tbl.get]
  | cons e t ih =>
    obtain ⟨k, v⟩ := e
    by_cases hp : p k = true
    · rw [List.filter_cons_of_pos (p := fun e : Nat × α => p e.1) hp]
      simp only [Tbl.get, ih]
      grind
    · rw [List.filter_cons_of_neg (p := fun e : Nat × α => p e.1) hp, ih]
      simp only [Tbl.get]
      grind

/-- Rows below n are changed, the others are as they were (R252). -/
theorem row_mapRows (a : Attn) (n : Nat) (f : Nat → AttRow → AttRow) (r : Nat) :
    (a.mapRows n f).row r = if r < n then f r (a.row r) else a.row r := by
  unfold Attn.mapRows Attn.row
  dsimp only
  rw [get_range_append, get_filter_keys _ (fun i => decide (n ≤ i))]
  split
  next => rfl
  next h => rw [if_pos (decide_eq_true (Nat.not_lt.1 h))]

/-! ## The core after a micro-operation -/

@[simp] theorem core_modAttn (s : State) (c : Nat) (f : Attn → Attn) :
    (s.modAttn c f).core c = { s.core c with attn := f (s.core c).attn } := core_modCoreAt ..

/-- What moves on is the micro-PC and the time of the next operation. -/
theorem core_microGo (s : State) (c pc : Nat) : (microGo s c pc).core c =
    { s.core c with attn := { (s.core c).attn with upc := pc, busyTill := s.clk + 1 + s.delay.1 } } := core_modAttn ..

theorem core_setSlot (s : State) (c : Nat) (n : BitVec 4) (st : SlotState) : (s.setSlot c n st).core c =
    { s.core c with slots := Tbl.set (s.core c).slots n.toNat { (s.core c).slot n with state := st, since := s.coreTtc c } } := core_modCoreAt ..

theorem core_loadSlot (s : State) (c : Nat) (n : BitVec 4) (l : SlotLoad) : (s.loadSlot c n l).core c =
    { s.core c with slots := Tbl.set (s.core c).slots n.toNat { (s.core c).slot n with rows := l.rows, cols := l.cols, fmt := l.fmt } } :=
  core_modCoreAt ..

/-! ## Accumulators -/

/-- Rows below n take w elements each from column `col` on, and no other element changes. -/
theorem accAt_eachRow (k : Core) {col w : Nat} {f : Nat → List (BitVec 32 × Bool)} {g : Nat → Nat → BitVec 32 × Bool}
    (hf : ∀ r, f r = (List.range w).map (g r)) (hcol : col + w ≤ 1024) (r x : Nat) (hx : x < 1024) (n : Nat) :
    (k.eachRow n col f).1.accAt r x = if r < n ∧ col ≤ x ∧ x < col + w then (g r (x - col)).1 else k.accAt r x := by
  unfold Core.eachRow
  dsimp only
  induction n with
  | zero => simp
  | succ n ih =>
    rw [List.range_succ, List.foldl_append, List.foldl_cons, List.foldl_nil, hf n, List.map_map, accAt_setAccRow_range _ _ hcol r x hx, ih]
    grind

/-! ## Where an operation may run (R251) -/

theorem rowsBad_eq_false {k : Core} (h : RowsOk k) : rowsBad k.attn = false := by
  obtain ⟨hlo, hhi⟩ := h
  exact decide_eq_false (by omega)

theorem rowsBad_eq_true {a : Attn} (h : a.live = 0 ∨ 128 < a.live) : rowsBad a = true := decide_eq_true (by omega)

theorem colsBad_eq_false {k : Core} {col n : Nat} (h : ColsOk k col n) : colsBad k col n = false := by
  rw [colsBad, h.2, Bool.or_false]
  exact decide_eq_false (Nat.not_lt.2 h.1)

theorem slotFull_eq_true {k : Core} {n : BitVec 4} (h : (k.slot n).state = .claimedFilled) : slotFull k n = true := by
  rw [slotFull, h]
  rfl

theorem slotHeld_eq_true {k : Core} {n : BitVec 4} (h : (k.slot n).state ≠ .free) : slotHeld k n = true := bne_iff_ne.2 h

theorem cols_le_of_productOk {k : Core} {a b : BitVec 4} {col inner n fa fb : Nat} (h : ProductOk k a b col inner n fa fb) :
    col + n ≤ 512 := by
  obtain ⟨-, ⟨hwidth, -⟩, -⟩ := h
  exact hwidth

theorem productBad_eq_none {k : Core} {a b : BitVec 4} {col inner n fa fb : Nat} {fmts : Bool} (h : ProductOk k a b col inner n fa fb)
    (hfmts : fmts = true) : productBad k k.attn a b col inner n fa fb fmts = none := by
  obtain ⟨hrows, hcols, ha, hb, hfa, hfb, hfmt, hsize⟩ := h
  unfold productBad
  dsimp only
  rw [rowsBad_eq_false hrows, slotFull_eq_true ha, slotFull_eq_true hb, colsBad_eq_false hcols, hfmts, hfa, hfb]
  simp only [bne_self_eq_false, Bool.not_true, Bool.or_self, Bool.false_eq_true, if_false]
  rw [if_neg (by omega), if_neg (by omega)]

theorem productBad_of_rowsBad {k : Core} {at_ : Attn} (h : rowsBad at_ = true) (a b : BitVec 4) (col inner n fa fb : Nat) (fmts : Bool) :
    productBad k at_ a b col inner n fa fb fmts = some 4 := if_pos h

/-! ## Products and rescaling (R251) -/

/-- The state with rows of accumulators written and the numbers of the attention sequencer changed. -/
def rowsWritten (s : State) (core col : Nat) (f : Nat → List (BitVec 32 × Bool)) (g : Attn → Attn) : State :=
  (s.setCore core ((s.core core).eachRow (s.core core).attn.live col f).1).modAttn core g

/-- Elements of the live rows in w columns from `col` on are what `out` gives for their row and place, the others as they were. -/
theorem accAt_rowsWritten (s : State) (core pc : Nat) {col w : Nat} {f : Nat → List (BitVec 32 × Bool)} (g : Attn → Attn)
    {out : Nat → Nat → BitVec 32 × Bool} (hf : ∀ r, f r = (List.range w).map (out r)) (hcol : col + w ≤ 512) (r x : Nat) (hx : x < 1024) :
    ((microGo (rowsWritten s core col f g) core pc).core core).accAt r x =
      if r < (s.core core).attn.live ∧ col ≤ x ∧ x < col + w then (out r (x - col)).1 else (s.core core).accAt r x := by
  have written : ((microGo (rowsWritten s core col f g) core pc).core core).accAt r x =
      ((s.core core).eachRow (s.core core).attn.live col f).1.accAt r x := by
    rw [core_microGo, rowsWritten, core_modAttn, core_setCore]
    rfl
  rw [written, accAt_eachRow _ hf (by omega) r x hx]

/-- The same where what an element becomes depends on what it is. -/
theorem accAt_rowsUpdated (s : State) (core pc : Nat) {col w : Nat} {f : Nat → List (BitVec 32 × Bool)} (g : Attn → Attn)
    {out : Nat → Nat → BitVec 32 → BitVec 32 × Bool}
    (hf : ∀ r, f r = (List.range w).map fun j => out r j ((s.core core).accAt r (col + j))) (hcol : col + w ≤ 512) (r x : Nat) (hx : x < 1024) :
    ((microGo (rowsWritten s core col f g) core pc).core core).accAt r x =
      if r < (s.core core).attn.live ∧ col ≤ x ∧ x < col + w then (out r (x - col) ((s.core core).accAt r x)).1
      else (s.core core).accAt r x := by
  rw [accAt_rowsWritten s core pc g hf hcol r x hx]
  split
  next hin => rw [Nat.add_sub_cancel' hin.2.1]
  next => rfl

theorem mask_rowsWritten (s : State) (core pc col : Nat) (f : Nat → List (BitVec 32 × Bool)) (g : Attn → Attn) :
    ((microGo (rowsWritten s core col f g) core pc).core core).attn.mask =
      (g ((s.core core).eachRow (s.core core).attn.live col f).1.attn).mask := by
  rw [core_microGo, rowsWritten, core_modAttn, core_setCore]

/-- The state with rows of accumulators written, and the status word told whether one of them was clamped (R249, R252). -/
def rowsClamped (s : State) (core col : Nat) (f : Nat → List (BitVec 32 × Bool)) : State :=
  rowsWritten s core col f fun a => a.saturated ((s.core core).eachRow (s.core core).attn.live col f).2

section Products
variable {s : State} {x : EngCtx} {p q : BitVec 4} {col : BitVec 9} {dim : BitVec 7} {fmt : BitVec 4}

/-- A score of QK. -/
def qkElement (s : State) (core : Nat) (q k : BitVec 4) (f d r j : Nat) : BitVec 32 :=
  mmaElement (fmtWord f f 0) (rowOf f (s.slotBytes core q) ((s.core core).slot q).cols r d false)
    (colOf f (s.slotBytes core k) ((s.core core).slot k).cols j d) [] none 0

theorem works_microQk (h : ProductOk (s.core x.core) p q col.toNat (dim.toNat + 1) 64 fmt.toNat fmt.toNat) (hf : fmt ∈ [1, 3, 4]) :
    Works (microQk p q col dim fmt x) s .next (rowsWritten s x.core col.toNat
      (fun r => (List.range 64).map fun j => (qkElement s x.core p q fmt.toNat (dim.toNat + 1) r j, false))
      fun a => { a with mask := BitVec.ofNat 64 (bytesAt (s.slotBytes x.core q) (slotSize x.core - 8) 8) }) := by
  have formats : [1, 3, 4].contains fmt.toNat = true := by
    simp only [List.mem_cons, List.not_mem_nil, or_false] at hf
    rcases hf with rfl | rfl | rfl <;> rfl
  refine (eng_bind (eng_get s) _).trans ?_
  dsimp only
  rw [productBad_eq_none h formats]
  simp only [List.map_map]
  rfl

/-- An element of PV by what the accumulator holds; P in F8A carries a scale for each row. -/
def pvOut (s : State) (core : Nat) (p v : BitVec 4) (pf f r j : Nat) (acc : BitVec 32) : BitVec 32 × Bool :=
  pvElement (fmtWord pf f (if pf = 3 then 2 else 0)) (rowOf pf (s.slotBytes core p) ((s.core core).slot p).cols r 64 false)
    (colOf f (s.slotBytes core v) ((s.core core).slot v).cols j 64)
    (if pf = 3 then some (fp32.decode (bytesAt (s.slotBytes core p) (slotSize core - 512 + 4 * r) 4)) else none) acc

theorem works_microPv {pf : Nat} (hpf : pf = ((s.core x.core).slot p).fmt)
    (hf : pf = 3 ∧ (fmt = 3 ∨ fmt = 4) ∨ pf = 1 ∧ fmt = 1) (h : ProductOk (s.core x.core) p q col.toNat 64 (dim.toNat + 1) pf fmt.toNat) :
    Works (microPv p q col dim fmt x) s .next (rowsClamped s x.core col.toNat fun r => (List.range (dim.toNat + 1)).map fun j =>
      pvOut s x.core p q pf fmt.toNat r j ((s.core x.core).accAt r (col.toNat + j))) := by
  subst hpf
  have formats : (decide (((s.core x.core).slot p).fmt = 3 ∧ (fmt.toNat = 3 ∨ fmt.toNat = 4)) ||
      (((s.core x.core).slot p).fmt == 1 && fmt.toNat == 1)) = true := by
    rcases hf with ⟨h3, rfl | rfl⟩ | ⟨h1, rfl⟩
    · rw [h3]; rfl
    · rw [h3]; rfl
    · rw [h1]; rfl
  refine (eng_bind (eng_get s) _).trans ?_
  dsimp only
  rw [productBad_eq_none h formats]
  simp only [Core.accRow, List.zip_map', List.map_map]
  rfl

theorem works_microResc (hrows : RowsOk (s.core x.core)) (hcols : ColsOk (s.core x.core) col.toNat (dim.toNat + 1)) :
    Works (microResc col dim x) s .next (rowsClamped s x.core col.toNat fun r => (List.range (dim.toNat + 1)).map fun j =>
      rescElement ((s.core x.core).attn.row r).alpha ((s.core x.core).accAt r (col.toNat + j))) := by
  refine (eng_bind (eng_get s) _).trans ?_
  dsimp only
  rw [rowsBad_eq_false hrows, colsBad_eq_false hcols]
  simp only [Core.accRow, List.map_map]
  rfl

end Products

/-! ## Softmax (R252) -/

section Softmax
variable {s : State} {x : EngCtx} {col : BitVec 9}

theorem works_microSmax (hrows : RowsOk (s.core x.core)) (hcols : ColsOk (s.core x.core) col.toNat 64) :
    Works (microSmax col x) s .next (s.modAttn x.core fun a => a.mapRows (s.core x.core).attn.live fun r w =>
      smaxRow a.scale (scoresOf (s.core x.core) r col.toNat) w) := by
  refine (eng_bind (eng_get s) _).trans ?_
  dsimp only
  rw [rowsBad_eq_false hrows, colsBad_eq_false hcols]
  rfl

theorem works_microDen (hrows : RowsOk (s.core x.core)) :
    Works (microDen x) s .next (s.modAttn x.core fun a => a.mapRows (s.core x.core).attn.live fun r w =>
      denRow ((List.range 64).map fun j => Tbl.get 0 a.probs (64 * r + j)) w) := by
  refine (eng_bind (eng_getAttn ..) _).trans ?_
  rw [rowsBad_eq_false hrows]
  rfl

/-- A row of EXPP by the scores and the row's state (R252). -/
def exppOut (k : Core) (f8 : Bool) (col r : Nat) : PRow := exppRow f8 (probsOf k r col) (k.attn.row r)

/-- The state once EXPP has made its probabilities and P stands in its slot. -/
def probsMade (s : State) (core : Nat) (p : BitVec 4) (pf : BitVec 2) (col : Nat) : State :=
  (s.modAttn core fun a => a.expp (fun r => probsOf (s.core core) r col) (exppOut (s.core core) (pf = 0) col)).putP core p
    (s.core core).attn.live (pf = 0) (exppOut (s.core core) (pf = 0) col)

theorem works_microExpp {p : BitVec 4} {pf : BitVec 2} (hrows : RowsOk (s.core x.core)) (hpf : pf.toNat < 2)
    (hslot : ((s.core x.core).slot p).state ≠ .free) (hcols : ColsOk (s.core x.core) col.toNat 64) :
    Works (microExpp p col pf x) s .next (probsMade s x.core p pf col.toNat) := by
  refine (eng_bind (eng_get s) _).trans ?_
  dsimp only
  rw [rowsBad_eq_false hrows, if_neg (Nat.not_le.2 hpf), slotHeld_eq_true hslot, colsBad_eq_false hcols]
  rfl

/-- EXPP leaves every number of a row but λ. -/
theorem row_expp (a : Attn) (ps : Nat → List (BitVec 32)) (out : Nat → PRow) (r : Nat) :
    (a.expp ps out).row r = if r < a.live then { a.row r with lam := (out r).lam } else a.row r :=
  row_mapRows a a.live (fun r w => { w with lam := (out r).lam }) r

theorem attn_putP (s : State) (c : Nat) (p : BitVec 4) (n : Nat) (f8 : Bool) (out : Nat → PRow) :
    ((s.putP c p n f8 out).core c).attn = (s.core c).attn := by
  rw [State.putP, core_setSlot, core_loadSlot]

/-- P's slot: filled, with P's shape and format. -/
theorem slot_putP (s : State) (c : Nat) (p : BitVec 4) (n : Nat) (f8 : Bool) (out : Nat → PRow) :
    ∃ since, ((s.putP c p n f8 out).core c).slot p = ⟨.claimedFilled, n, 64, if f8 then 3 else 1, since⟩ := by
  unfold State.putP Core.slot
  simp only [core_setSlot, core_loadSlot, Core.slot, get_set_same]
  exact ⟨_, rfl⟩

/-- P's elements from the slot's start on, row by row; F8A's row scales in its last 512 bytes. -/
theorem mem_putP (s : State) (c : Nat) (p : BitVec 4) (n : Nat) (f8 : Bool) (out : Nat → PRow) :
    let m := s.mem.setBytes (slotAt c p.toNat 0) ((List.range n).flatMap fun r => (out r).q.flatMap fun v => toBytes (if f8 then 1 else 2) v)
    (s.putP c p n f8 out).mem = if f8 then m.setBytes (slotAt c p.toNat (slotSize c - 512))
      ((List.range n).flatMap fun r => toBytes 4 (out r).pm.toNat) else m := by
  cases f8 <;> rfl

section ProbsMade
variable (s : State) (c pc : Nat) (p : BitVec 4) (pf : BitVec 2) (col : Nat)

theorem row_probsMade (r : Nat) : ((microGo (probsMade s c p pf col) c pc).core c).attn.row r =
    if r < (s.core c).attn.live then { (s.core c).attn.row r with lam := (exppOut (s.core c) (pf = 0) col r).lam }
    else (s.core c).attn.row r := by
  have rows : ((microGo (probsMade s c p pf col) c pc).core c).attn.row r = ((probsMade s c p pf col).core c).attn.row r := by
    rw [core_microGo]
    rfl
  rw [rows, probsMade, attn_putP, core_modAttn]
  exact row_expp ..

theorem slot_probsMade : ∃ since, ((microGo (probsMade s c p pf col) c pc).core c).slot p =
    ⟨.claimedFilled, (s.core c).attn.live, 64, if pf = 0 then 3 else 1, since⟩ := by
  have slots : ((microGo (probsMade s c p pf col) c pc).core c).slot p = ((probsMade s c p pf col).core c).slot p := by
    rw [core_microGo]
    rfl
  rw [slots]
  have filled := slot_putP (s.modAttn c fun a => a.expp (fun r => probsOf (s.core c) r col) (exppOut (s.core c) (pf = 0) col)) c p
    (s.core c).attn.live (pf = 0) (exppOut (s.core c) (pf = 0) col)
  simp only [decide_eq_true_eq] at filled
  exact filled

theorem mem_probsMade :
    let m := s.mem.setBytes (slotAt c p.toNat 0) ((List.range (s.core c).attn.live).flatMap fun r =>
      (exppOut (s.core c) (pf = 0) col r).q.flatMap fun v => toBytes (if pf = 0 then 1 else 2) v)
    (microGo (probsMade s c p pf col) c pc).mem = if pf = 0 then m.setBytes (slotAt c p.toNat (slotSize c - 512))
      ((List.range (s.core c).attn.live).flatMap fun r => toBytes 4 (exppOut (s.core c) (pf = 0) col r).pm.toNat) else m := by
  have written := mem_putP s c p (s.core c).attn.live (pf = 0) (exppOut (s.core c) (pf = 0) col)
  simp only [decide_eq_true_eq] at written
  exact written

end ProbsMade

end Softmax

/-! ## No row count (R251) -/

/-- Work that stops once it has looked at the state. -/
theorem works_get_stops {s : State} {kind : Nat} {f : State → Eng MicroEnd} (h : f s = pure (.stop kind)) :
    Works (get >>= f) s (.stop kind) s := by
  rw [Works, eng_bind (eng_get s) f, h]
  rfl

section RowCount
variable {s : State} {x : EngCtx} (h : rowsBad (s.core x.core).attn = true)
include h

theorem works_microQk_rowsBad (p q : BitVec 4) (col : BitVec 9) (dim : BitVec 7) (fmt : BitVec 4) :
    Works (microQk p q col dim fmt x) s (.stop 4) s := by
  refine works_get_stops ?_
  dsimp only
  rw [productBad_of_rowsBad h]

theorem works_microPv_rowsBad (p q : BitVec 4) (col : BitVec 9) (dim : BitVec 7) (fmt : BitVec 4) :
    Works (microPv p q col dim fmt x) s (.stop 4) s := by
  refine works_get_stops ?_
  dsimp only
  rw [productBad_of_rowsBad h]

theorem works_microSmax_rowsBad (col : BitVec 9) : Works (microSmax col x) s (.stop 4) s :=
  works_get_stops (if_pos (Bool.or_eq_true_iff.2 (.inl h)))

theorem works_microResc_rowsBad (col : BitVec 9) (dim : BitVec 7) : Works (microResc col dim x) s (.stop 4) s :=
  works_get_stops (if_pos (Bool.or_eq_true_iff.2 (.inl h)))

theorem works_microExpp_rowsBad (p : BitVec 4) (col : BitVec 9) (f : BitVec 2) : Works (microExpp p col f x) s (.stop 4) s :=
  works_get_stops (if_pos h)

theorem works_microNorm_rowsBad (col : BitVec 9) (dim : BitVec 7) (f : BitVec 2) (row : BitVec 7) :
    Works (microNorm col dim f row x) s (.stop 4) s := works_get_stops (if_pos h)

theorem works_microDen_rowsBad : Works (microDen x) s (.stop 4) s :=
  (eng_bind (eng_getAttn ..) _).trans (congrArg (fun y : Eng MicroEnd => y.run.run s) (if_pos h))

end RowCount

/-- An operation over rows stops with kind 4 where ap4 is no row count, before anything else. -/
theorem microRowCount : MicroRowCount := by
  unfold MicroRowCount
  intro s e p q col dim row fmt f he hlive i hi
  have bad : rowsBad (s.core s.cur.1).attn = true := rowsBad_eq_true hlive
  simp only [List.mem_cons, List.not_mem_nil, or_false] at hi
  obtain rfl | rfl | rfl | rfl | rfl | rfl | rfl := hi
  · exact micro_stops he (works_microQk_rowsBad bad ..)
  · exact micro_stops he (works_microSmax_rowsBad bad ..)
  · exact micro_stops he (works_microExpp_rowsBad bad ..)
  · exact micro_stops he (works_microDen_rowsBad bad)
  · exact micro_stops he (works_microResc_rowsBad bad ..)
  · exact micro_stops he (works_microPv_rowsBad bad ..)
  · exact micro_stops he (works_microNorm_rowsBad bad ..)

/-- What each operation over rows leaves, by the row arithmetic of R252. -/
theorem microRows : MicroRows := by
  unfold MicroRows
  rintro s e k rfl he hrows
  refine ⟨fun q kk col dim fmt hf hp => ?qk, fun p v col dim fmt pf hpf hf hp => ?pv, fun col dim hcols => ?resc, fun col hcols => ?smax, ?den,
    fun p col pf hpf hslot hcols => ?expp⟩
  case qk =>
    exact ⟨_, micro_next he (works_microQk hp hf), accAt_rowsWritten s _ _ _ (fun _ => rfl) (cols_le_of_productOk hp), mask_rowsWritten ..⟩
  case pv => exact ⟨_, micro_next he (works_microPv hpf hf hp), accAt_rowsUpdated s _ _ _ (fun _ => rfl) (cols_le_of_productOk hp)⟩
  case resc =>
    exact ⟨_, micro_next he (works_microResc hrows hcols),
      accAt_rowsUpdated s _ _ _ (out := fun r _ => rescElement ((s.core s.cur.1).attn.row r).alpha) (fun _ => rfl) hcols.1⟩
  case smax => exact micro_next he (works_microSmax hrows hcols)
  case den => exact micro_next he (works_microDen hrows)
  case expp =>
    obtain ⟨since, hslots⟩ := slot_probsMade s s.cur.1 ((s.core s.cur.1).attn.upc + 1) p pf col.toNat
    exact ⟨_, micro_next he (works_microExpp hrows hpf hslot hcols), fun r => row_probsMade .., congrArg Slot.state hslots, congrArg Slot.rows hslots,
      congrArg Slot.cols hslots, congrArg Slot.fmt hslots, _, rfl, mem_probsMade ..⟩

/-- Settles O28: what the operations leave, and where they stop. -/
theorem microRowWork : Obligations.MicroRowWork := ⟨microRows, microRowCount⟩

end Sys2Proof.Laws
end

section
/-! SUPPORT. The attention sequencer as the XS sees it (R244, R246, R248, R330): what the work of ASTART, ALOAD and ASTAT comes to, the
numbers that an entry starts with, and O26. -/
namespace Sys2Proof.Laws
open Sys2Proof Sys2Proof.Machine
-- In order: each thread of an elaboration in parallel reserves its stack, and the text is long.
set_option Elab.async false

/-! ## The words (R246, R248, R330) -/

section Words
variable {v v1 v2 w : State}

theorem run_astartAct {hb : BitVec 5} {a : BitVec 6} {c : Cap} {p : Word64} (hh : NoHandler v) (hr : ReadsH v hb c v1) (hp : ReadsS v1 a p w)
    (hc : CapOk w c [kNull, kBlank]) (hu : c.isNull = true ∨ UseOk w c [kBlank] pW [0, 1]) (halign : p.toNat % 8 = 0)
    (hend : p.toNat + 128 ≤ 0x100000) (hroom : RoomIn w qAttention) (upc : BitVec 12) :
    (astartAct hb a upc).run v = .ok ((), entering w qAttention
      (newEntry w (.astart c p.toNat upc) [c] [c] (pops1 hb c) none 0 none [])) := by
  have block : (decide (p.toNat % 8 = 0) && decide (p.toNat + 128 ≤ 0x100000)) = true := by
    rw [decide_eq_true halign, decide_eq_true hend, Bool.and_self]
  have usable : (if c.isNull = true then pure () else checkBlank c : Act Unit).run w = .ok ((), w) := by
    split
    next => rfl
    next hnull => exact run_checkBlank (hu.resolve_left hnull)
  rw [astartAct, run_bind_ok (run_notQueuedInHandler hh), run_bind_ok hr, run_bind_ok hp, run_bind_ok (run_checkKind hc)]
  refine (run_ite_bind usable).trans ?_
  rw [run_bind_ok (run_need block ..), ← popsOf_one]
  exact run_bind_ok (run_enter hroom ..) _

theorem run_aloadAct {h : BitVec 5} {a b : BitVec 6} {c : Cap} {i n : Word64} (hh : NoHandler v) (hr : ReadsH v h c v1)
    (hi : ReadsS v1 a i v2) (hn : ReadsS v2 b n w) (hfit : i.toNat + n.toNat ≤ 4096) (hc : UseOk w c [kPointer] pR [0, 1, 2, 5])
    (hb : CursorOk c (8 * n.toNat)) (hroom : RoomIn w qAttention) :
    (aloadAct h a b).run v = .ok ((), entering w qAttention
      (newEntry w (.aload c i.toNat n.toNat) [c] [] (pops1 h c) none 0 none [])) := by
  rw [aloadAct, run_bind_ok (run_notQueuedInHandler hh), run_bind_ok hr, run_bind_ok hi, run_bind_ok hn,
    run_bind_ok (run_need (decide_eq_true hfit) ..), run_checkUse hc, run_bind_ok (run_checkBounds hb w), ← popsOf_one]
  exact run_bind_ok (run_enter hroom ..) _

/-- An ASTAT is at its core two cycles after its selector is, and its result is awaited. -/
theorem run_astatAct {d a : BitVec 6} {x : Word64} {e : Effect} (hr : ReadsS v a x v1) (ht : TakesS v1 d 0 e w)
    (hitem : ((v1.core v1.cur.1).attn.item x.toNat).isSome = true) (wait : Bool) :
    (astatAct d a wait).run v =
      let u := awaiting w (2 * v1.dC v1.cur.1 + 4) 5 e
      .ok ((), u.setCore u.cur.1 { u.core u.cur.1 with
        astats := (u.core u.cur.1).astats ++ [⟨w.nextId, x.toNat, wait, u.clk + v1.dC v1.cur.1 + 2⟩] }) := by
  rw [astatAct, run_bind_ok hr, run_bind_ok (run_getCore v1), run_bind_ok (run_need hitem ..), run_bind_ok (run_getD v1),
    run_bind_ok (run_awaitS ht ..), run_bind_ok (run_get _), run_modCore]

end Words

/-! ## The start of an entry (R244, R246) -/

theorem attentionStart_astart {s : State} {core : Nat} {e : EngEntry} {es : List EngEntry} {c : Cap} {p : Nat} {upc : BitVec 12}
    (hq : (s.core core).queue qAttention = e :: es) (hop : e.op = .astart c p upc)
    (hp : s.mem.firstPoison (privAt core p) 128 = none) :
    attentionStart s core = s.modCoreAt core fun k => { k.modHead qAttention (fun e => { e with started := true }) with
      attn := k.attn.started e.id c upc (s.params (privAt core p)) (s.clk + 1) } := by
  unfold attentionStart
  rw [hq]
  dsimp only
  rw [hop]
  dsimp only
  rw [astartBegin, hp]
  rfl

/-- The parameter block holds 16 words in order. -/
theorem get_params (s : State) (a : Nat) {i : Nat} (h : i < 16) : Tbl.get 0 (s.params a) i = s.mem.read64 (a + 8 * i) := by
  have := get_range_append 0 (fun i => s.mem.read64 (a + 8 * i)) i 16 []
  rwa [List.append_nil, if_pos h] at this

/-- Settles O26: each word by its work; what an entry starts with is `Attn.started`. -/
theorem attentionWords : Obligations.AttentionWords := by
  unfold Obligations.AttentionWords
  refine ⟨fun g s v h => ⟨fun d a imm hb c p v1 w hh hd hr hp hc hu halign hend hroom => ?astart,
    fun r a b c i n v1 v2 w hh hr hi hn hfit hc hb hroom => ?aload, fun d a x e v1 w hr ht hitem => ?astat⟩,
    fun s core e es c p upc hq hop hp => ?start⟩
  case astart =>
    subst hd
    exact issueFall_completes h (run_astartAct hh hr hp hc hu halign hend hroom _)
  case aload => exact issueFall_completes h (run_aloadAct hh hr hi hn hfit hc hb hroom)
  case astat => exact ⟨issueFall_completes h (run_astatAct hr ht hitem _), issueFall_completes h (run_astatAct hr ht hitem _)⟩
  case start =>
    refine ⟨attentionStart s core, rfl, ?_⟩
    rw [attentionStart_astart hq hop hp, core_modCoreAt]
    exact ⟨rfl, rfl, rfl, fun i hi => get_params s _ hi, fun _ => rfl, rfl, rfl, fun _ => rfl, rfl, rfl⟩

end Sys2Proof.Laws
end

section
/-! SUPPORT. The micro-operations that reach storage (R251, R254, R255): what NORM, WALK and GATH do once their accesses have answered,
and O29. -/
namespace Sys2Proof.Laws
open Sys2Proof Sys2Proof.Machine
-- In order: each thread of an elaboration in parallel reserves its stack, and the text is long.
set_option Elab.async false

section Accesses
variable {s w : State} {x : EngCtx}

/-! ## NORM (R251, R418) -/

/-- Bytes of an element of NORM's output. -/
abbrev normSize (f : BitVec 2) : Nat := if f = 0 then 4 else 2

/-- NORM's elements, row by row. -/
def normOut (k : Core) (col d : Nat) (f : BitVec 2) : List (Nat × Bool) :=
  (List.range k.attn.live).flatMap fun r =>
    (k.accRow r col d).map (normElement (if f = 0 then fp32 else bf16) (k.attn.row r).hi (k.attn.row r).lo)

theorem works_microNorm {col : BitVec 9} {dim row : BitVec 7} {f : BitVec 2} {ps : List Part} {d : Nat} (hd : d = dim.toNat + 1)
    (hrows : RowsOk (s.core x.core)) (hf : f.toNat < 2) (hblank : (s.core x.core).attn.blank.isNull = false)
    (hcols : ColsOk (s.core x.core) col.toNat d) (hfit : (row.toNat + (s.core x.core).attn.live) * d * normSize f ≤
      classSize (s.dirEntry (s.core x.core).attn.blank.key).cls)
    (hw : Works (engRange x (s.core x.core).attn.blank.space ((s.core x.core).attn.blank.addr.toNat + row.toNat * d * normSize f)
      ((s.core x.core).attn.live * d * normSize f) true) s ps w) :
    Works (microNorm col dim f row x) s .next ({ storesBefore w x.core with
      mem := writeParts (storesBefore w x.core).mem ps ((normOut (s.core x.core) col.toNat d f).flatMap fun (v : Nat × Bool) => toBytes (normSize f) v.1)
      }.modAttn x.core fun a => a.saturated ((normOut (s.core x.core) col.toNat d f).any Prod.snd)) := by
  subst hd
  refine (eng_bind (eng_get s) _).trans ?_
  dsimp only
  rw [rowsBad_eq_false hrows, if_neg Bool.false_ne_true, if_neg (Nat.not_le.2 hf), hblank, colsBad_eq_false hcols,
    decide_eq_false (Nat.not_lt.2 hfit)]
  exact eng_bind hw _

/-! ## WALK (R253, R254) -/

section Walk
variable {t : SeqTable} {ps : List (Nat × Bool)} (hw : Works (walkPages x) s (.list t ps) w)
include hw

/-- No page is left: the walk is finished. -/
theorem works_microWalk_ends (hpage : ps[(s.core x.core).attn.pos]? = none) :
    Works (microWalk x) s .next (w.modAttn x.core fun a => { a with block := none, finished := true }) := by
  refine (eng_bind (eng_getAttn ..) _).trans ((eng_bind hw _).trans ?_)
  dsimp only
  rw [hpage]
  rfl

/-- The walker moves to the next page of its list. -/
theorem works_microWalk_moves {p : Nat} (hpage : ps[(s.core x.core).attn.pos]? = some (p, true)) (hp : p < t.pages) :
    Works (microWalk x) s .next (w.modAttn x.core fun a => { a with block := some p, pos := a.pos + 1 }) := by
  refine (eng_bind (eng_getAttn ..) _).trans ((eng_bind hw _).trans ?_)
  dsimp only
  rw [hpage]
  dsimp only
  rw [decide_eq_false (Nat.not_le.2 hp)]
  rfl

end Walk

/-! ## GATH (R251, R255) -/

theorem works_microGath_noBlock (h : (s.core x.core).attn.block = none) (n m : BitVec 4) : Works (microGath n m x) s (.stop 2) s := by
  refine works_get_stops ?_
  dsimp only
  rw [h]

theorem works_microGath {n m : BitVec 4} {page : Nat} {t : SeqTable} {u : State} {g : Gathered}
    (hblock : (s.core x.core).attn.block = some page) (hn : ((s.core x.core).slot n).state ≠ .free)
    (hm : ((s.core x.core).slot m).state ≠ .free) (htable : Works (readSeqTable x ((s.core x.core).attn.par 0).toNat) s (some t, none) u)
    (hpage : page < t.pages) (hgather : Works (gatherPage x t ((s.core x.core).attn.par 3).toNat page) u (g, none) w) :
    Works (microGath n m x) s .next
      ((((w.slotKeys x.core n t g).setSlot x.core n .claimedFilled).slotValues x.core m t g).setSlot x.core m .claimedFilled) := by
  refine (eng_bind (eng_get s) _).trans ?_
  dsimp only
  rw [hblock]
  dsimp only
  rw [slotHeld_eq_true hn, slotHeld_eq_true hm]
  refine (eng_bind htable _).trans ?_
  dsimp only
  rw [if_neg (Nat.not_le.2 hpage)]
  exact eng_bind hgather _

end Accesses

/-- Settles O29: each operation by what its accesses answer. -/
theorem microStorage : Obligations.MicroStorage := by
  unfold Obligations.MicroStorage
  rintro s w e k rfl he
  refine ⟨fun col dim f row ps hrows hf => ?norm, fun t ps hw => ⟨fun hpage => ?ends, fun p hpage hp => ?moves⟩, fun n m hblock => ?noBlock,
    fun n m page t u g hblock hn hm htable hpage hgather => ?gath⟩
  case norm =>
    intro d size hblank hcols hfit hw
    exact micro_next he (works_microNorm rfl hrows hf hblank hcols hfit hw)
  case ends => exact micro_next he (works_microWalk_ends hw hpage)
  case moves => exact micro_next he (works_microWalk_moves hw hpage hp)
  case noBlock => exact micro_stops he (works_microGath_noBlock hblock n m)
  case gath => exact micro_next he (works_microGath hblock hn hm htable hpage hgather)

end Sys2Proof.Laws
end

section
/-! SUPPORT. NOP (R376), whose word has no body, and TRAP.SW (R309), whose trap is taken in the cycle of the word: O58 and O2. -/
namespace Sys2Proof.Laws
open Sys2Proof Sys2Proof.Machine
-- In order: each thread of an elaboration in parallel reserves its stack, and the text is long.
set_option Elab.async false

/-! ## NOP -/

/-- A word is its opcode, its common fields and its body (R106). -/
theorem word_ext {v w : Word96} (hop : opcodeOf v = opcodeOf w) (hguard : guardOf v = guardOf w)
    (hbody : v.extractLsb' 0 76 = w.extractLsb' 0 76) : v = w := by
  have fields (x : Word96) : x = x.extractLsb' 88 8 ++ x.extractLsb' 84 4 ++ x.extractLsb' 83 1 ++ x.extractLsb' 76 7 ++ x.extractLsb' 0 76 := by
    ext i hi
    simp only [← BitVec.getLsbD_eq_getElem]
    grind
  simp only [guardOf, Guard.mk.injEq] at hguard
  obtain ⟨hp, hneg, hgap⟩ := hguard
  rw [opcodeOf, opcodeOf] at hop
  rw [fields v, fields w, hop, hp, hneg, hgap, hbody]

/-- A word is what its opcode and common fields encode where its body is zero. -/
theorem word_of_fields_iff (w : Word96) : word (opcodeOf w) (guardOf w) = w ↔ w.extractLsb' 0 76 = 0 := by
  have body : (word (opcodeOf w) (guardOf w)).extractLsb' 0 76 = 0 := fn_word _ _ 0 76 (le_refl _)
  constructor
  · intro h
    rw [← h, body]
  · intro h
    exact word_ext (opcode_word ..) (guard_word ..) (body.trans h.symm)

/-- A word of NOP's opcode decodes by its body alone: no other check of R122 looks at a NOP. -/
theorem decode_nop (cx : Ctx) {w : Word96} (lit : Word96) (hop : opcodeOf w = 0x00) :
    decode cx w lit = if encodeWord (.nop (guardOf w)) ≠ w then .error 0x05 else .ok (.nop (guardOf w)) := by
  unfold decode
  rw [build_00 w lit hop, hop]
  rfl

theorem decode_nop_iff (cx : Ctx) {w : Word96} (lit : Word96) (hop : opcodeOf w = 0x00) :
    decode cx w lit = .ok (.nop (guardOf w)) ↔ w.extractLsb' 0 76 = 0 := by
  rw [decode_nop cx lit hop, ← word_of_fields_iff w, hop]
  show (if word 0x00 (guardOf w) ≠ w then _ else _) = _ ↔ _
  split <;> simp_all

/-- A word that is guarded off issues with what R127 leaves of it. -/
theorem issueN_skips {n : Nat} {g : Guard} {off : Act Unit} {body : Act Ctl} {s v v' : State}
    (hrun : s.consistOf s.cur.1 = some s.curCons) (hv : v = performDue s s.curCons) (hchecks : firstFaults v = [])
    (hguard : ¬ guardOn (v.seq v.cur.1 v.cur.2) g = true) (ho : off.run v = .ok ((), v')) :
    issueN n g off body s = .next (issued n .fall v') := by
  have work : (wordAct n g off body).run v = .ok (none, movedOn n .fall v') := by
    rw [wordAct, run_bind_ok (run_getSeq v), if_neg hguard, run_bind_ok ho, run_bind_ok (run_pure ..), run_bind_ok (run_advance ..), run_pure]
  simp only [issueN, hrun, issueOn, ← hv, hchecks, work, Consist.best]
  rfl

/-- NOP issues whether its guard is on or off. -/
theorem exec_nop (g : Guard) {s v : State} (hrun : s.consistOf s.cur.1 = some s.curCons) (hv : v = performDue s s.curCons)
    (hchecks : firstFaults v = []) : exec (.nop g) s = .next (issued 1 .fall v) := by
  by_cases hguard : guardOn (v.seq v.cur.1 v.cur.2) g = true
  · exact issueFall_completes ⟨hrun, hv, hchecks, hguard⟩ (run_pure () v)
  · exact issueN_skips hrun hv hchecks hguard (run_pure () v)

/-- Settles O58: the decoder by the word's body, the issue for either guard. -/
theorem nopDoesNothing : Obligations.NopDoesNothing := by
  unfold Obligations.NopDoesNothing
  exact ⟨fun cx w lit hop => decode_nop_iff cx lit hop, by decide, by decide,
    fun g s v hrun hv hchecks => exec_nop g hrun hv hchecks⟩

/-! ## TRAP.SW -/

/-- A word that counts as issued and raises a fault in its cycle (R309). -/
theorem issue_traps {g : Guard} {off : Act Unit} {body : Act Ctl} {s v v' : State} {f : FaultRec} (h : Issuing g s v)
    (hb : body.run v = .ok (.trap f, v')) :
    issue g off body s = .next { raise (countIssued s s.curCons (movedOn 1 (.trap f) v')) s.curCons f with note := .faulted f } := by
  obtain ⟨hrun, hv, hchecks, hon⟩ := h
  have work : (wordAct 1 g off body).run v = .ok (some f, movedOn 1 (.trap f) v') := by
    rw [wordAct, run_bind_ok (run_getSeq v), if_pos hon, run_bind_ok hb, run_bind_ok (run_advance ..), run_pure]
  simp only [issue, issueN, hrun, issueOn, ← hv, hchecks, work, Consist.best]

/-- Settles O2: the trap that the word's work answers. -/
theorem softwareTrap : Obligations.SoftwareTrap := by
  unfold Obligations.SoftwareTrap
  rintro g imm s v _ h rfl
  exact issue_traps h (run_bind_ok (run_get v) _)

end Sys2Proof.Laws
end

section
/-! SUPPORT. The words that set target registers and branch through them (R336-R341, R380, R381, R385, R386): what their work comes to, and
O9, O10 and O11. -/
namespace Sys2Proof.Laws
open Sys2Proof Sys2Proof.Machine
-- In order: each thread of an elaboration in parallel reserves its stack, and the text is long.
set_option Elab.async false

/-! ## PBR (R380, R381) -/

theorem run_pbrAct (b : BitVec 3) (target : Nat) (fits : Bool) (v : State) : (pbrAct b target fits).run v =
    .ok ((), flying v 1 (.setB b ⟨true, !(fits && v.targetOk (v.seq v.cur.1 v.cur.2) target), BitVec.ofNat 25 target, v.ttc⟩)) := rfl

/-- PBR.O to a syllable address. -/
theorem run_pbrOAct_fits {v : State} {imm : BitVec 48} {a : Nat} (ha : ((v.seq v.cur.1 v.cur.2).at_.pc : Int) + imm.toInt = a)
    (hfits : a < 2 ^ 25) (b : BitVec 3) : (pbrOAct b imm).run v =
      .ok ((), flying v 1 (.setB b ⟨true, !v.targetOk (v.seq v.cur.1 v.cur.2) a, BitVec.ofNat 25 a, v.ttc⟩)) := by
  have low : (((a : Int) % 2 ^ 25)).toNat = a := by omega
  have fits : (decide (0 ≤ (a : Int)) && decide ((a : Int) < 2 ^ 25)) = true := by
    rw [decide_eq_true (Int.natCast_nonneg a), decide_eq_true (show (a : Int) < 2 ^ 25 by omega)]
    rfl
  rw [pbrOAct, run_bind_ok (run_getSeq v)]
  dsimp only
  rw [ha, low, fits, run_pbrAct, Bool.true_and]

/-- PBR.O to no syllable address sets the bad mark. -/
theorem run_pbrOAct_beyond {v : State} {imm : BitVec 48} (h : ¬ (0 ≤ ((v.seq v.cur.1 v.cur.2).at_.pc : Int) + imm.toInt ∧
    ((v.seq v.cur.1 v.cur.2).at_.pc : Int) + imm.toInt < 2 ^ 25)) (b : BitVec 3) :
    ∃ syll, (pbrOAct b imm).run v = .ok ((), flying v 1 (.setB b ⟨true, true, syll, v.ttc⟩)) := by
  have beyond : (decide (0 ≤ ((v.seq v.cur.1 v.cur.2).at_.pc : Int) + imm.toInt) &&
      decide (((v.seq v.cur.1 v.cur.2).at_.pc : Int) + imm.toInt < 2 ^ 25)) = false := by
    rw [← Bool.decide_and, decide_eq_false h]
  rw [pbrOAct, run_bind_ok (run_getSeq v)]
  dsimp only
  rw [run_pbrAct, beyond]
  exact ⟨_, rfl⟩

theorem run_pbrRAct {v w : State} {a : BitVec 6} {x : Word64} (hr : ReadsS v a x w) (b : BitVec 3) : (pbrRAct b a).run v =
    .ok ((), flying w 1 (.setB b ⟨true, !(x.extractLsb' 25 39 == 0 && w.targetOk (w.seq w.cur.1 w.cur.2) (x.toNat % 2 ^ 25)),
      x.setWidth 25, w.ttc⟩)) := by
  rw [pbrRAct, run_bind_ok hr, run_pbrAct, BitVec.ofNat_toNat, BitVec.setWidth_eq, BitVec.toNat_setWidth]

/-- Settles O9: each form by its target. -/
theorem branchTargets : Obligations.BranchTargets := by
  unfold Obligations.BranchTargets
  intro g b s v h
  refine ⟨fun imm a ha hfits => ?fits, fun imm hbeyond => ?beyond, fun a x w hr => ?register⟩
  case fits => exact issueFall_completes h (run_pbrOAct_fits ha hfits b)
  case beyond =>
    obtain ⟨syll, hrun⟩ := run_pbrOAct_beyond hbeyond b
    exact ⟨syll, issueFall_completes h hrun⟩
  case register => exact issueFall_completes h (run_pbrRAct hr b)

/-! ## BR, BRQ and BRMZ (R336-R339) -/

@[simp] theorem run_outcome (taken : Bool) (v : State) : (outcome taken).run v = .ok ((), traceBranch v v.cur.1 taken v.ttc) := rfl

section ThroughRegister
variable {v : State} {b : BitVec 3} {r : BReg} (hr : r = (v.seq v.cur.1 v.cur.2).breg b) (hready : r.ready v.ttc = true)
include hr hready

theorem run_brAct (hok : v.branchOk (v.seq v.cur.1 v.cur.2) r = true) :
    (brAct b).run v = .ok (.goto r.syll.toNat, traceBranch v v.cur.1 true v.ttc) := by
  rw [brAct, run_bind_ok (run_branchReg hr hready), run_takeBranch hok]

section Popped
variable {u : State} {x : Word64} {want : Bool} (hpop : (popQ (match u.cur.2 with | .as => 4 | .xs => 5)).run u = .ok (some x, v))
include hpop

/-- BRQ once the bit is popped and its register found ready. -/
theorem run_brqAct : (brqAct b want).run u = (if x.getLsbD 0 = want then takeBranch r else do
    outcome false
    pure .fall : Act Ctl).run v :=
  (run_bind_ok (run_get u) _).trans ((run_bind_ok (run_popOn hpop) _).trans (run_bind_ok (run_branchReg hr hready) _))

theorem run_brqAct_taken (hbit : x.getLsbD 0 = want) (hok : v.branchOk (v.seq v.cur.1 v.cur.2) r = true) :
    (brqAct b want).run u = .ok (.goto r.syll.toNat, traceBranch v v.cur.1 true v.ttc) := by
  rw [run_brqAct hr hready hpop, if_pos hbit, run_takeBranch hok]

theorem run_brqAct_falls (hbit : x.getLsbD 0 ≠ want) : (brqAct b want).run u = .ok (.fall, traceBranch v v.cur.1 false v.ttc) := by
  rw [run_brqAct hr hready hpop, if_neg hbit, run_bind_ok (run_outcome ..), run_pure]

end Popped

end ThroughRegister

/-- BRQ.T and BRQ.F take the branch on the bit they name. -/
theorem exec_brq (g : Guard) (b : BitVec 3) (want : Bool) (s : State) :
    exec (if want then .brqT g b else .brqF g b) s = issue g brqOff (brqAct b want) s := by
  cases want <;> rfl

section MaskZero
variable {v : State} {n : Nat}

/-- BRMZ skips n words where the mask is zero, into no loop's end. -/
theorem run_brmzAct_taken (hmask : (v.core v.cur.1).top = 0)
    (hloops : ∀ l ∈ (v.seq v.cur.1 v.cur.2).at_.loops, ¬ ((v.seq v.cur.1 v.cur.2).at_.pc + 3 < l.last ∧
      l.last ≤ (v.seq v.cur.1 v.cur.2).at_.pc + 3 + 3 * n)) :
    (brmzAct n).run v = .ok (.skip n, traceBranch v v.cur.1 true v.ttc) := by
  have clear : (!(v.seq v.cur.1 v.cur.2).at_.loops.any fun l => decide ((v.seq v.cur.1 v.cur.2).at_.after 1 < l.last) &&
      decide (l.last ≤ (v.seq v.cur.1 v.cur.2).at_.after 1 + 3 * n)) = true := by
    rw [Bool.not_eq_true', List.any_eq_false]
    intro l hl hin
    exact hloops l hl (by simpa [Place.after] using hin)
  rw [brmzAct, run_bind_ok (run_getCore v), if_pos hmask, run_bind_ok (run_getSeq v)]
  exact (run_bind_ok (run_need clear ..) _).trans (run_bind_ok (run_outcome true v) _)

theorem run_brmzAct_falls (hmask : (v.core v.cur.1).top ≠ 0) :
    (brmzAct n).run v = .ok (.fall, traceBranch v v.cur.1 false v.ttc) := by
  rw [brmzAct, run_bind_ok (run_getCore v), if_neg hmask, run_bind_ok (run_outcome ..), run_pure]

end MaskZero

/-- Settles O10: each word by whether it is taken. -/
theorem branches : Obligations.Branches := by
  unfold Obligations.Branches
  intro g s v h
  refine ⟨fun b r hr hready hok => ?br, fun b want r x w hpop hr hready => ⟨fun hbit hok => ?brqTaken, fun hbit => ?brqFalls⟩,
    fun imm => ⟨fun hmask hloops => ?brmzTaken, fun hmask => ?brmzFalls⟩⟩
  case br => exact issue_completes h (run_brAct hr hready hok) nofun
  case brqTaken => exact (exec_brq g b want s).trans (issue_completes h (run_brqAct_taken hr hready hpop hbit hok) nofun)
  case brqFalls => exact (exec_brq g b want s).trans (issue_completes h (run_brqAct_falls hr hready hpop hbit) nofun)
  case brmzTaken => exact issue_completes h (run_brmzAct_taken hmask hloops) nofun
  case brmzFalls => exact issue_completes h (run_brmzAct_falls hmask) nofun

/-! ## CALL and RET (R341, R385, R386) -/

/-- The state once CALL has written its return record at `a` and noted it as one. -/
def called (v : State) (q : Seq) (a : Word64) : State :=
  let w := flying (flying v 1 (.setS 63 a)) (v.dC v.cur.1 + 4) (.store (privateCap ((v.core v.cur.1).part.getD 0))
    [⟨a.toNat, privAt v.cur.1 a.toNat, toBytes 8 (returnWord q.at_.secNum (q.at_.pc + 3)).toNat ++ toBytes 8 0⟩])
  w.setSeq w.cur.1 w.cur.2 { w.seq w.cur.1 w.cur.2 with retRecs := (a.toNat :: q.retRecs.filter (· != a.toNat)).take 16 }

/-- Of its sequencer CALL's record changes the list of records alone. -/
theorem seq_called (v : State) (q : Seq) (a : Word64) : (called v q a).seq (called v q a).cur.1 (called v q a).cur.2 =
    { v.seq v.cur.1 v.cur.2 with retRecs := (a.toNat :: q.retRecs.filter (· != a.toNat)).take 16 } := seq_setSeq ..

theorem branchOk_called {v : State} {q : Seq} (hq : q = v.seq v.cur.1 v.cur.2) (a : Word64) (r : BReg) :
    (called v q a).branchOk ((called v q a).seq (called v q a).cur.1 (called v q a).cur.2) r = v.branchOk q r := by
  rw [seq_called, hq]
  exact branchOk_congr r rfl rfl rfl

/-- The fields of a return record's first doubleword (R341). -/
theorem returnWord_fields (sec : BitVec 14) {a : Nat} (ha : a < 2 ^ 25) :
    ((returnWord sec a).extractLsb' 0 25).toNat = a ∧ (returnWord sec a).extractLsb' 25 7 = 0 ∧
      (returnWord sec a).extractLsb' 32 14 = sec ∧ (returnWord sec a).extractLsb' 46 18 = 0 := by
  unfold returnWord
  refine ⟨?syll, ?gap, ?number, ?high⟩
  case syll => rw [toNat_lowest, Nat.mod_eq_of_lt ha]
  case gap =>
    rw [BitVec.extractLsb'_append_eq_of_le (by decide)]
    exact BitVec.extractLsb'_append_eq_right
  case number =>
    repeat rw [BitVec.extractLsb'_append_eq_of_le (by decide)]
    exact BitVec.extractLsb'_append_eq_right
  case high =>
    repeat rw [BitVec.extractLsb'_append_eq_of_le (by decide)]
    exact BitVec.extractLsb'_eq_self

/-- The halves of a return record's bytes. -/
theorem returnRecord_halves (x : Word64) : BitVec.ofNat 64 (leNat ((toBytes 8 x.toNat ++ toBytes 8 0).take 8)) = x ∧
    leNat ((toBytes 8 x.toNat ++ toBytes 8 0).drop 8) = 0 := by
  have len : (toBytes 8 x.toNat).length = 8 := length_toBytes ..
  rw [List.take_left' len, List.drop_left' len, leNat_toBytes_word x (by decide), BitVec.ofNat_toNat, BitVec.setWidth_eq]
  exact ⟨rfl, rfl⟩

section Stack
variable {v : State} {q : Seq} {sp : Word64} (hq : q = v.seq v.cur.1 v.cur.2) (hsp : sp = Tbl.get 0 q.s 63) (ha : sp.toNat % 16 = 0)
  (ho : q.stlimit.toNat ≤ q.stbase.toNat)
include hq hsp ha ho

/-- CALL writes the record below sp and branches. -/
theorem run_callAct {b : BitVec 3} {r : BReg} (hr : r = q.breg b) (hready : r.ready v.ttc = true) (hok : v.branchOk q r = true)
    (hroom : q.stlimit.toNat + 16 ≤ sp.toNat) (hp : PrivateOk (sp - 16) 16) :
    let u := called v q (sp - 16)
    (callAct b).run v = .ok (.goto r.syll.toNat, traceBranch u u.cur.1 true u.ttc) := by
  have good : (!(r.ready v.ttc && !v.branchOk q r)) = true := by
    rw [hok, Bool.not_true, Bool.and_false, Bool.not_false]
  have stack := Bool.and_eq_true_iff.2 ⟨stackOk_of ha ho, decide_eq_true hroom⟩
  rw [callAct, run_bind_ok (run_getSeq v), run_bind_ok (run_get v)]
  dsimp only
  rw [← hq, ← hr, ← hsp, run_bind_ok (run_need good ..), run_bind_ok (run_need stack ..), run_bind_ok (run_checkPrivate hp),
    run_bind_ok (run_branchReg (hq ▸ hr) hready), run_bind_ok (run_result ..), run_bind_ok (run_storePrivate ..),
    run_bind_ok (run_modSeq ..)]
  subst hq
  exact run_takeBranch ((branchOk_called rfl (sp - 16) r).trans hok)

/-- RET by a copy of its record goes where the record says. -/
theorem run_retAct {hdr a : Nat} {isHdr : Bool} {sec : BitVec 14} (hroom : sp.toNat + 16 ≤ q.stbase.toNat) (hp : PrivateOk sp 16)
    (hcopy : sp.toNat ∈ q.retRecs) (hsyll : a < 2 ^ 25)
    (hrec : returnRecord v v.cur.1 v.cur.2 sp.toNat = toBytes 8 (returnWord sec a).toNat ++ toBytes 8 0)
    (hfind : findSection v q a (q.streamHi - q.streamLo) q.streamLo = some (hdr, isHdr))
    (hsec : isHdr = true ∨ hdrNum (v.mem.header hdr) = sec) :
    retAct.run v = .ok (if isHdr then .goto hdr else .back hdr a, flying v 1 (.setS 63 (sp + 16))) := by
  have stack := Bool.and_eq_true_iff.2 ⟨stackOk_of ha ho, decide_eq_true hroom⟩
  have copy : q.retRecs.contains sp.toNat = true := List.contains_iff_mem.2 hcopy
  obtain ⟨hword, hhigh⟩ := returnRecord_halves (returnWord sec a)
  obtain ⟨fsyll, fgap, fsec, ftop⟩ := returnWord_fields sec hsyll
  have intact : ((returnWord sec a).extractLsb' 46 18 == 0 && (returnWord sec a).extractLsb' 25 7 == 0 &&
      leNat ((toBytes 8 (returnWord sec a).toNat ++ toBytes 8 0).drop 8) == 0) = true := by
    rw [ftop, fgap, hhigh]
    rfl
  have agrees : (isHdr || hdrNum (v.mem.header hdr) == sec) = true := by
    rw [Bool.or_eq_true, beq_iff_eq]
    exact hsec
  rw [retAct, run_bind_ok (run_getSeq v)]
  dsimp only
  rw [← hq, ← hsp, run_bind_ok (run_need stack ..), run_bind_ok (run_checkPrivate hp), run_bind_ok (run_get v), copy, Bool.true_or,
    if_pos rfl, hrec, hword, intact, if_pos rfl, fsyll, fsec, hfind]
  dsimp only
  rw [run_bind_ok (run_need agrees ..), run_bind_ok (run_result ..), run_pure]

end Stack

/-- Settles O11: each word by its work. -/
theorem callAndReturn : Obligations.CallAndReturn := by
  unfold Obligations.CallAndReturn
  intro g s v q sp h hq hsp ha ho
  refine ⟨fun b r hr hready hok hroom hp => ?call, fun hdr a isHdr sec hroom hp hcopy hsyll hrec hfind hsec => ?ret⟩
  case call => exact issue_completes h (run_callAct hq hsp ha ho hr hready hok hroom hp) nofun
  case ret =>
    refine issue_completes h (run_retAct hq hsp ha ho hroom hp hcopy hsyll hrec hfind hsec) fun f => ?_
    cases isHdr <;> nofun

end Sys2Proof.Laws
end

section
/-! SUPPORT. LOOP and REPEAT by their counts (R366-R369), and O12. -/
namespace Sys2Proof.Laws
open Sys2Proof Sys2Proof.Machine
-- In order: each thread of an elaboration in parallel reserves its stack, and the text is long.
set_option Elab.async false

/-! ## LOOP (R367) -/

/-- A loop over the next n words that the issuing sequencer may start, `count` times by a counter (R367). -/
def LoopFits (w : State) (counter n count : Nat) : Prop :=
  count ≤ 65536 ∧ ∀ l ∈ (w.seq w.cur.1 w.cur.2).at_.loops, l.counter ≠ counter ∧
    ¬ (l.first ≤ (w.seq w.cur.1 w.cur.2).at_.pc ∧ (w.seq w.cur.1 w.cur.2).at_.pc < l.last ∧
      l.last < (w.seq w.cur.1 w.cur.2).at_.pc + 3 + 3 * n)

/-- The state with the loop over the next n words active, innermost. -/
def looping (w : State) (counter n : Nat) (level : Option Nat) : State :=
  w.setSeq w.cur.1 w.cur.2 { w.seq w.cur.1 w.cur.2 with at_ := { (w.seq w.cur.1 w.cur.2).at_ with loops :=
    ⟨counter, level, (w.seq w.cur.1 w.cur.2).at_.pc + 3, (w.seq w.cur.1 w.cur.2).at_.pc + 3 + 3 * n⟩ :: (w.seq w.cur.1 w.cur.2).at_.loops } }

/-- The state once a loop's counter, and for LOOP.L its level's index, are in flight. -/
def counting (w : State) (counter count : Nat) (level : Option (Nat × Nat)) : State :=
  let u := flying w 1 (.setLc counter (BitVec.ofNat 16 (count - 1)))
  match level with
  | some (k, start) => flying u 1 (.setLvl k (BitVec.ofNat 32 start))
  | none => u

section Loop
variable {w : State} {counter n count : Nat} (h : LoopFits w counter n count)
include h

/-- The check of LOOP passes. -/
theorem loopCheck_of_fits : (decide (count ≤ 65536) && !((w.seq w.cur.1 w.cur.2).at_.loops.any fun l => l.counter == counter) &&
    !((w.seq w.cur.1 w.cur.2).at_.loops.any fun l => decide (l.first ≤ (w.seq w.cur.1 w.cur.2).at_.pc) &&
      decide ((w.seq w.cur.1 w.cur.2).at_.pc < l.last) && decide (l.last < (w.seq w.cur.1 w.cur.2).at_.after 1 + 3 * n))) = true := by
  obtain ⟨hcount, hloops⟩ := h
  simp only [Bool.and_eq_true, Bool.not_eq_true', List.any_eq_false, decide_eq_true_eq, beq_iff_eq]
  exact ⟨⟨hcount, fun l hl => (hloops l hl).1⟩, fun l hl hin => (hloops l hl).2 ⟨hin.1.1, hin.1.2, hin.2⟩⟩

/-- No iteration: the body is skipped. -/
theorem run_loopAct_zero (hzero : count = 0) (level : Option (Nat × Nat)) (info : Word64) :
    (loopAct counter n count level info).run w = .ok (.skip n, w) := by
  rw [loopAct, run_bind_ok (run_getSeq w)]
  dsimp only
  rw [run_bind_ok (run_need (loopCheck_of_fits h) ..), if_pos hzero, run_pure]

/-- With iterations the loop starts. -/
theorem run_loopAct_starts (hsome : count ≠ 0) (level : Option (Nat × Nat)) (info : Word64) :
    (loopAct counter n count level info).run w = .ok (.fall, looping (counting w counter count level) counter n (level.map Prod.fst)) := by
  rw [loopAct, run_bind_ok (run_getSeq w)]
  dsimp only
  rw [run_bind_ok (run_need (loopCheck_of_fits h) ..), if_neg hsome, run_bind_ok (run_result ..)]
  rcases level with _ | ⟨k, start⟩
  · exact run_bind_ok (run_modSeq ..) _
  · exact (run_bind_ok (run_result ..) _).trans (run_bind_ok (run_modSeq ..) _)

end Loop

theorem run_loopLAct {v : State} {a : BitVec 6} {k n count start : Nat} (hno : NoHandler v) (hk : k = a.toNat % 4)
    (hlevel : loopLevel v v.cur.1 k = some (count, start)) :
    (loopLAct (a.setWidth 2).toNat n).run v = (loopAct k n count (some (k, start)) (BitVec.ofNat 64 k)).run v := by
  rw [BitVec.toNat_setWidth, ← hk, loopLAct, run_bind_ok (run_notInHandler hno), run_bind_ok (run_get v), hlevel]

theorem run_loopSAct {v w : State} {t : BitVec 3} {a : BitVec 6} {k : Nat} {x : Word64} (hno : NoHandler v) (hk : k = t.toNat % 4)
    (hr : ReadsS v a x w) (n : Nat) : (loopSAct (t.setWidth 2).toNat a n).run v = (loopAct k n x.toNat none x).run w := by
  rw [BitVec.toNat_setWidth, ← hk, loopSAct, run_bind_ok (run_notInHandler hno), run_bind_ok hr]

/-! ## REPEAT (R369) -/

/-- Words that a REPEAT of count zero skips: the next one, with its literal. -/
def repeatedWords (w : State) : Nat := if opHasLit (opcodeOf (w.mem.iword ((w.seq w.cur.1 w.cur.2).at_.pc + 3))) then 2 else 1

theorem run_repeatAct {w : State} {m : Nat} (hno : NoHandler w) (hm : m ≤ 65536) :
    (repeatAct m).run w = .ok (if m = 0 then .skip (repeatedWords w) else .times m, w) := by
  rw [repeatAct, run_bind_ok (run_notInHandler hno), run_bind_ok (run_need (decide_eq_true hm) ..), run_bind_ok (run_get w),
    run_bind_ok (run_getSeq w)]
  split <;> rfl

theorem run_repeatSAct {v w : State} {a : BitVec 6} {x : Word64} (hr : ReadsS v a x w) :
    (repeatSAct a).run v = (repeatAct x.toNat).run w := by
  rw [repeatSAct, run_bind_ok hr]

/-- A REPEAT issues, by its count. -/
theorem issue_repeats {g : Guard} {off : Act Unit} {body : Act Ctl} {s v w : State} {m : Nat} (hi : Issuing g s v) (hno : NoHandler w)
    (hm : m ≤ 65536) (hb : body.run v = (repeatAct m).run w) :
    issue g off body s = .next (issued 1 (if m = 0 then .skip (repeatedWords w) else .times m) w) := by
  refine issue_completes hi (hb.trans (run_repeatAct hno hm)) fun f => ?_
  split <;> nofun

/-- Settles O12: LOOP by its count and its level, REPEAT by its count. -/
theorem loopsAndRepeats : Obligations.LoopsAndRepeats := by
  unfold Obligations.LoopsAndRepeats
  intro g s v h hno
  refine ⟨fun a imm k count start hk hlevel hfits => ?loopL, fun t a imm k x w hk hr hfits => ?loopS, fun w m i hm hi => ?repeat_⟩
  case loopL =>
    split
    next hzero => exact issue_completes h ((run_loopLAct hno hk hlevel).trans (run_loopAct_zero hfits hzero ..)) nofun
    next hsome => exact issue_completes h ((run_loopLAct hno hk hlevel).trans (run_loopAct_starts hfits hsome ..)) nofun
  case loopS =>
    split
    next hzero => exact issue_completes h ((run_loopSAct hno hk hr _).trans (run_loopAct_zero hfits (BitVec.toNat_inj.2 hzero) ..)) nofun
    next hsome =>
      exact issue_completes h ((run_loopSAct hno hk hr _).trans (run_loopAct_starts hfits (mt (BitVec.toNat_inj (y := 0)).1 hsome) ..)) nofun
  case repeat_ =>
    obtain ⟨imm, rfl, rfl, rfl⟩ | ⟨a, x, rfl, hr, rfl, hno'⟩ := hi
    · exact issue_repeats h hno hm rfl
    · exact issue_repeats h hno' hm (run_repeatSAct hr)

end Sys2Proof.Laws
end

section
/-! SUPPORT. Loads and stores through a handle (R361, R83, R433): what the words' checks and their work come to, and O6. -/
namespace Sys2Proof.Laws
open Sys2Proof Sys2Proof.Machine Sys2Proof.Claims
-- In order: each thread of an elaboration in parallel reserves its stack, and the text is long.
set_option Elab.async false

/-- The checks of an access of 8 bytes pass (R361, R433). -/
theorem run_checkAccess8 {v : State} {c : Cap} {kinds : List (BitVec 4)} {perm : Nat} {spaces : List Nat} {a : Word64}
    (h : Access8Ok v c kinds perm spaces a)
    (hspaces : spaces = if perm = pW then (if c.kind == kPointer then [2] else [0, 1]) else [0, 1, 2]) :
    (checkAccess8 c kinds perm a).run v = .ok ((), v) := by
  subst hspaces
  obtain ⟨hcap, hperm, hspace, ⟨halign, hlo, hhi⟩, hprivate, hformat⟩ := h
  have extent : (decide (a.toNat % 8 = 0) && decide ((v.baseBounds c).1 ≤ a.toNat) && decide (a.toNat + 8 ≤ (v.baseBounds c).2)) = true := by
    rw [decide_eq_true halign, decide_eq_true hlo, decide_eq_true hhi]
    rfl
  have inPrivate : (c.space != 2 || decide (a.toNat + 8 ≤ 0x100000)) = true := by
    rw [Bool.or_eq_true, bne_iff_ne, decide_eq_true_iff]
    exact Decidable.not_or_of_imp hprivate
  have width : (c.kind != kTile || fmtBytes (v.tileEntry c.key).fmt == some 4) = true := by
    rw [Bool.or_eq_true, bne_iff_ne, beq_iff_eq]
    exact Decidable.not_or_of_imp hformat
  rw [checkAccess8, run_bind_ok (run_checkKind hcap), run_bind_ok (run_checkPerm hperm v), run_bind_ok (run_checkSpace hspace v),
    run_bind_ok (run_get v)]
  dsimp only
  rw [run_bind_ok (run_need extent ..), run_bind_ok (run_need inPrivate ..), run_need width]

/-- The place in memory of an access beside HBM: the core's own tile store, or its own memory. -/
def PlaceBeside (v : State) (c : Cap) (a : Word64) (p : Nat) : Prop :=
  c.space = 1 ∧ tileRange a.toNat 8 = some (v.cur.1, p) ∨ c.space ≠ 1 ∧ p = privAt v.cur.1 a.toNat

theorem run_placeBeside {v : State} {c : Cap} {a : Word64} {p : Nat} (h : PlaceBeside v c a p) {β : Type} (f : Nat → Act β) :
    (do
      let at_ ← if c.space = 1 then fixedTile a.toNat 8 else pure (privAt v.cur.1 a.toNat)
      f at_ : Act β).run v = (f p).run v := by
  obtain ⟨hspace, hrange⟩ | ⟨hspace, rfl⟩ := h
  · rw [if_pos hspace, run_bind_ok (run_fixedTile hrange)]
  · rw [if_neg hspace, run_bind_ok (run_pure ..)]

section Load
variable {v v1 w : State} {d : BitVec 6} {r : BitVec 5} {imm : BitVec 48} {c : Cap} {e : Effect} (hr : ReadsH v r c v1)
  (hok : Access8Ok v1 c [kTile, kBlank, kPointer] pR [0, 1, 2] (offsetAddr c.addr imm))
include hr hok

/-- LD.H from HBM: the bytes come by translation. -/
theorem run_ldHAct_hbm (hspace : c.space = 0) (ht : TakesS v1 d 0 e w) :
    (ldHAct d r imm).run v = .ok ((), droppingPopped
      (readingHbm w (2 * v1.dC v1.cur.1 + 96) (.read8 (offsetAddr c.addr imm).toNat) e) r c (2 * v1.dC v1.cur.1 + 96)) := by
  rw [ldHAct, run_bind_ok hr]
  dsimp only
  rw [run_bind_ok (run_checkAccess8 hok rfl), run_bind_ok (run_getD v1), if_pos hspace, run_bind_ok ht, run_bind_ok (run_readHbm ..),
    run_dropPopped]

/-- LD.H from the core's own tile store or from its own memory. -/
theorem run_ldHAct_beside {p : Nat} (hspace : c.space ≠ 0) (hp : PlaceBeside v1 c (offsetAddr c.addr imm) p)
    (ht : TakesS v1 d (v1.mem.read64 p) e w) :
    (ldHAct d r imm).run v = .ok ((), droppingPopped
      (flyingOr w (2 * v1.dC v1.cur.1 + 4) e (poisonOf v1 p 8 (offsetAddr c.addr imm).toNat)) r c (2 * v1.dC v1.cur.1 + 4)) := by
  rw [ldHAct, run_bind_ok hr]
  dsimp only
  rw [run_bind_ok (run_checkAccess8 hok rfl), run_bind_ok (run_getD v1), if_neg hspace, run_bind_ok (run_get v1), run_placeBeside hp,
    run_bind_ok ht, run_bind_ok (run_resultOr ..), run_dropPopped]

end Load

section Store
variable {v v1 w : State} {d : BitVec 6} {r : BitVec 5} {imm : BitVec 48} {c : Cap} {x : Word64} (hr : ReadsH v r c v1)
  (hx : ReadsS v1 d x w)
  (hok : Access8Ok w c [kBlank, kPointer] pW (if c.kind = kPointer then [2] else [0, 1]) (offsetAddr c.addr imm))
  (hfree : c.counted = true → (w.core w.cur.1).borrowed c.key = false)
include hr hx hok hfree

/-- ST.H once its checks have passed. -/
theorem run_stHAct : (stHAct d r imm).run v = (do
    let dd ← getD
    let off := (offsetAddr c.addr imm - c.addr).toNat
    if c.space = 0 then do
      writeHbm 96 c [⟨off, (offsetAddr c.addr imm).toNat, toBytes 8 x.toNat⟩]
      dropPopped r c 96
    else do
      let s ← get
      let at_ ← if c.space = 1 then fixedTile (offsetAddr c.addr imm).toNat 8 else pure (privAt s.cur.1 (offsetAddr c.addr imm).toNat)
      result (dd + 4) (.store c [⟨off, at_, toBytes 8 x.toNat⟩])
      dropPopped r c (dd + 4) : Act Unit).run w := by
  have spaces : (if c.kind = kPointer then [2] else [0, 1]) =
      if pW = pW then (if c.kind == kPointer then [2] else [0, 1]) else [0, 1, 2] := by
    simp only [if_true, beq_iff_eq]
  rw [stHAct, run_bind_ok hr, run_bind_ok hx]
  dsimp only
  rw [run_bind_ok (run_checkAccess8 hok spaces), run_bind_ok (run_noBorrow hfree)]

theorem run_stHAct_hbm (hspace : c.space = 0) : (stHAct d r imm).run v = .ok ((), droppingPopped
    (writingHbm w 96 c [⟨(offsetAddr c.addr imm - c.addr).toNat, (offsetAddr c.addr imm).toNat, toBytes 8 x.toNat⟩]) r c 96) := by
  rw [run_stHAct hr hx hok hfree, run_bind_ok (run_getD w)]
  dsimp only
  rw [if_pos hspace, run_bind_ok (run_writeHbm ..), run_dropPopped]

theorem run_stHAct_beside {p : Nat} (hspace : c.space ≠ 0) (hp : PlaceBeside w c (offsetAddr c.addr imm) p) :
    (stHAct d r imm).run v = .ok ((), droppingPopped
      (flying w (w.dC w.cur.1 + 4) (.store c [⟨(offsetAddr c.addr imm - c.addr).toNat, p, toBytes 8 x.toNat⟩])) r c
      (w.dC w.cur.1 + 4)) := by
  rw [run_stHAct hr hx hok hfree, run_bind_ok (run_getD w)]
  dsimp only
  rw [if_neg hspace, run_bind_ok (run_get w), run_placeBeside hp, run_bind_ok (run_result ..), run_dropPopped]

end Store

/-- Settles O6: each word by where its bytes are. -/
theorem handleLoadStore : Obligations.HandleLoadStore := by
  unfold Obligations.HandleLoadStore
  rintro g d a imm s v v1 c _ h hr rfl
  refine ⟨fun hok => ⟨fun e w hspace ht => ?ldHbm, fun e w p hspace hp ht => ?ldBeside⟩,
    fun x w hx hok hfree => ⟨fun hspace => ?stHbm, fun p hspace hp => ?stBeside⟩⟩
  case ldHbm => exact issueFall_completes h (run_ldHAct_hbm hr hok hspace ht)
  case ldBeside => exact issueFall_completes h (run_ldHAct_beside hr hok hspace hp ht)
  case stHbm => exact issueFall_completes h (run_stHAct_hbm hr hx hok hfree hspace)
  case stBeside => exact issueFall_completes h (run_stHAct_beside hr hx hok hfree hspace hp)

end Sys2Proof.Laws
end

section
/-! SUPPORT. The words of the link (R287-R299, R303, R359): what their checks and their work come to, and O30, O31 and O32. -/
namespace Sys2Proof.Laws
open Sys2Proof Sys2Proof.Machine
-- In order: each thread of an elaboration in parallel reserves its stack, and the text is long.
set_option Elab.async false

/-! ## The path and the flits of a message (R289, R290, R295) -/

theorem run_checkBerth {v : State} {port slot berth : Nat} (h : BerthOk v port slot berth) :
    (checkBerth port slot berth).run v = .ok ((), v) := by
  obtain ⟨hvalid, huse, hpart, hcore⟩ := h
  rw [checkBerth, run_bind_ok (run_get v)]
  dsimp only
  rw [hvalid, huse, hpart, run_bind_ok (run_need (by simp) ..), run_need (decide_eq_true hcore)]

/-- Checks that all pass, in a row. -/
theorem run_mapM_checks {f : Nat → Act Unit} {v : State} : ∀ {l : List Nat}, (∀ i ∈ l, (f i).run v = .ok ((), v)) →
    ∃ us, (l.mapM f).run v = .ok (us, v)
  | [], _ => ⟨[], rfl⟩
  | i :: l, h => by
    obtain ⟨us, hus⟩ := run_mapM_checks fun j hj => h j (List.mem_cons_of_mem i hj)
    refine ⟨() :: us, ?_⟩
    rw [List.mapM_cons, run_bind_ok (h i List.mem_cons_self), run_bind_ok hus, run_pure]

theorem run_lsendPath {v : State} {d : Dep} {port r : Nat} (h : PathOk v d port r) : (lsendPath d).run v = .ok ((port, r), v) := by
  obtain ⟨hcalling, rfl, hpeer, hrelay, hslot, hport, hberth⟩ := h
  rw [lsendPath, run_bind_ok (run_get v), hcalling, if_neg Bool.false_ne_true]
  rcases hcal : v.tt.calFor (expandRot v.tt.rot d.rot) with ⟨cal, count⟩
  rw [hcal] at hslot hport
  have passes : (decide (d.peer ≠ v.tt.pkg) && decide (d.relay ≠ v.tt.pkg) && decide (d.slot < count)) = true := by
    rw [decide_eq_true hpeer, decide_eq_true hrelay, decide_eq_true hslot]
    rfl
  dsimp only at hport ⊢
  rw [hcal]
  dsimp only
  rw [run_bind_ok (run_need passes ..), hport]
  dsimp only
  rw [run_bind_ok (run_checkBerth hberth), run_pure]

/-- A message whose flits fit takes them and the allowances; its first flit is behind those of earlier messages in its berth. -/
theorem run_lsendFlits {v w : State} {d : Dep} {port r f : Nat} (h : FlitsOk v d port r f w) (n : Nat) :
    (lsendFlits d port r f n).run v = .ok (flitAt v d port r, w) := by
  obtain ⟨hend, hberths, hsize, hrelayed, hfree, harrival, hrelay, rfl⟩ := h
  obtain ⟨us, hus⟩ := run_mapM_checks (l := List.range (min ((f + 45) / 46) (64 - d.berth)))
    fun i hi => run_checkBerth (hberths i ((List.mem_range.1 hi).trans_le (min_le_left ..)))
  have fits : (decide (f ≤ 1984) && !(d.relay != d.peer && decide (1024 < f))) = true := by
    rw [decide_eq_true hsize, Bool.true_and, Bool.not_eq_true', Bool.and_eq_false_iff, bne_eq_false_iff_eq, decide_eq_false_iff_not, not_lt]
    exact Decidable.or_iff_not_imp_left.2 hrelayed
  have allowed : ¬ ((v.peer d.peer).arrival < f ∨ ((d.relay != d.peer) = true ∧ (v.peer d.relay).relay < f)) := by
    rw [bne_iff_ne]
    rintro (hlow | ⟨hne, hlow⟩)
    · omega
    · exact (hrelay hne).not_gt hlow
  rw [lsendFlits, run_bind_ok hus, run_bind_ok (run_need (decide_eq_true hend) ..)]
  dsimp only
  rw [run_bind_ok (run_need fits ..), run_bind_ok (run_get v), run_bind_ok (run_need (decide_eq_true hfree) ..), if_neg allowed,
    run_bind_ok (run_modify ..), run_pure]
  by_cases hdirect : d.relay = d.peer <;> simp [hdirect, flitAt]

theorem run_lsendEnter {v : State} (h : RoomIn v qLink) (d : Dep) (port r f off : Nat) (route : Word64) (p : Payload)
    (src : Option (Cap × Nat)) (borrows popped : List Cap) :
    (lsendEnter d port r f off route p src borrows popped).run v = .ok ((), sending v d port r f off route p src borrows popped) := by
  rw [lsendEnter, run_bind_ok (run_get v)]
  exact run_bind_ok (run_enter h ..) _

/-! ## LSEND of a message (R287, R295) -/

section Send
variable {v u w : State} {c : BitVec 6} {d : Dep} {port r : Nat} {route : Word64} (hgood : routeOk route = true)
  (hpath : PathOk u d port r)
include hgood hpath

theorem run_lsendVAct {v1 : State} {b : BitVec 6} {x : Word64} (hb : ReadsS v b x v1) (hc : ReadsS v1 c route u)
    (hflits : FlitsOk u d port r 1 w) (hroom : RoomIn w qLink) :
    (lsendVAct b c d).run v = .ok ((), sending w d port r 1 (flitAt u d port r) route (.value x) none [] []) := by
  rw [lsendVAct, run_bind_ok hb, run_bind_ok hc, run_bind_ok (run_need hgood ..), run_bind_ok (run_lsendPath hpath)]
  dsimp only
  rw [run_bind_ok (run_lsendFlits hflits 0), run_lsendEnter hroom]

/-- LSEND.H: a counted handle leaves its register null. -/
theorem run_lsendHAct {v1 : State} {h : BitVec 5} {k : Cap} (hh : ReadsH v h k v1) (hc : ReadsS v1 c route u)
    (hk : CapOk u k [kPointer, kTile, kBlank]) (hg : k.has pG = true)
    (hcounted : k.counted = true → k.has pD = true ∧ k.space.toNat ∈ [0, 6]) (hflits : FlitsOk u d port r 1 w)
    (hroom : RoomIn (if k.counted then nulling w h else w) qLink) :
    (lsendHAct h c d).run v = .ok ((), sending (if k.counted then nulling w h else w) d port r 1 (flitAt u d port r) route (.handle k)
      none [] []) := by
  rw [lsendHAct, run_bind_ok hh, run_bind_ok hc, run_bind_ok (run_need hgood ..), run_bind_ok (run_lsendPath hpath)]
  dsimp only
  rw [run_bind_ok (run_checkKind hk), run_bind_ok (run_checkPerm hg u)]
  by_cases hyes : k.counted = true
  · obtain ⟨hd, hspace⟩ := hcounted hyes
    simp only [hyes, if_true] at hroom ⊢
    rw [run_bind_ok (run_checkPerm hd u), run_bind_ok (run_checkSpace hspace u), run_bind_ok (run_lsendFlits hflits 0),
      run_bind_ok (run_nullH1 h w), run_lsendEnter hroom]
  · simp only [hyes, Bool.false_eq_true, if_false] at hroom ⊢
    rw [run_bind_ok (run_lsendFlits hflits 0), run_lsendEnter hroom]

theorem run_lsendDAct {v1 v2 : State} {h : BitVec 5} {b : BitVec 6} {k : Cap} {n : Word64} (hh : ReadsH v h k v1) (hb : ReadsS v1 b n v2)
    (hc : ReadsS v2 c route u) (hk : UseOk u k [kTile] pR [0, 1]) (hg : k.has pG = true) (hunit : n.toNat % 256 = 0)
    (hlo : 256 ≤ n.toNat) (hhi : n.toNat ≤ 2 ^ 20) (hflits : FlitsOk u d port r (1 + n.toNat / 256) w) (hroom : RoomIn w qLink) :
    (lsendDAct h b c d).run v = .ok ((), sending w d port r (1 + n.toNat / 256) (flitAt u d port r) route (.data [] [] 0 0 0)
      (some (k, n.toNat)) [k] (pops1 h k)) := by
  obtain ⟨hcap, hread, hspace⟩ := hk
  have size : (decide (n.toNat % 256 = 0) && decide (256 ≤ n.toNat) && decide (n.toNat ≤ 2 ^ 20)) = true := by
    rw [decide_eq_true hunit, decide_eq_true hlo, decide_eq_true hhi]
    rfl
  rw [lsendDAct, run_bind_ok hh, run_bind_ok hb, run_bind_ok hc, run_bind_ok (run_need hgood ..), run_bind_ok (run_lsendPath hpath)]
  dsimp only
  rw [run_bind_ok (run_checkKind hcap), run_bind_ok (run_checkPerm hread u), run_bind_ok (run_checkPerm hg u),
    run_bind_ok (run_checkSpace hspace u), run_bind_ok (run_need size ..), run_bind_ok (run_lsendFlits hflits _), popsOf_one,
    run_lsendEnter hroom]

end Send

/-- Settles O30: each form by its work. -/
theorem messageWords : Obligations.MessageWords := by
  unfold Obligations.MessageWords
  intro g s v h b c peer relay rot slot berth route port r hi hgood
  refine ⟨fun x v1 u w hb hc hpath hflits hroom => ?value, fun k v1 u w hh hc hpath hk hg hcounted hflits hroom => ?handle,
    fun k n v1 v2 u w hh hb hc hpath hk hg hunit hlo hhi hflits hroom => ?data⟩
  case value => exact issueFall_completes hi (run_lsendVAct hgood hpath hb hc hflits hroom)
  case handle => exact issueFall_completes hi (run_lsendHAct hgood hpath hh hc hk hg hcounted hflits hroom)
  case data => exact issueFall_completes hi (run_lsendDAct hgood hpath hh hb hc hk hg hunit hlo hhi hflits hroom)

/-! ## The remote forms of LSEND (R299) -/

theorem run_checkRemote {v : State} {k : Cap} {perm : Nat} {peer : BitVec 6} (h : RemoteOk v k perm peer) :
    (checkRemote k perm peer).run v = .ok ((), v) := by
  obtain ⟨⟨hcap, hperm, hspace⟩, hbounds, hpeer, hzero, halign⟩ := h
  have target : (k.addr.extractLsb' 58 6 == peer && k.addr.extractLsb' 52 5 == 0 && k.addr.extractLsb' 0 3 == 0) = true := by
    rw [hpeer, hzero, halign, beq_self_eq_true]
    rfl
  rw [checkRemote, run_bind_ok (run_checkKind hcap), run_bind_ok (run_checkPerm hperm v), run_bind_ok (run_checkSpace hspace v),
    run_bind_ok (run_checkBounds hbounds v), run_need target]

section Remote
variable {v v1 w : State} {h : BitVec 5} {k : Cap} {kind : RemoteKind} {perm : Nat} {peer : BitVec 6} {x y : Word64}
  (hok : RemoteOk v k perm peer)
include hok

/-- A remote form whose operands are read, with a result awaited. -/
theorem run_remote_result {a : BitVec 6} {e : Effect} (ht : TakesS v a 0 e w) (hroom : RoomIn (awaiting w 572 3 e) qLink) :
    (do
      checkRemote k perm peer
      let id ← awaitS a 572 3
      let ids ← pure [id]
      let _ ← enter qLink (.remote kind peer.toNat k x y) [k] [] (popsOf [(h, k)]) none 0 none ids : Act Unit).run v =
    .ok ((), entering (awaiting w 572 3 e) qLink
      (newEntry (awaiting w 572 3 e) (.remote kind peer.toNat k x y) [k] [] (pops1 h k) none 0 none [w.nextId])) := by
  rw [run_bind_ok (run_checkRemote hok), run_bind_ok (run_awaitS ht ..), run_bind_ok (run_pure ..), popsOf_one,
    run_bind_ok (run_enter hroom ..), run_pure]

/-- A remote form whose operands are read, with no result. -/
theorem run_remote_noResult (hroom : RoomIn v qLink) :
    (do
      checkRemote k perm peer
      let ids ← pure []
      let _ ← enter qLink (.remote kind peer.toNat k x y) [k] [] (popsOf [(h, k)]) none 0 none ids : Act Unit).run v =
    .ok ((), entering v qLink (newEntry v (.remote kind peer.toNat k x y) [k] [] (pops1 h k) none 0 none [])) := by
  rw [run_bind_ok (run_checkRemote hok), run_bind_ok (run_pure ..), popsOf_one, run_bind_ok (run_enter hroom ..), run_pure]

end Remote

/-- Settles O31: each form reads its operands, and what follows is the same for all that have a result. -/
theorem remoteWords : Obligations.RemoteWords := by
  unfold Obligations.RemoteWords
  intro g s v v1 h a b c peer relay k hi hh
  refine ⟨fun e w hok ht hroom => ?rld, fun x w hb hok hroom => ?rst, fun x e v2 w hb hok ht hroom => ?radd,
    fun x y e v2 v3 w hb hc hok ht hroom => ?rcas⟩
  case rld => exact issueFall_completes hi ((run_bind_ok hh _).trans (run_remote_result hok ht hroom))
  case rst => exact issueFall_completes hi ((run_bind_ok hh _).trans ((run_bind_ok hb _).trans (run_remote_noResult hok hroom)))
  case radd => exact issueFall_completes hi ((run_bind_ok hh _).trans ((run_bind_ok hb _).trans (run_remote_result hok ht hroom)))
  case rcas =>
    exact issueFall_completes hi
      ((run_bind_ok hh _).trans ((run_bind_ok hb _).trans ((run_bind_ok hc _).trans (run_remote_result hok ht hroom))))

/-! ## LTAKE, LCAL, LMARK and LSTAT (R296, R298, R303) -/

theorem run_hLatency (v : State) : hLatency.run v = .ok (backAt v, v) := rfl

theorem run_askH (op : HOp) (latches : List Nat) (v : State) : (askH op latches).run v = .ok ((), asking v op latches) := rfl

/-- LTAKE awaits the status, the value and the handle. -/
theorem run_ltakeAct {v w1 w2 w3 : State} {h : BitVec 5} {a : BitVec 6} {e1 e2 e3 : Effect} (h1 : TakesS v a 0 e1 w1)
    (h2 : TakesS (awaiting w1 (backAt v) 3 e1) (a + 1) 0 e2 w2) (h3 : TakesH (awaiting w2 (backAt v) 3 e2) h nullCap e3 w3) (wait : Bool) :
    (ltakeAct h a wait).run v =
      .ok ((), asking (awaiting w3 (backAt v) 3 e3) (.ltake wait) [w1.nextId, w2.nextId, w3.nextId]) := by
  rw [ltakeAct, run_bind_ok (run_hLatency v), run_bind_ok (run_awaitS h1 ..), run_bind_ok (run_awaitS h2 ..), run_bind_ok h3,
    run_bind_ok (run_await ..), run_askH]

theorem run_lcalAct {v v1 w : State} {h : BitVec 5} {b : BitVec 6} {c : Cap} {x : Word64} (hh : ReadsH v h c v1) (hb : ReadsS v1 b x w)
    (hc : CapOk w c [c.kind]) (hp : c.has pP = true) (halign : x.toNat % 8 = 0) (hend : x.toNat + 272 ≤ 0x100000) (hroom : RoomIn w qLink) :
    (lcalAct h b).run v = .ok ((), entering w qLink (newEntry w (.lcal x.toNat) [c] [] (pops1 h c) none 0 none [])) := by
  have inPrivate : (decide (x.toNat % 8 = 0) && decide (x.toNat + 272 ≤ 0x100000)) = true :=
    Bool.and_eq_true_iff.2 ⟨decide_eq_true halign, decide_eq_true hend⟩
  rw [lcalAct, run_bind_ok hh, run_bind_ok hb, run_bind_ok (run_checkOwn hc), run_bind_ok (run_checkPerm hp w),
    run_bind_ok (run_need inPrivate ..), popsOf_one, run_bind_ok (run_enter hroom ..), run_pure]

theorem run_lmarkAct {v w : State} {b : BitVec 6} {x : Word64} (hb : ReadsS v b x w) (hroom : RoomIn w qLink) :
    (lmarkAct b).run v = .ok ((), entering w qLink (newEntry w (.lmark (x.setWidth 6)) [] [] [] none 0 none [])) := by
  rw [lmarkAct, run_bind_ok hb, run_bind_ok (run_enter hroom ..), run_pure]

theorem run_lstatAct {v w w' : State} {a b : BitVec 6} {x : Word64} {e : Effect} (hb : ReadsS v b x w) (hx : (w.lstat x.toNat).isSome = true)
    (ht : TakesS w a 0 e w') :
    (lstatAct a b).run v = .ok ((), asking (awaiting w' (backAt w) 3 e) (.lstat x.toNat) [w'.nextId]) := by
  rw [lstatAct, run_bind_ok hb, run_bind_ok (run_get w), run_bind_ok (run_need hx ..), run_bind_ok (run_hLatency w),
    run_bind_ok (run_awaitS ht ..), run_askH]

/-- Settles O32: each word by its work. -/
theorem linkWords : Obligations.LinkWords := by
  unfold Obligations.LinkWords
  intro g s v hi
  refine ⟨fun h a e1 e2 e3 w1 w2 w3 h1 => ?ltake, fun h b c x v1 w hh hb hc hp halign hend hroom => ?lcal, fun b x w hb hroom => ?lmark,
    fun a b x e w w' hb hx ht => ?lstat⟩
  case ltake =>
    intro lat h2 h3 ends
    exact ⟨issueFall_completes hi (run_ltakeAct h1 h2 h3 true), issueFall_completes hi (run_ltakeAct h1 h2 h3 false)⟩
  case lcal => exact issueFall_completes hi (run_lcalAct hh hb hc hp halign hend hroom)
  case lmark => exact issueFall_completes hi (run_lmarkAct hb hroom)
  case lstat => exact issueFall_completes hi (run_lstatAct hb hx ht)

end Sys2Proof.Laws
end

section
/-! SUPPORT. The words of the Signal Box (R272, R280-R283): what their checks and their work come to, and O34. -/
namespace Sys2Proof.Laws
open Sys2Proof Sys2Proof.Machine
-- In order: each thread of an elaboration in parallel reserves its stack, and the text is long.
set_option Elab.async false

/-- A request takes its place in the queue (R40, R282, R283). -/
theorem run_enterAsk {v : State} (h : RoomIn v qSbox) (op : HOp) (latches : List Nat) :
    (enterAsk op latches).run v = .ok (v.nextId, boxAsk v op latches) := by
  rw [enterAsk, run_bind_ok (run_get v), run_enter h]
  rfl

/-! ## The work of the words -/

section Words
variable {v w : State} {b : BitVec 6} {x : Word64} (hb : ReadsS v b x w)
include hb

theorem run_sbputAct {pipe : BitVec 1} (hp : PrivateOk x 64) (ho : w.sbox.owns w.cur.1 pipe = true) (hroom : RoomIn w qSbox) (cls : BitVec 4) :
    (sbputAct b pipe cls).run v = .ok ((), entering w qSbox (newEntry w (.sbput x.toNat pipe cls) [] [] [] none 0 none [])) := by
  rw [sbputAct, run_bind_ok hb, run_bind_ok (run_get w), run_bind_ok (run_checkPrivate hp), run_bind_ok (run_need ho ..),
    run_bind_ok (run_enter hroom ..), run_pure]

theorem run_sbcommitAct (hroom : RoomIn w qSbox) :
    (sbcommitAct b).run v = .ok ((), entering w qSbox (newEntry w (.sbcommit (x.setWidth 32)) [] [] [] none 0 none [])) := by
  rw [sbcommitAct, run_bind_ok hb, run_bind_ok (run_enter hroom ..), run_pure]

/-- SBTBL: an entry's index is within the partition's window. -/
theorem run_sbtblAct {l : Word64} (halign : x.toNat % 8 = 0) (hend : x.toNat + imageSize (w.sbox.kind (litTable l)) l ≤ 0x100000)
    (hindex : l.extractLsb' 62 2 = 0 → litIndex l < (w.sbox.window ((w.core w.cur.1).part.getD 0) (litTable l)).2) (hroom : RoomIn w qSbox) :
    (sbtblAct b l).run v = .ok ((), entering w qSbox (newEntry w (.sbtbl x.toNat l) [] [] [] none 0 none [])) := by
  have inPrivate : (decide (x.toNat % 8 = 0) && decide (x.toNat + imageSize (w.sbox.kind (litTable l)) l ≤ 0x100000)) = true :=
    Bool.and_eq_true_iff.2 ⟨decide_eq_true halign, decide_eq_true hend⟩
  have inWindow : (l.extractLsb' 62 2 != 0 ||
      decide (litIndex l < (w.sbox.window ((w.core w.cur.1).part.getD 0) (litTable l)).2)) = true := by
    rw [Bool.or_eq_true, bne_iff_ne, decide_eq_true_iff]
    exact Decidable.not_or_of_imp hindex
  rw [sbtblAct, run_bind_ok hb, run_bind_ok (run_get w)]
  dsimp only
  rw [run_bind_ok (run_need inPrivate ..), run_bind_ok (run_need inWindow ..), run_bind_ok (run_enter hroom ..), run_pure]

variable {a : BitVec 6} {e : Effect} {w' : State} (ht : TakesS w a 0 e w')
include ht

/-- The state once SBGET awaits its status, and its 64 bytes by a way through its core's die. -/
def getting (u : State) : State := awaiting u (u.dist cDie hDie + u.dist hDie (dieOf u.cur.1) + 8) 3 (.store nullCap [])

theorem run_sbgetAct (hp : PrivateOk x 64) (exc : Bool) (hroom : RoomIn (getting (awaiting w' (backAt w) 3 e)) qSbox) :
    let u := awaiting w' (backAt w) 3 e
    (sbgetAct exc a b).run v = .ok ((), boxAsk (getting u) (.sbget exc x.toNat) [w'.nextId, u.nextId]) := by
  rw [sbgetAct, run_bind_ok hb, run_bind_ok (run_checkPrivate hp), run_bind_ok (run_hLatency w), run_bind_ok (run_awaitS ht ..),
    run_bind_ok (run_get _), run_bind_ok (run_await ..)]
  exact run_bind_ok (run_enterAsk hroom ..) _

theorem run_sbstatAct (hx : x.toNat ≤ 5) (hroom : RoomIn (awaiting w' (backAt w) 3 e) qSbox) :
    (sbstatAct a b).run v = .ok ((), boxAsk (awaiting w' (backAt w) 3 e) (.sbstat x.toNat) [w'.nextId]) := by
  rw [sbstatAct, run_bind_ok hb, run_bind_ok (run_need (decide_eq_true hx) ..), run_bind_ok (run_hLatency w),
    run_bind_ok (run_awaitS ht ..), run_bind_ok (run_enterAsk hroom ..), run_pure]

end Words

theorem run_sbmarkAct {v w : State} {b : BitVec 6} {x : Word64} (hb : ReadsS v b x w) (hroom : RoomIn w qSbox) :
    (sbmarkAct b).run v = .ok ((), boxAsk w (.sbmark (x.getLsbD 0)) []) := by
  rw [sbmarkAct, run_bind_ok hb, run_bind_ok (run_enterAsk hroom ..), run_pure]

/-- Settles O34: each word by its work. -/
theorem signalBoxWords : Obligations.SignalBoxWords := by
  unfold Obligations.SignalBoxWords
  intro g s v w b x h hb entry
  refine ⟨fun pipe cls hp ho hroom => ?put, fun hroom => ?commit, fun lit => ?table, fun a e w' hp ht => ?get,
    fun a e w' hx ht hroom => ?stat, fun hroom => ?mark⟩
  case put => exact issueFall_completes h (run_sbputAct hb hp ho hroom cls)
  case commit => exact issueFall_completes h (run_sbcommitAct hb hroom)
  case table =>
    intro l halign hend hindex hroom
    exact issueFall2_completes h (run_sbtblAct hb halign hend hindex hroom)
  case get =>
    intro u q hroom
    exact ⟨issueFall_completes h (run_sbgetAct hb ht hp false hroom), issueFall_completes h (run_sbgetAct hb ht hp true hroom)⟩
  case stat => exact issueFall_completes h (run_sbstatAct hb ht hx hroom)
  case mark => exact issueFall_completes h (run_sbmarkAct hb hroom)

end Sys2Proof.Laws
end

section
/-! SUPPORT. The events of the Signal Box (R272, R273, R278-R283): where an image goes, where a record enters and where its pass ends, and
O37. -/
namespace Sys2Proof.Laws
open Sys2Proof Sys2Proof.Machine
-- In order: each thread of an elaboration in parallel reserves its stack, and the text is long.
set_option Elab.async false

/-! ## SHADOW_BANK_WRITE (R281, R283) -/

section ShadowBank
variable {s : State} {core : Nat} {p : BitVec 5} {e : EngEntry} {es : List EngEntry} {img : List Word64} {lit : Word64}
  (hpart : (s.core core).part = some p) (hhead : (s.core core).queue qSbox = e :: es) (hop : e.op = .sbimage img lit)
  (hfree : s.sbox.stamped p (litTable lit) (!s.sbox.bank p (litTable lit)) = false)
include hpart hhead hop hfree

/-- No record of the pipeline is stamped with the bank: the entry retires, and its image is judged. -/
theorem shadowBankWrite_eq : shadowBankWrite s core =
    let u := s.retireEntry core qSbox e
    if imageBadFor (u.sbox.kind (litTable lit)) (u.sbox.keyFields p (litTable lit) (!s.sbox.bank p (litTable lit))) lit img = true then
      u.setPart p { u.part p with refused := (u.part p).refused + 1, sticky := true }
    else u.modSbox fun b => b.putImage p (!s.sbox.bank p (litTable lit)) lit img := by
  unfold shadowBankWrite
  rw [hhead]
  dsimp only
  rw [hop]
  dsimp only
  rw [hpart, Option.getD_some, hfree, if_neg Bool.false_ne_true]

end ShadowBank

/-! ## RECORD_INGRESS (R272, R281) -/

/-- A record as it enters a pipeline: it is stamped with its partition's active banks. -/
def enteringRecord (s : State) (core : Nat) (p : BitVec 5) (f : List (BitVec 32)) (pipe : BitVec 1) (cls : BitVec 4) : Record :=
  { f := f, cls := cls, pipe := pipe, src := core, part := p, recirc := 0, egress := 0, target := 0, data := 0
    banks := Tbl.get 0 s.sbox.active p.toNat, reason := 0 }

theorem recordIngress_eq {s : State} {core : Nat} {p : BitVec 5} {pipe : BitVec 1} {e : EngEntry} {f : List (BitVec 32)} {cls : BitVec 4}
    {fail : Bool} (hpart : (s.core core).part = some p) (hhead : (s.core core).ingressHead pipe = some e) (hop : e.op = .sbrec f pipe cls fail) :
    recordIngress s core pipe =
      let r := enteringRecord s core p f pipe cls
      let u := s.retireEntry core qSbox e
      if (fail && !s.sbox.owns core pipe) = true then u.exception r 7
      else { u with nextId := u.nextId + 1, sbox := { u.sbox with inside := u.sbox.inside ++ [(u.nextId, s.clk + 32, r)] } } := by
  unfold recordIngress
  rw [hhead]
  dsimp only
  rw [hop]
  dsimp only
  rw [hpart]
  rfl

/-! ## RECORD_PASS (R273, R278, R279) -/

/-- The state once a record has left the stages. -/
def passed (s : State) (id : Nat) : State := s.modSbox fun b => { b with inside := b.inside.filter fun e => e.1 != id }

section Pass
variable {s : State} {id i t : Nat} {r0 r : Record} (hfind : s.sbox.inside.find? (fun e => e.1 == id) = some (i, t, r0))
  (hr : r = sbPass s.sbox r0)
include hfind hr

/-- The record is judged by what the stages made of it. -/
theorem recordPass_eq : recordPass s id =
    if r.egress = 6 ∧ r.reason ≠ 5 then
      if r.recirc < 3 then (passed s id).modSbox fun b =>
        { b with inside := b.inside ++ [(id, t + 32, { r with recirc := r.recirc + 1, egress := 0 })] }
      else (passed s id).modSbox fun b => { b with out := b.out ++ [(t + 2, { r with reason := 2 })] }
    else (passed s id).modSbox fun b => { b with out := b.out ++ [(t + egressTime (passed s id) r, r)] } := by
  unfold recordPass
  rw [hfind]
  dsimp only
  rw [← hr]
  rfl

theorem recordPass_out (h : r.egress ≠ 6 ∨ r.reason = 5) : recordPass s id =
    (passed s id).modSbox fun b => { b with out := b.out ++ [(t + egressTime (passed s id) r, r)] } := by
  rw [recordPass_eq hfind hr, if_neg fun hround => h.elim (· hround.1) hround.2]

theorem recordPass_again (hegress : r.egress = 6) (hreason : r.reason ≠ 5) (hrecirc : r.recirc < 3) : recordPass s id =
    (passed s id).modSbox fun b => { b with inside := b.inside ++ [(id, t + 32, { r with recirc := r.recirc + 1, egress := 0 })] } := by
  rw [recordPass_eq hfind hr, if_pos ⟨hegress, hreason⟩, if_pos hrecirc]

/-- A fourth round is refused. -/
theorem recordPass_fourth (hegress : r.egress = 6) (hreason : r.reason ≠ 5) (hrecirc : 3 ≤ r.recirc) : recordPass s id =
    (passed s id).modSbox fun b => { b with out := b.out ++ [(t + 2, { r with reason := 2 })] } := by
  rw [recordPass_eq hfind hr, if_pos ⟨hegress, hreason⟩, if_neg (Nat.not_lt.2 hrecirc)]

end Pass

/-- Only a sequence-table entry goes to another die. -/
theorem egressTime_near (s : State) {r : Record} (h : r.egress ≠ 3) : egressTime s r = 2 := by
  have near : (decide (r.egress = 3) && decide (r.reason = 0)) = false := by
    rw [decide_eq_false h, Bool.false_and]
  rw [egressTime, near, if_neg Bool.false_ne_true]

/-- Settles O37: each event by what is at its queue's head, a pass by the record's egress. -/
theorem signalBoxEvents : Obligations.SignalBoxEvents := by
  unfold Obligations.SignalBoxEvents
  intro s core p hpart
  refine ⟨fun e es img lit hhead hop => ?shadow, fun pipe e f cls fail hhead hop => ?ingress, fun id i t r0 r hfind hr => ?pass⟩
  case shadow =>
    intro b u bad hfree
    have step : exec (.shadowBankWrite core) s = .next (shadowBankWrite s core) := rfl
    rw [step, shadowBankWrite_eq hpart hhead hop hfree]
    exact ⟨fun hgood => congrArg _ (if_neg (Bool.eq_false_iff.1 hgood)), fun hbad => congrArg _ (if_pos hbad)⟩
  case ingress =>
    intro r u
    have step : exec (.recordIngress core pipe) s = .next (recordIngress s core pipe) := rfl
    rw [step, recordIngress_eq hpart hhead hop]
    exact ⟨fun hmine => congrArg _ (if_neg (Bool.eq_false_iff.1 hmine)), fun hstray => congrArg _ (if_pos hstray)⟩
  case pass =>
    intro out u
    have step : exec (.recordPass id) s = .next (recordPass s id) := rfl
    rw [step]
    exact ⟨fun hout => congrArg _ (recordPass_out hfind hr hout), egressTime_near u,
      fun hegress hreason hrecirc => congrArg _ (recordPass_again hfind hr hegress hreason hrecirc),
      fun hegress hreason hrecirc => congrArg _ (recordPass_fourth hfind hr hegress hreason hrecirc)⟩

end Sys2Proof.Laws
end

section
/-! SUPPORT. The Turntable at the H-die (R287-R304): what its peers' numbers let in, what a calendar's change keeps, which berth writes
are refused, and O41. -/
namespace Sys2Proof.Laws
open Sys2Proof Sys2Proof.Machine
-- In order: each thread of an elaboration in parallel reserves its stack, and the text is long.
set_option Elab.async false

/-! ## Peers -/

/-- Of two writes to one key the later stands. -/
theorem set_set_same {α : Type} (t : Tbl α) (k : Nat) (v w : α) : Tbl.set (Tbl.set t k v) k w = Tbl.set t k w := by
  induction t with
  | nil => simp [Tbl.set]
  | cons p t ih =>
    obtain ⟨k', v'⟩ := p
    rcases lt_trichotomy k k' with hlt | rfl | hgt
    · simp [Tbl.set, hlt]
    · simp [Tbl.set]
    · simp [Tbl.set, hgt.not_gt, hgt.ne', ih]

theorem setPeer_setPeer (s : State) (p : Nat) (v w : Peer) : (s.setPeer p v).setPeer p w = s.setPeer p w :=
  congrArg (fun ps => { s with tt := { s.tt with peers := ps } }) (set_set_same s.tt.peers p v w)

/-- The state once a number of a peer is accepted, and nothing waits behind it (R292). -/
def numbered (s : State) (peer seq : Nat) : State := s.setPeer peer { s.peer peer with inSeq := seq + 1, waiting := [] }

/-- The number that is awaited, with nothing waiting, is handed on at once (R292). -/
theorem accept_awaited {s : State} {peer seq : Nat} (hseq : (s.peer peer).inSeq = seq) (hnone : (s.peer peer).waiting = []) (i : Inbound) :
    accept s peer seq i = handOn (numbered s peer seq) peer i := by
  have fresh : ¬ (seq < (s.peer peer).inSeq ∨ (s.peer peer).waiting.any (fun w => w.1 == seq) = true) := by
    rw [hseq, hnone]
    simp
  rw [accept, if_neg fresh, hnone, List.length_nil, List.nil_append, drainIn, peer_setPeer]
  simp only [hseq, List.find?_cons, List.filter_cons, BEq.rfl, bne_self_eq_false, Bool.false_eq_true, if_false, List.filter_nil,
    setPeer_setPeer, drainIn]
  rfl

/-- A number already accepted is discarded (R292). -/
theorem accept_old {s : State} {peer seq : Nat} (h : seq < (s.peer peer).inSeq) (i : Inbound) : accept s peer seq i = s := if_pos (.inl h)

/-- An acknowledgement that says nothing new (R293). -/
theorem ackPeer_old {s : State} {peer n : Nat} (h : n ≤ (s.peer peer).acked) : s.ackPeer peer n = s := if_pos h

/-- Credits leave the numbers of a peer alone (R293). -/
theorem credit_numbers (s : State) (peer arr rel : Nat) : ((s.credit peer arr rel).peer peer).inSeq = (s.peer peer).inSeq ∧
    ((s.credit peer arr rel).peer peer).waiting = (s.peer peer).waiting := by
  unfold State.credit State.modPeer
  rw [peer_setPeer]
  exact ⟨rfl, rfl⟩

/-- An item that takes a number is accepted under it, after its flit's acknowledgement and credits. -/
theorem serviceArrival_numbered {item : ServiceItem} (hack : item ≠ .ackOnly) (hhop : ∀ a b c, item ≠ .hopAck a b c) (s : State)
    (peer seq ack arr rel : Nat) :
    serviceArrival s peer seq item ack arr rel = accept ((s.ackPeer peer ack).credit peer arr rel) peer seq (.item item) := by
  cases item with
  | ackOnly => exact absurd rfl hack
  | hopAck a b c => exact absurd rfl (hhop a b c)
  | _ => rfl

/-- A hop's acknowledgement takes no number. -/
theorem serviceArrival_hopAck {s : State} {peer ack : Nat} (hack : ack ≤ (s.peer peer).acked) (seq src dst n arr rel : Nat) :
    serviceArrival s peer seq (.hopAck src dst n) ack arr rel = hopAckIn (s.credit peer arr rel) src dst n := by
  rw [serviceArrival, ackPeer_old hack]

/-! ## Unreachable peers (R301) -/

section Exchange
variable {s : State} {peer : BitVec 6} (h : (s.peer peer.toNat).exchange.isSome = true)
include h

/-- A peer that says what it has accepted ends the exchange. -/
theorem exec_peerUnreachable_settles (n : Nat) : exec (.peerUnreachable peer (some n)) s = .next (s.settle peer.toNat n) := by
  have step : exec (.peerUnreachable peer (some n)) s =
      .next (if (s.peer peer.toNat).exchange.isSome = true then s.settle peer.toNat n else s) := rfl
  rw [step, if_pos h]

/-- Without an answer it ends with what is acknowledged. -/
theorem exec_sequenceExchangeTimeout :
    exec (.sequenceExchangeTimeout peer) s = .next (s.settle peer.toNat (s.peer peer.toNat).acked) := by
  have step : exec (.sequenceExchangeTimeout peer) s =
      .next (if (s.peer peer.toNat).exchange.isSome = true then s.settle peer.toNat (s.peer peer.toNat).acked else s) := rfl
  rw [step, if_pos h]

end Exchange

/-! ## Messages (R289, R293, R295, R297) -/

section Here
variable {s : State} {m : Message} (h : m.dst = s.tt.pkg)
include h

/-- A message for this package is accepted under its number. -/
theorem messageArrival_direct (hdirect : m.relay = none) : messageArrival s m = accept s m.src m.seq (.message m) := by
  rw [messageArrival, if_pos h, hdirect]

/-- The relay it came by learns of it. -/
theorem messageArrival_viaRelay {r : Nat} (hrelay : m.relay = some r) :
    messageArrival s m = (accept s m.src m.seq (.message m)).ackHop r m := by
  rw [messageArrival, if_pos h, hrelay]

end Here

/-- A message that the relay has had is only acknowledged. -/
theorem messageArrival_again {s : State} {m : Message} (h : m.dst ≠ s.tt.pkg) (hhad : s.tt.hasRelayed m = true) :
    messageArrival s m = s.ackHop m.src m := by
  rw [messageArrival, if_neg h, if_pos hhad]

/-- The copy that a relay keeps of a message. -/
def relayCopy (s : State) (m : Message) : Staged :=
  { id := s.nextId, msg := m, syll := 0, port := 0, rot := s.tt.rot, slot := 0, berth := 0, off := 0, hop := m.dst, whole := s.ptc
    sent := none, late := false, entry := none }

theorem messageArrival_relayed {s : State} {m : Message} (h : m.dst ≠ s.tt.pkg) (hnew : s.tt.hasRelayed m = false) : messageArrival s m =
    ({ s with nextId := s.nextId + 1 }.modTt fun t => { t with relays := t.relays ++ [relayCopy s m] }).ackHop m.src m := by
  rw [messageArrival, if_neg h, hnew, if_neg Bool.false_ne_true]
  rfl

/-- Of the Turntable a credit given back changes the peers alone. -/
theorem creditBack_tt (s : State) (m : Message) (relay : Bool) : ∃ ps, (s.creditBack m relay).tt = { s.tt with peers := ps } := by
  unfold State.creditBack
  dsimp only
  split <;> exact ⟨_, rfl⟩

/-- LATE_RETURN: the message goes among the returned ones, and counts as late. -/
theorem lateReturn_returns {s : State} {id : Nat} {m : Staged} (h : s.tt.staged.find? (fun m => m.id == id && m.sent.isNone) = some m) :
    ∃ u : State, lateReturn s id = u.retireStaged m ∧ u.tt.returns = s.tt.returns ++ [(m.msg, true)] ∧ u.tt.late = s.tt.late + 1 ∧
      u.tt.staged = s.tt.staged.filter fun x => x.id != m.id := by
  rw [lateReturn, h]
  refine ⟨_, rfl, ?_⟩
  obtain ⟨ps, hps⟩ := creditBack_tt (((s.modTt fun t => { t with late := t.late + 1 }).modTt fun t => { t with
    staged := t.staged.filter fun x => x.id != m.id, returns := t.returns ++ [(m.msg, true)] })) m.msg m.sent.isNone
  rw [hps]
  exact ⟨rfl, rfl, rfl⟩

/-! ## The calendar's change (R304) -/

/-- What the calendar says of the present: its entries and slot count, its state, the rotation and the slot's start. -/
def schedule (s : State) : Tbl (BitVec 16) × Nat × TtState × Nat × Nat := (s.tt.cal, s.tt.count, s.tt.state, s.tt.rot, s.tt.slotAt)

@[simp] theorem schedule_dropWeight (s : State) (core : Nat) (c : Cap) : schedule (s.dropWeight core c) = schedule s := by
  unfold State.dropWeight State.homeMsg
  dsimp only
  repeat' split
  all_goals rfl

@[simp] theorem schedule_retireEntry (s : State) (core q : Nat) (e : EngEntry) : schedule (s.retireEntry core q e) = schedule s :=
  foldl_keeps schedule _ (fun u c => schedule_dropWeight u core c) ..

@[simp] theorem schedule_retireStaged (s : State) (m : Staged) : schedule (s.retireStaged m) = schedule s := by
  unfold State.retireStaged
  split
  · exact schedule_retireEntry ..
  · rfl

@[simp] theorem schedule_creditBack (s : State) (m : Message) (relay : Bool) : schedule (s.creditBack m relay) = schedule s := by
  obtain ⟨ps, hps⟩ := creditBack_tt s m relay
  unfold schedule
  rw [hps]

@[simp] theorem schedule_giveBack (s : State) (m : Staged) (late : Bool) : schedule (s.giveBack m late) = schedule s := by
  unfold State.giveBack
  rw [schedule_retireStaged, schedule_creditBack]
  rfl

@[simp] theorem schedule_returnWhere (s : State) (back : Staged → Bool) : schedule (s.returnWhere back) = schedule s := by
  refine foldl_keeps schedule _ (fun u m => ?_) _ _
  exact schedule_giveBack u m false

/-- CALENDAR_TAKEOVER: the shadow calendar is active from its rotation on. -/
theorem schedule_calendarTakeover (s : State) (relocked : BitVec 8) : schedule (calendarTakeover s relocked) =
    (s.tt.shadow, s.tt.shCount, .run, s.tt.takeover - 1, s.tt.darkAt + darkUnits - slotUnits) := by
  unfold calendarTakeover
  refine (foldl_keeps schedule _ (fun u m => ?relay) _ _).trans
    ((schedule_returnWhere ..).trans (foldl_keeps schedule _ (fun u p => ?peer) _ _))
  case relay => rfl
  case peer => rfl

/-! ## The berth table (R288, R322) -/

/-- A write that gives an entry of the berth table from one partition to another, or that changes a partition's berths while it holds a
train, or names a reserved use. -/
def BerthRefused (s : State) (v : BitVec 16) (old new : Option (BitVec 5)) : Prop :=
  v.getLsbD 9 = true ∨ (∃ p, old = some p ∧ (engaged s p = true ∨ ∃ q, new = some q ∧ p ≠ q)) ∨ ∃ p, new = some p ∧ engaged s p = true

/-- A condition that stands for a statement decides by it. -/
theorem ite_of_iff {α : Type} {c P : Prop} [Decidable c] (h : c ↔ P) (a b : α) :
    (P → (if c then a else b) = a) ∧ (¬ P → (if c then a else b) = b) :=
  ⟨fun hp => if_pos (h.2 hp), fun hn => if_neg (mt h.1 hn)⟩

/-- A write of the berth table is logged where it is refused, and else takes its place. -/
theorem berthTableWrite_cases (s : State) (i : Nat) (v : BitVec 16) :
    (BerthRefused s v (berthPart (Tbl.get 0 s.tt.berths i)) (berthPart v) →
      berthTableWrite s i v = s.logErr 4 hDie 4 (BitVec.ofNat 64 i) (v.extractLsb' 10 5)) ∧
    (¬ BerthRefused s v (berthPart (Tbl.get 0 s.tt.berths i)) (berthPart v) →
      berthTableWrite s i v = { s with tt := { s.tt with berths := Tbl.set s.tt.berths i v } }) := by
  refine ite_of_iff ?_ _ _
  unfold BerthRefused
  cases berthPart (Tbl.get 0 s.tt.berths i) <;> cases berthPart v <;> grind

/-! ## The events -/

/-- Settles O41: each event by what its peer's number lets in, or by the calendar's state. -/
theorem turntableEvents : Obligations.TurntableEvents := by
  unfold Obligations.TurntableEvents
  intro s next awaited hopAcked
  refine ⟨fun hlit checks => ⟨fun hmore => ?slot, fun hlast => ?rotation⟩, fun id m hfind => ?late,
    fun m hdst haw => ⟨fun hdirect => ?direct, fun r hrelay => ?viaRelay⟩, fun m hdst hold hdirect => ?old,
    fun m hdst => ⟨fun hhad => ?again, fun hnew => ?relayed⟩, fun peer seq item ack arr rel hack hhop hle haw => ?item,
    fun peer seq src dst n ack arr rel hle => ?hopAck, fun op haw => ?remote, fun peer seq n haw => ?notice, fun peer seq haw => ?marker,
    fun peer => ?loses, fun peer n hex => ⟨?settles, ?timeout⟩, ?dark, fun relocked => ?takeover, fun i v old new hold hnew => ?berth⟩
  case slot => exact congrArg _ ((if_neg hlit).trans (if_pos hmore))
  case rotation => exact congrArg _ ((if_neg hlit).trans (if_neg (Nat.not_lt.2 hlast)))
  case late =>
    obtain ⟨u, hu, hreturns⟩ := lateReturn_returns hfind
    exact ⟨u, congrArg _ hu, hreturns⟩
  case direct => exact congrArg _ ((messageArrival_direct hdst hdirect).trans (accept_awaited haw.1 haw.2 _))
  case viaRelay =>
    exact congrArg _ ((messageArrival_viaRelay hdst hrelay).trans (congrArg (State.ackHop · r m) (accept_awaited haw.1 haw.2 _)))
  case old => exact congrArg _ ((messageArrival_direct hdst hdirect).trans (accept_old hold _))
  case again => exact congrArg _ (messageArrival_again hdst hhad)
  case relayed => exact ⟨_, relayCopy s m, congrArg _ (messageArrival_relayed hdst hnew), rfl, rfl, rfl, rfl, rfl⟩
  case item =>
    obtain ⟨hseq, hnone⟩ := credit_numbers s peer.toNat arr rel
    refine congrArg _ ((serviceArrival_numbered hack hhop ..).trans ?_)
    rw [ackPeer_old hle]
    exact accept_awaited (hseq.trans haw.1) (hnone.trans haw.2) _
  case hopAck => exact congrArg _ (serviceArrival_hopAck hle ..)
  case remote => exact congrArg _ (accept_awaited haw.1 haw.2 _)
  case notice => exact congrArg _ (accept_awaited haw.1 haw.2 _)
  case marker => exact congrArg _ (accept_awaited haw.1 haw.2 _)
  case loses => rfl
  case settles => exact exec_peerUnreachable_settles hex n
  case timeout => exact exec_sequenceExchangeTimeout hex
  case dark => exact ⟨calendarDark s, rfl, rfl, rfl, rfl⟩
  case takeover =>
    have after := schedule_calendarTakeover s relocked
    simp only [schedule, Prod.mk.injEq] at after
    obtain ⟨hcal, hcount, hstate, hrot, hslot⟩ := after
    exact ⟨calendarTakeover s relocked, rfl, hcal, hcount, hstate, hrot, hslot⟩
  case berth =>
    subst hold hnew
    exact ⟨fun hrefused => congrArg _ ((berthTableWrite_cases s i.toNat v).1 hrefused),
      fun hallowed => congrArg _ ((berthTableWrite_cases s i.toNat v).2 hallowed)⟩

end Sys2Proof.Laws
end

section
/-! SUPPORT. The round trip of the encoder for every instruction, the decoder's checks in both directions (R106-R122, R250), and O47 to O50. -/
namespace Sys2Proof.Laws
open Sys2Proof Sys2Proof.Machine Sys2Proof.Claims
-- In order: each thread of an elaboration in parallel reserves its stack, and the text is long.
set_option Elab.async false

/-! ## From instructions to words and back -/

/-- The round trip of Laws/PerInstr, whichever the constructor. -/
theorem roundTrip (i : Instr) : RoundTrip.Statement i := by
  cases i with
  | nop => apply RoundTrip.nop
  | halt => apply RoundTrip.halt
  | trapSw => apply RoundTrip.trapSw
  | rft => apply RoundTrip.rft
  | sysr => apply RoundTrip.sysr
  | sysw => apply RoundTrip.sysw
  | ovlyN => apply RoundTrip.ovlyN
  | ovlyS => apply RoundTrip.ovlyS
  | cardone => apply RoundTrip.cardone
  | dlaunchP => apply RoundTrip.dlaunchP
  | traceTs => apply RoundTrip.traceTs
  | traceBr => apply RoundTrip.traceBr
  | saluAdd => apply RoundTrip.saluAdd
  | saluSub => apply RoundTrip.saluSub
  | saluAnd => apply RoundTrip.saluAnd
  | saluOr => apply RoundTrip.saluOr
  | saluXor => apply RoundTrip.saluXor
  | saluAndn => apply RoundTrip.saluAndn
  | saluShl => apply RoundTrip.saluShl
  | saluShr => apply RoundTrip.saluShr
  | saluSar => apply RoundTrip.saluSar
  | saluRol => apply RoundTrip.saluRol
  | saluMin => apply RoundTrip.saluMin
  | saluMax => apply RoundTrip.saluMax
  | saluMinu => apply RoundTrip.saluMinu
  | saluMaxu => apply RoundTrip.saluMaxu
  | saluMul => apply RoundTrip.saluMul
  | saluMulh => apply RoundTrip.saluMulh
  | saluMulhu => apply RoundTrip.saluMulhu
  | saluSeq => apply RoundTrip.saluSeq
  | saluSne => apply RoundTrip.saluSne
  | saluSlt => apply RoundTrip.saluSlt
  | saluSltu => apply RoundTrip.saluSltu
  | saluSel => apply RoundTrip.saluSel
  | saluClz => apply RoundTrip.saluClz
  | saluCtz => apply RoundTrip.saluCtz
  | saluPop => apply RoundTrip.saluPop
  | saluiAdd => apply RoundTrip.saluiAdd
  | saluiSub => apply RoundTrip.saluiSub
  | saluiAnd => apply RoundTrip.saluiAnd
  | saluiOr => apply RoundTrip.saluiOr
  | saluiXor => apply RoundTrip.saluiXor
  | saluiAndn => apply RoundTrip.saluiAndn
  | saluiShl => apply RoundTrip.saluiShl
  | saluiShr => apply RoundTrip.saluiShr
  | saluiSar => apply RoundTrip.saluiSar
  | saluiRol => apply RoundTrip.saluiRol
  | saluiMin => apply RoundTrip.saluiMin
  | saluiMax => apply RoundTrip.saluiMax
  | saluiMinu => apply RoundTrip.saluiMinu
  | saluiMaxu => apply RoundTrip.saluiMaxu
  | saluiMul => apply RoundTrip.saluiMul
  | saluiMulh => apply RoundTrip.saluiMulh
  | saluiMulhu => apply RoundTrip.saluiMulhu
  | saluiSeq => apply RoundTrip.saluiSeq
  | saluiSne => apply RoundTrip.saluiSne
  | saluiSlt => apply RoundTrip.saluiSlt
  | saluiSltu => apply RoundTrip.saluiSltu
  | sdivDiv => apply RoundTrip.sdivDiv
  | sdivDivu => apply RoundTrip.sdivDivu
  | sdivRem => apply RoundTrip.sdivRem
  | sdivRemu => apply RoundTrip.sdivRemu
  | sfpAdd => apply RoundTrip.sfpAdd
  | sfpSub => apply RoundTrip.sfpSub
  | sfpMul => apply RoundTrip.sfpMul
  | sfpFma => apply RoundTrip.sfpFma
  | sfpDiv => apply RoundTrip.sfpDiv
  | sfpSqrt => apply RoundTrip.sfpSqrt
  | sfpMin => apply RoundTrip.sfpMin
  | sfpMax => apply RoundTrip.sfpMax
  | sfpCvti => apply RoundTrip.sfpCvti
  | sfpCvtf => apply RoundTrip.sfpCvtf
  | sfpEq => apply RoundTrip.sfpEq
  | sfpLt => apply RoundTrip.sfpLt
  | sfpLe => apply RoundTrip.sfpLe
  | psetAnd => apply RoundTrip.psetAnd
  | psetOr => apply RoundTrip.psetOr
  | psetXor => apply RoundTrip.psetXor
  | psetAndn => apply RoundTrip.psetAndn
  | psetEq => apply RoundTrip.psetEq
  | psetNe => apply RoundTrip.psetNe
  | psetLt => apply RoundTrip.psetLt
  | psetLtu => apply RoundTrip.psetLtu
  | psetGe => apply RoundTrip.psetGe
  | psetGeu => apply RoundTrip.psetGeu
  | lit => apply RoundTrip.lit
  | ldP => apply RoundTrip.ldP
  | ldH => apply RoundTrip.ldH
  | ldCap => apply RoundTrip.ldCap
  | stP => apply RoundTrip.stP
  | stH => apply RoundTrip.stH
  | stCap => apply RoundTrip.stCap
  | enterF => apply RoundTrip.enterF
  | leaveF => apply RoundTrip.leaveF
  | pbrO => apply RoundTrip.pbrO
  | pbrR => apply RoundTrip.pbrR
  | brGo => apply RoundTrip.brGo
  | brqT => apply RoundTrip.brqT
  | brqF => apply RoundTrip.brqF
  | brmzSkip => apply RoundTrip.brmzSkip
  | callGo => apply RoundTrip.callGo
  | retGo => apply RoundTrip.retGo
  | loopL => apply RoundTrip.loopL
  | loopS => apply RoundTrip.loopS
  | repeatN => apply RoundTrip.repeatN
  | repeatS => apply RoundTrip.repeatS
  | signalT => apply RoundTrip.signalT
  | signalS => apply RoundTrip.signalS
  | waitT => apply RoundTrip.waitT
  | waitN => apply RoundTrip.waitN
  | toksetI => apply RoundTrip.toksetI
  | toksetX => apply RoundTrip.toksetX
  | fenceS => apply RoundTrip.fenceS
  | retimeAt => apply RoundTrip.retimeAt
  | waitvEq => apply RoundTrip.waitvEq
  | waitvNe => apply RoundTrip.waitvNe
  | waitvGe => apply RoundTrip.waitvGe
  | waitvLt => apply RoundTrip.waitvLt
  | waitvAny => apply RoundTrip.waitvAny
  | waitvNone => apply RoundTrip.waitvNone
  | markQ => apply RoundTrip.markQ
  | sstepS => apply RoundTrip.sstepS
  | capsetB => apply RoundTrip.capsetB
  | capsetE => apply RoundTrip.capsetE
  | cappermAnd => apply RoundTrip.cappermAnd
  | capoffAdd => apply RoundTrip.capoffAdd
  | capoffSet => apply RoundTrip.capoffSet
  | capgetA => apply RoundTrip.capgetA
  | capgetCells => apply RoundTrip.capgetCells
  | capgetKv => apply RoundTrip.capgetKv
  | capgetPeer => apply RoundTrip.capgetPeer
  | capgetSys => apply RoundTrip.capgetSys
  | capgetBase => apply RoundTrip.capgetBase
  | capgetLen => apply RoundTrip.capgetLen
  | capgetHi => apply RoundTrip.capgetHi
  | captestTag => apply RoundTrip.captestTag
  | captestIn => apply RoundTrip.captestIn
  | dupN => apply RoundTrip.dupN
  | dropW => apply RoundTrip.dropW
  | dropB => apply RoundTrip.dropB
  | movhM => apply RoundTrip.movhM
  | mergeW => apply RoundTrip.mergeW
  | allocT => apply RoundTrip.allocT
  | allocM => apply RoundTrip.allocM
  | isunqL => apply RoundTrip.isunqL
  | isunqX => apply RoundTrip.isunqX
  | updT => apply RoundTrip.updT
  | updM => apply RoundTrip.updM
  | sealT => apply RoundTrip.sealT
  | gsetL => apply RoundTrip.gsetL
  | gsetR => apply RoundTrip.gsetR
  | csetI => apply RoundTrip.csetI
  | csetS => apply RoundTrip.csetS
  | caddI => apply RoundTrip.caddI
  | caddS => apply RoundTrip.caddS
  | tldR => apply RoundTrip.tldR
  | tldW => apply RoundTrip.tldW
  | tcopyR => apply RoundTrip.tcopyR
  | tcopyW => apply RoundTrip.tcopyW
  | tcopyS => apply RoundTrip.tcopyS
  | tcopyHi => apply RoundTrip.tcopyHi
  | tcopyHo => apply RoundTrip.tcopyHo
  | gatherK => apply RoundTrip.gatherK
  | gatherV => apply RoundTrip.gatherV
  | appendKv => apply RoundTrip.appendKv
  | claimS => apply RoundTrip.claimS
  | releaseS => apply RoundTrip.releaseS
  | mmaT => apply RoundTrip.mmaT
  | mdrainT => apply RoundTrip.mdrainT
  | mzeroT => apply RoundTrip.mzeroT
  | maccR => apply RoundTrip.maccR
  | tstatR => apply RoundTrip.tstatR
  | valuAdd => apply RoundTrip.valuAdd
  | valuSub => apply RoundTrip.valuSub
  | valuAnd => apply RoundTrip.valuAnd
  | valuOr => apply RoundTrip.valuOr
  | valuXor => apply RoundTrip.valuXor
  | valuAndn => apply RoundTrip.valuAndn
  | valuShl => apply RoundTrip.valuShl
  | valuShr => apply RoundTrip.valuShr
  | valuSar => apply RoundTrip.valuSar
  | valuMin => apply RoundTrip.valuMin
  | valuMax => apply RoundTrip.valuMax
  | valuAbs => apply RoundTrip.valuAbs
  | valuMul => apply RoundTrip.valuMul
  | valuMulh => apply RoundTrip.valuMulh
  | vfmaFma => apply RoundTrip.vfmaFma
  | vfmaFms => apply RoundTrip.vfmaFms
  | vfmaFnma => apply RoundTrip.vfmaFnma
  | vcmpEq => apply RoundTrip.vcmpEq
  | vcmpNe => apply RoundTrip.vcmpNe
  | vcmpLt => apply RoundTrip.vcmpLt
  | vcmpGe => apply RoundTrip.vcmpGe
  | vcvtCvt => apply RoundTrip.vcvtCvt
  | vlt3Lut => apply RoundTrip.vlt3Lut
  | vfshL => apply RoundTrip.vfshL
  | vfshR => apply RoundTrip.vfshR
  | vlrotRot => apply RoundTrip.vlrotRot
  | vlrotRots => apply RoundTrip.vlrotRots
  | vpermIdx => apply RoundTrip.vpermIdx
  | vpermIdx2 => apply RoundTrip.vpermIdx2
  | vbcastS => apply RoundTrip.vbcastS
  | vbcastLane => apply RoundTrip.vbcastLane
  | vbcastImm => apply RoundTrip.vbcastImm
  | vredAdd => apply RoundTrip.vredAdd
  | vredAnd => apply RoundTrip.vredAnd
  | vredOr => apply RoundTrip.vredOr
  | vredXor => apply RoundTrip.vredXor
  | vredMin => apply RoundTrip.vredMin
  | vredMax => apply RoundTrip.vredMax
  | vfunExp => apply RoundTrip.vfunExp
  | vfunExp2 => apply RoundTrip.vfunExp2
  | vfunLog => apply RoundTrip.vfunLog
  | vfunLog2 => apply RoundTrip.vfunLog2
  | vfunRcp => apply RoundTrip.vfunRcp
  | vfunSqrt => apply RoundTrip.vfunSqrt
  | vfunRsqrt => apply RoundTrip.vfunRsqrt
  | vfunTanh => apply RoundTrip.vfunTanh
  | vfunSigm => apply RoundTrip.vfunSigm
  | vtopkVal => apply RoundTrip.vtopkVal
  | vtopkIdx => apply RoundTrip.vtopkIdx
  | vldMod => apply RoundTrip.vldMod
  | vldRow => apply RoundTrip.vldRow
  | vldStr => apply RoundTrip.vldStr
  | vstMod => apply RoundTrip.vstMod
  | vstRow => apply RoundTrip.vstRow
  | vstStr => apply RoundTrip.vstStr
  | vmovsLane => apply RoundTrip.vmovsLane
  | vmovsPair => apply RoundTrip.vmovsPair
  | vselBit => apply RoundTrip.vselBit
  | vselMask => apply RoundTrip.vselMask
  | mpushEq => apply RoundTrip.mpushEq
  | mpushNe => apply RoundTrip.mpushNe
  | mpushLt => apply RoundTrip.mpushLt
  | mpushGe => apply RoundTrip.mpushGe
  | minv => apply RoundTrip.minv
  | mpop => apply RoundTrip.mpop
  | mgetM => apply RoundTrip.mgetM
  | mgetV => apply RoundTrip.mgetV
  | msetM => apply RoundTrip.msetM
  | msetV => apply RoundTrip.msetV
  | vparkP => apply RoundTrip.vparkP
  | vunparkU => apply RoundTrip.vunparkU
  | astartGo => apply RoundTrip.astartGo
  | aloadW => apply RoundTrip.aloadW
  | astatRd => apply RoundTrip.astatRd
  | astatWait => apply RoundTrip.astatWait
  | pamoAdd => apply RoundTrip.pamoAdd
  | pamoMin => apply RoundTrip.pamoMin
  | pamoMax => apply RoundTrip.pamoMax
  | pamoSwap => apply RoundTrip.pamoSwap
  | pamoCas => apply RoundTrip.pamoCas
  | pamoCas2 => apply RoundTrip.pamoCas2
  | pamoEnq => apply RoundTrip.pamoEnq
  | pamoChase => apply RoundTrip.pamoChase
  | pamoRedAdd => apply RoundTrip.pamoRedAdd
  | pamoRedMin => apply RoundTrip.pamoRedMin
  | pamoRedMax => apply RoundTrip.pamoRedMax
  | pamoHxch => apply RoundTrip.pamoHxch
  | pldC => apply RoundTrip.pldC
  | pstC => apply RoundTrip.pstC
  | bcntP => apply RoundTrip.bcntP
  | lsendH => apply RoundTrip.lsendH
  | lsendD => apply RoundTrip.lsendD
  | lsendV => apply RoundTrip.lsendV
  | lsendRld => apply RoundTrip.lsendRld
  | lsendRst => apply RoundTrip.lsendRst
  | lsendRadd => apply RoundTrip.lsendRadd
  | lsendRcas => apply RoundTrip.lsendRcas
  | ltakeM => apply RoundTrip.ltakeM
  | ltakeP => apply RoundTrip.ltakeP
  | lcalW => apply RoundTrip.lcalW
  | lmarkD => apply RoundTrip.lmarkD
  | lstatRd => apply RoundTrip.lstatRd
  | shsendT => apply RoundTrip.shsendT
  | shtakeT => apply RoundTrip.shtakeT
  | shretOpen => apply RoundTrip.shretOpen
  | shretT => apply RoundTrip.shretT
  | shretClose => apply RoundTrip.shretClose
  | sbputR => apply RoundTrip.sbputR
  | sbgetQ => apply RoundTrip.sbgetQ
  | sbgetX => apply RoundTrip.sbgetX
  | sbtblW => apply RoundTrip.sbtblW
  | sbcommitG => apply RoundTrip.sbcommitG
  | sbstatRd => apply RoundTrip.sbstatRd
  | sbstatMark => apply RoundTrip.sbstatMark
  | microEnd => apply RoundTrip.microEnd
  | microQk => apply RoundTrip.microQk
  | microSmax => apply RoundTrip.microSmax
  | microExpp => apply RoundTrip.microExpp
  | microDen => apply RoundTrip.microDen
  | microResc => apply RoundTrip.microResc
  | microPv => apply RoundTrip.microPv
  | microWalk => apply RoundTrip.microWalk
  | microGath => apply RoundTrip.microGath
  | microNorm => apply RoundTrip.microNorm
  | microLoop => apply RoundTrip.microLoop
  | microBnz => apply RoundTrip.microBnz
  | microJmp => apply RoundTrip.microJmp
  | microSig => apply RoundTrip.microSig
  | microWaitt => apply RoundTrip.microWaitt
  | microSetp => apply RoundTrip.microSetp
  | attentionEntryStart => apply RoundTrip.attentionEntryStart
  | shadowBankWrite => apply RoundTrip.shadowBankWrite
  | recordIngress => apply RoundTrip.recordIngress
  | recordPass => apply RoundTrip.recordPass
  | launchPacket => apply RoundTrip.launchPacket
  | doorbell => apply RoundTrip.doorbell
  | queueBaseWrite => apply RoundTrip.queueBaseWrite
  | hostNotification => apply RoundTrip.hostNotification
  | resume => apply RoundTrip.resume
  | coresOffered => apply RoundTrip.coresOffered
  | carComplete => apply RoundTrip.carComplete
  | partitionDescriptorWrite => apply RoundTrip.partitionDescriptorWrite
  | serviceWindowEnd => apply RoundTrip.serviceWindowEnd
  | scrubComplete => apply RoundTrip.scrubComplete
  | holdRelease => apply RoundTrip.holdRelease
  | holdLimit => apply RoundTrip.holdLimit
  | refreshWindowOpen => apply RoundTrip.refreshWindowOpen
  | refreshWindowClose => apply RoundTrip.refreshWindowClose
  | engineEntryComplete => apply RoundTrip.engineEntryComplete
  | porterOperation => apply RoundTrip.porterOperation
  | waitvPoll => apply RoundTrip.waitvPoll
  | barrierArrival => apply RoundTrip.barrierArrival
  | weightReturn => apply RoundTrip.weightReturn
  | extension => apply RoundTrip.extension
  | uniquenessQuery => apply RoundTrip.uniquenessQuery
  | sealRecord => apply RoundTrip.sealRecord
  | conversionToBlank => apply RoundTrip.conversionToBlank
  | allocRequest => apply RoundTrip.allocRequest
  | storageFreed => apply RoundTrip.storageFreed
  | checkFailure => apply RoundTrip.checkFailure
  | shadowWalkComplete => apply RoundTrip.shadowWalkComplete
  | majorFaultSave => apply RoundTrip.majorFaultSave
  | contextRestore => apply RoundTrip.contextRestore
  | timerCompare => apply RoundTrip.timerCompare
  | interruptTaken => apply RoundTrip.interruptTaken
  | abortTimer => apply RoundTrip.abortTimer
  | revive => apply RoundTrip.revive
  | haltResume => apply RoundTrip.haltResume
  | invalidationRequest => apply RoundTrip.invalidationRequest
  | invalidationAck => apply RoundTrip.invalidationAck
  | pageMigration => apply RoundTrip.pageMigration
  | migrationLineCopy => apply RoundTrip.migrationLineCopy
  | dieResetRequest => apply RoundTrip.dieResetRequest
  | resetAssert => apply RoundTrip.resetAssert
  | dieResetRelease => apply RoundTrip.dieResetRelease
  | frequencyRequest => apply RoundTrip.frequencyRequest
  | frequencyStallStart => apply RoundTrip.frequencyStallStart
  | frequencyStallEnd => apply RoundTrip.frequencyStallEnd
  | retimeRelease => apply RoundTrip.retimeRelease
  | retimeSlipFault => apply RoundTrip.retimeSlipFault
  | sstepDrainPoint => apply RoundTrip.sstepDrainPoint
  | markComplete => apply RoundTrip.markComplete
  | kvQueueDrain => apply RoundTrip.kvQueueDrain
  | tabletArrival => apply RoundTrip.tabletArrival
  | shuttleDelivery => apply RoundTrip.shuttleDelivery
  | slotOccurrence => apply RoundTrip.slotOccurrence
  | lateReturn => apply RoundTrip.lateReturn
  | messageArrival => apply RoundTrip.messageArrival
  | serviceItemArrival => apply RoundTrip.serviceItemArrival
  | remoteOperation => apply RoundTrip.remoteOperation
  | freezeNotice => apply RoundTrip.freezeNotice
  | peerUnreachable => apply RoundTrip.peerUnreachable
  | sequenceExchangeTimeout => apply RoundTrip.sequenceExchangeTimeout
  | drainMarker => apply RoundTrip.drainMarker
  | calendarDark => apply RoundTrip.calendarDark
  | calendarTakeover => apply RoundTrip.calendarTakeover
  | berthTableWrite => apply RoundTrip.berthTableWrite
  | grantChange => apply RoundTrip.grantChange
  | registerWrite => apply RoundTrip.registerWrite
  | loadOverlay => apply RoundTrip.loadOverlay
  | unloadOverlay => apply RoundTrip.unloadOverlay
  | powerOn => apply RoundTrip.powerOn
  | imageAccept => apply RoundTrip.imageAccept
  | bootRetry => apply RoundTrip.bootRetry
  | measurementExtend => apply RoundTrip.measurementExtend
  | quote => apply RoundTrip.quote
  | powerState => apply RoundTrip.powerState
  | temperatureSample => apply RoundTrip.temperatureSample
  | slipStall => apply RoundTrip.slipStall
  | managementInterrupt => apply RoundTrip.managementInterrupt
  | poisonedStorageRelease => apply RoundTrip.poisonedStorageRelease
  | haltAbort => apply RoundTrip.haltAbort
  | illegalWord => apply RoundTrip.illegalWord
  | hostPagingCopyResume => apply RoundTrip.hostPagingCopyResume

/-- A word of well-formed fields is built again from its encoding. -/
theorem build_encodeWord {cx : Ctx} {i : Instr} {g : Guard} {lit : Word96} (hg : guardField i = some g) (hwf : WellFormed cx i)
    (hlit : literalOf i = none ∨ literalOf i = some lit) : build (encodeWord i) lit = some i := by
  have h := roundTrip i
  rw [RoundTrip.Statement, hg] at h
  exact h cx lit hwf hlit

/-- A micro-operation has no guard. -/
theorem guardField_of_isMicro {i : Instr} (h : isMicro i = true) : guardField i = none :=
  Option.not_isSome_iff_eq_none.1 fun hguard => not_issuesAsWord_of_micro h (.inl hguard)

theorem buildMicro_encodeMicro {i : Instr} (h : isMicro i = true) : buildMicro (encodeMicro i) = some i := by
  have hi := roundTrip i
  rwa [RoundTrip.Statement, guardField_of_isMicro h, h] at hi

/-! ## The decoder's checks -/

/-- An opcode that some sequencer issues is decoded by its fields. -/
theorem decode_of_mayIssue {cx : Ctx} {w lit : Word96} {i : Instr} (hmay : mayIssue cx (opcodeOf w).toNat = true)
    (hbuild : build w lit = some i) (henc : encodeWord i = w) (hwf : WellFormed cx i) : decode cx w lit = .ok i := by
  have hissuer := hmay
  unfold mayIssue at hissuer
  unfold decode
  cases h : issuerOf (opcodeOf w).toNat <;> rw [h] at hissuer
  case reserved => exact absurd hissuer nofun
  case marker => exact absurd hissuer nofun
  all_goals simp only [h, hmay, hbuild, henc, hwf, Bool.not_true, Bool.false_eq_true, if_false, ne_eq, not_true_eq_false]

/-- What decodes, exactly (R122). -/
theorem decode_eq_ok_iff {cx : Ctx} {w lit : Word96} {i : Instr} : decode cx w lit = .ok i ↔
    mayIssue cx (opcodeOf w).toNat = true ∧ build w lit = some i ∧ encodeWord i = w ∧ subcode cx i = none :=
  ⟨decode_ok, fun ⟨hmay, hbuild, henc, hwf⟩ => decode_of_mayIssue hmay hbuild henc hwf⟩

theorem decodeMicro_eq_some_iff {w : Word64} {i : Instr} : decodeMicro w = some i ↔ buildMicro w = some i ∧ encodeMicro i = w := by
  unfold decodeMicro
  cases buildMicro w with
  | none => simp
  | some j =>
    simp only [Option.some.injEq]
    grind

/-- Settles O48: the encoding builds its instruction again, and passes the decoder's checks. -/
theorem decodeEncode : Obligations.DecodeEncode := by
  unfold Obligations.DecodeEncode
  refine ⟨fun cx i g lit hg hwf hmay hlit => ?word, fun i hi => ?micro⟩
  case word => exact decode_eq_ok_iff.2 ⟨hmay, build_encodeWord hg hwf hlit, rfl, hwf⟩
  case micro => exact decodeMicro_eq_some_iff.2 ⟨buildMicro_encodeMicro hi, rfl⟩

/-- Settles O49: the fields as `build` reads them, the encoding as the decoder compares it. -/
theorem decodedWordsAreExact : Obligations.DecodedWordsAreExact := by
  unfold Obligations.DecodedWordsAreExact
  refine ⟨fun cx w lit i h => ?word, fun w i h => ?micro⟩
  case word =>
    obtain ⟨hmay, hbuild, henc, hwf⟩ := decode_eq_ok_iff.1 h
    obtain ⟨hguard, hlit⟩ := build_facts w lit i hbuild
    exact ⟨henc, hguard, hwf, hmay, hlit⟩
  case micro => exact ⟨(decodeMicro_eq_some_iff.1 h).2, isMicro_of_decodeMicro h⟩

/-- Settles O47: the decoder's value on each word. -/
theorem wordsDecode : Obligations.WordsDecode := by
  unfold Obligations.WordsDecode sampleWords sampleMicro
  exact ⟨List.forall_iff_forall_mem.1
    ⟨rfl, rfl, rfl, rfl, rfl, rfl, rfl, rfl, rfl, rfl, rfl, rfl, rfl, rfl, rfl, rfl, rfl, rfl, rfl, rfl⟩,
    List.forall_iff_forall_mem.1 ⟨rfl, rfl, rfl, rfl, rfl, rfl⟩⟩

/-! ## Reserved opcodes (R121) -/

theorem reservedOpcode_iff : ∀ op : BitVec 8, reservedOpcode op.toNat ↔ issuerOf op.toNat = .reserved := by
  unfold reservedOpcode
  decide

theorem decode_reserved (cx : Ctx) {w : Word96} (lit : Word96) (h : issuerOf (opcodeOf w).toNat = .reserved) :
    decode cx w lit = .error 0x01 := by
  unfold decode
  dsimp only
  rw [h]

/-- The checks of a word's fields answer the subcodes 0x05 to 0x0A. -/
theorem subcode_ge {cx : Ctx} {i : Instr} {c : BitVec 8} (h : subcode cx i = some c) : 0x05 ≤ c := by
  unfold subcode at h
  split_ifs at h <;> cases h <;> decide

/-- Subcode 0x01 is of reserved opcodes alone. -/
theorem decode_error_one {cx : Ctx} {w lit : Word96} (h : decode cx w lit = .error 0x01) : issuerOf (opcodeOf w).toNat = .reserved := by
  unfold decode at h
  dsimp only at h
  split at h
  case h_1 hissuer => exact hissuer
  case h_2 => cases h
  case h_3 =>
    split at h
    · cases h
    split at h
    · cases h
    next i _ =>
      split at h
      · cases h
      split at h
      case h_1 c hc =>
        cases h
        exact absurd (subcode_ge hc) (by decide)
      case h_2 => cases h

theorem decode_error_one_iff {cx : Ctx} {w lit : Word96} : decode cx w lit = .error 0x01 ↔ issuerOf (opcodeOf w).toNat = .reserved :=
  ⟨decode_error_one, decode_reserved cx lit⟩

/-- What decodes at a sequencer's place stands there. -/
theorem decodeAt_ok {s : State} {core : Nat} {q : SeqId} {p : Place} {i : Instr} (hp : p = (s.seq core q).at_) (hpend : p.pend = none)
    (h : decode (ctxAt s core q) (s.mem.iword p.pc) (s.mem.iword (p.pc + 3)) = .ok i) : decodeAt s core q = i := by
  subst hp
  simp only [decodeAt, hpend, h]

/-- What is refused there stands as the event of its subcode. -/
theorem decodeAt_error {s : State} {core : Nat} {q : SeqId} {p : Place} {sub : BitVec 8} (hp : p = (s.seq core q).at_)
    (hpend : p.pend = none) (h : decode (ctxAt s core q) (s.mem.iword p.pc) (s.mem.iword (p.pc + 3)) = .error sub) :
    decodeAt s core q = .illegalWord sub := by
  subst hp
  simp only [decodeAt, hpend, h]

/-! ## Refused words (R122, R204) -/

theorem exec_illegalWord {s v : State} (sub : BitVec 8) (hrun : s.consistOf s.cur.1 = some s.curCons) (hv : v = performDue s s.curCons)
    (hchecks : firstFaults v = []) :
    exec (.illegalWord sub) s = .next { raise s s.curCons (v.mkFault .illegal sub 0) with note := .faulted (v.mkFault .illegal sub 0) } :=
  issueN_faults (g := ⟨0, 0, 0⟩) ⟨hrun, hv, hchecks, rfl⟩ (run_fault ..)

/-- Settles O50: the opcodes by the range that issues each, the word by its decoding, the event by its work. -/
theorem reservedOpcodes : Obligations.ReservedOpcodes := by
  unfold Obligations.ReservedOpcodes
  refine ⟨fun cx w lit => ?opcodes, fun s core q p hp hpend hop => ?place, fun s v hrun hv hchecks => ?fault⟩
  case opcodes => rw [reservedOpcode_iff, decode_error_one_iff]
  case place => exact decodeAt_error hp hpend (decode_reserved _ _ ((reservedOpcode_iff _).1 hop))
  case fault => exact exec_illegalWord 0x01 hrun hv hchecks

/-- Settles O42: the fault of the refused word as `State.mkFault` makes it. -/
theorem illegalWordFaults : Obligations.IllegalWordFaults := by
  unfold Obligations.IllegalWordFaults
  intro s v sub hrun hv hchecks
  exact ⟨_, exec_illegalWord sub hrun hv hchecks, rfl, rfl, rfl, rfl, rfl⟩

end Sys2Proof.Laws
end

section
/-! SUPPORT. A step of the machine where one thing is due (R107, R122, log 4), and O51. -/
namespace Sys2Proof.Laws
open Sys2Proof Sys2Proof.Machine
-- In order: each thread of an elaboration in parallel reserves its stack, and the text is long.
set_option Elab.async false

/-- A word tried by itself leaves the note that running it leaves. -/
theorem tryWords_singleton (k : Nat) (w : Nat × SeqId) (s : State) : ∃ causes, tryWords k [w] s =
    [⟨w, decodeAt s w.1 w.2, noteOf (decodeAt s w.1 w.2) { s with cur := w, note := .none }, causes⟩] := by
  simp only [tryWords, noteOf]
  cases exec (decodeAt s w.1 w.2) { s with cur := w, note := .none } with
  | next t => cases h : t.note <;> simp only [h] <;> exact ⟨_, rfl⟩
  | _ => exact ⟨_, rfl⟩

section OneWord
variable {s : State} {k : Nat} {w : Nat × SeqId} (hdue : dueWords s k = [w]) (hdetected : detected s k = [])
  (hlate : lateItems s k = []) (htakeable : takeable s k = false)
include hdue hdetected hlate htakeable

/-- One word that is due, whether it issues, holds or faults, is what runs. -/
theorem runMove_one : runMove s k = some (.run (decodeAt s w.1 w.2) { s with cur := w, note := .none }) := by
  obtain ⟨causes, htries⟩ := tryWords_singleton k w s
  unfold runMove
  rw [hdue, htries, hdetected, hlate, htakeable]
  cases hnote : noteOf (decodeAt s w.1 w.2) { s with cur := w, note := .none } with
  | none => rfl
  | issued => rfl
  | held =>
    show some (holdOn s k _) = _
    rw [holdOn, if_pos hnote]
  | faulted f =>
    have found : List.find? (fun t : Try => t.note == .faulted f) [⟨w, decodeAt s w.1 w.2, .faulted f, causes⟩] =
        some ⟨w, decodeAt s w.1 w.2, .faulted f, causes⟩ := List.find?_cons_of_pos (beq_self_eq_true (Note.faulted f))
    show (match List.find? (fun t : Try => t.note == .faulted f) [⟨w, decodeAt s w.1 w.2, .faulted f, causes⟩] with
      | some t => some (faultOn s k t f)
      | none => _) = _
    rw [found]
    show some (faultOn s k _ f) = _
    rw [faultOn, if_pos hnote]

end OneWord

theorem consMove_run {s : State} {k : Nat} (hmode : (s.cons k).mode = .run) (hslip : slipStalled s (s.cons k) = false)
    (hstalled : s.stalled = false) (hrun : s.sequencers = true) (henter : mustEnter s k = false) : consMove s k = runMove s k := by
  simp [consMove, hmode, hslip, hstalled, hrun, henter]

/-- An event of the outside goes first. -/
theorem pick_input {s : State} {i : Instr} {l : List Instr} (h : s.inputs = i :: l) : pick s = .run i { s with inputs := l } := by
  simp only [pick, h]

section Quiet
variable {s : State} (hinputs : s.inputs = []) (hdisp : dispatcherEvent s = none) (hunit : unitEvent s = none) (hsbox : sboxMove s = none)
include hinputs hdisp hunit hsbox

/-- Then the micro-operation that is due. -/
theorem pick_micro {x : Nat} {w : Word64} {i : Instr} (hmicro : dueMicro s = some (x, some w)) (hdecode : decodeMicro w = some i) :
    pick s = .run i { s with cur := (x, .xs) } := by
  simp only [pick, hinputs, hdisp, hunit, hsbox, microMove, hmicro, hdecode, Option.orElse]

/-- Then the first consist that has a move, where no fence's answer has gone stale. -/
theorem pick_consist {k : Nat} {before after : List Nat} {m : Move} (hmicro : dueMicro s = none)
    (hstale : ∀ j ∈ consIds s, fencesStale s j = false) (hids : consIds s = before ++ k :: after)
    (hbefore : ∀ j ∈ before, consMove s j = none) (hmove : consMove s k = some m) : pick s = m := by
  have fences : (consIds s).find? (fencesStale s) = none := List.find?_eq_none.2 fun j hj => by simp [hstale j hj]
  have first : (consIds s).findSome? (consMove s) = some m := by
    rw [hids, List.findSome?_append, List.findSome?_eq_none_iff.2 hbefore, List.findSome?_cons, hmove, Option.none_or]
  simp only [pick, hinputs, hdisp, hunit, hsbox, microMove, hmicro, Option.orElse, fences, first]

end Quiet

theorem step_of_pick_run {s u : State} {i : Instr} (h : pick s = .run i u) : step s = exec i u := by
  simp only [step, h]

/-- Settles O51: each move by what is due. -/
theorem stepRunsDecoded : Obligations.StepRunsDecoded := by
  unfold Obligations.StepRunsDecoded
  refine ⟨fun s i l h => step_of_pick_run (pick_input h), fun s hinputs hdisp hunit hsbox =>
    ⟨fun x w i hmicro hdecode => step_of_pick_run (pick_micro hinputs hdisp hunit hsbox hmicro hdecode), ?word⟩⟩
  case word =>
    intro k core q p before after hmicro hstale hids hbefore hrun hmode hslip hstalled henter hdue hdetected hlate htakeable hp hpend
    have move := (consMove_run hmode hslip hstalled hrun henter).trans (runMove_one hdue hdetected hlate htakeable)
    have stepped := step_of_pick_run (pick_consist hinputs hdisp hunit hsbox hmicro hstale hids hbefore move)
    exact ⟨fun i h => stepped.trans (by rw [decodeAt_ok hp hpend h]), fun sub h => stepped.trans (by rw [decodeAt_error hp hpend h])⟩

end Sys2Proof.Laws
end

section
/-! SUPPORT. The scalar words by their tables (R124, R382, R388-R392), and O1. -/
namespace Sys2Proof.Laws
open Sys2Proof Sys2Proof.Machine Sys2Proof.Claims
-- In order: each thread of an elaboration in parallel reserves its stack, and the text is long.
set_option Elab.async false

/-! ## Words of one, two and three sources -/

/-- The word computes f of one source. -/
def UnWord (word : Guard → BitVec 6 → BitVec 6 → Instr) (lat : Nat) (f : Word64 → Word64) : Prop :=
  ∀ g d a s, exec (word g d a) s = issueFall g (skip lat [.sSrc a, .sDst d]) (unAct lat f d a) s

/-- The word computes f of two sources. -/
def BinWord (word : Guard → BitVec 6 → BitVec 6 → BitVec 6 → Instr) (lat : Nat) (f : Word64 → Word64 → Word64) : Prop :=
  ∀ g d a b s, exec (word g d a b) s = issueFall g (skip lat [.sSrc a, .sSrc b, .sDst d]) (binAct lat f d a b) s

/-- The word computes f of three sources. -/
def TerWord (word : Guard → BitVec 6 → BitVec 6 → BitVec 6 → BitVec 6 → Instr) (lat : Nat)
    (f : Word64 → Word64 → Word64 → Word64) : Prop :=
  ∀ g d a b c s, exec (word g d a b c) s = issueFall g (skip lat [.sSrc a, .sSrc b, .sSrc c, .sDst d]) (terAct lat f d a b c) s

/-- A SALU word and the SALUI word of the same fn (R388). -/
def SaluWords (row : (Guard → BitVec 6 → BitVec 6 → BitVec 6 → Instr) × (Guard → BitVec 6 → BitVec 6 → BitVec 48 → Instr) × Nat ×
    (Word64 → Word64 → Word64)) : Prop :=
  BinWord row.1 row.2.2.1 row.2.2.2 ∧
    ∀ imm : BitVec 48, UnWord (fun g d a => row.2.1 g d a imm) row.2.2.1 fun x => row.2.2.2 x (imm.signExtend 64)

section Forms
variable {lat : Nat}

theorem unWord_eq {word : Guard → BitVec 6 → BitVec 6 → Instr} {f f' : Word64 → Word64} (hf : f = f') (h : UnWord word lat f) :
    UnWord word lat f' := hf ▸ h

theorem binWord_eq {word : Guard → BitVec 6 → BitVec 6 → BitVec 6 → Instr} {f f' : Word64 → Word64 → Word64} (hf : f = f')
    (h : BinWord word lat f) : BinWord word lat f' := hf ▸ h

theorem saluWords_eq {word : Guard → BitVec 6 → BitVec 6 → BitVec 6 → Instr} {wordI : Guard → BitVec 6 → BitVec 6 → BitVec 48 → Instr}
    {f f' : Word64 → Word64 → Word64} (hf : f = f') (h : BinWord word lat f)
    (hI : ∀ imm : BitVec 48, UnWord (fun g d a => wordI g d a imm) lat fun x => f x (imm.signExtend 64)) :
    SaluWords (word, wordI, lat, f') := hf ▸ ⟨h, hI⟩

end Forms

/-! ## The tables -/

theorem saluTable_words : ∀ row ∈ saluTable, SaluWords row := by
  refine List.forall_iff_forall_mem.1 ⟨saluWords_eq rfl ?_ ?_, saluWords_eq rfl ?_ ?_, saluWords_eq rfl ?_ ?_, saluWords_eq rfl ?_ ?_,
    saluWords_eq rfl ?_ ?_, saluWords_eq rfl ?_ ?_, saluWords_eq aluFn_shl ?_ ?_, saluWords_eq aluFn_shr ?_ ?_,
    saluWords_eq aluFn_sar ?_ ?_, saluWords_eq aluFn_rol ?_ ?_, saluWords_eq aluFn_min ?_ ?_, saluWords_eq aluFn_max ?_ ?_,
    saluWords_eq aluFn_minu ?_ ?_, saluWords_eq aluFn_maxu ?_ ?_, saluWords_eq rfl ?_ ?_, saluWords_eq aluFn_mulh ?_ ?_,
    saluWords_eq aluFn_mulhu ?_ ?_, saluWords_eq aluFn_seq ?_ ?_, saluWords_eq aluFn_sne ?_ ?_, saluWords_eq aluFn_slt ?_ ?_,
    saluWords_eq aluFn_sltu ?_ ?_⟩
  all_goals exact fun _ _ _ _ _ => rfl

theorem scalar2Table_words : ∀ row ∈ scalar2Table, BinWord row.1 row.2.1 row.2.2 := by
  refine List.forall_iff_forall_mem.1 ⟨binWord_eq aluFn_div ?_, binWord_eq aluFn_divu ?_, binWord_eq aluFn_rem ?_, binWord_eq aluFn_remu ?_,
    ?_, ?_, ?_, ?_, ?_, ?_, binWord_eq aluFn_fpeq ?_, binWord_eq aluFn_fplt ?_, binWord_eq aluFn_fple ?_⟩
  all_goals exact fun _ _ _ _ _ => rfl

theorem scalar1Table_words : ∀ row ∈ scalar1Table, UnWord row.1 row.2.1 row.2.2 := by
  refine List.forall_iff_forall_mem.1 ⟨unWord_eq aluFn_clz ?_, unWord_eq aluFn_ctz ?_, unWord_eq aluFn_pop ?_, ?_, ?_, ?_⟩
  all_goals exact fun _ _ _ _ => rfl

theorem scalar3Table_words : ∀ row ∈ scalar3Table, TerWord row.1 row.2.1 row.2.2 :=
  List.forall_iff_forall_mem.1 ⟨fun _ _ _ _ _ _ => rfl, fun _ _ _ _ _ _ => rfl⟩

/-! ## Their results -/

theorem saluResult : Claims.SaluResult := by
  intro row hrow g d a b s v v1 v2 v3 x y e h ha hb hd
  rw [(saluTable_words row hrow).1]
  exact issueFall_completes h (run_binAct ha hb hd)

theorem saluiResult : Claims.SaluiResult := by
  intro row hrow g d a imm s v v1 v2 x e h ha hd
  rw [(saluTable_words row hrow).2 imm]
  exact issueFall_completes h (run_unAct ha hd)

theorem divideAndFloatResult : Claims.DivideAndFloatResult := by
  intro row hrow g d a b s v v1 v2 v3 x y e h ha hb hd
  rw [scalar2Table_words row hrow]
  exact issueFall_completes h (run_binAct ha hb hd)

theorem oneAndThreeSourceResult : Claims.OneAndThreeSourceResult := by
  refine ⟨fun row hrow g d a s v v1 v2 x e h ha hd => ?one, fun row hrow g d a b c s v v1 v2 v3 v4 x y z e h ha hb hc hd => ?three⟩
  case one =>
    rw [scalar1Table_words row hrow]
    exact issueFall_completes h (run_unAct ha hd)
  case three =>
    rw [scalar3Table_words row hrow]
    exact issueFall_completes h (run_terAct ha hb hc hd)

/-! ## PSET (R382) -/

/-- A predicate result, pushed too where the word says so. -/
theorem run_psetAct {v t : State} {d c : BitVec 6} {r : Bool} (h : PsetEnds v d c r t) : (psetAct d c r).run v = .ok ((), t) := by
  unfold PsetEnds at h
  unfold psetAct writeP
  rw [run_bind_ok (run_result ..)]
  by_cases hpush : c.getLsbD 0 = true
  · rw [if_pos hpush] at h ⊢
    obtain ⟨id, u, hq, rfl⟩ := h
    have queue : (match v.cur.2 with | .as => 5 | .xs => 4) = bqOut v := by
      unfold bqOut
      cases v.cur.2 <;> rfl
    rw [run_bind_ok (run_get _)]
    show (pushQ (match v.cur.2 with | .as => 5 | .xs => 4) >>= fun id =>
      result 1 (.fill (match v.cur.2 with | .as => 5 | .xs => 4) id (.val (boolWord r)))).run _ = _
    rw [queue, run_bind_ok hq, run_result]
    rfl
  · rw [if_neg hpush] at h ⊢
    rw [h, run_pure]

theorem run_psetPred {v t : State} {f : Bool → Bool → Bool} {d a b c : BitVec 6}
    (h : PsetEnds v d c (f ((v.seq v.cur.1 v.cur.2).pred (a.setWidth 4)) ((v.seq v.cur.1 v.cur.2).pred (b.setWidth 4))) t) :
    (psetPred f d a b c).run v = .ok ((), t) := by
  unfold psetPred readP
  rw [run_bind_ok (run_bind_ok (run_getSeq v) _), run_bind_ok (run_bind_ok (run_getSeq v) _), run_psetAct h]

theorem run_psetCmp {v v1 v2 t : State} {f : Word64 → Word64 → Bool} {d a b c : BitVec 6} {x y : Word64} (ha : ReadsS v a x v1)
    (hb : ReadsS v1 b y v2) (h : PsetEnds v2 d c (f x y) t) : (psetCmp f d a b c).run v = .ok ((), t) := by
  rw [psetCmp, run_bind_ok ha, run_bind_ok hb, run_psetAct h]

theorem psetPredTable_words : ∀ row ∈ psetPredTable, ∀ g d a b c s, exec (row.1 g d a b c) s =
    issueFall g (skip 1 (pushRoles c)) (psetPred row.2 d a b c) s :=
  List.forall_iff_forall_mem.1 ⟨fun _ _ _ _ _ _ => rfl, fun _ _ _ _ _ _ => rfl, fun _ _ _ _ _ _ => rfl, fun _ _ _ _ _ _ => rfl⟩

theorem condNe_eq : condNe = fun (a b : Word64) => decide (a ≠ b) := by
  funext a b
  by_cases h : a = b <;> simp [condNe, h]

theorem condGe_eq : condGe = fun (a b : Word64) => decide (b.toInt ≤ a.toInt) := by
  funext a b
  simp only [condGe, BitVec.slt, ← decide_not, Int.not_lt]

theorem condGeu_eq : condGeu = fun (a b : Word64) => decide (b.toNat ≤ a.toNat) := by
  funext a b
  simp only [condGeu, BitVec.ult, ← decide_not, Nat.not_lt]

/-- The word compares two sources by f. -/
def CmpWord (word : Guard → BitVec 6 → BitVec 6 → BitVec 6 → BitVec 6 → Instr) (f : Word64 → Word64 → Bool) : Prop :=
  ∀ g d a b c s, exec (word g d a b c) s = issueFall g (skip 1 ([.sSrc a, .sSrc b] ++ pushRoles c)) (psetCmp f d a b c) s

theorem cmpWord_eq {word : Guard → BitVec 6 → BitVec 6 → BitVec 6 → BitVec 6 → Instr} {f f' : Word64 → Word64 → Bool} (hf : f = f')
    (h : CmpWord word f) : CmpWord word f' := hf ▸ h

theorem psetCmpTable_words : ∀ row ∈ psetCmpTable, CmpWord row.1 row.2 := by
  refine List.forall_iff_forall_mem.1 ⟨?_, cmpWord_eq condNe_eq ?_, ?_, ?_, cmpWord_eq condGe_eq ?_, cmpWord_eq condGeu_eq ?_⟩
  all_goals exact fun _ _ _ _ _ _ => rfl

theorem psetResult : Claims.PsetResult := by
  refine ⟨fun row hrow g d a b c s v t h he => ?predicates, fun row hrow g d a b c s v v1 v2 t x y h ha hb he => ?scalars⟩
  case predicates =>
    rw [psetPredTable_words row hrow]
    exact issueFall_completes h (run_psetPred he)
  case scalars =>
    rw [psetCmpTable_words row hrow]
    exact issueFall_completes h (run_psetCmp ha hb he)

/-- Settles O1: each form by its table. -/
theorem scalarResults : Obligations.ScalarResults :=
  ⟨saluResult, saluiResult, divideAndFloatResult, oneAndThreeSourceResult, psetResult⟩

end Sys2Proof.Laws
end

section
/-! SUPPORT. The control and system words (R44, R345, R348, R357, R376, R377, R387, R406) and the words that put a register in flight
(R114, R226, R340, R365, R397, R405, R407): what their work comes to, and O3 and O4. -/
namespace Sys2Proof.Laws
open Sys2Proof Sys2Proof.Machine Sys2Proof.Claims
-- In order: each thread of an elaboration in parallel reserves its stack, and the text is long.
set_option Elab.async false

/-! ## HALT, RFT and CARDONE (R345, R357, R387) -/

/-- The consist stops at the next cycle, and each of its cores' traces says so. -/
theorem run_haltAct {v : State} {c : Consist} (hc : c = v.cons v.curCons) (hno : c.trapT = none) (hnext : c.next = none) :
    haltAct.run v = .ok ((), c.cores.foldl (fun w core => traceEvent w core 2 0
      (FaultClass.software.code * 2 ^ 32 + (v.seq v.cur.1 v.cur.2).at_.pc % 2 ^ 25) c.ttc) (v.setCons v.curCons { c with next := some .halted })) := by
  subst hc
  have fresh : ¬ (v.cons v.curCons).next = some .halted := by rw [hnext]; nofun
  rw [haltAct, run_bind_ok (run_notInHandler hno), run_bind_ok (run_get v)]
  dsimp only
  rw [if_neg fresh, run_set]

theorem run_rftAct {v : State} (h : (v.cons v.curCons).trapT.isSome = true) : rftAct.run v = .ok (.stop .rft, v) := by
  rw [rftAct, run_bind_ok (run_inHandler v), run_bind_ok (run_need h ..), run_pure]

theorem run_cardoneAct {v : State} (hno : NoHandler v) (hempty : queuesEmpty (v.core v.cur.1) = true) :
    cardoneAct.run v = .ok (.stop .cardone, traceFlush v v.cur.1) := by
  rw [cardoneAct, run_bind_ok (run_notInHandler hno), run_bind_ok (run_getCore v), run_bind_ok (run_need hempty ..),
    run_bind_ok (run_modify ..), run_pure]

theorem controlWords : Claims.ControlWords := by
  rintro g s v _ h rfl
  refine ⟨issueFall_completes h (run_pure () v), issueFall_completes h (run_modify ..), issueFall_completes h (run_modify ..),
    fun hno hnext => ?halt, fun htrap => ?rft, fun hno hempty => ?cardone⟩
  case halt => exact issueFall_completes h (run_haltAct rfl hno hnext)
  case rft => exact issue_completes h (run_rftAct htrap) nofun
  case cardone => exact issue_completes h (run_cardoneAct hno hempty) nofun

/-! ## OVLY and DLAUNCH (R44, R348, R377) -/

/-- The state in which the consist comes to a task boundary at the next cycle, for the overlay that OVLY names. -/
def overlaying (w : State) (n : BitVec 16) : State :=
  traceFlush (w.setCons w.curCons { w.cons w.curCons with next := some (.boundary (some n) (w.cons w.curCons).ttc) }) w.cur.1

theorem run_ovlyAct {w : State} {n : Word64} {o : Overlay} (hno : NoHandler w) (hn : n.toNat < 65536) (hagree : othersAgree w n = true)
    (hloaded : w.overlay? (w.cons w.curCons).part (n.setWidth 16) = some o) (hfits : overlayFits w (w.cons w.curCons) o = true) :
    (ovlyAct n).run w = .ok (.stop (.ovly (n.setWidth 16)), overlaying w (n.setWidth 16)) := by
  rw [ovlyAct, run_bind_ok (run_notInHandler hno), run_bind_ok (run_need (decide_eq_true hn) ..), run_bind_ok (run_get w)]
  dsimp only
  rw [hloaded]
  dsimp only
  rw [hagree, hfits, Bool.true_and, run_bind_ok (run_need_true ..), run_bind_ok (run_set ..), run_pure]
  rfl

theorem run_ovlySAct {v w : State} {a : BitVec 6} {n : Word64} (hr : ReadsS v a n w) : (ovlySAct a).run v = (ovlyAct n).run w := by
  rw [ovlySAct, run_bind_ok hr]

/-- The packet is read d + 4 cycles on, and the dispatcher's answer awaited. -/
theorem run_dlaunchAct {v v1 v2 : State} {d a : BitVec 6} {x : Word64} {e : Effect} (hr : ReadsS v a x v1) (halign : x.toNat % 64 = 0)
    (hfits : x.toNat + 128 ≤ 0x100000) (hd : TakesS v1 d 0 e v2) : (dlaunchAct d a).run v = .ok ((),
      flying (awaiting v2 (2 * v1.dist cDie hDie + 24) 2 e) (v1.dC v1.cur.1 + 4) (.launch x.toNat v2.nextId)) := by
  have packet := Bool.and_eq_true_iff.2 ⟨decide_eq_true halign, decide_eq_true hfits⟩
  rw [dlaunchAct, run_bind_ok hr, run_bind_ok (run_need packet ..), run_bind_ok (run_get v1), run_bind_ok (run_awaitS hd ..), run_result]

theorem overlayAndLaunch : Claims.OverlayAndLaunch := by
  intro g s v h ends may
  refine ⟨fun imm hmay => ?number, fun a n w hr hmay => ?register, fun d a x e v1 v2 hr halign hfits hd => ?launch⟩
  case number =>
    obtain ⟨hno, hn, hagree, o, hloaded, hfits⟩ := hmay
    have low : (imm.setWidth 64).setWidth 16 = imm.setWidth 16 := BitVec.setWidth_setWidth_of_le imm (by decide)
    exact low ▸ issue_completes h (run_ovlyAct hno hn hagree hloaded hfits) nofun
  case register =>
    obtain ⟨hno, hn, hagree, o, hloaded, hfits⟩ := hmay
    exact issue_completes h ((run_ovlySAct hr).trans (run_ovlyAct hno hn hagree hloaded hfits)) nofun
  case launch => exact issueFall_completes h (run_dlaunchAct hr halign hfits hd)

/-- Settles O3: each word by its work. -/
theorem systemWords : Obligations.SystemWords := ⟨controlWords, overlayAndLaunch⟩

/-! ## Registers in flight -/

theorem run_caddIAct (d a : BitVec 6) (imm : BitVec 32) (v : State) : (caddIAct (d.setWidth 4) (a.setWidth 4) imm).run v =
    .ok ((), flying v 1 (.setX (d.setWidth 4) ((v.core v.cur.1).xreg (a.toNat % 16) + imm))) := by
  rw [caddIAct, run_bind_ok (run_getCore v), run_result, BitVec.toNat_setWidth]

theorem run_caddSAct {v w : State} {a : BitVec 6} {x : Word64} (hr : ReadsS v a x w) (d : BitVec 6) : (caddSAct (d.setWidth 4) a).run v =
    .ok ((), flying w 1 (.setX (d.setWidth 4) ((w.core w.cur.1).xreg (d.toNat % 16) + x.setWidth 32))) := by
  rw [caddSAct, run_bind_ok hr, run_bind_ok (run_getCore w), run_result, BitVec.toNat_setWidth]

theorem run_toksetXAct {v w : State} {d : BitVec 6} {t : BitVec 5} {e : Effect} (n : BitVec 16)
    (hd : TakesS v d (((v.core v.cur.1).token t).setWidth 64) e w) :
    (toksetXAct d t n).run v = .ok ((), flying (flying w 1 e) 1 (.tokSet t n)) := by
  rw [toksetXAct, run_bind_ok (run_getCore v), run_bind_ok (run_writeS hd 1), toksetAct, run_result]

/-- A status entry is read as it is. -/
theorem run_tstatAct {v w : State} {d : BitVec 6} {n : Nat} {e : Effect} (hn : n ≠ 16)
    (hd : TakesS v d (Tbl.get 0 (v.core v.cur.1).status n) e w) : (tstatAct d n).run v = .ok ((), flying w 2 e) := by
  rw [tstatAct, run_bind_ok (run_getCore v), run_bind_ok (run_getTtc v), if_neg hn, run_writeS hd]

/-- Entry 16, the saturations, is clear once it has been read. -/
theorem run_tstatAct_sat {v w : State} {d : BitVec 6} {n : Nat} {e : Effect} (hn : n = 16)
    (hd : TakesS v d ((v.core v.cur.1).readSat v.ttc).1 e w) : (tstatAct d n).run v =
      .ok ((), (flying w 2 e).setCore w.cur.1 (((flying w 2 e).core w.cur.1).readSat v.ttc).2) := by
  rw [tstatAct, run_bind_ok (run_getCore v), run_bind_ok (run_getTtc v), if_pos hn, run_bind_ok (run_writeS hd 2), run_modCore]
  rfl

/-- Settles O4: each word by its work. -/
theorem registerWords : Obligations.RegisterWords := by
  unfold Obligations.RegisterWords
  intro g s v h
  refine ⟨fun d lit e w hd => ?lit, fun d reg e w hd => ?sysr, fun a reg x w hr => ?sysw, fun d imm => ?csetI, fun d a x w hr => ?csetS,
    fun d a imm => ?caddI, fun d a x w hr => ?caddS, fun a imm => ?toksetI, fun d a imm e w hd => ?toksetX, fun d a e w hn hd => ?tstat,
    fun d a e w hn hd => ?tstatSat⟩
  case lit => exact issueN_completes h (run_bind_ok (run_writeS hd 1) _) nofun
  case sysr => exact issueFall_completes h ((run_bind_ok (run_get v) _).trans (run_writeS hd 2))
  case sysw => exact issueFall_completes h (run_bind_ok hr _)
  case csetI => exact issueFall_completes h (run_result ..)
  case csetS => exact issueFall_completes h (run_bind_ok hr _)
  case caddI => exact issueFall_completes h (run_caddIAct ..)
  case caddS => exact issueFall_completes h (run_caddSAct hr d)
  case toksetI => exact issueFall_completes h (run_result ..)
  case toksetX => exact issueFall_completes h (run_toksetXAct _ hd)
  case tstat => exact issueFall_completes h (run_tstatAct hn hd)
  case tstatSat => exact issueFall_completes h (run_tstatAct_sat hn hd)

end Sys2Proof.Laws
end

section
/-! SUPPORT. Where control stands after a word (R41, R107, R336, R366-R369), and O8. -/
namespace Sys2Proof.Laws
open Sys2Proof Sys2Proof.Machine Sys2Proof.Claims
-- In order: each thread of an elaboration in parallel reserves its stack, and the text is long.
set_option Elab.async false

/-- The state with the issuing sequencer at a place. -/
def placed (v : State) (p : Place) : State := v.setSeq v.cur.1 v.cur.2 { v.seq v.cur.1 v.cur.2 with at_ := p }

theorem at_placed (v : State) (p : Place) : ((placed v p).seq v.cur.1 v.cur.2).at_ = p := by
  rw [placed, seq_setSeq]

theorem movedOn_of_run {n : Nat} {ctl : Ctl} {v w : State} (h : (advance n ctl).run v = .ok ((), w)) : movedOn n ctl v = w := by
  rw [movedOn, h]

/-! ## Results put in flight -/

theorem mem_latches_flying (w : State) (lat : Nat) (e : Effect) :
    newLatch w lat e none none ∈ ((flying w lat e).cons w.curCons).latches := by
  rw [flying, withLatch_cons]
  exact List.mem_append_right _ (List.mem_singleton_self _)

theorem latches_subset_flying (w : State) (lat : Nat) (e : Effect) :
    (w.cons w.curCons).latches ⊆ ((flying w lat e).cons w.curCons).latches := by
  rw [flying, withLatch_cons]
  exact List.subset_append_left ..

/-! ## Loops that go round (R367) -/

/-- The state once a loop's counter, and for LOOP.L its level's index, have been stepped. -/
def rounding (w : State) (l : Loop) (count : BitVec 16) : State :=
  let u := flying w 1 (.setLc l.counter (count - 1))
  match l.level with
  | some k => flying u 1 (.setLvl k (Tbl.get 0 (w.core w.cur.1).lvl k + 1))
  | none => u

theorem seq_rounding (w : State) (l : Loop) (count : BitVec 16) (c : Nat) (q : SeqId) : (rounding w l count).seq c q = w.seq c q := by
  unfold rounding
  split <;> rfl

/-- The counter's step is due in the next cycle. -/
theorem latch_rounding (w : State) (l : Loop) (count : BitVec 16) : ∃ x ∈ ((rounding w l count).cons w.curCons).latches,
    x.eff = .setLc l.counter (count - 1) ∧ x.due = w.ttc + 1 ∧ x.core = w.cur.1 ∧ x.seq = w.cur.2 := by
  refine ⟨newLatch w 1 (.setLc l.counter (count - 1)) none none, ?_, rfl, rfl, rfl, rfl⟩
  have step := mem_latches_flying w 1 (.setLc l.counter (count - 1))
  unfold rounding
  split
  · exact latches_subset_flying (flying w 1 _) 1 _ step
  · exact step

/-! ## Where control goes -/

section Straight
variable {v : State} {p : Place} (hp : p = (v.seq v.cur.1 v.cur.2).at_) (n : Nat)
include hp

/-- A word in REPEAT issues again. -/
theorem movedOn_again {m : Nat} (hrep : p.rep = some (m + 2)) :
    movedOn n .fall v = placed v { p with base := v.ttc + 1, first := false, rep := some (m + 1), req := none } := by
  subst hp
  apply movedOn_of_run
  simp only [advance, run_bind, run_getTtc, run_getSeq, hrep, run_modSeq]
  rfl

variable (hrep : p.rep = none ∨ p.rep = some 1)
include hrep

/-- At no loop's end, a word's REPEAT out, control falls to what is next, skips words or begins a REPEAT. -/
theorem movedOn_straight (hloops : ∀ l ∈ p.loops, l.last ≠ p.after n) :
    movedOn n .fall v = placed v ({ p with req := none }.toNext (p.after n) v.ttc) ∧
    (∀ m, movedOn n (.skip m) v = placed v ({ p with req := none }.toNext (p.after n + 3 * m) v.ttc)) ∧
    ∀ m, movedOn n (.times m) v = placed v { p with pc := p.after n, base := v.ttc + 1, first := false, rep := some m, req := none } := by
  subst hp
  have test := loopTest_none (v.seq v.cur.1 v.cur.2) _ _ hloops
  simp only [Place.after] at test ⊢
  refine ⟨movedOn_of_run ?_, fun m => movedOn_of_run ?_, fun m => movedOn_of_run ?_⟩
  all_goals
    obtain hrep | hrep := hrep <;> simp only [advance, run_bind, run_getTtc, run_getSeq, hrep, Place.after, test, run_modSeq] <;> rfl

/-- At its end word a loop whose counter is not zero goes round. -/
theorem movedOn_round {l : Loop} {ls : List Loop} (hls : p.loops = l :: ls) (hlast : l.last = p.after n)
    (hcount : Tbl.get 0 (v.seq v.cur.1 v.cur.2).lc l.counter ≠ 0) : movedOn n .fall v =
      rounding (placed v { p with pc := l.first, base := v.ttc + 1, first := false, rep := none, req := none }) l
        (Tbl.get 0 (v.seq v.cur.1 v.cur.2).lc l.counter) := by
  subst hp
  have test : loopTest (v.seq v.cur.1 v.cur.2) (Place.after (v.seq v.cur.1 v.cur.2).at_ n) (l :: ls) = (l :: ls, some l) := by
    rw [loopTest, if_pos hlast, if_neg hcount]
  apply movedOn_of_run
  simp only [Place.after] at test
  obtain hrep | hrep := hrep <;>
    simp only [advance, run_bind, run_getTtc, run_getSeq, hrep, Place.after, hls, test, run_modSeq, run_result, rounding] <;>
    cases l.level <;> rfl

end Straight

theorem controlPasses : ControlPasses := by
  intro n v p hp hstart
  refine ⟨fun hdr => ?goto, fun m hm => ?again, fun hrep hloops => ?straight⟩
  case goto =>
    dsimp only
    rw [movedOn_goto, seq_setSeq, ← hp]
    rfl
  case again => exact (congrArg (fun w => (State.seq w v.cur.1 v.cur.2).at_) (movedOn_again hp n hm)).trans (at_placed ..)
  case straight =>
    obtain ⟨fall, skip, times⟩ := movedOn_straight hp n hrep hloops
    refine ⟨fun hin => ?next, fun hout => ?section_, fun m hin => ?skip, fun m => ?times⟩ <;> dsimp only
    case next => rw [fall, at_placed, Place.toNext, Place.after, if_pos hin]
    case section_ => rw [fall, at_placed, Place.toNext, Place.after, if_neg (Nat.not_lt.2 hout)]; rfl
    case skip => rw [skip, at_placed, Place.toNext, Place.after, if_pos hin]
    case times => rw [times, at_placed, Place.after]

theorem loopGoesRound : LoopGoesRound := by
  intro n v q l ls hq hls hlast hcount hrep
  subst hq
  rw [movedOn_round rfl n hrep hls hlast hcount, seq_rounding, at_placed]
  refine ⟨rfl, rfl, hls, ?_⟩
  obtain ⟨x, hx, heff, hdue, hcore, hseq⟩ := latch_rounding (placed v _) l _
  refine ⟨x, ?_, heff, hdue.trans (congrArg (· + 1) (ttc_setSeq ..)), hcore, hseq⟩
  rwa [placed, curCons_setSeq] at hx

/-- Settles O8: a word outside loops' ends by what it asks for, a loop by its counter. -/
theorem controlFlow : Obligations.ControlFlow := ⟨controlPasses, loopGoesRound⟩

end Sys2Proof.Laws
end

section
/-! SUPPORT. Operands (R37-R39, R68, R125-R127, R358, R383): registers that stand for no queue, the pops and pushes of the others, what an
operand's fault does to a SALU word, and O57. -/
namespace Sys2Proof.Laws
open Sys2Proof Sys2Proof.Machine Sys2Proof.Claims
-- In order: each thread of an elaboration in parallel reserves its stack, and the text is long.
set_option Elab.async false

/-! ## Registers that stand for no queue (R33, R68, R125) -/

theorem readS_zero (v : State) : ReadsS v 0 0 v := rfl

/-- s61 reads the low 64 bits of the TTC. -/
theorem readS_ttc (v : State) : ReadsS v 61 (BitVec.ofNat 64 (v.cons v.curCons).ttc) v := by
  have low : (v.cons v.curCons).ttcReg.setWidth 64 = BitVec.ofNat 64 (v.cons v.curCons).ttc := BitVec.setWidth_ofNat_of_le (by decide) _
  rw [← low]
  rfl

theorem readS_plain (v : State) {r : BitVec 6} (hq : srcQueue r = none) (hzero : r ≠ 0) (httc : r ≠ 61) :
    ReadsS v r (Tbl.get 0 (v.seq v.cur.1 v.cur.2).s r.toNat) v := by
  unfold ReadsS readS
  rw [hq, if_neg hzero, if_neg httc, run_bind_ok (run_getSeq v), run_pure]

theorem takesS_plain {v : State} {r : BitVec 6} (hq : dstQueue v.cur.2 r = none) (x : Word64) :
    TakesS v r x (if r = 0 then .mark else .setS r x) v := by
  unfold TakesS dstS
  rw [run_bind_ok (run_get v), hq, run_pure]

theorem readH_plain (v : State) {r : BitVec 5} (hr : r ≠ 31) : ReadsH v r (Tbl.get nullCap (v.seq v.cur.1 v.cur.2).h r.toNat) v := by
  unfold ReadsH readH
  rw [if_neg hr, run_bind_ok (run_getSeq v), run_pure]

theorem takesH_plain (v : State) {r : BitVec 5} (hr : r ≠ 31) (c : Cap) : TakesH v r c (.setH r c) v := by
  unfold TakesH dstH
  rw [if_neg hr, run_pure]

theorem plainRegisters : PlainRegisters := fun v =>
  ⟨readS_zero v, readS_ttc v, rfl, fun _ hq hzero httc => readS_plain v hq hzero httc, fun _ x hq => takesS_plain hq x,
    fun _ hr => ⟨readH_plain v hr, fun c => takesH_plain v hr c⟩⟩

/-! ## Queues (R38, R39, R126, R127) -/

/-- No entry is present at the head of a queue (R38). -/
def NonePresent {α : Type} (es : List (QEnt α)) : Prop := es = [] ∨ ∃ id rest, es = ⟨id, .due⟩ :: rest

/-- The state with the entries of a data queue after a pop. -/
def dqLeft (v : State) (q : Nat) (rest : List (QEnt Word64)) : State :=
  v.setCore v.cur.1 { v.core v.cur.1 with dq := Tbl.set (v.core v.cur.1).dq q rest }

section DataQueue
variable {v : State} {q id : Nat} {rest : List (QEnt Word64)}

theorem run_popQ_val {x : Word64} (h : (v.core v.cur.1).dqs q = ⟨id, .val x⟩ :: rest) (sub : BitVec 8) :
    (popQ q sub).run v = .ok (some x, dqLeft v q rest) := by
  rw [popQ, run_bind_ok (run_getCore v), h]
  exact run_bind_ok (run_modCore ..) _

theorem run_popQ_void (h : (v.core v.cur.1).dqs q = ⟨id, .void⟩ :: rest) (sub : BitVec 8) :
    (popQ q sub).run v = .ok (none, dqLeft v q rest) := by
  rw [popQ, run_bind_ok (run_getCore v), h]
  exact run_bind_ok (run_modCore ..) _

theorem run_popQ_absent (h : NonePresent ((v.core v.cur.1).dqs q)) (sub : BitVec 8) :
    (popQ q sub).run v = .error (.fault (v.mkFault .schedule sub 0)) := by
  rw [popQ, run_bind_ok (run_getCore v)]
  obtain h | ⟨id, rest, h⟩ := h <;> rw [h] <;> exact run_fault ..

/-- A push reserves an entry at the tail. -/
theorem run_pushQ_room (h : ((v.core v.cur.1).dqs q).length < queueDepth q) : (pushQ q).run v = .ok (v.nextId,
    dqLeft { v with nextId := v.nextId + 1 } q ((v.core v.cur.1).dqs q ++ [⟨v.nextId, .due⟩])) := by
  rw [pushQ, run_bind_ok (run_get v), run_bind_ok (run_getCore v), run_bind_ok (run_need (decide_eq_true h) ..)]
  exact (run_bind_ok (run_modify ..) _).trans (run_bind_ok (run_modCore ..) _)

theorem run_pushQ_full (h : queueDepth q ≤ ((v.core v.cur.1).dqs q).length) :
    (pushQ q).run v = .error (.fault (v.mkFault .schedule 0x07 0)) := by
  rw [pushQ, run_bind_ok (run_get v), run_bind_ok (run_getCore v), decide_eq_false (Nat.not_lt.2 h)]
  exact run_bind_error (run_need_false ..) _

section Source
variable {r : BitVec 6} (hq : srcQueue r = some q)
include hq

theorem readS_queue : readS r = popOn q := by
  unfold readS
  rw [hq]

theorem readS_val {x : Word64} (h : (v.core v.cur.1).dqs q = ⟨id, .val x⟩ :: rest) : ReadsS v r x (dqLeft v q rest) := by
  unfold ReadsS
  rw [readS_queue hq, run_popOn (run_popQ_val h 0x07)]

theorem readS_void (h : (v.core v.cur.1).dqs q = ⟨id, .void⟩ :: rest) :
    (readS r).run v = .error (.fault ((dqLeft v q rest).mkFault .queueVoid 0 0)) := by
  rw [readS_queue hq, popOn, run_bind_ok (run_popQ_void h 0x07)]
  rfl

theorem readS_absent (h : NonePresent ((v.core v.cur.1).dqs q)) :
    (readS r).run v = .error (.fault (v.mkFault .schedule 0x07 0)) := by
  rw [readS_queue hq, popOn, run_bind_error (run_popQ_absent h 0x07)]

end Source

section Destination
variable {r : BitVec 6} (hq : dstQueue v.cur.2 r = some q) (x : Word64)
include hq

theorem takesS_room (h : ((v.core v.cur.1).dqs q).length < queueDepth q) : TakesS v r x (.fill q v.nextId (.val (queueVal q x)))
    (dqLeft { v with nextId := v.nextId + 1 } q ((v.core v.cur.1).dqs q ++ [⟨v.nextId, .due⟩])) := by
  unfold TakesS dstS
  rw [run_bind_ok (run_get v), hq]
  exact run_bind_ok (run_pushQ_room h) _

theorem dstS_full (h : queueDepth q ≤ ((v.core v.cur.1).dqs q).length) :
    (dstS r x).run v = .error (.fault (v.mkFault .schedule 0x07 0)) := by
  unfold dstS
  rw [run_bind_ok (run_get v), hq]
  exact run_bind_error (run_pushQ_full h) _

end Destination

end DataQueue

/-! ## The handle queue (R37, R126, R358) -/

section HandleQueue
variable {v : State} {id : Nat} {rest : List (QEnt Cap)}

theorem run_popHq_val {c : Cap} (h : (v.core v.cur.1).hq = ⟨id, .val c⟩ :: rest) :
    popHq.run v = .ok (some c, v.setCore v.cur.1 { v.core v.cur.1 with hq := rest }) := by
  rw [popHq, run_bind_ok (run_getCore v), h]
  exact run_bind_ok (run_modCore ..) _

theorem run_popHq_void (h : (v.core v.cur.1).hq = ⟨id, .void⟩ :: rest) :
    popHq.run v = .ok (none, v.setCore v.cur.1 { v.core v.cur.1 with hq := rest }) := by
  rw [popHq, run_bind_ok (run_getCore v), h]
  exact run_bind_ok (run_modCore ..) _

theorem run_popHq_absent (h : NonePresent (v.core v.cur.1).hq) : popHq.run v = .error (.fault (v.mkFault .schedule 0x07 0)) := by
  rw [popHq, run_bind_ok (run_getCore v)]
  obtain h | ⟨id, rest, h⟩ := h <;> rw [h] <;> exact run_fault ..

theorem run_pushHq_room (h : (v.core v.cur.1).hq.length + (v.core v.cur.1).hqHeld < 8) : pushHq.run v = .ok (v.nextId,
    { v with nextId := v.nextId + 1 }.setCore v.cur.1 { v.core v.cur.1 with hq := (v.core v.cur.1).hq ++ [(⟨v.nextId, .due⟩ : QEnt Cap)] }) := by
  have room : decide ((v.core v.cur.1).hq.length + (v.core v.cur.1).hqHeld < hqDepth) = true := decide_eq_true h
  rw [pushHq, run_bind_ok (run_get v), run_bind_ok (run_getCore v), run_bind_ok (run_need room ..)]
  exact (run_bind_ok (run_modify ..) _).trans (run_bind_ok (run_modCore ..) _)

theorem run_pushHq_full (h : 8 ≤ (v.core v.cur.1).hq.length + (v.core v.cur.1).hqHeld) :
    pushHq.run v = .error (.fault (v.mkFault .schedule 0x07 0)) := by
  have full : decide ((v.core v.cur.1).hq.length + (v.core v.cur.1).hqHeld < hqDepth) = false := decide_eq_false (Nat.not_lt.2 h)
  rw [pushHq, run_bind_ok (run_get v), run_bind_ok (run_getCore v), full]
  exact run_bind_error (run_need_false ..) _

theorem handleQueue : HandleQueue := by
  intro v
  refine ⟨fun id c rest h => ?val, fun id rest h => ?void, fun h => ?absent, fun c => ⟨fun h => ?room, fun h => ?full⟩⟩
  case val => exact run_bind_ok (run_popHq_val h) _
  case void => exact ⟨_, rfl, (run_bind_ok (run_popHq_void h) _).trans (run_fault ..)⟩
  case absent => exact run_bind_error (run_popHq_absent h) _
  case room => exact run_bind_ok (run_pushHq_room h) _
  case full => exact run_bind_error (run_pushHq_full h) _

end HandleQueue

/-! ## SALU words whose operands fault (R125, R126) -/

theorem issueFall_raises {g : Guard} {off body : Act Unit} {s v : State} {f : FaultRec} (h : Issuing g s v)
    (hb : body.run v = .error (.fault f)) : issueFall g off body s = .next { raise s s.curCons f with note := .faulted f } :=
  issueN_faults h (run_bind_error hb _)

section Faults
variable {v v1 v2 : State} {d a b : BitVec 6} {x y : Word64} {e : Stop} {lat : Nat}

theorem run_unAct_error {f : Word64 → Word64} (ha : (readS a).run v = .error e) : (unAct lat f d a).run v = .error e := by
  rw [unAct, run_bind_error ha]

section Two
variable {f : Word64 → Word64 → Word64}

theorem run_binAct_error_first (ha : (readS a).run v = .error e) : (binAct lat f d a b).run v = .error e := by
  rw [binAct, run_bind_error ha]

theorem run_binAct_error_second (ha : ReadsS v a x v1) (hb : (readS b).run v1 = .error e) : (binAct lat f d a b).run v = .error e := by
  rw [binAct, run_bind_ok ha, run_bind_error hb]

theorem run_binAct_error_result (ha : ReadsS v a x v1) (hb : ReadsS v1 b y v2) (hd : (dstS d (f x y)).run v2 = .error e) :
    (binAct lat f d a b).run v = .error e := by
  rw [binAct, run_bind_ok ha, run_bind_ok hb, writeS, run_bind_error hd]

end Two

end Faults

/-- Settles O57: the operands of a word, then the words by the operand that faults. -/
theorem dataQueues : Obligations.DataQueues := by
  unfold Obligations.DataQueues
  refine ⟨plainRegisters, handleQueue, fun v r q hq => ⟨fun id x rest h => ?val, fun id rest h => ?void, fun h => ?absent⟩,
    fun v r x q hq => ⟨fun h => ?room, fun h => ?full⟩, fun row hrow g d a b imm s v f h => ?salu⟩
  case val => exact readS_val hq h
  case void => exact ⟨_, rfl, readS_void hq h⟩
  case absent => exact readS_absent hq h
  case room => exact takesS_room hq x h
  case full => exact dstS_full hq x h
  case salu =>
    obtain ⟨word, wordI⟩ := saluTable_words row hrow
    refine ⟨fun ha => ⟨?first, ?immediate⟩, fun v1 x ha hb => ?second, fun v1 v2 x y ha hb hd => ?result⟩
    case first => exact (word ..).trans (issueFall_raises h (run_binAct_error_first ha))
    case immediate => exact (wordI imm ..).trans (issueFall_raises h (run_unAct_error ha))
    case second => exact (word ..).trans (issueFall_raises h (run_binAct_error_second ha hb))
    case result => exact (word ..).trans (issueFall_raises h (run_binAct_error_result ha hb hd))

end Sys2Proof.Laws
end

section
/-! SUPPORT. Words that are guarded off (R108, R127, R336): what is left of each, and O56. -/
namespace Sys2Proof.Laws
open Sys2Proof Sys2Proof.Machine Sys2Proof.Claims
-- In order: each thread of an elaboration in parallel reserves its stack, and the text is long.
set_option Elab.async false

/-! ## What R127 leaves of a word -/

/-- Where these operands name no queue, nothing is left. -/
def Idle (off : Act Unit) (rs : List Role) : Prop := ∀ v : State, (∀ r ∈ rs, noQueue v.cur.2 r = true) → off.run v = .ok ((), v)

theorem idle_none (rs : List Role) : Idle (pure ()) rs := fun v _ => run_pure () v

/-- An operand that always names a queue. -/
theorem idle_never {off : Act Unit} {rs : List Role} {r : Role} (hr : r ∈ rs) (hq : ∀ q, noQueue q r = false) : Idle off rs :=
  fun v h => absurd ((hq v.cur.2).symm.trans (h r hr)) nofun

theorem idle_of_subset {off : Act Unit} {rs rs' : List Role} (hs : rs ⊆ rs') (h : Idle off rs) : Idle off rs' :=
  fun v hv => h v fun r hr => hv r (hs hr)

/-- An operand that names no queue leaves nothing of itself. -/
theorem run_skip_cons {v : State} {r : Role} (hr : noQueue v.cur.2 r = true) (lat : Nat) (rs : List Role) :
    (skip lat (r :: rs)).run v = (skip lat rs).run v := by
  rw [skip, run_bind_ok (run_get v)]
  cases r with
  | sSrc x =>
    have hq : srcQueue x = none := Option.isNone_iff_eq_none.1 hr
    dsimp only
    rw [hq]
  | sDst x =>
    have hq : dstQueue v.cur.2 x = none := Option.isNone_iff_eq_none.1 hr
    dsimp only
    rw [hq]
  | hSrc x | hDst x =>
    dsimp only
    rw [if_neg (bne_iff_ne.1 hr)]
  | fqPop | bqPop | bqPush => cases hr

theorem idle_skip (lat : Nat) (rs : List Role) : Idle (skip lat rs) rs := by
  intro v h
  induction rs with
  | nil => rfl
  | cons r rs ih =>
    obtain ⟨hr, hrs⟩ := List.forall_mem_cons.1 h
    rw [run_skip_cons hr, ih hrs]

/-! `roles` names a word's handle first, then its destination, then its other sources; the words name the destination last. -/

theorem idle_last_two (lat : Nat) (d x : Role) : Idle (skip lat [x, d]) [d, x] := idle_of_subset (by simp) (idle_skip _ _)

theorem idle_last_three (lat : Nat) (d x y : Role) : Idle (skip lat [x, y, d]) [d, x, y] := idle_of_subset (by simp) (idle_skip _ _)

theorem idle_last_four (lat : Nat) (d x y z : Role) : Idle (skip lat [x, y, z, d]) [d, x, y, z] :=
  idle_of_subset (by simp) (idle_skip _ _)

theorem idle_second_three (lat : Nat) (h d x : Role) : Idle (skip lat [h, x, d]) [h, d, x] := idle_of_subset (by simp) (idle_skip _ _)

theorem idle_second_four (lat : Nat) (h d x y : Role) : Idle (skip lat [h, x, y, d]) [h, d, x, y] :=
  idle_of_subset (by simp) (idle_skip _ _)

/-- LTAKE's scalar destination and the register pairs of PAMO.CAS2 are no part of what is left. -/
theorem idle_first (lat : Nat) (h : Role) (rs : List Role) : Idle (skip lat [h]) (h :: rs) := idle_of_subset (by simp) (idle_skip _ _)

/-- A void's time looked up first. -/
theorem idle_bind {α : Type} {x : Act α} {f : α → Act Unit} {rs : List Role} (hx : ∀ v, ∃ a, x.run v = .ok (a, v)) (hf : ∀ a, Idle (f a) rs) :
    Idle (x >>= f) rs := by
  intro v h
  obtain ⟨a, ha⟩ := hx v
  rw [run_bind_ok ha, hf a v h]

theorem idle_skipLoad {rs rs' : List Role} (h : ∀ lat, Idle (skip lat rs) rs') : Idle (skipLoad rs) rs' :=
  idle_bind (fun v => ⟨_, run_getD v⟩) fun _ => h _

theorem idle_skipBy {rs rs' : List Role} (h : ∀ lat, Idle (skip lat rs) rs') (r : BitVec 5) (lat : State → Cap → Nat) :
    Idle (skipBy r lat rs) rs' :=
  idle_bind (fun v => ⟨_, run_get v⟩) fun _ => h _

theorem idle_skipH {rs rs' : List Role} (h : ∀ lat, Idle (skip lat rs) rs') : Idle (skipH rs) rs' :=
  idle_bind (fun _ => ⟨_, rfl⟩) fun _ => h _

theorem idle_skipMovs (sr : BitVec 6) : Idle (skipMovs sr) [.sDst sr] := idle_bind (fun v => ⟨_, run_getD v⟩) fun _ => idle_skip _ _

theorem idle_skipCell {r : BitVec 5} {rs rs' : List Role} (h : ∀ lat, Idle (skip lat (.hSrc r :: rs)) rs') (cell : BitVec 32) :
    Idle (skipCell r cell rs) rs' :=
  idle_bind (fun v => ⟨_, run_get v⟩) fun _ => idle_bind (fun v => ⟨_, run_getCore v⟩) fun _ =>
    idle_bind (fun v => ⟨_, run_getSeq v⟩) fun _ => h _

/-! ## The words -/

/-- What is left of a word that is guarded off: of a branch its outcome for the trace (R336), of another nothing where it names no queue. -/
def Leaves (i : Instr) (off : Act Unit) : Prop :=
  tracedBranch i = true ∧ off = outcome false ∨ tracedBranch i = false ∧ Idle off (roles i)

/-- Every word issues, its literal with it, and guarded off leaves what R127 says. -/
theorem word_leaves {i : Instr} {g : Guard} (hg : guardField i = some g) (s : State) : ∃ off body,
    exec i s = issueN (if (literalOf i).isSome then 2 else 1) g off body s ∧ Leaves i off := by
  cases i with
  | nop | halt | trapSw | rft | ovlyN | cardone | traceTs | traceBr | enterF | leaveF | pbrO | retGo | loopL | repeatN | signalT | waitT |
  waitN | toksetI | markQ | gsetL | csetI | caddI | claimS | releaseS | mzeroT | maccR | valuAdd | valuSub | valuAnd | valuOr | valuXor |
  valuAndn | valuShl | valuShr | valuSar | valuMin | valuMax | valuAbs | valuMul | valuMulh | vfmaFma | vfmaFms | vfmaFnma | vcmpEq |
  vcmpNe | vcmpLt | vcmpGe | vcvtCvt | vlt3Lut | vfshL | vfshR | vlrotRot | vpermIdx | vpermIdx2 | vbcastLane | vbcastImm | vredAdd |
  vredAnd | vredOr | vredXor | vredMin | vredMax | vfunExp | vfunExp2 | vfunLog | vfunLog2 | vfunRcp | vfunSqrt | vfunRsqrt | vfunTanh |
  vfunSigm | vselBit | vselMask | mpushEq | mpushNe | mpushLt | mpushGe | minv | mpop | mgetM | mgetV | msetM | msetV | vparkP | vunparkU
  | shretClose =>
    cases hg
    exact ⟨_, _, rfl, .inr ⟨rfl, idle_none _⟩⟩
  | sysr | sysw | ovlyS | psetAnd | psetOr | psetXor | psetAndn | psetEq | psetNe | psetLt | psetLtu | psetGe | psetGeu | lit | pbrR |
  loopS | repeatS | signalS | toksetX | retimeAt | sstepS | capsetB | capsetE | cappermAnd | capoffAdd | capoffSet | capgetA | capgetCells
  | capgetKv | capgetPeer | capgetSys | capgetBase | capgetLen | capgetHi | captestTag | captestIn | dupN | dropW | dropB | movhM | mergeW
  | allocT | allocM | isunqL | sealT | gsetR | csetS | caddS | tldR | tldW | tcopyR | tcopyW | tcopyS | tcopyHi | tcopyHo | gatherK |
  gatherV | appendKv | mmaT | mdrainT | tstatR | vlrotRots | vbcastS | vtopkVal | vtopkIdx | vldMod | vldRow | vldStr | vstMod | vstRow |
  vstStr | astartGo | aloadW | lsendH | lsendD | lsendV | lsendRld | lsendRst | lcalW | lmarkD | shsendT | shtakeT | shretOpen | shretT |
  sbputR | sbtblW | sbcommitG | sbstatMark =>
    cases hg
    exact ⟨_, _, rfl, .inr ⟨rfl, idle_skip _ _⟩⟩
  | saluClz | saluCtz | saluPop | saluiAdd | saluiSub | saluiAnd | saluiOr | saluiXor | saluiAndn | saluiShl | saluiShr | saluiSar |
  saluiRol | saluiMin | saluiMax | saluiMinu | saluiMaxu | saluiMul | saluiMulh | saluiMulhu | saluiSeq | saluiSne | saluiSlt | saluiSltu
  | sfpSqrt | sfpCvti | sfpCvtf | stP | stH | stCap =>
    cases hg
    exact ⟨_, _, rfl, .inr ⟨rfl, idle_last_two _ _ _⟩⟩
  | saluAdd | saluSub | saluAnd | saluOr | saluXor | saluAndn | saluShl | saluShr | saluSar | saluRol | saluMin | saluMax | saluMinu |
  saluMaxu | saluMul | saluMulh | saluMulhu | saluSeq | saluSne | saluSlt | saluSltu | sdivDiv | sdivDivu | sdivRem | sdivRemu | sfpAdd |
  sfpSub | sfpMul | sfpDiv | sfpMin | sfpMax | sfpEq | sfpLt | sfpLe =>
    cases hg
    exact ⟨_, _, rfl, .inr ⟨rfl, idle_last_three _ _ _ _⟩⟩
  | saluSel | sfpFma =>
    cases hg
    exact ⟨_, _, rfl, .inr ⟨rfl, idle_last_four _ _ _ _ _⟩⟩
  | fenceS =>
    cases hg
    exact ⟨_, _, rfl, .inr ⟨rfl, idle_skipLoad (idle_skip · _)⟩⟩
  | ldP | ldCap | astatRd | astatWait =>
    cases hg
    exact ⟨_, _, rfl, .inr ⟨rfl, idle_skipLoad (idle_last_two · _ _)⟩⟩
  | isunqX | updT | updM =>
    cases hg
    exact ⟨_, _, rfl, .inr ⟨rfl, idle_skipBy (idle_skip · _) _ _⟩⟩
  | ldH =>
    cases hg
    exact ⟨_, _, rfl, .inr ⟨rfl, idle_skipBy (idle_last_two · _ _) _ _⟩⟩
  | lstatRd | sbgetQ | sbgetX | sbstatRd =>
    cases hg
    exact ⟨_, _, rfl, .inr ⟨rfl, idle_skipH (idle_last_two · _ _)⟩⟩
  | ltakeM | ltakeP =>
    cases hg
    exact ⟨_, _, rfl, .inr ⟨rfl, idle_skipH (idle_first · _ _)⟩⟩
  | vmovsLane | vmovsPair =>
    cases hg
    exact ⟨_, _, rfl, .inr ⟨rfl, idle_skipMovs _⟩⟩
  | dlaunchP =>
    cases hg
    exact ⟨_, _, rfl, .inr ⟨rfl, idle_bind (fun v => ⟨_, run_get v⟩) fun _ => idle_last_two _ _ _⟩⟩
  | lsendRadd =>
    cases hg
    exact ⟨_, _, rfl, .inr ⟨rfl, idle_second_three _ _ _ _⟩⟩
  | lsendRcas =>
    cases hg
    exact ⟨_, _, rfl, .inr ⟨rfl, idle_second_four _ _ _ _ _⟩⟩
  | pamoHxch | pamoChase | pamoRedAdd | pamoRedMin | pamoRedMax | pldC | pstC | bcntP =>
    cases hg
    exact ⟨_, _, rfl, .inr ⟨rfl, idle_skipCell (idle_skip · _) _⟩⟩
  | pamoAdd | pamoMin | pamoMax | pamoSwap | pamoEnq | waitvEq | waitvNe | waitvGe | waitvLt | waitvAny | waitvNone =>
    cases hg
    exact ⟨_, _, rfl, .inr ⟨rfl, idle_skipCell (idle_second_three · _ _ _) _⟩⟩
  | pamoCas =>
    cases hg
    exact ⟨_, _, rfl, .inr ⟨rfl, idle_skipCell (idle_second_four · _ _ _ _) _⟩⟩
  | pamoCas2 =>
    cases hg
    exact ⟨_, _, rfl, .inr ⟨rfl, idle_skipCell (idle_first · _ _) _⟩⟩
  | brqT | brqF =>
    cases hg
    exact ⟨_, _, rfl, .inr ⟨rfl, idle_never (List.mem_singleton_self _) fun _ => rfl⟩⟩
  | brGo | brmzSkip | callGo =>
    cases hg
    exact ⟨_, _, rfl, .inl ⟨rfl, rfl⟩⟩
  | _ => cases hg

/-- Settles O56: what each word leaves. -/
theorem guardedOff : Obligations.GuardedOff := by
  unfold Obligations.GuardedOff
  intro i g s v hg hrun hv hchecks hoff hroles
  obtain ⟨off, body, hexec, hleaves⟩ := word_leaves hg s
  have skips : ∀ {v'}, off.run v = .ok ((), v') → exec i s = .next (issued (if (literalOf i).isSome then 2 else 1) .fall v') := fun ho =>
    hexec.trans (issueN_skips hrun hv hchecks (by rw [hoff]; nofun) ho)
  obtain ⟨htraced, rfl⟩ | ⟨htraced, hidle⟩ := hleaves
  · rw [skips (run_outcome false v), if_pos htraced]
  · rw [skips (hidle v hroles), htraced, if_neg Bool.false_ne_true]

end Sys2Proof.Laws
end

section
/-! SUPPORT. The machine right after reset, and O60. -/
namespace Sys2Proof.Laws
open Sys2Proof Sys2Proof.Machine Sys2Proof.Claims
-- In order: each thread of an elaboration in parallel reserves its stack, and the text is long.
set_option Elab.async false

/-- At reset no partition is enabled: bit 63 of its descriptor is clear. -/
theorem reset_partition_off (p : BitVec 5) : (State.reset.part p).desc.getLsbD 63 = false := by
  show Partition.reset.desc.getLsbD 63 = false
  decide

/-- A register table that lists only s62 and s63 reads 0 below them. -/
theorem get_of_stackPointers {x y : Word64} {r : Nat} (hr : r < 56) : Tbl.get 0 [(62, x), (63, y)] r = 0 := by
  have h62 : r ≠ 62 := by omega
  have h63 : r ≠ 63 := by omega
  simp [Tbl.get, h62, h63]

/-- R34: at reset a sequencer's stack register and its shadow stand at the base of its stack, and the registers below are 0. -/
theorem reset_scalars (c : Nat) (q : SeqId) :
    (∀ r < 56, Tbl.get 0 (State.reset.seq c q).s r = 0) ∧
    Tbl.get 0 (State.reset.seq c q).s 62 = (State.reset.seq c q).stbase ∧
    Tbl.get 0 (State.reset.seq c q).s 63 = (State.reset.seq c q).stbase := by
  cases q with
  | as => exact ⟨fun _ hr => get_of_stackPointers hr, rfl, rfl⟩
  | xs => exact ⟨fun _ hr => get_of_stackPointers hr, rfl, rfl⟩

/-- At reset a sequencer has no handler, its own stack area, null handles and no predicate set. -/
theorem reset_sequencer (c : Nat) (q : SeqId) :
    (State.reset.seq c q).tvec = 0 ∧ (State.reset.seq c q).tframe = 0 ∧
    (State.reset.seq c q).stbase = (match q with | .as => 0x100000 | .xs => 0xF8000) ∧
    (State.reset.seq c q).stlimit = (match q with | .as => 0xF8000 | .xs => 0xF0000) ∧
    (∀ r, Tbl.get nullCap (State.reset.seq c q).h r = nullCap) ∧ (State.reset.seq c q).p = 0 := by
  cases q with
  | as => exact ⟨rfl, rfl, rfl, rfl, fun _ => rfl, rfl⟩
  | xs => exact ⟨rfl, rfl, rfl, rfl, fun _ => rfl, rfl⟩

/-- At reset a core is free, every lane of its one mask is on, and its heap, its data stack, its trace and its timer stand at 0. -/
theorem reset_core (c : Nat) :
    (State.reset.core c).consist = none ∧ (State.reset.core c).part = none ∧
    (State.reset.core c).masks = [BitVec.allOnes 128] ∧ (State.reset.core c).heapbase = 0 ∧ (State.reset.core c).heaplimit = 0 ∧
    (State.reset.core c).heapoffset = 0 ∧ (State.reset.core c).npd = 0 ∧ (State.reset.core c).trcctl = 0 ∧
    (State.reset.core c).timer = 0 :=
  ⟨rfl, rfl, rfl, rfl, rfl, rfl, rfl, rfl, rfl⟩

/-- Settles O60: the fields of the reset state, a core and a sequencer at a time. -/
theorem resetState : Obligations.ResetState := by
  refine ⟨rfl, rfl, rfl, rfl, reset_partition_off, fun c q => ?core, fun _ => rfl, rfl, rfl⟩
  case core =>
    obtain ⟨hc, hp, hm, hb, hl, ho, hn, ht, hi⟩ := reset_core c
    obtain ⟨hvec, hfr, hbase, hlim, hh, hpr⟩ := reset_sequencer c q
    exact ⟨hc, hp, hm, hb, hl, ho, hn, ht, hi, hvec, hfr, hbase, hlim, hh, hpr, reset_scalars c q⟩

end Sys2Proof.Laws
end

section
/-! SUPPORT. The actions of words that only put results in flight, and O55. -/
namespace Sys2Proof.Laws
open Sys2Proof Sys2Proof.Machine Sys2Proof.Claims
-- In order: each thread of an elaboration in parallel reserves its stack, and the text is long.
set_option Elab.async false

/-! ## Nothing but what is in flight -/

theorem onlyInFlight_refl (v : State) : OnlyInFlight v v :=
  ⟨rfl, fun _ => rfl, fun _ => rfl, rfl, rfl, rfl, rfl, rfl, rfl⟩

theorem onlyInFlight_trans {u v w : State} (h : OnlyInFlight u v) (k : OnlyInFlight v w) : OnlyInFlight u w :=
  ⟨k.mem.trans h.mem, fun c => (k.cores c).trans (h.cores c), fun c => (k.cons c).trans (h.cons c), k.stores.trans h.stores,
   k.disp.trans h.disp, k.sbox.trans h.sbox, k.tt.trans h.tt, k.sys.trans h.sys, k.inputs.trans h.inputs⟩

/-- A core whose queues alone have moved. -/
theorem onlyInFlight_setCore {s : State} {c : Nat} {k : Core} (h : k.storageQ = (s.core c).storageQ) : OnlyInFlight s (s.setCore c k) where
  mem := rfl
  cores d := by
    by_cases hd : d = c
    · subst hd
      rw [core_setCore, h]
    · rw [core_setCore_ne _ _ hd]
  cons _ := rfl
  stores := rfl
  disp := rfl
  sbox := rfl
  tt := rfl
  sys := rfl
  inputs := rfl

/-- A consist whose latches alone have changed. -/
theorem onlyInFlight_setCons {s : State} {n : Nat} {k : Consist} (h : k.still = (s.cons n).still) : OnlyInFlight s (s.setCons n k) where
  mem := rfl
  cores _ := rfl
  cons m := by
    by_cases hm : m = n
    · subst hm
      rw [cons_setCons, h]
    · rw [cons_setCons_ne _ _ hm]
  stores := rfl
  disp := rfl
  sbox := rfl
  tt := rfl
  sys := rfl
  inputs := rfl

/-- A sequencer that has moved in its stream. -/
theorem onlyInFlight_setSeq {s : State} {c : Nat} {q : SeqId} {x : Machine.Seq} (h : x.storage = (s.seq c q).storage) :
    OnlyInFlight s (s.setSeq c q x) := by
  refine onlyInFlight_setCore ?_
  cases q with
  | as => exact congrArg (fun y => { (s.core c).storageQ with as := y }) h
  | xs => exact congrArg (fun y => { (s.core c).storageQ with xs := y }) h

/-- An action after which, where it ends without a fault or a hold, nothing but what is in flight differs. -/
def Quiet {α : Type} (x : Act α) : Prop := ∀ v a w, x.run v = .ok (a, w) → OnlyInFlight v w

namespace Quiet
variable {α β : Type}

theorem pure {a : α} : Quiet (Pure.pure a : Act α) := by
  intro v b w h
  cases h
  exact onlyInFlight_refl _

theorem bind {x : Act α} {f : α → Act β} (hx : Quiet x) (hf : ∀ a, Quiet (f a)) : Quiet (x >>= f) := by
  intro v b w h
  rw [run_bind] at h
  split at h
  · rename_i a u hu
    exact onlyInFlight_trans (hx _ _ _ hu) (hf _ _ _ _ h)
  · cases h

theorem get {f : State → Act β} (hf : ∀ s, Quiet (f s)) : Quiet (MonadState.get >>= f) := fun s => hf s s

theorem modify {f : State → State} (hf : ∀ s, OnlyInFlight s (f s)) : Quiet (modify f : Act PUnit) := by
  intro v b w h
  cases h
  exact hf _

theorem throw {e : Stop} : Quiet (MonadExcept.throw e : Act α) := by
  intro v b w h
  cases h

theorem ite {c : Prop} [Decidable c] {x y : Act α} (hx : Quiet x) (hy : Quiet y) :
    Quiet (if c then x else y) := by
  split
  · exact hx
  · exact hy

end Quiet

/-! ## Access -/

theorem getCore_quiet : Quiet getCore := .get fun _ => .pure

theorem getSeq_quiet : Quiet getSeq := .get fun _ => .pure

theorem getTtc_quiet : Quiet getTtc := .get fun _ => .pure

theorem getD_quiet : Quiet getD := .get fun _ => .pure

theorem fault_quiet {α : Type} {cls : FaultClass} {sub : BitVec 8} {tinfo : Word64} : Quiet (fault cls sub tinfo : Act α) :=
  .get fun _ => .throw

theorem need_quiet {ok : Bool} {cls : FaultClass} {sub : BitVec 8} {tinfo : Word64} : Quiet (need ok cls sub tinfo) :=
  .ite .pure fault_quiet

theorem modCore_quiet {f : Core → Core} (h : ∀ k, (f k).storageQ = k.storageQ) : Quiet (modCore f) :=
  .modify fun _ => onlyInFlight_setCore (h _)

/-- The inter-sequencer queues are no storage. -/
theorem dq_quiet {f : Core → Tbl (List (QEnt Word64))} : Quiet (modCore fun c => { c with dq := f c }) :=
  modCore_quiet fun _ => rfl

theorem hq_quiet {f : Core → List (QEnt Cap)} : Quiet (modCore fun c => { c with hq := f c }) :=
  modCore_quiet fun _ => rfl

theorem modSeq_quiet {f : Machine.Seq → Machine.Seq} (h : ∀ q, (f q).storage = q.storage) : Quiet (modSeq f) :=
  .modify fun _ => onlyInFlight_setSeq (h _)

/-- A place in a stream is no storage. -/
theorem place_quiet {f : Machine.Seq → Place} : Quiet (modSeq fun q => { q with at_ := f q }) := modSeq_quiet fun _ => rfl

/-- Taking a new name changes the model's own counter alone. -/
theorem newId_quiet : Quiet (modify fun s : State => { s with nextId := s.nextId + 1 } : Act PUnit) :=
  .modify fun _ => ⟨rfl, fun _ => rfl, fun _ => rfl, rfl, rfl, rfl, rfl, rfl, rfl⟩

theorem addLatch_quiet {lat : Nat} {eff : Effect} {cause : Option (BitVec 16)} {defer : Option Deferred} :
    Quiet (addLatch lat eff cause defer) := by
  intro v a w h
  rw [run_addLatch] at h
  cases h
  exact onlyInFlight_trans (newId_quiet v _ _ rfl) (onlyInFlight_setCons rfl)

theorem result_quiet {lat : Nat} {eff : Effect} : Quiet (result lat eff) := addLatch_quiet.bind fun _ => .pure

/-- A read of HBM changes the latch that waits for it. -/
theorem readHbm_quiet {lat : Nat} {op : DeferOp} {eff : Effect} : Quiet (readHbm lat op eff) := by
  refine addLatch_quiet.bind fun id v a w h => ?_
  rw [run_bind_ok (run_get v)] at h
  dsimp only at h
  split at h
  · cases h
    exact onlyInFlight_setCons rfl
  · cases h
    exact onlyInFlight_setCons rfl

theorem pushQ_quiet {q : Nat} : Quiet (pushQ q) :=
  .get fun _ => getCore_quiet.bind fun _ => need_quiet.bind fun _ => newId_quiet.bind fun _ =>
  dq_quiet.bind fun _ => .pure

theorem popQ_quiet {q : Nat} {sub : BitVec 8} : Quiet (popQ q sub) :=
  getCore_quiet.bind fun _ => by
  split
  · exact fault_quiet
  · split
    · exact fault_quiet
    · exact dq_quiet.bind fun _ => .pure
    · exact dq_quiet.bind fun _ => .pure

theorem pushHq_quiet : Quiet pushHq :=
  .get fun _ => getCore_quiet.bind fun _ => need_quiet.bind fun _ => newId_quiet.bind fun _ =>
  hq_quiet.bind fun _ => .pure

theorem popHq_quiet : Quiet popHq :=
  getCore_quiet.bind fun _ => by
  split
  · exact fault_quiet
  · split
    · exact fault_quiet
    · exact hq_quiet.bind fun _ => .pure
    · exact hq_quiet.bind fun _ => .pure

theorem popOn_quiet {q : Nat} : Quiet (popOn q) :=
  popQ_quiet.bind fun _ => by
  split
  · exact .pure
  · exact fault_quiet

theorem readS_quiet {r : BitVec 6} : Quiet (readS r) := by
  unfold readS
  split
  · exact popOn_quiet
  · exact .ite .pure (.ite (.get fun _ => .pure) (getSeq_quiet.bind fun _ => .pure))

theorem readH_quiet {r : BitVec 5} : Quiet (readH r) :=
  .ite (popHq_quiet.bind fun _ => by
  split
  · exact .pure
  · exact fault_quiet) (getSeq_quiet.bind fun _ => .pure)

theorem readP_quiet {r : BitVec 4} : Quiet (readP r) := getSeq_quiet.bind fun _ => .pure

theorem dstS_quiet {r : BitVec 6} {v : Word64} : Quiet (dstS r v) :=
  .get fun _ => by
  split
  · exact pushQ_quiet.bind fun _ => .pure
  · exact .pure

theorem writeS_quiet {r : BitVec 6} {lat : Nat} {v : Word64} : Quiet (writeS r lat v) :=
  dstS_quiet.bind fun _ => result_quiet

theorem dstH_quiet {r : BitVec 5} {c : Cap} : Quiet (dstH r c) := .ite (pushHq_quiet.bind fun _ => .pure) .pure

theorem writeH_quiet {r : BitVec 5} {lat : Nat} {c : Cap} : Quiet (writeH r lat c) :=
  dstH_quiet.bind fun _ => result_quiet

theorem writeP_quiet {r : BitVec 4} {lat : Nat} {v : Bool} : Quiet (writeP r lat v) := result_quiet

theorem nullH_quiet {r : BitVec 5} {lat : Nat} : Quiet (nullH r lat) := .ite .pure result_quiet

/-! ## Checks -/

theorem checkCap_quiet {c : Cap} : Quiet (checkCap c) :=
  getCore_quiet.bind fun _ => need_quiet.bind fun _ => need_quiet.bind fun _ => need_quiet

theorem checkKind_quiet {c : Cap} {kinds : List (BitVec 4)} : Quiet (checkKind c kinds) :=
  checkCap_quiet.bind fun _ => need_quiet.bind fun _ => need_quiet

theorem checkPerm_quiet {c : Cap} {perm : Nat} : Quiet (checkPerm c perm) := need_quiet

theorem checkSpace_quiet {c : Cap} {spaces : List Nat} : Quiet (checkSpace c spaces) := need_quiet

theorem checkBounds_quiet {c : Cap} {a n : Nat} : Quiet (checkBounds c a n) := need_quiet

theorem checkNear_quiet {c : Cap} : Quiet (checkNear c) := .get fun _ => need_quiet

/-! ## Control -/

theorem advance_quiet {n : Nat} {ctl : Ctl} : Quiet (advance n ctl) := by
  refine getTtc_quiet.bind fun _ => getSeq_quiet.bind fun _ => ?_
  extract_lets -underBinder p next place
  have hp : ∀ p, Quiet (place p) := fun _ => place_quiet
  clear_value place
  split
  · exact hp _
  · exact .get fun _ => hp _
  · exact hp _
  all_goals
    split
    · exact hp _
    · split
      · refine (hp _).bind fun _ => result_quiet.bind fun _ => ?_
        split
        · exact getCore_quiet.bind fun _ => result_quiet
        · exact .pure
      · split <;> exact hp _

/-- Control's move after a word's own work stores nothing more. -/
theorem wordAct_quiet {n : Nat} {g : Guard} {off : Act Unit} {body : Act Ctl} (hbody : Quiet body) {v w : State}
    {o : Option FaultRec} (hg : guardOn (v.seq v.cur.1 v.cur.2) g = true) (h : (wordAct n g off body).run v = .ok (o, w)) :
    OnlyInFlight v w := by
  rw [wordAct, run_bind_ok (run_getSeq v)] at h
  dsimp only at h
  rw [if_pos hg] at h
  refine hbody.bind (fun ctl => advance_quiet.bind fun _ => ?_) v o w h
  split <;> exact .pure

theorem inHandler_quiet : Quiet inHandler := .get fun _ => .pure

theorem notInHandler_quiet : Quiet notInHandler := inHandler_quiet.bind fun _ => need_quiet

theorem pbrAct_quiet {b : BitVec 3} {target : Nat} {fits : Bool} : Quiet (pbrAct b target fits) :=
  .get fun _ => getSeq_quiet.bind fun _ => result_quiet

theorem loopAct_quiet {counter n count : Nat} {level : Option (Nat × Nat)} {info : Word64} :
    Quiet (loopAct counter n count level info) :=
  getSeq_quiet.bind fun _ => need_quiet.bind fun _ => .ite .pure (result_quiet.bind fun _ => by
  extract_lets -underBinder j
  have hj : ∀ x, Quiet (j x) := fun _ => place_quiet.bind fun _ => .pure
  clear_value j
  split
  · exact result_quiet.bind hj
  · exact hj _)

theorem loopLAct_quiet {k n : Nat} : Quiet (loopLAct k n) :=
  notInHandler_quiet.bind fun _ => .get fun _ => by
  split
  · exact fault_quiet
  · exact loopAct_quiet

theorem repeatAct_quiet {m : Nat} : Quiet (repeatAct m) :=
  notInHandler_quiet.bind fun _ => need_quiet.bind fun _ => .get fun _ => getSeq_quiet.bind fun _ => .ite .pure .pure

/-! ## Operands of handles, predicates and vectors -/

theorem readPointer_quiet {r : BitVec 5} : Quiet (readPointer r) :=
  readH_quiet.bind fun _ => checkKind_quiet.bind fun _ => .pure

theorem capsetAct_quiet {hd ha : BitVec 5} {sr : BitVec 6} {exact : Bool} : Quiet (capsetAct hd ha sr exact) :=
  readPointer_quiet.bind fun _ => readS_quiet.bind fun _ => by
  split
  · exact writeH_quiet
  · exact fault_quiet

theorem cappermAct_quiet {hd ha : BitVec 5} {mask : BitVec 8} : Quiet (cappermAct hd ha mask) :=
  readH_quiet.bind fun _ => checkKind_quiet.bind fun _ => checkNear_quiet.bind fun _ => by
  extract_lets -underBinder j
  have hj : ∀ x, Quiet (j x) := fun _ => writeH_quiet
  clear_value j
  exact .ite (nullH_quiet.bind hj) (hj _)

theorem movhAct_quiet {hd ha : BitVec 5} : Quiet (movhAct hd ha) :=
  readH_quiet.bind fun _ => checkKind_quiet.bind fun _ => by
  extract_lets -underBinder j
  have hj : ∀ x, Quiet (j x) := fun _ => writeH_quiet
  clear_value j
  exact .ite (nullH_quiet.bind hj) (hj _)

theorem psetAct_quiet {d c : BitVec 6} {v : Bool} : Quiet (psetAct d c v) :=
  writeP_quiet.bind fun _ => .ite (.get fun _ => pushQ_quiet.bind fun _ => result_quiet) .pure

theorem lanesFor_quiet {masked : BitVec 1} : Quiet (lanesFor masked) := getCore_quiet.bind fun _ => .pure

theorem vecResult_quiet {vd : BitVec 6} {masked : BitVec 1} {lat : Nat} {out : List LaneOut} :
    Quiet (vecResult vd masked lat out) :=
  lanesFor_quiet.bind fun _ => result_quiet.bind fun _ => .ite result_quiet .pure

theorem readV_quiet {r : BitVec 6} : Quiet (readV r) := getCore_quiet.bind fun _ => .pure

theorem topkRanks_quiet {va vb : BitVec 6} {k : Nat} : Quiet (topkRanks va vb k) :=
  readS_quiet.bind fun _ => need_quiet.bind fun _ => readV_quiet.bind fun _ => .pure

theorem vcvtAct_quiet {vd va : BitVec 6} {ty : BitVec 4} {rm : BitVec 3} {sat masked : BitVec 1} {imm : BitVec 8} :
    Quiet (vcvtAct vd va ty rm sat masked imm) :=
  readV_quiet.bind fun _ => lanesFor_quiet.bind fun _ => result_quiet.bind fun _ => .ite result_quiet .pure

theorem mergeAct_quiet {hd ha hb : BitVec 5} : Quiet (mergeAct hd ha hb) :=
  readH_quiet.bind fun _ => readH_quiet.bind fun _ => checkKind_quiet.bind fun _ => checkKind_quiet.bind fun _ =>
  need_quiet.bind fun _ => nullH_quiet.bind fun _ => nullH_quiet.bind fun _ => writeH_quiet

theorem gsetRAct_quiet {ha gr : BitVec 5} {lit : Word96} : Quiet (gsetRAct ha gr lit) :=
  readH_quiet.bind fun _ => checkKind_quiet.bind fun _ => checkPerm_quiet.bind fun _ => checkSpace_quiet.bind fun _ =>
  checkBounds_quiet.bind fun _ => readHbm_quiet

theorem mpushAct_quiet {c : Cond} {va vb : BitVec 6} {ty : BitVec 4} : Quiet (mpushAct c va vb ty) :=
  getCore_quiet.bind fun _ => need_quiet.bind fun _ => readV_quiet.bind fun _ => readV_quiet.bind fun _ => result_quiet

theorem binAct_quiet {lat : Nat} {f : Word64 → Word64 → Word64} {d a b : BitVec 6} : Quiet (binAct lat f d a b) :=
  readS_quiet.bind fun _ => readS_quiet.bind fun _ => writeS_quiet

theorem unAct_quiet {lat : Nat} {f : Word64 → Word64} {d a : BitVec 6} : Quiet (unAct lat f d a) :=
  readS_quiet.bind fun _ => writeS_quiet

theorem terAct_quiet {lat : Nat} {f : Word64 → Word64 → Word64 → Word64} {d a b c : BitVec 6} : Quiet (terAct lat f d a b c) :=
  readS_quiet.bind fun _ => readS_quiet.bind fun _ => readS_quiet.bind fun _ => writeS_quiet

theorem psetPred_quiet {f : Bool → Bool → Bool} {d a b c : BitVec 6} : Quiet (psetPred f d a b c) :=
  readP_quiet.bind fun _ => readP_quiet.bind fun _ => psetAct_quiet

theorem psetCmp_quiet {f : Word64 → Word64 → Bool} {d a b c : BitVec 6} : Quiet (psetCmp f d a b c) :=
  readS_quiet.bind fun _ => readS_quiet.bind fun _ => psetAct_quiet

theorem litAct_quiet {d : BitVec 6} {lit : Word96} : Quiet (litAct d lit) := writeS_quiet.bind fun _ => .pure

theorem sysrAct_quiet {d : BitVec 6} {reg : BitVec 8} : Quiet (sysrAct d reg) := .get fun _ => writeS_quiet

theorem syswAct_quiet {a : BitVec 6} {reg : BitVec 8} : Quiet (syswAct a reg) := readS_quiet.bind fun _ => result_quiet

theorem pbrOAct_quiet {b : BitVec 3} {imm : BitVec 48} : Quiet (pbrOAct b imm) := getSeq_quiet.bind fun _ => pbrAct_quiet

theorem pbrRAct_quiet {b : BitVec 3} {a : BitVec 6} : Quiet (pbrRAct b a) := readS_quiet.bind fun _ => pbrAct_quiet

theorem loopSAct_quiet {counter : Nat} {a : BitVec 6} {n : Nat} : Quiet (loopSAct counter a n) :=
  notInHandler_quiet.bind fun _ => readS_quiet.bind fun _ => loopAct_quiet

theorem repeatSAct_quiet {a : BitVec 6} : Quiet (repeatSAct a) := readS_quiet.bind fun _ => repeatAct_quiet

theorem toksetAct_quiet {t : BitVec 5} {v : BitVec 16} : Quiet (toksetAct t v) := result_quiet

theorem toksetXAct_quiet {d : BitVec 6} {t : BitVec 5} {v : BitVec 16} : Quiet (toksetXAct d t v) :=
  getCore_quiet.bind fun _ => writeS_quiet.bind fun _ => toksetAct_quiet

theorem capoffAct_quiet {f : Cap → Word64 → Word64} {hd ha : BitVec 5} {sr : BitVec 6} : Quiet (capoffAct f hd ha sr) :=
  readPointer_quiet.bind fun _ => readS_quiet.bind fun _ => writeH_quiet

theorem gsetLAct_quiet {gr : BitVec 5} {lit : Word96} : Quiet (gsetLAct gr lit) :=
  .get fun _ => need_quiet.bind fun _ => readHbm_quiet

theorem csetIAct_quiet {d : BitVec 4} {v : BitVec 32} : Quiet (csetIAct d v) := result_quiet

theorem csetSAct_quiet {d : BitVec 4} {a : BitVec 6} : Quiet (csetSAct d a) := readS_quiet.bind fun _ => result_quiet

theorem caddIAct_quiet {d a : BitVec 4} {v : BitVec 32} : Quiet (caddIAct d a v) :=
  getCore_quiet.bind fun _ => result_quiet

theorem caddSAct_quiet {d : BitVec 4} {a : BitVec 6} : Quiet (caddSAct d a) :=
  readS_quiet.bind fun _ => getCore_quiet.bind fun _ => result_quiet

theorem vec2Act_quiet {lat : Nat} {vd va vb : BitVec 6} {ty : BitVec 4} {masked : BitVec 1} {f : Nat → Nat → Nat × Bool} :
    Quiet (vec2Act lat vd va vb ty masked f) :=
  readV_quiet.bind fun _ => readV_quiet.bind fun _ => vecResult_quiet

theorem lane2Act_quiet {lat : Nat} {vd va vb : BitVec 6} {masked : BitVec 1} {f : BitVec 32 → BitVec 32 → BitVec 32} :
    Quiet (lane2Act lat vd va vb masked f) :=
  readV_quiet.bind fun _ => readV_quiet.bind fun _ => vecResult_quiet

theorem fmaAct_quiet {vd va vb vc : BitVec 6} {ty : BitVec 4} {rm : BitVec 3} {sat masked : BitVec 1} {f : XNum → XNum → XNum → XNum} :
    Quiet (fmaAct vd va vb vc ty rm sat masked f) :=
  readV_quiet.bind fun _ => readV_quiet.bind fun _ => readV_quiet.bind fun _ => vecResult_quiet

theorem lutAct_quiet {vd va vb vc : BitVec 6} {masked : BitVec 1} {tbl : BitVec 8} : Quiet (lutAct vd va vb vc masked tbl) :=
  readV_quiet.bind fun _ => readV_quiet.bind fun _ => readV_quiet.bind fun _ => vecResult_quiet

theorem rotAct_quiet {vd va : BitVec 6} {masked : BitVec 1} {n : Nat} : Quiet (rotAct vd va masked n) :=
  readV_quiet.bind fun _ => vecResult_quiet

theorem rotsAct_quiet {vd va : BitVec 6} {masked : BitVec 1} {sr : BitVec 6} : Quiet (rotsAct vd va masked sr) :=
  readS_quiet.bind fun _ => rotAct_quiet

theorem permAct_quiet {vd va vb : BitVec 6} {masked : BitVec 1} : Quiet (permAct vd va vb masked) :=
  readV_quiet.bind fun _ => readV_quiet.bind fun _ => vecResult_quiet

theorem perm2Act_quiet {vd va vb vc : BitVec 6} {masked : BitVec 1} : Quiet (perm2Act vd va vb vc masked) :=
  readV_quiet.bind fun _ => readV_quiet.bind fun _ => readV_quiet.bind fun _ => vecResult_quiet

theorem bcastAct_quiet {vd : BitVec 6} {masked : BitVec 1} {x : BitVec 32} : Quiet (bcastAct vd masked x) := vecResult_quiet

theorem bcastSAct_quiet {vd : BitVec 6} {masked : BitVec 1} {sr : BitVec 6} : Quiet (bcastSAct vd masked sr) :=
  readS_quiet.bind fun _ => bcastAct_quiet

theorem bcastLaneAct_quiet {vd va : BitVec 6} {masked : BitVec 1} {n : Nat} : Quiet (bcastLaneAct vd va masked n) :=
  readV_quiet.bind fun _ => bcastAct_quiet

theorem selBitAct_quiet {vd va vb vc : BitVec 6} {masked : BitVec 1} : Quiet (selBitAct vd va vb vc masked) :=
  readV_quiet.bind fun _ => readV_quiet.bind fun _ => readV_quiet.bind fun _ => vecResult_quiet

theorem selMaskAct_quiet {vd va vb : BitVec 6} : Quiet (selMaskAct vd va vb) :=
  readV_quiet.bind fun _ => readV_quiet.bind fun _ => getCore_quiet.bind fun _ => vecResult_quiet

theorem movsAct_quiet {va sr : BitVec 6} {n : Nat} {pair : Bool} : Quiet (movsAct va sr n pair) :=
  readV_quiet.bind fun _ => getD_quiet.bind fun _ => writeS_quiet

theorem topkValAct_quiet {vd va vb : BitVec 6} {masked : BitVec 1} {k : Nat} : Quiet (topkValAct vd va vb masked k) :=
  topkRanks_quiet.bind fun _ => readV_quiet.bind fun _ => vecResult_quiet

theorem topkIdxAct_quiet {vd va vb sr : BitVec 6} {masked : BitVec 1} {k : Nat} : Quiet (topkIdxAct vd va vb sr masked k) :=
  topkRanks_quiet.bind fun _ => readS_quiet.bind fun _ => vecResult_quiet

theorem redAct_quiet {vd va : BitVec 6} {masked : BitVec 1} {r : Red} : Quiet (redAct vd va masked r) :=
  readV_quiet.bind fun _ => lanesFor_quiet.bind fun _ => vecResult_quiet

theorem minvAct_quiet : Quiet minvAct := getCore_quiet.bind fun _ => result_quiet

theorem mpopAct_quiet : Quiet mpopAct := getCore_quiet.bind fun _ => need_quiet.bind fun _ => result_quiet

theorem mgetMAct_quiet {md : BitVec 3} : Quiet (mgetMAct md) := getCore_quiet.bind fun _ => result_quiet

theorem mgetVAct_quiet {vd : BitVec 6} : Quiet (mgetVAct vd) := getCore_quiet.bind fun _ => vecResult_quiet

theorem msetMAct_quiet {ma : BitVec 3} : Quiet (msetMAct ma) := getCore_quiet.bind fun _ => result_quiet

theorem msetVAct_quiet {va : BitVec 6} : Quiet (msetVAct va) :=
  getCore_quiet.bind fun _ => readV_quiet.bind fun _ => result_quiet

/-! ## The words -/

theorem fall_quiet {body : Act Unit} (h : Quiet body) : Quiet (do body; pure Ctl.fall) := h.bind fun _ => .pure

/-- A word of R128's kind: it issues, and its own work stores nothing. -/
def WritesRegisters (i : Instr) (s : State) : Prop := ∃ n g off body, guardField i = some g ∧ exec i s = issueN n g off body s ∧ Quiet body

theorem writesRegisters_fall {i : Instr} {g : Guard} {off body : Act Unit} {s : State} (hg : guardField i = some g)
    (hi : exec i s = issueFall g off body s) (h : Quiet body) : WritesRegisters i s :=
  ⟨1, g, off, _, hg, hi, fall_quiet h⟩

/-- A word that has issued, and neither faulted nor held, has done its work. -/
theorem issueN_issued {n : Nat} {g : Guard} {off : Act Unit} {body : Act Ctl} {s v t : State} (h : Issuing g s v)
    (hi : issueN n g off body s = .next t) (hn : t.note = .issued) :
    ∃ w, (wordAct n g off body).run v = .ok (none, w) ∧ t = { w with note := .issued } := by
  obtain ⟨hk, hv, hf, -⟩ := h
  simp only [issueN, hk, issueOn, ← hv, hf, Consist.best] at hi
  cases hw : (wordAct n g off body).run v with
  | error e =>
    rw [hw] at hi
    cases e with
    | fault f =>
      cases hi
      cases hn
    | hold c r =>
      cases hi
      cases hn
  | ok r =>
    obtain ⟨o, w⟩ := r
    rw [hw] at hi
    cases o with
    | some f =>
      cases hi
      cases hn
    | none =>
      cases hi
      exact ⟨w, rfl, rfl⟩

/-- The words of these opcodes put their results in flight and store nothing. -/
theorem writesRegisters {i : Instr} {g : Guard} (hg : guardField i = some g) (hop : (opcodeOf (encodeWord i)).toNat ∈ registerOps)
    (s : State) : WritesRegisters i s := by
  cases i with
  | sysr => exact writesRegisters_fall rfl rfl sysrAct_quiet
  | sysw => exact writesRegisters_fall rfl rfl syswAct_quiet
  | saluAdd | saluSub | saluAnd | saluOr | saluXor | saluAndn | saluShl | saluShr | saluSar | saluRol | saluMin | saluMax | saluMinu |
  saluMaxu | saluMul | saluMulh | saluMulhu | saluSeq | saluSne | saluSlt | saluSltu | sdivDiv | sdivDivu | sdivRem | sdivRemu | sfpAdd |
  sfpSub | sfpMul | sfpDiv | sfpMin | sfpMax | sfpEq | sfpLt | sfpLe => exact writesRegisters_fall rfl rfl binAct_quiet
  | saluSel | sfpFma => exact writesRegisters_fall rfl rfl terAct_quiet
  | saluClz | saluCtz | saluPop | saluiAdd | saluiSub | saluiAnd | saluiOr | saluiXor | saluiAndn | saluiShl | saluiShr | saluiSar |
  saluiRol | saluiMin | saluiMax | saluiMinu | saluiMaxu | saluiMul | saluiMulh | saluiMulhu | saluiSeq | saluiSne | saluiSlt | saluiSltu
  | sfpSqrt | sfpCvti | sfpCvtf => exact writesRegisters_fall rfl rfl unAct_quiet
  | psetAnd | psetOr | psetXor | psetAndn => exact writesRegisters_fall rfl rfl psetPred_quiet
  | psetEq | psetNe | psetLt | psetLtu | psetGe | psetGeu => exact writesRegisters_fall rfl rfl psetCmp_quiet
  | lit => exact ⟨_, _, _, _, rfl, rfl, litAct_quiet⟩
  | pbrO => exact writesRegisters_fall rfl rfl pbrOAct_quiet
  | pbrR => exact writesRegisters_fall rfl rfl pbrRAct_quiet
  | loopL => exact ⟨_, _, _, _, rfl, rfl, loopLAct_quiet⟩
  | loopS => exact ⟨_, _, _, _, rfl, rfl, loopSAct_quiet⟩
  | repeatN => exact ⟨_, _, _, _, rfl, rfl, repeatAct_quiet⟩
  | repeatS => exact ⟨_, _, _, _, rfl, rfl, repeatSAct_quiet⟩
  | toksetI => exact writesRegisters_fall rfl rfl toksetAct_quiet
  | toksetX => exact writesRegisters_fall rfl rfl toksetXAct_quiet
  | capsetB | capsetE => exact writesRegisters_fall rfl rfl capsetAct_quiet
  | cappermAnd => exact writesRegisters_fall rfl rfl cappermAct_quiet
  | capoffAdd | capoffSet => exact writesRegisters_fall rfl rfl capoffAct_quiet
  | movhM => exact writesRegisters_fall rfl rfl movhAct_quiet
  | mergeW => exact writesRegisters_fall rfl rfl mergeAct_quiet
  | gsetL => exact ⟨_, _, _, _, rfl, rfl, fall_quiet gsetLAct_quiet⟩
  | gsetR => exact ⟨_, _, _, _, rfl, rfl, fall_quiet gsetRAct_quiet⟩
  | csetI => exact writesRegisters_fall rfl rfl csetIAct_quiet
  | csetS => exact writesRegisters_fall rfl rfl csetSAct_quiet
  | caddI => exact writesRegisters_fall rfl rfl caddIAct_quiet
  | caddS => exact writesRegisters_fall rfl rfl caddSAct_quiet
  | valuAdd | valuSub | valuAnd | valuOr | valuXor | valuAndn | valuShl | valuShr | valuSar | valuMin | valuMax | valuAbs | valuMul |
  valuMulh | vcmpEq | vcmpNe | vcmpLt | vcmpGe | vfunExp | vfunExp2 | vfunLog | vfunLog2 | vfunRcp | vfunSqrt | vfunRsqrt | vfunTanh |
  vfunSigm => exact writesRegisters_fall rfl rfl vec2Act_quiet
  | vfmaFma | vfmaFms | vfmaFnma => exact writesRegisters_fall rfl rfl fmaAct_quiet
  | vcvtCvt => exact writesRegisters_fall rfl rfl vcvtAct_quiet
  | vlt3Lut => exact writesRegisters_fall rfl rfl lutAct_quiet
  | vfshL | vfshR => exact writesRegisters_fall rfl rfl lane2Act_quiet
  | vlrotRot => exact writesRegisters_fall rfl rfl rotAct_quiet
  | vlrotRots => exact writesRegisters_fall rfl rfl rotsAct_quiet
  | vpermIdx => exact writesRegisters_fall rfl rfl permAct_quiet
  | vpermIdx2 => exact writesRegisters_fall rfl rfl perm2Act_quiet
  | vbcastS => exact writesRegisters_fall rfl rfl bcastSAct_quiet
  | vbcastLane => exact writesRegisters_fall rfl rfl bcastLaneAct_quiet
  | vbcastImm => exact writesRegisters_fall rfl rfl bcastAct_quiet
  | vredAdd | vredAnd | vredOr | vredXor | vredMin | vredMax => exact writesRegisters_fall rfl rfl redAct_quiet
  | vtopkVal => exact writesRegisters_fall rfl rfl topkValAct_quiet
  | vtopkIdx => exact writesRegisters_fall rfl rfl topkIdxAct_quiet
  | vmovsLane | vmovsPair => exact writesRegisters_fall rfl rfl movsAct_quiet
  | vselBit => exact writesRegisters_fall rfl rfl selBitAct_quiet
  | vselMask => exact writesRegisters_fall rfl rfl selMaskAct_quiet
  | mpushEq | mpushNe | mpushLt | mpushGe => exact writesRegisters_fall rfl rfl mpushAct_quiet
  | minv => exact writesRegisters_fall rfl rfl minvAct_quiet
  | mpop => exact writesRegisters_fall rfl rfl mpopAct_quiet
  | mgetM => exact writesRegisters_fall rfl rfl mgetMAct_quiet
  | mgetV => exact writesRegisters_fall rfl rfl mgetVAct_quiet
  | msetM => exact writesRegisters_fall rfl rfl msetMAct_quiet
  | msetV => exact writesRegisters_fall rfl rfl msetVAct_quiet
  | nop | halt | trapSw | rft | ovlyN | ovlyS | cardone | dlaunchP | traceTs | traceBr | ldP | ldH | ldCap | stP | stH | stCap | enterF |
  leaveF | brGo | brqT | brqF | brmzSkip | callGo | retGo | signalT | signalS | waitT | waitN | fenceS | retimeAt | waitvEq | waitvNe |
  waitvGe | waitvLt | waitvAny | waitvNone | markQ | sstepS | capgetA | capgetCells | capgetKv | capgetPeer | capgetSys | capgetBase |
  capgetLen | capgetHi | captestTag | captestIn | dupN | dropW | dropB | allocT | allocM | isunqL | isunqX | updT | updM | sealT | tldR |
  tldW | tcopyR | tcopyW | tcopyS | tcopyHi | tcopyHo | gatherK | gatherV | appendKv | claimS | releaseS | mmaT | mdrainT | mzeroT | maccR |
  tstatR | vldMod | vldRow | vldStr | vstMod | vstRow | vstStr | vparkP | vunparkU | astartGo | aloadW | astatRd | astatWait | pamoAdd |
  pamoMin | pamoMax | pamoSwap | pamoCas | pamoCas2 | pamoEnq | pamoChase | pamoRedAdd | pamoRedMin | pamoRedMax | pamoHxch | pldC | pstC |
  bcntP | lsendH | lsendD | lsendV | lsendRld | lsendRst | lsendRadd | lsendRcas | ltakeM | ltakeP | lcalW | lmarkD | lstatRd | shsendT |
  shtakeT | shretOpen | shretT | shretClose | sbputR | sbgetQ | sbgetX | sbtblW | sbcommitG | sbstatRd | sbstatMark =>
    unfold encodeWord at hop
    simp (disch := decide) only [opcode_put, opcode_word] at hop
    exact absurd hop (by decide)
  | _ => cases hg

/-- Settles O55: the work of each word stores nothing, and neither does control's move. -/
theorem registerWordsFrame : Obligations.RegisterWordsFrame := by
  intro i g s v t hg hop hissuing hexec hnote
  obtain ⟨n, g', off, body, hg', hi, hbody⟩ := writesRegisters hg hop s
  obtain rfl : g = g' := Option.some.inj (hg.symm.trans hg')
  obtain ⟨w, hw, rfl⟩ := issueN_issued hissuing (hi.symm.trans hexec) hnote
  have h := wordAct_quiet hbody hissuing.on hw
  exact ⟨h.mem, h.cores, h.cons, h.stores, h.disp, h.sbox, h.tt, h.sys, h.inputs⟩

end Sys2Proof.Laws
end

section
/-! SUPPORT. Taking an exception (R204-R211, R216, R219, R220): which way it goes, the cause word, and the entry into the handlers; and O43
and O44. -/
namespace Sys2Proof.Laws
open Sys2Proof Sys2Proof.Machine Sys2Proof.Claims
-- In order: each thread of an elaboration in parallel reserves its stack, and the text is long.
set_option Elab.async false

/-! ## Which way an exception goes -/

/-- R205, R208, R216, R219: where the cycle finds no other fault, the fault's class and a handler that runs decide. -/
theorem raise_of_no_other {s u : State} {k : Nat} {f : FaultRec} (hu : u = endHold s k)
    (hfaults : ∀ g ∈ ((performDue u k).cons k).faults, g = f) :
    raise s k f =
      if f.cls.prio = 1 then freeze u k f
      else if (u.cons k).trapT.isSome then freeze u k (doubleFault f f.core f.seq)
      else if f.cls = .majorTrans then beginSave u k (some f)
      else trap u k f [] := by
  subst hu
  have hfound : (((performDue (endHold s k) k).cons k).faults.filter fun g => !decide (g = f)) = [] :=
    List.filter_eq_nil_iff.2 fun g hg => by rw [decide_eq_true (hfaults g hg), Bool.not_true]; exact Bool.false_ne_true
  unfold raise
  simp only [hfound, List.filter_nil, Consist.best]

/-! ## Freezing (R219, R220) -/

/-- What each core of a list is set to, in turn. -/
theorem core_foldl_modCoreAt {f : Nat → Core → Core} (hf : ∀ x e, f x (f x e) = f x e) (l : List Nat) (s : State) {x : Nat} (hx : x ∈ l) :
    (l.foldl (fun s c => s.modCoreAt c (f c)) s).core x = f x (s.core x) := by
  have other : ∀ (l : List Nat) (s : State), x ∉ l → (l.foldl (fun s c => s.modCoreAt c (f c)) s).core x = s.core x := by
    intro l
    induction l with
    | nil => exact fun _ _ => rfl
    | cons c l ih =>
      intro s h
      obtain ⟨hc, hl⟩ := not_or.1 (h ∘ List.mem_cons.2)
      exact (ih _ hl).trans (core_setCore_ne _ _ hc)
  induction l generalizing s with
  | nil => cases hx
  | cons c l ih =>
    rw [List.foldl_cons]
    by_cases hl : x ∈ l
    · rw [ih _ hl]
      by_cases hc : x = c
      · subst hc
        rw [State.modCoreAt, core_setCore, hf]
      · rw [State.modCoreAt, core_setCore_ne _ _ hc]
    · obtain rfl : x = c := (List.mem_cons.1 hx).resolve_right hl
      rw [other l _ hl, State.modCoreAt, core_setCore]

/-- A core of a consist that a fault freezes, with its record. -/
def frozenBy (f : FaultRec) (x : Nat) (e : Core) : Core :=
  { e with frozen := some (if x = f.core then ⟨f.cls, f.sub, f.tinfo, f.syll⟩ else ⟨.aborted, 0, 0, f.syll⟩) }

/-- Every core of the consist has its record, the fault's own core the fault's; memory stands. -/
theorem freeze_records (s : State) (k : Nat) (f : FaultRec) :
    ((freeze s k f).cons k).mode = .frozen s.ptc ∧ ((freeze s k f).cons k).faults = [f] ∧ (freeze s k f).mem = s.mem ∧
    ∀ x ∈ (s.cons k).cores, (freeze s k f).core x = frozenBy f x (s.core x) := by
  unfold freeze
  extract_lets c s'
  have hptc : s'.ptc = s.ptc := foldl_keeps (fun s : State => s.ptc) _ (by intros; rfl) _ _
  have hmem : s'.mem = s.mem := foldl_keeps (fun s : State => s.mem) _ (by intros; rfl) _ _
  have hcore : ∀ x ∈ c.cores, s'.core x = frozenBy f x (s.core x) := fun x hx =>
    core_foldl_modCoreAt (f := frozenBy f) (fun _ _ => rfl) c.cores s hx
  clear_value s'
  refine ⟨?_, ?_, hmem, hcore⟩
  · rw [cons_setCons, hptc]
  · rw [cons_setCons]

/-- Settles O44: which way the exception goes (`raise_of_no_other`), and what freezing leaves (`freeze_records`). -/
theorem freezes : Obligations.Freezes := by
  unfold Obligations.Freezes
  rintro s u k f c hu rfl hfaults
  rw [raise_of_no_other hu hfaults]
  refine ⟨fun h => ?violation, fun h htrap => ?handler, fun h htrap => ?major⟩
  case violation =>
    rw [if_pos h]
    exact freeze_records u k f
  case handler =>
    rw [if_neg h, if_pos htrap]
    exact freeze_records u k _
  case major =>
    rw [if_neg (by rw [h]; decide), htrap, if_neg (by decide), if_pos h, beginSave, cons_setCons]
    exact ⟨rfl, rfl, rfl, rfl⟩

/-! ## The cause word (R207) -/

theorem extract_eq_of_toNat {w : Word64} {lo n : Nat} {v : BitVec n} (h : w.toNat / 2 ^ lo % 2 ^ n = v.toNat) : w.extractLsb' lo n = v :=
  BitVec.eq_of_toNat_eq ((toNat_field w lo n).trans h)

theorem getLsbD_eq_of_toNat {w : Word64} {i : Nat} {b : Bool} (h : w.toNat / 2 ^ i % 2 = b.toNat) : w.getLsbD i = b := by
  rw [BitVec.getLsbD, Nat.testBit_eq_decide_div_mod_eq, h]
  cases b <;> rfl

theorem bit_eq_toNat (b : Bool) (n : Nat) : bit b n = b.toNat * 2 ^ n := by
  cases b with
  | false => exact (Nat.zero_mul _).symm
  | true => exact (Nat.one_mul _).symm

theorem code_lt (f : FaultRec) : f.code < 256 := by
  unfold FaultRec.code
  cases f.cls <;> decide

/-- The fields of the cause word lie apart. -/
theorem toNat_causeWord (c : Consist) (f : FaultRec) (core : Nat) (q : SeqId) : (causeWord c f core q).toNat =
    f.code * 2 ^ 56 + f.sub.toNat * 2 ^ 48 + c.pos f.core % 32 * 2 ^ 43 + (f.seq == .xs).toNat * 2 ^ 42 +
      (f.core == core && f.seq == q).toNat * 2 ^ 41 + f.source.toNat * 2 ^ 38 := by
  have hcode := code_lt f
  have hsub := f.sub.isLt
  have hsource := f.source.isLt
  have hxs := Bool.toNat_lt (f.seq == .xs)
  have hown := Bool.toNat_lt (f.core == core && f.seq == q)
  rw [causeWord, bit_eq_toNat, bit_eq_toNat, BitVec.toNat_ofNat]
  omega

theorem causeWord_fields (c : Consist) (f : FaultRec) (core : Nat) (q : SeqId) :
    (causeWord c f core q).extractLsb' 56 8 = BitVec.ofNat 8 f.code ∧ (causeWord c f core q).extractLsb' 48 8 = f.sub ∧
    (causeWord c f core q).extractLsb' 43 5 = BitVec.ofNat 5 (c.pos f.core) ∧ (causeWord c f core q).getLsbD 42 = (f.seq == .xs) ∧
    (causeWord c f core q).getLsbD 41 = (f.core == core && f.seq == q) ∧ (causeWord c f core q).extractLsb' 38 3 = f.source ∧
    (causeWord c f core q).extractLsb' 0 38 = 0 := by
  have hw := toNat_causeWord c f core q
  have hcode := code_lt f
  have hsub := f.sub.isLt
  have hsource := f.source.isLt
  have hxs := Bool.toNat_lt (f.seq == .xs)
  have hown := Bool.toNat_lt (f.core == core && f.seq == q)
  refine ⟨extract_eq_of_toNat ?code, extract_eq_of_toNat ?sub, extract_eq_of_toNat ?position, getLsbD_eq_of_toNat ?xs,
    getLsbD_eq_of_toNat ?own, extract_eq_of_toNat ?source, extract_eq_of_toNat ?low⟩
  case code | position =>
    rw [BitVec.toNat_ofNat]
    omega
  case low =>
    show _ = 0
    omega
  case sub | xs | own | source => omega

/-! ## Entering the handlers (R206-R210) -/

/-- A sequencer that has entered its handler at t. -/
def entered (c : Consist) (f : FaultRec) (t : Nat) (cq : Nat × SeqId) (q : Machine.Seq) : Machine.Seq :=
  { q with tcause := causeWord c f cq.1 cq.2, tinfo := f.tinfo, saved := some q.at_,
           at_ := q.at_.begin (q.tvec.extractLsb' 0 25).toNat t }

section
variable (k : Nat) (f : FaultRec) (t : Nat) (ls : List Latch) (list : List FaultRec) (cq : Nat × SeqId) (acc : State × List Latch)

/-- A frame goes to memory, and leaves the sequencers and consists. -/
theorem seq_enterHandler :
    (enterHandler k f t ls list cq acc).1.seq cq.1 cq.2 = entered (acc.1.cons k) f t cq (acc.1.seq cq.1 cq.2) := by
  unfold enterHandler
  extract_lets s c s1 mine w s2
  have hw : w.1.seq cq.1 cq.2 = s1.seq cq.1 cq.2 := rfl
  rw [seq_modSeqAt, hw, seq_modSeqAt]
  rfl

theorem seq_enterHandler_ne {dr : Nat × SeqId} (h : dr ≠ cq) :
    (enterHandler k f t ls list cq acc).1.seq dr.1 dr.2 = acc.1.seq dr.1 dr.2 := by
  have hne : ¬ (cq.1 = dr.1 ∧ cq.2 = dr.2) := fun e => h (Prod.ext e.1.symm e.2.symm)
  unfold enterHandler
  extract_lets s c s1 mine w s2
  have hw : w.1.seq dr.1 dr.2 = s1.seq dr.1 dr.2 := rfl
  rw [seq_modSeqAt_ite, if_neg hne, hw, seq_modSeqAt_ite, if_neg hne]

theorem consists_enterHandler : (enterHandler k f t ls list cq acc).1.consists = acc.1.consists := rfl

end

/-- Of several sequencers each enters its own handler; the others, and the consists, are left alone. -/
theorem enterHandlers {k : Nat} {f : FaultRec} {t : Nat} {ls : List Latch} {list : List FaultRec} {l : List (Nat × SeqId)} (hl : l.Nodup)
    (acc : State × List Latch) :
    let r := l.foldl (fun acc cq => enterHandler k f t ls list cq acc) acc
    r.1.consists = acc.1.consists ∧
    (∀ cq ∈ l, r.1.seq cq.1 cq.2 = entered (acc.1.cons k) f t cq (acc.1.seq cq.1 cq.2)) ∧
    ∀ cq ∉ l, r.1.seq cq.1 cq.2 = acc.1.seq cq.1 cq.2 := by
  induction l generalizing acc with
  | nil => exact ⟨rfl, fun _ h => absurd h List.not_mem_nil, fun _ _ => rfl⟩
  | cons x xs ih =>
    obtain ⟨hx, hxs⟩ := List.nodup_cons.1 hl
    obtain ⟨hcons, hin, hout⟩ := ih hxs (enterHandler k f t ls list x acc)
    have hkeep : (enterHandler k f t ls list x acc).1.cons k = acc.1.cons k :=
      congrArg (Tbl.get Consist.reset · k) (consists_enterHandler k f t ls list x acc)
    refine ⟨hcons.trans (consists_enterHandler ..), fun cq hcq => ?_, fun cq hcq => ?_⟩
    · rcases List.mem_cons.1 hcq with rfl | hmem
      · exact (hout _ hx).trans (seq_enterHandler ..)
      · have hne : cq ≠ x := fun e => hx (e ▸ hmem)
        exact (hin cq hmem).trans (by rw [hkeep, seq_enterHandler_ne k f t ls list x acc hne])
    · obtain ⟨hne, hnot⟩ := not_or.1 (hcq ∘ List.mem_cons.2)
      exact (hout cq hnot).trans (seq_enterHandler_ne k f t ls list x acc hne)

theorem sequencersOf_lostResult (s : State) (l : Latch) : sequencersOf (lostResult s l) = sequencersOf s := by
  unfold lostResult
  split
  · exact sequencersOf_modCoreAt _ _ fun _ q => by cases q <;> rfl
  · exact sequencersOf_modCoreAt _ _ fun _ q => by cases q <;> rfl
  · rfl

theorem mem_lostResult (s : State) (l : Latch) : (lostResult s l).mem = s.mem := by
  unfold lostResult
  split <;> rfl

/-- Whether a sequencer can take a trap depends on its registers and on memory. -/
theorem handlerOk_of_same {s s' : State} (hseq : sequencersOf s' = sequencersOf s) (hmem : s'.mem = s.mem) (c : Nat) (q : SeqId) :
    handlerOk s' c q = handlerOk s c q := by
  have h : s'.seq c q = s.seq c q := congrFun (congrFun (congrArg Prod.snd hseq) c) q
  rw [handlerOk, handlerOk, h, hmem]

/-- R206-R210: a trap with no shadow fault and every handler in order enters each sequencer's handler at the boundary. -/
theorem trap_enters {u : State} {k : Nat} {f : FaultRec} (hrelist : (u.cons k).relist = [])
    (hshadow : ∀ l ∈ (u.cons k).latches, shadowMinor (u.cons k).ttc l = none) (hcores : (u.cons k).cores.Nodup)
    (hok : ∀ cq ∈ (u.cons k).seqs, handlerOk u cq.1 cq.2 = true) :
    ((trap u k f []).cons k).mode = .run ∧ ((trap u k f []).cons k).trapT = some (u.cons k).ttc ∧
    ((trap u k f []).cons k).ttc = (u.cons k).ttc ∧
    ∀ cq ∈ (u.cons k).seqs, (trap u k f []).seq cq.1 cq.2 = entered (u.cons k) f (u.cons k).ttc cq (u.seq cq.1 cq.2) := by
  unfold trap
  extract_lets c t gone held minors ls list s1 s2 s3 r s4
  have hs1 : sequencersOf s1 = sequencersOf u := foldl_keeps sequencersOf _ sequencersOf_lostResult _ _
  have hs2 : sequencersOf s2 = sequencersOf s1 :=
    foldl_keeps sequencersOf _ (fun s core => sequencersOf_modCoreAt s core fun _ q => by cases q <;> rfl) _ _
  have hm1 : s1.mem = u.mem := foldl_keeps (fun s : State => s.mem) _ mem_lostResult _ _
  have hm2 : s2.mem = s1.mem := foldl_keeps (fun s : State => s.mem) _ (by intros; rfl) _ _
  have hs3 : sequencersOf s3 = sequencersOf s2 := foldl_keeps sequencersOf _ (fun s core => sequencersOf_traceEvent ..) _ _
  have hhandlers : (c.seqs.find? fun cq => !handlerOk s2 cq.1 cq.2) = none := List.find?_eq_none.2 fun cq hcq => by
    rw [handlerOk_of_same (hs2.trans hs1) (hm2.trans hm1), hok cq hcq]
    decide
  have hlist : list = [] := by
    have hminors : minors = [] := List.filterMap_eq_nil_iff.2 hshadow
    have hold : c.relist = [] := hrelist
    rw [show list = (c.relist.map fun e => e.2.2) ++ [] ++ minors from rfl, hold, hminors]
    rfl
  have hroom : (c.seqs.any fun cq => decide (16 < (list.filter fun e => e.core == cq.1 && e.seq == cq.2).length)) = false := by
    rw [hlist]
    exact List.any_eq_false.2 fun _ _ => by rw [List.filter_nil]; exact ne_true_of_eq_false rfl
  obtain ⟨hcons, hin, -⟩ := enterHandlers (k := k) (f := f) (t := t) (ls := ls) (list := list) (nodup_seqs hcores) (s3, [])
  have hsame : sequencersOf s3 = sequencersOf u := hs3.trans (hs2.trans hs1)
  have hk : s3.cons k = c := congrArg (Tbl.get Consist.reset · k) (congrArg Prod.fst hsame)
  have hcons4 : s4.cons k = c := (congrArg (Tbl.get Consist.reset · k) hcons).trans hk
  rw [hhandlers]
  dsimp only
  rw [if_neg (ne_true_of_eq_false hroom), cons_setCons]
  refine ⟨rfl, rfl, (congrArg Consist.ttc hcons4 : (s4.cons k).ttc = _), fun cq hcq => ?_⟩
  have hseq : s3.seq cq.1 cq.2 = u.seq cq.1 cq.2 := congrFun (congrFun (congrArg Prod.snd hsame) cq.1) cq.2
  exact (hin cq hcq).trans (by rw [hk, hseq])

/-- Settles O43: the exception traps (`raise_of_no_other`), each sequencer enters its handler (`trap_enters`), and the cause word has its
fields. -/
theorem trapEntry : Obligations.TrapEntry := by
  unfold Obligations.TrapEntry
  rintro s u k f c hu rfl hprio hmajor htrap hfaults hrelist hshadow hcores hok
  have hraise : raise s k f = trap u k f [] := by
    rw [raise_of_no_other hu hfaults, if_neg hprio, htrap, if_neg (by decide), if_neg hmajor]
  rw [hraise]
  obtain ⟨hmode, htrapT, httc, hseqs⟩ := trap_enters (f := f) hrelist hshadow hcores hok
  exact ⟨hmode, htrapT, httc, fun cq hcq => ⟨causeWord (u.cons k) f cq.1 cq.2, hseqs cq hcq, causeWord_fields ..⟩⟩

end Sys2Proof.Laws
end

section
/-! SUPPORT. How holds end (R47-R52), RETIME (R240), the resumption of a halted consist (R357) and the interrupts (R213), a lemma per event
and case; and O38. -/
namespace Sys2Proof.Laws
open Sys2Proof Sys2Proof.Machine Sys2Proof.Claims
-- In order: each thread of an elaboration in parallel reserves its stack, and the text is long.
set_option Elab.async false

/-! ## Writes to one place -/

/-- Of two writes of a core the later stands. -/
theorem setCore_setCore (s : State) (c : Nat) (k l : Core) : (s.setCore c k).setCore c l = s.setCore c l :=
  congrArg (fun cores => { s with cores }) (set_set_same s.cores c k l)

theorem setCons_setCons (s : State) (n : Nat) (k l : Consist) : (s.setCons n k).setCons n l = s.setCons n l :=
  congrArg (fun consists => { s with consists }) (set_set_same s.consists n k l)

/-! ## Holds -/

section
variable {s : State} {k : Nat} {h : Hold}

/-- R47: the consist runs again. -/
theorem holdRelease_hold (hmode : (s.cons k).mode = .hold h) (hfull : (s.cons k).cores.find? (fun x => traceFull (s.core x)) = none)
    (hnext : (s.cons k).next = none) :
    holdRelease s k = (traceHolds s k h).setCons k { (traceHolds s k h).cons k with mode := .run } := by
  simp only [holdRelease, hmode, hfull, hnext]

/-- R47: a consist that held on the way to a boundary goes on to it. -/
theorem holdRelease_boundary {o t} (hmode : (s.cons k).mode = .hold h)
    (hfull : (s.cons k).cores.find? (fun x => traceFull (s.core x)) = none) (hnext : (s.cons k).next = some (.boundary o t)) :
    holdRelease s k = (traceHolds s k h).setCons k { (traceHolds s k h).cons k with mode := .boundary o t, next := none } := by
  simp only [holdRelease, hmode, hfull, hnext]

/-- A hold at the re-entry from a handler: the consist resumes (R212). -/
theorem holdRelease_reentry (hmode : (s.cons k).mode = .reentry (some h))
    (hfull : (s.cons k).cores.find? (fun x => traceFull (s.core x)) = none) :
    holdRelease s k = resumeRun ((traceHolds s k h).setCons k { (traceHolds s k h).cons k with mode := .run }) k := by
  simp only [holdRelease, hmode, hfull]

/-- R59: a core whose trace buffer is full raises the schedule fault. -/
theorem holdRelease_full {x : Nat} (hmode : (s.cons k).mode = .hold h)
    (hfull : (s.cons k).cores.find? (fun x => traceFull (s.core x)) = some x) :
    ∃ u w : State, holdRelease s k = raise u k (w.schedFault x .as 0x0A) := by
  simp only [holdRelease, hmode, hfull]
  exact ⟨_, _, rfl⟩

end

theorem mem_unask (s : State) (w : Nat × SeqId) : (unask s w).mem = s.mem := by
  unfold unask
  dsimp only
  rw [modSeqAt_mem]
  split
  · exact mem_endExtension _ _
  · rfl

/-- R50: what the hold waited for is lost, memory stands, and the first waiting word raises the schedule fault (log 66). -/
theorem holdLimit_holding {s : State} {k : Nat} {h : Hold} (hh : (s.cons k).holding = some h) {w : Nat × SeqId}
    (hw : w = h.words.headD (h.late.headD (s.cons k).lead, .as)) :
    ∃ u : State, u.mem = s.mem ∧ holdLimit s k = raise u k (u.schedFault w.1 w.2 0x0B) := by
  subst hw
  unfold holdLimit
  extract_lets c watched ids s1 s2
  have h1 : s1.mem = s.mem := mem_loseWatches _ _
  have h2 : s2.mem = s1.mem := foldl_keeps (fun s : State => s.mem) _ (by intros; rfl) _ _
  clear_value s2
  rw [hh]
  dsimp only
  refine ⟨_, ?_, rfl⟩
  refine (foldl_keeps (fun s : State => s.mem) _ mem_unask _ _).trans (Eq.trans ?_ (h2.trans h1))
  exact foldl_keeps (fun s : State => s.mem) _ (by intros; rfl) _ _

/-! ## RETIME and HALT -/

theorem retimeRelease_retime {s : State} {k : Nat} {r : Retime} (hmode : (s.cons k).mode = .retime r) :
    retimeRelease s k = resumeRun ((s.cons k).dies.foldl (fun s d => s.setDie d { s.die d with lag := 0 })
      (if r.notice - r.target = 0 then s else (s.cons k).cores.foldl (fun v x =>
        traceEvent v x 6 0 (r.die * 2 ^ 34 + min (r.notice - r.target) (2 ^ 34 - 1)) (s.cons k).ttc) s)) k := by
  unfold retimeRelease
  dsimp only
  rw [hmode]

theorem retimeSlip_retime {s : State} {k : Nat} {r : Retime} (hmode : (s.cons k).mode = .retime r) :
    retimeSlip s k = raise (s.setCons k { s.cons k with mode := .run }) k
      { FaultRec.zero with cls := .schedule, sub := 0x06, core := r.core, seq := r.seq, syll := r.syll } := by
  unfold retimeSlip
  dsimp only
  rw [hmode]

theorem haltResume_halted {s : State} {k : Nat} (hmode : (s.cons k).mode = .halted) : haltResume s k = resumeRun s k := by
  simp only [haltResume, hmode]

/-! ## Interrupts -/

/-- An interrupt's source, no longer pending at its core. -/
def irqTaken (s : State) (src : BitVec 3) (x : Nat) : State :=
  s.setCore x { s.core x with irq := (s.core x).irq.filter fun p => p.1 != src }

/-- R53: the preemption request saves the consist at its boundary. -/
theorem interruptTaken_preempt {s : State} {k x : Nat} (hnext : irqNext s k = some (1, x)) :
    interruptTaken s k = (irqTaken s 1 x).setCons k { s.cons k with preempt := false, mode := .saving, saveFor := none, next := none } := by
  have hall : (s.cons k).faults.filter (fun g => some g != none) = (s.cons k).faults := List.filter_eq_self.2 fun _ _ => rfl
  unfold interruptTaken
  rw [hnext]
  dsimp only
  rw [if_pos rfl, beginSave, cons_setCons, setCons_setCons]
  exact congrArg (fun l => (irqTaken s 1 x).setCons k { s.cons k with
    preempt := false, mode := .saving, saveFor := none, faults := l, next := none }) hall

theorem interruptTaken_raises {s : State} {k x : Nat} {src : BitVec 3} (hnext : irqNext s k = some (src, x)) (hsrc : src ≠ 1) :
    interruptTaken s k = raise (irqTaken s src x) k { FaultRec.zero with
      cls := .interrupt, core := (s.cons k).lead, seq := .xs, source := src
      syll := BitVec.ofNat 25 ((irqTaken s src x).seq (s.cons k).lead .xs).at_.wordAt } := by
  simp only [interruptTaken, hnext, if_neg hsrc]
  rfl

/-- R213: an interrupt of a source that is pending already changes nothing. -/
theorem raiseIrq_eq (s : State) (x : Nat) (src : BitVec 3) (at_ : Nat) :
    s.raiseIrq x src at_ = if (s.core x).irq.any (fun p => p.1 == src) then s
      else s.setCore x { s.core x with irq := (s.core x).irq ++ [(src, at_)] } := rfl

theorem timerCompare_due {s : State} {x : Nat} (harmed : (s.core x).armed = true) (hdue : (s.core x).timer.toNat ≤ s.ptc) :
    timerCompare s x = s.setCore x { s.core x with armed := false, irq := if (s.core x).irq.any (fun p => p.1 == 0) then (s.core x).irq
      else (s.core x).irq ++ [(0, s.clk)] } := by
  unfold timerCompare
  dsimp only
  rw [if_pos (by rw [harmed, decide_eq_true hdue]; rfl), raiseIrq_eq, core_setCore, setCore_setCore]
  by_cases hpending : (s.core x).irq.any (fun p => p.1 == 0) = true
  · rw [if_pos hpending, if_pos hpending]
  · rw [if_neg hpending, if_neg hpending]

theorem hostNotification_own {s : State} {vf : BitVec 5} {value : BitVec 64} (hcore : (value.extractLsb' 0 8).toNat < 160)
    (hpart : (s.core (value.extractLsb' 0 8).toNat).part = some vf) :
    hostNotification s vf value = s.raiseIrq (value.extractLsb' 0 8).toNat 3 (s.clk + s.dist hDie cDie) := by
  unfold hostNotification
  dsimp only
  rw [hpart, decide_eq_true hcore, beq_self_eq_true, Bool.and_self, if_pos rfl]

theorem hostNotification_refused {s : State} {vf : BitVec 5} {value : BitVec 64}
    (h : 160 ≤ (value.extractLsb' 0 8).toNat ∨ (s.core (value.extractLsb' 0 8).toNat).part ≠ some vf) :
    hostNotification s vf value = s.logErr 4 hDie 4 0x18 vf := by
  unfold hostNotification
  dsimp only
  rw [if_neg]
  · rfl
  · rw [Bool.and_eq_true, decide_eq_true_iff, beq_iff_eq]
    rintro ⟨hcore, hpart⟩
    exact h.elim (fun hle => by omega) fun hne => hne hpart

/-- Settles O38: a lemma for each event and case. -/
theorem holdEvents : Obligations.HoldEvents := by
  unfold Obligations.HoldEvents
  rintro s k c rfl
  refine ⟨fun h hh hfull => ?release, fun h x hmode hfull => ?full, fun h w hh hw => ?limit, fun r hmode => ?retime, fun r hmode => ?slip,
    fun hmode => ?halt, fun src x htake hnext => ?interrupt, ?timer, ?management, ?host⟩
  case release =>
    exact ⟨fun hmode hnext => congrArg Host.Outcome.next (holdRelease_hold hmode hfull hnext),
      fun hmode => congrArg Host.Outcome.next (holdRelease_reentry hmode hfull),
      fun o t hmode hnext => congrArg Host.Outcome.next (holdRelease_boundary hmode hfull hnext)⟩
  case full =>
    obtain ⟨u, w, h⟩ := holdRelease_full hmode hfull
    exact ⟨u, _, congrArg Host.Outcome.next h, rfl, rfl, rfl⟩
  case limit =>
    obtain ⟨u, hmem, h⟩ := holdLimit_holding hh hw
    exact ⟨u, _, congrArg Host.Outcome.next h, hmem, rfl, rfl, rfl, rfl⟩
  case retime => exact congrArg Host.Outcome.next (retimeRelease_retime hmode)
  case slip => exact congrArg Host.Outcome.next (retimeSlip_retime hmode)
  case halt => exact congrArg Host.Outcome.next (haltResume_halted hmode)
  case interrupt =>
    have hexec : exec (.interruptTaken k) s = .next (interruptTaken s k) := congrArg Host.Outcome.next (if_pos htake)
    rw [hexec]
    refine ⟨?_, fun hsrc => congrArg Host.Outcome.next (interruptTaken_raises hnext hsrc)⟩
    rintro rfl
    exact ⟨_, congrArg Host.Outcome.next (interruptTaken_preempt hnext), rfl, rfl, cons_setCons _ _ _⟩
  case timer =>
    rintro x v rfl harmed hdue
    exact congrArg Host.Outcome.next (timerCompare_due harmed hdue)
  case management =>
    rintro x v rfl hx
    exact congrArg Host.Outcome.next ((if_pos hx).trans (raiseIrq_eq ..))
  case host =>
    rintro vf value x v rfl rfl
    exact ⟨fun hcore hpart => congrArg Host.Outcome.next ((hostNotification_own hcore hpart).trans (raiseIrq_eq ..)),
      fun h => congrArg Host.Outcome.next (hostNotification_refused h)⟩

end Sys2Proof.Laws
end

section
/-! SUPPORT. Events at a core's units: engine entries (R40, R199-R201), lines of tile store (R201, R261), walks of the shadow context (R162,
R167, R214), and O36. -/
namespace Sys2Proof.Laws
open Sys2Proof Sys2Proof.Machine Sys2Proof.Claims
-- In order: each thread of an elaboration in parallel reserves its stack, and the text is long.
set_option Elab.async false

/-! ## An entry's work ends -/

section
variable {s w : State} {core q : Nat} {e : EngEntry} {work : Eng WorkEnd} {finish : State → State}

theorem runEntry_done (h : Works work s .done w) : s.runEntry core q e work finish = finish (w.retireEntry core q e) := by
  unfold State.runEntry
  rw [show work.run.run s = _ from h]

theorem runEntry_again (h : Works work s .again w) :
    s.runEntry core q e work finish = w.modCoreAt core fun k => k.modEntry q e.id fun e => { e with done := w.clk + 1 } := by
  unfold State.runEntry
  rw [show work.run.run s = _ from h]

theorem runEntry_stops {x : EngStop} (h : work.run.run s = (.error x, w)) :
    s.runEntry core q e work finish = w.stopEntry core q e x := by
  unfold State.runEntry
  rw [h]

end

section
variable {s : State} {core : Nat} {e : EngEntry} {es : List EngEntry}

theorem engineComplete_copy (hq : (s.core core).queue qCopy = e :: es) (hstarted : e.started = true) :
    engineComplete s core 1 = copyComplete s core e := by
  unfold engineComplete
  rw [if_neg (by decide), show (s.core core).queue 1 = _ from hq]
  dsimp only
  rw [if_neg (by rw [hstarted]; decide), if_pos (by decide)]

theorem engineComplete_link (hq : (s.core core).linkHead = some e) (hstarted : e.started = true) :
    engineComplete s core 3 = linkComplete s core e := by
  unfold engineComplete
  rw [if_pos (by decide), hq]
  exact if_pos hstarted

/-- R280: a commit switches the partition's tables. -/
theorem engineComplete_sbcommit {mask : BitVec 32} (hq : (s.core core).queue qSbox = e :: es) (hstarted : e.started = true)
    (hop : e.op = .sbcommit mask) : engineComplete s core 5 = sbCommit s core e mask := by
  unfold engineComplete
  rw [if_neg (by decide), show (s.core core).queue 5 = _ from hq]
  dsimp only
  rw [if_neg (by rw [hstarted]; decide), if_neg (by decide), hop]

theorem shuttleDelivery_shsend {c b : Cap} {n rx : Nat} {ch : BitVec 4} (hq : (s.core core).queue qShuttle = e :: es)
    (hop : e.op = .shsend c b n rx ch) (hstarted : e.started = true) : shuttleDelivery s core =
      s.runEntry core qShuttle e (shuttleWork (EngCtx.ofEntry core qShuttle e none) c b n) (shuttleFinish core e c b rx ch) := by
  unfold shuttleDelivery
  rw [show (s.core core).queue qShuttle = _ from hq]
  dsimp only
  rw [hop]
  exact if_pos hstarted

theorem engineComplete_shuttle {c b : Cap} {n rx : Nat} {ch : BitVec 4} (hq : (s.core core).queue qShuttle = e :: es)
    (hop : e.op = .shsend c b n rx ch) (hstarted : e.started = true) : engineComplete s core 4 = shuttleDelivery s core := by
  unfold engineComplete
  rw [if_neg (by decide), show (s.core core).queue 4 = _ from hq]
  dsimp only
  rw [if_neg (by rw [hstarted]; decide), if_neg (by decide), hop]

end

/-! ## A line of tile store -/

/-- Consecutive bytes are one run. -/
theorem groupRuns_range' (b : Nat) (f : Nat → Byte) (n s : Nat) :
    groupRuns ((List.range' s (n + 1)).map fun i => (b + i, f i)) = [(b + s, (List.range' s (n + 1)).map f)] := by
  induction n generalizing s with
  | zero => rfl
  | succ n ih =>
    rw [List.range'_succ, List.map_cons, List.map_cons, groupRuns, ih]
    dsimp only
    rw [if_pos (by omega)]

theorem groupRuns_range (b : Nat) (f : Nat → Byte) {n : Nat} (hn : 1 ≤ n) :
    groupRuns ((List.range n).map fun i => (b + i, f i)) = [(b, (List.range n).map f)] := by
  obtain ⟨m, rfl⟩ := Nat.exists_eq_add_of_le' hn
  rw [List.range_eq_range']
  exact groupRuns_range' b f m 0

/-- The bytes of a line from a to b. -/
def linePairs (a b n : Nat) : List (Option Nat × Nat) := (List.range n).map fun i => (some (a + i), b + i)

theorem zip_placesOf (va a vb b n : Nat) : ((placesOf [⟨va, a, n⟩]).map some).zip (placesOf [⟨vb, b, n⟩]) = linePairs a b n := by
  simp [placesOf, linePairs, List.zip_map']

/-- A line with no poison, to dies that are up, is written whole. -/
theorem moveBytes_line {s : State} {a b n : Nat} (hn : 1 ≤ n)
    (h : ∀ i < n, s.mem.poisoned (a + i) = false ∧ s.downAt (b + i) = none) :
    moveBytes s (linePairs a b n) = ({ s with mem := s.mem.write b ((List.range n).map fun i => s.hbmByte (a + i)) }, false) := by
  unfold moveBytes
  extract_lets pairs val bad
  have hpairs : pairs = linePairs a b n := List.filter_eq_self.2 (List.forall_mem_map.2 fun i hi => by
    rw [(h i (List.mem_range.1 hi)).2]
    rfl)
  have hval : pairs.map val = (List.range n).map fun i => (b + i, s.hbmByte (a + i)) := by
    rw [hpairs, linePairs, List.map_map]
    rfl
  have hbad : bad = [] := List.map_eq_nil_iff.2 (List.filter_eq_nil_iff.2 (hpairs ▸ List.forall_mem_map.2 fun i hi => by
    dsimp only
    rw [(h i (List.mem_range.1 hi)).1]
    decide))
  rw [hval, groupRuns_range b _ hn, hbad]
  rfl

/-- A range of tile store on a die that is up. -/
theorem engRange_tile {s : State} (x : EngCtx) {a n c m : Nat} (write : Bool) (hrange : tileRange a n = some (c, m))
    (hup : s.downAt m = none) : Works (engRange x 1 a n write) s [⟨a, m, n⟩] s := by
  unfold engRange
  rw [if_pos rfl, hrange]
  refine (eng_bind (show Works (pure _ : Eng _) s _ s from rfl) _).trans ?_
  refine (eng_bind (eng_get s) _).trans ?_
  dsimp only
  rw [List.filterMap_cons, hup]
  rfl

/-- Work of one line, at the head of its queue (R201). -/
theorem lines_one {s w : State} {x : EngCtx} {n q : Nat} {line : Nat → Nat → Eng Unit} {e : EngEntry} {es : List EngEntry} (h1 : 1 ≤ n)
    (h256 : n ≤ 256) (hq : (s.core x.core).queue q = e :: es) (hwalk : x.walk = .entry q e.id) (hmoved : e.moved = 0)
    (hline : Works (line 0 n) s () w) :
    Works (Eng.lines x n line) s () (w.modCoreAt x.core fun k => k.modEntry q e.id fun e => { e with moved := 256 }) := by
  have hstart : (((s.core x.core).queue q).find? fun y => y.id == e.id).elim 0 EngEntry.moved = 0 := by
    rw [hq, List.find?_cons_of_pos (p := fun y : EngEntry => y.id == e.id) (beq_self_eq_true e.id)]
    exact hmoved
  have hrest : ∀ (fuel : Nat) (u : State), Works (eachLine x n line fuel 256) u () u := by
    intro fuel u
    cases fuel with
    | zero => rfl
    | succ fuel =>
      unfold eachLine
      rw [if_pos h256]
      rfl
  unfold Eng.lines
  refine (eng_bind (eng_get s) _).trans ?_
  dsimp only
  rw [hwalk]
  dsimp only
  rw [hstart]
  unfold eachLine
  rw [if_neg (by omega), Nat.sub_zero, Nat.min_eq_right h256]
  refine (eng_bind hline _).trans ?_
  dsimp only
  rw [hwalk]
  exact (eng_bind (eng_modCore ..) _).trans (hrest _ _)

/-- The work that a copy and a shuttle share: one line from tile store to tile store. -/
theorem copyLine_works {s : State} {x : EngCtx} {src dst : Cap} {n c a c' b q : Nat} {e : EngEntry} {es : List EngEntry} (h1 : 1 ≤ n)
    (h256 : n ≤ 256) (hq : (s.core x.core).queue q = e :: es) (hwalk : x.walk = .entry q e.id) (hmoved : e.moved = 0)
    (hsrc : src.space = 1) (hdst : dst.space = 1) (ha : tileRange src.addr.toNat n = some (c, a))
    (hb : tileRange dst.addr.toNat n = some (c', b)) (hupa : s.downAt a = none) (hupb : s.downAt b = none)
    (h : ∀ i < n, s.mem.poisoned (a + i) = false ∧ s.downAt (b + i) = none) :
    ∃ w, Works (Eng.lines x n fun off m => do
        let a ← engRange x src.space (src.addr.toNat + off) m false
        let b ← engRange x dst.space (dst.addr.toNat + off) m true
        Eng.move dst (((placesOf a).map some).zip (placesOf b))) s () w ∧
      w.mem = s.mem.write b ((List.range n).map fun i => s.hbmByte (a + i)) := by
  have hmove : moveInto s dst (linePairs a b n) = { s with mem := s.mem.write b ((List.range n).map fun i => s.hbmByte (a + i)) } := by
    unfold moveInto
    rw [moveBytes_line h1 h]
    rfl
  refine ⟨_, lines_one (w := { s with mem := s.mem.write b ((List.range n).map fun i => s.hbmByte (a + i)) }) h1 h256 hq hwalk hmoved ?_,
    rfl⟩
  rw [Nat.add_zero, Nat.add_zero, hsrc, hdst]
  refine (eng_bind (engRange_tile x false ha hupa) _).trans ?_
  refine (eng_bind (engRange_tile x true hb hupb) _).trans ?_
  rw [zip_placesOf, Eng.move, ← hmove]
  exact eng_modify _ _

/-! ## Walks of the shadow context (R162, R167, R214) -/

section
variable {s : State} {core : Nat} {w : Walk} {ws : List Walk}

theorem walkFault_leaf {log2 pa r wr dirty entry} (hwalk : s.walk ((s.core core).part.getD 0) w.va = .leaf log2 pa r wr dirty entry)
    (hperm : (if w.write then wr else r) = true) : walkFault s core w.va w.write = none := by
  unfold walkFault
  rw [hwalk]
  exact if_pos hperm

theorem walkAgain_eq (hw : (s.core core).walks = w :: ws) (n : Nat) (cas : Option (Nat × Word64 × TlbEntry)) : walkAgain s core n cas =
    s.setCore core { s.core core with walks := { w with ends := some (s.clk + n), cas := cas } :: ws } := by
  unfold walkAgain State.modCoreAt
  dsimp only
  rw [hw]

theorem walkComplete_fills {log2 pa r wr dirty entry} (hw : (s.core core).walks = w :: ws) (hcas : w.cas = none)
    (hwalk : s.walk ((s.core core).part.getD 0) w.va = .leaf log2 pa r wr dirty entry) (hperm : (if w.write then wr else r) = true)
    (hclean : w.write = false ∨ dirty = true) : walkComplete s core = walkFills s core w (leafEntry w.va log2 pa r wr dirty) := by
  unfold walkComplete
  rw [hw]
  dsimp only
  rw [hcas, walkFault_leaf hwalk hperm, hwalk]
  refine if_neg ?_
  rcases hclean with h | h
  · rw [h, Bool.false_and]
    decide
  · rw [h, Bool.not_true, Bool.and_false]
    decide

/-- A write through an entry that is not dirty swaps in the dirty bit after a delay of its own (log 5). -/
theorem walkComplete_dirties {log2 pa r wr dirty entry} (hw : (s.core core).walks = w :: ws) (hcas : w.cas = none)
    (hwalk : s.walk ((s.core core).part.getD 0) w.va = .leaf log2 pa r wr dirty entry) (hperm : (if w.write then wr else r) = true)
    (hwrite : w.write = true) (hdirty : dirty = false) :
    walkComplete s core =
      walkAgain s.delay.2 core (1 + s.delay.1) (some (entry, s.pte entry, leafEntry w.va log2 pa r wr true)) := by
  unfold walkComplete
  rw [hw]
  dsimp only
  rw [hcas, walkFault_leaf hwalk hperm, hwalk]
  dsimp only
  rw [if_pos (by rw [hwrite, hdirty]; rfl)]
  rfl

theorem walkComplete_faults {bad : FaultClass} (hw : (s.core core).walks = w :: ws) (hcas : w.cas = none)
    (hbad : walkFault s core w.va w.write = some bad) : walkComplete s core =
      serveWalk (dropWalks (s.setCore core { s.core core with walks := ws }) core fun _ => false) core (some bad) w := by
  unfold walkComplete
  rw [hw]
  dsimp only
  rw [hcas, hbad]
  dsimp only
  rw [State.modCoreAt, hw]
  rfl

theorem walkComplete_swap {entry : Nat} {was : Word64} {x : TlbEntry} (hw : (s.core core).walks = w :: ws)
    (hcas : w.cas = some (entry, was, x)) (hsame : s.pte entry = was) : walkComplete s core =
      walkFills { s with mem := s.mem.write64 (hbmAt (s.forward entry)) (was ||| 0x20) } core w x := by
  unfold walkComplete
  rw [hw]
  dsimp only
  rw [hcas]
  dsimp only
  rw [State.casDirty, if_pos hsame]

/-- An entry that has changed meanwhile is walked again. -/
theorem walkComplete_swap_lost {entry : Nat} {was : Word64} {x : TlbEntry} (hw : (s.core core).walks = w :: ws)
    (hcas : w.cas = some (entry, was, x)) (hother : s.pte entry ≠ was) : walkComplete s core =
      s.setCore core { s.core core with walks := { w with ends := some (s.clk + w.len), cas := none } :: ws } := by
  unfold walkComplete
  rw [hw]
  dsimp only
  rw [hcas]
  dsimp only
  rw [State.casDirty, if_neg hother]
  exact walkAgain_eq hw _ _

end

/-! ## Copies and shuttles -/

theorem mem_arriveBarrier_none {s : State} {core : Nat} {e : EngEntry} (h : e.barrier = none) : (s.arriveBarrier core e).mem = s.mem := by
  unfold State.arriveBarrier
  rw [h]

/-- A copy that stamps nothing and arrives at no barrier leaves memory when it is done. -/
theorem mem_copyFinish {s : State} {core : Nat} {e : EngEntry} {src dst : Cap} {n : Nat} (hop : e.op = .copyTile src dst n)
    (hlatches : e.latches = []) (hbarrier : e.barrier = none) : (copyFinish core e s).mem = s.mem := by
  unfold copyFinish State.arriveStamp
  rw [hop, hlatches]
  dsimp only [EngOp.slot?]
  rw [mem_arriveBarrier_none hbarrier]
  split <;> rfl

/-- R201: one line of a copy from tile store to tile store. -/
theorem copyComplete_line {s : State} {core : Nat} {e : EngEntry} {es : List EngEntry} {src dst : Cap} {n c a c' b : Nat}
    (hq : (s.core core).queue qCopy = e :: es) (hop : e.op = .copyTile src dst n) (h1 : 1 ≤ n) (h256 : n ≤ 256) (hmoved : e.moved = 0)
    (hlatches : e.latches = []) (hbarrier : e.barrier = none) (hsrc : src.space = 1) (hdst : dst.space = 1)
    (ha : tileRange src.addr.toNat n = some (c, a)) (hb : tileRange dst.addr.toNat n = some (c', b)) (hupa : s.downAt a = none)
    (hupb : s.downAt b = none) (h : ∀ i < n, s.mem.poisoned (a + i) = false ∧ s.downAt (b + i) = none) :
    (copyComplete s core e).mem = s.mem.write b ((List.range n).map fun i => s.hbmByte (a + i)) := by
  obtain ⟨w, hline, hmem⟩ := copyLine_works (x := EngCtx.copy core e) h1 h256 hq rfl hmoved hsrc hdst ha hb hupa hupb h
  have hwork : Works (copyWork (EngCtx.copy core e) e.latches e.op) s .done w := by
    rw [hop]
    exact (eng_bind hline _).trans rfl
  rw [copyComplete, runEntry_done hwork, mem_copyFinish hop hlatches hbarrier, mem_retireEntry, hmem]

/-- What a shuttle does once its tile has come (R261). -/
theorem mem_shuttleFinish {s : State} {core rx : Nat} {e : EngEntry} {c b : Cap} {ch : BitVec 4} (hbarrier : e.barrier = none) :
    (shuttleFinish core e c b rx ch s).mem = s.mem := by
  unfold shuttleFinish
  dsimp only
  rw [mem_arriveBarrier_none hbarrier]
  split
  · unfold State.modTx State.modRx
    split <;> split <;> rfl
  · rfl

/-- A tile that is sealed changes the home's directory alone. -/
theorem sealEntry_keeps (s : State) (key rows cols fmt : Nat) : (sealEntry s key rows cols fmt).mem = s.mem ∧
    (sealEntry s key rows cols fmt).cores = s.cores ∧ (sealEntry s key rows cols fmt).sys = s.sys ∧
    (sealEntry s key rows cols fmt).stores.kvq = s.stores.kvq := by
  unfold sealEntry
  dsimp only
  split <;> exact ⟨rfl, rfl, rfl, rfl⟩

/-- R261: one line of a shuttle within tile store. -/
theorem shuttleDelivery_line {s : State} {core rx : Nat} {e : EngEntry} {es : List EngEntry} {c b : Cap} {ch : BitVec 4} {n c1 a c2 a' : Nat}
    (hq : (s.core core).queue qShuttle = e :: es) (hop : e.op = .shsend c b n rx ch) (hstarted : e.started = true) (h1 : 1 ≤ n)
    (h256 : n ≤ 256) (hmoved : e.moved = 0) (hbarrier : e.barrier = none) (hc : c.space = 1) (hb : b.space = 1)
    (ha : tileRange c.addr.toNat n = some (c1, a)) (ha' : tileRange b.addr.toNat n = some (c2, a')) (hup : s.downAt a = none)
    (hup' : s.downAt a' = none) (h : ∀ i < n, s.mem.poisoned (a + i) = false ∧ s.downAt (a' + i) = none) :
    (shuttleDelivery s core).mem = s.mem.write a' ((List.range n).map fun i => s.hbmByte (a + i)) := by
  obtain ⟨u, hu⟩ : ∃ u, u = sealEntry s b.key (s.tileEntry c.key).rows (s.tileEntry c.key).cols (s.tileEntry c.key).fmt := ⟨_, rfl⟩
  obtain ⟨hmem, hcores, hsys, hkvq⟩ : u.mem = s.mem ∧ u.cores = s.cores ∧ u.sys = s.sys ∧ u.stores.kvq = s.stores.kvq := hu ▸ sealEntry_keeps ..
  have hcore : u.core core = s.core core := congrArg (Tbl.get Core.reset · core) hcores
  have hdown : ∀ y, u.downAt y = s.downAt y := fun y => by
    unfold State.downAt State.die
    rw [hsys]
  have hbyte : ∀ y, u.hbmByte y = s.hbmByte y := fun y => by
    unfold State.hbmByte
    rw [hmem, hkvq]
  obtain ⟨w, hline, hwmem⟩ := copyLine_works (s := u) (x := EngCtx.ofEntry core qShuttle e none) h1 h256 (hcore ▸ hq) rfl hmoved hc hb ha ha'
    ((hdown _).trans hup) ((hdown _).trans hup') fun i hi => by rw [hmem, hdown]; exact h i hi
  have hwork : Works (shuttleWork (EngCtx.ofEntry core qShuttle e none) c b n) s .done w := by
    refine (eng_bind (eng_modify _ s) _).trans ?_
    dsimp only
    rw [← hu]
    exact (eng_bind hline _).trans rfl
  rw [shuttleDelivery_shsend hq hop hstarted, runEntry_done hwork, mem_shuttleFinish hbarrier, mem_retireEntry, hwmem, hmem]
  simp only [hbyte]

/-! ## Tablets, marks and drains -/

theorem tabletArrival_ready {s : State} {core : Nat} {ch : BitVec 4} {t x c k rest} (ht : s.shTx core ch = some t)
    (hx : s.shRx t.rx t.ch = some x) (hcoming : x.coming = (c, k) :: rest) (hk : k ≤ s.clk) (hout : s.writesOut t.rx c.key = false) :
    tabletArrival s core ch = (s.modRx t.rx t.ch fun y => { y with coming := y.coming.drop 1 }).modTx core ch fun y =>
      { y with tablets := y.tablets ++ [c] } := by
  have hready : tabletReady s t.rx x = some c := by
    unfold tabletReady
    rw [hcoming]
    dsimp only
    rw [decide_eq_true hk, hout]
    rfl
  unfold tabletArrival
  rw [ht]
  dsimp only
  rw [hx, Option.bind_some, hready]

theorem kvDrain_cons {s : State} {stack : Nat} {e es} (hq : s.kvQueue stack = e :: es) : kvDrain s stack = { s with
    mem := e.bytes.foldl (fun m p => m.setBytes (hbmAt p.1) p.2) s.mem
    stores := { s.stores with kvq := Tbl.set s.stores.kvq stack es } } := by
  unfold kvDrain
  rw [hq]

theorem markComplete_found {s : State} {core id : Nat} {m} (hm : (s.core core).marks.find? (fun m => m.id == id) = some m) :
    markComplete s core id =
      (s.setCore core { s.core core with marks := (s.core core).marks.filter fun m => m.id != id }).signalTok core m.token := by
  unfold markComplete
  rw [hm]
  rfl

theorem sstepDrain_out {s : State} {core k : Nat} (hout : sstepOut s core = true) (hk : s.consistOf core = some k) :
    sstepDrain s core = holdFor s k (causeBit 2) [] [core] := by
  unfold sstepDrain
  rw [if_pos hout, hk]

/-- Settles O36: a lemma for each event and case; a line of a copy or a shuttle by `copyLine_works`. -/
theorem unitEvents : Obligations.UnitEvents := by
  unfold Obligations.UnitEvents
  intro s core
  refine ⟨fun e es hq hstarted => ?copy, fun e hq hstarted => ?link, fun e es mask p hq hstarted hop hp => ?commit,
    fun e es c b n rx ch hq hop hstarted => ?shuttle, fun w ws hw hcas => ?walk, fun w ws entry was x hw hcas => ?swap,
    fun stack e es hq => ?drain, fun ch t x c k rest ht hx hcoming hk hout => ?tablet, fun id m hm => ?mark, fun hout => ?drained,
    fun k hout hk => ?hold⟩
  case copy =>
    have hexec : exec (.engineEntryComplete core 1) s = .next (copyComplete s core e) :=
      congrArg Host.Outcome.next (engineComplete_copy hq hstarted)
    rw [hexec]
    refine ⟨fun w h => congrArg Host.Outcome.next (runEntry_done h), fun w h => congrArg Host.Outcome.next (runEntry_again h),
      fun x w h => congrArg Host.Outcome.next (runEntry_stops h), ?_⟩
    intro src dst n c a c' b hop h1 h256 hmoved hlatches hbarrier _ hsrc hdst ha hb hupa hupb h
    exact ⟨_, rfl, copyComplete_line hq hop h1 h256 hmoved hlatches hbarrier hsrc hdst ha hb hupa hupb h⟩
  case link => exact congrArg Host.Outcome.next (engineComplete_link hq hstarted)
  case commit =>
    refine congrArg Host.Outcome.next ((engineComplete_sbcommit hq hstarted hop).trans ?_)
    unfold sbCommit
    rw [hp]
    rfl
  case shuttle =>
    have hrun := shuttleDelivery_shsend hq hop hstarted
    refine ⟨fun w h => ?_, fun x w h => congrArg Host.Outcome.next (hrun.trans (runEntry_stops h)), ?_⟩
    · have hdone := hrun.trans (runEntry_done h)
      have hfinish : ∀ u : State, shuttleFinish core e c b rx ch u = match u.shRx rx ch with
          | some x => ((u.modRx rx ch fun y => { y with fifo := y.fifo ++ [b.withKind kTile c.perms fullWeight 0] }).modTx core x.ch
              fun y => { y with flight := y.flight - 1 }).arriveBarrier core e
          | none => u.arriveBarrier core e := fun u => by
        unfold shuttleFinish
        cases u.shRx rx ch <;> rfl
      exact ⟨congrArg Host.Outcome.next (hdone.trans (hfinish _)),
        congrArg Host.Outcome.next ((engineComplete_shuttle hq hop hstarted).trans (hdone.trans (hfinish _)))⟩
    · intro c1 a c2 a' h1 h256 hmoved _ hbarrier hc hb ha ha' hup hup' h
      exact ⟨_, rfl, shuttleDelivery_line hq hop hstarted h1 h256 hmoved hbarrier hc hb ha ha' hup hup' h⟩
  case walk =>
    refine ⟨fun log2 pa r wr dirty entry hwalk hperm => ⟨fun hclean => ?_, fun hwrite hdirty => ?_⟩, fun bad hbad => ?_⟩
    · exact congrArg Host.Outcome.next (walkComplete_fills hw hcas hwalk hperm hclean)
    · exact congrArg Host.Outcome.next ((walkComplete_dirties hw hcas hwalk hperm hwrite hdirty).trans (walkAgain_eq (s := s.delay.2) hw _ _))
    · exact congrArg Host.Outcome.next (walkComplete_faults hw hcas hbad)
  case swap =>
    exact ⟨fun hsame => congrArg Host.Outcome.next (walkComplete_swap hw hcas hsame),
      fun hother => congrArg Host.Outcome.next (walkComplete_swap_lost hw hcas hother)⟩
  case drain => exact congrArg Host.Outcome.next (kvDrain_cons hq)
  case tablet => exact congrArg Host.Outcome.next (tabletArrival_ready ht hx hcoming hk hout)
  case mark => exact congrArg Host.Outcome.next (markComplete_found hm)
  case drained => exact congrArg Host.Outcome.next (if_neg (ne_true_of_eq_false hout))
  case hold => exact congrArg Host.Outcome.next (sstepDrain_out hout hk)

end Sys2Proof.Laws
end

section
/-! SUPPORT. The dispatcher: launch packets (R25-R31, R316, R317, R348, R349), cars (R32, R35, R36, R53), aborts, saves and restores
(R215-R221), and overlays (R144-R146), a lemma per event and case; and O39. -/
namespace Sys2Proof.Laws
open Sys2Proof Sys2Proof.Machine Sys2Proof.Claims
-- In order: each thread of an elaboration in parallel reserves its stack, and the text is long.
set_option Elab.async false

/-! ## An offer -/

/-- A state whose partition's cores are to be offered, and that differs in nothing else. -/
theorem offer_eq (s : State) (part : BitVec 5) :
    ∃ l : List (BitVec 5), l.contains part = true ∧ s.offer part = { s with disp := { s.disp with offer := l } } := by
  unfold State.offer
  split
  · next h => exact ⟨s.disp.offer, h, rfl⟩
  · exact ⟨s.disp.offer ++ [part], by simp, rfl⟩

@[simp] theorem part_offer (s : State) (p q : BitVec 5) : (s.offer p).part q = s.part q := by
  obtain ⟨l, -, h⟩ := offer_eq s p
  rw [h]
  rfl

/-! ## Launch packets -/

/-- R27, R28: an accepted packet is its partition's youngest train. -/
theorem accepts_acceptTrain (s : State) (p : List Word64) : Accepts s p (acceptTrain s p).1 (acceptTrain s p).2 := by
  unfold Accepts acceptTrain
  extract_lets part pp n num table t disp s1
  obtain ⟨l, hl, h⟩ := offer_eq (s1.setPart part { pp with nextNum := (n + 1) % 2 ^ 15 }) part
  rw [h]
  exact ⟨⟨t, rfl, rfl, rfl, rfl, rfl, rfl, rfl, rfl, rfl, rfl, rfl, rfl, rfl, rfl, rfl, rfl, rfl, rfl⟩, hl, rfl, rfl, rfl⟩

theorem qbase_acceptTrain (s : State) (p : List Word64) (vf : BitVec 5) : ((acceptTrain s p).1.part vf).qbase = (s.part vf).qbase := by
  unfold acceptTrain
  dsimp only
  rw [part_offer]
  by_cases h : vf = pktPart p
  · rw [h, part_setPart]
  · exact congrArg Partition.qbase (get_set_ne _ _ _ fun e => h (BitVec.eq_of_toNat_eq e))

/-- The launch queue once its entry is read: the entry is gone. -/
def launched (s : State) (r : LaunchReq) : State := { s with disp := { s.disp with launches := removeFirst r s.disp.launches } }

/-- The host's queue moves its head past the entry (R317). -/
def headPast (s : State) : Submitter → State
  | .host vf i _ => s.setPart vf { s.part vf with head := (i + 1) % queueSize (s.part vf).qbase }
  | _ => s

/-- A packet is checked, and its submitter is answered with the code, or with its train's number (R30, R31). -/
theorem launchPacket_answers {s u : State} {r0 r : LaunchReq} {code : BitVec 8} (hnext : nextLaunch s = some r0)
    (hread : readLaunch (launched s r0) r0 = r) (hu : u = headPast (launched s r0) r.by_) (hcode : code = launchCode u r.by_ r.packet) :
    (code ≠ 0 → exec .launchPacket s = .next (launchStatus u r.by_ (pktPart r.packet) code 0)) ∧
    (code = 0 → exec .launchPacket s =
      .next (launchStatus (acceptTrain u r.packet).1 r.by_ (pktPart r.packet) 0 (acceptTrain u r.packet).2)) := by
  have hstep : launchPacketStep s = if code = 0 then
      launchStatus (acceptTrain u r.packet).1 r.by_ (pktPart r.packet) 0 (acceptTrain u r.packet).2
      else launchStatus u r.by_ (pktPart r.packet) code 0 := by
    subst hread hcode hu
    unfold launchPacketStep
    rw [hnext]
    rfl
  exact ⟨fun h => congrArg Host.Outcome.next (hstep.trans (if_neg h)), fun h => congrArg Host.Outcome.next (hstep.trans (if_pos h))⟩

theorem refusedStatus (code : BitVec 8) : code.setWidth 64 <<< 56 ||| (0 : BitVec 15).setWidth 64 = code.setWidth 64 <<< 56 := by
  simp

theorem acceptedStatus (num : BitVec 15) : (0 : BitVec 8).setWidth 64 <<< 56 ||| num.setWidth 64 = num.setWidth 64 := by
  simp

/-- R348: a core is answered in the latch of its DLAUNCH. -/
theorem launch_by_core {s u : State} {r : LaunchReq} {core latch : Nat} {code : BitVec 8} (hnext : nextLaunch s = some r)
    (hby : r.by_ = .core core latch) (hu : u = launched s r) (hcode : code = launchCode u r.by_ r.packet) :
    let answer := fun (w : State) (st : Word64) => w.modLatch core latch fun l => { l with eff := l.eff.withWord st, back := some w.clk }
    (code ≠ 0 → exec .launchPacket s = .next (answer u (code.setWidth 64 <<< 56))) ∧
    (code = 0 → ∃ w num, Accepts u r.packet w num ∧ exec .launchPacket s = .next (answer w (num.setWidth 64))) := by
  have hread : readLaunch (launched s r) r = r := by rw [readLaunch, hby]
  obtain ⟨hrefused, haccepted⟩ := launchPacket_answers hnext hread (by rw [hu, hby]; rfl) hcode
  rw [hby] at hrefused haccepted
  refine ⟨fun h => (hrefused h).trans ?_, fun h => ⟨_, _, accepts_acceptTrain u r.packet, (haccepted h).trans ?_⟩⟩
  · rw [launchStatus, refusedStatus]
  · rw [launchStatus, acceptedStatus]

/-- R317: a host is answered in its queue's entry. -/
theorem launch_by_host {s u : State} {r : LaunchReq} {vf : BitVec 5} {i a : Nat} {old : Bool} {p : List Word64} {code : BitVec 8}
    (hnext : nextLaunch s = some r) (hby : r.by_ = .host vf i old) (ha : a = launchEntry s vf i)
    (hp : p = (List.range 16).map fun j => s.mem.read64 (a + 8 * j))
    (hu : u = (launched s r).setPart vf { s.part vf with head := (i + 1) % queueSize (s.part vf).qbase })
    (hcode : code = launchCode u (.host vf i ((s.mem.read64 (a + 0x88)).getLsbD 0)) p) :
    let answer := fun (w : State) (st : Word64) => { w with mem := (w.mem.write64 (a + 0x80) st).write64 (a + 0x88) 1 }
    (code ≠ 0 → exec .launchPacket s = .next (answer u (code.setWidth 64 <<< 56))) ∧
    (code = 0 → ∃ w num, Accepts u p w num ∧ exec .launchPacket s = .next (answer w (num.setWidth 64))) := by
  have hread : readLaunch (launched s r) r = { r with by_ := .host vf i ((s.mem.read64 (a + 0x88)).getLsbD 0), packet := p } := by
    rw [readLaunch, hby, hp, ha]
    rfl
  have hqbase : (u.part vf).qbase = (s.part vf).qbase := by rw [hu, part_setPart]
  obtain ⟨hrefused, haccepted⟩ := launchPacket_answers hnext hread hu hcode
  subst ha
  refine ⟨fun h => (hrefused h).trans ?_, fun h => ⟨_, _, accepts_acceptTrain u p, (haccepted h).trans ?_⟩⟩
  · rw [launchStatus, refusedStatus, hqbase]
    rfl
  · rw [launchStatus, acceptedStatus, qbase_acceptTrain, hqbase]
    rfl

/-- R349: a record whose packet is refused is an exception with the code. -/
theorem launch_by_record {s u : State} {r : LaunchReq} {q : Record} {code : BitVec 8} (hnext : nextLaunch s = some r)
    (hby : r.by_ = .record q) (hu : u = launched s r) (hcode : code = launchCode u r.by_ r.packet) :
    (code ≠ 0 → exec .launchPacket s = .next (u.exception
      { q with f := q.f.set 15 ((q.f.getD 15 0 &&& 0xFFFFFF00) ||| code.setWidth 32) } 6)) ∧
    (code = 0 → ∃ w num, Accepts u r.packet w num ∧ exec .launchPacket s = .next w) := by
  have hread : readLaunch (launched s r) r = r := by rw [readLaunch, hby]
  obtain ⟨hrefused, haccepted⟩ := launchPacket_answers hnext hread (by rw [hu, hby]; rfl) hcode
  rw [hby] at hrefused haccepted
  refine ⟨fun h => (hrefused h).trans ?_, fun h => ⟨_, _, accepts_acceptTrain u r.packet, (haccepted h).trans ?_⟩⟩
  · rw [launchStatus, if_neg h]
  · rw [launchStatus, if_pos rfl]

/-! ## Queues of a virtual function (R316) -/

/-- The entries that a doorbell adds, from the old tail to the new. -/
def rung (s : State) (vf : BitVec 5) (value : BitVec 64) : List LaunchReq :=
  (ringFrom (queueSize (s.part vf).qbase) (value.extractLsb' 0 16).toNat (queueSize (s.part vf).qbase) (s.part vf).tail).map
    fun i => { by_ := .host vf i false, packet := [], at_ := s.clk }

theorem doorbell_accepted {s : State} {vf : BitVec 5} {value : BitVec 64} (hdesc : descEnabled (s.part vf).desc = true)
    (h16 : 16 ≤ queueSize (s.part vf).qbase) (htail : (value.extractLsb' 0 16).toNat < queueSize (s.part vf).qbase) :
    doorbell s vf value = State.setPart { s with disp := { s.disp with launches := s.disp.launches ++ rung s vf value } } vf
      { s.part vf with tail := (value.extractLsb' 0 16).toNat } := by
  refine if_neg ?_
  rw [hdesc, decide_eq_false (Nat.not_lt.2 h16), decide_eq_false (Nat.not_le.2 htail)]
  decide

theorem doorbell_refused {s : State} {vf : BitVec 5} {value : BitVec 64} (h : descEnabled (s.part vf).desc = false ∨
    queueSize (s.part vf).qbase < 16 ∨ queueSize (s.part vf).qbase ≤ (value.extractLsb' 0 16).toNat) :
    doorbell s vf value = s.logErr 4 hDie 4 0 vf := by
  refine if_pos ?_
  rw [Bool.or_eq_true, Bool.or_eq_true, decide_eq_true_iff, decide_eq_true_iff, Bool.not_eq_true']
  exact or_assoc.2 h

/-! ## Offered cores -/

section
variable {s u : State} {part : BitVec 5}

theorem coresOffered_awaited {t cores lane} (hu : u = logMismatch s part) (h : awaitedTrain u part = some (t, cores, lane)) :
    coresOffered s part = formConsist u t cores lane := by
  subst hu
  unfold coresOffered
  dsimp only
  rw [h]
  rfl

theorem coresOffered_chosen {t cores lane} (hu : u = logMismatch s part) (hawaited : awaitedTrain u part = none)
    (h : chooseTrain u part = some (t, cores, lane)) : coresOffered s part = formConsist u t cores lane := by
  subst hu
  unfold coresOffered
  dsimp only
  rw [hawaited, Option.orElse_none, h]

theorem coresOffered_none (hu : u = logMismatch s part) (hawaited : awaitedTrain u part = none) (h : chooseTrain u part = none) :
    coresOffered s part = preemptAll { u with disp := { u.disp with offer := u.disp.offer.filter fun p => p != part } }
      ((readyTrains u part).2.filter u.fits) := by
  subst hu
  unfold coresOffered
  dsimp only
  rw [hawaited, Option.orElse_none, h]

end

/-! ## A car is over (R35, R36) -/

theorem goesOn_iff {u gone : State} {c : Consist} {t : Train} : GoesOn u c t gone ↔
    (c.cores.any (fun x => (u.core x).joins.isSome) || (restorable gone c.part).isSome || !c.cores.all fun x => u.dieOpen (dieOf x)) = false ∧
      ∃ v p, chooseTrain gone c.part = some (v, p) ∧ v.num = t.num := by
  simp only [GoesOn, Bool.or_eq_false_iff, List.any_eq_false, Bool.not_eq_false', List.all_eq_true, Option.isSome_eq_false_iff,
    Option.isNone_iff_eq_none, Bool.not_eq_true]
  constructor
  · rintro ⟨hcores, hnone, hchoose⟩
    exact ⟨⟨⟨fun x hx => (hcores x hx).1, hnone⟩, fun x hx => (hcores x hx).2⟩, hchoose⟩
  · rintro ⟨⟨⟨hjoins, hnone⟩, hopen⟩, hchoose⟩
    exact ⟨fun x hx => ⟨hjoins x hx, hopen x hx⟩, hnone, hchoose⟩

section
variable {s u gone : State} {k : Nat} {c : Consist} {t : Train}

theorem carComplete_last (hc : c = s.cons k) (hends : carEnds s k = (u, none)) (hgone : gone = (dissolve u k).offer c.part) :
    carComplete s k = gone := by
  subst hc hgone
  unfold carComplete
  rw [hends]

theorem carComplete_goes (hc : c = s.cons k) (hends : carEnds s k = (u, some t)) (hgone : gone = (dissolve u k).offer c.part)
    (h : GoesOn u c t gone) : carComplete s k =
      (let r := takeCar (u.offer c.part) t
       startCar (r.1.setCore c.lead { r.1.core c.lead with irq := (r.1.core c.lead).irq.filter fun p => p.1 != 1 }) k t r.2 false) := by
  obtain ⟨hstays, v, p, hchoose, hnum⟩ := goesOn_iff.1 h
  subst hc hgone
  unfold carComplete
  rw [hends]
  dsimp only
  rw [hstays, if_neg (by decide), hchoose]
  exact if_pos hnum

theorem carComplete_gone (hc : c = s.cons k) (hends : carEnds s k = (u, some t)) (hgone : gone = (dissolve u k).offer c.part)
    (h : ¬ GoesOn u c t gone) : carComplete s k = gone := by
  rw [goesOn_iff, not_and] at h
  subst hc hgone
  unfold carComplete
  rw [hends]
  dsimp only
  split
  · rfl
  · next hstays =>
    have hother := h (Bool.eq_false_of_not_eq_true hstays)
    split
    · next v p hchoose => exact if_neg fun hnum => hother ⟨v, p, hchoose, hnum⟩
    · rfl

end

/-! ## Aborts (R219-R221, R357) -/

section
variable {s : State} {k : Nat}

theorem abortTimer_frozen {since : Nat} {f : FaultRec} (hmode : (s.cons k).mode = .frozen since)
    (hf : f = (s.cons k).faults.headD FaultRec.zero) :
    abortTimer s k = abortTrain s (s.cons k).part (s.cons k).train f.code f.sub := by
  subst hf
  unfold abortTimer
  rw [hmode]
  rfl

theorem haltAbort_halted (hmode : (s.cons k).mode = .halted) :
    haltAbort s k = abortTrain s (s.cons k).part (s.cons k).train FaultClass.software.code 0 := by
  unfold haltAbort
  rw [hmode]
  rfl

/-- R221: a frozen consist is saved, its faults forgotten. -/
theorem revive_frozen {since : Nat} (hmode : (s.cons k).mode = .frozen since) :
    (revive s k).cons k = { s.cons k with mode := .saving, faults := [], saveFor := none, next := none } ∧ (revive s k).mem = s.mem := by
  unfold revive
  dsimp only
  rw [hmode]
  dsimp only
  rw [beginSave, cons_setCons, cons_setCons]
  exact ⟨rfl, foldl_keeps (fun s : State => s.mem) _ (by intros; rfl) _ _⟩

/-! ## Saves and restores (R215-R218) -/

/-- The state once a consist is saved and dissolved, its cores offered. -/
def savedAway (s : State) (k : Nat) : State :=
  let c := s.cons k
  let w := (saveFrames s k fun _ => false).1
  let v : Saved := { consist := { c with mode := .run, next := none, lane := none }, image := c.cores.map w.core, major := c.saveFor
                     resumed := false, yields := c.preemptFor, ptc := w.ptc, frames := (saveFrames s k fun _ => false).2
                     mems := c.cores.map fun x => w.mem.part (savedRanges x) }
  let w := c.cores.foldl (fun w x => w.setCore x (savedCore (w.core x))) w
  (dissolve { w with disp := { w.disp with saved := w.disp.saved ++ [v] } } k).offer c.part

theorem majorFaultSave_watched (h : saveWatched s k = true) :
    majorFaultSave s k = s.loseWatches fun r => (s.cons k).cores.contains r.core := if_pos h

theorem majorFaultSave_none (hwatched : saveWatched s k = false) (h : (s.cons k).saveFor = none) :
    majorFaultSave s k = savedAway s k := by
  unfold majorFaultSave
  rw [if_neg (ne_true_of_eq_false hwatched)]
  dsimp only
  rw [h]
  unfold savedAway
  dsimp only
  rw [h]
  rfl

theorem majorFaultSave_some {f : FaultRec} (hwatched : saveWatched s k = false) (h : (s.cons k).saveFor = some f) :
    majorFaultSave s k = giveNotice (savedAway s k) (s.cons k).part (noticeWords (s.cons k) f (savedAway s k).ptc) := by
  unfold majorFaultSave
  rw [if_neg (ne_true_of_eq_false hwatched)]
  dsimp only
  rw [h]
  unfold savedAway
  dsimp only
  rw [h]
  rfl

end

theorem contextRestore_found {s : State} {part : BitVec 5} {train : BitVec 15} {car : BitVec 32} {v : Saved}
    (h : s.disp.saved.find? (fun v => v.consist.part == part && v.consist.train == train && v.consist.car == car && v.restorable s) = some v) :
    contextRestore s part train car = restore s v := by
  unfold contextRestore
  rw [h]

/-- The saved car that a RESUME names. -/
def resumeNames (vf : BitVec 5) (value : BitVec 64) (v : Saved) : Bool :=
  v.consist.part == vf && v.consist.train == value.extractLsb' 32 15 && v.consist.car == value.extractLsb' 0 32 && v.major.isSome

section
variable {s : State} {vf : BitVec 5} {value : BitVec 64} {v : Saved} {f : FaultRec}

theorem resumeCar_refused (h : s.disp.saved.find? (resumeNames vf value) = none) : resumeCar s vf value = s.logErr 4 hDie 4 0x20 vf := by
  unfold resumeCar
  extract_lets train car named
  rw [show s.disp.saved.find? named = none from h]
  rfl

theorem resumeCar_mapped {log2 pa r w d e} (h : s.disp.saved.find? (resumeNames vf value) = some v) (hmajor : v.major = some f)
    (hwalk : s.walk vf f.tinfo.toNat = .leaf log2 pa r w d e) : resumeCar s vf value = State.offer { s with disp := { s.disp with
      saved := s.disp.saved.map fun x => if resumeNames vf value x then { x with resumed := true } else x } } vf := by
  unfold resumeCar
  extract_lets train car named
  rw [show s.disp.saved.find? named = some v from h]
  dsimp only
  rw [hmajor, Option.getD_some, hwalk]
  rfl

/-- A page that is not mapped yet: the host is told once more. -/
theorem resumeCar_unmapped (h : s.disp.saved.find? (resumeNames vf value) = some v) (hmajor : v.major = some f)
    (hwalk : ∀ log2 pa r w d e, s.walk vf f.tinfo.toNat ≠ .leaf log2 pa r w d e) :
    resumeCar s vf value = giveNotice s vf (noticeWords v.consist f v.ptc) := by
  unfold resumeCar
  extract_lets train car named
  rw [show s.disp.saved.find? named = some v from h]
  dsimp only
  rw [hmajor, Option.getD_some]
  split
  · next hleaf => exact absurd hleaf (hwalk _ _ _ _ _ _)
  · rfl

end

theorem pagingCopy_held {s : State} {part : BitVec 5} {n rest} (hheld : (s.part part).held = n :: rest) (hfull : ringFull s part = false) :
    pagingCopy s part = writeNotice (s.setPart part { s.part part with held := rest }) part n := by
  unfold pagingCopy
  dsimp only
  rw [hheld]
  exact if_neg (ne_true_of_eq_false hfull)

/-! ## Overlays (R144-R146) -/

theorem loadOverlay_ok {s t : State} {part : BitVec 5} {n : BitVec 16} {i : OverlayImage} (h : loadSteps s part n i = .ok t) :
    loadOverlay s part n i = t.loaderStatus 0 := by
  unfold loadOverlay
  rw [h]

theorem loadOverlay_error {s : State} {part : BitVec 5} {n : BitVec 16} {i : OverlayImage} {code : BitVec 8}
    (h : loadSteps s part n i = .error code) : loadOverlay s part n i = s.loaderStatus code := by
  unfold loadOverlay
  rw [h]

theorem any_trainsOf_iff {s : State} {part : BitVec 5} {n : BitVec 16} :
    ((s.trainsOf part).any fun t => t.overlay == n) = true ↔ ∃ t ∈ s.disp.trains, t.part = part ∧ t.overlay = n := by
  simp only [State.trainsOf, List.any_eq_true, List.mem_filter, beq_iff_eq, and_assoc]

theorem unloadOverlay_loaded {s : State} {part : BitVec 5} {n : BitVec 16} {o : Overlay} (ho : s.overlay? part n = some o) :
    unloadOverlay s part n = if (s.trainsOf part).any fun t => t.overlay == n then s.loaderStatus 0x0A else (unload s o).loaderStatus 0 := by
  unfold unloadOverlay
  rw [ho]

/-- Settles O39: a lemma for each event and case. -/
theorem dispatcherEvents : Obligations.DispatcherEvents := by
  unfold Obligations.DispatcherEvents
  intro s
  refine ⟨?core, ?host, ?record, ?doorbell, ?base, ?offered, ?car, ?abort, ?halt, ?revive, ?save, ?restore, ?resume, ?paging, ?load, ?unload⟩
  case core => exact fun r core latch u code hnext hby hu hcode => launch_by_core hnext hby hu hcode
  case host => exact fun r vf i old u a p code hnext hby ha hp hu hcode => launch_by_host hnext hby ha hp hu hcode
  case record => exact fun r q u code hnext hby hu hcode => launch_by_record hnext hby hu hcode
  case doorbell =>
    rintro vf value p tail rfl rfl
    exact ⟨fun hdesc h16 htail => ⟨_, congrArg Host.Outcome.next (doorbell_accepted hdesc h16 htail), part_setPart .., rfl⟩,
      fun h => congrArg Host.Outcome.next (doorbell_refused h)⟩
  case base =>
    exact fun vf value => ⟨fun h => congrArg Host.Outcome.next (if_neg (not_not.2 h)), fun h => congrArg Host.Outcome.next (if_pos h)⟩
  case offered =>
    exact fun part u hu => ⟨fun t cores lane h => congrArg Host.Outcome.next (coresOffered_awaited hu h),
      fun t cores lane hawaited h => congrArg Host.Outcome.next (coresOffered_chosen hu hawaited h),
      fun hawaited h => congrArg Host.Outcome.next (coresOffered_none hu hawaited h)⟩
  case car =>
    intro k c u left gone hc hends hgone
    refine ⟨?_, ?_⟩
    · rintro rfl
      exact congrArg Host.Outcome.next (carComplete_last hc hends hgone)
    · rintro t rfl
      exact ⟨fun h => congrArg Host.Outcome.next (carComplete_goes hc hends hgone h),
        fun h => congrArg Host.Outcome.next (carComplete_gone hc hends hgone h)⟩
  case abort => exact fun k since f hmode hf => congrArg Host.Outcome.next (abortTimer_frozen hmode hf)
  case halt => exact fun k hmode => congrArg Host.Outcome.next (haltAbort_halted hmode)
  case revive =>
    intro k since hmode
    obtain ⟨hcons, hmem⟩ := revive_frozen hmode
    exact ⟨_, rfl, hcons, hmem⟩
  case save =>
    rintro k c rfl hmode
    have hexec : exec (.majorFaultSave k) s = .next (majorFaultSave s k) := by
      show Host.Outcome.next (match (s.cons k).mode with | .saving => majorFaultSave s k | _ => s) = _
      rw [hmode]
    rw [hexec]
    refine ⟨fun h => congrArg Host.Outcome.next (majorFaultSave_watched h), fun w frames hwatched hframes => ?_⟩
    obtain ⟨rfl, rfl⟩ := Prod.ext_iff.1 hframes
    exact ⟨fun h => congrArg Host.Outcome.next (majorFaultSave_none hwatched h),
      fun f h => congrArg Host.Outcome.next (majorFaultSave_some hwatched h)⟩
  case restore => exact fun part train car v h => congrArg Host.Outcome.next (contextRestore_found h)
  case resume =>
    intro vf value found named hfound
    refine ⟨?_, ?_⟩
    · rintro rfl
      exact congrArg Host.Outcome.next (resumeCar_refused hfound)
    · rintro v f rfl hmajor
      exact ⟨fun log2 pa r w d e hwalk => congrArg Host.Outcome.next (resumeCar_mapped hfound hmajor hwalk),
        fun hwalk => congrArg Host.Outcome.next (resumeCar_unmapped hfound hmajor hwalk)⟩
  case paging => exact fun part n rest hheld hfull => congrArg Host.Outcome.next (pagingCopy_held hheld hfull)
  case load =>
    exact fun part n i => ⟨fun t h => congrArg Host.Outcome.next (loadOverlay_ok h), fun code h => congrArg Host.Outcome.next (loadOverlay_error h)⟩
  case unload =>
    intro part n o ho
    refine ⟨fun h => congrArg Host.Outcome.next ((unloadOverlay_loaded ho).trans (if_neg ?_)),
      fun h => congrArg Host.Outcome.next ((unloadOverlay_loaded ho).trans (if_pos (any_trainsOf_iff.2 h)))⟩
    rw [any_trainsOf_iff]
    rintro ⟨t, ht, hpart, hoverlay⟩
    exact h t ht hpart hoverlay

end Sys2Proof.Laws
end

section
/-! SUPPORT. What the management cores and the boot ROM do: partitions, storage and dies (R55-R58, R164-R166, R241-R243, R322-R326), clock,
boot, power and heat (R20, R230-R240, R319-R321, R327); and O40. -/
namespace Sys2Proof.Laws
open Sys2Proof Sys2Proof.Machine Sys2Proof.Claims
-- In order: each thread of an elaboration in parallel reserves its stack, and the text is long.
set_option Elab.async false

/-! ## What offers leave alone -/

@[simp] theorem core_offer (s : State) (p : BitVec 5) (c : Nat) : (s.offer p).core c = s.core c := by
  obtain ⟨l, -, h⟩ := offer_eq s p
  rw [h]
  rfl

theorem sys_offers (s : State) (ps : List (BitVec 5)) : (ps.foldl State.offer s).sys = s.sys := by
  refine foldl_keeps (fun s : State => s.sys) _ (fun s p => ?_) ps s
  obtain ⟨l, -, h⟩ := offer_eq s p
  rw [h]

theorem die_of_sys {s t : State} (h : t.sys = s.sys) (d : Nat) : t.die d = s.die d := by
  unfold State.die
  rw [h]

/-! ## Grants (R56, R57) -/

section
variable {s : State} {part : BitVec 5} {g : GrantSet}

theorem settleGrant_granted (htrains : s.trainsOf part = []) (hlaunches : s.disp.launches = []) (hok : grantOk s part g = true) :
    settleGrant s (part, g) = s.setPart part { s.part part with grant := g } := by
  refine if_pos ?_
  dsimp only [engaged]
  rw [htrains, hlaunches, hok]
  rfl

theorem settleGrant_refused (h : s.trainsOf part ≠ [] ∨ grantOk s part g = false) : settleGrant s (part, g) = s.logErr 4 hDie 4 0 part := by
  refine (if_neg ?_).trans rfl
  rw [Bool.and_eq_true, Bool.not_eq_true']
  rintro ⟨hengaged, hok⟩
  rcases h with h | h
  · rw [engaged, Bool.or_eq_false_iff, Bool.not_eq_false', List.isEmpty_iff] at hengaged
    exact h hengaged.1
  · exact Bool.false_ne_true (h.symm.trans hok)

end

/-- R58: no core moves where no partition receives one. -/
theorem serviceEnd_of_no_receiver {s : State} (h : receiver s = none) : serviceEnd s = { s with disp := { s.disp with
    window := s.disp.window + 130000, parts := s.disp.parts.map fun p => (p.1, { p.2 with counted := 0 }) } } := by
  have hmoves : planMoves 4 s = s := by
    unfold planMoves
    rw [h]
  unfold serviceEnd
  rw [hmoves]
  rfl

/-- R58: a scrubbed core has joined its partition, with nothing of what it held. -/
theorem scrubComplete_joins {s : State} {core : Nat} {p : BitVec 5} (h : (s.core core).joins = some p) :
    ∃ t, scrubComplete s core = t ∧
      (t.core core).part = some p ∧ (t.core core).joins = none ∧ (t.core core).scrub = none ∧ (t.core core).slots = [] ∧
      (t.core core).acc = [] ∧ (t.core core).v = [] ∧ (t.core core).spill = [] ∧ (t.core core).npd = 0 ∧ (t.core core).trcctl = 0 ∧
      (t.core core).tlb = [] ∧ (t.core core).walks = [] := by
  refine ⟨_, rfl, ?_⟩
  unfold scrubComplete
  dsimp only
  rw [h]
  dsimp only
  -- The offer of the core that was given back, where there was one, leaves the core alone.
  cases (s.core core).part <;> simp [State.modCoreAt, Core.forget]

/-! ## Storage -/

theorem state_poisonedRelease {s : State} {key : Nat} (hstate : (s.dirEntry key).state = .poisoned) (hkept : (s.dirEntry key).kept = true)
    (htotal : (s.dirEntry key).total = 0) : ((poisonedRelease s key).dirEntry key).state = .free := by
  rw [poisonedRelease, if_pos ⟨hstate, hkept, htotal⟩, dirEntry_setDir]

/-- R165: a granule that no entry holds is poisoned. -/
theorem checkFailure_first {s : State} {a die : Nat} {unit : BitVec 8}
    (h : s.stores.dir.filter (fun e => e.2.holds && entryHolds s e.2 a) = []) : checkFailure s a false die unit =
      ({ s with mem := s.mem.setPoison (a / 16) true } : State).logErr 2 die unit.toNat (BitVec.ofNat 64 (plainAddr a)) (partOfAddr s a) := by
  unfold checkFailure
  dsimp only
  rw [if_neg Bool.false_ne_true, h]
  rfl

/-- R166: an invalidation is noted, and waits for the dies. -/
theorem invalidate_begins {s : State} {part : BitVec 5} {va : Word64} {log2 : Nat} (hnone : s.disp.invalid = none) (h16 : 16 ≤ log2)
    (h52 : log2 ≤ 52) (hva : va.toNat % 2 ^ 16 = 0) :
    ∃ u : State, invalidate s part va log2 = finishInvalid u ∧ u.disp.invalid = some (part, va.toNat, log2) := by
  unfold invalidate
  rw [if_neg (by rw [hnone, decide_eq_false (by omega), decide_eq_false (not_not.2 hva)]; decide)]
  exact ⟨_, rfl, rfl⟩

theorem invalidationAck_first {s : State} {die : Nat} {i} (h : s.disp.invalid = some i) (hacked : s.disp.acked.contains die = false) :
    invalidationAck s die = finishInvalid { s with disp := { s.disp with acked := s.disp.acked ++ [die] } } := by
  unfold invalidationAck
  rw [h]
  dsimp only
  rw [if_neg (ne_true_of_eq_false hacked)]

theorem sys_finishInvalid (s : State) : (finishInvalid s).sys = s.sys := by
  unfold finishInvalid
  split
  · rfl
  · exact ite_keeps (fun s : State => s.sys) rfl rfl

theorem sys_invalidationAck (s : State) (die : Nat) : (invalidationAck s die).sys = s.sys := by
  unfold invalidationAck
  split
  · rw [sys_finishInvalid]
  · rfl

/-- R164: pages of one size, apart, and none of them moving. -/
theorem pageMigration_begins {s : State} {old new log2 : Nat} (hlog2 : log2 ∈ [16, 21, 30, 36]) (hold : old % 2 ^ log2 = 0)
    (hnew : new % 2 ^ log2 = 0) (hne : old ≠ new) (hnone : s.stores.migrations = []) :
    ∃ ms, (pageMigration s old new log2).stores.migrations = ms ++ [⟨old, new, log2, 0, s.clk + 1⟩] := by
  have hsize : log2 = 16 ∨ log2 = 21 ∨ log2 = 30 ∨ log2 = 36 := by simpa using hlog2
  have hplaces : ¬ (old % 2 ^ log2 ≠ 0 ∨ new % 2 ^ log2 ≠ 0 ∨ old = new) := by simp [hold, hnew, hne]
  unfold pageMigration
  dsimp only
  rw [if_neg (by simp [decide_eq_true hsize, decide_eq_false hplaces, hnone])]
  exact ⟨_, rfl⟩

/-- A line is copied, and the next one after a delay of its own (logs 5, 74). -/
theorem lineCopy_moves {s : State} {m : Migration} (h : s.stores.migrations.find? (fun m => m.due s.clk && s.lineFree m) = some m) :
    (lineCopy s).mem = copyLine s (m.old + m.copied) (m.new + m.copied) ∧
    (lineCopy s).stores.migrations = s.stores.migrations.map fun x => if x = m then
      { m with copied := m.copied + 256, at_ := s.clk + 1 + Config.extraDelay s.freeCtr } else x := by
  unfold lineCopy
  rw [h]
  exact ⟨rfl, rfl⟩

/-! ## Dies (R241-R243) -/

theorem state_resetAssert (s : State) (die : Nat) : ((resetAssert s die).die die).state = .reset := by
  unfold resetAssert
  dsimp only
  rw [die_of_sys (sys_invalidationAck ..), die_setDie]

theorem die_resetRelease {s : State} {die : Nat} (h : (s.die die).state = .reset) :
    (resetRelease s die).die die = { s.die die with state := .run, station := s.clk, missed := 0, lag := 0 } := by
  rw [resetRelease, if_pos h, die_of_sys (sys_offers ..), die_setDie]

theorem partitionEvents : PartitionEvents := by
  unfold PartitionEvents
  intro s logged
  refine ⟨?descriptor, ?badDescriptor, ?grant, ?granted, ?refused, ?window, ?scrub, ?paging, ?head, ?release, ?second, ?first, ?invalidation,
    ?ack, ?migration, ?line, ?stopping, ?reset, ?run⟩
  case descriptor => exact fun part d h => congrArg Host.Outcome.next (if_pos h)
  case badDescriptor => exact fun part d h => congrArg Host.Outcome.next (if_neg (ne_true_of_eq_false h))
  case grant => exact fun part g => rfl
  case granted => exact fun part g htrains hlaunches hok => settleGrant_granted htrains hlaunches hok
  case refused => exact fun part g h => settleGrant_refused h
  case window => exact fun h => congrArg Host.Outcome.next (serviceEnd_of_no_receiver h)
  case scrub =>
    intro core p h
    obtain ⟨t, ht, hfields⟩ := scrubComplete_joins h
    exact ⟨t, congrArg Host.Outcome.next ht, hfields⟩
  case paging => exact fun v value => rfl
  case head => exact fun v => rfl
  case release => exact fun key hstate hkept htotal => ⟨_, rfl, state_poisonedRelease hstate hkept htotal⟩
  case second => exact fun a die unit => rfl
  case first => exact fun a die unit h => congrArg Host.Outcome.next (checkFailure_first h)
  case invalidation =>
    intro part va log2 hnone h16 h52 hva
    obtain ⟨u, hu, hinvalid⟩ := invalidate_begins hnone h16 h52 hva
    exact ⟨u, congrArg Host.Outcome.next hu, hinvalid⟩
  case ack => exact fun die i h hacked => congrArg Host.Outcome.next (invalidationAck_first h hacked)
  case migration => exact fun old new log2 hlog2 hold hnew hne hnone => ⟨_, rfl, pageMigration_begins hlog2 hold hnew hne hnone⟩
  case line => exact fun m h => ⟨_, rfl, lineCopy_moves h⟩
  case stopping => exact fun die hdie h => congrArg Host.Outcome.next (if_pos ⟨hdie, h⟩)
  case reset => exact fun die h => ⟨_, congrArg Host.Outcome.next (if_pos h), state_resetAssert s die⟩
  case run =>
    intro die h
    refine ⟨_, rfl, ?_⟩
    rw [die_resetRelease h]
    exact ⟨rfl, rfl, rfl⟩

/-! ## Clock (R20, R230-R240) -/

/-- R20: a change of the operating point is set for the first multiple of 1300 that lies 1300 cycles or more ahead. -/
theorem frequencyRequest_sets {s : State} {p : BitVec 2} (hslack : s.sys.slack = false) (hwanted : ∀ w, s.sys.wanted = some w → w.2.2 = false) :
    frequencyRequest s p = { s with sys := { s.sys with wanted := some (p, (s.ptc + 1300 + 1299) / 1300 * 1300, false) } } := by
  unfold frequencyRequest
  refine if_neg ?_
  rw [hslack, Bool.false_or]
  split
  next p' t b h => exact ne_true_of_eq_false (hwanted _ h)
  next => exact Bool.false_ne_true

theorem stallStart_of_wanted {s : State} {p : BitVec 2} {t : Nat} {b : Bool} (h : s.sys.wanted = some (p, t, b)) :
    stallStart s = { s with sys := { s.sys with wanted := some (p, t, true), stalls := s.sys.stalls ++ [(t, t + 2600)] } } := by
  unfold stallStart
  rw [h]
  rfl

theorem stallEnd_of_begun {s : State} {p : BitVec 2} {at_ : Nat} (h : s.sys.wanted = some (p, at_, true)) :
    (stallEnd s).sys.point = p ∧ (stallEnd s).sys.wanted = none ∧ (stallEnd s).cores = s.cores ∧ (stallEnd s).mem = s.mem := by
  unfold stallEnd
  rw [h]
  exact ⟨rfl, rfl, rfl, rfl⟩

/-! ## Boot (R319-R321) -/

theorem bootRetry_after_second {s : State} {i : BootImage} {t : Nat} (hboot : s.sys.boot = .failed t) (htime : t + 1300000000 ≤ s.ptc) :
    exec (.bootRetry i) s = .next { s with sys := { s.sys with image := i.bytes, boot := .fetched } } := by
  change Host.Outcome.next (match s.sys.boot with | .failed t => if t + retryTime ≤ s.ptc then fetched s i else s | _ => s) = _
  rw [hboot]
  exact congrArg Host.Outcome.next (if_pos htime)

/-- R319, R321: the image that passes is measured into MR0, and the dispatcher starts. -/
theorem imageAccept_passes {s : State} (hboot : s.sys.boot = .fetched) (hok : imageOk s s.sys.image = true) : ∃ t, imageAccept s = t ∧
    t.sys.boot = .done ∧ t.sys.ptc = 0 ∧ t.disp.started = true ∧ t.disp.table = s.sys.fused ∧
    Tbl.get 0 t.sys.mr 0 = sha3_512 (bytes64 (Tbl.get 0 s.sys.mr 0) ++
      bytes64 (sha3_512 (s.sys.image.take (0xA60 + bytesAt s.sys.image 8 8)))) := by
  unfold imageAccept
  rw [if_neg (not_not.2 hboot)]
  dsimp only
  rw [if_pos hok]
  exact ⟨_, rfl, rfl, rfl, rfl, rfl, get_set_same _ _ _ _⟩

theorem imageAccept_fails {s : State} (hboot : s.sys.boot = .fetched) (hbad : imageOk s s.sys.image = false) :
    imageAccept s = { s with sys := { s.sys with image := [], failures := s.sys.failures + 1, boot := .failed s.ptc } } := by
  unfold imageAccept
  rw [if_neg (not_not.2 hboot)]
  exact if_neg (ne_true_of_eq_false hbad)

/-! ## Power and heat (R232, R327) -/

theorem power_powerState {s : State} {die : Nat} {st : BitVec 2}
    (hidle : s.consists.any (fun e => e.2.cores.any fun x => dieOf x == die) = false) :
    ((powerState s die st).die die).power = st := by
  unfold powerState offerAll
  dsimp only
  rw [hidle, if_neg (fun h => Bool.false_ne_true h.2), die_of_sys (sys_offers ..), die_setDie]

theorem temp_heatDie (s : State) (p : Nat × Int) (d : Nat) : ((heatDie s p).die d).temp = if d = p.1 then p.2 else (s.die d).temp := by
  unfold heatDie State.die State.setDie
  dsimp only
  by_cases h : d = p.1
  · rw [if_pos h, h, get_set_same]
  · rw [if_neg h, get_set_ne _ _ _ h]

/-- A die that is cold stays so through samples that are. -/
theorem heatDies_keep_cold {l : List (Nat × Int)} (hl : ∀ p ∈ l, p.2 < 105) {s : State} {d : Nat} (hd : (s.die d).temp < 105) :
    ((l.foldl heatDie s).die d).temp < 105 := by
  induction l generalizing s with
  | nil => exact hd
  | cons p ps ih =>
    refine ih (fun q hq => hl q (List.mem_cons_of_mem _ hq)) ?_
    rw [temp_heatDie]
    split
    · exact hl p List.mem_cons_self
    · exact hd

/-- Every die that a list of cold samples names is cold after them. -/
theorem heatDies_cold {l : List (Nat × Int)} (hl : ∀ p ∈ l, p.2 < 105) (s : State) {d : Nat} (hd : d ∈ l.map Prod.fst) :
    ((l.foldl heatDie s).die d).temp < 105 := by
  induction l generalizing s with
  | nil => cases hd
  | cons p ps ih =>
    have hps : ∀ q ∈ ps, q.2 < 105 := fun q hq => hl q (List.mem_cons_of_mem _ hq)
    rcases List.mem_cons.1 hd with hd | hd
    · refine heatDies_keep_cold hps ?_
      rw [temp_heatDie, if_pos hd]
      exact hl p List.mem_cons_self
    · exact ih hps _ hd

/-- R327: samples below 105 °C neither lower the operating point nor put a die in reset. -/
theorem temperatureSample_of_cold {s : State} {temps : List (Nat × Int)} (h : ∀ p ∈ temps, p.2 < 105) : temperatureSample s temps =
    coolStep (temps.foldl heatDie { s with sys := { s.sys with tempAt := s.sys.tempAt + 1300000 } }) := by
  have hnone : ∀ n : Int, 105 ≤ n → ((temps.map Prod.fst).filter fun d => decide (d < 34)).filter (fun d => decide (n ≤
      ((temps.foldl heatDie { s with sys := { s.sys with tempAt := s.sys.tempAt + sampleTime } }).die d).temp)) = [] := by
    intro n hn
    rw [List.filter_eq_nil_iff]
    intro d hd
    rw [decide_eq_true_eq, not_le]
    exact (heatDies_cold h _ (List.mem_filter.1 hd).1).trans_le hn
  have hstep (u : State) : heatStep u [] = u := if_pos rfl
  unfold temperatureSample
  dsimp only
  rw [hnone 105 (by decide), hstep, hnone 115 (by decide)]
  rfl

theorem moduleEvents : ModuleEvents := by
  unfold ModuleEvents
  intro s
  refine ⟨rfl, rfl, ?request, ?stallStart, ?stallEnd, ?slip, ?on, ?retry, ?passes, ?fails, ?extend, ?quote, ?power, ?sample⟩
  case request =>
    intro p hslack hwanted
    exact ⟨_, congrArg Host.Outcome.next (frequencyRequest_sets hslack hwanted), by omega, by omega, by omega⟩
  case stallStart => exact fun p t b h => congrArg Host.Outcome.next (stallStart_of_wanted h)
  case stallEnd => exact fun p at_ h => ⟨_, rfl, stallEnd_of_begun h⟩
  case slip =>
    rintro die lag _ _ rfl rfl
    rfl
  case on => exact fun i h => congrArg Host.Outcome.next (if_pos h)
  case retry => exact fun i t hboot htime => bootRetry_after_second hboot htime
  case passes =>
    intro hboot hok
    obtain ⟨t, ht, hfields⟩ := imageAccept_passes hboot hok
    exact ⟨t, congrArg Host.Outcome.next ht, hfields⟩
  case fails => exact fun hboot hbad => congrArg Host.Outcome.next (imageAccept_fails hboot hbad)
  case extend => exact fun r d h => congrArg Host.Outcome.next (if_neg h)
  case quote => exact fun n => rfl
  case power => exact fun die st hidle => ⟨_, rfl, power_powerState hidle⟩
  case sample => exact fun temps h => congrArg Host.Outcome.next (temperatureSample_of_cold h)

/-- Settles O40: each event is one equation of the function that runs it, under the branch conditions that the statement gives. -/
theorem managementEvents : Obligations.ManagementEvents := ⟨partitionEvents, moduleEvents⟩

end Sys2Proof.Laws
end
